-- ==== Sys2Proof/Word.lean ====
section
/-! DEFINITION. The word types of the machine and the plainest operations on them: a bit range, a
byte of a little-endian value, sign extension of an integer field. -/

namespace Sys2Proof

/-- A doubleword: a general register, a control register, an address. -/
abbrev Word := BitVec 64
/-- One byte of memory. -/
abbrev Byte := BitVec 8
/-- One instruction word (R41). -/
abbrev HalfWord := BitVec 16
/-- A 64-byte record: a strand, a trap record, a descriptor. -/
abbrev Record := BitVec 512

/-- `bitsOf x hi lo` is x[hi:lo] as an unsigned number (Table 1.6). -/
def bitsOf {w : Nat} (x : BitVec w) (hi lo : Nat) : Nat := x.toNat / 2 ^ lo % 2 ^ (hi + 1 - lo)

/-- Bit i of x, as a Bool. -/
def bitOf {w : Nat} (x : BitVec w) (i : Nat) : Bool := x.toNat / 2 ^ i % 2 == 1

/-- The same on a plain number. -/
def natBits (x hi lo : Nat) : Nat := x / 2 ^ lo % 2 ^ (hi + 1 - lo)

/-- x with bits [hi:lo] replaced by the low bits of v. -/
def putBits {w : Nat} (x : BitVec w) (hi lo v : Nat) : BitVec w :=
  BitVec.ofNat w (x.toNat - x.toNat / 2 ^ lo % 2 ^ (hi + 1 - lo) * 2 ^ lo
    + v % 2 ^ (hi + 1 - lo) * 2 ^ lo)

/-- SignExt(x, n) of Table 1.6, on a number below 2^n. -/
def signExtNat (x n : Nat) : Int :=
  if x % 2 ^ n < 2 ^ (n - 1) then (x % 2 ^ n : Nat) else ((x % 2 ^ n : Nat) : Int) - 2 ^ n

/-- An integer modulo 2^64. -/
def wordOfInt (i : Int) : Word := BitVec.ofInt 64 i

/-- Byte k of a little-endian value. -/
def byteAt (x k : Nat) : Byte := BitVec.ofNat 8 (x / 2 ^ (8 * k))

/-- The n low bytes of x, lowest first. -/
def leBytes : Nat → Nat → List Byte
  | 0, _ => []
  | n + 1, x => BitVec.ofNat 8 x :: leBytes n (x / 256)

/-- The number that little-endian bytes spell. -/
def leNat : List Byte → Nat
  | [] => 0
  | b :: bs => b.toNat + 256 * leNat bs

/-- Doubleword k of a record. -/
def dword {w : Nat} (r : BitVec w) (k : Nat) : Word := BitVec.ofNat 64 (r.toNat / 2 ^ (64 * k))

/-- A record from its doublewords, lowest first. -/
def ofDwords (w : Nat) (ds : List Word) : BitVec w :=
  BitVec.ofNat w (ds.foldr (fun d acc => d.toNat + 2 ^ 64 * acc) 0)

end Sys2Proof
end

