-- ==== Sys2Proof/Config.lean ====
section
/-! DEFINITION. What an implementation fixes and what the spec leaves open: constants without a body,
so that nothing can be proved about their values. -/

namespace Sys2Proof.Config

/-- The choices the spec leaves open (log 10): a fresh value for each count of State.free. -/
opaque freeWord : Nat → Word
/-- The slice of the shared cache where a line is homed, by the number of its core's site: the spec does not give the
map (log 69). -/
opaque homeSlice : Nat → Nat
/-- SBM off (R98): whether an undersized read gives the old value. -/
opaque staleRead : Nat → Bool
/-- R270: how many half-sweeps or residual passes end before a trap stops a running BAL. -/
opaque irisStop : Nat → Nat
/-- R105: whether the host answers an AtomicOp with Unsupported Request or Completer Abort. -/
opaque hostRefusesAtomic : Nat → Bool

/-- The fuse ROM (R2, R93): the enabled sites, the stepping, the contract revision met. -/
opaque siteEnabled : Nat → Bool
opaque fuseStep : Byte
opaque fuseRev : Byte
/-- The monitor's version word of MVER (R279). -/
opaque monitorVersion : Word

/-- SHAKE256 with 64 bytes of output (R292), and measurement blocks 1 to 3. -/
opaque shake256 : List Byte → Record
opaque block1 : Record
opaque block2 : Record
opaque block3 : Record
/-- Whether a monitor hart's copy of the image matches block 2 (R305). -/
opaque monitorDigestOk : Nat → Bool
/-- AES-256-GCM under a 32-byte key (R289): whether an envelope's tag verifies, and the bytes of its plaintext. -/
opaque gcmVerifies : List Byte → List Byte → Bool
opaque gcmByte : List Byte → List Byte → Nat → Byte
/-- Certificates, signatures and key shares of the SPDM responder (R291). -/
opaque certificate : Nat → List Byte
opaque signature : List Byte → List Byte
opaque keyShare : List Byte → List Byte
/-- The digest of a certificate slot's chain. -/
opaque certDigest : Nat → List Byte
/-- The vendor identifier of the PCI configuration header (R298). -/
opaque vendorId : Nat
/-- Where the region of wrapped keys begins in HBM4E (R290). -/
opaque blobBase : Nat
/-- The code of an event class in the event ring (R310). -/
opaque eventCode : Nat → Nat
/-- The firmware's images for boot (R305): the node and the parent of each entry of the boot tree. -/
opaque bootNode : Nat → Nat
opaque bootParent : Nat → Nat
/-- Self-tests and the reading of the fuses, by power-on (R304, R309). -/
opaque selfTestOk : Nat → Nat → Bool
opaque fuseReadOk : Nat → Bool
/-- Whether a requester's FINISH verifies (DSP0274). -/
opaque finishOk : List Byte → Bool

end Sys2Proof.Config
end

