-- ==== Sys2Proof/Machine/Num.lean ====
section
/-! DEFINITION. Exact numbers and their rounding into the number formats (R163 to R175): decoding a
code, the three roundings, the sticky flags, and the arithmetic rules of R173. -/

namespace Sys2Proof.Machine

/-- An exact value: not a number, an infinity, or a magnitude with a sign (a zero keeps its sign). -/
inductive Num where
  | nan
  | inf (neg : Bool)
  | fin (neg : Bool) (mag : Rat)
deriving DecidableEq, Repr

/-- A number format (Table 10.1, R164): the fields of a format entry, and the container width. -/
structure Fmt where
  sign : Nat
  exp : Nat
  man : Nat
  bias : Nat
  spec : Nat
  scale : Nat := 0
  sj : Nat := 0
  blk : Nat := 16
  along : Nat := 0
  cw : Nat
deriving DecidableEq, Repr

def Fmt.width (f : Fmt) : Nat := f.sign + f.exp + f.man

def bf16 : Fmt := { sign := 1, exp := 8, man := 7, bias := 127, spec := 0, cw := 16 }
def fp16 : Fmt := { sign := 1, exp := 5, man := 10, bias := 15, spec := 0, cw := 16 }
def fp32 : Fmt := { sign := 1, exp := 8, man := 23, bias := 127, spec := 0, cw := 32 }
def int16 : Fmt := { sign := 1, exp := 0, man := 15, bias := 0, spec := 1, cw := 16 }
def int32 : Fmt := { sign := 1, exp := 0, man := 31, bias := 0, spec := 1, cw := 32 }
def int64 : Fmt := { sign := 1, exp := 0, man := 63, bias := 0, spec := 1, cw := 64 }

/-- The rounding modes; stochastic rounding takes 16 random bits (R169, R170). -/
inductive Rm where
  | rne | rtz | sr (rb : Nat)
deriving DecidableEq, Repr

/-! The flags of Table 10.4, as a number whose bits are those of VTYPE.FLAGS. -/
def fINV : Nat := 1
def fDZ : Nat := 2
def fOVF : Nat := 4
def fUNF : Nat := 8
def fINX : Nat := 16
def fQINF : Nat := 32
def fQSAT : Nat := 64

/-- 2^e as a rational. -/
def pow2 (e : Int) : Rat :=
  match e with
  | .ofNat n => ((2 ^ n : Nat) : Rat)
  | .negSucc n => mkRat 1 (2 ^ (n + 1))

/-- Floor(Log2(q)) of a positive rational. -/
def log2Floor (q : Rat) : Int :=
  let e : Int := (Nat.log2 q.num.natAbs : Int) - Nat.log2 q.den
  if q < pow2 e then e - 1 else if pow2 (e + 1) ≤ q then e + 1 else e

def Num.neg : Num → Num
  | .nan => .nan
  | .inf s => .inf (!s)
  | .fin s m => .fin (!s) m

def Num.abs : Num → Num
  | .nan => .nan
  | .inf _ => .inf false
  | .fin _ m => .fin false m

/-- The number with its sign, as a rational (finite values). -/
def Num.toRat : Num → Rat
  | .fin true m => -m
  | .fin false m => m
  | _ => 0

def Num.ofRat (q : Rat) : Num := .fin (decide (q < 0)) (if q < 0 then -q else q)
def Num.zero : Num := .fin false 0
def Num.isNan : Num → Bool
  | .nan => true
  | _ => false
def Num.isZero : Num → Bool
  | .fin _ m => m == 0
  | _ => false
def Num.isInf : Num → Bool
  | .inf _ => true
  | _ => false
def Num.signBit : Num → Bool
  | .nan => false
  | .inf s => s
  | .fin s _ => s

/-- Decode (R168). -/
def decodeNum (f : Fmt) (code : Nat) : Num :=
  let w := f.width
  let c := code % 2 ^ w
  if f.exp = 0 then
    let k : Int := if f.sign = 1 then signExtNat c w else c
    Num.ofRat ((k : Rat) * pow2 (-f.bias))
  else
    let s := f.sign = 1 && c / 2 ^ (w - 1) % 2 == 1
    let e := c / 2 ^ f.man % 2 ^ f.exp
    let m := c % 2 ^ f.man
    let top := 2 ^ f.exp - 1
    if f.spec = 0 && e == top then if m = 0 then .inf s else .nan
    else if f.spec = 2 && e == top && m == 2 ^ f.man - 1 then .nan
    else if e = 0 then .fin s ((m : Rat) * pow2 (1 - (f.bias : Int) - f.man))
    else .fin s (((2 ^ f.man + m : Nat) : Rat) * pow2 ((e : Int) - f.bias - f.man))

/-- MaxF (R169). -/
def maxF (f : Fmt) : Rat :=
  if f.exp = 0 then ((2 ^ (f.width - f.sign) - 1 : Nat) : Rat) * pow2 (-f.bias)
  else if f.spec = 0 then
    ((2 ^ (f.man + 1) - 1 : Nat) : Rat) * pow2 ((2 : Int) ^ f.exp - 2 - f.bias - f.man)
  else if f.spec = 2 then
    ((2 ^ (f.man + 1) - 2 : Nat) : Rat) * pow2 ((2 : Int) ^ f.exp - 1 - f.bias - f.man)
  else ((2 ^ (f.man + 1) - 1 : Nat) : Rat) * pow2 ((2 : Int) ^ f.exp - 1 - f.bias - f.man)

/-- RoundMag: the multiple count and the flags (R169). -/
def roundMag (a q : Rat) (mode : Rm) : Nat × Nat :=
  let k := (a / q).floor.toNat
  let r := a - k * q
  let fl := if r > 0 then fINX else 0
  match mode with
  | .rne => if 2 * r > q || (2 * r == q && k % 2 == 1) then (k + 1, fl) else (k, fl)
  | .rtz => (k, fl)
  | .sr rb => if (rb : Int) < (r * 65536 / q).floor then (k + 1, fl) else (k, fl)

/-- The canonical NaN codes of Table 10.3, with the flag. -/
def nanCode (f : Fmt) : Nat × Nat :=
  if f.exp = 0 then (0, fINV)
  else if f.spec = 0 then ((2 ^ f.exp - 1) * 2 ^ f.man + 2 ^ (f.man - 1), 0)
  else if f.spec = 2 then (2 ^ (f.exp + f.man) - 1, 0)
  else (0, fINV)

/-- Pack a finite magnitude v of the format, with its sign (R169). -/
def packMag (f : Fmt) (s : Bool) (v : Rat) : Nat :=
  let sb := if f.sign = 1 && s then 2 ^ (f.exp + f.man) else 0
  let lo : Int := 1 - (f.bias : Int)
  if v = 0 then sb
  else
    let e := log2Floor v
    if e < lo then sb + (v / pow2 (lo - f.man)).floor.toNat
    else sb + (e + f.bias).toNat * 2 ^ f.man + ((v / pow2 (e - f.man)).floor.toNat - 2 ^ f.man)

def packInf (f : Fmt) (s : Bool) : Nat :=
  (if f.sign = 1 && s then 2 ^ (f.exp + f.man) else 0) + (2 ^ f.exp - 1) * 2 ^ f.man

/-- RoundF (R169): code and flags. -/
def roundF (f : Fmt) (mode : Rm) (x : Num) : Nat × Nat :=
  match x with
  | .nan => nanCode f
  | .inf s =>
    if f.sign = 0 && s then (0, fINV)
    else if f.spec = 0 then (packInf f s, 0) else (packMag f s (maxF f), fOVF)
  | .fin s a =>
    if f.sign = 0 && s then (0, if a = 0 then 0 else fINV)
    else if a = 0 then (packMag f s 0, 0)
    else
      let lo : Int := 1 - (f.bias : Int)
      let q := pow2 (max (log2Floor a) lo - f.man)
      let (k, fl) := roundMag a q mode
      let v := k * q
      if v > maxF f then
        if f.spec = 0 && mode != .rtz then (packInf f s, fl ||| fOVF ||| fINX)
        else (packMag f s (maxF f), fl ||| fOVF ||| fINX)
      else (packMag f s v, if v ≠ a && v < pow2 lo then fl ||| fUNF else fl)

/-- RoundX (R169): code and flags. -/
def roundX (f : Fmt) (mode : Rm) (x : Num) : Nat × Nat :=
  let w := f.width
  let lo : Int := if f.sign = 1 then -(2 ^ (w - 1)) else 0
  let hi : Int := if f.sign = 1 then 2 ^ (w - 1) - 1 else 2 ^ w - 1
  let code (k : Int) : Nat := (k % 2 ^ w).toNat
  match x with
  | .nan => (0, fINV)
  | .inf s => (if s then code lo else code hi, fINV)
  | .fin s a =>
    if f.sign = 0 && s && a != 0 then (0, fINV)
    else
      let (m, fl) := roundMag (a * pow2 f.bias) 1 mode
      let k : Int := if s then -m else m
      if k > hi then (code hi, fl ||| fINV)
      else if k < lo then (code lo, fl ||| fINV)
      else (code k, fl)

/-- Round of R172. -/
def roundTo (f : Fmt) (mode : Rm) (x : Num) : Nat × Nat :=
  if f.exp = 0 then roundX f mode x else roundF f mode x

/-- F32 (R176). -/
def f32 (x : Num) : Nat × Nat := roundF fp32 .rne x
def d32 (c : Nat) : Num := decodeNum fp32 c

/-- The exact sum of R173, with the flag of an invalid one. -/
def addNum (x y : Num) : Num × Nat :=
  match x, y with
  | .nan, _ => (.nan, 0)
  | _, .nan => (.nan, 0)
  | .inf a, .inf b => if a = b then (.inf a, 0) else (.nan, fINV)
  | .inf a, _ => (.inf a, 0)
  | _, .inf b => (.inf b, 0)
  | .fin a p, .fin b q =>
    let r := (Num.fin a p).toRat + (Num.fin b q).toRat
    if r = 0 then (.fin (a && b && p == 0 && q == 0) 0, 0) else (Num.ofRat r, 0)

def mulNum (x y : Num) : Num × Nat :=
  match x, y with
  | .nan, _ => (.nan, 0)
  | _, .nan => (.nan, 0)
  | .inf a, .inf b => (.inf (a != b), 0)
  | .inf a, .fin b q => if q = 0 then (.nan, fINV) else (.inf (a != b), 0)
  | .fin a p, .inf b => if p = 0 then (.nan, fINV) else (.inf (a != b), 0)
  | .fin a p, .fin b q => (.fin (a != b) (p * q), 0)

/-- x × y + z with one exact result (R173). A NaN operand gives NaN without a flag. -/
def fmaNum (x y z : Num) : Num × Nat :=
  if x.isNan || y.isNan || z.isNan then (.nan, 0)
  else
    let (p, f) := mulNum x y
    if p.isNan then (.nan, f) else addNum p z

/-- The order of values: -0 below +0 (R173); NaN handled by the callers. -/
def ltNum (x y : Num) : Bool :=
  match x, y with
  | .inf a, .inf b => a && !b
  | .inf a, _ => a
  | _, .inf b => !b
  | .fin a p, .fin b q =>
    if p = 0 && q = 0 then a && !b else decide ((Num.fin a p).toRat < (Num.fin b q).toRat)
  | _, _ => false

def minNum (x y : Num) : Num := if x.isNan || y.isNan then .nan else if ltNum y x then y else x
def maxNum (x y : Num) : Num := if x.isNan || y.isNan then .nan else if ltNum x y then y else x

/-- EmaxOf (R175). -/
def emaxOf (f : Fmt) : Int := log2Floor (maxF f)

/-- RoundQ (R175): every fixed-point result is clamped to ±(2^(w−1) − 1). A negative value into an unsigned
format is 0 with INV, as in R169 (log 59). -/
def roundQ (f : Fmt) (mode : Rm) (x : Num) : Nat × Nat :=
  match x with
  | .fin s a =>
    if f.sign = 0 && s then (0, if a = 0 then 0 else fINV)
    else if f.exp = 0 then
      let (m, fl) := roundMag (a * pow2 f.bias) 1 mode
      let k := min m (2 ^ (f.width - 1) - 1)
      ((if s then 2 ^ f.width - k else k) % 2 ^ f.width, fl)
    else
      let (c, fl) := roundF f mode x
      let q := pow2 (max (log2Floor a) (1 - (f.bias : Int)) - f.man)
      if maxF f < a || (a ≠ 0 && maxF f < ((roundMag a q mode).1 : Rat) * q) then
        (packMag f s (maxF f), fl &&& (fINX ||| fUNF))
      else (c, fl)
  | _ => roundTo f mode x

/-- Quantise (R175): the scale code, the element codes and the flags. g is the scale entry SJ. -/
def quantise (f g : Fmt) (mode : Rm) (xs : List Num) : Nat × List Nat × Nat :=
  if xs.any (fun x => x.isNan || x.isInf) then (255, xs.map (fun _ => 0), fQINF)
  else
    let amax := xs.foldl (fun m x => max m x.abs.toRat) 0
    if amax = 0 then (0, xs.map (fun _ => 0), 0)
    else
      let (sc, sv, fl) : Nat × Rat × Nat :=
        if f.scale = 1 then
          let t := log2Floor amax - emaxOf f
          if t > 127 then (254, pow2 127, fQSAT)
          else if t < -127 then (0, pow2 (-127), fQSAT)
          else ((t + 127).toNat, pow2 t, 0)
        else
          let r := amax / maxF f
          let (r, fl) := if r > maxF g then (maxF g, fQSAT) else (r, 0)
          let sc := (roundF g .rne (.fin false r)).1
          let sv := (decodeNum g sc).toRat
          if sv = 0 then (1, (decodeNum g 1).toRat, fl ||| fQSAT) else (sc, sv, fl)
      let cs := xs.map (fun x => roundQ f mode (match x with
        | .fin s a => .fin s (a / sv)
        | y => y))
      (sc, cs.map (·.1), cs.foldl (fun acc c => acc ||| c.2) fl)

/-- The value of a block's scale code (R174). -/
def scaleNum (f g : Fmt) (sc : Nat) : Num :=
  if f.scale = 1 then if sc = 255 then .nan else .fin false (pow2 ((sc : Int) - 127))
  else decodeNum g sc

end Sys2Proof.Machine
end

