-- ==== Sys2Proof/Machine/NumFn.lean ====
section
/-! DEFINITION. The four transcendental functions and log-sum-exp, step by step in fixed point as R176
to R181 define them. -/

namespace Sys2Proof.Machine

/-- T[i] of R176, in units of 2^-30. -/
def tabT : List Nat :=
  [1073741824, 1085434106, 1097253708, 1109202018, 1121280436, 1133490379, 1145833280, 1158310587] ++
  [1170923762, 1183674286, 1196563654, 1209593378, 1222764986, 1236080024, 1249540052, 1263146652] ++
  [1276901417, 1290805962, 1304861917, 1319070932, 1333434672, 1347954824, 1362633090, 1377471191] ++
  [1392470869, 1407633882, 1422962010, 1438457051, 1454120821, 1469955159, 1485961921, 1502142985] ++
  [1518500250, 1535035634, 1551751076, 1568648537, 1585730000, 1602997467, 1620452965, 1638098541] ++
  [1655936265, 1673968228, 1692196547, 1710623359, 1729250827, 1748081133, 1767116489, 1786359126] ++
  [1805811301, 1825475297, 1845353420, 1865448001, 1885761398, 1906295993, 1927054196, 1948038440] ++
  [1969251188, 1990694927, 2012372174, 2034285470, 2056437387, 2078830522, 2101467502, 2124350982]

/-- Lt[i] of R176. -/
def tabLt : List Nat :=
  [0, 24017256, 47667823, 70962728, 93912511, 116527249, 138816582, 160789745] ++
  [182455581, 203822568, 224898838, 245692198, 266210141, 286459867, 306448298, 326182095] ++
  [345667660, 364911161, 383918542, 402695523, 421247625, 439580171, 457698295, 475606957] ++
  [493310944, 510814882, 528123240, 545240343, 562170370, 578917365, 595485245, 611877800] ++
  [628098702, 644151509, 660039670, 675766524, 691335320, 706749198, 722011214, 737124328] ++
  [752091421, 766915285, 781598637, 796144115, 810554284, 824831638, 838978603, 852997541] ++
  [866890746, 880660456, 894308842, 907838030, 921250079, 934547002, 947730758, 960803258] ++
  [973766363, 986621888, 999371608, 1012017244, 1024560485, 1037002979, 1049346326, 1061592099]

/-- S[i] of R176. -/
def tabS : List Nat :=
  [1065450257, 1049427536, 1034106604, 1019437682, 1005375799, 991880210, 978913898, 966443148] ++
  [954437177, 942867814, 931709222, 920937655, 910531246, 900469818, 890734723, 881308694] ++
  [872175715, 863320910, 854730438, 846391405, 838291779, 830420321, 822766514, 815320510] ++
  [808073073, 801015531, 794139734, 787438013, 780903145, 774528319, 768307107, 762233438] ++
  [756301570, 750506070, 744841792, 739303858, 733887640, 728588743, 723402992, 718326417] ++
  [713355240, 708485864, 703714861, 699038963, 694455052, 689960150, 685551414, 681226125] ++
  [676981684, 672815603, 668725501, 664709095, 660764199, 656888716, 653080633, 649338020] ++
  [645659022, 642041856, 638484810, 634986237, 631544551, 628158229, 624825801, 621545853] ++
  [618317022, 615137993, 612007499, 608924318, 605887270, 602895216, 599947056, 597041726] ++
  [594178200, 591355485, 588572620, 585828677, 583122756, 580453988, 577821530, 575224566] ++
  [572662306, 570133983, 567638856, 565176202, 562745326, 560345548, 557976212, 555636678] ++
  [553326329, 551044561, 548790791, 546564450, 544364986, 542191864, 540044561, 537922570]

/-- Fx (R176): a value rounded to the nearest multiple of 2^-30, as the count of multiples. -/
def fxN (y : Rat) : Int :=
  let z := y * (2 ^ 30 : Nat)
  let k := z.floor
  let r := z - k
  if 2 * r > 1 || (2 * r == 1 && k % 2 == 1) then k + 1 else k

/-- A count of 2^-30 as a rational. -/
def q30 (n : Int) : Rat := mkRat n (2 ^ 30)

def fx (y : Rat) : Rat := q30 (fxN y)

/-- Rc[i] and Q[i] (R176). -/
def tabRc (i : Nat) : Rat := fx (mkRat 64 (64 + i))
def tabQ (i : Nat) : Rat := fx (mkRat 256 (256 + 2 * i + 1))
def cstC : List Int := [744261118, 257941248, 59597083]
def cstD : List Int := [1549082005, -774541002, 516360668, -387270501]

def tabAt (t : List Nat) (i : Nat) : Rat := q30 (t.getD i 0)
def cst (l : List Int) (i : Nat) : Rat := q30 (l.getD i 0)

/-- Exp2F (R177): an fp32 code and flags. -/
def exp2F (x : Num) : Nat × Nat :=
  match x with
  | .nan => nanCode fp32
  | .inf s => if s then (0, 0) else (packInf fp32 false, 0)
  | .fin _ _ =>
    let v := x.toRat
    if v ≥ 128 then (packInf fp32 false, fOVF ||| fINX)
    else if v < -151 then (0, fUNF ||| fINX)
    else
      let n := v.floor
      let f := v - n
      let i := (64 * f).floor.toNat
      let r := fx (f - mkRat i 64)
      let p := fx (cst cstC 2 * r)
      let p := fx ((cst cstC 1 + p) * r)
      let p := fx ((cst cstC 0 + p) * r)
      f32 (Num.ofRat (fx (tabAt tabT i * (1 + p)) * pow2 n))

/-- Log2F (R178). -/
def log2F (x : Num) : Nat × Nat :=
  match x with
  | .nan => nanCode fp32
  | .inf s => if s then ((nanCode fp32).1, fINV) else (packInf fp32 false, 0)
  | .fin s v =>
    if v = 0 then (packInf fp32 true, fDZ)
    else if s then ((nanCode fp32).1, fINV)
    else
      let e := log2Floor v
      let m := v / pow2 e
      let i := (64 * (m - 1)).floor.toNat
      let u := fx (m * tabRc i - 1)
      let p := fx (cst cstD 3 * u)
      let p := fx ((cst cstD 2 + p) * u)
      let p := fx ((cst cstD 1 + p) * u)
      let p := fx ((cst cstD 0 + p) * u)
      f32 (Num.ofRat (e + tabAt tabLt i + p))

/-- RcpF (R179). -/
def rcpF (x : Num) : Nat × Nat :=
  match x with
  | .nan => nanCode fp32
  | .inf s => (packMag fp32 s 0, 0)
  | .fin s v =>
    if v = 0 then (packInf fp32 s, fDZ)
    else
      let e := log2Floor v
      let m := v / pow2 e
      let y := tabQ (128 * (m - 1)).floor.toNat
      let y := fx (y * fx (2 - fx (m * y)))
      let y := fx (y * fx (2 - fx (m * y)))
      f32 (.fin s (y * pow2 (-e)))

/-- RsqF (R179). -/
def rsqF (x : Num) : Nat × Nat :=
  match x with
  | .nan => nanCode fp32
  | .inf s => if s then ((nanCode fp32).1, fINV) else (0, 0)
  | .fin s v =>
    if v = 0 then (packInf fp32 s, fDZ)
    else if s then ((nanCode fp32).1, fINV)
    else
      let e := log2Floor v
      let m := v / pow2 e
      let (m, e) := if e % 2 = 0 then (m, e) else (2 * m, e - 1)
      let y := tabAt tabS (32 * (m - 1)).floor.toNat
      let y := fx (y * fx (3 - fx (m * fx (y * y))) / 2)
      let y := fx (y * fx (3 - fx (m * fx (y * y))) / 2)
      f32 (Num.ofRat (y * pow2 (-(e / 2))))

/-- LOG2E and LN2 (R181). -/
def log2E : Num := d32 0x3fb8aa3b
def ln2 : Num := d32 0x3f317218

/-- One fp32 operation on codes with its flags gathered. -/
def add32 (a b : Num) : Nat × Nat :=
  let (x, f) := addNum a b
  let (c, g) := f32 x
  (c, f ||| g)
def mul32 (a b : Num) : Nat × Nat :=
  let (x, f) := mulNum a b
  let (c, g) := f32 x
  (c, f ||| g)

/-- The running sum of Lse. -/
def lseSum (mx : Num) : List Num → Num → Nat → Num × Nat
  | [], acc, fl => (acc, fl)
  | z :: zs, acc, fl =>
    let (d, f1) := add32 z mx.neg
    let (t, f2) := mul32 (d32 d) log2E
    let (x, f3) := exp2F (d32 t)
    let (a, f4) := add32 acc (d32 x)
    lseSum mx zs (d32 a) (fl ||| f1 ||| f2 ||| f3 ||| f4)

/-- Lse (R181) of decoded fp32 values: a code and flags. -/
def lse (zs : List Num) : Nat × Nat :=
  if zs.isEmpty then (packInf fp32 true, 0)
  else if zs.any Num.isNan then nanCode fp32
  else if zs.any (· == .inf false) then (packInf fp32 false, 0)
  else
    let mx := zs.foldl maxNum (zs.headD .nan)
    if mx == .inf true then (packInf fp32 true, 0)
    else
      let (s, f1) := lseSum mx zs Num.zero 0
      let (l, f2) := log2F s
      let (p, f3) := mul32 (d32 l) ln2
      let (r, f4) := add32 mx (d32 p)
      (r, f1 ||| f2 ||| f3 ||| f4)

end Sys2Proof.Machine
end

