-- ==== Sys2Proof/Syntax.lean ====
section
/-! DEFINITION. The instructions, steps and events of the CV1024: one constructor for every row of
spec/opcode_table.json, and the plain data that the steps and events carry. -/

namespace Sys2Proof

/-- The queue select of `PXR` (Table 3.2). -/
inductive Qs where
  | none | srcDq | dstQ | bqCond
deriving DecidableEq, Repr

/-- An order modifier (Table 3.3). -/
inductive Order where
  | none | acq | rel | ar
deriving DecidableEq, Repr

/-- A scope modifier (Table 3.3); `dflt` is no suffix. -/
inductive Scope where
  | dflt | self | core | cluster | die | device | system
deriving DecidableEq, Repr

/-- What the prefixes of a sequence carry beyond its operands (R43 to R47): the stall count, which
prefixes are present, the queue select and the modifiers. -/
structure Pfx where
  stall : Nat := 0
  pxp : Bool := false
  pxr : Bool := false
  npxi : Nat := 0
  qs : Qs := .none
  order : Order := .none
  scope : Scope := .dflt
deriving DecidableEq, Repr, Inhabited

/-- A strand message on Stratus (R27, R121): its record, the partition, enclave and site it is
bound for, its arrival queue there, and its message identifier (R119). `chan` is the sending site; 1026 is
Zenith, 2048 + n the home at site n, 4096 + n the Aster of cluster n. A copy of a multicast carries the root's
site and its place in the order in which the root injected it (R21). -/
structure Msg where
  record : Record
  part : Nat
  enc : Nat
  site : Nat
  queue : Fin 4
  src : Nat
  seq : Nat
  chan : Nat
  woken : Bool
  mcast : Option (Nat × Nat) := none
  cell : Word := 0
deriving DecidableEq, Repr

/-- The ten atomic operations of major 13 (R105). -/
inductive AtomicOp where
  | swp | cas | add | and | or | xor | min | max | minu | maxu
deriving DecidableEq, Repr

/-- Where a load's value goes (R104). -/
inductive LoadDst where
  | reg (d : Fin 16)
  | dq
deriving DecidableEq, Repr

/-- A write of a versioned cell that the send buffer holds (R82): a `VWST` with its version, or a
`VWINC`. What writes of the cell that left the core after it, with STAGED cleared, do to what the strand sees of it (R64,
log 81): after a `VWST` it is past, and `more` is what `VWINC`s added to its value and version. -/
structure HeldVw where
  cell : Nat
  va : Word
  value : Word
  version : Option Nat
  past : Bool := false
  more : Word × Nat := (0, 0)
deriving DecidableEq, Repr

/-- What a global access does when it is performed (R66, R104, R105, R199, R200); `vload` and `vstore` are
those of page 1, and `mask` keeps the element's own bits of each byte that a gather loads (R167). Overlays are the bytes that held stores of the strand supply, and `vws` its held writes of
versioned cells; an atomic takes held stores with it, by key generation (R82). -/
inductive AccessKind where
  | load (dst : LoadDst) (n : Nat) (sgn : Bool) (overlay : List (Nat × Byte)) (vws : List HeldVw)
  | vload (d : Fin 16) (base : BitVec 1024) (lanes : List (Nat × Nat)) (mask : Byte) (overlay : List (Nat × Byte))
    (vws : List HeldVw)
  | store (cells : List (Nat × Byte))
  | vstore (cells : List (Nat × Byte))
  | atomic (op : AtomicOp) (x y : Word) (d : Fin 16) (held : List (Nat × List (Nat × Byte)))
deriving DecidableEq, Repr

/-- A global access under way: the core and handler that issued it, its place in the core's program
order, the physical keys it touches, the key generation its lines are sealed under, the bytes a home
served to a fill that waits for its key, whether it waits for a key (R84), and the first word of its sequence. -/
structure Access where
  core : Nat
  hid : Nat
  seqno : Nat
  part : Nat
  va : Word
  keys : List Nat
  uid : Nat
  order : Order
  scope : Scope
  kind : AccessKind
  served : Option (List (Nat × Byte))
  stalled : Bool
  pc : Word := 0
deriving DecidableEq, Repr

/-- What a versioned-word request asks of the home (R74, R126 to R129). -/
inductive VwOp where
  | load (d : Fin 16) (n : Nat) (record : Record)
  | park (n : Nat) (record : Record)
  | store (v : Word) (ver : Nat)
  | inc (v : Word)
  | peek (d : Fin 16)
  | reset
deriving DecidableEq, Repr

/-- A request on its way to the home of a versioned cell, from the sequence at `pc`. -/
structure VwReq where
  core : Nat
  hid : Nat
  seqno : Nat
  part : Nat
  enc : Nat
  cell : Nat
  va : Word
  scope : Scope
  op : VwOp
  held : List HeldVw
  pc : Word := 0
deriving DecidableEq, Repr

/-- A home's answer (R127, R129). -/
inductive VwResult where
  | value (d : Fin 16) (v : Word)
  | pair (d : Fin 16) (v : Word) (ver : Nat)
  | done
  | trap (cause : Nat) (faddr : Word)
deriving DecidableEq, Repr

/-- The answer on its way back to the core. -/
structure VwRep where
  core : Nat
  hid : Nat
  result : VwResult
deriving DecidableEq, Repr

/-- A value on a link between neighbours (R124): the poster's site, the receiver's site, the
receiver's register, the poster's enclave. -/
structure LinkMsg where
  poster : Nat
  site : Nat
  reg : Fin 4
  enc : Nat
  value : Word
deriving DecidableEq, Repr

/-- A revocation under way (R150): the bank, and the partition whose core asks for it. -/
structure RevokeReq where
  part : Nat
  bank : Nat
deriving DecidableEq, Repr

/-- A hand-over under way (R146, R152). -/
structure HandReq where
  giver : Nat
  hid : Nat
  part : Nat
  enc : Nat
  slot : Nat
  bank : Nat
  tgt : Nat
  tslot : Nat
  rights : Nat
  from_ : Nat
deriving DecidableEq, Repr

/-- A copy (R225): the core, enclave and channel that own it, its generation and its form, the banks
that its local sides cover as they were attached at issue (R153), and why it is to stop: 0 not, 2
cancelled, 4 revoked. -/
structure CopyCmd where
  core : Nat
  enc : Nat
  part : Nat
  ch : Nat
  gen : Nat
  form : Nat
  desc : Record
  sbanks : List Nat
  dbanks : List Nat
  stop : Nat
deriving DecidableEq, Repr

/-- A task of Aster (R239): its partition, queue and ring entry's address. -/
structure TaskRef where
  part : Nat
  tq : Nat
  entry : Nat
deriving DecidableEq, Repr

/-- A posted write of the host into BAR 2 (R296). -/
structure HostWrite where
  part : Nat
  off : Nat
  bytes : List Byte
deriving DecidableEq, Repr

/-- A message of the host to Zenith (R291, R293, R298): an SPDM request by its code and parameters, a
TDISP message, or a vendor-defined request: StandardID, VendorID and payload. -/
inductive HostMsg where
  | spdm (code : Nat) (body : List Byte)
  | tdisp (code : Nat)
  | vendor (std vid : Nat) (payload : List Byte)
deriving DecidableEq, Repr

/-- A request of the host (R291, R293, R298): the interface it reaches (0 for physical function 0, 1 + p
for partition p's virtual function), the secured session that carries it, who sent it, and the
message. -/
structure HostReq where
  iface : Nat
  sess : Option Nat
  requester : Nat
  msg : HostMsg
deriving DecidableEq, Repr

/-- What the loader hands over with the last page of an image (R13, R26, R164): the handler table,
the format entries and the banks to attach, for one enclave. -/
structure Manifest where
  enc : Nat
  handlers : List (Nat × Word × Option Nat)
  fmts : List (Nat × Word)
  banks : List (Nat × Nat)
deriving DecidableEq, Repr

/-- The places where a corrected error occurs (R309, R312). -/
inductive ErrKind where
  | bank (b : Nat)
  | cache (site : Nat)
  | slice (site : Nat)
  | queue (site : Nat)
  | stratus (site : Nat)
  | cirrus (port : Nat)
deriving DecidableEq, Repr

/-- What reaches the device from outside (R293 to R302, R309): a request to Zenith, the manifest that
comes with an image's last page, a write into BAR 2, a write of EVTAIL, an IDE key switch, an ATS
invalidation, a Cirrus link, a corrected error, a die's clock stretch by some cycles. -/
inductive HostIn where
  | req (r : HostReq)
  | image (r : HostReq) (man : Manifest)
  | write (w : HostWrite)
  | evtail (v : Nat)
  | ksetgo (stream sub : Nat)
  | ats (page : Nat)
  | cirrus (port : Nat)
  | corrected (k : ErrKind)
  | stretch (die n : Nat)
deriving DecidableEq, Repr

/-- One constructor for every row of spec/opcode_table.json. Those of the first 208 rows are sequences
(R41, R42); the others are steps and events. A sequence, and a step of one core, acts on the core
that State.cur names; an event from outside takes what reached the device from Zenith's inbox. -/
inductive Instr where
  | nop (p : Pfx)
  | stall (p : Pfx) (n : Nat)
  | cyc (p : Pfx) (d : Fin 16)
  | trap (p : Pfx) (n : Nat)
  | brk (p : Pfx) (n : Nat)
  | j (p : Pfx) (e : Int)
  | jl (p : Pfx) (e : Int)
  | loop (p : Pfx) (a : Fin 16) (e : Int)
  | lea (p : Pfx) (d : Fin 16) (e : Int)
  | jr (p : Pfx) (a : Fin 16)
  | jlr (p : Pfx) (d : Fin 16) (a : Fin 16)
  | rdc (p : Pfx) (d : Fin 16) (cr : Nat)
  | wrc (p : Pfx) (a : Fin 16) (cr : Nat)
  | add (p : Pfx) (d : Fin 16) (a : Fin 16) (b : Fin 16)
  | sub (p : Pfx) (d : Fin 16) (a : Fin 16) (b : Fin 16)
  | and (p : Pfx) (d : Fin 16) (a : Fin 16) (b : Fin 16)
  | or (p : Pfx) (d : Fin 16) (a : Fin 16) (b : Fin 16)
  | xor (p : Pfx) (d : Fin 16) (a : Fin 16) (b : Fin 16)
  | mul (p : Pfx) (d : Fin 16) (a : Fin 16) (b : Fin 16)
  | sll (p : Pfx) (d : Fin 16) (a : Fin 16) (b : Fin 16)
  | srl (p : Pfx) (d : Fin 16) (a : Fin 16) (b : Fin 16)
  | slt (p : Pfx) (d : Fin 16) (a : Fin 16) (b : Fin 16)
  | sltu (p : Pfx) (d : Fin 16) (a : Fin 16) (b : Fin 16)
  | sra (p : Pfx) (d : Fin 16) (a : Fin 16)
  | ror (p : Pfx) (d : Fin 16) (a : Fin 16)
  | mulh (p : Pfx) (d : Fin 16) (a : Fin 16)
  | mulhu (p : Pfx) (d : Fin 16) (a : Fin 16)
  | div (p : Pfx) (d : Fin 16) (a : Fin 16)
  | divu (p : Pfx) (d : Fin 16) (a : Fin 16)
  | rem (p : Pfx) (d : Fin 16) (a : Fin 16)
  | remu (p : Pfx) (d : Fin 16) (a : Fin 16)
  | min (p : Pfx) (d : Fin 16) (a : Fin 16)
  | max (p : Pfx) (d : Fin 16) (a : Fin 16)
  | minu (p : Pfx) (d : Fin 16) (a : Fin 16)
  | maxu (p : Pfx) (d : Fin 16) (a : Fin 16)
  | seq (p : Pfx) (d : Fin 16) (a : Fin 16)
  | sne (p : Pfx) (d : Fin 16) (a : Fin 16)
  | andn (p : Pfx) (d : Fin 16) (a : Fin 16)
  | mov (p : Pfx) (d : Fin 16) (a : Fin 16)
  | neg (p : Pfx) (d : Fin 16) (a : Fin 16)
  | not (p : Pfx) (d : Fin 16) (a : Fin 16)
  | clz (p : Pfx) (d : Fin 16) (a : Fin 16)
  | ctz (p : Pfx) (d : Fin 16) (a : Fin 16)
  | popc (p : Pfx) (d : Fin 16) (a : Fin 16)
  | brev (p : Pfx) (d : Fin 16) (a : Fin 16)
  | bswap (p : Pfx) (d : Fin 16) (a : Fin 16)
  | sextb (p : Pfx) (d : Fin 16) (a : Fin 16)
  | sexth (p : Pfx) (d : Fin 16) (a : Fin 16)
  | sextw (p : Pfx) (d : Fin 16) (a : Fin 16)
  | zextb (p : Pfx) (d : Fin 16) (a : Fin 16)
  | zexth (p : Pfx) (d : Fin 16) (a : Fin 16)
  | zextw (p : Pfx) (d : Fin 16) (a : Fin 16)
  | addi (p : Pfx) (d : Fin 16) (a : Fin 16) (e : Int)
  | andi (p : Pfx) (d : Fin 16) (e : Int)
  | ori (p : Pfx) (d : Fin 16) (e : Int)
  | xori (p : Pfx) (d : Fin 16) (e : Int)
  | slli (p : Pfx) (d : Fin 16) (n : Nat)
  | srli (p : Pfx) (d : Fin 16) (n : Nat)
  | srai (p : Pfx) (d : Fin 16) (n : Nat)
  | slti (p : Pfx) (d : Fin 16) (e : Int)
  | seqi (p : Pfx) (d : Fin 16) (e : Int)
  | li (p : Pfx) (d : Fin 16) (e : Int)
  | ldb (p : Pfx) (d : Fin 16) (a : Fin 16) (loc : Bool) (off : Int)
  | ldbu (p : Pfx) (d : Fin 16) (a : Fin 16) (loc : Bool) (off : Int)
  | ldh (p : Pfx) (d : Fin 16) (a : Fin 16) (loc : Bool) (off : Int)
  | ldhu (p : Pfx) (d : Fin 16) (a : Fin 16) (loc : Bool) (off : Int)
  | ldw (p : Pfx) (d : Fin 16) (a : Fin 16) (loc : Bool) (off : Int)
  | ldwu (p : Pfx) (d : Fin 16) (a : Fin 16) (loc : Bool) (off : Int)
  | ld (p : Pfx) (d : Fin 16) (a : Fin 16) (loc : Bool) (off : Int)
  | stb (p : Pfx) (d : Fin 16) (a : Fin 16) (loc : Bool) (off : Int)
  | sth (p : Pfx) (d : Fin 16) (a : Fin 16) (loc : Bool) (off : Int)
  | stw (p : Pfx) (d : Fin 16) (a : Fin 16) (loc : Bool) (off : Int)
  | st (p : Pfx) (d : Fin 16) (a : Fin 16) (loc : Bool) (off : Int)
  | swp (p : Pfx) (d : Fin 16) (a : Fin 16)
  | cas (p : Pfx) (d : Fin 16) (a : Fin 16)
  | aadd (p : Pfx) (d : Fin 16) (a : Fin 16)
  | aand (p : Pfx) (d : Fin 16) (a : Fin 16)
  | aor (p : Pfx) (d : Fin 16) (a : Fin 16)
  | axor (p : Pfx) (d : Fin 16) (a : Fin 16)
  | amin (p : Pfx) (d : Fin 16) (a : Fin 16)
  | amax (p : Pfx) (d : Fin 16) (a : Fin 16)
  | aminu (p : Pfx) (d : Fin 16) (a : Fin 16)
  | amaxu (p : Pfx) (d : Fin 16) (a : Fin 16)
  | fence (p : Pfx)
  | bz (p : Pfx) (a : Fin 16) (e : Int)
  | bnz (p : Pfx) (a : Fin 16) (e : Int)
  | bltz (p : Pfx) (a : Fin 16) (e : Int)
  | bgez (p : Pfx) (a : Fin 16) (e : Int)
  | vadd (p : Pfx) (d : Fin 16) (a : Fin 16) (b : Fin 16)
  | vsub (p : Pfx) (d : Fin 16) (a : Fin 16) (b : Fin 16)
  | vmul (p : Pfx) (d : Fin 16) (a : Fin 16) (b : Fin 16)
  | vfma (p : Pfx) (d : Fin 16) (a : Fin 16) (b : Fin 16)
  | vmin (p : Pfx) (d : Fin 16) (a : Fin 16) (b : Fin 16)
  | vmax (p : Pfx) (d : Fin 16) (a : Fin 16) (b : Fin 16)
  | vand (p : Pfx) (d : Fin 16) (a : Fin 16) (b : Fin 16)
  | vor (p : Pfx) (d : Fin 16) (a : Fin 16) (b : Fin 16)
  | vxor (p : Pfx) (d : Fin 16) (a : Fin 16) (b : Fin 16)
  | vsel (p : Pfx) (d : Fin 16) (a : Fin 16) (b : Fin 16)
  | vcmpeq (p : Pfx) (d : Fin 8) (a : Fin 16) (b : Fin 16)
  | vcmplt (p : Pfx) (d : Fin 8) (a : Fin 16) (b : Fin 16)
  | vcmple (p : Pfx) (d : Fin 8) (a : Fin 16) (b : Fin 16)
  | vcmpne (p : Pfx) (d : Fin 8) (a : Fin 16) (b : Fin 16)
  | vsll (p : Pfx) (d : Fin 16) (a : Fin 16)
  | vsrl (p : Pfx) (d : Fin 16) (a : Fin 16)
  | vsra (p : Pfx) (d : Fin 16) (a : Fin 16)
  | vandn (p : Pfx) (d : Fin 16) (a : Fin 16)
  | vadds (p : Pfx) (d : Fin 16) (a : Fin 16)
  | vsubs (p : Pfx) (d : Fin 16) (a : Fin 16)
  | vperm (p : Pfx) (d : Fin 16) (a : Fin 16)
  | vsat (p : Pfx) (d : Fin 16) (a : Fin 16)
  | vscan (p : Pfx) (d : Fin 16) (a : Fin 16)
  | vrsum (p : Pfx) (d : Fin 16) (a : Fin 16)
  | vrmax (p : Pfx) (d : Fin 16) (a : Fin 16)
  | vrmin (p : Pfx) (d : Fin 16) (a : Fin 16)
  | vlse (p : Pfx) (d : Fin 16) (a : Fin 16)
  | vbcast (p : Pfx) (d : Fin 16) (a : Fin 16)
  | vrot (p : Pfx) (d : Fin 16) (a : Fin 16)
  | vabs (p : Pfx) (d : Fin 16) (a : Fin 16)
  | vneg (p : Pfx) (d : Fin 16) (a : Fin 16)
  | vnot (p : Pfx) (d : Fin 16) (a : Fin 16)
  | vmov (p : Pfx) (d : Fin 16) (a : Fin 16)
  | vexp2 (p : Pfx) (d : Fin 16) (a : Fin 16)
  | vlog2 (p : Pfx) (d : Fin 16) (a : Fin 16)
  | vrcp (p : Pfx) (d : Fin 16) (a : Fin 16)
  | vrsq (p : Pfx) (d : Fin 16) (a : Fin 16)
  | vsplat (p : Pfx) (d : Fin 16) (a : Fin 16)
  | vget (p : Pfx) (d : Fin 16) (a : Fin 16)
  | vcvt (p : Pfx) (d : Fin 16) (a : Fin 16)
  | vcvtr (p : Pfx) (d : Fin 16) (a : Fin 16) (b : Fin 16)
  | vqnt (p : Pfx) (d : Fin 16) (a : Fin 16) (b : Fin 16)
  | vdq (p : Pfx) (d : Fin 16) (a : Fin 16) (b : Fin 16)
  | vld (p : Pfx) (d : Fin 16) (a : Fin 16) (loc : Bool) (off : Int)
  | vst (p : Pfx) (d : Fin 16) (a : Fin 16) (loc : Bool) (off : Int)
  | vgth (p : Pfx) (d : Fin 16) (a : Fin 16) (b : Fin 16)
  | vsct (p : Pfx) (d : Fin 16) (a : Fin 16) (b : Fin 16)
  | kand (p : Pfx) (d : Fin 8) (a : Fin 8) (b : Fin 8)
  | kor (p : Pfx) (d : Fin 8) (a : Fin 8) (b : Fin 8)
  | kxor (p : Pfx) (d : Fin 8) (a : Fin 8)
  | knot (p : Pfx) (d : Fin 8) (a : Fin 8)
  | kmov (p : Pfx) (d : Fin 8) (a : Fin 8)
  | kpop (p : Pfx) (d : Fin 16) (a : Fin 8)
  | kfirst (p : Pfx) (d : Fin 16) (a : Fin 8)
  | kset (p : Pfx) (d : Fin 8)
  | kclr (p : Pfx) (d : Fin 8)
  | tcfg (p : Pfx) (d : Fin 8) (a : Fin 16)
  | trdc (p : Pfx) (d : Fin 16) (a : Fin 8)
  | tz (p : Pfx) (d : Fin 8)
  | ttr (p : Pfx) (d : Fin 8) (a : Fin 8)
  | tfill (p : Pfx) (d : Fin 8) (pat : Fin 6)
  | tqnt (p : Pfx) (d : Fin 8) (s_ : Fin 4)
  | acvt (p : Pfx) (d : Fin 8) (s_ : Fin 4)
  | aclr (p : Pfx) (s_ : Fin 4)
  | tldl (p : Pfx) (d : Fin 8) (a : Fin 16) (off : Int)
  | tstl (p : Pfx) (d : Fin 8) (a : Fin 16) (off : Int)
  | aldl (p : Pfx) (s_ : Fin 4) (a : Fin 16) (off : Int)
  | astl (p : Pfx) (s_ : Fin 4) (a : Fin 16) (off : Int)
  | mma (p : Pfx) (s_ : Fin 4) (ta : Fin 8) (tb : Fin 8)
  | mmas (p : Pfx) (s_ : Fin 4) (ta : Fin 8) (tb : Fin 8)
  | mmab (p : Pfx) (s_ : Fin 4) (ta : Fin 8) (tb : Fin 8)
  | mmam (p : Pfx) (s_ : Fin 4) (a : Fin 16)
  | send (p : Pfx) (d : Fin 16) (a : Fin 16)
  | sendm (p : Pfx) (d : Fin 16) (a : Fin 16)
  | sendq (p : Pfx) (d : Fin 16)
  | spawn (p : Pfx) (d : Fin 16)
  | done (p : Pfx)
  | yield (p : Pfx)
  | post (p : Pfx) (dir : Fin 4) (a : Fin 16)
  | xget (p : Pfx) (d : Fin 16) (dir : Fin 4)
  | qcfg (p : Pfx) (q : Fin 4) (a : Fin 16)
  | qpop (p : Pfx) (d : Fin 16) (q : Fin 4)
  | park (p : Pfx) (d : Fin 16) (a : Fin 16)
  | vwld (p : Pfx) (d : Fin 16) (a : Fin 16) (b : Fin 16)
  | vwst (p : Pfx) (d : Fin 16) (a : Fin 16) (b : Fin 16)
  | vwinc (p : Pfx) (d : Fin 16) (a : Fin 16)
  | vwpk (p : Pfx) (d : Fin 16) (a : Fin 16)
  | vwrst (p : Pfx) (a : Fin 16)
  | att (p : Pfx) (d : Fin 16)
  | det (p : Pfx) (d : Fin 16)
  | hand (p : Pfx) (d : Fin 16) (a : Fin 16)
  | bqry (p : Pfx) (d : Fin 16) (a : Fin 16)
  | revoke (p : Pfx) (d : Fin 16)
  | bzero (p : Pfx) (d : Fin 16)
  | handx (p : Pfx) (d : Fin 16) (a : Fin 16) (b : Fin 16)
  | cpy (p : Pfx) (d : Fin 16)
  | cpyw (p : Pfx) (d : Fin 16)
  | cpym (p : Pfx) (d : Fin 16)
  | ccan (p : Pfx) (d : Fin 16)
  | cqset (p : Pfx) (d : Fin 16) (a : Fin 16)
  | cpos (p : Pfx) (d : Fin 16) (a : Fin 16) (ch : Fin 4)
  | cwait (p : Pfx) (a : Fin 16) (ch : Fin 4)
  | task (p : Pfx) (d : Fin 16)
  | ttag (p : Pfx) (d : Fin 16) (a : Fin 16)
  | tshape (p : Pfx) (d : Fin 16) (a : Fin 16)
  | tqry (p : Pfx) (d : Fin 16) (a : Fin 16)
  | mtload (p : Pfx) (d : Fin 16)
  | pload (p : Pfx) (pair : Fin 4) (c : Fin 8) (b : Fin 16)
  | pdist (p : Pfx) (d : Fin 16) (pair : Fin 4) (c : Fin 8)
  | psetm (p : Pfx) (d : Fin 16) (a : Fin 16)
  | psets (p : Pfx) (d : Fin 16) (a : Fin 16)
  | bal (p : Pfx) (pair : Fin 4)
  | balx (p : Pfx) (pair : Fin 4) (k : Bool)
  | pmat (p : Pfx) (d : Fin 8) (pair : Fin 4)
  | pstat (p : Pfx) (d : Fin 16)
  | pmovToBank (p : Pfx) (d : Fin 16) (x : Fin 4)
  | pmovFromBank (p : Pfx) (d : Fin 16) (x : Fin 4)
  | mcall (p : Pfx) (a : Fin 16)
  | clrst (p : Pfx)
  | idle (p : Pfx)
  | wrcWp (p : Pfx) (a : Fin 16)
  | wrcVtype (p : Pfx) (a : Fin 16)
  | wrcBs (p : Pfx) (a : Fin 16)
  | wrcSmc (p : Pfx) (a : Fin 16)
  | wrcFmt (p : Pfx) (a : Fin 16) (i : Fin 16)
  | rdcSbcnt (p : Pfx) (d : Fin 16)
  | rdcKmc (p : Pfx) (d : Fin 16)
  | fifoArrival (m : Msg)
  | rankedArrival (m : Msg)
  | messageAccepted (m : Msg)
  | multicastForward (m : Msg) (tree : Nat) (node : Nat)
  | linkValueArrival (l : LinkMsg)
  | linkCreditReturn (c : Nat) (dir : Fin 4)
  | vwHomeLoad (r : VwReq)
  | vwHomePark (r : VwReq)
  | vwHomeStore (r : VwReq)
  | vwHomeInc (r : VwReq)
  | vwHomePeek (r : VwReq)
  | vwHomeReset (r : VwReq)
  | vwReply (r : VwRep)
  | handReservation (r : HandReq)
  | handGrant (r : HandReq) (ok : Bool)
  | bankAttach (r : HandReq)
  | bankReturnPool (b : Nat)
  | bankRevoked (r : RevokeReq)
  | scrubComplete (b : Nat)
  | bankPoison (b : Nat) (off : Nat)
  | copyCommand (r : CopyCmd)
  | cpymVersionReached (r : CopyCmd)
  | asterTaskArrival (r : TaskRef)
  | asterStagingDone (r : TaskRef)
  | asterRetirement (r : TaskRef)
  | illegalSequence (detail : Nat) (x : Option Word) (inPlace : Bool)
  | fetchFault (va : Word) (cause : Nat)
  | accessPerformed (x : Access)
  | mver
  | qheld
  | fqset
  | tqset
  | maskset
  | treeset
  | cpool
  | kimport
  | krevoke
  | resume
  | kstate
  | tctl
  | ptmap
  | nextAction
  | steal
  | idleRetry
  | headAging
  | bounceResend
  | sendRoomFreed
  | budgetExpiry
  | faultRecordDeferred
  | mmamStep
  | balSweep
  | copyLine
  | copyBudgetWindow
  | asterDependenceMet
  | methodTableInstall
  | keyReload
  | directoryOverflow
  | keyInvalidationComplete
  | sliceExpiry
  | hostSubmit
  | getVersion
  | getCapabilities
  | negotiateAlgorithms
  | getDigests
  | getCertificate
  | challenge
  | getMeasurements
  | keyExchange
  | finish
  | keyUpdate
  | heartbeat
  | endSession
  | unsupportedRequest
  | lockInterfaceRequest
  | startInterfaceRequest
  | stopInterfaceRequest
  | getDeviceInterfaceReport
  | keyProg
  | keyActivate
  | keyRetire
  | keyRevoke
  | partCreate
  | partRebuild
  | partDestroy
  | bankRelease
  | ideThresh
  | lifetimeRead
  | debugDisable
  | debugEnable
  | debugResume
  | debugReadRegister
  | debugWriteRegister
  | measLog
  | partResume
  | imgLoad
  | kSetGo
  | ideRekeyDue
  | ideInsecure
  | atsInvalidation
  | atsInvalidationComplete
  | evtailWrite
  | fatalCoreError
  | correctedError
  | meshLinkFailure
  | thermalTrip
  | clockStretch
  | powerOn
  | lifetimeFlush
  | powerDown
  | cirrusLinkBringup
  | lossOfPower
deriving DecidableEq, Repr

end Sys2Proof
end

