-- ==== Sys2Proof/Machine/State.lean ====
section
/-! DEFINITION. The state of the CV1024 as plain data: every piece of state that INVENTORY.md lists
under its second heading, the faults and refusals, and the machine right after reset. -/

namespace Sys2Proof.Machine

/-- A sparse table: pairs of a key and a value; the first pair of a key counts. -/
abbrev SMap (α : Type) := List (Nat × α)

/-- Why a step can stop. -/
inductive Fault where
  /-- A walk, an access or a copy reaches a physical address past the end of its memory tier (R3,
  R282), which the spec says does not exist. Raised by the accesses of Machine/Ops.lean; safe. -/
  | noSuchMemory (key : Nat)
deriving DecidableEq, Repr

/-- Why a step gives no meaning. -/
inductive Refusal where
  /-- An instruction without a meaning yet. Raised by the arms of Machine/Dispatch.lean only; safe. -/
  | notModelled (mnemonic : String)
deriving DecidableEq, Repr

/-- A strand in an arrival queue, deque or ring (R112, R115): its record, its message identifier
(SRC and SEQ of the trap record, R132), how it came (R132 flags), the arrival queue it is bound for,
its place in arrival order, the head wait it has added up (R31), whether it holds a credit of the host (R296), and, as its
message had them, the sending channel and the cell of a wake. -/
structure Entry where
  record : Record
  queue : Fin 4
  src : Nat
  seq : Nat
  woken : Bool
  arr : Nat
  wait : Nat
  credit : Bool := false
  chan : Nat := 1026
  cell : Word := 0
deriving DecidableEq, Repr

/-- An arrival queue (R114 to R116): its configuration word, its resident entries with the head
first, its spill sub-ring with the oldest first, and the cycle at which its head became head. -/
structure Queue where
  cfg : Word
  res : List Entry
  spill : List Entry
  since : Nat
deriving DecidableEq, Repr

/-- An entry of the send buffer (R119): a message, a spawn, a multicast, a held store (R82) or a held
versioned write. `rel` marks a held release. -/
inductive SendEntry where
  | send (record : Record) (lnum : Nat)
  | sendm (record : Record) (tree : Nat)
  | spawn (record : Record)
  | store (rel : Bool) (parts : List (Nat × List (Nat × Byte)))
  | vw (w : HeldVw)
deriving DecidableEq, Repr

/-- The phase of a running BAL or BALX (R263 to R265). -/
inductive BalPhase where
  | row | col | resid
deriving DecidableEq, Repr

/-- A page-5 sweep under way (R264, R269): what it read at issue, and its progress. -/
structure BalRun where
  pair : Fin 4
  full : Bool
  m : Nat
  n : Nat
  kernel : List (List Nat)
  limit : Nat
  tol : Nat
  phase : BalPhase
deriving DecidableEq, Repr

/-- An MMAM under way (R217): what it read at issue, and its progress. `base` is an accumulator that it read before its
producer's result was there (R98), for its first step. -/
structure MmamRun where
  acc : Fin 4
  desc : Record
  daddr : Word
  op : Nat
  fmtA : Fmt
  fmtB : Fmt
  sfmtA : Fmt
  sfmtB : Fmt
  kb : Nat
  done : Nat
  base : Option (BitVec 131072) := none
deriving DecidableEq, Repr

/-- What one enclave owns on one core (R276). -/
structure Ctx where
  wp : Word
  hbDef : Nat
  sbm : Word
  sbcnt : Nat
  kmc : Nat
  smc : Word
  cwp : Vector Word 4
  vqueue : Vector (Option Record) 4
  vqHead : Word
  vqTail : Word
  budget : Vector Nat 4
  vtype : Word
  v : Vector (BitVec 1024) 16
  k : Vector (BitVec 128) 8
  t : Vector (BitVec 32768) 8
  scale : Vector (BitVec 4096) 8
  tc : Vector Word 8
  acc : Vector (BitVec 131072) 4
  bf : BitVec 2048
  bg : BitVec 2048
  bm : BitVec 2048
  bn : BitVec 2048
  bs : Word
  resid : BitVec 32
  fmt : Vector Word 16
  q : Vector Queue 4
  deque : List Entry
  dspill : List Entry
  ring : List Entry
  slots : SMap Word
deriving DecidableEq, Repr

/-- Where the running strand came from (R130 step 5). -/
inductive Origin where
  | queue (q : Fin 4) | deque | stolen
deriving DecidableEq, Repr

/-- The running handler (R26, R132): its number on this core, its record as dispatched, its sender,
where it came from, the cycle it started, and the place in arrival order that its message had (R116). -/
structure Handler where
  hid : Nat
  record : Record
  src : Nat
  seq : Nat
  woken : Bool
  origin : Origin
  start : Nat
  arr : Nat := 0
deriving DecidableEq, Repr

/-- What a waiting sequence waits for (R37), where another agent's step ends the wait; the sequence's
prefixes are kept, since it completes with that step. A monitor call keeps g8 to g11 as it read them (R98, R279). -/
inductive Wait where
  | mcall (p : Pfx) (n : Nat) (args : List Word)
  | vw (p : Pfx)
  | hand (p : Pfx)
  | revoke (p : Pfx) (bank : Nat)
  | mtload (p : Pfx) (table : Word) (left : List Nat)
  | mmam (p : Pfx)
  | key (uid : Nat)
  | room
deriving DecidableEq, Repr

/-- What a core is doing. -/
inductive Run where
  | off | idle | running | waiting (w : Wait) | halted (cost : Nat) | failed | stopped
deriving DecidableEq, Repr

/-- A register that a producer writes (R94). -/
inductive Reg where
  | g (n : Nat) | v (n : Nat) | k (n : Nat) | t (n : Nat) | tc (n : Nat) | acc (n : Nat)
deriving DecidableEq, Repr

/-- A fixed-latency result that may still be under way (R94, R98): its register, latency, the static
distance so far, and what the register held before (as a number), for SBM off. -/
structure Producer where
  reg : Reg
  lat : Nat
  dist : Nat
  old : Nat
deriving DecidableEq, Repr

/-- A message the message engine keeps (R117): bounced, with the cycle at which it is sent again, or
held back behind one for the same core, enclave and queue. -/
structure KeptMsg where
  msg : Msg
  due : Option Nat
  sent : Bool
deriving DecidableEq, Repr

/-- A core site's core (R19, R25). `dq` and `bq` entries carry the number of the access that fills
them. `slot` is the branch's own address and the target when it is taken (R51). `keptRecs` are trap records
that found no room, by enclave, and `keptEntries` are returned entries that found no place, with enclave
and queue (R130, R131); `faultHold` counts those up to the latest one of an MMAM operand fetch
(R219). The accesses numbered below `fenceRel` and `fenceAcq` are those before a FENCE that waits in the access
stream (R70, R106). `words` are the words of the sequence at `fetchPc` fetched so far, each with the key
generation of its page (R63). `copyWait` is the copy whose checks have been made and that waits for its channel (R226).
`sharers` are the extended sharer lists of the core's slice, in its monitor's data: lines and sharing sites (R39, R277). -/
structure Core where
  run : Run
  part : Nat
  lnum : Nat
  cid : Word
  nbr : Word
  encs : Nat
  enc : Nat
  ctx : SMap Ctx
  h : Handler
  left : Nat
  pc : Word
  slot : Option (Word × Option Word)
  g : Vector Word 16
  dq : List (Nat × Option Word)
  bq : List Bool
  sbuf : List SendEntry
  spawns : Nat
  fenceRel : Nat
  fenceAcq : Nat
  fetchPc : Word
  words : List (HalfWord × Nat)
  copyWait : Option CopyCmd
  msgs : Nat
  link : Vector (Option Word) 4
  credit : Vector Bool 4
  urgentRr : Nat
  rr : Nat
  quiesced : Bool
  preempt : Bool
  keptRecs : List (Nat × Record)
  keptEntries : List (Entry × Nat)
  engine : List KeptMsg
  cyc : Nat
  idleSince : Nat
  sliceStart : Nat
  prods : List Producer
  bal : Option BalRun
  mmam : Option MmamRun
  seqno : Nat
  faultHold : Nat
  sharers : List (Nat × Nat)
deriving DecidableEq, Repr

/-- The states of a bank (R141); a holder is a site, an enclave and a slot. -/
inductive BankState where
  | free
  | attached (site enc slot : Nat)
  | toReceiver (giver site enc slot : Nat)
  | toPool (giver : Nat)
  | frozen
  | scrubbing
deriving DecidableEq, Repr

/-- A bank (R138): its state and, while it is attached, in transit or frozen, its owner partition. -/
structure Bank where
  st : BankState
  owner : Nat
deriving DecidableEq, Repr

/-- What sealed a line (R285, R286): nothing yet, a key generation, or nothing that verifies. -/
inductive Seal where
  | fresh | key (uid : Nat) | never
deriving DecidableEq, Repr

/-- The key states of Table 19.6. -/
inductive KeyState where
  | empty | provisioned | active | retiring | revoked
deriving DecidableEq, Repr

/-- A key (R287): its identifier (0 for a partition key), partition, state, expected measurement,
secret, whether it is resident, when it was last used, and the session that provisioned it. -/
structure Key where
  ident : Nat
  part : Nat
  st : KeyState
  m4 : Record
  m5 : Record
  secret : List Byte
  resident : Bool
  used : Nat
  sess : Nat
deriving DecidableEq, Repr

/-- A parked continuation (R125). -/
structure Cont where
  record : Record
  n : Nat
  scope : Scope
  enc : Nat
  next : Nat
  pending : Bool
  cell : Word
deriving DecidableEq, Repr

/-- An installed multicast tree (R307): the root's logical number and (LNUM, PAR, LV) entries. -/
structure Tree where
  root : Nat
  nodes : List (Nat × Nat × Bool)
deriving DecidableEq, Repr

/-- An installed task queue (R237). -/
structure TaskQueue where
  cluster : Nat
  mask : Nat
  prio : Nat
  target : Nat
  cap : Nat
  base : Nat
  tail : Nat
  seq : Nat
deriving DecidableEq, Repr

/-- Where a task stands beyond its status word; an `unplaced` one found no core (R242). -/
inductive TaskPhase where
  | coming | waiting | placing | unplaced | staging | running | trapped | finished | held
deriving DecidableEq, Repr

/-- A task in Aster's hands (R242): who submitted it, whether it is a conversion entry or has been
resolved once (R244), its phase, the registrations that wait for a cell's version, the shape records as last read, what
steps 2 to 4 chose, the last signature, and its staging copies. -/
structure Task where
  ref : TaskRef
  enc : Nat
  core : Word
  seq : Nat
  conv : Bool
  resolved : Bool
  phase : TaskPhase
  banks : List Nat
  site : Nat
  hidx : Nat
  doneCells : List Nat
  shapes : List Nat
  regs : List (Nat × Nat)
  recs : List Record
  sig : Nat
  copies : Nat
  failed : Bool
deriving DecidableEq, Repr

/-- A handler-table entry (R13, R26): its address and its budget, if it gives one. -/
structure HandlerEntry where
  addr : Word
  budget : Option Nat
deriving DecidableEq, Repr

/-- The TDISP states (R293). -/
inductive Iface where
  | unlocked | locked | run | error
deriving DecidableEq, Repr

/-- A partition (R275, R300) and what its enclaves share. Extents are (key, length) pairs. `kept` are trap records that
homes and Asters keep, in the order kept, and `zrecs` Zenith's of refused submissions (R131). -/
structure Part where
  sup : Nat
  supEnc : Nat
  encs : Nat
  x0 : Nat
  y0 : Nat
  w : Nat
  h : Nat
  slices : List Nat
  spill : Nat
  ringCap : Nat
  exts : List (Nat × Nat)
  tbl : Nat
  tblLen : Nat
  tblNext : Nat
  pageNext : Nat
  members : List Nat
  key : Nat
  handlers : SMap HandlerEntry
  masks : SMap (BitVec 1024)
  trees : SMap Tree
  fbase : Nat
  fcap : Nat
  fctl : Nat
  pool : Nat
  poolN : Nat
  conts : SMap Cont
  tqs : SMap TaskQueue
  mtab : SMap Nat
  iface : Iface
  lockedBy : Option Nat
  credits : Vector Nat 4
  hdrop : Nat
  hcount : Nat
  dbg : List Nat
  block4 : Record
  block5 : Record
  mlog : List Record
  image : List Byte
  zrecs : List Record
  kept : List (Nat × Record)
  spells : List Nat
  rebuilding : Bool
deriving DecidableEq, Repr

/-- A copy in a copy engine's service (R229): its arrival, due time, next line, whether its source version
is reached, its CPYM group, the global lines it owns (R78), and the task it stages for. -/
structure Copy where
  cmd : CopyCmd
  arrival : Nat
  due : Option Nat
  next : Nat
  ready : Bool
  group : Nat
  own : List Nat
  staging : Option TaskRef
deriving DecidableEq, Repr

/-- A cluster's copy engine (Nimbus): its counter, the start of the budget window, the lines used in it by
channel, the budgets that hold until it ends (R227), and the copies in its service (R229). -/
structure Nimbus where
  cyc : Nat
  window : Nat
  used : SMap Nat
  old : SMap Nat
  eighth : Nat
  copies : List Copy
  arrivals : Nat
  moved : Nat
deriving DecidableEq, Repr

/-- A secured session (R291), with the number of times each direction's keys were updated. -/
structure Session where
  iface : Nat
  requester : Nat
  up : Bool
  reqKeys : Nat
  rspKeys : Nat
deriving DecidableEq, Repr

/-- A sub-stream of an IDE stream (R294): its counter, its threshold, whether rekeying is due, its two key sets as IDE_KM
programmed them, and which of them is in use. -/
structure SubStream where
  count : Nat
  log2T : Nat
  due : Bool
  sets : SMap (List Byte) := []
  active : Nat := 0
deriving DecidableEq, Repr

/-- What an event reports: the spec names the events and gives their classes no numbers (R117, R130, R131,
R110, R294, R304, R309). -/
inductive EventClass where
  | selfTest | fatalCore | fatalDevice | ringFull | entryKept | brk | rekeyDue
deriving DecidableEq, Repr

/-- An event record (R310). -/
structure Event where
  cls : EventClass
  site : Nat
  part : Nat
  detail : Nat
  cyc : Nat
deriving DecidableEq, Repr

/-- What goes out to the host: an SPDM or TDISP response by its code and content, the payload of a
vendor-defined response with its StandardID and VendorID, an interrupt, an invalidation completion. -/
inductive HostOut where
  | spdm (iface code : Nat) (body : List Byte)
  | tdisp (iface code : Nat) (body : List Byte)
  | vendor (iface std vid : Nat) (payload : List Byte)
  | msix (vector : Nat)
  | atsDone (page : Nat)
deriving DecidableEq, Repr

/-- An answer to the discovery flood (R305): the site with its coordinates, its enable fuse and its self-test result. -/
structure SiteAnswer where
  x : Nat
  y : Nat
  enabled : Bool
  passed : Bool
deriving DecidableEq, Repr

/-- The security complex (R275 to R312), with what boot leaves: the site map, the routers that hold the route image, and the
boot tree (R305). `posted` are writes of the host (true) and of peer devices that have not been
performed, oldest first (R78, R83). -/
structure Zenith where
  ready : Bool
  bootCore : Nat
  failedTest : List Nat
  cyc : Nat
  spdm : SMap Nat
  sessions : SMap Session
  measured : List Nat
  streams : SMap Nat
  subs : SMap SubStream
  insecure : List Nat
  ats : List Nat
  events : SMap Event
  evHead : Nat
  evTail : Nat
  evLost : Nat
  life : SMap Nat
  lifeStored : SMap Nat
  flushed : Nat
  cirrus : List Nat
  dead : Bool
  vendorId : Nat
  siteMap : List SiteAnswer
  routed : List Nat
  bootTree : Option Tree
  inbox : List HostIn
  posted : List (Bool × Nat × List (Nat × Byte))
deriving DecidableEq, Repr

/-- One turn of the environment's schedule (log 3): a core issues its next sequence, or
fetches a word of it, an entry of the flight list is performed at its site, an event happens at a site, something arrives from outside,
cycles pass on an agent's own counter, packets pass on a sub-stream of the host link, IDE_KM programs a key set of it, a die's
temperature and supply droop are sampled, the host (a posted write) or a peer device writes memory, or a line suffers an
error that its code cannot correct. -/
inductive Turn where
  | issue (site : Nat)
  | fetch (site : Nat)
  | flight (k : Nat)
  | event (site : Nat) (i : Instr)
  | arrive (x : HostIn)
  | pass (site n : Nat)
  | passNimbus (cluster n : Nat)
  | passZenith (n : Nat)
  | tlps (stream sub n : Nat)
  | ideKey (stream sub set : Nat) (key : List Byte)
  | sense (die temp droop : Nat)
  | outside (host : Bool) (uid : Nat) (cells : List (Nat × Byte))
  | badLine (key : Nat)
deriving DecidableEq, Repr

/-- The whole device, with the model's own fields last: what is under way between agents, the
environment's schedule, the core whose sequence is executed, and the free-value counter (log 10). -/
structure State where
  cores : SMap Core
  parts : SMap Part
  banks : SMap Bank
  mem : List Host.Cell
  bmem : List Host.Cell
  seals : SMap Seal
  bpoison : List Nat
  keys : SMap Key
  nextUid : Nat
  tasks : List Task
  nimbus : SMap Nimbus
  zen : Zenith
  out : List HostOut
  flight : List (Nat × Instr)
  agenda : List Turn
  cur : Nat
  free : Nat
deriving DecidableEq, Repr

/-- A queue as enclave creation leaves it (R114). -/
def Queue.reset : Queue := { cfg := 0x100, res := [], spill := [], since := 0 }

/-- An enclave's state on a core as enclave creation leaves it (R276 and each register's map). -/
def Ctx.reset : Ctx :=
  { wp := 0x1f0000, hbDef := 0x10000, sbm := 1, sbcnt := 0, kmc := 0, smc := 0x200004
    cwp := Vector.replicate 4 0x100000000, vqueue := Vector.replicate 4 none, vqHead := 0, vqTail := 0
    budget := Vector.replicate 4 2048, vtype := 0x202000
    v := Vector.replicate 16 0, k := Vector.replicate 8 0, t := Vector.replicate 8 0
    scale := Vector.replicate 8 0, tc := Vector.replicate 8 0, acc := Vector.replicate 4 0
    bf := 0, bg := 0, bm := 0, bn := 0, bs := 0x3780000004000000, resid := 0x7f800000
    fmt := Vector.replicate 16 0, q := Vector.replicate 4 Queue.reset, deque := [], dspill := []
    ring := [], slots := [] }

def Handler.none : Handler :=
  { hid := 0, record := 0, src := 0, seq := 0, woken := false, origin := .deque, start := 0 }

/-- A core before it is brought up. -/
def Core.reset : Core :=
  { run := .off, part := 256, lnum := 0, cid := 0, nbr := 0, encs := 0, enc := 0, ctx := []
    h := Handler.none, left := 0, pc := 0, slot := none, g := Vector.replicate 16 0
    dq := [], bq := [], sbuf := [], spawns := 0, fenceRel := 0, fenceAcq := 0, fetchPc := 0, words := []
    copyWait := none, msgs := 0
    link := Vector.replicate 4 none, credit := Vector.replicate 4 true
    urgentRr := 0, rr := 0, quiesced := false, preempt := false, keptRecs := []
    keptEntries := [], engine := [], cyc := 0, idleSince := 0, sliceStart := 0
    prods := [], bal := none, mmam := none, seqno := 0, faultHold := 0, sharers := [] }

def Part.empty : Part :=
  { sup := 0, supEnc := 0, encs := 0, x0 := 0, y0 := 0, w := 0, h := 0, slices := [], spill := 64
    ringCap := 64, exts := [], tbl := 0, tblLen := 0, tblNext := 0, pageNext := 0, members := [], key := 0
    handlers := [], masks := [], trees := [], fbase := 0, fcap := 0, fctl := 0, pool := 0
    poolN := 0, conts := [], tqs := [], mtab := [], iface := .unlocked, lockedBy := none
    credits := Vector.replicate 4 64, hdrop := 0, hcount := 0, dbg := [], block4 := 0
    block5 := 0, mlog := [], image := [], zrecs := [], kept := [], spells := []
    rebuilding := false }

def Nimbus.reset : Nimbus :=
  { cyc := 0, window := 0, used := [], old := [], eighth := 0, copies := [], arrivals := 0, moved := 0 }

def Zenith.reset : Zenith :=
  { ready := false, bootCore := 0, failedTest := [], cyc := 0, spdm := [], sessions := [], measured := []
    streams := [], subs := [], insecure := [], ats := [], events := [], evHead := 0, evTail := 0
    evLost := 0, life := [], lifeStored := [], flushed := 0, cirrus := []
    dead := false, vendorId := Config.vendorId, siteMap := [], routed := [], bootTree := none, inbox := [], posted := [] }

/-- The device before power-good (R304, R305): nothing runs, no partition exists, memory lists
nothing. -/
def State.reset : State :=
  { cores := [], parts := [], banks := [], mem := [], bmem := [], seals := [], bpoison := []
    keys := [], nextUid := 1, tasks := [], nimbus := [], zen := Zenith.reset, out := []
    flight := [], agenda := [], cur := 0, free := 0 }

end Sys2Proof.Machine
end

