-- ==== Sys2Proof/Machine/IrisMath.lean ====
section
/-! DEFINITION. The half-sweeps of the balancing engine (R263 to R265, R270), on lists of fp32 and fp16
codes. -/

namespace Sys2Proof.Machine

/-- Element k of a vector of w-bit codes. -/
def elemAt {n : Nat} (x : BitVec n) (w k : Nat) : Nat := x.toNat / 2 ^ (w * k) % 2 ^ w

/-- A vector from its codes, element 0 lowest. -/
def ofElems (n w : Nat) (xs : List Nat) : BitVec n :=
  BitVec.ofNat n (xs.foldr (fun c acc => c % 2 ^ w + 2 ^ w * acc) 0)

/-- All the codes of a vector. -/
def elems {n : Nat} (x : BitVec n) (w cnt : Nat) : List Nat :=
  (List.range cnt).map (elemAt x w)

def negInf32 : Nat := 0xff800000

/-- Change (R263). -/
def ipfChange (a b : Nat) : Nat × Nat :=
  if a = negInf32 && b = negInf32 then (0, 0)
  else
    let (c, f) := add32 (d32 a) (d32 b).neg
    if (d32 c).isNan then (c, f) else (c % 2 ^ 31, f)

/-- MaxN (R263). -/
def ipfMax (x y : Nat) : Nat :=
  if (d32 x).isNan || (d32 y).isNan then (nanCode fp32).1
  else if ltNum (d32 x) (d32 y) then y else x

/-- What a half-sweep leaves: the new scalings, the largest change, whether a log-sum-exp was −Inf,
and the flags. -/
structure HalfResult where
  out : List Nat
  change : Nat
  empty : Bool
  flags : Nat

/-- One line of a half-sweep: its kernel codes, the other scalings, the marginal, the old scaling. -/
def halfLine (ker others : List Nat) (marg old : Nat) : Nat × Nat × Bool × Nat :=
  let zs := (ker.zip others).map (fun (l, o) => add32 (decodeNum fp16 l) (d32 o))
  let (s, f2) := lse (zs.map (fun z => d32 z.1))
  let f1 := zs.foldl (fun acc z => acc ||| z.2) 0
  if s = negInf32 then
    let (c, f3) := ipfChange negInf32 old
    (negInf32, c, true, f1 ||| f2 ||| f3)
  else
    let (nf, f3) := add32 (d32 marg) (d32 s).neg
    let (c, f4) := ipfChange nf old
    (nf, c, false, f1 ||| f2 ||| f3 ||| f4)

def halfLines : List (List Nat) → List Nat → List Nat → List Nat → HalfResult → HalfResult
  | ker :: kers, others, m :: ms, o :: os, r =>
    let (x, c, e, f) := halfLine ker others m o
    halfLines kers others ms os
      { out := r.out ++ [x], change := ipfMax r.change c, empty := r.empty || e, flags := r.flags ||| f }
  | _, _, _, _, r => r

/-- The columns of a matrix of n columns. -/
def columnsOf (n : Nat) (rows : List (List Nat)) : List (List Nat) :=
  (List.range n).map (fun j => rows.map (fun r => r.getD j 0))

def rowHalf (b : BalRun) (bf bg bm : List Nat) : HalfResult :=
  halfLines b.kernel (bg.take b.n) (bm.take b.m) (bf.take b.m)
    { out := [], change := 0, empty := false, flags := 0 }

def colHalf (b : BalRun) (bf bg bn : List Nat) : HalfResult :=
  halfLines (columnsOf b.n b.kernel) (bf.take b.m) (bn.take b.n) (bg.take b.n)
    { out := [], change := 0, empty := false, flags := 0 }

def orFlags (vt : Word) (fl : Nat) : Word := vt ||| BitVec.ofNat 64 (fl * 2 ^ 48)

/-- Replace the first codes of a vector. -/
def putElems (x : BitVec 2048) (ys : List Nat) : BitVec 2048 :=
  ofElems 2048 32 (ys ++ (elems x 32 64).drop ys.length)

def Ctx.applyRow (c : Ctx) (b : BalRun) (write : Bool) : Ctx :=
  let r := rowHalf b (elems c.bf 32 64) (elems c.bg 32 64) (elems c.bm 32 64)
  { c with
    bf := if write then putElems c.bf r.out else c.bf
    resid := BitVec.ofNat 32 r.change
    bs := if write && r.empty then c.bs ||| 0x8000 else c.bs
    vtype := orFlags c.vtype r.flags }

def Ctx.applyCol (c : Ctx) (b : BalRun) : Ctx :=
  let r := colHalf b (elems c.bf 32 64) (elems c.bg 32 64) (elems c.bn 32 64)
  { c with
    bg := putElems c.bg r.out
    resid := BitVec.ofNat 32 r.change
    bs := if r.empty then c.bs ||| 0x8000 else c.bs
    vtype := orFlags c.vtype r.flags }

def bsSweeps (bs : Word) : Nat := bitsOf bs 11 0
def setSweeps (bs : Word) (n : Nat) : Word := putBits bs 11 0 n
def setBsSt (bs : Word) (n : Nat) : Word := putBits bs 17 16 n

/-- One pass of the loop of R264: true when BAL ends with it. -/
def Ctx.balPass (c : Ctx) (b : BalRun) : Ctx × Bool :=
  if bsSweeps c.bs = b.limit then ({ c with bs := setBsSt c.bs 2 }, true)
  else
    let c := (c.applyRow b true).applyCol b
    let c := { c with bs := setSweeps c.bs (bsSweeps c.bs + 1) }
    let c := c.applyRow b false
    let res := d32 c.resid.toNat
    if res.isNan then ({ c with bs := setBsSt c.bs 3 }, true)
    else if !ltNum (d32 b.tol) res then ({ c with bs := setBsSt c.bs 1 }, true)
    else (c, false)

/-- BALX (R265). -/
def Ctx.balxPass (c : Ctx) (b : BalRun) : Ctx :=
  let c := if b.phase = .col then c.applyCol b else c.applyRow b true
  { c with bs := setBsSt c.bs (if (d32 c.resid.toNat).isNan then 3 else 0) }

/-- A trap stops a running sweep at the end of the half-sweep or residual pass in progress (R270):
j says which of the remaining passes is the last. -/
def Ctx.balStop (c : Ctx) (b : BalRun) (j : Nat) : Ctx :=
  let st (c : Ctx) : Ctx := { c with bs := setBsSt c.bs 0 }
  if !b.full then st (if j % 2 = 0 then c else c.balxPass b)
  else if bsSweeps c.bs = b.limit then st c
  else match j % 4 with
    | 0 => st c
    | 1 => st (c.applyRow b true)
    | 2 =>
      let c := (c.applyRow b true).applyCol b
      st { c with bs := setSweeps c.bs (bsSweeps c.bs + 1) }
    | _ =>
      let c := (c.applyRow b true).applyCol b
      st ({ c with bs := setSweeps c.bs (bsSweeps c.bs + 1) }.applyRow b false)

end Sys2Proof.Machine
end

