-- ==== Sys2Proof/Machine/Ops.lean ====
section
/-! DEFINITION. The named operations over the state: tables, memory, translation and sealing, arrival
queues and messages, the homes of versioned cells, the fault queue, taking a trap and ending a handler,
local memory, and the end of a sequence. -/

namespace Sys2Proof.Machine

/-- The outcome of a meaning. -/
abbrev Res := Host.Outcome State Fault Refusal

/-! ### Sparse tables -/

def sget {α : Type} (d : α) (k : Nat) : SMap α → α
  | [] => d
  | (j, x) :: m => if j = k then x else sget d k m

def sget? {α : Type} (k : Nat) : SMap α → Option α
  | [] => none
  | (j, x) :: m => if j = k then some x else sget? k m

def sset {α : Type} (k : Nat) (v : α) : SMap α → SMap α
  | [] => [(k, v)]
  | (j, x) :: m => if j = k then (k, v) :: m else (j, x) :: sset k v m

def sdel {α : Type} (k : Nat) : SMap α → SMap α
  | [] => []
  | (j, x) :: m => if j = k then sdel k m else (j, x) :: sdel k m

/-! ### Bytes of memory: sorted, without zero entries (log 1) -/

/-- What a byte reads as: 0 where nothing is listed. -/
def memRead : List Host.Cell → Nat → Byte
  | [], _ => 0
  | (j, b) :: m, a => if j = a then b else if a < j then 0 else memRead m a

/-- A write that keeps the canonical form: writing 0 removes the entry. -/
def memWrite (a : Nat) (v : Byte) : List Host.Cell → List Host.Cell
  | [] => if v = 0 then [] else [(a, v)]
  | (j, b) :: m =>
    if j = a then (if v = 0 then m else (a, v) :: m)
    else if a < j then (if v = 0 then (j, b) :: m else (a, v) :: (j, b) :: m)
    else (j, b) :: memWrite a v m

/-- The canonical form: addresses strictly rising and no entry 0. -/
def memWfFrom : Nat → List Host.Cell → Bool
  | _, [] => true
  | lo, (j, b) :: m => decide (lo ≤ j) && b != 0 && memWfFrom (j + 1) m

def Memory.wf (m : List Host.Cell) : Bool := memWfFrom 0 m

def memBytes (m : List Host.Cell) (a : Nat) : Nat → List Byte
  | 0 => []
  | n + 1 => memRead m a :: memBytes m (a + 1) n

def memNat (m : List Host.Cell) (a n : Nat) : Nat := leNat (memBytes m a n)

/-- Writes in the order of the list. -/
def memCells : List (Nat × Byte) → List Host.Cell → List Host.Cell
  | [], m => m
  | (a, b) :: cs, m => memCells cs (memWrite a b m)

/-- Consecutive cells from an address. -/
def cellsAt (a : Nat) : List Byte → List (Nat × Byte)
  | [] => []
  | b :: bs => (a, b) :: cellsAt (a + 1) bs

/-! ### Sites (R19) and the state's parts -/

def siteX (c : Nat) : Nat := c % 32
def siteY (c : Nat) : Nat := c / 32 % 32
def dieOf (c : Nat) : Nat := siteY c / 8 * 4 + siteX c / 8
def clusterOf (c : Nat) : Nat := siteY c / 4 * 8 + siteX c / 4

/-- The site where a cluster's Nimbus and Aster sit (R96). -/
def clusterSite (cl : Nat) : Nat := cl / 8 * 4 * 32 + cl % 8 * 4

/-- The neighbour in a direction: 0 north, 1 east, 2 south, 3 west (R124). -/
def neighbour (c : Nat) (dir : Nat) : Option Nat :=
  if dir = 0 then if siteY c < 31 then some (c + 32) else none
  else if dir = 1 then if siteX c < 31 then some (c + 1) else none
  else if dir = 2 then if 0 < siteY c then some (c - 32) else none
  else if 0 < siteX c then some (c - 1) else none

/-- The opposite direction. -/
def opposite (d : Fin 4) : Fin 4 := d + 2

def absDiff (a b : Nat) : Nat := if a ≤ b then b - a else a - b

/-- Chebyshev distance (R142). -/
def chebyshev (a b : Nat) : Nat := max (absDiff (siteX a) (siteX b)) (absDiff (siteY a) (siteY b))

def State.core (s : State) (c : Nat) : Core := sget Core.reset c s.cores
def State.setCore (s : State) (c : Nat) (k : Core) : State := { s with cores := sset c k s.cores }
/-- The core whose sequence is executed. -/
def State.me (s : State) : Core := s.core s.cur
def State.setMe (s : State) (k : Core) : State := s.setCore s.cur k

def Core.cx (k : Core) : Ctx := sget Ctx.reset k.enc k.ctx
def Core.setCx (k : Core) (c : Ctx) : Core := { k with ctx := sset k.enc c k.ctx }
def Core.cxOf (k : Core) (e : Nat) : Ctx := sget Ctx.reset e k.ctx
def Core.setCxOf (k : Core) (e : Nat) (c : Ctx) : Core := { k with ctx := sset e c k.ctx }

/-- The running enclave's state on the executing core. -/
def State.cx (s : State) : Ctx := s.me.cx
def State.setCx (s : State) (c : Ctx) : State := s.setMe (s.me.setCx c)

def State.part (s : State) (p : Nat) : Part := sget Part.empty p s.parts
def State.setPart (s : State) (p : Nat) (x : Part) : State := { s with parts := sset p x s.parts }
def State.bank (s : State) (b : Nat) : Bank := sget { st := .free, owner := 256 } b s.banks
def State.setBank (s : State) (b : Nat) (x : Bank) : State := { s with banks := sset b x s.banks }

/-- A step comes under way, to be performed at a site. -/
def State.enqueue (s : State) (site : Nat) (i : Instr) : State :=
  { s with flight := s.flight ++ [(site, i)] }

/-- A core that R22 counts as live. -/
def Core.live (k : Core) : Bool :=
  match k.run with
  | .off | .failed | .stopped => false
  | _ => true

/-- The site of a logical number, when that core is live. -/
def State.siteOf (s : State) (p n : Nat) : Option Nat :=
  match (s.part p).members[n]? with
  | some c => if (s.core c).live then some c else none
  | none => none

/-- The partition a site's core belongs to now; 256 for none. -/
def State.partOfSite (s : State) (c : Nat) : Nat := (s.core c).part

/-- The executing enclave is the supervisor enclave (R275). -/
def State.privileged (s : State) (c : Nat) : Bool :=
  let k := s.core c
  (s.part k.part).supEnc == k.enc

/-! ### Trap causes (Tables 6.3, 8.5, 11.5, 12.5, 14.4, 15.2, 17.3, 19.12) -/
namespace Cause
def illegal : Nat := 0x01
def priv : Nat := 0x02
def crprot : Nat := 0x03
def crval : Nat := 0x04
def align : Nat := 0x05
def page : Nat := 0x06
def prot : Nat := 0x07
def laddr : Nat := 0x08
def detached : Nat := 0x09
def vwmisuse : Nat := 0x0a
def atomtgt : Nat := 0x0b
def keyrevoked : Nat := 0x0c
def qover : Nat := 0x0d
def qunder : Nat := 0x0e
def qresid : Nat := 0x0f
def stallcheck : Nat := 0x10
def budget : Nat := 0x11
def soft : Nat := 0x12
def brk : Nat := 0x13
def nolive : Nat := 0x14
def nocore : Nat := 0x15
def hidx : Nat := 0x16
def recfmt : Nat := 0x17
def notree : Nat := 0x18
def nolink : Nat := 0x19
def qbusy : Nat := 0x1a
def sndfull : Nat := 0x1b
def spawnlim : Nat := 0x1c
def deqfull : Nat := 0x1d
def contfull : Nat := 0x1e
def taskend : Nat := 0x1f
def reach : Nat := 0x40
def slotbusy : Nat := 0x41
def nofree : Nat := 0x42
def rights : Nat := 0x43
def pinned : Nat := 0x44
def frozen : Nat := 0x45
def bankid : Nat := 0x46
def bankecc : Nat := 0x47
def fmtinv : Nat := 0x48
def voptype : Nat := 0x49
def mtcfg : Nat := 0x50
def mtag : Nat := 0x51
def msparse : Nat := 0x52
def mdesc : Nat := 0x53
def cdesc : Nat := 0x58
def cqval : Nat := 0x59
def cshort : Nat := 0x5a
def nomethod : Nat := 0x60
def trec : Nat := 0x61
def tqfull : Nat := 0x62
def tqnone : Nat := 0x63
def tagval : Nat := 0x64
def mtbad : Nat := 0x65
def footbad : Nat := 0x66
def convdepth : Nat := 0x67
def btag : Nat := 0x68
def beps : Nat := 0x69
def bshape : Nat := 0x6a
def svc : Nat := 0x70
def sealmac : Nat := 0x71
end Cause

/-- A trap's cause and fault address. -/
abbrev Tr := Nat × Word

/-! ### Translation and sealing (R282 to R286) -/

/-- The tier of a physical key, and the size of the tier (R3, R282). -/
def tierOf (key : Nat) : Nat := key / 2 ^ 50
def keyExists (key : Nat) : Bool :=
  if tierOf key = 0 then decide (key % 2 ^ 50 < 2 ^ 39)
  else if tierOf key = 1 then decide (key % 2 ^ 50 < 2 ^ 40)
  else true

/-- A leaf that a walk found: the physical key of the byte, and the leaf's fields. -/
structure Leaf where
  key : Nat
  kid : Nat
  vw : Bool
  x : Bool
  w : Bool
  r : Bool
deriving DecidableEq, Repr

def State.sealOf (s : State) (key : Nat) : Seal := sget Seal.fresh (key / 64) s.seals

/-- Whether the MAC of the line verifies under a key generation (R286, log 14). Host lines carry none. -/
def State.macOk (s : State) (key uid : Nat) : Bool :=
  if tierOf key = 2 then true
  else match s.sealOf key with
    | .fresh => true
    | .key u => u == uid
    | .never => false

/-- The walk of R282 from the table at physical key `tbl`, with the entries read through the seal unit under the partition
key `uid`: a leaf, or PAGE, or SEALMAC where an entry's MAC fails (R286; that the fault address is the access's is log 70). -/
def State.walk (s : State) (uid : Nat) : Nat → Nat → Nat → Except Nat Leaf
  | 0, _, _ => .error Cause.page
  | lvl + 1, tbl, va =>
    let idx := if lvl = 3 then va / 2 ^ 39 % 2 ^ 17 else va / 2 ^ (12 + 9 * lvl) % 512
    let e := memNat s.mem (tbl + 8 * idx) 8
    if !s.macOk (tbl + 8 * idx) uid then .error Cause.sealmac
    else if e % 2 = 0 || natBits e 6 2 ≠ 0 then .error Cause.page
    else if natBits e 1 1 = 1 then
      if lvl = 3 then .error Cause.page
      else
        let size := 2 ^ (12 + 9 * lvl)
        .ok { key := natBits e 51 50 * 2 ^ 50 + natBits e 49 12 * 4096 / size * size + va % size
              kid := natBits e 63 52, vw := natBits e 11 11 == 1, x := natBits e 10 10 == 1
              w := natBits e 9 9 == 1, r := natBits e 8 8 == 1 }
    else if natBits e 63 50 ≠ 0 || natBits e 11 7 ≠ 0 then .error Cause.page
    else s.walk uid lvl (tierOf tbl * 2 ^ 50 + natBits e 49 12 * 4096) va

/-- The line of the table entry at which the walk fails its MAC. -/
def State.walkLine (s : State) (uid : Nat) : Nat → Nat → Nat → Option Nat
  | 0, _, _ => none
  | lvl + 1, tbl, va =>
    let key := tbl + 8 * (if lvl = 3 then va / 2 ^ 39 % 2 ^ 17 else va / 2 ^ (12 + 9 * lvl) % 512)
    if s.macOk key uid then
      s.walkLine uid lvl (tierOf tbl * 2 ^ 50 + natBits (memNat s.mem key 8) 49 12 * 4096) va
    else some (key / 64)

/-- The walk of a virtual address in a partition's tables. -/
def State.walkAt (s : State) (p : Nat) (va : Nat) : Except Nat Leaf :=
  if 2 ^ 56 ≤ va then .error Cause.page else s.walk (s.part p).key 4 (s.part p).tbl va

/-- The leaf of a virtual address in a partition's tables. -/
def State.leaf (s : State) (p : Nat) (va : Nat) : Option Leaf :=
  match s.walkAt p va with
  | .ok l => some l
  | .error _ => none

/-- What an access wants of a page; an atomic reads and writes it. -/
inductive Want where
  | read | write | exec | rmw
deriving DecidableEq, Repr

/-- The key generation that a leaf's KEY names: 0 is the partition key (R282). -/
def State.keyOf (s : State) (p kid : Nat) : Option (Nat × Key) :=
  if kid = 0 then
    match sget? (s.part p).key s.keys with
    | some k => some ((s.part p).key, k)
    | none => none
  else s.keys.find? (fun (_, k) => k.ident == kid && k.part == p && k.st != .empty)

/-- An access that stores. -/
def Want.stores : Want → Bool
  | .write | .rmw => true
  | .read | .exec => false

/-- The checks of R283 on a leaf's KEY: its key generation, or the cause. -/
def State.keyCheck (s : State) (p : Nat) (l : Leaf) (want : Want) : Except Nat Nat :=
  match s.keyOf p l.kid with
  | none => .error Cause.prot
  | some (uid, k) =>
    if l.kid ≠ 0 && tierOf l.key = 2 then .error Cause.prot
    else if k.st = .revoked then .error Cause.keyrevoked
    else if k.st = .provisioned then .error Cause.prot
    else if k.st = .retiring && want.stores then .error Cause.prot
    else .ok uid

/-- The page grants what an access wants of it. -/
def Leaf.grants (l : Leaf) : Want → Bool
  | .read => l.r
  | .write => l.w
  | .exec => l.x
  | .rmw => l.r && l.w

/-- Translation with the checks of R282 and R283: the leaf and its key generation, or the cause. -/
def State.translate (s : State) (p : Nat) (va : Nat) (want : Want) : Except Nat (Leaf × Nat) :=
  match s.walkAt p va with
  | .error c => .error c
  | .ok l =>
    if !l.grants want then .error Cause.prot
    else match s.keyCheck p l want with
      | .error c => .error c
      | .ok uid => .ok (l, uid)

/-- The physical key of a virtual address for the monitor, Zenith, Nimbus and Aster, with the checks of R283, whatever the
page's rights. -/
def State.physFor (s : State) (p : Nat) (va : Nat) (want : Want) : Option Nat :=
  match s.leaf p va with
  | some l =>
    match s.keyCheck p l want with
    | .ok _ => if keyExists l.key then some l.key else none
    | .error _ => none
  | none => none

def State.physOf (s : State) (p : Nat) (va : Nat) : Option Nat := s.physFor p va .read

/-- The key generation of the page of a virtual address. -/
def State.uidAt (s : State) (p va : Nat) : Nat :=
  match s.leaf p va with
  | some l =>
    match s.keyOf p l.kid with
    | some (uid, _) => uid
    | none => (s.part p).key
  | none => (s.part p).key

/-- The line of a physical key has an error beyond its code: it fails in the way of a MAC, under every key (R309). -/
def State.lineDead (s : State) (key : Nat) : Bool := tierOf key != 2 && s.sealOf key == .never

/-- The seal of a line into which bytes are written under a key generation. A line with an error beyond its code fails on until
all its bytes are written (R309, log 82). -/
def State.sealAfter (s : State) (cells : List (Nat × Byte)) (uid line : Nat) : Seal :=
  if sget Seal.fresh line s.seals = .never && !(List.range 64).all (fun j => cells.any (fun c => c.1 == line * 64 + j)) then .never
  else .key uid

/-- Plain bytes written to memory and the lines sealed under a key generation. -/
def State.storeCells (s : State) (cells : List (Nat × Byte)) (uid : Nat) : State :=
  { s with mem := memCells cells s.mem
           seals := cells.foldl (fun m c => sset (c.1 / 64) (s.sealAfter cells uid (c.1 / 64)) m) s.seals }

/-- Bytes written under several key generations. -/
def State.storeParts (s : State) : List (Nat × List (Nat × Byte)) → State
  | [] => s
  | (uid, cells) :: ps => (s.storeCells cells uid).storeParts ps

def State.memWord (s : State) (key n : Nat) : Nat := memNat s.mem key n

/-- Bytes written by the monitor, Zenith or Aster at a virtual address of one page. -/
def State.physWrite (s : State) (p va : Nat) (bs : List Byte) : Option State :=
  match s.physFor p va .write with
  | some key => some (s.storeCells (cellsAt key bs) (s.uidAt p va))
  | none => none

/-- The lines of n bytes at a physical key verify (R286). -/
def State.macsOk (s : State) (key n uid : Nat) : Bool :=
  (List.range ((key + n + 63) / 64 - key / 64)).all (fun i => s.macOk ((key / 64 + i) * 64) uid)

/-- Bytes read by Aster or the monitor, when the page translates and its lines verify (R283, R286). -/
def State.physRead (s : State) (p va n : Nat) : Option Nat :=
  match s.physOf p va with
  | some key => if s.macsOk key n (s.uidAt p va) then some (memNat s.mem key n) else none
  | none => none

/-- The lines of n bytes at a virtual address. -/
def linesOf (va n : Nat) : List Nat := (List.range ((va % 64 + n + 63) / 64)).map (fun i => va / 64 * 64 + 64 * i)

/-- The line that does not verify when the monitor, Zenith, Nimbus or Aster reads at a virtual address: that of a table entry on
the walk, or the address's own (R286). -/
def State.failedLine (s : State) (p a : Nat) : Option Nat :=
  match s.walkAt p a with
  | .error c => if c = Cause.sealmac then s.walkLine (s.part p).key 4 (s.part p).tbl a else none
  | .ok l =>
    match s.keyCheck p l .read with
    | .ok uid => if keyExists l.key && !s.macOk l.key uid then some (l.key / 64) else none
    | .error _ => none

/-- Reading at a virtual address meets a line that does not verify (R286). -/
def State.lineFails (s : State) (p a : Nat) : Bool := (s.failedLine p a).isSome

/-- The walk of a virtual address meets a table entry that does not verify (R286). -/
def State.walkFails (s : State) (p a : Nat) : Bool :=
  match s.walkAt p a with
  | .error c => c == Cause.sealmac
  | .ok _ => false

/-- Reading n bytes at a virtual address meets a line that does not verify (R286). -/
def State.macFails (s : State) (p va n : Nat) : Bool := (linesOf va n).any (s.lineFails p)

/-- How many lines that do not verify the reading of some spans (an address and a length) meets (R286). -/
def State.failedLines (s : State) (p : Nat) (spans : List (Nat × Nat)) : Nat :=
  ((spans.flatMap (fun x => linesOf x.1 x.2)).dedup.filterMap (s.failedLine p)).dedup.length

/-- A global line that Nimbus owns (R78). -/
def State.lineOwned (s : State) (line : Nat) : Bool :=
  s.nimbus.any (fun (_, n) => n.copies.any (fun c => c.own.contains line))

/-- Nimbus owns one of the lines of n bytes at a physical key (R78), or they lie in a host page under invalidation (R295). -/
def State.keyHeld (s : State) (key n : Nat) : Bool :=
  s.nimbus.any (fun (_, m) => m.copies.any (fun c => c.own.any (fun l => decide (key / 64 ≤ l) && decide (l * 64 < key + n))))
  || s.zen.ats.contains (key / 4096)

/-- No other agent waits for n bytes at a virtual address: their lines are free for Aster, the monitor and Zenith. -/
def State.vaFree (s : State) (p va n : Nat) : Bool :=
  (s.nimbus.all (fun (_, m) => m.copies.all (fun c => c.own.isEmpty)) && s.zen.ats.isEmpty)
  || (List.range ((va % 4096 + n + 4095) / 4096)).all (fun i =>
    let lo := max va ((va / 4096 + i) * 4096)
    match s.physOf p lo with
    | some key => !s.keyHeld key (min (va + n) ((va / 4096 + i + 1) * 4096) - lo)
    | none => true)

/-! ### Strand headers (R112) and arrival queues (R114 to R116) -/

def hdrOf (r : Record) : Word := dword r 0
def hIdx (r : Record) : Nat := bitsOf r 63 52
def hPrio (r : Record) : Nat := bitsOf r 51 48
def hQue (r : Record) : Fin 4 := Fin.ofNat 4 (bitsOf r 47 46)
def hNs (r : Record) : Bool := bitOf r 45
def hHeld (r : Record) : Bool := bitOf r 44
def hMsk (r : Record) : Nat := bitsOf r 43 38
def hOrig (r : Record) : Nat := bitsOf r 33 24
def hKey (r : Record) : Nat := bitsOf r 23 0
def setOrig (r : Record) (n : Nat) : Record := putBits r 33 24 n
def setHeld (r : Record) (b : Bool) : Record := putBits r 44 44 b.toNat

def Queue.mode (q : Queue) : Nat := bitsOf q.cfg 1 0
def Queue.cap (q : Queue) : Nat := bitsOf q.cfg 8 4
def Queue.count (q : Queue) : Nat := q.res.length + q.spill.length

/-- The head wait of the head entry at a cycle (R31): held heads do not age. -/
def Queue.headWait (q : Queue) (cyc : Nat) : Nat :=
  match q.res with
  | [] => 0
  | e :: _ => if hHeld e.record then 0 else e.wait + (cyc - q.since)

/-- Set the resident entries; when the head changes, the old head keeps the wait it added up. -/
def Queue.setRes (q : Queue) (res : List Entry) (cyc : Nat) : Queue :=
  match q.res, res with
  | [], _ => { q with res := res, since := cyc }
  | e :: _, e' :: _ =>
    if e.arr = e'.arr then { q with res := res }
    else
      let w := q.headWait cyc
      { q with res := res.map (fun x => if x.arr = e.arr then { x with wait := w } else x), since := cyc }
  | _ :: _, [] => { q with res := [], since := cyc }

/-- The effective priority of the head (R31). -/
def Queue.effPrio (q : Queue) (cyc : Nat) : Nat :=
  match q.res with
  | [] => 0
  | e :: _ => min 15 (hPrio e.record + q.headWait cyc / 4096)

def Queue.ready (q : Queue) : Bool :=
  match q.res with
  | [] => false
  | e :: _ => !hHeld e.record

/-- Remove the head; the oldest spilled entry becomes resident (R115). -/
def Queue.pop (q : Queue) (cyc : Nat) : Queue :=
  match q.res with
  | [] => q
  | _ :: es =>
    match q.spill with
    | [] => q.setRes es cyc
    | x :: xs => { (q.setRes (es ++ [x]) cyc) with spill := xs }

/-- A strand of the host that still holds its credit (R296). -/
def isHost (e : Entry) : Bool := e.src == 0x7ff && e.credit

/-- A FIFO arrival (R115): none when it bounces. Host arrivals have places of their own (R296). -/
def Queue.arriveFifo (q : Queue) (e : Entry) (spillCap cyc : Nat) : Option Queue :=
  if q.res.length < q.cap then some (q.setRes (q.res ++ [e]) cyc)
  else if isHost e || (q.spill.filter (fun x => !isHost x)).length < spillCap then
    some { q with spill := q.spill ++ [e] }
  else none

/-- The place of an entry in a ranked queue (R116, R130): held entries first, then by priority, then
by arrival. -/
def rankInsert (e : Entry) : List Entry → List Entry
  | [] => [e]
  | x :: xs =>
    if hHeld x.record then x :: rankInsert e xs
    else if hPrio x.record < hPrio e.record || (hPrio x.record = hPrio e.record && e.arr < x.arr) then
      e :: x :: xs
    else x :: rankInsert e xs

/-- Drop the lowest-ranked entry that is not held. -/
def dropLowest (es : List Entry) : List Entry × List Entry :=
  match es.reverse.find? (fun e => !hHeld e.record) with
  | some e => (es.filter (fun x => x.arr != e.arr), [e])
  | none => (es, [])

/-- A ranked arrival (R116): the queue, and the entries discarded. -/
def Queue.arriveRanked (q : Queue) (e : Entry) (cyc : Nat) : Queue × List Entry :=
  let same := q.res.find? (fun x => q.mode == 2 && !hHeld x.record && hKey x.record == hKey e.record)
  match same with
  | some x =>
    if hPrio x.record ≤ hPrio e.record then
      let w := if q.res.head?.map (·.arr) = some x.arr then q.headWait cyc else x.wait
      let e' := { e with arr := x.arr, wait := w }
      let q' := q.setRes (rankInsert e' (q.res.filter (fun y => y.arr != x.arr))) cyc
      ({ q' with since := if q'.res.head?.map (·.arr) = some x.arr then cyc else q'.since }, [x])
    else (q, [e])
  | none =>
    let es := rankInsert e q.res
    if q.cap < es.length then
      let (es, d) := dropLowest es
      (q.setRes es cyc, d)
    else (q.setRes es cyc, [])

def smcDrops (smc : Word) (n : Nat) : Word := putBits smc 47 32 (min 0xffff (bitsOf smc 47 32 + n))

/-- Host credits come back for the host's entries (R296). -/
def State.creditBack (s : State) (p : Nat) (q : Fin 4) (es : List Entry) : State :=
  let n := (es.filter isHost).length
  let pt := s.part p
  s.setPart p { pt with credits := pt.credits.set q (min 64 (pt.credits[q] + n)) }

/-! ### Events and messages -/

/-- A record in the host's event ring (R310). -/
def State.event (s : State) (cls : EventClass) (site part detail : Nat) : State :=
  let z := s.zen
  if z.evHead - z.evTail = 256 then { s with zen := { z with evLost := z.evLost + 1 } }
  else
    { s with
      zen := { z with
        events := sset (z.evHead % 256)
          { cls := cls, site := site, part := part, detail := detail, cyc := z.cyc } z.events
        evHead := z.evHead + 1 }
      out := s.out ++ [.msix 0] }

/-- Add to field j of lifetime record r (R312); counters saturate (log 53). -/
def State.lifeAdd (s : State) (r j n : Nat) : State :=
  let i := r * 64 + j
  { s with zen := { s.zen with life := sset i (min (2 ^ 32 - 1) (sget 0 i s.zen.life + n)) s.zen.life } }

/-! ### Resident keys (R39, R290) -/

/-- Note the use of keys, for the choice of a victim (R290). -/
def touchKeys (keys : SMap Key) : List Nat → SMap Key
  | [] => keys
  | u :: us =>
    let now := keys.foldl (fun m k => max m k.2.used) 0 + 1
    match sget? u keys with
    | some k => touchKeys (sset u { k with used := now } keys) us
    | none => touchKeys keys us

def Key.evictable (k : Key) : Bool := k.resident && (k.st == .active || k.st == .retiring)

/-- A seal unit uses the key for an access in progress. -/
def State.keyBusy (s : State) (uid : Nat) : Bool :=
  s.flight.any (fun (_, i) => match i with
    | .accessPerformed x => x.uid == uid
    | _ => false)

/-- The least recently used key that may be evicted. -/
def State.victim (s : State) : Option Nat :=
  (s.keys.foldl (fun (best : Option (Nat × Key)) x =>
    if !x.2.evictable || s.keyBusy x.1 then best
    else match best with
      | none => some x
      | some b => if x.2.used < b.2.used then some x else best) none).map (·.1)

def State.residents (s : State) : Nat := (s.keys.filter (fun x => x.2.resident)).length

/-- A resident entry is free, after an eviction if need be; none while none can be had. -/
def State.keyRoom (s : State) : Option State :=
  if s.residents < 256 then some s
  else match s.victim with
    | none => none
    | some u =>
      match sget? u s.keys with
      | some k => some { s with keys := sset u { k with resident := false } s.keys }
      | none => none

/-- A key becomes resident. -/
def residentKey (keys : SMap Key) (uid : Nat) (k : Key) : SMap Key :=
  touchKeys (sset uid { k with resident := true } keys) [uid]

/-- A seal unit without a core of its own can use a key: it is resident, or can be reloaded at once. -/
def State.keyLoads (s : State) (uid : Nat) : Bool :=
  match sget? uid s.keys with
  | none => true
  | some k => k.resident || s.keyRoom.isSome

/-- A seal unit without a core of its own, or the monitor or Zenith, uses a key: a key miss counts in the lifetime records,
and the key is reloaded (R290, R312). -/
def State.useKey (s : State) (uid : Nat) : State :=
  match sget? uid s.keys with
  | none => s
  | some k =>
    if k.resident then { s with keys := touchKeys s.keys [uid] }
    else
      let s := s.lifeAdd 2085 0 1
      let s := s.keyRoom.getD s
      { s with keys := residentKey s.keys uid k }

/-- Several keys are used, one after another. -/
def State.useEach (s : State) : List Nat → State
  | [] => s
  | u :: us => (s.useKey u).useEach us

/-- Keys are used together: loading one evicts none of the others (R290). -/
def State.useKeys (s : State) (us : List Nat) : State := State.useEach { s with keys := touchKeys s.keys us } us

/-- A key generation whose key is not resident. -/
def State.keyAway (s : State) (uid : Nat) : Bool :=
  match sget? uid s.keys with
  | some k => !k.resident
  | none => false

/-- The first of these key generations whose key is not resident (R290). -/
def State.keyMissing (s : State) (uids : List Nat) : Option Nat := uids.find? s.keyAway

/-- Keys can be used together: those that are not resident find free entries, or others that may be evicted (R290). -/
def State.keysLoad (s : State) (uids : List Nat) : Bool :=
  let others := s.keys.filter (fun x => x.2.evictable && !s.keyBusy x.1 && !uids.contains x.1)
  decide ((uids.dedup.filter s.keyAway).length ≤ (256 - s.residents) + others.length)
  || (s.keyMissing uids).isNone

/-- The key generations of the pages of some spans of a partition's addresses, of those that translate. -/
def State.spanUids (s : State) (p : Nat) (spans : List (Nat × Nat)) : List Nat :=
  (spans.flatMap (fun x => (List.range ((x.1 % 4096 + x.2 + 4095) / 4096)).filterMap (fun i =>
    let a := max x.1 (x.1 / 4096 * 4096 + 4096 * i)
    (s.physOf p a).map (fun _ => s.uidAt p a)))).dedup

/-! ### Messages on their way -/

/-- The step by which a message arrives: by the mode of its queue (R115, R116). -/
def State.arrivalOf (s : State) (m : Msg) : Instr :=
  if ((s.core m.site).cxOf m.enc).q[m.queue].mode = 0 then .fifoArrival m else .rankedArrival m

def sameTarget (a b : Msg) : Bool := a.site == b.site && a.enc == b.enc && a.queue == b.queue

/-- A message leaves core c's message engine, or is held back behind one that waits (R117). -/
def State.sendFrom (s : State) (c : Nat) (m : Msg) : State :=
  let k := s.core c
  if k.engine.any (fun x => sameTarget x.msg m) then
    s.setCore c { k with engine := k.engine ++ [{ msg := m, due := none, sent := false }] }
  else s.enqueue m.site (s.arrivalOf m)

/-! ### Versioned cells at their home (R74, R125 to R129) -/

def State.cellValue (s : State) (cell : Nat) : Word := BitVec.ofNat 64 (s.memWord cell 8)
def State.cellVersion (s : State) (cell : Nat) : Nat := s.memWord (cell + 8) 4
def State.cellHead (s : State) (cell : Nat) : Nat := s.memWord (cell + 12) 4

def State.setCell (s : State) (p cell : Nat) (va v : Word) (ver head : Nat) : State :=
  s.storeCells (cellsAt cell (leBytes 8 v.toNat ++ leBytes 4 ver ++ leBytes 4 head)) (s.uidAt p va.toNat)

/-- A core mask (R125): index 0 is the whole partition. -/
def State.mask (s : State) (p i : Nat) : Option (BitVec 1024) :=
  if i = 0 then some (BitVec.allOnes 1024) else sget? i (s.part p).masks

/-- The live core of the lowest logical number in a mask. -/
def State.lowestLive (s : State) (p : Nat) (mask : BitVec 1024) : Option Nat :=
  (s.part p).members.zipIdx.findSome? (fun (c, n) =>
    if bitOf mask n && (s.core c).live then some c else none)

/-- Where a wake goes (R28). -/
def State.wakeSite (s : State) (p : Nat) (r : Record) : Option Nat :=
  let mask := (s.mask p (hMsk r)).getD 0
  match s.siteOf p (hOrig r) with
  | some c => if bitOf mask (hOrig r) then some c else s.lowestLive p mask
  | none => s.lowestLive p mask

/-- The site of the slice where a line is homed (R74). -/
def homeSite (key : Nat) : Nat := Config.homeSlice (key / 64) % 1024

/-- A wake leaves the home (R74); none when the mask holds no live core. -/
def State.sendWake (s : State) (p enc cell : Nat) (va : Word) (r : Record) : Option State :=
  match s.wakeSite p r with
  | some c =>
    some (s.enqueue c (s.arrivalOf
      { record := r, part := p, enc := enc, site := c, queue := 3, src := 0x7fd, seq := 0, chan := 2048 + homeSite cell
        woken := true, cell := va }))
  | none => none

/-- The list of a cell's continuations from an entry on, at most n. -/
def contChain (conts : SMap Cont) : Nat → Nat → List Nat
  | 0, _ => []
  | n + 1, head => if head = 0 then [] else
    match sget? (head - 1) conts with
    | some c => (head - 1) :: contChain conts n c.next
    | none => []

/-- Rebuild a list from entry indices: the head and the relinked entries. -/
def relink (conts : SMap Cont) : List Nat → SMap Cont × Nat
  | [] => (conts, 0)
  | i :: is =>
    let (cs, h) := relink conts is
    match sget? i cs with
    | some c => (sset i { c with next := h } cs, i + 1)
    | none => (cs, h)

/-- The 64-byte record of R132. -/
def trapRecord (code flags detail cause src seq : Nat) (iaddr faddr core hdr : Word) (used left : Nat) :
    Record :=
  ofDwords 512
    [ BitVec.ofNat 64 (cause + detail * 2 ^ 8 + flags * 2 ^ 16 + code % 2 ^ 32 * 2 ^ 32),
      BitVec.ofNat 64 (seq % 2 ^ 32 + src % 2 ^ 11 * 2 ^ 32),
      iaddr, faddr, core, hdr,
      BitVec.ofNat 64 (left % 2 ^ 32 + min used (2 ^ 32 - 1) * 2 ^ 32), 0 ]

/-- The NOLIVE record of a continuation (R28). -/
def noliveRecord (p : Nat) (c : Cont) : Record :=
  trapRecord 0 16 0 Cause.nolive 0x7fd 0 0 c.cell
    (BitVec.ofNat 64 (p * 2 ^ 32 + hOrig c.record * 2 ^ 20 + c.enc * 2 ^ 61)) (hdrOf c.record) 0 0

/-- An agent keeps a record, behind those it keeps (R131). Agents: a site is its core, 1026 Zenith, 2048 + n the home at
site n, 4096 + n the Aster of cluster n. -/
def State.keepRecord (s : State) (p agent : Nat) (r : Record) : State :=
  let pt := s.part p
  s.setPart p { pt with kept := pt.kept ++ [(agent, r)] }

/-- The home at a cell's slice owes the NOLIVE record of a continuation. -/
def State.oweNolive (s : State) (p cell : Nat) (c : Cont) : State :=
  s.keepRecord p (2048 + homeSite cell) (noliveRecord p c)

/-- Wakes for the reached continuations in list order, newest first; those without a live core stay
in the pool, and their home owes a NOLIVE record (R28). -/
def State.wakeAll (s : State) (p key : Nat) (cell : Word) : List Nat → State
  | [] => s
  | i :: is =>
    match sget? i (s.part p).conts with
    | none => s.wakeAll p key cell is
    | some c =>
      match s.sendWake p c.enc key cell c.record with
      | some s' =>
        let pt := s'.part p
        (s'.setPart p { pt with conts := sdel i pt.conts }).wakeAll p key cell is
      | none =>
        let pt := s.part p
        let c' := { c with pending := true, cell := cell, next := 0 }
        ((s.setPart p { pt with conts := sset i c' pt.conts }).oweNolive p key c').wakeAll p key cell is

/-- The tasks registered with the home for a version that a cell reaches (R242 step 1). -/
def State.noteVersion (s : State) (cell ver : Nat) : State :=
  { s with tasks := s.tasks.map (fun (t : Task) =>
      { t with regs := t.regs.filter (fun r => r.1 != cell || decide (ver < r.2)) }) }

/-- A write of a cell at its home, with the wakes it sends (R74, R128). -/
def State.cellWrite (s : State) (p cell : Nat) (va v : Word) (ver : Nat) : State :=
  let s := s.noteVersion cell ver
  let pt := s.part p
  let all := contChain pt.conts (pt.conts.length + 1) (s.cellHead cell)
  let reached := all.filter (fun i => match sget? i pt.conts with
    | some c => decide (c.n ≤ ver)
    | none => false)
  let rest := all.filter (fun i => !reached.contains i)
  let (conts, head) := relink pt.conts rest
  let s := (s.setCell p cell va v ver head).setPart p { pt with conts := conts }
  s.wakeAll p cell va reached

/-! ### The fault queue (R131) and trap records (R132) -/

/-- The parts of a trap record that a cause fixes. -/
structure TrapInfo where
  cause : Nat
  faddr : Word := 0
  detail : Nat := 0
  code : Nat := 0
  x : Bool := false
  iaddr : Option Word := none
  noSlot : Bool := false
deriving DecidableEq, Repr

/-- What writing the next record touches: the control block, and the slot when the control block's page serves. -/
def State.faultSpans (s : State) (p : Nat) : List (Nat × Nat) :=
  let pt := s.part p
  (pt.fctl, 32) :: (match s.physFor p pt.fctl .write with
    | some ctl => [(pt.fbase + 64 * (s.cellVersion ctl % pt.fcap), 64)]
    | none => [])

/-- The control block's line or the ring waits for Nimbus or for an invalidation (R78, R295), or for a key that cannot be
loaded yet (R290). -/
def State.faultHeld (s : State) (p : Nat) : Bool :=
  let pt := s.part p
  pt.fcap != 0 && !(s.vaFree p pt.fctl 32 && s.vaFree p pt.fbase (64 * pt.fcap)
    && s.keysLoad (s.spanUids p (s.faultSpans p)))

/-- The ring has room, and its control block translates and verifies. -/
def State.faultRoom (s : State) (p : Nat) : Option (Nat × Nat × Nat) :=
  let pt := s.part p
  if pt.fcap = 0 || s.faultHeld p then none
  else match s.physFor p pt.fctl .write with
    | none => none
    | some ctl =>
      let v := s.cellVersion ctl
      let ack := s.memWord (ctl + 16) 8
      if !s.macOk ctl (s.uidAt p pt.fctl) || (v + 2 ^ 64 - ack) % 2 ^ 32 = pt.fcap then none
      else match s.physFor p (pt.fbase + 64 * (v % pt.fcap)) .write with
        | some slot => some (ctl, slot, v)
        | none => none

/-- Write a record and bump the record cell; none when there is no room. The keys of both pages are used (R290). -/
def State.writeFault (s : State) (p : Nat) (r : Record) : Option State :=
  match s.faultRoom p with
  | none => none
  | some (ctl, slot, v) =>
    let pt := s.part p
    let s := s.useKeys (s.spanUids p (s.faultSpans p))
    let s := s.storeCells (cellsAt slot (leBytes 64 r.toNat)) (s.uidAt p (pt.fbase + 64 * (v % pt.fcap)))
    some (s.cellWrite p ctl (BitVec.ofNat 64 pt.fctl) (s.cellValue ctl + 1) ((v + 1) % 2 ^ 32))

/-- The site that an agent's event names. -/
def agentSite (a : Nat) : Nat :=
  if 4096 ≤ a then clusterSite (a - 4096) else if 2048 ≤ a then a - 2048 else a

/-- Writing the next record meets a line that does not verify: of the control block, or of the tables on the way to it or to
the slot. -/
def State.ctlFails (s : State) (p : Nat) : Bool :=
  s.lineFails p (s.part p).fctl || (s.faultSpans p).any (fun x => s.walkFails p x.1)

/-- A line that does not verify counts, at each attempt to write a record, in the lifetime records of the
agent's site; Zenith, which has none, counts in record 0 (R286, R312, log 37). -/
def State.countCtl (s : State) (p agent : Nat) : State :=
  let pt := s.part p
  if pt.fcap = 0 || s.faultHeld p || !s.ctlFails p then s
  else if agent = 1026 then s.lifeAdd 0 4 1
  else s.lifeAdd (1 + agentSite agent) 3 1

/-- An agent reports a full ring once for each spell (R131). -/
def State.noteFull (s : State) (p agent : Nat) : State :=
  let pt := s.part p
  if pt.spells.contains agent || s.faultHeld p then s
  else (s.setPart p { pt with spells := agent :: pt.spells }).event .ringFull (agentSite agent) p 0

def State.noteRoom (s : State) (p agent : Nat) : State :=
  let pt := s.part p
  s.setPart p { pt with spells := pt.spells.filter (· != agent) }

/-- The agents whose records stay kept find the ring full. -/
def State.noteAll (s : State) (p : Nat) : List (Nat × Record) → State
  | [] => s
  | (a, _) :: rs => (s.noteFull p a).noteAll p rs

/-- The records that homes and Asters keep are written in the order kept, as far as there is room (R131). -/
def State.flushList (s : State) (p : Nat) : List (Nat × Record) → State
  | [] => s
  | (a, r) :: rs =>
    match s.writeFault p r with
    | some s => (s.noteRoom p a).flushList p rs
    | none =>
      let s := s.countCtl p a
      let pt := s.part p
      let kept := (a, r) :: rs ++ pt.kept
      (s.setPart p { pt with kept := kept }).noteAll p kept

def State.flushKept (s : State) (p : Nat) : State :=
  let pt := s.part p
  (s.setPart p { pt with kept := [] }).flushList p pt.kept

/-- A home or an Aster reports a record: it is written behind those kept before it. -/
def State.reportRecord (s : State) (p agent : Nat) (r : Record) : State := (s.keepRecord p agent r).flushKept p

/-- A write of a cell with everything it brings about (R74, R28). -/
def State.homeWrite (s : State) (p cell : Nat) (va v : Word) (ver : Nat) : State :=
  (s.cellWrite p cell va v ver).flushKept p

/-! ### Registers -/

def Core.setG (k : Core) (d : Fin 16) (v : Word) : Core := { k with g := k.g.set d v }
def Core.getG (k : Core) (d : Fin 16) : Word := k.g[d]

/-! ### Local memory (R87, R104, R139, R151, R156) -/

/-- The bank identity of an attach-table entry, and its fields (R139). -/
def slotBank (e : Word) : Nat := bitsOf e 18 9 * 512 + bitsOf e 8 0
def slotState (e : Word) : Nat := bitsOf e 33 32
def slotRd (e : Word) : Bool := bitOf e 34
def slotWr (e : Word) : Bool := bitOf e 35
def slotHo (e : Word) : Bool := bitOf e 36
def slotPin (e : Word) : Bool := bitOf e 37
def slotRights (e : Word) : Nat := bitsOf e 36 34

/-- An attach-table entry from its fields. -/
def mkSlot (st rights : Nat) (pin : Bool) (from_ bank : Nat) : Word :=
  BitVec.ofNat 64 (bank % 512 + bank / 512 % 1024 * 2 ^ 9 + from_ % 1024 * 2 ^ 20 + st * 2 ^ 32
    + rights * 2 ^ 34 + pin.toNat * 2 ^ 37)

def Ctx.slot (c : Ctx) (n : Nat) : Word := sget 0 n c.slots
def Ctx.setSlot (c : Ctx) (n : Nat) (e : Word) : Ctx :=
  { c with slots := if e = 0 then sdel n c.slots else sset n e c.slots }

/-- The address lies in the running strand's own workspace (R87). -/
def Core.inWorkspace (k : Core) (a : Nat) : Bool :=
  decide (k.cx.wp.toNat ≤ a ∧ a < k.cx.wp.toNat + 128)

/-- The outcome of a check of local bytes. -/
inductive LocalCheck where
  | ok | wait | trap (cause : Nat) (faddr : Word)
deriving DecidableEq, Repr

/-- The check of one doubleword or smaller access at a local address, as R104 gives it. -/
def State.localCheck (s : State) (want : Want) (a : Word) : LocalCheck :=
  let k := s.me
  if a.toNat ≥ 2 ^ 21 then .trap Cause.laddr a
  else
    let slot := a.toNat / 4096
    if 496 ≤ slot then if k.inWorkspace a.toNat then .ok else .trap Cause.laddr a
    else
      let e := k.cx.slot slot
      if slotState e = 2 then .wait
      else if slotState e ≠ 1 then .trap Cause.detached a
      else if want = .read && !slotRd e then .trap Cause.rights a
      else if want = .write && !slotWr e then .trap Cause.rights a
      else if want = .read && s.bpoison.contains (slotBank e * 512 + a.toNat % 4096 / 8) then
        .trap Cause.bankecc (a - BitVec.ofNat 64 (a.toNat % 8))
      else .ok

/-- The doublewords of n bytes from a, checked in ascending address. -/
def State.localChecks (s : State) (want : Want) (a : Word) : Nat → LocalCheck
  | 0 => .ok
  | n + 1 =>
    match s.localCheck want a with
    | .ok => s.localChecks want (a + 8) n
    | r => r

/-- The key of a bank byte. -/
def bankKey (bank off : Nat) : Nat := bank * 4096 + off

/-- A byte at a local address that the checks accepted: a register byte or a bank byte. -/
def State.localByte (s : State) (a : Nat) : Byte :=
  let k := s.me
  if k.inWorkspace a then
    let o := a - k.cx.wp.toNat
    byteAt (k.getG (Fin.ofNat 16 (o / 8))).toNat (o % 8)
  else memRead s.bmem (bankKey (slotBank (k.cx.slot (a / 4096))) (a % 4096))

def State.localBytes (s : State) (a : Nat) : Nat → List Byte
  | 0 => []
  | n + 1 => s.localByte a :: s.localBytes (a + 1) n

def State.localNat (s : State) (a n : Nat) : Nat := leNat (s.localBytes a n)

/-- Poison that a write of these bank bytes clears: every doubleword it covers whole (R156). -/
def clearPoison (ps : List Nat) (cells : List (Nat × Byte)) : List Nat :=
  ps.filter (fun d => !(List.range 8).all (fun i => cells.any (fun c => c.1 == d * 8 + i)))

/-- Bank bytes written. -/
def State.bankCells (s : State) (cells : List (Nat × Byte)) : State :=
  { s with bmem := memCells cells s.bmem, bpoison := clearPoison s.bpoison cells }

/-- Replace byte j of a doubleword. -/
def putByte (x : Word) (j : Nat) (b : Byte) : Word := putBits x (8 * j + 7) (8 * j) b.toNat

/-- Bytes written at local addresses that the checks accepted, in order. -/
def State.localWrite (s : State) (cells : List (Nat × Byte)) : State :=
  let k := s.me
  let regs := cells.filter (fun c => k.inWorkspace c.1)
  let banks := (cells.filter (fun c => !k.inWorkspace c.1)).map (fun c =>
    (bankKey (slotBank (k.cx.slot (c.1 / 4096))) (c.1 % 4096), c.2))
  let k' := regs.foldl (fun k c =>
    let o := c.1 - k.cx.wp.toNat
    let d := Fin.ofNat 16 (o / 8)
    k.setG d (putByte (k.getG d) (o % 8) c.2)) k
  (s.bankCells banks).setMe k'

/-! ### The end of a sequence -/

/-- The words of a sequence (R42) and its issue cost (R94). -/
def pfxWords (p : Pfx) : Nat := 1 + p.pxp.toNat + p.pxr.toNat + p.npxi
def pfxBytes (p : Pfx) : Word := BitVec.ofNat 64 (2 * pfxWords p)

/-- Cycles pass on a core's own counter, and the budget falls with them (R93). -/
def Core.tick (k : Core) (n : Nat) : Core := { k with cyc := k.cyc + n, left := k.left - n }

/-- Cycles pass while the budget is held (R34, R110). -/
def Core.tickHeld (k : Core) (n : Nat) : Core := { k with cyc := k.cyc + n }

/-- The address of the next sequence: past this one, or the target of the branch whose delay slot
this one is (R51). -/
def Core.nextPc (k : Core) (p : Pfx) : Word :=
  match k.slot with
  | some (_, some t) => t
  | _ => k.pc + pfxBytes p

/-- A sequence has issued: the pc moves and its cycles pass (R42, R93, R94). -/
def Core.advance (k : Core) (p : Pfx) : Core :=
  { k with pc := k.nextPc p, slot := none }.tick (1 + p.stall)

/-- The end of a sequence on the executing core. -/
def State.finish (s : State) (p : Pfx) : Res := .next (s.setMe (s.me.advance p))

/-- A sequence that waits one cycle and issues again (R37). -/
def State.waitCycle (s : State) : Res := .next (s.setMe (s.me.tick 1))

/-- The core at a site is halted, or keeps the record of an MMAM operand-fetch fault: its neighbours'
budgets stand still while they wait for its links (R34, R110, R219). -/
def State.holdsNeighbours (s : State) (c : Nat) : Bool :=
  let k := s.core c
  decide (k.faultHold ≠ 0) || (match k.run with
    | .halted _ => true
    | _ => false)

/-- A wait for the link in a direction (R110, R219). -/
def State.waitLink (s : State) (dir : Nat) : Res :=
  match neighbour s.cur dir with
  | some c => if s.holdsNeighbours c then .next (s.setMe (s.me.tickHeld 1)) else s.waitCycle
  | none => s.waitCycle

/-- A waiting sequence completes. -/
def Core.resume (k : Core) (p : Pfx) : Core := { k with run := .running }.advance p

/-- The core waits for another agent's step. -/
def State.waitFor (s : State) (w : Wait) : Res := .next (s.setMe { (s.me.tick 1) with run := .waiting w })

/-! ### Taking a trap (R130 to R132) and ending a handler (R35) -/

/-- An entry goes back held to the head of its arrival queue (R130): none when no place is left. A head that the
queue displaces keeps the wait it has added up (R31). -/
def Queue.putHead (q : Queue) (e : Entry) (spillCap cyc : Nat) : Option (Queue × List Entry) :=
  if q.mode = 0 then
    if q.res.length < q.cap then some (q.setRes (e :: q.res) cyc, [])
    else
      match q.res.reverse with
      | [] => some (q.setRes [e] cyc, [])
      | y :: rest =>
        if (q.spill.filter (fun x => !isHost x)).length < spillCap + 64 then
          let y := if rest.isEmpty then { y with wait := q.headWait cyc } else y
          some ({ (q.setRes (e :: rest.reverse) cyc) with spill := y :: q.spill }, [])
        else none
  else
    if q.res.length < q.cap then some (q.setRes (e :: q.res) cyc, [])
    else
      let (es, d) := dropLowest q.res
      some (q.setRes (e :: es) cyc, d)

/-- Push an entry onto the deque as the newest (R118). -/
def Ctx.pushDeque (c : Ctx) (e : Entry) : Ctx :=
  if c.deque.length < 32 then { c with deque := c.deque ++ [e] }
  else match c.deque with
    | [] => { c with deque := [e] }
    | o :: es => { c with deque := es ++ [e], dspill := c.dspill ++ [o] }

/-- When the resident deque is empty, the newest spilled entry becomes resident (R118). -/
def Ctx.refill (c : Ctx) : Ctx :=
  if c.deque.isEmpty then
    match c.dspill.reverse with
    | [] => c
    | e :: rest => { c with deque := [e], dspill := rest.reverse }
  else c

/-- The triggering message goes back with HLD = 1 (R130 step 5). -/
def State.returnEntry (s : State) (c enc : Nat) (e : Entry) (origin : Origin) : State :=
  let k := s.core c
  let cx := k.cxOf enc
  match origin with
  | .deque => s.setCore c (k.setCxOf enc (cx.pushDeque e))
  | _ =>
    let q : Fin 4 := match origin with
      | .queue q => if e.woken then hQue e.record else q
      | _ => hQue e.record
    match cx.q[q].putHead e (s.part k.part).spill k.cyc with
    | some (q', d) =>
      (s.setCore c (k.setCxOf enc { cx with q := cx.q.set q q', smc := smcDrops cx.smc d.length })).creditBack k.part q d
    | none =>
      (s.setCore c { k with keptEntries := k.keptEntries ++ [(e, enc * 4 + q.val)] }).event .entryKept c k.part 0

/-- The trap record of the running handler (R132). -/
def Core.trapRec (k : Core) (t : TrapInfo) : Record :=
  let inSlot := k.slot.isSome && !t.noSlot
  let iaddr := match t.iaddr, k.slot with
    | some a, _ => a
    | none, some (b, _) => if t.noSlot then k.pc else b
    | none, none => k.pc
  let flags := inSlot.toNat + t.x.toNat * 2 + (bitOf k.cx.smc 0).toNat * 4
    + (k.h.src == 0x7fe).toNat * 8 + k.h.woken.toNat * 16 + (k.h.origin == .stolen).toNat * 32
  trapRecord t.code flags t.detail t.cause k.h.src k.h.seq iaddr t.faddr
    (k.cid ||| BitVec.ofNat 64 (k.enc * 2 ^ 61)) (hdrOf k.h.record) (k.cyc - k.h.start) k.left

/-- Keep or write the trapping core's record (R130 step 4, R131). -/
def State.reportTrap (s : State) (c p enc : Nat) (r : Record) : State :=
  let keep (s : State) : State :=
    let k := s.core c
    s.setCore c { k with keptRecs := k.keptRecs ++ [(enc, r)] }
  if (s.core c).keptRecs.isEmpty then
    match s.writeFault p r with
    | some s => (s.noteRoom p c).flushKept p
    | none => (keep (s.countCtl p c)).noteFull p c
  else keep s

/-- A BAL or BALX that runs when its handler traps stops at a half-sweep (R270). -/
def Core.stopIris (k : Core) (free : Nat) : Core :=
  match k.bal with
  | some b => { k.setCx (k.cx.balStop b (Config.irisStop free)) with bal := none }
  | none => k

/-- An MMAM that waits when its handler traps stores the count of completed steps (R218). Where the descriptor's
slot is no longer attached or has no WR, PROG stays unwritten (log 65). -/
def State.stopMmam (s : State) (c : Nat) : State :=
  let k := s.core c
  match k.mmam with
  | none => s
  | some m =>
    let a := m.daddr.toNat + 56
    let e := k.cx.slot (a / 4096)
    let cells := cellsAt (bankKey (slotBank e) (a % 4096)) (leBytes 8 m.done)
    let s := if slotState e = 1 && slotWr e then s.bankCells cells else s
    s.setCore c { (s.core c) with mmam := none }

/-- The core's part of the end of a handler: queues, buffer and workspace are freed. A FENCE keeps ordering the accesses that
follow it on the core (R65, R70). -/
def Core.clearHandler (k : Core) : Core :=
  { k with run := .idle, h := Handler.none, left := 0, slot := none, g := Vector.replicate 16 0
           dq := [], bq := [], sbuf := [], spawns := 0, words := [], copyWait := none
           prods := [], idleSince := k.cyc }

/-- A task whose method strand trapped stays with Aster (R35). -/
def State.taskTrapped (s : State) (p : Nat) (h : Handler) : State :=
  if h.src = 0x7fe then
    { s with tasks := s.tasks.map (fun t =>
        if t.ref.part = p && t.ref.entry = (dword h.record 7).toNat && t.phase = .running
        then { t with phase := .trapped } else t) }
  else s

/-- The access of core c's handler that waits for a key (R84). -/
def State.stalledOf (s : State) (c : Nat) (e : Nat × Instr) : Bool :=
  match e.2 with
  | .accessPerformed x => x.core == c && x.hid == (s.core c).h.hid && x.stalled
  | _ => false

/-- Core c's stalled access is given up. -/
def State.dropStalled (s : State) (c : Nat) : State :=
  { s with flight := s.flight.filter (fun e => !s.stalledOf c e) }

/-- The place in arrival order of a returned message: that of its arrival, or for a strand that came from no arrival queue of
this core the present one (R116, R130). -/
def Core.returnArr (k : Core) : Nat :=
  match k.h.origin with
  | .queue _ => k.h.arr
  | .deque | .stolen => k.seqno

/-- Taking a trap on core c: the actions of R130 in order, in one step. A stalled access is given up (R84). -/
def State.trap (s : State) (c : Nat) (t : TrapInfo) : State :=
  let s := if t.cause = Cause.sealmac then s.lifeAdd (1 + c) 3 1
    else if t.cause = Cause.bankecc then s.lifeAdd (1 + c) 4 1 else s
  let s := (s.dropStalled c).stopMmam c
  let s := { (s.setCore c ((s.core c).stopIris s.free)) with free := s.free + 1 }
  let k := s.core c
  let p := k.part
  let r := k.trapRec t
  let e : Entry := { record := setHeld k.h.record true, queue := hQue k.h.record, src := k.h.src, seq := k.h.seq
                     woken := k.h.woken, arr := k.returnArr, wait := 0 }
  let s := s.taskTrapped p k.h
  let s := s.setCore c { k.clearHandler with seqno := k.seqno + 1 }
  let s := s.reportTrap c p k.enc r
  (s.returnEntry c k.enc e k.h.origin).enqueue c .nextAction

/-- A trap of the executing core's sequence. -/
def State.trapMe (s : State) (cause : Nat) (faddr : Word) : Res :=
  .next (s.trap s.cur { cause := cause, faddr := faddr })

/-- One spawned strand enters the deque at the end of its handler (R118, R119). -/
def State.pushSpawn (s : State) (c : Nat) (r : Record) : State :=
  let k := s.core c
  let e : Entry := { record := r, queue := hQue r, src := k.lnum, seq := k.msgs, woken := false, arr := k.seqno
                     wait := 0 }
  s.setCore c { k.setCx (k.cx.pushDeque e) with msgs := (k.msgs + 1) % 2 ^ 32, seqno := k.seqno + 1 }

/-- A message of core c with the next message identifier (R119). -/
def State.newMsg (s : State) (c : Nat) (r : Record) (site : Nat) : State × Msg :=
  let k := s.core c
  (s.setCore c { k with msgs := (k.msgs + 1) % 2 ^ 32 },
   { record := r, part := k.part, enc := k.enc, site := site, queue := hQue r, src := k.lnum, seq := k.msgs
     chan := c, woken := false })

/-- A held versioned write takes effect at its home (R82). -/
def State.heldVw (s : State) (p : Nat) (w : HeldVw) : State :=
  match w.version with
  | some n => s.homeWrite p w.cell w.va w.value n
  | none => s.homeWrite p w.cell w.va (s.cellValue w.cell + w.value) ((s.cellVersion w.cell + 1) % 2 ^ 32)

/-- The site of a multicast tree's root (R307). -/
def State.rootSite (s : State) (p tree : Nat) : Nat :=
  match sget? tree (s.part p).trees with
  | some t => ((s.part p).members[t.root]?).getD 1024
  | none => 1024

/-- All bytes of a held store. -/
def partCells (parts : List (Nat × List (Nat × Byte))) : List (Nat × Byte) :=
  parts.flatMap (fun x => x.2)

/-- The lines of some keys with an error beyond their code. -/
def State.deadLines (s : State) (keys : List Nat) : List Nat :=
  ((keys.map (· / 64)).dedup).filter (fun l => s.lineDead (l * 64))

/-- A held write meets lines with an error beyond their code when it leaves: its bytes there are lost, and each line counts in
the lifetime records of the core's site (R309, R312, log 82). -/
def State.countDead (s : State) (c : Nat) (keys : List Nat) : State :=
  if (s.deadLines keys).isEmpty then s else s.lifeAdd (1 + c) 3 (s.deadLines keys).length

/-- A held store leaves: its bytes are written under their keys, which are used (R82, R290). -/
def State.releaseStore (s : State) (c : Nat) (parts : List (Nat × List (Nat × Byte))) : State :=
  let keys := (partCells parts).map (·.1)
  let dead := s.deadLines keys
  let parts := if dead.isEmpty then parts
    else parts.map (fun x => (x.1, x.2.filter (fun a => !dead.contains (a.1 / 64))))
  let s := s.countDead c keys
  State.storeParts { s with keys := touchKeys s.keys (parts.map (·.1)) } parts

/-- A held versioned write leaves (R82, R290). -/
def State.releaseVw (s : State) (c : Nat) (w : HeldVw) : State :=
  let p := (s.core c).part
  if s.lineDead w.cell then s.countDead c [w.cell]
  else State.heldVw { s with keys := touchKeys s.keys [s.uidAt p w.va.toNat] } p w

/-- The send buffer leaves in buffer order (R35, R82, R119). -/
def State.release (s : State) (c : Nat) : List SendEntry → State
  | [] => s
  | e :: es =>
    let s := match e with
      | .store _ parts => s.releaseStore c parts
      | .vw w => s.releaseVw c w
      | .spawn r => s.pushSpawn c r
      | .send r n =>
        let (s', m) := s.newMsg c r (((s.part (s.core c).part).members[n]?).getD 0)
        s'.sendFrom c m
      | .sendm r tree =>
        let (s', m) := s.newMsg c r c
        s'.enqueue (s'.rootSite m.part tree) (.multicastForward m tree 0)
    s.release c es

/-- The key generations of the held writes of core c's send buffer. -/
def State.heldUids (s : State) (c : Nat) : List Nat :=
  ((s.core c).sbuf.flatMap (fun e => match e with
    | .store _ parts => parts.map (·.1)
    | .vw w => [s.uidAt (s.core c).part w.va.toNat]
    | _ => [])).dedup

/-- The messages a send buffer holds. -/
def sbufMessages (l : List SendEntry) : Nat :=
  (l.filter (fun e => match e with
    | .send _ _ | .sendm _ _ => true
    | _ => false)).length

/-- The message engine has room for the buffer's messages and n more (R117). -/
def Core.engineRoom (k : Core) (n : Nat) : Bool :=
  decide (k.engine.length + sbufMessages k.sbuf + n ≤ 64)

/-- The handler of core c ends without a trap (R35, R122): its buffer leaves, its workspace is freed,
and Aster learns of its own strands. -/
def State.endHandler (s : State) (c : Nat) : State :=
  let k := s.core c
  let s := s.release c k.sbuf
  let s := s.setCore c (s.core c).clearHandler
  let s := if k.h.src = 0x7fe then
      match s.tasks.find? (fun t => t.ref.part == k.part && t.ref.entry == (dword k.h.record 7).toNat) with
      | some t => s.enqueue c (.asterRetirement t.ref)
      | none => s
    else s
  s.enqueue c .nextAction

/-- g0 to g7 as a record. -/
def Core.carried (k : Core) : Record := ofDwords 512 (k.g.toList.take 8)

end Sys2Proof.Machine
end

