-- ==== Sys2Proof/Machine/Flags.lean ====
section
/-! DEFINITION. The sticky flags of VTYPE (R171, Table 10.4) and the modes VTYPE gives (R186). -/

namespace Sys2Proof.Machine

/-- Flags raised by an instruction are ORed into VTYPE.FLAGS. -/
def Ctx.raise (c : Ctx) (fl : Nat) : Ctx := { c with vtype := orFlags c.vtype fl }

/-- The rounding mode of VTYPE.RM. -/
def Ctx.rm (c : Ctx) : Rm := if bitOf c.vtype 6 then .rtz else .rne
def Ctx.mz (c : Ctx) : Bool := bitOf c.vtype 5
def Ctx.men (c : Ctx) : Bool := bitOf c.vtype 4
def Ctx.mreg (c : Ctx) : Fin 8 := Fin.ofNat 8 (bitsOf c.vtype 2 0)
def Ctx.vpart (c : Ctx) : Nat := bitsOf c.vtype 26 24

/-- Software clears flags by writing 1 (R187): the flags that stay. -/
def flagsAfterWrite (old new : Word) : Nat :=
  bitsOf old 54 48 - (bitsOf old 54 48 &&& bitsOf new 54 48)

/-- VTYPE after a WRC: writable fields from the value, flags W1C, reserved bits 0 (R186, R187). -/
def vtypeWrite (old new : Word) : Word :=
  (new &&& 0x73f3f77) ||| BitVec.ofNat 64 (flagsAfterWrite old new * 2 ^ 48)

end Sys2Proof.Machine
end

