-- ==== Sys2Proof/Machine/Operands.lean ====
section
/-! DEFINITION. The operand forms: a register or dq source, a bq condition, a register or bq
destination (R46, R89), immediates, and memory addresses. -/

namespace Sys2Proof.Machine

/-- What reading an operand gives: a value and the core after the read, a wait, or a trap. -/
inductive Operand where
  | val (v : Word) (k : Core)
  | wait
  | trap (cause : Nat)

/-- A pop of dq (R89): the oldest entry, when its push has been performed. -/
def Core.popDq (k : Core) : Operand :=
  match k.dq with
  | [] => .trap Cause.qunder
  | (_, some v) :: q => .val v { k with dq := q }
  | (_, none) :: _ => .wait

/-- The last source of a page-0 instruction: a register, or dq under QS 0b01. -/
def Core.src (k : Core) (p : Pfx) (r : Fin 16) : Operand :=
  if p.qs = .srcDq then k.popDq else .val (k.getG r) k

/-- The condition of a branch: a register, or bq under QS 0b11. -/
def Core.cond (k : Core) (p : Pfx) (r : Fin 16) : Operand :=
  if p.qs = .bqCond then
    match k.bq with
    | [] => .trap Cause.qunder
    | b :: q => .val (if b then 1 else 0) { k with bq := q }
  else .val (k.getG r) k

/-- The result of a page-0 instruction: a register, or bq under QS 0b10; none when bq is full. -/
def Core.dst (k : Core) (p : Pfx) (d : Fin 16) (v : Word) : Option Core :=
  if p.qs = .dstQ then
    if 8 ≤ k.bq.length then none else some { k with bq := k.bq ++ [v != 0] }
  else some (k.setG d v)

/-- A register instruction whose last source may be dq and whose result may go to bq. -/
def State.alu (s : State) (p : Pfx) (d last : Fin 16) (f : Word → Word) : Res :=
  match s.me.src p last with
  | .trap c => s.trapMe c 0
  | .wait => s.waitCycle
  | .val y k =>
    match k.dst p d (f y) with
    | none => s.trapMe Cause.qover 0
    | some k => (s.setMe k).finish p

/-- A register plus an offset, modulo 2^64 (R104). -/
def Core.addr (k : Core) (a : Fin 16) (off : Int) : Word := k.getG a + wordOfInt off

def boolWord (b : Bool) : Word := if b then 1 else 0

end Sys2Proof.Machine
end

