-- ==== Sys2Proof/Machine/Access.lean ====
section
/-! DEFINITION. Global accesses: the checks at issue (R104, R282 to R286), key misses (R39, R84), the held
stores of staged mode (R82) and the performing of an access (R66). -/

namespace Sys2Proof.Machine

/-- The outcome of the checks of a global access. -/
inductive GlobalCheck where
  | ok (l : Leaf) (uid : Nat)
  | trap (cause : Nat) (faddr : Word)
  | absent (key : Nat)

/-- Translation, the versioned-page check, then the line MAC (R104, R105, R286). -/
def State.globalCheck (s : State) (va : Word) (want : Want) (noVw : Bool) : GlobalCheck :=
  match s.translate s.me.part va.toNat want with
  | .error c => .trap c va
  | .ok (l, uid) =>
    if noVw && l.vw then .trap Cause.vwmisuse va
    else if !keyExists l.key then .absent l.key
    else if !s.macOk l.key uid then .trap Cause.sealmac va
    else .ok l uid

def loadKind : AccessKind → Bool
  | .load _ _ _ _ _ | .vload _ _ _ _ _ _ => true
  | .store _ | .vstore _ | .atomic _ _ _ _ _ => false

/-- An access of page 1. -/
def vectorKind : AccessKind → Bool
  | .vload _ _ _ _ _ _ | .vstore _ => true
  | _ => false

/-- The stalled access of the executing sequence, which waits for its key. -/
def State.isStalled (s : State) (e : Nat × Instr) : Bool := s.stalledOf s.cur e

def State.stalledServed (s : State) : Option (List (Nat × Byte)) :=
  match s.flight.find? s.isStalled with
  | some (_, .accessPerformed x) => x.served
  | _ => none

/-- KMC counts one access that stalls (R39). -/
def Ctx.countMiss (c : Ctx) : Ctx := { c with kmc := min 0xffffffff (c.kmc + 1) }

/-- A key miss (R39, R84): the access stalls, and the core waits for the key. Its home serves a load's fill at the
fill's own turn, by the step of the stalled access. -/
def State.keyMiss (s : State) (x : Access) (uid : Nat) : Res :=
  let s := if s.flight.any s.isStalled then s
    else ((s.setMe (s.me.setCx s.me.cx.countMiss)).lifeAdd 2085 0 1).enqueue s.cur
        (.accessPerformed { x with served := none, stalled := true })
  (s.enqueue s.cur .keyReload).waitFor (.key uid)

/-- A host page under invalidation serves no new access (R295). -/
def State.atsBlocked (s : State) (keys : List Nat) : Bool :=
  keys.any (fun k => s.zen.ats.contains (k / 4096))

/-- A global access leaves the core: `k` is the core with the sequence's own effects. -/
def State.issueAccess (s : State) (p : Pfx) (k : Core) (x : Access) (uids : List Nat) : Res :=
  if s.atsBlocked x.keys then s.waitCycle
  else match s.keyMissing uids with
  | some uid => s.keyMiss x uid
  | none =>
    let x := if loadKind x.kind then { x with served := s.stalledServed } else x
    let s := { s with flight := s.flight.filter (fun e => !s.isStalled e), keys := touchKeys s.keys uids }
    ((s.setMe { k with seqno := k.seqno + 1 }).enqueue s.cur (.accessPerformed x)).finish p

/-- The running handler is in staged mode (R132). -/
def Core.staged (k : Core) : Bool := bitOf k.cx.smc 0

/-- The bytes that the send buffer's stores hold, oldest first (R82). -/
def heldCells : List SendEntry → List (Nat × Byte)
  | [] => []
  | .store _ parts :: es => partCells parts ++ heldCells es
  | _ :: es => heldCells es

/-- The held bytes at these keys, the latest first. -/
def Core.overlay (k : Core) (keys : List Nat) : List (Nat × Byte) :=
  ((heldCells k.sbuf).filter (fun c => keys.contains c.1)).reverse

/-- The strand's held writes of a cell (R82). -/
def heldVws (cell : Nat) : List SendEntry → List HeldVw
  | [] => []
  | .vw w :: es => if w.cell = cell then w :: heldVws cell es else heldVws cell es
  | _ :: es => heldVws cell es

/-- Value and version with held writes applied in program order, as the home will perform them (R82). -/
def applyHeld : List HeldVw → Word × Nat → Word × Nat
  | [], x => x
  | w :: ws, (v, n) =>
    applyHeld ws (match w.version with
      | some m => (w.value, m)
      | none => (v + w.value, (n + 1) % 2 ^ 32))

/-- Held writes as the strand sees them: without those that a later VWST of the cell left behind, and with what later VWINCs
added (R64, log 81). -/
def ownHeld (ws : List HeldVw) : List HeldVw :=
  (ws.filter (fun w => !w.past)).map (fun w =>
    { w with value := w.value + w.more.1, version := w.version.map (fun n => (n + w.more.2) % 2 ^ 32) })

/-- The strand's held writes of the cells that these keys lie in, as it sees them (R64, R82). -/
def Core.vwOverlay (k : Core) (keys : List Nat) : List HeldVw :=
  ownHeld (k.sbuf.filterMap (fun e => match e with
    | .vw w => if keys.any (fun a => a / 16 == w.cell / 16) then some w else none
    | _ => none))

/-- The byte that the home supplies to a fill that waited for its key, or memory's. -/
def homeByte (m : List Host.Cell) (served : Option (List (Nat × Byte))) (a : Nat) : Byte :=
  match (served.getD []).find? (fun c => c.1 == a) with
  | some c => c.2
  | none => memRead m a

/-- A byte of a versioned cell with the strand's held writes of it applied in program order: the value
in bytes 0 to 7, the version in bytes 8 to 11 (R64, R82). -/
def vwByte (m : List Host.Cell) (served : Option (List (Nat × Byte))) (ws : List HeldVw) (cell i : Nat) : Byte :=
  let word (o n : Nat) : Nat := leNat ((List.range n).map (fun j => homeByte m served (cell + o + j)))
  let r := applyHeld ws (BitVec.ofNat 64 (word 0 8), word 8 4)
  if i < 8 then BitVec.ofNat 8 (r.1.toNat / 256 ^ i)
  else if i < 12 then BitVec.ofNat 8 (r.2 / 256 ^ (i - 8))
  else homeByte m served (cell + i)

/-- The byte an access sees at a key: a held byte, a held versioned write's, or the home's. -/
def seenByte (m : List Host.Cell) (served : Option (List (Nat × Byte))) (ov : List (Nat × Byte))
    (vws : List HeldVw) (a : Nat) : Byte :=
  match ov.find? (fun c => c.1 == a) with
  | some c => c.2
  | none =>
    match vws.filter (fun w => w.cell / 16 == a / 16) with
    | [] => homeByte m served a
    | ws => vwByte m served ws (a / 16 * 16) (a % 16)

/-- Consecutive physical keys. -/
def keysFrom (key n : Nat) : List Nat := (List.range n).map (key + ·)

/-- The common parts of an access of the executing core. -/
def State.newAccess (s : State) (p : Pfx) (va : Word) (keys : List Nat) (uid : Nat) (kind : AccessKind) : Access :=
  { core := s.cur, hid := s.me.h.hid, seqno := s.me.seqno, part := s.me.part, va := va, keys := keys
    uid := uid, order := p.order, scope := p.scope, kind := kind, served := none, stalled := false, pc := s.me.pc }

/-- A held store without the bytes at these keys, which a younger write of the strand replaces (R64, log 81). -/
def SendEntry.without (keys : List Nat) : SendEntry → SendEntry
  | .store rel parts => .store rel (parts.map (fun x => (x.1, x.2.filter (fun c => !keys.contains c.1))))
  | e => e

/-- The held entries that stay when those of `p` leave: without the bytes that a younger one of those replaces (R64). -/
def leaveBehind (p : SendEntry → Bool) : List SendEntry → List SendEntry
  | [] => []
  | e :: es => if p e then leaveBehind p es
    else e.without (((es.filter p).flatMap (fun x => match x with
      | .store _ parts => partCells parts
      | _ => [])).map (·.1)) :: leaveBehind p es

/-- What an instruction whose write would be held traps with, when no entry of the send buffer is free (R119). -/
def Core.fullBuffer (k : Core) : Option Tr := if k.staged && k.sbuf.length == 32 then some (Cause.sndfull, 0) else none

/-- A store enters the send buffer in staged mode (R82, R119). -/
def State.holdStore (s : State) (p : Pfx) (parts : List (Nat × List (Nat × Byte))) : Res :=
  (s.setMe { s.me with sbuf := s.me.sbuf ++ [.store (p.order == .rel) parts] }).finish p

/-- A store leaves the core, one access for each part; `kind` is that of the instruction. -/
def State.enqueueStores (s : State) (p : Pfx) (va : Word) (kind : List (Nat × Byte) → AccessKind) :
    List (Nat × List (Nat × Byte)) → State
  | [] => s
  | (uid, cells) :: ps =>
    (s.enqueue s.cur (.accessPerformed (s.newAccess p va (cells.map (·.1)) uid (kind cells)))).enqueueStores
      p va kind ps

/-- A global store's bytes leave the core or are held. One that leaves replaces its bytes in older stores that are still held
(R64, R132, log 81); `parts` has them by key generation, and `kind` is
`.vstore` for page 1. -/
def State.globalStore (s : State) (p : Pfx) (va : Word) (parts : List (Nat × List (Nat × Byte)))
    (kind : List (Nat × Byte) → AccessKind := .store) : Res :=
  let uids := parts.map (·.1)
  match s.me.fullBuffer with
  | some (c, a) => s.trapMe c a
  | none =>
  if s.atsBlocked ((partCells parts).map (·.1)) then s.waitCycle
  else match s.keyMissing uids with
  | some uid => s.keyMiss (s.newAccess p va [] uid (.store [])) uid
  | none =>
    let s := { s with flight := s.flight.filter (fun e => !s.isStalled e), keys := touchKeys s.keys uids }
    if s.me.staged then s.holdStore p parts
    else
      let s := s.enqueueStores p va kind parts
      (s.setMe { s.me with seqno := s.me.seqno + 1
                           sbuf := s.me.sbuf.map (SendEntry.without ((partCells parts).map (·.1))) }).finish p

/-- Whether a held entry overlaps the doubleword at a key. -/
def SendEntry.overlaps (key : Nat) : SendEntry → Bool
  | .store _ parts => (partCells parts).any (fun c => c.1 / 8 == key / 8)
  | _ => false

/-- A held release. -/
def SendEntry.isRel : SendEntry → Bool
  | .store rel _ => rel
  | _ => false

/-- The bytes of a held store by key generation. -/
def SendEntry.parts : SendEntry → List (Nat × List (Nat × Byte))
  | .store _ parts => parts
  | _ => []

/-- An order with a release added to it. -/
def withRelease : Order → Order
  | .none | .rel => .rel
  | .acq | .ar => .ar

/-- The access is a global access of core c that has been issued and not been performed. -/
def pendingOf (c : Nat) (loadsOnly : Bool) (i : Instr) : Bool :=
  match i with
  | .accessPerformed x => x.core == c && !x.stalled && (!loadsOnly || match x.kind with
    | .store _ | .vstore _ => false
    | _ => true)
  | .vwHomeStore r | .vwHomeInc r | .vwHomeReset r => r.core == c && !loadsOnly
  | .vwHomeLoad r | .vwHomePeek r | .vwHomePark r => r.core == c
  | _ => false

def State.pendingAccess (s : State) (c : Nat) (loadsOnly : Bool) : Bool :=
  s.flight.any (fun e => pendingOf c loadsOnly e.2)

/-- The number of an access in its core's program order. -/
def numberOf (i : Instr) : Nat :=
  match i with
  | .accessPerformed x => x.seqno
  | .vwHomeLoad r | .vwHomePark r | .vwHomeStore r | .vwHomeInc r | .vwHomePeek r | .vwHomeReset r => r.seqno
  | _ => 0

/-- A pending load or atomic of the running handler will write a general register (R88, R95). -/
def State.gPending (s : State) (c : Nat) (d : Fin 16) : Bool :=
  let k := s.core c
  s.flight.any (fun (_, i) => match i with
    | .accessPerformed x => x.core == c && x.hid == k.h.hid && !x.stalled && (match x.kind with
      | .load (.reg r) _ _ _ _ | .atomic _ _ _ r _ => r == d
      | _ => false)
    | _ => false)

/-- Page-1 accesses of core c that are not performed (R187, R276, R280). Model's choice (log 66): a vector store that left
the core counts until it is performed, and a VST or VSCT that the send buffer holds in staged mode counts as completed. -/
def State.page1Pending (s : State) (c : Nat) : Bool :=
  s.flight.any (fun (_, i) => match i with
    | .accessPerformed x => x.core == c && vectorKind x.kind && !x.stalled
    | _ => false)

/-- The value of the ten atomics (R105); none leaves the location as it was. -/
def atomicNew (op : AtomicOp) (old x y : Word) : Option Word :=
  match op with
  | .swp => some x
  | .cas => if old = x then some y else none
  | .add => some (old + x)
  | .and => some (old &&& x)
  | .or => some (old ||| x)
  | .xor => some (old ^^^ x)
  | .min => some (if x.toInt < old.toInt then x else old)
  | .max => some (if old.toInt < x.toInt then x else old)
  | .minu => some (if x.toNat < old.toNat then x else old)
  | .maxu => some (if old.toNat < x.toNat then x else old)

/-- The atomics that the host link carries (R105). -/
def hostAtomic : AtomicOp → Bool
  | .swp | .cas | .add => true
  | _ => false

/-- Sign or zero extension of a loaded value. -/
def extend (n : Nat) (sgn : Bool) (v : Nat) : Word :=
  if sgn then wordOfInt (signExtNat v (8 * n)) else BitVec.ofNat 64 v

/-- The handler that issued the access still runs: a core that has failed or stopped runs none (R309). -/
def Core.runs (k : Core) (hid : Nat) : Bool := k.live && k.h.hid == hid && hid != 0

/-- A value is written to a register of the handler that asked for it. -/
def State.giveG (s : State) (c hid : Nat) (d : Fin 16) (v : Word) : State :=
  let k := s.core c
  if k.runs hid then s.setCore c (k.setG d v) else s

/-- A push of dq is performed (R89). -/
def fillDq (seqno : Nat) (v : Word) : List (Nat × Option Word) → List (Nat × Option Word)
  | [] => []
  | (n, x) :: q => if n = seqno then (n, some v) :: q else (n, x) :: fillDq seqno v q

def State.giveDq (s : State) (c hid seqno : Nat) (v : Word) : State :=
  let k := s.core c
  if k.runs hid then s.setCore c { k with dq := fillDq seqno v k.dq } else s

/-- Bytes of a vector replaced. -/
def putLanes (x : BitVec 1024) : List (Nat × Byte) → BitVec 1024
  | [] => x
  | (i, b) :: bs => putLanes (putBits x (8 * i + 7) (8 * i) b.toNat) bs

/-- The home serves the fill of a load whose key is missing: its bytes are fixed (R84). -/
def State.serveFill (s : State) (x : Access) : State :=
  s.enqueue x.core (.accessPerformed { x with served := some (x.keys.map (fun a => (a, memRead s.mem a))) })

/-- A line of an access does not verify any more: under its key generation, or, for an access that may span several, at all. -/
def State.accessFails (s : State) (x : Access) : Bool :=
  x.keys.any (fun a => match x.kind with
    | .load _ _ _ _ _ | .store _ | .vstore _ => !s.macOk a x.uid
    | .vload _ _ _ _ _ _ | .atomic _ _ _ _ _ => s.lineDead a)

/-- A line that an access of core c touches does not verify any more when the access is performed: its strand traps at the
sequence at `pc`, when it still runs, and else the failure counts alone (R286, R309, R312, log 82). -/
def State.lateMac (s : State) (c hid : Nat) (va pc : Word) : State :=
  if (s.core c).runs hid then s.trap c { cause := Cause.sealmac, faddr := va, iaddr := some pc, noSlot := true }
  else s.lifeAdd (1 + c) 3 1

def State.badAccess (s : State) (x : Access) : State := s.lateMac x.core x.hid x.va x.pc

/-- An access is performed (R66, R82, R84); for one that waits for its key, its fill is served. -/
def execAccessPerformed (x : Access) (s : State) : Res :=
  if x.stalled then .next (s.serveFill x)
  else if s.accessFails x then .next (s.badAccess x)
  else match x.kind with
  | .load dst n sgn ov vws =>
    let v := extend n sgn (leNat (x.keys.map (seenByte s.mem x.served ov vws)))
    match dst with
    | .reg d => .next (s.giveG x.core x.hid d v)
    | .dq => .next (s.giveDq x.core x.hid x.seqno v)
  | .vload d base lanes mask ov vws =>
    let v := putLanes base (lanes.map (fun l => (l.1, seenByte s.mem x.served ov vws l.2 &&& mask)))
    let k := s.core x.core
    .next (s.setCore x.core (k.setCx { k.cx with v := k.cx.v.set d v }))
  | .store cells | .vstore cells => .next (s.storeCells cells x.uid)
  | .atomic op a b d held =>
    let s := s.storeParts held
    let key := x.keys.headD 0
    let old := BitVec.ofNat 64 (s.memWord key 8)
    let s := match atomicNew op old a b with
      | some v => s.storeCells (cellsAt key (leBytes 8 v.toNat)) x.uid
      | none => s
    .next (s.giveG x.core x.hid d old)

end Sys2Proof.Machine
end

