-- ==== Sys2Proof/Machine/Banks.lean ====
section
/-! DEFINITION. The bank engine: the seven bank instructions of page 4 and the steps of the bank
controllers (R138 to R158). -/

namespace Sys2Proof.Machine

/-- SlotOf (R143). -/
def slotOf (a : Word) : Except Tr Nat :=
  if 2 ^ 21 ≤ a.toNat then .error (Cause.laddr, a)
  else if a.toNat % 4096 ≠ 0 then .error (Cause.align, a)
  else if 496 ≤ a.toNat / 4096 then .error (Cause.laddr, a)
  else .ok (a.toNat / 4096)

/-- The home site of a bank (R138). -/
def homeOf (bank : Nat) : Nat := bank / 512 % 1024

/-- The owner partition: of a free bank, the partition of its home site's core; of every other bank, the one it had
when it was attached or began to scrub (R138, R141). -/
def State.bankOwner (s : State) (b : Nat) : Nat :=
  match (s.bank b).st with
  | .free => s.partOfSite (homeOf b)
  | _ => (s.bank b).owner

/-- The free bank with the lowest index in a site's own field (R144). -/
def State.freeBank (s : State) (site : Nat) : Option Nat :=
  (List.range 384).findSome? (fun i =>
    if (s.bank (site * 512 + i)).st = .free then some (site * 512 + i) else none)

def State.setSlotOf (s : State) (c enc n : Nat) (e : Word) : State :=
  let k := s.core c
  s.setCore c (k.setCxOf enc ((k.cxOf enc).setSlot n e))

def State.slotEntry (s : State) (c enc n : Nat) : Word := ((s.core c).cxOf enc).slot n

/-- A bank attaches at a slot of core c (R144, R242). -/
def State.attach (s : State) (c enc n bank : Nat) : State :=
  let k := s.core c
  (s.setSlotOf c enc n (mkSlot 1 7 false k.lnum bank)).setBank bank { st := .attached c enc n, owner := k.part }

/-- A bank's bytes and poison are cleared (R149, R141). -/
def State.zeroBank (s : State) (b : Nat) : State :=
  { s with bmem := s.bmem.filter (fun c => c.1 / 4096 != b), bpoison := s.bpoison.filter (fun d => d / 512 != b) }

/-- The bank leaves its slot for its field's pool (R145, R279). -/
def State.detach (s : State) (c enc n : Nat) : State :=
  let b := slotBank (s.slotEntry c enc n)
  ((s.setSlotOf c enc n 0).setBank b { s.bank b with st := .toPool c }).enqueue (homeOf b) (.bankReturnPool b)

/-- `ATT` (R144). -/
def execAtt (p : Pfx) (d : Fin 16) (s : State) : Res :=
  let a := s.me.getG d
  match slotOf a with
  | .error t => s.trapMe t.1 t.2
  | .ok n =>
    if slotState (s.cx.slot n) ≠ 0 then s.trapMe Cause.slotbusy a
    else match s.freeBank s.cur with
      | none => s.trapMe Cause.nofree a
      | some b => (s.attach s.cur s.me.enc n b).finish p

/-- `DET` (R145). -/
def execDet (p : Pfx) (d : Fin 16) (s : State) : Res :=
  let a := s.me.getG d
  match slotOf a with
  | .error t => s.trapMe t.1 t.2
  | .ok n =>
    let e := s.cx.slot n
    if slotState e = 2 then s.waitCycle
    else if slotState e = 0 then s.trapMe Cause.detached a
    else if slotPin e then s.trapMe Cause.pinned a
    else (s.detach s.cur s.me.enc n).finish p

/-- `BQRY` (R148). -/
def execBqry (p : Pfx) (d a : Fin 16) (s : State) : Res :=
  match slotOf (s.me.getG a) with
  | .error t => s.trapMe t.1 t.2
  | .ok n => (s.setMe (s.me.setG d (s.cx.slot n))).finish p

/-- `BZERO` (R149). -/
def execBzero (p : Pfx) (d : Fin 16) (s : State) : Res :=
  let a := s.me.getG d
  match slotOf a with
  | .error t => s.trapMe t.1 t.2
  | .ok n =>
    let e := s.cx.slot n
    if slotState e = 2 then s.waitCycle
    else if slotState e = 0 then s.trapMe Cause.detached a
    else if !slotWr e then s.trapMe Cause.rights a
    else (s.zeroBank (slotBank e)).finish p

/-- Reach (R142): the live core that a logical number names, when the bank may go there. -/
def State.inReach (s : State) (bank : Nat) (n : Nat) : Option Nat :=
  match s.siteOf (s.bank bank).owner n with
  | some c => if chebyshev c (homeOf bank) ≤ 1 then some c else none
  | none => none

/-- Hand (R146): the checks at issue, then the reservation leaves and the core waits for the grant. -/
def State.hand (s : State) (p : Pfx) (d a : Fin 16) (x : Option (Fin 16)) : Res :=
  let k := s.me
  let sa := k.getG d
  match slotOf sa with
  | .error t => s.trapMe t.1 t.2
  | .ok n =>
    let e := k.cx.slot n
    if slotState e = 2 then s.waitCycle
    else if slotState e = 0 then s.trapMe Cause.detached sa
    else if slotPin e then s.trapMe Cause.pinned sa
    else if !slotHo e then s.trapMe Cause.rights sa
    else
      let (ts, rt) := match x with
        | none => (n, slotRights e)
        | some b => (bitsOf (k.getG b) 8 0, bitsOf (k.getG b) 18 16)
      if 496 ≤ ts then s.trapMe Cause.laddr (BitVec.ofNat 64 (ts * 4096))
      else if rt &&& slotRights e ≠ rt then s.trapMe Cause.rights sa
      else match s.inReach (slotBank e) (k.getG a).toNat with
        | none => s.trapMe Cause.reach sa
        | some c =>
          let r : HandReq := { giver := s.cur, hid := k.h.hid, part := k.part, enc := k.enc, slot := n
                               bank := slotBank e, tgt := c, tslot := ts, rights := rt, from_ := k.lnum }
          (s.enqueue c (.handReservation r)).waitFor (.hand p)

/-- `HAND` (R146). -/
def execHand (p : Pfx) (d a : Fin 16) (s : State) : Res := s.hand p d a none
/-- `HANDX` (R146, R147). -/
def execHandx (p : Pfx) (d a b : Fin 16) (s : State) : Res := s.hand p d a (some b)

/-- The receiver's bank controller reserves the slot, or refuses (R146, R152). -/
def execHandReservation (r : HandReq) (s : State) : Res :=
  let k := s.core r.tgt
  if k.live && k.part = r.part && slotState (s.slotEntry r.tgt r.enc r.tslot) = 0 then
    .next ((s.setSlotOf r.tgt r.enc r.tslot (mkSlot 2 r.rights false r.from_ r.bank)).enqueue r.giver
      (.handGrant r true))
  else .next (s.enqueue r.giver (.handGrant r false))

/-- The receiver's slot is the one a hand-over reserved. -/
def State.reservedFor (s : State) (r : HandReq) : Bool :=
  let e := s.slotEntry r.tgt r.enc r.tslot
  slotState e == 2 && slotBank e == r.bank

/-- A reservation is given up. -/
def State.unreserve (s : State) (r : HandReq) : State :=
  if s.reservedFor r then s.setSlotOf r.tgt r.enc r.tslot 0 else s

/-- The grant reaches the giver (R146): the hand-over issues (R76 step 1), or it traps. A hand-over
whose handler has ended never happens (R154). DESIGN CHOICE (log 86): a giver whose bank was revoked while it waited traps
DETACHED, and the reservation is given up. -/
def execHandGrant (r : HandReq) (ok : Bool) (s : State) : Res :=
  let k := s.core r.giver
  let sa := BitVec.ofNat 64 (r.slot * 4096)
  match k.run with
  | .waiting (.hand p) =>
    if k.h.hid ≠ r.hid then .next (if ok then s.unreserve r else s)
    else if !ok then .next (s.trap r.giver { cause := Cause.slotbusy, faddr := sa })
    else
      let e := s.slotEntry r.giver r.enc r.slot
      if slotState e = 1 && slotBank e = r.bank then
        let s := s.setSlotOf r.giver r.enc r.slot 0
        let s := s.setBank r.bank { s.bank r.bank with st := .toReceiver r.giver r.tgt r.enc r.tslot }
        let s := s.setCore r.giver ((s.core r.giver).resume p)
        .next (s.enqueue (homeOf r.bank) (.bankAttach r))
      else .next ((s.unreserve r).trap r.giver { cause := Cause.detached, faddr := sa })
  | _ => .next (if ok then s.unreserve r else s)

/-- Every earlier access has completed: the bank attaches at the receiver (R76, R141). -/
def execBankAttach (r : HandReq) (s : State) : Res :=
  if (s.bank r.bank).st = .toReceiver r.giver r.tgt r.enc r.tslot && s.reservedFor r then
    .next ((s.setSlotOf r.tgt r.enc r.tslot (mkSlot 1 r.rights false r.from_ r.bank)).setBank r.bank
      { s.bank r.bank with st := .attached r.tgt r.enc r.tslot })
  else .next s

/-- A bank starts to scrub (R141); until it has, it keeps its owner. -/
def State.scrub (s : State) (b : Nat) : State :=
  (s.setBank b { st := .scrubbing, owner := s.bankOwner b }).enqueue (homeOf b) (.scrubComplete b)

/-- A detached bank becomes free, or scrubs when its home site's core has left its owner (R141). -/
def execBankReturnPool (b : Nat) (s : State) : Res :=
  match (s.bank b).st with
  | .toPool _ =>
    if (s.bank b).owner = s.partOfSite (homeOf b) then .next (s.setBank b { s.bank b with st := .free })
    else .next (s.scrub b)
  | _ => .next s

/-- The scrub ends: the bank is zero and free, and its owner is its home site's partition (R141). -/
def execScrubComplete (b : Nat) (s : State) : Res :=
  if (s.bank b).st = .scrubbing then
    .next ((s.zeroBank b).setBank b { st := .free, owner := s.partOfSite (homeOf b) })
  else .next s

/-- `REVOKE` (R150). -/
def execRevoke (p : Pfx) (d : Fin 16) (s : State) : Res :=
  let v := s.me.getG d
  if !s.privileged s.cur then s.trapMe Cause.priv 0
  else if 2 ^ 19 ≤ v.toNat || 384 ≤ v.toNat % 512 || s.bankOwner v.toNat ≠ s.me.part then
    s.trapMe Cause.bankid 0
  else match (s.bank v.toNat).st with
    | .frozen => s.trapMe Cause.frozen 0
    | .scrubbing => s.finish p
    | _ => (s.enqueue (homeOf v.toNat) (.bankRevoked ⟨s.me.part, v.toNat⟩)).waitFor (.revoke p v.toNat)

/-- Every slot that holds a bank, or expects it, becomes empty (R150, R155). A hand-over under way does not attach it any more. -/
def Ctx.dropBank (c : Ctx) (b : Nat) : Ctx :=
  { c with slots := c.slots.filter (fun e => slotState e.2 == 0 || slotBank e.2 != b) }

/-- Not the attachment of a bank after a hand-over. -/
def keepsAttach (b : Nat) (e : Nat × Instr) : Bool :=
  match e.2 with
  | .bankAttach r => r.bank != b
  | _ => true

def State.dropBank (s : State) (b : Nat) : State :=
  { s with cores := s.cores.map (fun (c, k) => (c, { k with ctx := k.ctx.map (fun (e, x) => (e, x.dropBank b)) }))
           flight := s.flight.filter (keepsAttach b) }

/-- A copy that uses a bank is told to stop (R150). -/
def stopCopy (b : Nat) (c : CopyCmd) : CopyCmd :=
  if c.stop = 0 && (c.sbanks.contains b || c.dbanks.contains b) then { c with stop := 4 } else c

/-- The copies under way that use a bank stop, those that wait for their channel included (R150, R232). -/
def State.stopBankCopies (s : State) (b : Nat) : State :=
  { s with
    nimbus := s.nimbus.map (fun (cl, n) =>
      (cl, { n with copies := n.copies.map (fun c => { c with cmd := stopCopy b c.cmd }) }))
    cores := s.cores.map (fun (c, k) => (c, { k with copyWait := k.copyWait.map (stopCopy b) }))
    flight := s.flight.map (fun e => match e with
      | (site, .copyCommand r) => (site, .copyCommand (stopCopy b r))
      | e => e) }

/-- A core of a partition waits for the revocation of a bank. -/
def Core.revokes (k : Core) (part b : Nat) : Bool :=
  match k.run with
  | .waiting (.revoke _ b') => b' == b && k.part == part
  | _ => false

/-- No other request of the partition for the revocation of a bank stays under way. -/
def State.dropRevokes (s : State) (part b : Nat) : State :=
  { s with flight := s.flight.filter (fun e => e.2 != .bankRevoked ⟨part, b⟩) }

/-- The partition's cores that wait for the revocation of a bank go on: the controller has accepted all their requests. -/
def State.revokeAccepted (s : State) (part b : Nat) : State :=
  { s.dropRevokes part b with cores := s.cores.map (fun (c, k) => match k.run with
      | .waiting (.revoke p _) => (c, if k.revokes part b then k.resume p else k)
      | _ => (c, k)) }

/-- The partition's cores that wait for the revocation of a bank trap. -/
def State.revokeRefused (s : State) (part b cause : Nat) : State :=
  (s.cores.filter (fun x => x.2.revokes part b)).foldl (fun s x => s.trap x.1 { cause := cause }) (s.dropRevokes part b)

/-- A revocation reaches the bank (R141, R150). -/
def State.revokeBank (s : State) (b : Nat) : State :=
  match (s.bank b).st with
  | .frozen | .scrubbing => s
  | _ => ((s.dropBank b).stopBankCopies b).scrub b

/-- The bank controller accepts a revocation that a core of a partition asked for (R150). A bank that is no more the
partition's, or frozen meanwhile, makes `REVOKE` trap. DESIGN CHOICE (log 83): a request whose handler has trapped while it
waited is performed all the same. -/
def execBankRevoked (r : RevokeReq) (s : State) : Res :=
  let part := r.part
  let b := r.bank
  if s.bankOwner b ≠ part then .next (s.revokeRefused part b Cause.bankid)
  else if (s.bank b).st = .frozen then .next (s.revokeRefused part b Cause.frozen)
  else .next ((s.revokeBank b).revokeAccepted part b)

/-- An uncorrectable error poisons a doubleword (R156). -/
def execBankPoison (b off : Nat) (s : State) : Res :=
  let d := b * 512 + off % 512
  .next (if s.bpoison.contains d then s else { s with bpoison := s.bpoison ++ [d] })

end Sys2Proof.Machine
end

