-- ==== Sys2Proof/Machine/Messages.lean ====
section
/-! DEFINITION. Page 3 without the versioned words: sending, ending a handler, the link registers and the
queues, and the arrival of messages (R112 to R124, R307). -/

namespace Sys2Proof.Machine

/-! ### Sending (R121) -/

/-- A handler-table entry of an enclave (R26). -/
def State.handler (s : State) (p enc idx : Nat) : Option HandlerEntry :=
  sget? (enc * 4096 + idx) (s.part p).handlers

/-- MaskInstalled (R121). -/
def State.maskInstalled (s : State) (p i : Nat) : Bool := (s.mask p i).isSome

/-- The checks of a record that is sent: RECFMT, then HIDX. -/
def State.recordBad (s : State) (p enc : Nat) (r : Record) : Option Nat :=
  if bitsOf r 37 34 ≠ 0 || hHeld r || !s.maskInstalled p (hMsk r) then some Cause.recfmt
  else if (s.handler p enc (hIdx r)).isNone then some Cause.hidx
  else none

/-- A 64-byte record at a local address, checked as R121 gives. -/
def State.localRecord (s : State) (want : Want) (la : Word) : LocalCheck :=
  if la.toNat % 64 ≠ 0 then .trap Cause.align la else s.localChecks want la 8

/-- The record's checks and its entry in the send buffer, after the checks of its own form. -/
def State.buffer (s : State) (p : Pfx) (e : Record → SendEntry) (spawn : Bool) (r : Record)
    (own : Option Nat) : Res :=
  let k := s.me
  match s.recordBad k.part k.enc r with
  | some c => s.trapMe c 0
  | none =>
    match own with
    | some c => s.trapMe c 0
    | none =>
      if k.sbuf.length = 32 then s.trapMe Cause.sndfull 0
      else
        (s.setMe { k with sbuf := k.sbuf ++ [e (setOrig r k.lnum)]
                          spawns := if spawn then k.spawns + 1 else k.spawns }).finish p

/-- A record from local memory for SEND, SENDM and SPAWN. -/
def State.bufferLocal (s : State) (p : Pfx) (la : Word) (e : Record → SendEntry) (spawn : Bool)
    (own : Option Nat) : Res :=
  match s.localRecord .read la with
  | .wait => s.waitCycle
  | .trap c f => s.trapMe c f
  | .ok => s.buffer p e spawn (BitVec.ofNat 512 (s.localNat la.toNat 64)) own

/-- NOCORE (R121). -/
def State.noCore (s : State) (n : Nat) : Option Nat :=
  if (s.siteOf s.me.part n).isNone then some Cause.nocore else none

/-- `SEND` (R121). -/
def execSend (p : Pfx) (d a : Fin 16) (s : State) : Res :=
  let n := (s.me.getG d).toNat
  s.bufferLocal p (s.me.getG a) (fun r => .send r n) false (s.noCore n)
/-- `SENDM` (R121). -/
def execSendm (p : Pfx) (d a : Fin 16) (s : State) : Res :=
  let n := (s.me.getG d).toNat
  s.bufferLocal p (s.me.getG a) (fun r => .sendm r n) false
    (if (sget? n (s.part s.me.part).trees).isNone then some Cause.notree else none)
/-- `SENDQ` (R121): the carried set as the record. -/
def execSendq (p : Pfx) (d : Fin 16) (s : State) : Res :=
  let n := (s.me.getG d).toNat
  s.buffer p (fun r => .send r n) false s.me.carried (s.noCore n)

/-- SPAWNLIM and DEQFULL (R118, R121). -/
def State.spawnBad (s : State) : Option Nat :=
  let k := s.me
  let c := k.cx
  if k.spawns = bitsOf c.smc 21 16 then some Cause.spawnlim
  else if 32 + (s.part k.part).spill ≤ c.deque.length + c.dspill.length + k.spawns then some Cause.deqfull
  else none

/-- `SPAWN` (R118, R121). -/
def execSpawn (p : Pfx) (d : Fin 16) (s : State) : Res :=
  s.bufferLocal p (s.me.getG d) (fun r => .spawn r) true s.spawnBad

/-! ### Arrival (R33, R115 to R117) -/

/-- The engine of a message's sender holds 64 messages, and this one is none of them (R117). -/
def State.engineFull (s : State) (m : Msg) : Bool :=
  let e := (s.core m.chan).engine
  decide (64 ≤ e.length) && !e.any (fun x => x.msg == m)

/-- A bounced copy of a multicast is resent as a unicast (R117). -/
def unicastOf (m : Msg) : Msg := { m with mcast := none }

/-- A message that no engine takes stays under way, before the later ones of its sender (R117). -/
def State.stays (s : State) (m : Msg) : State := { s with flight := (m.site, s.arrivalOf m) :: s.flight }

/-- Message a was sent before message b by the same sender (R119). -/
def sentBefore (a b : Msg) : Bool := a.seq != b.seq && decide ((b.seq + 2 ^ 32 - a.seq) % 2 ^ 32 < 2 ^ 31)

/-- A message enters its sender's engine in the order of sending: before a later one for the same core, enclave and queue, which
it holds back; and it is due itself unless an earlier one holds it back (R117). -/
def keepIn (m : Msg) (due : Nat) (l : List KeptMsg) : List KeptMsg :=
  let earlier := l.any (fun x => sameTarget x.msg m && sentBefore x.msg m)
  let kept : KeptMsg := { msg := m, due := if earlier then none else some due, sent := false }
  let later (x : KeptMsg) : Bool := sameTarget x.msg m && sentBefore m x.msg
  let behind (x : KeptMsg) : KeptMsg := if later x && !x.sent then { x with due := none } else x
  if l.any (fun x => x.msg == m) then l.map (fun x => if x.msg = m then kept else behind x)
  else l.takeWhile (fun x => !later x) ++ kept :: (l.dropWhile (fun x => !later x)).map behind

/-- A message goes back to the engine that sent it (R115, R117): none for those of homes and of Asters, and for one whose engine
has no room. -/
def State.keepMsg (s : State) (m : Msg) : Option State :=
  let k := s.core m.chan
  if m.chan < 1024 && !s.engineFull m then
    some (s.setCore m.chan { k with engine := keepIn (unicastOf m) (k.cyc + 512) k.engine })
  else none

/-- A message that bounces goes back to its engine; one that no engine takes stays under way. -/
def State.bounce (s : State) (m : Msg) : State := (s.keepMsg m).getD (s.stays m)

/-- The sender's engine keeps an earlier message for the same core, enclave and queue (R117). -/
def State.heldBehind (s : State) (m : Msg) : Bool :=
  decide (m.chan < 1024) && (s.core m.chan).engine.any (fun x => sameTarget x.msg m && sentBefore x.msg m)

/-- Messages that bounce together, the oldest first, go back to their engines; those that no engine takes stay under way, in
their order. -/
def State.bounceAll (s : State) (stay : List Msg) : List Msg → State
  | [] => { s with flight := stay.map (fun m => (m.site, s.arrivalOf m)) ++ s.flight }
  | m :: ms =>
    match s.keepMsg m with
    | some s => s.bounceAll stay ms
    | none => s.bounceAll (stay ++ [m]) ms

/-- A message that was resent has been accepted: its engine learns of it (R117). -/
def State.accepted (s : State) (m : Msg) : State :=
  if m.chan < 1024 && (s.core m.chan).engine.any (fun x => x.msg == m) then
    let k := s.core m.chan
    (s.setCore m.chan { k with engine := k.engine.filter (fun x => x.msg != m) }).enqueue m.chan
      (.messageAccepted m)
  else s

/-- The entry that a message becomes. -/
def entryOf (m : Msg) (arr : Nat) : Entry :=
  { record := m.record, queue := m.queue, src := m.src, seq := m.seq, woken := m.woken, arr := arr, wait := 0
    credit := m.src == 0x7ff, chan := m.chan, cell := m.cell }

/-- An idle core that receives work chooses its next action (R31, R32). -/
def State.wakeIdle (s : State) (c : Nat) : State :=
  if (s.core c).run = .idle then s.enqueue c .nextAction else s

/-- An ordinary arrival at the queue of the running enclave (R115, R116): none when it bounces. -/
def State.arriveQueue (s : State) (c enc : Nat) (q : Fin 4) (e : Entry) : Option State :=
  let k := s.core c
  let cx := k.cxOf enc
  let k' := { k with seqno := k.seqno + 1 }
  if cx.q[q].mode = 0 then
    match cx.q[q].arriveFifo e (s.part k.part).spill k.cyc with
    | some q' => some (s.setCore c (k'.setCxOf enc { cx with q := cx.q.set q q' }))
    | none => none
  else
    let (q', d) := cx.q[q].arriveRanked e k.cyc
    some ((s.setCore c (k'.setCxOf enc { cx with q := cx.q.set q q', smc := smcDrops cx.smc d.length })).creditBack
      k.part q d)

/-- A wake that reaches a core which has failed meanwhile goes to another live core of its mask, and without one its home
owes the NOLIVE record (R28, R37). The continuation has left the pool, so the record alone remains (log 69). -/
def State.rewake (s : State) (m : Msg) : State :=
  match s.wakeSite m.part m.record with
  | some c => let m := { m with site := c }
              s.enqueue c (s.arrivalOf m)
  | none =>
    s.reportRecord m.part m.chan (noliveRecord m.part
      { record := m.record, n := 0, scope := .dflt, enc := m.enc, next := 0, pending := true, cell := m.cell })

/-- A strand message arrives: at its queue, or at the arrival ring of an enclave that is switched out
(R33, R276). A message to a core that has failed or left the partition is lost (log 32), but for a wake. DESIGN CHOICE (log
79): an arrival for a switched-out enclave does not start NextAction on an idle core. -/
def State.arrive (s : State) (m : Msg) : State :=
  let k := s.core m.site
  if !k.live || k.part ≠ m.part then if m.woken && (sget? m.part s.parts).isSome then s.rewake m else s.accepted m
  else if s.heldBehind m then s.bounce m
  else
    let e := entryOf m k.seqno
    if m.enc = k.enc then
      match s.arriveQueue m.site m.enc m.queue e with
      | some s => (s.accepted m).wakeIdle m.site
      | none => s.bounce m
    else
      let cx := k.cxOf m.enc
      if isHost e || decide ((cx.ring.filter (fun x => !isHost x)).length < (s.part k.part).ringCap) then
        (s.setCore m.site { (k.setCxOf m.enc { cx with ring := cx.ring ++ [e] }) with
          seqno := k.seqno + 1 }).accepted m
      else s.bounce m

/-- A strand arrives at a FIFO queue (R115). -/
def execFifoArrival (m : Msg) (s : State) : Res := .next (s.arrive m)
/-- A strand arrives at a ranked queue (R116). -/
def execRankedArrival (m : Msg) (s : State) : Res := .next (s.arrive m)

/-- The engine sends one of its messages again. -/
def State.resend (s : State) (c : Nat) (m : Msg) : State :=
  let k := s.core c
  (s.setCore c { k with engine := k.engine.map (fun x =>
    if x.msg = m then { x with due := none, sent := true } else x) }).enqueue m.site (s.arrivalOf m)

/-- 512 cycles after a bounce the message is sent again (R117). -/
def execBounceResend (s : State) : Res :=
  let k := s.me
  match k.engine.find? (fun x => k.live && match x.due with
    | some t => !x.sent && decide (t ≤ k.cyc)
    | none => false) with
  | some x => .next (s.resend s.cur x.msg)
  | none => .next s

/-- The acceptance of a message sends the next one held back behind it (R117). -/
def execMessageAccepted (m : Msg) (s : State) : Res :=
  let k := s.core m.chan
  let s := if k.run = .waiting .room then s.enqueue m.chan .sendRoomFreed else s
  match k.engine.find? (fun x => sameTarget x.msg m) with
  | some x => if x.sent || x.due.isSome then .next s else .next (s.resend m.chan x.msg)
  | none => .next s

/-- Room in the engine lets a waiting handler end (R117). -/
def execSendRoomFreed (s : State) : Res :=
  let k := s.me
  if k.run = .waiting .room && k.engineRoom 0 then .next (s.setMe { k with run := .running }) else .next s

/-- Child entries of a tree node, in ascending order. -/
def treeChildren (nodes : List (Nat × Nat × Bool)) (node : Nat) : List (Nat × Nat) :=
  nodes.zipIdx.filterMap (fun (e, i) => if i ≠ 0 && e.2.1 = node then some (i, e.1) else none)

/-- The root gives a multicast its place in the order in which it injects (R21). -/
def State.stampCopy (s : State) (m : Msg) : State × Msg :=
  let k := s.core s.cur
  (s.setCore s.cur { k with seqno := k.seqno + 1 }, { m with mcast := some (s.cur, k.seqno) })

/-- A strand message of the same sender to the same site, sent after m (R119). -/
def sentAfter (m : Msg) (e : Nat × Instr) : Bool :=
  let later (n : Msg) : Bool := n.chan == m.chan && sentBefore m n
  match e.2 with
  | .fifoArrival n | .rankedArrival n => n.site == m.site && later n
  | .multicastForward n _ 0 => e.1 == m.site && later n
  | _ => false

/-- The root's own copy takes the place of the unicast that brought the message: before what its sender sent to the root's
site afterwards (R21, R307). -/
def State.enqueueOwn (s : State) (m : Msg) : State :=
  { s with flight := s.flight.takeWhile (fun e => !sentAfter m e) ++ (m.site, s.arrivalOf m)
             :: s.flight.dropWhile (fun e => !sentAfter m e) }

/-- A node forwards a SENDM message to its children, and takes it when it is a leaf (R307). -/
def execMulticastForward (m : Msg) (tree node : Nat) (s : State) : Res :=
  let (s, m) := if m.mcast.isNone then s.stampCopy m else (s, m)
  let pt := s.part m.part
  match sget? tree pt.trees with
  | none => .next s
  | some t =>
    match t.nodes[node]? with
    | none => .next s
    | some (n, _, leaf) =>
      let site (n : Nat) : Nat := (pt.members[n]?).getD 1024
      let copy : Msg := { m with site := site n }
      let s := if !leaf then s else if node = 0 then s.enqueueOwn copy else s.enqueue copy.site (s.arrivalOf copy)
      .next ((treeChildren t.nodes node).foldl (fun s c =>
        s.enqueue (site c.2) (.multicastForward m tree c.1)) s)

/-! ### Ending a handler (R90, R122) -/

/-- Why a handler end traps, before anything else: TASKEND, then QRESID (R90, R122). -/
def Core.endTrap (k : Core) (mayTask : Bool) : Option Nat :=
  if !mayTask && k.h.src == 0x7fe then some Cause.taskend
  else if !k.dq.isEmpty || !k.bq.isEmpty then some Cause.qresid
  else none

/-- The physical keys that a held write touches. -/
def entryCells : SendEntry → List Nat
  | .store _ parts => (partCells parts).map (·.1)
  | .vw w => keysFrom w.cell 16
  | _ => []

/-- A held write lies in a line that Nimbus owns, whose recall it waits for (R78), or in a host page
under invalidation (R295). -/
def State.heldBlocked (s : State) (c : Nat) : Bool :=
  (s.core c).sbuf.any (fun e => (entryCells e).any (fun a => s.lineOwned (a / 64) || s.atsBlocked [a]))

/-- Held writes follow the core's earlier accesses in coherence order and as releases (R64, R65, R70). -/
def State.heldBehindAccess (s : State) (c : Nat) : Bool :=
  (s.core c).sbuf.any (fun e => match e with
    | .store _ _ | .vw _ => true
    | _ => false) && s.pendingAccess c false

/-- The waits of a handler end, R37: earlier page-5 instructions, earlier accesses where the send buffer
holds writes, and owned lines. -/
def State.endWaits (s : State) (c : Nat) : Bool :=
  (s.core c).bal.isSome || s.heldBehindAccess c || s.heldBlocked c

/-- The stalled access of the executing sequence has its key: it is taken out of the flight list. -/
def State.unstall (s : State) : State := { s with flight := s.flight.filter (fun e => !s.isStalled e) }

/-- At a handler's end the keys of the held writes must be resident; else the sequence stalls on the first that is not (R39, R84,
R290; that the stalled access has address 0 is log 102). -/
def State.withHeldKeys (s : State) (p : Pfx) (f : State → Res) : Res :=
  if (s.heldUids s.cur).isEmpty then f s
  else match s.keyMissing (s.heldUids s.cur) with
  | some u => s.keyMiss (s.newAccess p 0 [] u (.store [])) u
  | none => f s.unstall

/-- A handler end: the wait for earlier page-5 instructions (R269), its traps, its other waits, then `f`. -/
def State.endingWith (s : State) (p : Pfx) (mayTask : Bool) (f : State → State) : Res :=
  let k := s.me
  if k.bal.isSome then s.waitCycle
  else match k.endTrap mayTask with
  | some c => s.trapMe c 0
  | none =>
    if s.endWaits s.cur then s.waitCycle
    else if !k.engineRoom 0 then s.waitFor .room
    else s.withHeldKeys p (fun s => .next (f (s.setMe (s.me.tick (1 + p.stall)))))

/-- `DONE` (R35, R122). -/
def execDone (p : Pfx) (s : State) : Res := s.endingWith p true (fun s => s.endHandler s.cur)

/-- The strand that YIELD places in its own core's queue (R119, R122). DESIGN CHOICE (log 80): it arrives at once, and may so
come before messages of the handler to the same queue. -/
def State.yieldMsg (s : State) (enc : Nat) (r : Record) : State :=
  let (s, m) := s.newMsg s.cur r s.cur
  s.arrive { m with enc := enc }

/-- `YIELD` (R122). -/
def execYield (p : Pfx) (s : State) : Res :=
  let k := s.me
  let r := setOrig k.carried k.lnum
  s.endingWith p false (fun s => (s.endHandler s.cur).yieldMsg k.enc r)

/-! ### Queues (R114, R123) -/

/-- A value that QCFG refuses (R114). -/
def qcfgBad (q : Fin 4) (v : Word) : Bool :=
  bitsOf v 63 9 != 0 || bitsOf v 3 2 != 0 || bitsOf v 1 0 == 3 || bitsOf v 8 4 == 0
  || decide (16 < bitsOf v 8 4) || (q == 3 && bitsOf v 1 0 != 0)

/-- `QCFG` (R114, R123). -/
def execQcfg (p : Pfx) (q : Fin 4) (a : Fin 16) (s : State) : Res :=
  let v := s.me.getG a
  let cx := s.cx
  if qcfgBad q v then s.trapMe Cause.crval 0
  else if cx.q[q].count ≠ 0 then s.trapMe Cause.qbusy 0
  else (s.setCx { cx with q := cx.q.set q { cx.q[q] with cfg := v }, smc := putBits cx.smc 47 32 0 }).finish p

/-- Entries that their trapping core kept go back where a place has come free (R130). -/
def State.placeEntries (s : State) (c : Nat) : List (Entry × Nat) → State
  | [] => s
  | (e, x) :: es =>
    let k := s.core c
    let enc := x / 4
    let q : Fin 4 := Fin.ofNat 4 x
    let cx := k.cxOf enc
    let s := match cx.q[q].putHead e (s.part k.part).spill k.cyc with
      | some (q', d) =>
        (s.setCore c (k.setCxOf enc { cx with q := cx.q.set q q', smc := smcDrops cx.smc d.length })).creditBack
          k.part q d
      | none => s.setCore c { k with keptEntries := k.keptEntries ++ [(e, x)] }
    s.placeEntries c es

def State.placeKept (s : State) (c : Nat) : State :=
  let k := s.core c
  (s.setCore c { k with keptEntries := [] }).placeEntries c k.keptEntries

/-- Remove the head of a queue of enclave `enc` on core c. -/
def State.popQueue (s : State) (c enc : Nat) (q : Fin 4) : State :=
  let k := s.core c
  let cx := k.cxOf enc
  let gone := cx.q[q].res.take 1
  ((s.setCore c (k.setCxOf enc { cx with q := cx.q.set q (cx.q[q].pop k.cyc) })).creditBack k.part q gone).placeKept c

/-- `QPOP` (R123). -/
def execQpop (p : Pfx) (d : Fin 16) (q : Fin 4) (s : State) : Res :=
  let la := s.me.getG d
  match s.localRecord .write la with
  | .wait => s.waitCycle
  | .trap c f => s.trapMe c f
  | .ok =>
    let (r, s) := match s.cx.q[q].res with
      | [] => (ofDwords 512 [BitVec.allOnes 64], s)
      | e :: _ => (e.record, s.popQueue s.cur s.me.enc q)
    (s.localWrite (cellsAt la.toNat (leBytes 64 r.toNat))).finish p

/-! ### Link registers (R124) -/

/-- NBR's valid bit of a direction. -/
def nbrValid (nbr : Word) (dir : Fin 4) : Bool := bitOf nbr (63 - 16 * dir.val)

/-- `POST` (R124): it waits for the credit and for the neighbour to run the poster's enclave. -/
def execPost (p : Pfx) (dir : Fin 4) (a : Fin 16) (s : State) : Res :=
  let k := s.me
  match if nbrValid k.nbr dir then neighbour s.cur dir.val else none with
  | none => s.trapMe Cause.nolink 0
  | some c =>
    if !k.credit[dir] || (s.core c).enc ≠ k.enc then s.waitLink dir.val
    else
      let l : LinkMsg := { poster := s.cur, site := c, reg := opposite dir, enc := k.enc, value := k.getG a }
      ((s.setMe { k with credit := k.credit.set dir false }).enqueue c (.linkValueArrival l)).finish p

/-- `XGET` (R124): it waits for the presence bit; the credit goes back to the poster. -/
def execXget (p : Pfx) (d : Fin 16) (dir : Fin 4) (s : State) : Res :=
  let k := s.me
  match k.link[dir] with
  | none => s.waitLink dir.val
  | some v =>
    let s := s.setMe { (k.setG d v) with link := k.link.set dir none }
    match neighbour s.cur dir.val with
    | some c => (s.enqueue c (.linkCreditReturn c (opposite dir))).finish p
    | none => s.finish p

/-- A posted value reaches the link register; at a core that has switched enclaves it is discarded and
its credit returns (R124). -/
def execLinkValueArrival (l : LinkMsg) (s : State) : Res :=
  let k := s.core l.site
  if k.live && k.enc = l.enc && k.part = (s.core l.poster).part then
    .next (s.setCore l.site { k with link := k.link.set l.reg (some l.value) })
  else .next (s.enqueue l.poster (.linkCreditReturn l.poster (opposite l.reg)))

/-- The credit returns to the poster (R124). -/
def execLinkCreditReturn (c : Nat) (dir : Fin 4) (s : State) : Res :=
  let k := s.core c
  .next (s.setCore c { k with credit := k.credit.set dir true })

end Sys2Proof.Machine
end

