-- ==== Sys2Proof/Machine/Vwords.lean ====
section
/-! DEFINITION. Versioned words: the page-3 instructions at issue and what their homes do (R74, R82, R126
to R129). -/

namespace Sys2Proof.Machine

/-- VwCheck (R127). -/
def State.vwCheck (s : State) (va : Word) (want : Want) : GlobalCheck :=
  if va.toNat % 16 ≠ 0 then .trap Cause.align va
  else match s.translate s.me.part va.toNat want with
    | .error c => .trap c va
    | .ok (l, uid) =>
      if !l.vw then .trap Cause.vwmisuse va
      else if !keyExists l.key then .absent l.key
      else .ok l uid

/-- A request of the executing core to the home of a cell. -/
def State.vwReq (s : State) (p : Pfx) (va : Word) (cell : Nat) (op : VwOp) : VwReq :=
  let k := s.me
  { core := s.cur, hid := k.h.hid, seqno := k.seqno, part := k.part, enc := k.enc, cell := cell, va := va
    scope := p.scope, op := op, held := heldVws cell k.sbuf, pc := k.pc }

/-- The checks of a versioned-word instruction at issue: VwCheck, then the form's own (`pre`, of the cell's key), then what
the access itself meets: a host page under invalidation, a key miss, the line MAC (R84, R286, R295). Then `f`. -/
def State.vwIssue (s : State) (p : Pfx) (va : Word) (want : Want) (pre : Nat → Option Tr) (f : Nat → State → Res) : Res :=
  match s.vwCheck va want with
  | .trap c x => s.trapMe c x
  | .absent key => .fault (.noSuchMemory key)
  | .ok l uid =>
    match pre l.key with
    | some (c, x) => s.trapMe c x
    | none =>
      if s.atsBlocked [l.key] then s.waitCycle
      else match s.keyMissing [uid] with
      | some u => s.keyMiss (s.newAccess p va [] uid (.store [])) u
      | none =>
        if !s.macOk l.key uid then s.trapMe Cause.sealmac va
        else f l.key { s.unstall with keys := touchKeys s.keys [uid] }

/-- The request leaves and the core waits for the home's answer. -/
def State.vwWait (s : State) (p : Pfx) (i : Instr) : Res :=
  ((s.setMe { s.me with seqno := s.me.seqno + 1 }).enqueue s.cur i).waitFor (.vw p)

/-- A held write of a cell with what a write of the cell that leaves after it does to the strand's view of it (R64, log 81): a
`VWST` leaves it behind, and a `VWINC` adds to what a held `VWST` gives. -/
def heldAfter (w x : HeldVw) : HeldVw :=
  if x.cell ≠ w.cell then x
  else if w.version.isSome then { x with past := true }
  else if x.version.isSome then { x with more := (x.more.1 + w.value, x.more.2 + 1) }
  else x

def SendEntry.after (w : HeldVw) : SendEntry → SendEntry
  | .vw x => .vw (heldAfter w x)
  | e => e

/-- A versioned write leaves the core, or is held in staged mode (R82, R128). The held writes of its cell stay held to the
handler's end, also behind one that leaves after STAGED was cleared (log 81). -/
def State.vwWrite (s : State) (p : Pfx) (w : HeldVw) (i : Instr) : Res :=
  let k := s.me
  if k.staged then (s.setMe { k with sbuf := k.sbuf ++ [.vw w] }).finish p
  else ((s.setMe { k with seqno := k.seqno + 1, sbuf := k.sbuf.map (SendEntry.after w) }).enqueue s.cur i).finish p

/-- `VWLD` (R127). -/
def execVwld (p : Pfx) (d a b : Fin 16) (s : State) : Res :=
  let k := s.me
  let va := k.getG a
  let n := (k.getG b).toNat
  s.vwIssue p va .read (fun _ => if 2 ^ 32 ≤ n then some (Cause.vwmisuse, va) else none) (fun cell s =>
    s.vwWait p (.vwHomeLoad (s.vwReq p va cell (.load d n (setOrig k.carried k.lnum)))))

/-- `VWST` (R128). -/
def execVwst (p : Pfx) (d a b : Fin 16) (s : State) : Res :=
  let k := s.me
  let va := k.getG a
  let v := k.getG d
  let n := bitsOf (k.getG b) 31 0
  s.vwIssue p va .write (fun _ => k.fullBuffer) (fun cell s =>
    s.vwWrite p { cell := cell, va := va, value := v, version := some n }
      (.vwHomeStore (s.vwReq p va cell (.store v n))))

/-- `VWINC` (R128). -/
def execVwinc (p : Pfx) (d a : Fin 16) (s : State) : Res :=
  let k := s.me
  let va := k.getG a
  let v := k.getG d
  s.vwIssue p va .write (fun _ => k.fullBuffer) (fun cell s =>
    s.vwWrite p { cell := cell, va := va, value := v, version := none }
      (.vwHomeInc (s.vwReq p va cell (.inc v))))

/-- `VWPK` (R129). -/
def execVwpk (p : Pfx) (d a : Fin 16) (s : State) : Res :=
  let va := s.me.getG a
  s.vwIssue p va .read (fun _ => none) (fun cell s => s.vwWait p (.vwHomePeek (s.vwReq p va cell (.peek d))))

/-- `VWRST` (R129): it traps before it acts when the send buffer holds a write of the cell (R82). -/
def execVwrst (p : Pfx) (a : Fin 16) (s : State) : Res :=
  let va := s.me.getG a
  s.vwIssue p va .write
    (fun cell => if (heldVws cell s.me.sbuf).isEmpty then none else some (Cause.vwmisuse, va))
    (fun cell s => s.vwWait p (.vwHomeReset (s.vwReq p va cell .reset)))

/-- `PARK` (R126): it waits for earlier page-5 instructions first (R269). -/
def execPark (p : Pfx) (d a : Fin 16) (s : State) : Res :=
  let k := s.me
  let va := k.getG d
  let n := bitsOf (k.getG a) 31 0
  if k.bal.isSome then s.waitCycle
  else s.vwIssue p va .read (fun _ => (k.endTrap false).map (fun c => (c, 0))) (fun cell s =>
    if s.endWaits s.cur then s.waitCycle
    else if !k.engineRoom 0 then s.waitFor .room
    else s.withHeldKeys p (fun s => s.vwWait p (.vwHomePark (s.vwReq p va cell (.park n (setOrig k.carried k.lnum))))))

/-! ### At the home -/

/-- The home's answer goes back to the core. -/
def State.vwAnswer (s : State) (r : VwReq) (x : VwResult) : State :=
  s.enqueue r.core (.vwReply { core := r.core, hid := r.hid, result := x })

/-- The lowest pool entry not in use; none when the pool is empty (R125). -/
def freeCont (conts : SMap Cont) : Nat → Nat → Nat
  | 0, i => i
  | n + 1, i => if (sget? i conts).isNone then i else freeCont conts n (i + 1)

def Part.freeCont (pt : Part) : Option Nat :=
  let i := Machine.freeCont pt.conts (pt.conts.length + 1) 0
  if i < pt.poolN then some i else none

/-- The home lists a continuation (R125, R127). -/
def State.listCont (s : State) (r : VwReq) (n : Nat) (rec : Record) (i : Nat) : State :=
  let pt := s.part r.part
  let c : Cont := { record := rec, n := n, scope := r.scope, enc := r.enc, next := s.cellHead r.cell, pending := false
                    cell := r.va }
  (s.setPart r.part { pt with conts := sset i c pt.conts }).setCell r.part r.cell r.va (s.cellValue r.cell)
    (s.cellVersion r.cell) (i + 1)

/-- The keys of the held writes are used as the handler of core c ends at a home; a miss counts in KMC (R39, R290). -/
def State.useHeld (s : State) (c : Nat) : State :=
  let us := s.heldUids c
  match s.keyMissing us with
  | none => s
  | some _ => (s.setCore c ((s.core c).setCx (s.core c).cx.countMiss)).useKeys us

/-- A strand parks (R126, R127): its handler ends as at DONE, and its park comes after its held writes of the cell (R82). When
these reach the version the home wakes it at once, and where its mask holds no live core the NOLIVE record is all that
remains: it takes no pool entry (log 71). Only when the version is not reached does it take a pool entry. -/
def State.parkAt (s : State) (r : VwReq) (n : Nat) (rec : Record) : State :=
  let s := s.useHeld r.core
  if n ≤ (applyHeld r.held (s.cellValue r.cell, s.cellVersion r.cell)).2 then
    let s := s.endHandler r.core
    match s.sendWake r.part r.enc r.cell r.va rec with
    | some s => s
    | none =>
      s.reportRecord r.part (2048 + homeSite r.cell) (noliveRecord r.part
        { record := rec, n := n, scope := r.scope, enc := r.enc, next := 0, pending := true, cell := r.va })
  else match (s.part r.part).freeCont with
  | none => s.vwAnswer r (.trap Cause.contfull r.va)
  | some i => (s.endHandler r.core).listCont r n rec i

/-- The state of a cell that a request sees (R64, R82). -/
def State.seenCell (s : State) (r : VwReq) : Word × Nat :=
  applyHeld (ownHeld r.held) (s.cellValue r.cell, s.cellVersion r.cell)

/-- The cell's line has an error beyond its code: its sequence traps with SEALMAC, when its handler still runs (R309, log 82).
The answer brings the trap to a sequence that waits. -/
def State.deadCell (s : State) (r : VwReq) (waits : Bool) : State :=
  if waits && (s.core r.core).runs r.hid then s.vwAnswer r (.trap Cause.sealmac r.va) else s.lateMac r.core r.hid r.va r.pc

/-- A VWLD at its turn in the home order (R74, R127). A park that must wait for the core's engines or
message engine (R117, R269) reaches the home again; for Iris it waits before its traps. -/
def execVwHomeLoad (r : VwReq) (s : State) : Res :=
  match r.op with
  | .load d n rec =>
    let k := s.core r.core
    let (v, ver) := s.seenCell r
    if s.lineDead r.cell then .next (s.deadCell r true)
    else if n ≤ ver then .next (s.vwAnswer r (.value d v))
    else if !k.runs r.hid then .next s
    else if k.bal.isSome then .next (s.enqueue r.core (.vwHomeLoad r))
    else match k.endTrap false with
      | some c => .next (s.vwAnswer r (.trap c 0))
      | none =>
        if s.endWaits r.core || !k.engineRoom 0 then .next (s.enqueue r.core (.vwHomeLoad r))
        else .next (s.parkAt r n rec)
  | _ => .next s

/-- A PARK at the home (R126). -/
def execVwHomePark (r : VwReq) (s : State) : Res :=
  match r.op with
  | .park n rec =>
    if s.lineDead r.cell then .next (s.deadCell r true)
    else .next (if (s.core r.core).runs r.hid then s.parkAt r n rec else s)
  | _ => .next s

/-- A VWST at the home (R74, R128). -/
def execVwHomeStore (r : VwReq) (s : State) : Res :=
  match r.op with
  | .store v n => .next (if s.lineDead r.cell then s.deadCell r false else s.homeWrite r.part r.cell r.va v n)
  | _ => .next s

/-- A VWINC at the home (R74, R128). -/
def execVwHomeInc (r : VwReq) (s : State) : Res :=
  match r.op with
  | .inc v =>
    .next (if s.lineDead r.cell then s.deadCell r false
      else s.homeWrite r.part r.cell r.va (s.cellValue r.cell + v) ((s.cellVersion r.cell + 1) % 2 ^ 32))
  | _ => .next s

/-- A VWPK at the home (R74, R129). -/
def execVwHomePeek (r : VwReq) (s : State) : Res :=
  match r.op with
  | .peek d =>
    let (v, n) := s.seenCell r
    .next (if s.lineDead r.cell then s.deadCell r true else s.vwAnswer r (.pair d v n))
  | _ => .next s

/-- A VWRST at the home (R74, R129): with any continuation parked it traps and changes nothing. -/
def execVwHomeReset (r : VwReq) (s : State) : Res :=
  match r.op with
  | .reset =>
    if s.lineDead r.cell then .next (s.deadCell r true)
    else if s.cellHead r.cell ≠ 0 then .next (s.vwAnswer r (.trap Cause.vwmisuse r.va))
    else .next ((s.setCell r.part r.cell r.va (s.cellValue r.cell) 0 0).vwAnswer r .done)
  | _ => .next s

/-- The home's answer completes the instruction that waits for it. -/
def execVwReply (r : VwRep) (s : State) : Res :=
  let k := s.core r.core
  match k.run with
  | .waiting (.vw p) =>
    if !k.runs r.hid then .next s
    else match r.result with
      | .value d v => .next (s.setCore r.core ((k.setG d v).resume p))
      | .pair d v n => .next (s.setCore r.core (((k.setG d v).setG (d + 1) (BitVec.ofNat 64 n)).resume p))
      | .done => .next (s.setCore r.core (k.resume p))
      | .trap c f => .next (s.trap r.core { cause := c, faddr := f })
  | _ => .next s

end Sys2Proof.Machine
end

