-- ==== Sys2Proof/Machine/Copy.lean ====
section
/-! DEFINITION. The copy engine: the copy instructions of page 4 and the service of copies by Nimbus (R78,
R79, R223 to R233). -/

namespace Sys2Proof.Machine

/-! ### Descriptors and write pointers (R223, R224) -/

def cdSrc (r : Record) : Word := dword r 0
def cdDst (r : Record) : Word := dword r 1
def cdLen (r : Record) : Nat := bitsOf r 159 128
def cdCh (r : Record) : Fin 4 := Fin.ofNat 4 (bitsOf r 161 160)
def cdSl (r : Record) : Bool := bitOf r 162
def cdDl (r : Record) : Bool := bitOf r 163
def cdCw (r : Record) : Word := dword r 3
def cdDeadline (r : Record) : Nat := bitsOf r 287 256
def cdVwa (r : Record) : Word := dword r 5
def cdVer (r : Record) : Nat := bitsOf r 415 384

/-- One side of a descriptor is ill-formed (R224). -/
def sideBad (a : Word) (loc : Bool) : Bool :=
  a.toNat % 64 != 0 || (if loc then bitsOf a 63 21 != 0 else bitsOf a 63 56 != 0)

/-- FormOk fails (R224, Table 14.1): `form` is 0 for CPY, 1 for CPYW, 2 for CPYM. -/
def cdescBad (form : Nat) (r : Record) : Bool :=
  sideBad (cdSrc r) (cdSl r) || sideBad (cdDst r) (cdDl r) || bitsOf r 191 164 != 0
  || cdLen r % 64 != 0 || cdLen r == 0 || decide (0x1000000 < cdLen r) || (cdCw r).toNat % 16 != 0
  || bitsOf r 319 288 != 0 || bitsOf r 447 416 != 0 || bitsOf r 511 448 != 0
  || (form == 0 && cdDeadline r != 0) || (form == 1 && cdDeadline r == 0)
  || (if form = 2 then cdSl r || !cdDl r || cdVwa r == 0 else cdVwa r != 0 || cdVer r != 0)

def cwpGen (v : Word) : Nat := bitsOf v 63 48
def cwpSt (v : Word) : Nat := bitsOf v 34 32
def cwpOff (v : Word) : Nat := bitsOf v 24 0

/-- A write pointer from its fields. -/
def mkCwp (gen st off : Nat) : Word := BitVec.ofNat 64 (gen % 2 ^ 16 * 2 ^ 48 + st * 2 ^ 32 + off)

/-- The sub-register of a channel of a partition's core and enclave. -/
def channelKey (part core enc ch : Nat) : Nat := ((part * 1024 + core) * 8 + enc) * 4 + ch

/-- The partition of a channel's sub-register. -/
def keyPart (key : Nat) : Nat := key / 32768

/-! ### Issuing (R226) -/

/-- The bank that each slot of a local side covers, or why the side is refused (R151, R226). DESIGN CHOICE (log 93): the slots
are checked one by one in ascending order, and the fault address is the first byte of the range in the slot that fails. -/
def State.sideBanks (s : State) (want : Want) (a : Nat) (lo : Nat) : Nat → Except LocalCheck (List Nat)
  | 0 => .ok []
  | n + 1 =>
    let slot := lo
    let fa := BitVec.ofNat 64 (max a (slot * 4096))
    let e := s.cx.slot slot
    if 496 ≤ slot then .error (.trap Cause.laddr fa)
    else if slotState e = 2 then .error .wait
    else if slotState e = 0 then .error (.trap Cause.detached fa)
    else if (want = .read && !slotRd e) || (want = .write && !slotWr e) then .error (.trap Cause.rights fa)
    else match s.sideBanks want a (lo + 1) n with
      | .ok bs => .ok (slotBank e :: bs)
      | .error x => .error x

/-- CheckRange (R226): no banks for a global side. -/
def State.checkRange (s : State) (want : Want) (a : Word) (loc : Bool) (len : Nat) : Except LocalCheck (List Nat) :=
  if loc then
    let lo := a.toNat / 4096
    s.sideBanks want a.toNat lo ((a.toNat + len - 1) / 4096 + 1 - lo)
  else .ok []

/-- A refused VwCheck of a cell that a copy names. -/
def State.cellBad (s : State) (va : Word) (want : Want) : Option Res :=
  match s.vwCheck va want with
  | .ok _ _ => none
  | .trap c f => some (s.trapMe c f)
  | .absent key => some (.fault (.noSuchMemory key))

/-- The copy issues when its channel's last copy has ended and the accesses before it are performed: the channel's write
pointer, the queue entry with the tail (log 73), and the command (R223, R225, R226). Until then it is kept as its checks
found it. -/
def State.issueCopy (s : State) (p : Pfx) (cmd : CopyCmd) : Res :=
  let c := s.cx
  let ch := Fin.ofNat 4 cmd.ch
  if cwpSt c.cwp[ch] = 0 || s.pendingAccess s.cur false then
    State.waitCycle (s.setMe { s.me with copyWait := some cmd })
  else
    let gen := (cwpGen c.cwp[ch] + 1) % 2 ^ 16
    let c := { c with cwp := c.cwp.set ch (mkCwp gen 0 0), vqueue := c.vqueue.set ch (some cmd.desc)
                      vqTail := c.vqTail + 1 }
    ((s.setMe { s.me.setCx c with copyWait := none }).enqueue (clusterSite (clusterOf s.cur))
      (.copyCommand { cmd with gen := gen })).finish p

/-- The checks of CopyIssue in their order (R226). -/
def State.copyChecks (s : State) (p : Pfx) (form : Nat) (da : Word) : Res :=
  if da.toNat % 64 ≠ 0 then s.trapMe Cause.align da
  else match s.localChecks .read da 8 with
    | .wait => s.waitCycle
    | .trap c f => s.trapMe c f
    | .ok =>
      let r := BitVec.ofNat 512 (s.localNat da.toNat 64)
      if cdescBad form r then s.trapMe Cause.cdesc da
      else match s.checkRange .read (cdSrc r) (cdSl r) (cdLen r) with
        | .error .wait => s.waitCycle
        | .error (.trap c f) => s.trapMe c f
        | .error .ok => s.waitCycle
        | .ok sb =>
          match s.checkRange .write (cdDst r) (cdDl r) (cdLen r) with
          | .error .wait => s.waitCycle
          | .error (.trap c f) => s.trapMe c f
          | .error .ok => s.waitCycle
          | .ok db =>
            match if cdCw r = 0 then none else s.cellBad (cdCw r) .write with
            | some x => x
            | none =>
              match if form = 2 then s.cellBad (cdVwa r) .read else none with
              | some x => x
              | none =>
                s.issueCopy p { core := s.cur, enc := s.me.enc, part := s.me.part, ch := (cdCh r).val, gen := 0
                                form := form, desc := r, sbanks := sb, dbanks := db, stop := 0 }

/-- CopyIssue (R226): the checks once, then the wait for the channel. -/
def State.copyIssue (s : State) (p : Pfx) (form : Nat) (d : Fin 16) : Res :=
  match s.me.copyWait with
  | some cmd => s.issueCopy p cmd
  | none => s.copyChecks p form (s.me.getG d)

/-- `CPY` (R226). -/
def execCpy (p : Pfx) (d : Fin 16) (s : State) : Res := s.copyIssue p 0 d
/-- `CPYW` (R226). -/
def execCpyw (p : Pfx) (d : Fin 16) (s : State) : Res := s.copyIssue p 1 d
/-- `CPYM` (R226, R230). -/
def execCpym (p : Pfx) (d : Fin 16) (s : State) : Res := s.copyIssue p 2 d

/-- A command is the copy of this partition's core, enclave, channel and generation. -/
def copyNames (c : CopyCmd) (part core enc ch gen : Nat) : Bool :=
  c.part == part && c.core == core && c.enc == enc && c.ch == ch && c.gen == gen

/-- A copy is told to stop before its next line. -/
def cancelCopy (part core enc ch gen : Nat) (c : CopyCmd) : CopyCmd :=
  if copyNames c part core enc ch gen && c.stop == 0 then { c with stop := 2 } else c

/-- `CCAN` (R227). -/
def execCcan (p : Pfx) (d : Fin 16) (s : State) : Res :=
  let v := s.me.getG d
  if bitsOf v 47 2 ≠ 0 then s.trapMe Cause.cdesc 0
  else
    let ch := bitsOf v 1 0
    let f := cancelCopy s.me.part s.cur s.me.enc ch (bitsOf v 63 48)
    State.finish
      { s with
        nimbus := s.nimbus.map (fun (cl, n) =>
          (cl, { n with copies := n.copies.map (fun (c : Copy) =>
            if c.staging.isSome then c else { c with cmd := f c.cmd }) }))
        flight := s.flight.map (fun e => match e with
          | (site, .copyCommand r) => (site, .copyCommand (f r))
          | e => e) } p

def State.nim (s : State) (cl : Nat) : Nimbus := sget Nimbus.reset cl s.nimbus
def State.setNim (s : State) (cl : Nat) (n : Nimbus) : State := { s with nimbus := sset cl n s.nimbus }

/-- `CQSET` (R227): the budget in force holds until Nimbus's window ends. -/
def execCqset (p : Pfx) (d a : Fin 16) (s : State) : Res :=
  let v := s.me.getG d
  let w := s.me.getG a
  if 3 < v.toNat || w = 0 || 2048 < w.toNat then s.trapMe Cause.cqval 0
  else
    let ch : Fin 4 := Fin.ofNat 4 v.toNat
    let cl := clusterOf s.cur
    let n := s.nim cl
    let key := channelKey s.me.part s.cur s.me.enc ch.val
    let n := if (sget? key n.old).isSome then n else { n with old := sset key s.cx.budget[ch] n.old }
    ((s.setNim cl n).setCx { s.cx with budget := s.cx.budget.set ch w.toNat }).finish p

/-- `CPOS` (R228). -/
def execCpos (p : Pfx) (d a : Fin 16) (ch : Fin 4) (s : State) : Res :=
  let k := s.me
  (s.setMe (k.setG d (boolWord (decide ((k.getG a).toNat ≤ cwpOff k.cx.cwp[ch]))))).finish p

/-- `CWAIT` (R228). -/
def execCwait (p : Pfx) (a : Fin 16) (ch : Fin 4) (s : State) : Res :=
  let v := s.cx.cwp[ch]
  if (s.me.getG a).toNat ≤ cwpOff v then s.finish p
  else if cwpSt v ≠ 0 then s.trapMe Cause.cshort 0
  else s.waitCycle

/-! ### Ending a copy (R229, R232) -/

/-- The write pointer of a copy's channel; staging copies have none, and a core that has left the
partition has lost it. -/
def State.setCwp (s : State) (c : Copy) (st off : Nat) : State :=
  let r := c.cmd
  let k := s.core r.core
  if c.staging.isSome || k.part ≠ r.part then s
  else
    let cx := k.cxOf r.enc
    let ch := Fin.ofNat 4 r.ch
    s.setCore r.core (k.setCxOf r.enc { cx with cwp := cx.cwp.set ch (mkCwp r.gen st off) })

/-- The completion value of Table 14.3. -/
def completionValue (bytes cause st : Nat) : Word := BitVec.ofNat 64 (bytes * 2 ^ 16 + cause * 2 ^ 8 + st)

/-- A line that does not verify counts in the lifetime records of the site of a cluster's Nimbus and Aster (R286, R312, log 37). -/
def State.badLine (s : State) (cl : Nat) (bad : Bool) : State :=
  if bad then s.lifeAdd (1 + clusterSite cl) 3 1 else s

/-- The completion cell is written at its home (R232), under its page's key (R283, R290). DESIGN CHOICE (log 95): where its page
no longer translates or its key admits no write any more, or its line does not verify, nothing is written. -/
def State.completionWrite (s : State) (cl p : Nat) (va v : Word) : State :=
  if s.lineFails p va.toNat then s.badLine cl true
  else match s.physFor p va.toNat .write with
  | some cell => (s.useKey (s.uidAt p va.toNat)).homeWrite p cell va v ((s.cellVersion cell + 1) % 2 ^ 32)
  | none => s

/-- One of a task's staging copies has ended; any end but the last line is a fault (R242). -/
def State.stagingEnded (s : State) (t : TaskRef) (st : Nat) : State :=
  let s := { s with tasks := s.tasks.map (fun (x : Task) =>
    if x.ref = t then { x with copies := x.copies - 1, failed := x.failed || st != 1 } else x) }
  match s.tasks.find? (fun (x : Task) => x.ref == t) with
  | some x =>
    if x.copies = 0 && x.phase = .staging then
      s.enqueue (clusterSite (clusterOf s.cur)) (.asterStagingDone t) else s
  | none => s

/-- CAUSE of a completion word: of a fault at a global page Table 14.3 knows PAGE and PROT alone. A table entry that does not
verify is told as PAGE, and a revoked key as PROT (log 41). -/
def copyCause (cause : Nat) : Nat :=
  if cause = Cause.sealmac then Cause.page else if cause = Cause.keyrevoked then Cause.prot else cause

/-- A copy ends: ST, the completion word, and the end of its service (R229, R232). -/
def State.endCopy (s : State) (cl : Nat) (c : Copy) (st cause : Nat) : State :=
  let n := s.nim cl
  let s := s.setNim cl { n with copies := n.copies.filter (fun x => x.arrival != c.arrival) }
  let off := c.next * 64
  let s := s.setCwp c st off
  match c.staging with
  | some t => s.stagingEnded t st
  | none =>
    if cdCw c.cmd.desc = 0 then s
    else s.completionWrite cl c.cmd.part (cdCw c.cmd.desc) (completionValue off (copyCause cause) st)

/-! ### Budgets and deadlines (R227, R229) -/

/-- The budget of a copy's channel. Staging has the default, and so has from the next window on a copy whose core has left the
partition, since the enclave's state there is gone (DESIGN CHOICE, log 104). -/
def State.channelBudget (s : State) (c : Copy) : Nat :=
  let k := s.core c.cmd.core
  if c.staging.isSome || k.part ≠ c.cmd.part then 2048 else (k.cxOf c.cmd.enc).budget[Fin.ofNat 4 c.cmd.ch]

/-- The budget key of a copy. Each staging copy has its own, of no partition. -/
def Copy.key (c : Copy) : Nat :=
  if c.staging.isSome then channelKey 256 0 0 c.arrival
  else channelKey c.cmd.part c.cmd.core c.cmd.enc c.cmd.ch

/-- The budget in force in the current window: a new one applies from the next window (R227). -/
def State.budgetOf (s : State) (cl : Nat) (c : Copy) : Nat :=
  if c.staging.isSome then 2048
  else
    match sget? c.key (s.nim cl).old with
    | some b => b
    | none => s.channelBudget c

/-- A new window of 1,024 cycles renews the budgets. -/
def Nimbus.renew (n : Nimbus) : Nimbus :=
  if n.window + 1024 ≤ n.cyc then { n with window := n.cyc / 1024 * 1024, used := [], old := [] } else n

/-- The channel has budget left in the window. -/
def State.hasBudget (s : State) (cl : Nat) (c : Copy) : Bool :=
  decide (sget 0 c.key (s.nim cl).used < s.budgetOf cl c)

/-- A copy with lines left to the deadline cannot make it: R × 1,024 > D × b, with the budget that its channel has been
given, as Table 14.5 has it. -/
def State.tooLate (s : State) (cl : Nat) (c : Copy) : Bool :=
  match c.due with
  | none => false
  | some t => decide ((t - (s.nim cl).cyc) * s.channelBudget c < (cdLen c.cmd.desc / 64 - c.next) * 1024)

/-- The members of a copy's group (R230). -/
def Nimbus.members (n : Nimbus) (g : Nat) : List Copy := n.copies.filter (fun c => c.group == g)

/-- Another cluster's Nimbus owns the line (R78; that copies of one Nimbus do not wait for each other's lines is log 74). -/
def State.ownedElsewhere (s : State) (cl line : Nat) : Bool :=
  s.nimbus.any (fun (i, n) => i != cl && n.copies.any (fun c => c.own.contains line))

/-- A source line: its bytes, whether it comes poisoned, and the key generation it is unsealed with; or the cause of a
fault. -/
inductive SrcLine where
  | bytes (bs : List Byte) (bad : Bool) (uid : Option Nat)
  | fault (cause : Nat)
  | absent (key : Nat)

/-- The bank line of a local side: the bank of the slot, as at issue, and the offset. -/
def bankLine (a : Word) (banks : List Nat) (k : Nat) : Nat × Nat :=
  let x := a.toNat + 64 * k
  (banks.getD (x / 4096 - a.toNat / 4096) 0, x % 4096)

def State.sourceLine (s : State) (r : CopyCmd) (k : Nat) : SrcLine :=
  if cdSl r.desc then
    let (b, off) := bankLine (cdSrc r.desc) r.sbanks k
    if (List.range 8).any (fun j => s.bpoison.contains (b * 512 + off / 8 + j)) then .fault Cause.bankecc
    else .bytes (memBytes s.bmem (bankKey b off) 64) false none
  else match s.translate r.part ((cdSrc r.desc).toNat + 64 * k) .read with
    | .error c => .fault c
    | .ok (l, uid) =>
      if !keyExists l.key then .absent l.key else .bytes (memBytes s.mem l.key 64) (!s.macOk l.key uid) (some uid)

/-- Serving the copy's next line ends it, so that its completion cell is written: it is the last line, or faults. -/
def State.endsNow (s : State) (c : Copy) : Bool :=
  let r := c.cmd
  decide ((c.next + 1) * 64 = cdLen r.desc)
  || (match s.sourceLine r c.next with
    | .fault _ => true
    | _ => false)
  || (!cdDl r.desc && (match s.translate r.part ((cdDst r.desc).toNat + 64 * c.next) .write with
    | .error _ => true
    | .ok _ => false))

/-- A cell that Nimbus reads or writes lies in no host page under invalidation (R295) and in no line that another Nimbus owns
(R78), and its key is resident or can be reloaded (R290). -/
def State.cellFree (s : State) (cl p : Nat) (va : Word) : Bool :=
  va == 0 || (match s.physOf p va.toNat with
    | some key => !s.atsBlocked [key] && !s.ownedElsewhere cl (key / 64) && s.keyLoads (s.uidAt p va.toNat)
    | none => true)

/-- The copy's completion cell, when it has one, may be written. -/
def State.mayEnd (s : State) (cl : Nat) (c : Copy) : Bool := c.staging.isSome || s.cellFree cl c.cmd.part (cdCw c.cmd.desc)

/-- The copy's next line can be served now: it lies in no host page under invalidation (R295) and in no line that another
Nimbus owns (R78), and its key is resident or can be reloaded (R290); and so does its completion cell when it ends. -/
def State.lineFree (s : State) (cl : Nat) (c : Copy) : Bool :=
  let free (loc : Bool) (a : Word) : Bool :=
    let va := a.toNat + 64 * c.next
    loc || (match s.physOf c.cmd.part va with
    | some key => !s.atsBlocked [key] && !s.ownedElsewhere cl (key / 64) && s.keyLoads (s.uidAt c.cmd.part va)
    | none => true)
  free (cdSl c.cmd.desc) (cdSrc c.cmd.desc) && free (cdDl c.cmd.desc) (cdDst c.cmd.desc) && (!s.endsNow c || s.mayEnd cl c)

/-- A copy could be given a line. DESIGN CHOICE (log 94): a combined group of which one member's channel has no budget left waits
as a whole. -/
def State.copyEligible (s : State) (cl : Nat) (c : Copy) : Bool :=
  c.ready && ((s.nim cl).members c.group).all (fun m => s.hasBudget cl m && s.lineFree cl m)

/-- A copy that stops before its next line: cancelled, revoked, or too late for its deadline. The test is
made before each line the copy could be given, and once it falls due. -/
def State.copyStop (s : State) (cl : Nat) (c : Copy) : Option Nat :=
  if c.cmd.stop ≠ 0 then some c.cmd.stop
  else match c.due with
    | none => none
    | some t =>
      if (s.copyEligible cl c || decide (t ≤ (s.nim cl).cyc)) && s.tooLate cl c then some 2 else none

/-- Copies that stop are ended, once their completion cells may be written (R295). -/
def State.endStopped (s : State) (cl : Nat) : List Copy → State
  | [] => s
  | c :: cs =>
    let s := match s.copyStop cl c with
      | some st => if s.mayEnd cl c then s.endCopy cl c st 0 else s
      | none => s
    s.endStopped cl cs

/-! ### Accepting a command (R78, R225, R229, R230) -/

/-- The global destination lines of a copy, which Nimbus owns from now on. -/
def State.ownLines (s : State) (r : CopyCmd) : List Nat :=
  if cdDl r.desc then []
  else (List.range (cdLen r.desc / 64)).filterMap (fun k =>
    match s.physOf r.part ((cdDst r.desc).toNat + 64 * k) with
    | some key => some (key / 64)
    | none => none)

/-- Nimbus can accept the command: no other Nimbus owns a line of its destination (R78), and the cells it names are free
(R295). -/
def State.acceptReady (s : State) (r : CopyCmd) : Bool :=
  let cl := clusterOf r.core
  !(s.ownLines r).any (s.ownedElsewhere cl) && s.cellFree cl r.part (cdCw r.desc) && s.cellFree cl r.part (cdVwa r.desc)

/-- The source version of a CPYM is reached. -/
def State.versionReached (s : State) (r : CopyCmd) : Bool :=
  match s.physOf r.part (cdVwa r.desc).toNat with
  | some cell => decide (cdVer r.desc ≤ s.cellVersion cell)
  | none => false

/-- Two CPYM commands that combine (R230). -/
def combines (a b : CopyCmd) : Bool :=
  a.form == 2 && b.form == 2 && a.part == b.part && cdSrc a.desc == cdSrc b.desc
  && cdLen a.desc == cdLen b.desc && cdVwa a.desc == cdVwa b.desc && cdVer a.desc == cdVer b.desc

/-- Nimbus looks for a line to move. -/
def State.kickNimbus (s : State) (cl : Nat) : State :=
  let site := clusterSite cl
  if s.flight.any (fun e => e == (site, .copyLine)) then s else s.enqueue site .copyLine

/-- A copy enters Nimbus's service: it is combined, or stands alone; the deadline is tested. -/
def State.acceptCopy (s : State) (cl : Nat) (r : CopyCmd) (staging : Option TaskRef) : State :=
  let n := s.nim cl
  let mate := if staging.isSome then none
    else n.copies.find? (fun c => c.staging.isNone && c.next == 0 && combines c.cmd r)
  let ready := r.form != 2 || (match mate with
    | some m => m.ready
    | none => s.versionReached r)
  let dl := cdDeadline r.desc
  let c : Copy :=
    { cmd := r, arrival := n.arrivals, due := if dl = 0 then none else some (n.cyc + dl), next := 0
      ready := ready, group := (mate.map (·.group)).getD n.arrivals, own := s.ownLines r, staging := staging }
  let s := s.setNim cl { n with copies := n.copies ++ [c], arrivals := n.arrivals + 1 }
  let s := if ready || mate.isSome then s else s.enqueue (clusterSite cl) (.cpymVersionReached r)
  if r.stop ≠ 0 then s.endCopy cl c r.stop 0
  else if s.tooLate cl c then s.endCopy cl c 2 0
  else s.kickNimbus cl

/-- The virtual engine queue's entry that a command names, taken from the queue: its head rises (R225, log 73). -/
def State.takeEntry (s : State) (r : CopyCmd) : State × CopyCmd :=
  let k := s.core r.core
  let cx := k.cxOf r.enc
  (s.setCore r.core (k.setCxOf r.enc { cx with vqHead := cx.vqHead + 1 }),
   { r with desc := (cx.vqueue[Fin.ofNat 4 r.ch]).getD r.desc })

/-- The copy command arrives at its cluster's Nimbus, which serves the copy from its queue entry (R225). A command whose
core has left the partition is dropped. -/
def execCopyCommand (r : CopyCmd) (s : State) : Res :=
  if (s.core r.core).part ≠ r.part then .next s
  else
    let (s, r) := s.takeEntry r
    .next (s.acceptCopy (clusterOf r.core) r none)

/-- The source version is reached: the group becomes eligible (R230). -/
def execCpymVersionReached (r : CopyCmd) (s : State) : Res :=
  let cl := clusterOf r.core
  let n := s.nim cl
  match n.copies.find? (fun c => combines c.cmd r && !c.ready) with
  | none => .next s
  | some _ =>
    if s.versionReached r then
      .next ((s.setNim cl { n with copies := n.copies.map (fun c =>
        if combines c.cmd r then { c with ready := true } else c) }).kickNimbus cl)
    else .next (s.enqueue (clusterSite cl) (.cpymVersionReached r))

/-! ### Moving a line (R229 to R231) -/

/-- A destination line written, with its number where it is global; or the cause of a fault. -/
inductive DstLine where
  | written (s : State) (line : Option Nat)
  | fault (cause : Nat)
  | absent (key : Nat)

def addPoison (ps : List Nat) : List Nat → List Nat
  | [] => ps
  | d :: ds => addPoison (if ps.contains d then ps else ps ++ [d]) ds

def State.destLine (s : State) (r : CopyCmd) (k : Nat) (bs : List Byte) (bad : Bool) : DstLine :=
  if cdDl r.desc then
    let (b, off) := bankLine (cdDst r.desc) r.dbanks k
    let s := s.bankCells (cellsAt (bankKey b off) bs)
    .written (if bad then
      { s with bpoison := addPoison s.bpoison ((List.range 8).map (fun j => b * 512 + off / 8 + j)) } else s) none
  else match s.translate r.part ((cdDst r.desc).toNat + 64 * k) .write with
    | .error c => .fault c
    | .ok (l, uid) =>
      if !keyExists l.key then .absent l.key
      else
        let s := (s.useKey uid).storeCells (cellsAt l.key bs) uid
        .written (if bad then { s with seals := sset (l.key / 64) Seal.never s.seals } else s) (some (l.key / 64))

/-- The line is released and counted, and the write pointer rises (R78, R223); the last line ends the
copy. `e` is the count of eight after it. -/
def State.lineMoved (s : State) (cl e : Nat) (c : Copy) (line : Option Nat) : State :=
  let n := s.nim cl
  let own := match line with
    | some l => c.own.filter (· != l)
    | none => c.own
  let c' := { c with next := c.next + 1, own := own }
  let s := s.setNim cl { n with copies := n.copies.map (fun x => if x.arrival = c.arrival then c' else x)
                                used := sset c.key (sget 0 c.key n.used + 1) n.used, eighth := e }
  if c'.next * 64 = cdLen c.cmd.desc then s.endCopy cl c' 1 0 else s.setCwp c' 0 (c'.next * 64)

/-- Bank poison that a drain meets, and a table entry that does not verify, count in the lifetime records of the site (R286,
R309, R312, log 37). -/
def State.badDrain (s : State) (cl cause : Nat) : State :=
  if cause = Cause.bankecc then s.lifeAdd (1 + clusterSite cl) 4 1
  else if cause = Cause.sealmac then s.lifeAdd (1 + clusterSite cl) 3 1
  else s

/-- The line is written to every member's destination; a fault ends that member. -/
def State.moveTo (s : State) (cl e : Nat) (bs : List Byte) (bad : Bool) : List Copy → Res
  | [] => .next s
  | c :: cs =>
    match s.destLine c.cmd c.next bs bad with
    | .written s line => (s.lineMoved cl e c line).moveTo cl e bs bad cs
    | .fault x => ((s.badDrain cl x).endCopy cl c 3 x).moveTo cl e bs bad cs
    | .absent key => .fault (.noSuchMemory key)

/-- Every member of a group ends with a fault. -/
def State.endAll (s : State) (cl st cause : Nat) : List Copy → State
  | [] => s
  | c :: cs => (s.endCopy cl c st cause).endAll cl st cause cs

/-- The earliest due time of a group, and its earliest arrival. -/
def groupDue (cs : List Copy) : Option Nat :=
  cs.foldl (fun d c => match d, c.due with
    | none, x => x
    | x, none => x
    | some a, some b => some (min a b)) none

/-- The eligible copy that a better one does not precede: by due time, then arrival. -/
def earliest (due : Copy → Nat) : List Copy → Option Copy
  | [] => none
  | c :: cs =>
    match earliest due cs with
    | none => some c
    | some x => if due x < due c || (due x = due c && x.arrival < c.arrival) then some x else some c

/-- The choice of R229: the copy, and the new count of eight. A copy that stops gets no line, nor does its group. -/
def State.chooseCopy (s : State) (cl : Nat) : Option (Copy × Nat) :=
  let n := s.nim cl
  let el := n.copies.filter (fun c => s.copyEligible cl c && (n.members c.group).all (fun m => (s.copyStop cl m).isNone))
  let due (c : Copy) : Option Nat := groupDue (n.members c.group)
  let timed := earliest (fun c => (due c).getD 0) (el.filter (fun c => (due c).isSome))
  let free := earliest (fun _ => 0) (el.filter (fun c => (due c).isNone))
  match timed, free with
  | none, none => none
  | some c, none => some (c, n.eighth)
  | none, some c => some (c, n.eighth)
  | some c, some f => if n.eighth = 7 then some (f, 0) else some (c, n.eighth + 1)

/-- The cycle in which the next line can move: two lines move in each cycle of Nimbus's counter. -/
def Nimbus.turn (n : Nimbus) : Nimbus :=
  if n.moved < 2 then n.renew else { n with moved := 0, cyc := n.cyc + 1 }.renew

/-- Nimbus chooses and moves a line (R229): stopped copies end first. -/
def State.copyLine (s : State) (cl : Nat) : Res :=
  let s := s.setNim cl (s.nim cl).turn
  let s := s.endStopped cl (s.nim cl).copies
  match s.chooseCopy cl with
  | none => .next (if (s.nim cl).copies.isEmpty then s else s.kickNimbus cl)
  | some (c, e) =>
    let s := s.setNim cl { s.nim cl with moved := (s.nim cl).moved + 1 }
    let ms := (s.nim cl).members c.group
    match s.sourceLine c.cmd c.next with
    | .absent key => .fault (.noSuchMemory key)
    | .fault x => .next (((s.badDrain cl x).endAll cl 3 x ms).kickNimbus cl)
    | .bytes bs bad uid =>
      let s := match uid with
        | some u => s.useKey u
        | none => s
      match (s.badLine cl bad).moveTo cl e bs bad ms with
      | .next s => .next (if (s.nim cl).copies.isEmpty then s else s.kickNimbus cl)
      | r => r

/-- Nimbus moves a line of the most urgent eligible copy (R229). -/
def execCopyLine (s : State) : Res := s.copyLine (clusterOf s.cur)

/-- Each 1,024-cycle window renews the budgets (R227, R229). -/
def execCopyBudgetWindow (s : State) : Res :=
  let cl := clusterOf s.cur
  let s := s.setNim cl (s.nim cl).renew
  let s := s.endStopped cl (s.nim cl).copies
  .next (if (s.nim cl).copies.isEmpty then s else s.kickNimbus cl)

end Sys2Proof.Machine
end

