-- ==== Sys2Proof/Machine/Aster.lean ====
section
/-! DEFINITION. The operator dispatcher: the task instructions of page 4, and what Aster does with a task (R38,
R234 to R253). -/

namespace Sys2Proof.Machine

/-! ### Task records, rings and status words (R237 to R239) -/

abbrev TaskRec := BitVec 1024

def trOp (r : TaskRec) : Nat := bitsOf r 9 0
def trTq (r : TaskRec) : Nat := bitsOf r 15 10
def trNop (r : TaskRec) : Nat := bitsOf r 18 16
def trOutm (r : TaskRec) : Nat := bitsOf r 23 20
def trNw (r : TaskRec) : Nat := bitsOf r 25 24
def trNb (r : TaskRec) : Nat := bitsOf r 27 26
def trArg (r : TaskRec) : Word := dword r 1
def trShp (r : TaskRec) (i : Nat) : Nat := (dword r (2 + i)).toNat
def trStg (r : TaskRec) : Nat := bitsOf (dword r 11) 3 0
def trSlot (r : TaskRec) : Nat := bitsOf (dword r 11) 12 4
def trNbank (r : TaskRec) : Nat := bitsOf (dword r 11) 22 16

/-- The wait cells below NW with their versions, and the bump cells below NB. -/
def trWaits (r : TaskRec) : List (Nat × Nat) :=
  [((dword r 6).toNat, bitsOf (dword r 7) 31 0), ((dword r 8).toNat, bitsOf (dword r 7) 63 32)].take (trNw r)
def trBumps (r : TaskRec) : List Nat := [(dword r 9).toNat, (dword r 10).toNat].take (trNb r)

/-- A status word (R239). -/
def mkStatus (seq hidx core st : Nat) : Nat := seq % 2 ^ 32 * 2 ^ 32 + hidx * 2 ^ 14 + core * 2 ^ 4 + st

def State.statusOf (s : State) (p entry : Nat) : Nat := (s.physRead p (entry + 128) 8).getD 0
def State.taskState (s : State) (p entry : Nat) : Nat := s.statusOf p entry % 16
def State.entryRec (s : State) (p entry : Nat) : TaskRec := BitVec.ofNat 1024 ((s.physRead p entry 128).getD 0)

/-- Bytes written at a virtual address, where it translates. -/
def State.put (s : State) (p va : Nat) (bs : List Byte) : State := (s.physWrite p va bs).getD s

def State.setStatus (s : State) (p entry st : Nat) : State := s.put p (entry + 128) (leBytes 8 st)

/-- Change STATE only. -/
def State.setTaskState (s : State) (p entry st : Nat) : State :=
  s.setStatus p entry (s.statusOf p entry / 16 * 16 + st)

/-- The address of a ring entry. -/
def TaskQueue.entry (q : TaskQueue) (i : Nat) : Nat := q.base + 256 * (i % q.cap)

/-- STATE 4, 6 or 7: the entry is free. -/
def freeTaskState (n : Nat) : Bool := n == 4 || n == 6 || n == 7

/-- The next n entries at the tail are free. -/
def State.tailFree (s : State) (p : Nat) (q : TaskQueue) (n : Nat) : Bool :=
  decide (n ≤ q.cap) && (List.range n).all (fun i => freeTaskState (s.taskState p (q.entry (q.tail + i))))

/-- An address is a ring entry of a queue of the partition (R252). -/
def State.isEntry (s : State) (p a : Nat) : Bool :=
  (s.part p).tqs.any (fun (_, q) => decide (q.base ≤ a ∧ a < q.base + 256 * q.cap) && (a - q.base) % 256 == 0)

def State.task (s : State) (r : TaskRef) : Option Task := s.tasks.find? (fun t => t.ref == r)
def State.setTask (s : State) (t : Task) : State :=
  { s with tasks := s.tasks.map (fun (x : Task) => if x.ref = t.ref then t else x) }

/-- A task enters: an older task of the same ring entry is forgotten. -/
def State.addTask (s : State) (t : Task) : State :=
  { s with tasks := s.tasks.filter (fun (x : Task) => x.ref != t.ref) ++ [t] }

def State.queueOf (s : State) (r : TaskRef) : Option TaskQueue := sget? r.tq (s.part r.part).tqs

/-- The cluster of the Aster where a task's queue is homed. -/
def State.clusterOfTask (s : State) (r : TaskRef) : Nat := ((s.queueOf r).map (·.cluster)).getD 64

/-! ### The instructions (R248 to R252) -/

/-- A tag or EW value is reserved (R235). -/
def tagBad (tag ew : Nat) : Bool :=
  tag / 2 ^ 12 != 0 || decide (2 ≤ tag / 2 ^ 10 % 4) || decide (4 ≤ tag / 2 ^ 7 % 8) || decide (3 ≤ tag / 2 ^ 4 % 8)
  || decide (2 ≤ ew)

/-- The record is ill-formed (R249). -/
def trecBad (r : TaskRec) : Bool :=
  bitsOf r 63 28 != 0 || bitOf r 19 || bitsOf (dword r 11) 63 23 != 0 || bitsOf (dword r 11) 15 13 != 0
  || dword r 13 != 0 || dword r 14 != 0 || dword r 15 != 0
  || trNop r == 0 || decide (4 < trNop r) || decide (2 < trNw r) || decide (2 < trNb r)
  || decide (64 < trNbank r) || decide (496 < trSlot r + trNbank r)
  || trOutm r / 2 ^ trNop r != 0 || trStg r / 2 ^ trNop r != 0
  || (List.range 4).any (fun i => if i < trNop r then trShp r i == 0 || trShp r i % 64 != 0 else trShp r i != 0)
  || (trWaits r).any (fun w => w.1 % 16 != 0) || (trBumps r).any (fun b => b % 16 != 0)

/-- The first wait or bump cell that does not translate, or lies in a page not flagged versioned. -/
def State.cellsBad (s : State) (la : Word) : List (Nat × Want) → Option Tr
  | [] => none
  | (a, w) :: cs =>
    match s.translate s.me.part a w with
    | .error c => some (c, BitVec.ofNat 64 a)
    | .ok (l, _) => if l.vw then s.cellsBad la cs else some (Cause.trec, la)

/-- A ring entry is written: the record, the status word, no conversions, a completion cell at version 0
and the destination record. -/
def State.writeEntry (s : State) (p entry : Nat) (tr : TaskRec) (status : Nat) (dest : List Byte) : State :=
  s.put p entry (leBytes 128 tr.toNat ++ leBytes 8 status ++ leBytes 56 0 ++ dest)

/-- A record with its TID. -/
def withTid (r : TaskRec) (e : Nat) : TaskRec := putBits r 831 768 e

/-- ClaimTail and WriteEntry (R249), and the way to the home Aster. -/
def State.submitTask (s : State) (tr : TaskRec) (q : TaskQueue) : State × Nat :=
  let k := s.me
  let e := q.entry q.tail
  let tr := withTid tr e
  let pt := s.part k.part
  let s := s.setPart k.part { pt with tqs := sset (trTq tr) { q with tail := q.tail + 1, seq := (q.seq + 1) % 2 ^ 32 } pt.tqs }
  let ref : TaskRef := { part := k.part, tq := trTq tr, entry := e }
  let t : Task :=
    { ref := ref, enc := k.enc, core := k.cid ||| BitVec.ofNat 64 (k.enc * 2 ^ 61), seq := q.seq, conv := false
      resolved := false, phase := .coming, banks := [], site := 0, hidx := 0, doneCells := []
      shapes := (List.range 4).map (trShp tr), regs := [], recs := [], sig := 0, copies := 0, failed := false }
  let s := (s.writeEntry k.part e tr (mkStatus q.seq 0 0 0) []).addTask t
  (s.enqueue (clusterSite q.cluster) (.asterTaskArrival ref), e)

/-- The key generations of the pages that n bytes from an address span. -/
def State.uidsOf (s : State) (p va n : Nat) : List Nat :=
  ((List.range ((va % 4096 + n + 4095) / 4096)).map (fun i => s.uidAt p (va + 4096 * i))).dedup

/-- The tail's status word as TASK reads it: it waits for a page under invalidation or a line that Nimbus owns (R78, R295), stalls
on a key that is not resident (R84, R290), and traps where its line does not verify (R286). Then `f`. -/
def State.readTail (s : State) (p : Pfx) (e : Nat) (f : State → Res) : Res :=
  let pt := s.me.part
  if !s.vaFree pt e 256 then s.waitCycle
  else match s.keyMissing (s.uidsOf pt e 256) with
  | some u => s.keyMiss (s.newAccess p (BitVec.ofNat 64 (e + 128)) [] u (.store [])) u
  | none =>
    let s := { s.unstall with keys := touchKeys s.keys (s.uidsOf pt e 256) }
    if s.lineFails pt (e + 128) then s.trapMe Cause.sealmac (BitVec.ofNat 64 (e + 128)) else f s

/-- `TASK` (R249). DESIGN CHOICE (log 101): that the doubleword at la + 96 can be written is checked with the checks of the
record's reading. -/
def execTask (p : Pfx) (d : Fin 16) (s : State) : Res :=
  let la := s.me.getG d
  if la.toNat % 64 ≠ 0 then s.trapMe Cause.align la
  else match s.localChecks .read la 16 with
    | .wait => s.waitCycle
    | .trap c f => s.trapMe c f
    | .ok =>
      match s.localCheck .write (la + 96) with
      | .wait => s.waitCycle
      | .trap c f => s.trapMe c f
      | .ok =>
        let tr := BitVec.ofNat 1024 (s.localNat la.toNat 128)
        if trecBad tr then s.trapMe Cause.trec la
        else match s.cellsBad la ((trWaits tr).map (fun w => (w.1, Want.read)) ++ (trBumps tr).map (fun b => (b, Want.write))) with
          | some t => s.trapMe t.1 t.2
          | none =>
            match sget? (trTq tr) (s.part s.me.part).tqs with
            | none => s.trapMe Cause.tqnone la
            | some q => s.readTail p (q.entry q.tail) (fun s =>
              if !s.tailFree s.me.part q 1 then s.trapMe Cause.tqfull la
              else if s.pendingAccess s.cur false then s.waitCycle
              else
                let (s, e) := s.submitTask tr q
                (s.localWrite (cellsAt (la.toNat + 96) (leBytes 8 e))).finish p)

/-- The destination record of a conversion entry (R250). -/
def State.isDestRecord (s : State) (a : Word) : Bool :=
  s.tasks.any (fun t => t.conv && t.ref.part == s.me.part && t.ref.entry + 192 == a.toNat)

/-- The page of a shape record is checked for writing; then `go` on its key and key generation. -/
def State.recordPage (s : State) (ra fa : Word) (go : Leaf → Nat → Res) : Res :=
  match s.globalCheck fa .write (!s.isDestRecord ra) with
  | .trap c f => s.trapMe c f
  | .absent key => .fault (.noSuchMemory key)
  | .ok l uid => go l uid

/-- `TTAG` (R250). -/
def execTtag (p : Pfx) (d a : Fin 16) (s : State) : Res :=
  let ra := s.me.getG d
  let v := s.me.getG a
  if ra.toNat % 64 ≠ 0 then s.trapMe Cause.align ra
  else if bitsOf v 63 18 ≠ 0 || tagBad (bitsOf v 15 0) (bitsOf v 17 16) then s.trapMe Cause.tagval 0
  else s.recordPage ra (ra + 56) (fun l uid =>
    s.globalStore p (ra + 56) [(uid, cellsAt l.key (leBytes 4 v.toNat))])

/-- The doublewords that SEL names, lowest first, at their offsets. -/
def patchParts (patch : Record) (sel : Nat) : List (Nat × Word) :=
  ((List.range 8).filter (fun k => sel / 2 ^ k % 2 == 1)).map (fun k =>
    (8 * k, if k = 7 then putBits (dword patch 7) 31 18 0 else dword patch k))

/-- `TSHAPE` (R251): the record's page is checked at the first doubleword stored. Each doubleword is a store of its own; in
staged mode they are one entry of the send buffer, also when SEL names none. -/
def execTshape (p : Pfx) (d a : Fin 16) (s : State) : Res :=
  let ra := s.me.getG d
  let pa := s.me.getG a
  if ra.toNat % 64 ≠ 0 then s.trapMe Cause.align ra
  else if pa.toNat % 64 ≠ 0 then s.trapMe Cause.align pa
  else match s.localChecks .read pa 8 with
    | .wait => s.waitCycle
    | .trap c f => s.trapMe c f
    | .ok =>
      let patch : Record := BitVec.ofNat 512 (s.localNat pa.toNat 64)
      let w := dword patch 7
      let sel := bitsOf w 31 24
      if bitOf w 31 && tagBad (bitsOf w 15 0) (bitsOf w 17 16) then s.trapMe Cause.tagval 0
      else
        let parts := patchParts patch sel
        let off := (parts.head?.map (·.1)).getD 0
        s.recordPage ra (ra + BitVec.ofNat 64 off) (fun l uid =>
          s.globalStore p ra (parts.map (fun x => (uid, cellsAt (l.key - off + x.1) (leBytes 8 x.2.toNat)))))

/-- `TQRY` (R252). -/
def execTqry (p : Pfx) (d a : Fin 16) (s : State) : Res :=
  let ga := s.me.getG a
  if !s.isEntry s.me.part ga.toNat then s.trapMe Cause.tqnone ga
  else
    let va := ga + 128
    match s.globalCheck va .read false with
    | .trap c f => s.trapMe c f
    | .absent key => .fault (.noSuchMemory key)
    | .ok l uid =>
      let keys := keysFrom l.key 8
      s.issueAccess p s.me (s.newAccess p va keys uid (.load (.reg d) 8 false (s.me.overlay keys)
        (s.me.vwOverlay keys))) [uid]

/-! ### The method table (R240, R241, R247) -/

/-- A doubleword of a table image. -/
def State.tblWord (s : State) (p tbl off : Nat) : Word := BitVec.ofNat 64 ((s.physRead p (tbl + off) 8).getD 0)

/-- What Aster does to read or write some spans of a partition's addresses in a step: it uses their pages' keys (R290), and
each line that does not verify counts in the lifetime records of its site (R286, R312, log 37). -/
def State.asterTouch (s : State) (p cl : Nat) (spans : List (Nat × Nat)) : State :=
  let s := s.useKeys (s.spanUids p spans)
  let n := s.failedLines p spans
  if n = 0 then s else s.lifeAdd (1 + clusterSite cl) 3 n

/-- The pages from an address on that a table's header and directory span, checked for reading. -/
def State.pagesBad (s : State) (p : Nat) (va : Nat) : Nat → Option Tr
  | 0 => none
  | n + 1 =>
    match s.translate p va .read with
    | .error c => some (c, BitVec.ofNat 64 va)
    | .ok _ => s.pagesBad p (va + 4096) n

/-- MTBAD (R247). -/
def State.tableBad (s : State) (p tbl : Nat) : Bool :=
  let h := s.tblWord p tbl 0
  let nops := bitsOf h 26 16
  let off := (s.tblWord p tbl 8).toNat
  bitsOf h 15 0 != 1 || decide (1024 < nops) || decide (65536 < bitsOf h 63 32) || bitsOf h 31 27 != 0
  || off % 16 != 0 || decide (off < 0x240 + 8 * nops)
  || (List.range 6).any (fun k => s.tblWord p tbl (16 + 8 * k) != 0)
  || (List.range nops).any (fun o =>
    decide (4 < bitsOf (s.tblWord p tbl (0x240 + 8 * o)) 36 34))

/-- Every Aster that homes a queue of the partition. -/
def State.asters (s : State) (p : Nat) : List Nat := ((s.part p).tqs.map (fun q => q.2.cluster)).dedup

/-- The Asters are told of a table. -/
def State.tellAsters (s : State) : List Nat → State
  | [] => s
  | cl :: cls => (s.enqueue (clusterSite cl) .methodTableInstall).tellAsters cls

/-- Memory as the executing strand sees it: with its held writes (R64, R82). -/
def State.ownView (s : State) : List SendEntry → State
  | [] => s
  | .store _ parts :: es => (s.storeParts parts).ownView es
  | .vw w :: es =>
    let (v, n) := applyHeld (ownHeld [w]) (s.cellValue w.cell, s.cellVersion w.cell)
    (s.setCell s.me.part w.cell w.va v n (s.cellHead w.cell)).ownView es
  | _ :: es => s.ownView es

/-- The first line of n bytes from an aligned address that does not verify. -/
def State.badLineAt (s : State) (p va n : Nat) : Option Nat :=
  ((List.range ((n + 63) / 64)).map (va + 64 * ·)).find? (fun a => s.macFails p a 1)

/-- `MTLOAD` with its header and directory of n bytes readable: it waits for what a load would wait for, then reads. -/
def State.mtloadRead (s : State) (p : Pfx) (a : Word) (n : Nat) : Res :=
  let pt := s.me.part
  let v := s.ownView s.me.sbuf
  if s.pendingAccess s.cur false || !s.vaFree pt a.toNat n then s.waitCycle
  else match s.keyMissing (s.uidsOf pt a.toNat n) with
  | some u => s.keyMiss (s.newAccess p a [] u (.store [])) u
  | none =>
    let s := { s.unstall with keys := touchKeys s.keys (s.uidsOf pt a.toNat n) }
    match v.badLineAt pt a.toNat n with
    | some x => s.trapMe Cause.sealmac (BitVec.ofNat 64 x)
    | none =>
      if v.tableBad pt a.toNat then s.trapMe Cause.mtbad a
      else if (s.asters pt).isEmpty then s.finish p
      else (s.tellAsters (s.asters pt)).waitFor (.mtload p a (s.asters pt))

/-- `MTLOAD` (R247): the table's size is read when the strand's own accesses have been performed (R64). -/
def execMtload (p : Pfx) (d : Fin 16) (s : State) : Res :=
  let a := s.me.getG d
  let pt := s.me.part
  if !s.privileged s.cur then s.trapMe Cause.priv 0
  else if a.toNat % 4096 ≠ 0 then s.trapMe Cause.mtbad a
  else match s.pagesBad pt a.toNat 1 with
    | some t => s.trapMe t.1 t.2
    | none =>
    if s.pendingAccess s.cur false || !s.vaFree pt a.toNat 16 then s.waitCycle
    else
      let nops := min 1024 (bitsOf ((s.ownView s.me.sbuf).tblWord pt a.toNat 0) 26 16)
      match s.pagesBad pt (a.toNat + 4096) ((0x240 + 8 * nops + 4095) / 4096 - 1) with
      | some t => s.trapMe t.1 t.2
      | none => s.mtloadRead p a (0x240 + 8 * nops)

/-- The table of an enclave at an Aster. -/
def mtabKey (cl enc : Nat) : Nat := cl * 8 + enc

/-- The first core that waits for this Aster to install a table. -/
def State.mtWaiter (s : State) (cl : Nat) : Option (Nat × Core) :=
  s.cores.find? (fun (_, k) => match k.run with
    | .waiting (.mtload _ _ left) => left.contains cl
    | _ => false)

/-- An Aster installs the table and acknowledges (R247). -/
def execMethodTableInstall (s : State) : Res :=
  let cl := clusterOf s.cur
  match s.mtWaiter cl with
  | none => .next s
  | some (c, k) =>
    match k.run with
    | .waiting (.mtload p tbl left) =>
      let pt := s.part k.part
      let s := s.setPart k.part { pt with mtab := sset (mtabKey cl k.enc) tbl.toNat pt.mtab }
      let left := left.filter (· != cl)
      .next (s.setCore c (if left.isEmpty then k.resume p else { k with run := .waiting (.mtload p tbl left) }))
    | _ => .next s

/-- What a lookup gives (R240). -/
inductive Lookup where
  | miss
  | method (hidx minb : Nat)
  | conv (ci via tgt tgew : Nat)
deriving DecidableEq, Repr

/-- Desc (R241) of a shape record. -/
def shapeTag (r : Record) : Nat := bitsOf r 463 448
def shapeEw (r : Record) : Nat := bitsOf r 465 464
def shapeDesc (r : Record) : Nat :=
  let t := shapeTag r
  shapeEw r % 2 * 2 ^ 9 + t / 2 ^ 10 % 2 * 2 ^ 8 + t / 2 ^ 7 % 4 * 2 ^ 6 + t / 2 ^ 4 % 4 * 2 ^ 4 + t % 16

/-- The code map's nibble (R240). -/
def State.codeMap (s : State) (p tbl x : Nat) : Nat :=
  (s.physRead p (tbl + 0x40 + x / 2) 1).getD 0 / 2 ^ (4 * (x % 2)) % 16

/-- The signature as far as it can be computed, and whether it is whole (R241). -/
def State.signature (s : State) (p tbl wb : Nat) : Nat → Nat → List Record → Bool × Nat
  | _, sig, [] => (true, sig)
  | i, sig, sh :: shs =>
    let c := s.codeMap p tbl (shapeDesc sh)
    if c = 15 || 2 ^ wb ≤ c then (false, sig) else s.signature p tbl wb (i + 1) (sig + c * 2 ^ (wb * i)) shs

/-- An entry as a lookup result. -/
def lookupOf (x y : Word) : Lookup :=
  if bitsOf x 1 0 = 1 then .method (bitsOf x 15 4) (bitsOf x 23 16)
  else if bitsOf x 1 0 = 2 then .conv (bitsOf x 33 32) (bitsOf x 43 34) (bitsOf y 15 0) (bitsOf y 17 16)
  else .miss

/-- Resolve (R241): the result and the signature. Without a table every resolution is a miss (R247). -/
def State.resolve (s : State) (p : Nat) (tbl : Option Nat) (op : Nat) (shs : List Record) : Lookup × Nat :=
  match tbl with
  | none => (.miss, 0)
  | some tbl =>
    let h := s.tblWord p tbl 0
    let dir := s.tblWord p tbl (0x240 + 8 * op)
    if bitsOf h 26 16 ≤ op || !bitOf dir 63 || bitsOf dir 33 32 + 1 ≠ shs.length then (.miss, 0)
    else
      let (whole, sig) := s.signature p tbl (bitsOf dir 36 34) 0 0 shs
      let i := bitsOf dir 31 0 + sig
      if !whole || bitsOf h 63 32 ≤ i then (.miss, sig)
      else
        let at_ := (s.tblWord p tbl 8).toNat + 16 * i
        (lookupOf (s.tblWord p tbl at_) (s.tblWord p tbl (at_ + 8)), sig)

/-- What a resolution reads of a table (R240, R241, R247): its header, the operator's directory entry, the codes of the
operands as far as the signature goes, and the entry. -/
def State.codeReads (s : State) (p tbl wb : Nat) : List Record → List (Nat × Nat)
  | [] => []
  | sh :: shs =>
    let c := s.codeMap p tbl (shapeDesc sh)
    (tbl + 0x40 + shapeDesc sh / 2, 1) :: (if c = 15 || 2 ^ wb ≤ c then [] else s.codeReads p tbl wb shs)

def State.resolveReads (s : State) (p : Nat) (tbl : Option Nat) (op : Nat) (shs : List Record) : List (Nat × Nat) :=
  match tbl with
  | none => []
  | some tbl =>
    let h := s.tblWord p tbl 0
    let dir := s.tblWord p tbl (0x240 + 8 * op)
    if bitsOf h 26 16 ≤ op then [(tbl, 16)]
    else if !bitOf dir 63 || bitsOf dir 33 32 + 1 ≠ shs.length then [(tbl, 16), (tbl + 0x240 + 8 * op, 8)]
    else
      let (whole, sig) := s.signature p tbl (bitsOf dir 36 34) 0 0 shs
      let i := bitsOf dir 31 0 + sig
      [(tbl, 16), (tbl + 0x240 + 8 * op, 8)] ++ s.codeReads p tbl (bitsOf dir 36 34) shs
      ++ (if !whole || bitsOf h 63 32 ≤ i then [] else [(tbl + (s.tblWord p tbl 8).toNat + 16 * i, 16)])

/-! ### Resolution with conversions (R244) -/

/-- Target (R244). -/
def targetShape (r : Record) (tgt tgew : Nat) : Record :=
  putBits (putBits (putBits r 463 448 tgt) 465 464 tgew) 63 0 (dword r 6).toNat

/-- A conversion to insert: the operand, the operator VIA, the target and the method's MINB. -/
structure ConvPlan where
  i : Nat
  via : Nat
  tgt : Nat
  tgew : Nat
  minb : Nat
deriving DecidableEq, Repr

/-- What resolution decides: a method, conversions to insert, or a hold. -/
inductive Decision where
  | dispatch (hidx minb sig : Nat)
  | insert (cs : List ConvPlan) (sig : Nat)
  | hold (cause op sig : Nat)

/-- The loop of ResolveChain (R244). -/
def State.resolveChain (s : State) (p : Nat) (tbl : Option Nat) (tr : TaskRec) :
    Nat → List Record → List ConvPlan → Decision
  | 0, _, _ => .hold Cause.convdepth (trOp tr) 0
  | n + 1, shs, cs =>
    let (e, sig) := s.resolve p tbl (trOp tr) shs
    match e with
    | .method h m => if cs.isEmpty then .dispatch h m sig else .insert cs sig
    | .miss => .hold Cause.nomethod (trOp tr) sig
    | .conv ci via tgt tgew =>
      let sh := shs.getD ci 0
      if trNop tr ≤ ci || cs.any (fun c => c.i == ci) || trOutm tr / 2 ^ ci % 2 == 1 || dword sh 6 == 0 then
        .hold Cause.convdepth (trOp tr) sig
      else
        let t := targetShape sh tgt tgew
        match s.resolve p tbl via [sh, t] with
        | (.method _ minb, _) =>
          s.resolveChain p tbl tr n (shs.set ci t) (cs ++ [{ i := ci, via := via, tgt := tgt, tgew := tgew, minb := minb }])
        | (_, sig') => .hold Cause.nomethod via sig'

/-- The resolution of a task (R244): a task resolved before, or a conversion entry, with Resolve alone. -/
def State.resolution (s : State) (t : Task) (tr : TaskRec) (shs : List Record) : Decision :=
  let p := t.ref.part
  let tbl := sget? (mtabKey (s.clusterOfTask t.ref) t.enc) (s.part p).mtab
  if t.resolved || t.conv then
    match s.resolve p tbl (trOp tr) shs with
    | (.method h m, sig) => .dispatch h m sig
    | (_, sig) => .hold Cause.convdepth (trOp tr) sig
  else s.resolveChain p tbl tr 5 shs []

/-- What the loop of ResolveChain reads, as resolveChain goes. -/
def State.chainReads (s : State) (p : Nat) (tbl : Option Nat) (tr : TaskRec) :
    Nat → List Record → List Nat → List (Nat × Nat)
  | 0, _, _ => []
  | n + 1, shs, cs =>
    s.resolveReads p tbl (trOp tr) shs ++ (match (s.resolve p tbl (trOp tr) shs).1 with
      | .conv ci via tgt tgew =>
        let sh := shs.getD ci 0
        if trNop tr ≤ ci || cs.contains ci || trOutm tr / 2 ^ ci % 2 == 1 || dword sh 6 == 0 then []
        else
          let t := targetShape sh tgt tgew
          s.resolveReads p tbl via [sh, t] ++ (match (s.resolve p tbl via [sh, t]).1 with
            | .method _ _ => s.chainReads p tbl tr n (shs.set ci t) (ci :: cs)
            | _ => [])
      | _ => [])

/-- What the resolution of a task reads of its table. -/
def State.tableReads (s : State) (t : Task) (tr : TaskRec) (shs : List Record) : List (Nat × Nat) :=
  let p := t.ref.part
  let tbl := sget? (mtabKey (s.clusterOfTask t.ref) t.enc) (s.part p).mtab
  if t.resolved || t.conv then s.resolveReads p tbl (trOp tr) shs else s.chainReads p tbl tr 5 shs []

/-! ### Holding a task (R246) -/

/-- The record of a held task. -/
def heldRecord (t : Task) (tr : TaskRec) (cause op sig : Nat) : Record :=
  trapRecord (op * 2 ^ 16 + sig % 2 ^ 16) 0 0 cause 0x7fe t.seq 0 (BitVec.ofNat 64 t.ref.entry) t.core (dword tr 0) 0 0

/-- The Aster of a cluster, as an agent that keeps records (R131). -/
def asterAgent (cl : Nat) : Nat := 4096 + cl

/-- Aster holds a task and writes its record, or keeps it behind those it keeps already (R131, R246). -/
def State.holdTask (s : State) (t : Task) (tr : TaskRec) (cause op sig : Nat) : State :=
  let p := t.ref.part
  let s := (s.setTaskState p t.ref.entry 5).setTask { t with phase := .held }
  s.reportRecord p (asterAgent (s.clusterOfTask t.ref)) (heldRecord t tr cause op sig)

/-! ### Placing and staging (R38, R242) -/

/-- The entries of a queue of an enclave on a core, those of its arrival ring included when the enclave is
switched out (R38). -/
def State.queueLoad (s : State) (c enc : Nat) (q : Fin 4) : Nat :=
  let k := s.core c
  let cx := k.cxOf enc
  cx.q[q].count + (if k.enc = enc then 0
    else (cx.ring.filter (fun e => e.queue == q)).length)

/-- The free banks of a core's own field, lowest first. -/
def State.freeBanks (s : State) (site n : Nat) : List Nat :=
  ((List.range 384).filterMap (fun i =>
    if (s.bank (site * 512 + i)).st = .free then some (site * 512 + i) else none)).take n

/-- The core can take the task (R242). -/
def State.canPlace (s : State) (p c : Nat) (t : Task) (tr : TaskRec) : Bool :=
  let k := s.core c
  k.live && k.part == p && decide (t.enc < k.encs)
  && (List.range (trNbank tr)).all (fun i => slotState (s.slotEntry c t.enc (trSlot tr + i)) == 0)
  && (s.freeBanks c (trNbank tr)).length == trNbank tr

/-- The core of the queue's mask with the fewest entries; the lowest logical number on a tie. -/
def State.choosePlace (s : State) (t : Task) (tr : TaskRec) (q : TaskQueue) : Option Nat :=
  let p := t.ref.part
  let mask := (s.mask p q.mask).getD 0
  let tgt := Fin.ofNat 4 q.target
  ((s.part p).members.zipIdx.foldl (fun best (c, n) =>
    if !bitOf mask n || !s.canPlace p c t tr then best
    else
      let load := s.queueLoad c t.enc tgt
      match best with
      | none => some (c, load)
      | some (_, l) => if load < l then some (c, load) else best) none).map (·.1)

/-- The footprint's banks attach and are pinned, with RD and WR. -/
def State.attachFootprint (s : State) (c enc slot : Nat) : List Nat → State
  | [] => s
  | b :: bs =>
    let k := s.core c
    let s := s.setSlotOf c enc slot (mkSlot 1 3 true k.lnum b)
    (s.setBank b { st := .attached c enc slot, owner := k.part }).attachFootprint c enc (slot + 1) bs

/-- The span of an operand in staged bytes. DESIGN CHOICE (log 97): a SPAN that is no multiple of 64 counts as whole lines. -/
def shapeSpan (r : Record) : Nat := (bitsOf r 511 480 + 63) / 64 * 64

/-- The operands that are staged, in ascending order. -/
def stagedShapes (tr : TaskRec) (shs : List Record) : List Record :=
  (shs.zipIdx.filter (fun x => trStg tr / 2 ^ x.2 % 2 == 1)).map (·.1)

/-- A staging copy's descriptor. -/
def stageDesc (src dst len : Nat) : Record :=
  ofDwords 512 [BitVec.ofNat 64 src, BitVec.ofNat 64 dst, BitVec.ofNat 64 (len + 2 ^ 35)]

/-- The staging copies start (R242); they use queues of Aster's own. -/
def State.stage (s : State) (t : Task) (c slot off : Nat) (banks : List Nat) : List Record → State
  | [] => s
  | sh :: shs =>
    let len := shapeSpan sh
    if len = 0 then s.stage t c slot off banks shs
    else
      let cmd : CopyCmd :=
        { core := c, enc := t.enc, part := t.ref.part, ch := 0, gen := 0, form := 0
          desc := stageDesc (dword sh 0).toNat (slot * 4096 + off) len, sbanks := []
          dbanks := banks.drop (off / 4096), stop := 0 }
      (s.acceptCopy (clusterOf c) cmd (some t.ref)).stage t c slot (off + len) banks shs

/-- The shape records of a task's operands. -/
def State.shapesOf (s : State) (t : Task) (tr : TaskRec) : List Record :=
  (t.shapes.take (trNop tr)).map (fun a => BitVec.ofNat 512 ((s.physRead t.ref.part a 64).getD 0))

/-- Steps 4 and 5 (R242): the task is placed and its footprint staged from the records as step 2 read them, or it waits for
a retirement with its method in its status word. -/
def State.place (s : State) (t : Task) (tr : TaskRec) (q : TaskQueue) : State :=
  let p := t.ref.part
  match s.choosePlace t tr q with
  | none =>
    let s := if t.phase = .placing then s
      else s.setStatus p t.ref.entry (mkStatus t.seq t.hidx 0 (s.taskState p t.ref.entry))
    s.setTask { t with phase := .unplaced }
  | some c =>
    let banks := s.freeBanks c (trNbank tr)
    let k := s.core c
    let s := s.attachFootprint c t.enc (trSlot tr) banks
    let s := s.setStatus p t.ref.entry (mkStatus t.seq t.hidx k.lnum 2)
    let shs := (stagedShapes tr t.recs).filter (fun r => shapeSpan r != 0)
    let s := s.setTask { t with phase := .staging, banks := banks, site := c, copies := shs.length, failed := false }
    if shs.isEmpty then s.enqueue (clusterSite q.cluster) (.asterStagingDone t.ref)
    else s.stage t c (trSlot tr) 0 banks shs

/-! ### Inserting conversions (R245) -/

/-- The record of a conversion entry. -/
def convRecord (orig : TaskRec) (c : ConvPlan) (t : Task) (entry : Nat) : TaskRec :=
  ofDwords 1024
    [ BitVec.ofNat 64 (c.via + trTq orig * 2 ^ 10 + 2 * 2 ^ 16 + 2 * 2 ^ 20 + trNw orig * 2 ^ 24),
      BitVec.ofNat 64 t.ref.entry, BitVec.ofNat 64 (t.shapes.getD c.i 0), BitVec.ofNat 64 (entry + 192), 0, 0,
      dword orig 6, dword orig 7, dword orig 8, 0, 0,
      BitVec.ofNat 64 (1 + trSlot orig * 2 ^ 4 + c.minb * 2 ^ 16), BitVec.ofNat 64 entry ]

/-- The versions that are not reached yet: the registrations that stay with the cells' homes (R74, R242 step 1). -/
def State.unreached (s : State) (p : Nat) (ws : List (Nat × Nat)) : List (Nat × Nat) :=
  ws.filterMap (fun w => match s.physOf p w.1 with
    | some cell => if w.2 ≤ s.cellVersion cell then none else some (cell, w.2)
    | none => none)

/-- Every wait cell still translates to a versioned page whose key serves (R242 step 1, R283). -/
def State.waitsOk (s : State) (p : Nat) (tr : TaskRec) : Bool :=
  (trWaits tr).all (fun w => (s.physOf p w.1).isSome && (match s.leaf p w.1 with
    | some l => l.vw
    | none => false))

/-- Aster looks at its tasks again. -/
def State.kickAster (s : State) (cl : Nat) : State :=
  let site := clusterSite cl
  if s.flight.any (fun e => e == (site, .asterDependenceMet)) then s else s.enqueue site .asterDependenceMet

/-- Step 1 (R242): Aster registers with the wait cells' homes. -/
def State.register (s : State) (t : Task) (q : TaskQueue) : State :=
  let p := t.ref.part
  let tr := s.entryRec p t.ref.entry
  if s.waitsOk p tr then
    (s.setTask { t with phase := .waiting, regs := s.unreached p (trWaits tr) }).kickAster q.cluster
  else s.holdTask t tr Cause.footbad (trOp tr) t.sig

/-- One conversion entry is built at the ring's tail. It waits as its original did (R245). -/
def State.insertConv (s : State) (t : Task) (orig : TaskRec) (c : ConvPlan) : State :=
  let p := t.ref.part
  match s.queueOf t.ref with
  | none => s
  | some q =>
    let e := q.entry q.tail
    let tr := convRecord orig c t e
    let sh : Record := t.recs.getD c.i 0
    let dest := putBits (targetShape sh c.tgt c.tgew) 383 320 (e + 176)
    let pt := s.part p
    let s := s.setPart p { pt with tqs := sset t.ref.tq { q with tail := q.tail + 1 } pt.tqs }
    let new : Task :=
      { ref := { t.ref with entry := e }, enc := t.enc, core := t.core, seq := t.seq, conv := true, resolved := true
        phase := .coming, banks := [], site := 0, hidx := 0, doneCells := []
        shapes := (List.range 4).map (trShp tr), regs := [], recs := [], sig := 0, copies := 0, failed := false }
    (((s.useKeys (s.spanUids p [(e, 256)])).writeEntry p e tr (mkStatus t.seq 0 0 0) (leBytes 64 dest.toNat)).addTask
      new).register new q

/-- Insert (R245), in ascending i; the addresses of the entries. -/
def State.insertConvs (s : State) (t : Task) (orig : TaskRec) : List ConvPlan → State × List (Nat × Nat)
  | [] => (s, [])
  | c :: cs =>
    let e := ((s.queueOf t.ref).map (fun q => q.entry q.tail)).getD 0
    let (s, es) := (s.insertConv t orig c).insertConvs t orig cs
    (s, (c.i, e) :: es)

/-- Sort the conversions by operand. -/
def planInsert (c : ConvPlan) : List ConvPlan → List ConvPlan
  | [] => [c]
  | x :: xs => if c.i < x.i then c :: x :: xs else x :: planInsert c xs

def State.insertAll (s : State) (t : Task) (tr : TaskRec) (cs : List ConvPlan) (sig : Nat) : State :=
  let p := t.ref.part
  match s.queueOf t.ref with
  | none => s
  | some q =>
    let s := s.asterTouch p q.cluster ((List.range cs.length).map (fun i => (q.entry (q.tail + i) + 128, 8)))
    if !s.tailFree p q cs.length then s.holdTask t tr Cause.tqfull (trOp tr) sig
    else
      let (s, es) := s.insertConvs t tr (cs.foldl (fun l c => planInsert c l) [])
      let s := s.put p (t.ref.entry + 136) (es.flatMap (fun e => leBytes 8 e.2))
      let s := s.setTaskState p t.ref.entry 1
      let shapes := es.foldl (fun l e => l.set e.1 (e.2 + 192)) t.shapes
      s.setTask { t with phase := .waiting, resolved := true, shapes := shapes, sig := sig
                         regs := s.unreached p (es.map (fun e => (e.2 + 176, 1))) }

/-! ### Steps 1 to 4 (R242) -/

/-- Every version that a task waits for has been reached. -/
def Task.depsMet (t : Task) : Bool := t.regs.isEmpty

/-- A task that this Aster can go on with. -/
def State.taskReady (s : State) (cl : Nat) (t : Task) : Bool :=
  s.clusterOfTask t.ref == cl &&
    (t.phase == .placing || (t.phase == .waiting && t.depsMet))

/-- Order of service: queue priority, then SEQ, a conversion before its original (R242). -/
def State.taskBefore (s : State) (a b : Task) : Bool :=
  let prio (x : Task) : Nat := match s.queueOf x.ref with
    | some q => q.prio
    | none => 0
  let pa := prio a
  let pb := prio b
  decide (pb < pa) || (pa == pb && (decide (a.seq < b.seq) || (a.seq == b.seq && a.conv && !b.conv)))

/-- The task that this Aster goes on with. DESIGN CHOICE (log 96): of two that neither comes before, the one that entered
first. -/
def State.nextTask (s : State) (cl : Nat) : Option Task :=
  (s.tasks.filter (s.taskReady cl)).foldl (fun best t =>
    match best with
    | none => some t
    | some b => if s.taskBefore t b then some t else best) none

/-- A shape record that holds a task: misaligned, or with a reserved tag or EW; or unreadable (R242). -/
def State.shapeBad (s : State) (p : Nat) (a : Nat) (r : Record) : Bool :=
  (match s.translate p a .read with
    | .ok (l, uid) => !s.macOk l.key uid
    | .error _ => true)
  || (dword r 0).toNat % 64 != 0 || (dword r 5).toNat % 16 != 0 || (dword r 6).toNat % 64 != 0
  || tagBad (shapeTag r) (shapeEw r)

/-- The DONE cells of the output operands. -/
def outputCells (tr : TaskRec) (shs : List Record) : List Nat :=
  (shs.zipIdx.filter (fun x => trOutm tr / 2 ^ x.2 % 2 == 1)).map (fun x => (dword x.1 5).toNat)

/-- What Aster reads for steps 2 and 3: the ring entry, the shape records, and what resolution takes of the table. -/
def State.taskReads (s : State) (t : Task) (tr : TaskRec) : List (Nat × Nat) :=
  (t.ref.entry, 136) :: (t.shapes.take (trNop tr)).map (fun a => (a, 64)) ++ s.tableReads t tr (s.shapesOf t tr)

/-- Steps 2 to 5 for a task whose versions are reached. -/
def State.handleTask (s : State) (t : Task) (q : TaskQueue) : State :=
  let p := t.ref.part
  let tr := s.entryRec p t.ref.entry
  let shs := s.shapesOf t tr
  let s := s.asterTouch p q.cluster (s.taskReads t tr)
  let t := { t with recs := shs }
  if ((t.shapes.take (trNop tr)).zip shs).any (fun x => s.shapeBad p x.1 x.2) then
    s.holdTask t tr Cause.footbad (trOp tr) t.sig
  else
    let t := { t with doneCells := outputCells tr shs }
    match s.resolution t tr shs with
    | .hold c op sig => s.holdTask { t with sig := sig } tr c op sig
    | .insert cs sig => s.insertAll t tr cs sig
    | .dispatch h m sig =>
      let t := { t with hidx := h, sig := sig, resolved := true }
      let staged := ((stagedShapes tr shs).map shapeSpan).foldl (· + ·) 0
      if trNbank tr < m || trNbank tr * 4096 < staged then
        (s.setStatus p t.ref.entry (mkStatus t.seq h 0 (s.taskState p t.ref.entry))).holdTask t tr Cause.footbad (trOp tr) sig
      else s.place t tr q

/-- A task reaches its Aster (R38, R242). -/
def execAsterTaskArrival (r : TaskRef) (s : State) : Res :=
  match s.task r, s.queueOf r with
  | some t, some q =>
    if t.phase = .coming then
      let waits := (trWaits (s.entryRec r.part r.entry)).map (fun w => (w.1, 16))
      .next ((s.asterTouch r.part q.cluster ((r.entry, 136) :: waits)).register t q)
    else .next s
  | _, _ => .next s

/-- A task's versions are reached: Aster reads, resolves and places it (R242). -/
def execAsterDependenceMet (s : State) : Res :=
  let cl := clusterOf s.cur
  match s.nextTask cl with
  | none => .next s
  | some t =>
    match s.queueOf t.ref with
    | none => .next s
    | some q =>
      let s := if t.phase = .placing then
          (s.asterTouch t.ref.part q.cluster [(t.ref.entry, 136)]).place t (s.entryRec t.ref.part t.ref.entry) q
        else s.handleTask t q
      .next (s.kickAster cl)

/-! ### Starting and retiring (R243) -/

/-- The method strand (R243). DESIGN CHOICE (log 99): ORIG, which names a sending core, is 0. -/
def methodRecord (t : Task) (tr : TaskRec) (q : TaskQueue) : Record :=
  let hdr := t.hidx % 2 ^ 12 * 2 ^ 52 + q.prio * 2 ^ 48 + q.target * 2 ^ 46 + 2 ^ 45 + t.seq % 2 ^ 24
  let shapes := (List.range 4).map (fun i => if i < trNop tr then BitVec.ofNat 64 (t.shapes.getD i 0) else 0)
  ofDwords 512 ([BitVec.ofNat 64 hdr] ++ shapes ++ [trArg tr, BitVec.ofNat 64 (trSlot tr * 4096),
    BitVec.ofNat 64 t.ref.entry])

/-- The staging copies are done: the strand is sent, or the task is held (R242 step 6). -/
def execAsterStagingDone (r : TaskRef) (s : State) : Res :=
  match s.task r, s.queueOf r with
  | some t, some q =>
    if t.phase ≠ .staging || t.copies ≠ 0 then .next s
    else
      let tr := s.entryRec r.part r.entry
      let s := s.asterTouch r.part q.cluster [(r.entry, 136)]
      if t.failed then .next (s.holdTask t tr Cause.footbad (trOp tr) t.sig)
      else
        let m : Msg := { record := methodRecord t tr q, part := r.part, enc := t.enc, site := t.site, queue := hQue (methodRecord t tr q)
                         src := 0x7fe, seq := t.seq, chan := asterAgent q.cluster, woken := false }
        let s := (s.setTask { t with phase := .running }).setTaskState r.part r.entry 3
        .next (s.enqueue t.site (s.arrivalOf m))
  | _, _ => .next s

/-- The footprint banks leave their slots as DET would (R243, R279). -/
def State.dropFootprint (s : State) (c enc slot : Nat) : List Nat → State
  | [] => s
  | b :: bs =>
    let e := s.slotEntry c enc slot
    let s := if slotState e = 1 && slotBank e = b then s.detach c enc slot else s
    s.dropFootprint c enc (slot + 1) bs

/-- One is added to the value and the version of a cell (R243). DESIGN CHOICE (log 98): a cell whose page no longer translates, or
whose line does not verify, is left out; one in a page that is not versioned or grants no write is bumped all the same. -/
def State.bump (s : State) (p : Nat) : List Nat → State
  | [] => s
  | a :: as =>
    let s := match if s.lineFails p a then none else s.physFor p a .write with
      | some cell => s.homeWrite p cell (BitVec.ofNat 64 a) (s.cellValue cell + 1) ((s.cellVersion cell + 1) % 2 ^ 32)
      | none => s
    s.bump p as

/-- Tasks that found no core are placed again (R242 step 4). -/
def State.replace (s : State) (cl : Nat) : State :=
  State.kickAster { s with tasks := s.tasks.map (fun (t : Task) =>
      if t.phase = .unplaced && s.clusterOfTask t.ref = cl then { t with phase := .placing } else t) } cl

/-- What Aster may read or write for a task: its entry, its shape records, its table, its cells, and the ring's next entries,
which take conversions. -/
def State.taskSpans (s : State) (t : Task) : List (Nat × Nat) :=
  let p := t.ref.part
  let tr := s.entryRec p t.ref.entry
  [(t.ref.entry, 256)] ++ (t.shapes.filter (· != 0)).map (fun a => (a, 64))
  ++ ((trWaits tr).map (·.1) ++ trBumps tr ++ t.doneCells).map (fun a => (a, 16))
  ++ (match s.queueOf t.ref with
    | some q => (List.range 4).map (fun i => (q.entry (q.tail + i), 256))
    | none => [])
  ++ (match sget? (mtabKey (s.clusterOfTask t.ref) t.enc) (s.part p).mtab with
    | some tbl => [(tbl, 0x2240), (tbl + (s.tblWord p tbl 8).toNat, 16 * bitsOf (s.tblWord p tbl 0) 63 32)]
    | none => [])

/-- These are free (R78, R295), and their keys are resident or can be reloaded (R290). -/
def State.taskFree (s : State) (t : Task) : Bool :=
  let p := t.ref.part
  let spans := s.taskSpans t
  spans.all (fun x => s.vaFree p x.1 x.2)
  && (s.keys.all (fun k => k.2.resident) || s.keysLoad (s.spanUids p spans))

/-- A method strand has ended: its task retires (R35, R243), also one that trapped and was released again. -/
def execAsterRetirement (r : TaskRef) (s : State) : Res :=
  match s.task r, s.queueOf r with
  | some t, some q =>
    if t.phase ≠ .running && t.phase ≠ .trapped then .next s
    else
      let tr := s.entryRec r.part r.entry
      let s := s.asterTouch r.part q.cluster ((r.entry, 136) :: (trBumps tr ++ t.doneCells).map (fun a => (a, 16)))
      let s := s.dropFootprint t.site t.enc (trSlot tr) t.banks
      let s := s.bump r.part (trBumps tr ++ t.doneCells)
      let s := (s.setTask { t with phase := .finished, banks := [] }).setTaskState r.part r.entry 4
      .next (s.replace q.cluster)
  | _, _ => .next s

end Sys2Proof.Machine
end

