-- ==== Sys2Proof/Machine/Control.lean ====
section
/-! DEFINITION. Page 0, majors 0 and 14: branches, jumps, loops, the miscellaneous group and the control
registers (R50, R51, R92, R107 to R110). -/

namespace Sys2Proof.Machine

/-- A branch or jump has issued: its delay slot comes next, and then the target when it is taken. -/
def Core.branch (k : Core) (p : Pfx) (target : Option Word) : Core :=
  { k with slot := some (k.pc, target), pc := k.pc + pfxBytes p }.tick (1 + p.stall)

/-- start + 2 × displacement (R50). -/
def Core.target (k : Core) (e : Int) : Word := k.pc + wordOfInt (2 * e)

/-- The link: the address after the delay slot (R108). -/
def Core.linkAddr (k : Core) (p : Pfx) : Word := k.pc + pfxBytes p + 2

/-- A branch of major 14 (R107). -/
def State.condBranch (s : State) (p : Pfx) (a : Fin 16) (e : Int) (f : Word → Bool) : Res :=
  match s.me.cond p a with
  | .trap c => s.trapMe c 0
  | .wait => s.waitCycle
  | .val v k => .next (s.setMe (k.branch p (if f v then some (k.target e) else none)))

/-- `BZ` (R107). -/
def execBz (p : Pfx) (a : Fin 16) (e : Int) (s : State) : Res :=
  s.condBranch p a e (fun v => v == 0)
/-- `BNZ` (R107). -/
def execBnz (p : Pfx) (a : Fin 16) (e : Int) (s : State) : Res :=
  s.condBranch p a e (fun v => v != 0)
/-- `BLTZ` (R107). -/
def execBltz (p : Pfx) (a : Fin 16) (e : Int) (s : State) : Res :=
  s.condBranch p a e (fun v => decide (v.toInt < 0))
/-- `BGEZ` (R107). -/
def execBgez (p : Pfx) (a : Fin 16) (e : Int) (s : State) : Res :=
  s.condBranch p a e (fun v => decide (0 ≤ v.toInt))

/-- `J` (R108). -/
def execJ (p : Pfx) (e : Int) (s : State) : Res :=
  .next (s.setMe (s.me.branch p (some (s.me.target e))))
/-- `JL` (R108). -/
def execJl (p : Pfx) (e : Int) (s : State) : Res :=
  .next (s.setMe ((s.me.branch p (some (s.me.target e))).setG 15 (s.me.linkAddr p)))
/-- `LOOP` (R108). -/
def execLoop (p : Pfx) (a : Fin 16) (e : Int) (s : State) : Res :=
  let k := s.me
  let v := k.getG a - 1
  .next (s.setMe ((k.branch p (if v != 0 then some (k.target e) else none)).setG a v))
/-- `LEA` (R108). -/
def execLea (p : Pfx) (d : Fin 16) (e : Int) (s : State) : Res :=
  (s.setMe (s.me.setG d (s.me.target e))).finish p
/-- `JR` (R50, R108). -/
def execJr (p : Pfx) (a : Fin 16) (s : State) : Res :=
  let t := s.me.getG a
  if bitOf t 0 then .next (s.trap s.cur { cause := Cause.illegal, detail := 12 })
  else .next (s.setMe (s.me.branch p (some t)))
/-- `JLR` (R50, R108): the target is read before the link is written. -/
def execJlr (p : Pfx) (d a : Fin 16) (s : State) : Res :=
  let t := s.me.getG a
  if bitOf t 0 then .next (s.trap s.cur { cause := Cause.illegal, detail := 12 })
  else .next (s.setMe ((s.me.branch p (some t)).setG d (s.me.linkAddr p)))

/-- `NOP` (R109). -/
def execNop (p : Pfx) (s : State) : Res := s.finish p
/-- `STALL` (R94, R109). -/
def execStall (p : Pfx) (n : Nat) (s : State) : Res := .next (s.setMe ((s.me.advance p).tick n))
/-- `CYC` (R40, R109): the counter at issue. -/
def execCyc (p : Pfx) (d : Fin 16) (s : State) : Res :=
  (s.setMe (s.me.setG d (BitVec.ofNat 64 s.me.cyc))).finish p
/-- `TRAP` (R109). -/
def execTrap (_p : Pfx) (n : Nat) (s : State) : Res :=
  .next (s.trap s.cur { cause := Cause.soft, code := n })
/-- `BRK` (R109, R110): the core halts when debug halt is enabled for its enclave, else it traps. Its general
registers first take the loads under way, so that a debugger reads and writes them in program order (R88). -/
def execBrk (p : Pfx) (n : Nat) (s : State) : Res :=
  let k := s.me
  if (s.part k.part).dbg.contains k.enc then
    if (List.range 16).any (fun d => s.gPending s.cur (Fin.ofNat 16 d)) then s.waitCycle else
    .next ((s.setMe { k with pc := k.nextPc p, slot := none, run := .halted (1 + p.stall) }).event .brk s.cur k.part n)
  else .next (s.trap s.cur { cause := Cause.brk, code := n })

/-! ### Control registers -/

/-- The engines the read or write of VTYPE or BS waits for (R187, R206, R259). -/
def State.enginesBusy (s : State) (cr : Nat) : Bool :=
  (cr == 12 && s.page1Pending s.cur) || ((cr == 12 || cr == 13) && s.me.bal.isSome)

/-- LAT.REV (R93): the revision of the latency contract that the fuses give. Every stepping meets revision 1, so it is at least
1 (R95). -/
def latRev : Nat := max 1 Config.fuseRev.toNat

/-- A control register as RDC reads it (Table 5.2). -/
def Core.cr (k : Core) (n : Nat) : Word :=
  let c := k.cx
  if n = 0 then c.wp
  else if n = 1 then BitVec.ofNat 64 (c.hbDef + k.left * 2 ^ 32)
  else if n = 2 then c.sbm
  else if n = 3 then BitVec.ofNat 64 c.sbcnt
  else if n = 4 then k.cid
  else if n = 5 then k.nbr
  else if n = 6 then BitVec.ofNat 64 (latRev + Config.fuseStep.toNat * 256)
  else if n = 7 then BitVec.ofNat 64 c.kmc
  else if n = 8 then c.cwp[0]
  else if n = 9 then c.cwp[1]
  else if n = 10 then c.cwp[2]
  else if n = 11 then c.cwp[3]
  else if n = 12 then c.vtype
  else if n = 13 then c.bs
  else if n = 14 then c.smc
  else if n < 16 then 0
  else c.fmt[Fin.ofNat 16 (n - 16)]

/-- Reading SBCNT or KMC clears it (RC, Table 1.7). -/
def Ctx.afterRead (c : Ctx) (n : Nat) : Ctx :=
  if n = 3 then { c with sbcnt := 0 } else if n = 7 then { c with kmc := 0 } else c

/-- RDC of any register (R91, R109). -/
def State.rdc (s : State) (p : Pfx) (d : Fin 16) (cr : Nat) : Res :=
  if s.enginesBusy cr then s.waitCycle
  else
    let k := s.me
    (s.setMe ((k.setCx (k.cx.afterRead cr)).setG d (k.cr cr))).finish p

/-- The checks of R165 on a format entry with VAL = 1. -/
def fmtBad (i : Nat) (v : Word) : Bool :=
  let sign := bitsOf v 1 1
  let exp := bitsOf v 5 2
  let man := bitsOf v 9 6
  let spec := bitsOf v 19 18
  let sc := bitsOf v 21 20
  let w := sign + exp + man
  decide (w < 2) || decide (8 < w) || exp == 1 || decide (8 < exp) || decide (8 < man)
  || (exp == 0 && spec != 1) || ((spec == 0 || spec == 2) && man == 0) || spec == 3 || sc == 3
  || (sc == 0 && (bitsOf v 25 22 != 0 || bitOf v 26 || bitOf v 27))
  || (sc == 2 && bitsOf v 25 22 == i)

/-- What a write of a control register gives: a cause, or the new state of the core. -/
inductive CrWrite where
  | trap (cause : Nat)
  | fault (cause : Nat) (faddr : Word)
  | ok (k : Core)
  | all (s : State)

/-- The bank byte where a workspace begins: the bank behind its slot (R139), when one is attached. -/
def Ctx.wsKey (c : Ctx) (wp : Nat) : Option Nat :=
  let e := c.slot (wp / 4096)
  if slotState e = 1 then some (bankKey (slotBank e) (wp % 4096)) else none

/-- The registers' bytes. -/
def gBytes (g : Vector Word 16) : List Byte := g.toList.flatMap (fun x => leBytes 8 x.toNat)

/-- The register cache writes the workspace back to its bank (R86). DESIGN CHOICE (log 87): where the bank behind the running
strand's own workspace has been revoked, its registers go on and nothing is written back. -/
def State.saveWs (s : State) : State :=
  match s.cx.wsKey s.cx.wp.toNat with
  | some key => s.bankCells (cellsAt key (gBytes s.me.g))
  | none => s

/-- The registers of the workspace at a bank byte. -/
def State.loadWs (s : State) (key : Nat) : Vector Word 16 :=
  Vector.ofFn (fun i => BitVec.ofNat 64 (memNat s.bmem (key + 8 * i.val) 8))

/-- The first poisoned doubleword of a workspace. -/
def State.wsPoison (s : State) (key : Nat) : Option Nat :=
  (List.range 16).find? (fun i => s.bpoison.contains (key / 8 + i))

/-- WP: the old workspace is written back to its bank and the new one is read from its own (R86, R87). A workspace whose
slot holds no bank faults like every access to such a slot (R150, log 9). DESIGN CHOICE (log 85): a poisoned doubleword of the
new workspace faults here, whichever register it is, and WP keeps its value. -/
def State.wrcWp (s : State) (v : Word) : CrWrite :=
  let wp := v &&& 0x1fff80
  if bitsOf v 20 12 < 496 then .trap Cause.crval
  else match s.cx.wsKey wp.toNat with
  | none => .fault Cause.detached wp
  | some key =>
    let s := s.saveWs
    match s.wsPoison key with
    | some i => .fault Cause.bankecc (wp + BitVec.ofNat 64 (8 * i))
    | none => .all (s.setMe { (s.me.setCx { s.cx with wp := wp }) with g := s.loadWs key })

/-- HB (R92, R93). -/
def Core.wrcHb (k : Core) (priv : Bool) (v : Word) : CrWrite :=
  let n := bitsOf v 31 0
  if !priv && n != k.cx.hbDef then .trap Cause.priv
  else if n = 0 then .trap Cause.crval
  else .ok (k.setCx { k.cx with hbDef := n })

/-- SBM (R93). -/
def Core.wrcSbm (k : Core) (v : Word) : CrWrite :=
  if bitsOf v 1 0 = 3 then .trap Cause.crval else .ok (k.setCx { k.cx with sbm := v &&& 3 })

/-- SMC (R92, R118, R132): DROPS keeps its value. -/
def Core.wrcSmc (k : Core) (priv : Bool) (v : Word) : CrWrite :=
  if !priv && bitsOf v 3 2 != bitsOf k.cx.smc 3 2 then .trap Cause.priv
  else if 32 < bitsOf v 21 16 then .trap Cause.crval
  else .ok (k.setCx { k.cx with smc := (k.cx.smc &&& 0xffff00000000) ||| (v &&& 0x3f000d) })

/-- VTYPE (R187). -/
def Core.wrcVtype (k : Core) (v : Word) : CrWrite :=
  .ok (k.setCx { k.cx with vtype := vtypeWrite k.cx.vtype v })

/-- BS (R258, R259): ST, EMPTY and SWEEPS keep their values. -/
def Core.wrcBs (k : Core) (v : Word) : CrWrite :=
  if bitOf v 63 || (d32 (bitsOf v 63 32)).isNan || bitsOf v 31 20 == 0 then .trap Cause.crval
  else .ok (k.setCx { k.cx with bs := (k.cx.bs &&& 0x38fff) ||| (v &&& 0xfffffffffff00000) })

/-- A format entry as its register holds it: reserved bits read zero (R18, R164). -/
def fmtWord (v : Word) : Word := if bitOf v 31 then v &&& 0x8ffffffe else 0

/-- FMT0 to FMT15 (R164, R165). -/
def Core.wrcFmt (k : Core) (i : Fin 16) (v : Word) : CrWrite :=
  if bitOf v 31 && fmtBad i.val v then .trap Cause.crval
  else .ok (k.setCx { k.cx with fmt := k.cx.fmt.set i (fmtWord v) })

/-- WRC to any register, with the checks of R92 in their order. -/
def State.crWrite (s : State) (cr : Nat) (v : Word) : CrWrite :=
  let k := s.me
  let priv := s.privileged s.cur
  if cr = 0 then if priv then s.wrcWp v else .trap Cause.priv
  else if cr = 1 then k.wrcHb priv v
  else if cr = 2 then k.wrcSbm v
  else if cr < 12 then .trap Cause.crprot
  else if cr = 12 then k.wrcVtype v
  else if cr = 13 then k.wrcBs v
  else if cr = 14 then k.wrcSmc priv v
  else if cr < 16 then .trap Cause.crprot
  else if priv then k.wrcFmt (Fin.ofNat 16 (cr - 16)) v else .trap Cause.priv

def State.wrc (s : State) (p : Pfx) (a : Fin 16) (cr : Nat) : Res :=
  if s.enginesBusy cr then s.waitCycle
  else match s.crWrite cr (s.me.getG a) with
    | .trap c => s.trapMe c 0
    | .fault c a => s.trapMe c a
    | .ok k => (s.setMe k).finish p
    | .all s => s.finish p

/-- `RDC` (R91, R109). -/
def execRdc (p : Pfx) (d : Fin 16) (cr : Nat) (s : State) : Res := s.rdc p d cr
/-- `WRC` (R92, R109). -/
def execWrc (p : Pfx) (a : Fin 16) (cr : Nat) (s : State) : Res := s.wrc p a cr
/-- WRC WP (R86, R87). -/
def execWrcWp (p : Pfx) (a : Fin 16) (s : State) : Res := s.wrc p a 0
/-- WRC VTYPE (R187). -/
def execWrcVtype (p : Pfx) (a : Fin 16) (s : State) : Res := s.wrc p a 12
/-- WRC BS (R259). -/
def execWrcBs (p : Pfx) (a : Fin 16) (s : State) : Res := s.wrc p a 13
/-- WRC SMC (R132). -/
def execWrcSmc (p : Pfx) (a : Fin 16) (s : State) : Res := s.wrc p a 14
/-- WRC FMTi (R164, R165). -/
def execWrcFmt (p : Pfx) (a i : Fin 16) (s : State) : Res := s.wrc p a (16 + i.val)
/-- RDC SBCNT reads and clears the count (R98). -/
def execRdcSbcnt (p : Pfx) (d : Fin 16) (s : State) : Res := s.rdc p d 3
/-- RDC KMC reads and clears the count (R39). -/
def execRdcKmc (p : Pfx) (d : Fin 16) (s : State) : Res := s.rdc p d 7

end Sys2Proof.Machine
end

