-- ==== Sys2Proof/WellFormed.lean ====
section
/-! DEFINITION. Which sequences the spec's encoding can hold: the prefixes an instruction needs, its
modifiers, its queue select, its register and immediate ranges (R42 to R49, R69, and the encoding
rules of each page). Steps and events have no encoding and are always well formed. -/

namespace Sys2Proof

/-- The rows of Table 4.2. -/
inductive ModKind where
  | none | load | store | atomic | fence | vw | peek
deriving DecidableEq, Repr

/-- Whether a row of Table 4.2 accepts an order and a scope (R69). -/
def modsOk (k : ModKind) (o : Order) (sc : Scope) : Bool :=
  match k with
  | .none => o == .none && sc == .dflt
  | .load | .peek => (o == .none && sc == .dflt) || o == .acq
  | .store => (o == .none && sc == .dflt) || o == .rel
  | .atomic => o != .none || sc == .dflt
  | .fence => true
  | .vw => o == .none

/-- The pages and majors that accept each queue select (Table 3.2). -/
inductive QsKind where
  | none | src | srcOrDst | dst | cond
deriving DecidableEq, Repr

def qsOk (k : QsKind) (q : Qs) : Bool :=
  match q with
  | .none => true
  | .srcDq => k == .src || k == .srcOrDst
  | .dstQ => k == .dst || k == .srcOrDst
  | .bqCond => k == .cond

/-- An immediate field: its width in the base word, its sign, its value, and whether the value meets
the operand's own limit. -/
structure ImmUse where
  w : Nat
  sgn : Bool
  v : Int
  lim : Bool := true
deriving DecidableEq, Repr

/-- Whether a value fits a field extended by m bytes (R45). -/
def ImmUse.fits (u : ImmUse) (m : Nat) : Bool :=
  let n := u.w + 8 * m
  u.lim && (if n = 0 then u.v == 0
    else if u.sgn then decide (-(2 ^ (n - 1)) ≤ u.v ∧ u.v < 2 ^ (n - 1))
    else decide (0 ≤ u.v ∧ u.v < 2 ^ n))

/-- What the encoding of a sequence must carry. `regs` are the operands that an H bit can extend,
`zero` says that a field a queue select replaces holds 0. -/
structure Use where
  pfx : Pfx
  page : Nat
  regs : List (Fin 16) := []
  imm : Option ImmUse := none
  mods : ModKind := .none
  qs : QsKind := .none
  zero : Bool := true

/-- The sequence can be encoded (R42 to R49). -/
def Use.wf (u : Use) : Bool :=
  let p := u.pfx
  decide (p.stall < 64)
  && (p.pxp || (u.page == 0 && p.order == .none && p.scope == .dflt))
  && (p.pxr || (decide (p.stall < 4) && p.qs == .none && u.regs.all (fun r => decide (r.val < 8))))
  && decide (p.pxp.toNat + p.pxr.toNat + p.npxi ≤ 4)
  && modsOk u.mods p.order p.scope && qsOk u.qs p.qs && u.zero
  && (match u.imm with
      | some i => i.fits p.npxi
      | none => p.npxi == 0)

/-- The numbers of Table 5.2. -/
def crValid (n : Nat) : Bool := decide (n < 32) && n != 15

def even16 (d : Fin 16) : Bool := d.val % 2 == 0

/-- The operands of each sequence as its encoding holds them; none for steps and events. -/
def Instr.use : Instr → Option Use
  | .nop p => some ⟨p, 0, [], none, .none, .none, true⟩
  | .stall p n | .trap p n | .brk p n =>
    some { pfx := p, page := 0, imm := some { w := 3, sgn := false, v := n } }
  | .cyc p d => some { pfx := p, page := 0, regs := [d] }
  | .j p e | .jl p e => some { pfx := p, page := 0, imm := some { w := 7, sgn := true, v := e } }
  | .loop p a e | .lea p a e =>
    some { pfx := p, page := 0, regs := [a], imm := some { w := 4, sgn := true, v := e } }
  | .jr p a => some { pfx := p, page := 0, regs := [a] }
  | .jlr p d a => some { pfx := p, page := 0, regs := [d, a] }
  | .rdc p d cr | .wrc p d cr =>
    some { pfx := p, page := 0, regs := [d],
           imm := some { w := 4, sgn := false, v := cr, lim := crValid cr } }
  | .add p d a b | .sub p d a b | .and p d a b | .or p d a b | .xor p d a b | .mul p d a b
  | .sll p d a b | .srl p d a b =>
    some { pfx := p, page := 0, regs := [d, a, b], qs := .src, zero := p.qs != .srcDq || b == 0 }
  | .slt p d a b | .sltu p d a b =>
    some { pfx := p, page := 0, regs := [d, a, b], qs := .srcOrDst,
           zero := (p.qs != .srcDq || b == 0) && (p.qs != .dstQ || d == 0) }
  | .sra p d a | .ror p d a | .mulh p d a | .mulhu p d a | .div p d a | .divu p d a | .rem p d a
  | .remu p d a | .min p d a | .max p d a | .minu p d a | .maxu p d a | .andn p d a | .mov p d a
  | .neg p d a | .not p d a | .clz p d a | .ctz p d a | .popc p d a | .brev p d a | .bswap p d a
  | .sextb p d a | .sexth p d a | .sextw p d a | .zextb p d a | .zexth p d a | .zextw p d a =>
    some { pfx := p, page := 0, regs := [d, a], qs := .src, zero := p.qs != .srcDq || a == 0 }
  | .seq p d a | .sne p d a =>
    some { pfx := p, page := 0, regs := [d, a], qs := .srcOrDst, zero := p.qs != .srcDq || a == 0 }
  | .addi p d a e =>
    some { pfx := p, page := 0, regs := [d, a], imm := some { w := 4, sgn := true, v := e },
           qs := .src, zero := p.qs != .srcDq || a == 0 }
  | .andi p d e | .ori p d e | .xori p d e =>
    some { pfx := p, page := 0, regs := [d], imm := some { w := 4, sgn := true, v := e }, qs := .src }
  | .slli p d n | .srli p d n | .srai p d n =>
    some { pfx := p, page := 0, regs := [d], qs := .src,
           imm := some { w := 4, sgn := false, v := n, lim := decide (n < 64) } }
  | .slti p d e | .seqi p d e =>
    some { pfx := p, page := 0, regs := [d], imm := some { w := 4, sgn := true, v := e },
           qs := .srcOrDst }
  | .li p d e => some { pfx := p, page := 0, regs := [d], imm := some { w := 7, sgn := true, v := e } }
  | .ldb p d a loc off | .ldbu p d a loc off | .ldh p d a loc off | .ldhu p d a loc off
  | .ldw p d a loc off | .ldwu p d a loc off | .ld p d a loc off =>
    some { pfx := p, page := 0, regs := [d, a], imm := some { w := 0, sgn := true, v := off },
           mods := if loc then .none else .load, qs := .dst, zero := p.qs != .dstQ || d == 0 }
  | .stb p d a loc off | .sth p d a loc off | .stw p d a loc off | .st p d a loc off =>
    some { pfx := p, page := 0, regs := [d, a], imm := some { w := 0, sgn := true, v := off },
           mods := if loc then .none else .store }
  | .swp p d a | .aadd p d a | .aand p d a | .aor p d a | .axor p d a | .amin p d a | .amax p d a
  | .aminu p d a | .amaxu p d a =>
    some { pfx := p, page := 0, regs := [d, a], mods := .atomic }
  | .cas p d a => some { pfx := p, page := 0, regs := [d, a], mods := .atomic, zero := even16 d }
  | .fence p => some { pfx := p, page := 0, mods := .fence }
  | .bz p a e | .bnz p a e | .bltz p a e | .bgez p a e =>
    some { pfx := p, page := 0, regs := [a], imm := some { w := 5, sgn := true, v := e },
           qs := .cond, zero := p.qs != .bqCond || a == 0 }
  | .vadd p d a b | .vsub p d a b | .vmul p d a b | .vfma p d a b | .vmin p d a b | .vmax p d a b
  | .vand p d a b | .vor p d a b | .vxor p d a b | .vsel p d a b | .vcvtr p d a b | .vqnt p d a b
  | .vdq p d a b | .vgth p d a b | .vsct p d a b =>
    some { pfx := p, page := 1, regs := [d, a, b] }
  | .vcmpeq p _ a b | .vcmplt p _ a b | .vcmple p _ a b | .vcmpne p _ a b =>
    some { pfx := p, page := 1, regs := [a, b] }
  | .vsll p d a | .vsrl p d a | .vsra p d a | .vandn p d a | .vadds p d a | .vsubs p d a
  | .vperm p d a | .vsat p d a | .vscan p d a | .vrsum p d a | .vrmax p d a | .vrmin p d a
  | .vlse p d a | .vbcast p d a | .vrot p d a | .vabs p d a | .vneg p d a | .vnot p d a
  | .vmov p d a | .vexp2 p d a | .vlog2 p d a | .vrcp p d a | .vrsq p d a | .vsplat p d a
  | .vget p d a | .vcvt p d a =>
    some { pfx := p, page := 1, regs := [d, a] }
  | .vld p d a _ off | .vst p d a _ off =>
    some { pfx := p, page := 1, regs := [d, a], imm := some { w := 0, sgn := true, v := off } }
  | .kand p _ _ _ | .kor p _ _ _ => some { pfx := p, page := 1 }
  | .kxor p _ _ | .knot p _ _ | .kmov p _ _ => some { pfx := p, page := 1 }
  | .kpop p d _ | .kfirst p d _ => some { pfx := p, page := 1, regs := [d] }
  | .kset p _ | .kclr p _ => some { pfx := p, page := 1 }
  | .tcfg p _ a => some { pfx := p, page := 2, regs := [a] }
  | .trdc p d _ => some { pfx := p, page := 2, regs := [d] }
  | .tz p _ => some { pfx := p, page := 2 }
  | .ttr p _ _ => some { pfx := p, page := 2 }
  | .tfill p _ _ => some { pfx := p, page := 2 }
  | .tqnt p _ _ | .acvt p _ _ => some { pfx := p, page := 2 }
  | .aclr p _ => some { pfx := p, page := 2 }
  | .tldl p _ a off | .tstl p _ a off =>
    some { pfx := p, page := 2, regs := [a], imm := some { w := 0, sgn := true, v := off } }
  | .aldl p _ a off | .astl p _ a off =>
    some { pfx := p, page := 2, regs := [a], imm := some { w := 0, sgn := true, v := off } }
  | .mma p _ _ _ | .mmas p _ _ _ | .mmab p _ _ _ => some { pfx := p, page := 2 }
  | .mmam p _ a => some { pfx := p, page := 2, regs := [a] }
  | .send p d a | .sendm p d a | .park p d a => some { pfx := p, page := 3, regs := [d, a] }
  | .sendq p d | .spawn p d => some { pfx := p, page := 3, regs := [d] }
  | .done p | .yield p => some { pfx := p, page := 3 }
  | .post p _ a | .qcfg p _ a => some { pfx := p, page := 3, regs := [a] }
  | .xget p d _ | .qpop p d _ => some { pfx := p, page := 3, regs := [d] }
  | .vwld p d a b | .vwst p d a b => some { pfx := p, page := 3, regs := [d, a, b], mods := .vw }
  | .vwinc p d a => some { pfx := p, page := 3, regs := [d, a], mods := .vw }
  | .vwpk p d a => some { pfx := p, page := 3, regs := [d, a], mods := .peek, zero := even16 d }
  | .vwrst p a => some { pfx := p, page := 3, regs := [a], mods := .vw }
  | .att p d | .det p d | .revoke p d | .bzero p d => some { pfx := p, page := 4, regs := [d] }
  | .hand p d a | .bqry p d a => some { pfx := p, page := 4, regs := [d, a] }
  | .handx p d a b => some { pfx := p, page := 4, regs := [d, a, b] }
  | .cpy p d | .cpyw p d | .cpym p d | .ccan p d => some { pfx := p, page := 4, regs := [d] }
  | .cqset p d a => some { pfx := p, page := 4, regs := [d, a] }
  | .cpos p d a _ => some { pfx := p, page := 4, regs := [d, a] }
  | .cwait p a _ => some { pfx := p, page := 4, regs := [a] }
  | .task p d | .mtload p d => some { pfx := p, page := 4, regs := [d] }
  | .ttag p d a | .tshape p d a | .tqry p d a => some { pfx := p, page := 4, regs := [d, a] }
  | .pload p _ _ b => some { pfx := p, page := 5, regs := [b] }
  | .pdist p d _ _ => some { pfx := p, page := 5, regs := [d] }
  | .psetm p d a | .psets p d a => some { pfx := p, page := 5, regs := [d, a] }
  | .bal p _ => some { pfx := p, page := 5 }
  | .balx p _ _ => some { pfx := p, page := 5 }
  | .pmat p _ _ => some { pfx := p, page := 5 }
  | .pstat p d => some { pfx := p, page := 5, regs := [d] }
  | .pmovToBank p d _ | .pmovFromBank p d _ => some { pfx := p, page := 5, regs := [d] }
  | .mcall p a => some { pfx := p, page := 6, regs := [a] }
  | .clrst p | .idle p => some { pfx := p, page := 6 }
  | .wrcWp _ _ => none
  | .wrcVtype _ _ => none
  | .wrcBs _ _ => none
  | .wrcSmc _ _ => none
  | .wrcFmt _ _ _ => none
  | .rdcSbcnt _ _ => none
  | .rdcKmc _ _ => none
  | .mver => none
  | .qheld => none
  | .fqset => none
  | .tqset => none
  | .maskset => none
  | .treeset => none
  | .cpool => none
  | .kimport => none
  | .krevoke => none
  | .resume => none
  | .kstate => none
  | .tctl => none
  | .ptmap => none
  | .nextAction => none
  | .steal => none
  | .idleRetry => none
  | .headAging => none
  | .fifoArrival _ => none
  | .rankedArrival _ => none
  | .bounceResend => none
  | .messageAccepted _ => none
  | .sendRoomFreed => none
  | .multicastForward _ _ _ => none
  | .budgetExpiry => none
  | .faultRecordDeferred => none
  | .linkValueArrival _ => none
  | .linkCreditReturn _ _ => none
  | .vwHomeLoad _ => none
  | .vwHomePark _ => none
  | .vwHomeStore _ => none
  | .vwHomeInc _ => none
  | .vwHomePeek _ => none
  | .vwHomeReset _ => none
  | .vwReply _ => none
  | .handReservation _ => none
  | .handGrant _ _ => none
  | .bankAttach _ => none
  | .bankReturnPool _ => none
  | .bankRevoked _ => none
  | .scrubComplete _ => none
  | .bankPoison _ _ => none
  | .mmamStep => none
  | .balSweep => none
  | .copyCommand _ => none
  | .cpymVersionReached _ => none
  | .copyLine => none
  | .copyBudgetWindow => none
  | .asterTaskArrival _ => none
  | .asterDependenceMet => none
  | .asterStagingDone _ => none
  | .asterRetirement _ => none
  | .methodTableInstall => none
  | .keyReload => none
  | .directoryOverflow => none
  | .keyInvalidationComplete => none
  | .sliceExpiry => none
  | .hostSubmit => none
  | .getVersion => none
  | .getCapabilities => none
  | .negotiateAlgorithms => none
  | .getDigests => none
  | .getCertificate => none
  | .challenge => none
  | .getMeasurements => none
  | .keyExchange => none
  | .finish => none
  | .keyUpdate => none
  | .heartbeat => none
  | .endSession => none
  | .unsupportedRequest => none
  | .lockInterfaceRequest => none
  | .startInterfaceRequest => none
  | .stopInterfaceRequest => none
  | .getDeviceInterfaceReport => none
  | .keyProg => none
  | .keyActivate => none
  | .keyRetire => none
  | .keyRevoke => none
  | .partCreate => none
  | .partRebuild => none
  | .partDestroy => none
  | .bankRelease => none
  | .ideThresh => none
  | .lifetimeRead => none
  | .debugDisable => none
  | .debugEnable => none
  | .debugResume => none
  | .debugReadRegister => none
  | .debugWriteRegister => none
  | .measLog => none
  | .partResume => none
  | .imgLoad => none
  | .kSetGo => none
  | .ideRekeyDue => none
  | .ideInsecure => none
  | .atsInvalidation => none
  | .atsInvalidationComplete => none
  | .evtailWrite => none
  | .fatalCoreError => none
  | .correctedError => none
  | .meshLinkFailure => none
  | .thermalTrip => none
  | .clockStretch => none
  | .powerOn => none
  | .lifetimeFlush => none
  | .powerDown => none
  | .cirrusLinkBringup => none
  | .illegalSequence _ _ _ => none
  | .fetchFault _ _ => none
  | .accessPerformed _ => none
  | .lossOfPower => none

/-- A well-formed instruction: a sequence that the encoding can hold, or any step or event. -/
def Instr.wf (i : Instr) : Bool :=
  match i.use with
  | some u => u.wf
  | none => true

end Sys2Proof
end

