-- ==== Sys2Proof/Decode.lean ====
section
/-! DEFINITION. Decoding a sequence from its words as R61 gives, for every word, with the detail code of
Table 3.11 for each rejected one; and the encoder, from the same tables (R41 to R59). -/

namespace Sys2Proof

/-- What decoding a sequence gives: an instruction and its word count, an illegal sequence with its
detail code (`inPlace` when the trap is reported on the slot word itself, R51), or a failed fetch of
the k-th word. -/
inductive DecodeResult where
  | ok (i : Instr) (words : Nat)
  | illegal (detail : Nat) (inPlace : Bool)
  | fetchFail (k : Nat)
deriving DecidableEq, Repr

/-- The prefix payloads met so far (R43 to R47). -/
structure Prefixes where
  n : Nat := 0
  lastRank : Int := -1
  seen : List Nat := []
  pxp : Option Nat := none
  pxr : Option Nat := none
  pxi : List (Nat × Nat) := []
deriving DecidableEq, Repr

/-- The rank of a prefix word (Table 3.1). -/
def prefixRank (w : HalfWord) : Nat :=
  if bitsOf w 15 14 = 2 then 0 else if bitsOf w 15 14 = 1 then 1 else 2 + bitsOf w 9 8

/-- A reserved bit of a prefix payload is set (R46, R47). -/
def prefixReserved (w : HalfWord) : Bool :=
  if bitsOf w 15 14 = 2 then bitsOf w 1 0 != 0
  else if bitsOf w 15 14 = 1 then bitOf w 7 else false

def Prefixes.push (s : Prefixes) (w : HalfWord) : Prefixes :=
  let s := { s with n := s.n + 1, lastRank := prefixRank w, seen := prefixRank w :: s.seen }
  if bitsOf w 15 14 = 2 then { s with pxp := some (bitsOf w 9 0) }
  else if bitsOf w 15 14 = 1 then { s with pxr := some (bitsOf w 9 0) }
  else { s with pxi := s.pxi ++ [(bitsOf w 9 8, bitsOf w 7 0)] }

def orderOfCode (n : Nat) : Order :=
  if n = 1 then .acq else if n = 2 then .rel else if n = 3 then .ar else .none

def scopeOfCode (n : Nat) : Scope :=
  if n = 1 then .self else if n = 2 then .core else if n = 3 then .cluster
  else if n = 4 then .die else if n = 5 then .device else if n = 6 then .system else .dflt

def qsOfCode (n : Nat) : Qs :=
  if n = 1 then .srcDq else if n = 2 then .dstQ else if n = 3 then .bqCond else .none

def Order.code : Order → Nat
  | .none => 0 | .acq => 1 | .rel => 2 | .ar => 3

def Scope.code : Scope → Nat
  | .dflt => 0 | .self => 1 | .core => 2 | .cluster => 3 | .die => 4 | .device => 5 | .system => 6

def Qs.code : Qs → Nat
  | .none => 0 | .srcDq => 1 | .dstQ => 2 | .bqCond => 3

/-- A base word with what its prefixes give it. -/
structure Raw where
  w : HalfWord
  pfx : Pfx
  h1 : Bool
  h2 : Bool
  h3 : Bool
  pxi : List Nat

def fin (n m : Nat) [NeZero n] : Fin n := Fin.ofNat n m

namespace Raw
def f1 (r : Raw) : Nat := bitsOf r.w 9 7
def f2 (r : Raw) : Nat := bitsOf r.w 6 4
def f3 (r : Raw) : Nat := bitsOf r.w 3 1
def fn (r : Raw) : Nat := bitsOf r.w 3 0
def b0 (r : Raw) : Bool := bitOf r.w 0
def g1 (r : Raw) : Fin 16 := fin 16 (r.f1 + 8 * r.h1.toNat)
def g2 (r : Raw) : Fin 16 := fin 16 (r.f2 + 8 * r.h2.toNat)
def g3 (r : Raw) : Fin 16 := fin 16 (r.f3 + 8 * r.h3.toNat)
/-- The a field of an FK form, whose first register field stands at [6:4]. -/
def k1 (r : Raw) : Fin 16 := fin 16 (r.f2 + 8 * r.h1.toNat)
/-- The d field of `JLR`, the second register field of its form. -/
def k2 (r : Raw) : Fin 16 := fin 16 (r.f3 + 8 * r.h2.toNat)
/-- ExtImm (R45). -/
def imm (r : Raw) (base w : Nat) (sgn : Bool) : Int :=
  let n := w + 8 * r.pxi.length
  let v := base + 2 ^ w * r.pxi.foldr (fun b acc => b + 256 * acc) 0
  if n = 0 then 0 else if sgn then signExtNat v n else v
end Raw

/-- How an instruction uses a field: a register that an H bit extends, an even one, a number up to a
bound, or not at all (R48, R49). -/
inductive FieldUse where
  | g | ge | lo (max : Nat) | ev | no
deriving DecidableEq, Repr

def FieldUse.ok (u : FieldUse) (v : Nat) (h : Bool) : Bool :=
  match u with
  | .g => true
  | .ge => v % 2 == 0
  | .lo m => decide (v ≤ m) && !h
  | .ev => v % 2 == 0 && !h
  | .no => !h

namespace Raw
/-- The three fields of FA, FB and FM are used as given, and `PXI` bytes stand only where accepted. -/
def chk (r : Raw) (pxi : Bool) (a b c : FieldUse) : Bool :=
  (pxi || r.pxi.isEmpty) && a.ok r.f1 r.h1 && b.ok r.f2 r.h2 && c.ok r.f3 r.h3
/-- The same for FK forms, whose fields stand at [6:4] and [3:1]. -/
def chkK (r : Raw) (pxi : Bool) (a b : FieldUse) : Bool :=
  (pxi || r.pxi.isEmpty) && a.ok r.f2 r.h1 && b.ok r.f3 r.h2 && !r.h3
/-- A field that a queue select replaces must hold 0 (R46). -/
def rep (r : Raw) (q : Qs) (u : FieldUse) : FieldUse := if r.pfx.qs = q then .lo 0 else u
end Raw

/-- A row of the opcode map: the modifiers and queue selects accepted, whether it is a branch or
jump, and the instruction a word with good fields stands for. -/
structure Row where
  mods : ModKind := .none
  qs : QsKind := .none
  branch : Bool := false
  build : Raw → Option Instr

/-- The instruction when the check passes. -/
def when (b : Bool) (i : Instr) : Option Instr := if b then some i else none

/-- Majors 1 to 5 (R99). -/
def rowFA (qs : QsKind) (mk : Pfx → Fin 16 → Fin 16 → Fin 16 → Instr) : Option Row :=
  some { qs := qs, build := fun r => when (r.chk false (r.rep .dstQ .g) .g (r.rep .srcDq .g)) (mk r.pfx r.g1 r.g2 r.g3) }

/-- Majors 6 and 7 (R100, R101). -/
def rowFB (qs : QsKind) (mk : Pfx → Fin 16 → Fin 16 → Instr) : Option Row :=
  some { qs := qs, build := fun r => when (r.chk false .g (r.rep .srcDq .g) .no) (mk r.pfx r.g1 r.g2) }

/-- Major 9 with a signed immediate, and with an unsigned one (R102). -/
def rowFD (qs : QsKind) (mk : Pfx → Fin 16 → Int → Instr) : Option Row :=
  some { qs := qs, build := fun r => when (!r.h2 && !r.h3) (mk r.pfx r.g1 (r.imm r.fn 4 true)) }

def rowShift (mk : Pfx → Fin 16 → Nat → Instr) : Option Row :=
  some { qs := .src, build := fun r => when (!r.h2 && !r.h3 && decide (r.imm r.fn 4 false < 64)) (mk r.pfx r.g1 (r.imm r.fn 4 false).toNat) }

/-- Majors 11 and 12 (R104). -/
def rowMem (store : Bool) (mk : Pfx → Fin 16 → Fin 16 → Bool → Int → Instr) (loc : Bool) : Option Row :=
  some { mods := if loc then .none else if store then .store else .load,
         qs := if store then .none else .dst,
         build := fun r => when (r.chk true (r.rep .dstQ .g) .g .no) (mk r.pfx r.g1 r.g2 loc (r.imm 0 0 true)) }

/-- Major 13 (R105). -/
def rowAtomic (u : FieldUse) (mk : Pfx → Fin 16 → Fin 16 → Instr) : Option Row :=
  some { mods := .atomic, build := fun r => when (r.chk false u .g .no) (mk r.pfx r.g1 r.g2) }

/-- Major 14 (R107). -/
def rowBranch (mk : Pfx → Fin 16 → Int → Instr) : Option Row :=
  some { qs := .cond, branch := true, build := fun r => when ((r.rep .bqCond .g).ok r.f1 r.h1 && !r.h2 && !r.h3) (mk r.pfx r.g1 (r.imm (bitsOf r.w 4 0) 5 true)) }

/-- The forms without queue operands whose two or three fields are all `g` or `v` registers. -/
def row3 (mk : Pfx → Fin 16 → Fin 16 → Fin 16 → Instr) : Option Row :=
  some { build := fun r => when (r.chk false .g .g .g) (mk r.pfx r.g1 r.g2 r.g3) }
def row2 (mk : Pfx → Fin 16 → Fin 16 → Instr) : Option Row :=
  some { build := fun r => when (r.chk false .g .g .no) (mk r.pfx r.g1 r.g2) }
def row1 (mk : Pfx → Fin 16 → Instr) : Option Row :=
  some { build := fun r => when (r.chk false .g (.lo 0) .no) (mk r.pfx r.g1) }
/-- Rows of which the fields are described one by one. -/
def rowU (a b c : FieldUse) (mk : Raw → Instr) : Option Row :=
  some { build := fun r => when (r.chk false a b c) (mk r) }

/-- Table 3.9a with Tables 3.6 and 3.7. -/
def page0 (w : HalfWord) : Option Row :=
  let fn := bitsOf w 3 0
  let f := bitOf w 0
  match bitsOf w 13 10 with
  | 0 => match bitsOf w 9 7 with
    | 0 => match fn with
      | 1 => some { build := fun r => when (r.chkK false (.lo 0) .no) (.nop r.pfx) }
      | 2 => some { build := fun r => when (r.chkK true (.lo 7) .no) (.stall r.pfx (r.imm r.f2 3 false).toNat) }
      | 3 => some { build := fun r => when (r.chkK false .g .no) (.cyc r.pfx r.k1) }
      | 4 => some { build := fun r => when (r.chkK true (.lo 7) .no) (.trap r.pfx (r.imm r.f2 3 false).toNat) }
      | 5 => some { build := fun r => when (r.chkK true (.lo 7) .no) (.brk r.pfx (r.imm r.f2 3 false).toNat) }
      | _ => none
    | 1 => some { branch := true, build := fun r => when (!r.h1 && !r.h2 && !r.h3) (.j r.pfx (r.imm (bitsOf r.w 6 0) 7 true)) }
    | 2 => some { branch := true, build := fun r => when (!r.h1 && !r.h2 && !r.h3) (.jl r.pfx (r.imm (bitsOf r.w 6 0) 7 true)) }
    | 3 => some { branch := true, build := fun r => when (r.chkK true .g .no) (.loop r.pfx r.k1 (r.imm r.fn 4 true)) }
    | 4 => some { build := fun r => when (r.chkK true .g .no) (.lea r.pfx r.k1 (r.imm r.fn 4 true)) }
    | 5 => if f then some { branch := true, build := fun r => when (r.chkK false .g .g) (.jlr r.pfx r.k2 r.k1) }
           else some { branch := true, build := fun r => when (r.chkK false .g (.lo 0)) (.jr r.pfx r.k1) }
    | 6 => some { build := fun r => when (r.chkK true .g .no && crValid (r.imm r.fn 4 false).toNat) (.rdc r.pfx r.k1 (r.imm r.fn 4 false).toNat) }
    | _ => some { build := fun r => when (r.chkK true .g .no && crValid (r.imm r.fn 4 false).toNat) (.wrc r.pfx r.k1 (r.imm r.fn 4 false).toNat) }
  | 1 => if f then rowFA .src .sub else rowFA .src .add
  | 2 => if f then rowFA .src .or else rowFA .src .and
  | 3 => if f then rowFA .src .mul else rowFA .src .xor
  | 4 => if f then rowFA .src .srl else rowFA .src .sll
  | 5 => if f then rowFA .srcOrDst .sltu else rowFA .srcOrDst .slt
  | 6 => match fn with
    | 0 => rowFB .src .sra | 1 => rowFB .src .ror | 2 => rowFB .src .mulh | 3 => rowFB .src .mulhu
    | 4 => rowFB .src .div | 5 => rowFB .src .divu | 6 => rowFB .src .rem | 7 => rowFB .src .remu
    | 8 => rowFB .src .min | 9 => rowFB .src .max | 10 => rowFB .src .minu | 11 => rowFB .src .maxu
    | 12 => rowFB .srcOrDst .seq | 13 => rowFB .srcOrDst .sne | 14 => rowFB .src .andn
    | _ => rowFB .src .mov
  | 7 => match fn with
    | 0 => rowFB .src .neg | 1 => rowFB .src .not | 2 => rowFB .src .clz | 3 => rowFB .src .ctz
    | 4 => rowFB .src .popc | 5 => rowFB .src .brev | 6 => rowFB .src .bswap | 7 => rowFB .src .sextb
    | 8 => rowFB .src .sexth | 9 => rowFB .src .sextw | 10 => rowFB .src .zextb | 11 => rowFB .src .zexth
    | 12 => rowFB .src .zextw | _ => none
  | 8 => some { qs := .src, build := fun r => when (r.chk true .g (r.rep .srcDq .g) .no) (.addi r.pfx r.g1 r.g2 (r.imm r.fn 4 true)) }
  | 9 => match bitsOf w 6 4 with
    | 0 => rowFD .src .andi | 1 => rowFD .src .ori | 2 => rowFD .src .xori
    | 3 => rowShift .slli | 4 => rowShift .srli | 5 => rowShift .srai
    | 6 => rowFD .srcOrDst .slti | _ => rowFD .srcOrDst .seqi
  | 10 => some { build := fun r => when (!r.h2 && !r.h3) (.li r.pfx r.g1 (r.imm (bitsOf r.w 6 0) 7 true)) }
  | 11 => match bitsOf w 3 1 with
    | 0 => rowMem false .ldb f | 1 => rowMem false .ldbu f | 2 => rowMem false .ldh f
    | 3 => rowMem false .ldhu f | 4 => rowMem false .ldw f | 5 => rowMem false .ldwu f
    | 6 => rowMem false .ld f | _ => none
  | 12 => match bitsOf w 3 1 with
    | 0 => rowMem true .stb f | 1 => rowMem true .sth f | 2 => rowMem true .stw f
    | 3 => rowMem true .st f | _ => none
  | 13 => match fn with
    | 0 => rowAtomic .g .swp | 1 => rowAtomic .ge .cas | 2 => rowAtomic .g .aadd
    | 3 => rowAtomic .g .aand | 4 => rowAtomic .g .aor | 5 => rowAtomic .g .axor
    | 6 => rowAtomic .g .amin | 7 => rowAtomic .g .amax | 8 => rowAtomic .g .aminu
    | 9 => rowAtomic .g .amaxu
    | 10 => some { mods := .fence, build := fun r => when (r.chk false (.lo 0) (.lo 0) .no) (.fence r.pfx) }
    | _ => none
  | 14 => match bitsOf w 6 5 with
    | 0 => rowBranch .bz | 1 => rowBranch .bnz | 2 => rowBranch .bltz | _ => rowBranch .bgez
  | _ => none

/-- Table 3.9b. -/
def page1 (w : HalfWord) : Option Row :=
  let fn := bitsOf w 3 0
  let f := bitOf w 0
  match bitsOf w 13 10 with
  | 0 => if f then row3 .vsub else row3 .vadd
  | 1 => if f then row3 .vfma else row3 .vmul
  | 2 => if f then row3 .vmax else row3 .vmin
  | 3 => if f then row3 .vor else row3 .vand
  | 4 => if f then row3 .vsel else row3 .vxor
  | 5 => if f then rowU (.lo 7) .g .g (fun r => .vcmplt r.pfx (fin 8 r.f1) r.g2 r.g3)
         else rowU (.lo 7) .g .g (fun r => .vcmpeq r.pfx (fin 8 r.f1) r.g2 r.g3)
  | 6 => if f then rowU (.lo 7) .g .g (fun r => .vcmpne r.pfx (fin 8 r.f1) r.g2 r.g3)
         else rowU (.lo 7) .g .g (fun r => .vcmple r.pfx (fin 8 r.f1) r.g2 r.g3)
  | 7 => match fn with
    | 0 => row2 .vsll | 1 => row2 .vsrl | 2 => row2 .vsra | 3 => row2 .vandn | 4 => row2 .vadds
    | 5 => row2 .vsubs | 6 => row2 .vperm | 7 => row2 .vsat | 8 => row2 .vscan | 9 => row2 .vrsum
    | 10 => row2 .vrmax | 11 => row2 .vrmin | 12 => row2 .vlse | 13 => row2 .vbcast
    | 14 => row2 .vrot | _ => none
  | 8 => match fn with
    | 0 => row2 .vabs | 1 => row2 .vneg | 2 => row2 .vnot | 3 => row2 .vmov | 4 => row2 .vexp2
    | 5 => row2 .vlog2 | 6 => row2 .vrcp | 7 => row2 .vrsq | 8 => row2 .vsplat | 9 => row2 .vget
    | _ => none
  | 9 => if f then row3 .vcvtr else rowU .g .g (.lo 0) (fun r => .vcvt r.pfx r.g1 r.g2)
  | 10 => if f then row3 .vdq else row3 .vqnt
  | 11 => match bitsOf w 3 1 with
    | 0 => some { build := fun r => when (r.chk true .g .g .no) (.vld r.pfx r.g1 r.g2 r.b0 (r.imm 0 0 true)) }
    | 1 => some { build := fun r => when (r.chk true .g .g .no) (.vst r.pfx r.g1 r.g2 r.b0 (r.imm 0 0 true)) }
    | _ => none
  | 12 => if f then row3 .vsct else row3 .vgth
  | 13 => if f then rowU (.lo 7) (.lo 7) (.lo 7) (fun r => .kor r.pfx (fin 8 r.f1) (fin 8 r.f2) (fin 8 r.f3))
          else rowU (.lo 7) (.lo 7) (.lo 7) (fun r => .kand r.pfx (fin 8 r.f1) (fin 8 r.f2) (fin 8 r.f3))
  | 14 => match fn with
    | 0 => rowU (.lo 7) (.lo 7) .no (fun r => .kxor r.pfx (fin 8 r.f1) (fin 8 r.f2))
    | 1 => rowU (.lo 7) (.lo 7) .no (fun r => .knot r.pfx (fin 8 r.f1) (fin 8 r.f2))
    | 2 => rowU (.lo 7) (.lo 7) .no (fun r => .kmov r.pfx (fin 8 r.f1) (fin 8 r.f2))
    | 3 => rowU .g (.lo 7) .no (fun r => .kpop r.pfx r.g1 (fin 8 r.f2))
    | 4 => rowU .g (.lo 7) .no (fun r => .kfirst r.pfx r.g1 (fin 8 r.f2))
    | 5 => rowU (.lo 7) (.lo 0) .no (fun r => .kset r.pfx (fin 8 r.f1))
    | 6 => rowU (.lo 7) (.lo 0) .no (fun r => .kclr r.pfx (fin 8 r.f1))
    | _ => none
  | _ => none

/-- A page-2 form of major 1, which must be local (R55). -/
def rowTile (a : FieldUse) (mk : Raw → Instr) : Option Row :=
  some { build := fun r => when (r.chk true a .g .no && r.b0) (mk r) }

/-- A form of FX (R48): the accumulator and two tiles. -/
def rowFX (mk : Pfx → Fin 4 → Fin 8 → Fin 8 → Instr) : Option Row :=
  some { build := fun r => when (r.pxi.isEmpty && !r.h1 && !r.h2 && !r.h3) (mk r.pfx (fin 4 (bitsOf r.w 9 8)) (fin 8 (bitsOf r.w 7 5)) (fin 8 (bitsOf r.w 4 2))) }

/-- Table 3.9c. -/
def page2 (w : HalfWord) : Option Row :=
  match bitsOf w 13 10 with
  | 0 => match bitsOf w 3 0 with
    | 0 => rowU (.lo 7) .g .no (fun r => .tcfg r.pfx (fin 8 r.f1) r.g2)
    | 1 => rowU .g (.lo 7) .no (fun r => .trdc r.pfx r.g1 (fin 8 r.f2))
    | 2 => rowU (.lo 7) (.lo 0) .no (fun r => .tz r.pfx (fin 8 r.f1))
    | 3 => rowU (.lo 7) (.lo 7) .no (fun r => .ttr r.pfx (fin 8 r.f1) (fin 8 r.f2))
    | 4 => rowU (.lo 7) (.lo 5) .no (fun r => .tfill r.pfx (fin 8 r.f1) (fin 6 r.f2))
    | 5 => rowU (.lo 7) (.lo 3) .no (fun r => .tqnt r.pfx (fin 8 r.f1) (fin 4 r.f2))
    | 6 => rowU (.lo 7) (.lo 3) .no (fun r => .acvt r.pfx (fin 8 r.f1) (fin 4 r.f2))
    | 7 => rowU (.lo 3) (.lo 0) .no (fun r => .aclr r.pfx (fin 4 r.f1))
    | _ => none
  | 1 => match bitsOf w 3 1 with
    | 0 => rowTile (.lo 7) (fun r => .tldl r.pfx (fin 8 r.f1) r.g2 (r.imm 0 0 true))
    | 1 => rowTile (.lo 7) (fun r => .tstl r.pfx (fin 8 r.f1) r.g2 (r.imm 0 0 true))
    | 2 => rowTile (.lo 3) (fun r => .aldl r.pfx (fin 4 r.f1) r.g2 (r.imm 0 0 true))
    | 3 => rowTile (.lo 3) (fun r => .astl r.pfx (fin 4 r.f1) r.g2 (r.imm 0 0 true))
    | _ => none
  | 2 => match bitsOf w 1 0 with
    | 0 => rowFX .mma | 1 => rowFX .mmas | 2 => rowFX .mmab
    | _ => some { build := fun r => when (r.pxi.isEmpty && !r.h1 && !r.h3 && bitsOf r.w 4 2 == 0) (.mmam r.pfx (fin 4 (bitsOf r.w 9 8)) (fin 16 (bitsOf r.w 7 5 + 8 * r.h2.toNat))) }
  | _ => none

/-- Table 3.9d. -/
def page3 (w : HalfWord) : Option Row :=
  match bitsOf w 13 10 with
  | 0 => match bitsOf w 3 0 with
    | 0 => row2 .send | 1 => row2 .sendm | 2 => row1 .sendq | 3 => row1 .spawn
    | 4 => rowU (.lo 0) (.lo 0) .no (fun r => .done r.pfx)
    | 5 => rowU (.lo 0) (.lo 0) .no (fun r => .yield r.pfx)
    | 6 => rowU (.lo 3) .g .no (fun r => .post r.pfx (fin 4 r.f1) r.g2)
    | 7 => rowU .g (.lo 3) .no (fun r => .xget r.pfx r.g1 (fin 4 r.f2))
    | 8 => rowU (.lo 3) .g .no (fun r => .qcfg r.pfx (fin 4 r.f1) r.g2)
    | 9 => rowU .g (.lo 3) .no (fun r => .qpop r.pfx r.g1 (fin 4 r.f2))
    | 10 => row2 .park
    | _ => none
  | 1 => some { mods := .vw, build := fun r => when (r.chk false .g .g .g) (if r.b0 then .vwst r.pfx r.g1 r.g2 r.g3 else .vwld r.pfx r.g1 r.g2 r.g3) }
  | 2 => match bitsOf w 3 0 with
    | 0 => some { mods := .vw, build := fun r => when (r.chk false .g .g .no) (.vwinc r.pfx r.g1 r.g2) }
    | 1 => some { mods := .peek, build := fun r => when (r.chk false .ge .g .no) (.vwpk r.pfx r.g1 r.g2) }
    | 2 => some { mods := .vw, build := fun r => when (r.chk false (.lo 0) .g .no) (.vwrst r.pfx r.g2) }
    | _ => none
  | _ => none

/-- Table 3.9e. -/
def page4 (w : HalfWord) : Option Row :=
  match bitsOf w 13 10 with
  | 0 => match bitsOf w 3 0 with
    | 0 => row1 .att | 1 => row1 .det | 2 => row2 .hand | 4 => row2 .bqry | 5 => row1 .revoke
    | 6 => row1 .bzero | _ => none
  | 1 => if bitOf w 0 then none else row3 .handx
  | 2 => match bitsOf w 3 0 with
    | 0 => row1 .cpy | 1 => row1 .cpyw | 2 => row1 .cpym | 3 => row1 .ccan | 4 => row2 .cqset
    | _ => none
  | 3 => match bitsOf w 1 0 with
    | 0 => rowU .g .g .no (fun r => .cpos r.pfx r.g1 r.g2 (fin 4 (bitsOf r.w 3 2)))
    | 1 => rowU (.lo 0) .g .no (fun r => .cwait r.pfx r.g2 (fin 4 (bitsOf r.w 3 2)))
    | _ => none
  | 4 => match bitsOf w 3 0 with
    | 0 => row1 .task | 1 => row2 .ttag | 2 => row2 .tshape | 3 => row2 .tqry | 4 => row1 .mtload
    | _ => none
  | _ => none

/-- The pair that an even tile number names. -/
def pairOf (f : Nat) : Fin 4 := fin 4 (f / 2)

/-- Table 3.9f. -/
def page5 (w : HalfWord) : Option Row :=
  match bitsOf w 13 10 with
  | 0 => if bitOf w 0 then rowU .g .ev (.lo 7) (fun r => .pdist r.pfx r.g1 (pairOf r.f2) (fin 8 r.f3))
         else rowU .ev (.lo 7) .g (fun r => .pload r.pfx (pairOf r.f1) (fin 8 r.f2) r.g3)
  | 1 => match bitsOf w 3 0 with
    | 0 => row2 .psetm | 1 => row2 .psets
    | 2 => rowU .ev (.lo 0) .no (fun r => .bal r.pfx (pairOf r.f1))
    | 3 => rowU .ev (.lo 1) .no (fun r => .balx r.pfx (pairOf r.f1) (r.f2 == 1))
    | 4 => rowU (.lo 7) .ev .no (fun r => .pmat r.pfx (fin 8 r.f1) (pairOf r.f2))
    | 5 => rowU .g (.lo 0) .no (fun r => .pstat r.pfx r.g1)
    | 6 => rowU .g (.lo 3) .no (fun r => .pmovToBank r.pfx r.g1 (fin 4 r.f2))
    | 7 => rowU .g (.lo 3) .no (fun r => .pmovFromBank r.pfx r.g1 (fin 4 r.f2))
    | _ => none
  | _ => none

/-- Table 3.9g: format FS, whose first field is a. -/
def page6 (w : HalfWord) : Option Row :=
  match bitsOf w 13 10, bitsOf w 6 0 with
  | 0, 0 => some { build := fun r => when (r.pxi.isEmpty && !r.h2 && !r.h3) (.mcall r.pfx r.g1) }
  | 0, 1 => some { build := fun r => when (r.pxi.isEmpty && r.f1 == 0 && !r.h1 && !r.h2 && !r.h3) (.clrst r.pfx) }
  | 0, 2 => some { build := fun r => when (r.pxi.isEmpty && r.f1 == 0 && !r.h1 && !r.h2 && !r.h3) (.idle r.pfx) }
  | _, _ => none

/-- The opcode map of a page (Table 3.8); page 7 is handled before it. -/
def rowOf (page : Nat) (w : HalfWord) : Option Row :=
  match page with
  | 0 => page0 w | 1 => page1 w | 2 => page2 w | 3 => page3 w | 4 => page4 w | 5 => page5 w
  | 6 => page6 w | _ => none

/-- What the prefixes give a base word w. -/
def Prefixes.raw (s : Prefixes) (w : HalfWord) : Raw :=
  let pxp := s.pxp.getD 0
  let pxr := s.pxr.getD 0
  { w := w
    pfx := { stall := bitsOf w 15 14 + 4 * natBits pxr 6 3
             pxp := s.pxp.isSome, pxr := s.pxr.isSome, npxi := s.pxi.length
             qs := qsOfCode (natBits pxr 9 8)
             order := orderOfCode (natBits pxp 3 2), scope := scopeOfCode (natBits pxp 6 4) }
    h1 := natBits pxr 2 2 == 1, h2 := natBits pxr 1 1 == 1, h3 := natBits pxr 0 0 == 1
    pxi := s.pxi.map (·.2) }

/-- The `PXI` indices present are 0 to m − 1 (R44). -/
def Prefixes.gap (s : Prefixes) : Bool := s.pxi.map (·.1) != List.range s.pxi.length

/-- DecodeBase of R61. -/
def decodeBase (s : Prefixes) (w : HalfWord) (inSlot : Bool) : DecodeResult :=
  let pxp := s.pxp.getD 0
  if s.gap then .illegal 4 false
  else if natBits pxp 9 7 = 7 then .illegal 8 false
  else match rowOf (natBits pxp 9 7) w with
    | none => .illegal 7 false
    | some row =>
      let r := s.raw w
      if inSlot && row.branch then .illegal 10 true
      else if natBits pxp 6 4 = 7 || !modsOk row.mods r.pfx.order r.pfx.scope then .illegal 9 false
      else if !qsOk row.qs r.pfx.qs then .illegal 11 false
      else match row.build r with
        | none => .illegal 6 false
        | some i => .ok i (s.n + 1)

/-- DecodeSequence of R61: the k-th word of the sequence is fetched when it is reached. -/
def decodeFrom (fetch : Nat → Option HalfWord) (inSlot : Bool) : Nat → Nat → Prefixes → DecodeResult
  | 0, _, _ => .illegal 2 false
  | fuel + 1, k, s =>
    match fetch k with
    | none => .fetchFail k
    | some w =>
      if bitsOf w 13 10 ≠ 15 then decodeBase s w inSlot
      else if inSlot then .illegal 5 false
      else if bitsOf w 15 14 = 3 then .illegal 1 false
      else if s.n = 4 then .illegal 2 false
      else if s.seen.contains (prefixRank w) then .illegal 3 false
      else if (prefixRank w : Int) < s.lastRank then .illegal 4 false
      else if prefixReserved w then .illegal 6 false
      else decodeFrom fetch inSlot fuel (k + 1) (s.push w)

def decode (fetch : Nat → Option HalfWord) (inSlot : Bool) : DecodeResult :=
  decodeFrom fetch inSlot 6 0 {}

/-- A list of words as the decoder fetches them. -/
def decodeWords (ws : List HalfWord) : DecodeResult := decode (fun k => ws[k]?) false

/-- The instruction read from an instruction whose bits are w, the first word lowest; bits above
nbits are 0. Words of pages 1 to 6 alone are read on page 0, as the hardware reads them. -/
def decodeTableWord (nbits w : Nat) : Option Instr :=
  match decode (fun k => some (BitVec.ofNat 16 (w % 2 ^ nbits / 2 ^ (16 * k)))) false with
  | .ok i _ => some i
  | _ => none

/-! ### The encoder -/

/-- A base word's parts: its page, its bits without the stall count, the H bits and the value of the
`PXI` bytes. -/
structure Enc where
  page : Nat
  base : Nat
  h1 : Bool := false
  h2 : Bool := false
  h3 : Bool := false
  ext : Nat := 0
deriving DecidableEq, Repr

def hi (r : Fin 16) : Bool := decide (8 ≤ r.val)
def lo3 (r : Fin 16) : Nat := r.val % 8

/-- The low w bits of an immediate extended by m bytes, and the rest of it (R45). -/
def immLow (v : Int) (w : Nat) : Nat := (v % 2 ^ w).toNat
def immExt (v : Int) (w m : Nat) : Nat := (v % 2 ^ (w + 8 * m)).toNat / 2 ^ w

/-- FA, FB, FM and FD with register operands. -/
def encFA (page major f : Nat) (d a b : Fin 16) : Enc :=
  { page := page, base := major * 1024 + lo3 d * 128 + lo3 a * 16 + lo3 b * 2 + f,
    h1 := hi d, h2 := hi a, h3 := hi b }
def encFB (page major fn : Nat) (d a : Fin 16) : Enc :=
  { page := page, base := major * 1024 + lo3 d * 128 + lo3 a * 16 + fn, h1 := hi d, h2 := hi a }
def encFM (page major op : Nat) (p : Pfx) (d a : Fin 16) (loc : Bool) (off : Int) : Enc :=
  { page := page, base := major * 1024 + lo3 d * 128 + lo3 a * 16 + op * 2 + loc.toNat,
    h1 := hi d, h2 := hi a, ext := immExt off 0 p.npxi }
def encFD (fn : Nat) (p : Pfx) (d : Fin 16) (v : Int) : Enc :=
  { page := 0, base := 9 * 1024 + lo3 d * 128 + fn * 16 + immLow v 4, h1 := hi d,
    ext := immExt v 4 p.npxi }
def encFJ (c : Nat) (p : Pfx) (a : Fin 16) (v : Int) : Enc :=
  { page := 0, base := 14 * 1024 + lo3 a * 128 + c * 32 + immLow v 5, h1 := hi a,
    ext := immExt v 5 p.npxi }
/-- FK forms with a register at [6:4] and four bits below it. -/
def encFK (op : Nat) (p : Pfx) (a : Fin 16) (v : Int) : Enc :=
  { page := 0, base := op * 128 + lo3 a * 16 + immLow v 4, h1 := hi a, ext := immExt v 4 p.npxi }
def encMisc (fn : Nat) (p : Pfx) (n : Nat) : Enc :=
  { page := 0, base := n % 8 * 16 + fn, ext := immExt n 3 p.npxi }
def encFX (op : Nat) (s : Fin 4) (ta tb : Nat) : Enc :=
  { page := 2, base := 2 * 1024 + s.val * 256 + ta * 32 + tb * 4 + op }
/-- A register or number that no H bit extends. -/
def low (n : Nat) : Fin 16 := fin 16 n

/-- The base word and extensions of each sequence (Tables 3.5 to 3.9g); none for steps and events. -/
def Instr.enc : Instr → Option Enc
  | .nop _ => some ({ page := 0, base := 1 })
  | .stall p n => some (encMisc 2 p n)
  | .cyc _ d => some (encFK 0 {} d 3)
  | .trap p n => some (encMisc 4 p n)
  | .brk p n => some (encMisc 5 p n)
  | .j p e => some ({ page := 0, base := 128 + immLow e 7, ext := immExt e 7 p.npxi })
  | .jl p e => some ({ page := 0, base := 256 + immLow e 7, ext := immExt e 7 p.npxi })
  | .loop p a e => some (encFK 3 p a e)
  | .lea p d e => some (encFK 4 p d e)
  | .jr _ a => some ({ page := 0, base := 5 * 128 + lo3 a * 16, h1 := hi a })
  | .jlr _ d a => some ({ page := 0, base := 5 * 128 + lo3 a * 16 + lo3 d * 2 + 1, h1 := hi a, h2 := hi d })
  | .rdc p d cr => some (encFK 6 p d cr)
  | .wrc p a cr => some (encFK 7 p a cr)
  | .add _ d a b => some (encFA 0 1 0 d a b)
  | .sub _ d a b => some (encFA 0 1 1 d a b)
  | .and _ d a b => some (encFA 0 2 0 d a b)
  | .or _ d a b => some (encFA 0 2 1 d a b)
  | .xor _ d a b => some (encFA 0 3 0 d a b)
  | .mul _ d a b => some (encFA 0 3 1 d a b)
  | .sll _ d a b => some (encFA 0 4 0 d a b)
  | .srl _ d a b => some (encFA 0 4 1 d a b)
  | .slt _ d a b => some (encFA 0 5 0 d a b)
  | .sltu _ d a b => some (encFA 0 5 1 d a b)
  | .sra _ d a => some (encFB 0 6 0 d a)
  | .ror _ d a => some (encFB 0 6 1 d a)
  | .mulh _ d a => some (encFB 0 6 2 d a)
  | .mulhu _ d a => some (encFB 0 6 3 d a)
  | .div _ d a => some (encFB 0 6 4 d a)
  | .divu _ d a => some (encFB 0 6 5 d a)
  | .rem _ d a => some (encFB 0 6 6 d a)
  | .remu _ d a => some (encFB 0 6 7 d a)
  | .min _ d a => some (encFB 0 6 8 d a)
  | .max _ d a => some (encFB 0 6 9 d a)
  | .minu _ d a => some (encFB 0 6 10 d a)
  | .maxu _ d a => some (encFB 0 6 11 d a)
  | .seq _ d a => some (encFB 0 6 12 d a)
  | .sne _ d a => some (encFB 0 6 13 d a)
  | .andn _ d a => some (encFB 0 6 14 d a)
  | .mov _ d a => some (encFB 0 6 15 d a)
  | .neg _ d a => some (encFB 0 7 0 d a)
  | .not _ d a => some (encFB 0 7 1 d a)
  | .clz _ d a => some (encFB 0 7 2 d a)
  | .ctz _ d a => some (encFB 0 7 3 d a)
  | .popc _ d a => some (encFB 0 7 4 d a)
  | .brev _ d a => some (encFB 0 7 5 d a)
  | .bswap _ d a => some (encFB 0 7 6 d a)
  | .sextb _ d a => some (encFB 0 7 7 d a)
  | .sexth _ d a => some (encFB 0 7 8 d a)
  | .sextw _ d a => some (encFB 0 7 9 d a)
  | .zextb _ d a => some (encFB 0 7 10 d a)
  | .zexth _ d a => some (encFB 0 7 11 d a)
  | .zextw _ d a => some (encFB 0 7 12 d a)
  | .addi p d a e => some ({ page := 0, base := 8 * 1024 + lo3 d * 128 + lo3 a * 16 + immLow e 4, h1 := hi d, h2 := hi a, ext := immExt e 4 p.npxi })
  | .andi p d e => some (encFD 0 p d e)
  | .ori p d e => some (encFD 1 p d e)
  | .xori p d e => some (encFD 2 p d e)
  | .slli p d e => some (encFD 3 p d e)
  | .srli p d e => some (encFD 4 p d e)
  | .srai p d e => some (encFD 5 p d e)
  | .slti p d e => some (encFD 6 p d e)
  | .seqi p d e => some (encFD 7 p d e)
  | .li p d e => some ({ page := 0, base := 10 * 1024 + lo3 d * 128 + immLow e 7, h1 := hi d, ext := immExt e 7 p.npxi })
  | .ldb p d a loc off => some (encFM 0 11 0 p d a loc off)
  | .ldbu p d a loc off => some (encFM 0 11 1 p d a loc off)
  | .ldh p d a loc off => some (encFM 0 11 2 p d a loc off)
  | .ldhu p d a loc off => some (encFM 0 11 3 p d a loc off)
  | .ldw p d a loc off => some (encFM 0 11 4 p d a loc off)
  | .ldwu p d a loc off => some (encFM 0 11 5 p d a loc off)
  | .ld p d a loc off => some (encFM 0 11 6 p d a loc off)
  | .stb p d a loc off => some (encFM 0 12 0 p d a loc off)
  | .sth p d a loc off => some (encFM 0 12 1 p d a loc off)
  | .stw p d a loc off => some (encFM 0 12 2 p d a loc off)
  | .st p d a loc off => some (encFM 0 12 3 p d a loc off)
  | .swp _ d a => some (encFB 0 13 0 d a)
  | .cas _ d a => some (encFB 0 13 1 d a)
  | .aadd _ d a => some (encFB 0 13 2 d a)
  | .aand _ d a => some (encFB 0 13 3 d a)
  | .aor _ d a => some (encFB 0 13 4 d a)
  | .axor _ d a => some (encFB 0 13 5 d a)
  | .amin _ d a => some (encFB 0 13 6 d a)
  | .amax _ d a => some (encFB 0 13 7 d a)
  | .aminu _ d a => some (encFB 0 13 8 d a)
  | .amaxu _ d a => some (encFB 0 13 9 d a)
  | .fence _ => some ({ page := 0, base := 13 * 1024 + 10 })
  | .bz p a e => some (encFJ 0 p a e)
  | .bnz p a e => some (encFJ 1 p a e)
  | .bltz p a e => some (encFJ 2 p a e)
  | .bgez p a e => some (encFJ 3 p a e)
  | .vadd _ d a b => some (encFA 1 0 0 d a b)
  | .vsub _ d a b => some (encFA 1 0 1 d a b)
  | .vmul _ d a b => some (encFA 1 1 0 d a b)
  | .vfma _ d a b => some (encFA 1 1 1 d a b)
  | .vmin _ d a b => some (encFA 1 2 0 d a b)
  | .vmax _ d a b => some (encFA 1 2 1 d a b)
  | .vand _ d a b => some (encFA 1 3 0 d a b)
  | .vor _ d a b => some (encFA 1 3 1 d a b)
  | .vxor _ d a b => some (encFA 1 4 0 d a b)
  | .vsel _ d a b => some (encFA 1 4 1 d a b)
  | .vcmpeq _ d a b => some (encFA 1 5 0 (low d.val) a b)
  | .vcmplt _ d a b => some (encFA 1 5 1 (low d.val) a b)
  | .vcmple _ d a b => some (encFA 1 6 0 (low d.val) a b)
  | .vcmpne _ d a b => some (encFA 1 6 1 (low d.val) a b)
  | .vsll _ d a => some (encFB 1 7 0 d a)
  | .vsrl _ d a => some (encFB 1 7 1 d a)
  | .vsra _ d a => some (encFB 1 7 2 d a)
  | .vandn _ d a => some (encFB 1 7 3 d a)
  | .vadds _ d a => some (encFB 1 7 4 d a)
  | .vsubs _ d a => some (encFB 1 7 5 d a)
  | .vperm _ d a => some (encFB 1 7 6 d a)
  | .vsat _ d a => some (encFB 1 7 7 d a)
  | .vscan _ d a => some (encFB 1 7 8 d a)
  | .vrsum _ d a => some (encFB 1 7 9 d a)
  | .vrmax _ d a => some (encFB 1 7 10 d a)
  | .vrmin _ d a => some (encFB 1 7 11 d a)
  | .vlse _ d a => some (encFB 1 7 12 d a)
  | .vbcast _ d a => some (encFB 1 7 13 d a)
  | .vrot _ d a => some (encFB 1 7 14 d a)
  | .vabs _ d a => some (encFB 1 8 0 d a)
  | .vneg _ d a => some (encFB 1 8 1 d a)
  | .vnot _ d a => some (encFB 1 8 2 d a)
  | .vmov _ d a => some (encFB 1 8 3 d a)
  | .vexp2 _ d a => some (encFB 1 8 4 d a)
  | .vlog2 _ d a => some (encFB 1 8 5 d a)
  | .vrcp _ d a => some (encFB 1 8 6 d a)
  | .vrsq _ d a => some (encFB 1 8 7 d a)
  | .vsplat _ d a => some (encFB 1 8 8 d a)
  | .vget _ d a => some (encFB 1 8 9 d a)
  | .vcvt _ d a => some (encFB 1 9 0 d a)
  | .vcvtr _ d a b => some (encFA 1 9 1 d a b)
  | .vqnt _ d a b => some (encFA 1 10 0 d a b)
  | .vdq _ d a b => some (encFA 1 10 1 d a b)
  | .vld p d a loc off => some (encFM 1 11 0 p d a loc off)
  | .vst p d a loc off => some (encFM 1 11 1 p d a loc off)
  | .vgth _ d a b => some (encFA 1 12 0 d a b)
  | .vsct _ d a b => some (encFA 1 12 1 d a b)
  | .kand _ d a b => some (encFA 1 13 0 (low d.val) (low a.val) (low b.val))
  | .kor _ d a b => some (encFA 1 13 1 (low d.val) (low a.val) (low b.val))
  | .kxor _ d a => some (encFB 1 14 0 (low d.val) (low a.val))
  | .knot _ d a => some (encFB 1 14 1 (low d.val) (low a.val))
  | .kmov _ d a => some (encFB 1 14 2 (low d.val) (low a.val))
  | .kpop _ d a => some (encFB 1 14 3 d (low a.val))
  | .kfirst _ d a => some (encFB 1 14 4 d (low a.val))
  | .kset _ d => some (encFB 1 14 5 (low d.val) 0)
  | .kclr _ d => some (encFB 1 14 6 (low d.val) 0)
  | .tcfg _ d a => some (encFB 2 0 0 (low d.val) a)
  | .trdc _ d a => some (encFB 2 0 1 d (low a.val))
  | .tz _ d => some (encFB 2 0 2 (low d.val) 0)
  | .ttr _ d a => some (encFB 2 0 3 (low d.val) (low a.val))
  | .tfill _ d pat => some (encFB 2 0 4 (low d.val) (low pat.val))
  | .tqnt _ d t => some (encFB 2 0 5 (low d.val) (low t.val))
  | .acvt _ d t => some (encFB 2 0 6 (low d.val) (low t.val))
  | .aclr _ t => some (encFB 2 0 7 (low t.val) 0)
  | .tldl p d a off => some (encFM 2 1 0 p (low d.val) a true off)
  | .tstl p d a off => some (encFM 2 1 1 p (low d.val) a true off)
  | .aldl p d a off => some (encFM 2 1 2 p (low d.val) a true off)
  | .astl p d a off => some (encFM 2 1 3 p (low d.val) a true off)
  | .mma _ t ta tb => some (encFX 0 t ta.val tb.val)
  | .mmas _ t ta tb => some (encFX 1 t ta.val tb.val)
  | .mmab _ t ta tb => some (encFX 2 t ta.val tb.val)
  | .mmam _ t a => some ({ encFX 3 t (lo3 a) 0 with h2 := hi a })
  | .send _ d a => some (encFB 3 0 0 d a)
  | .sendm _ d a => some (encFB 3 0 1 d a)
  | .sendq _ d => some (encFB 3 0 2 d 0)
  | .spawn _ d => some (encFB 3 0 3 d 0)
  | .done _ => some (encFB 3 0 4 0 0)
  | .yield _ => some (encFB 3 0 5 0 0)
  | .post _ dir a => some (encFB 3 0 6 (low dir.val) a)
  | .xget _ d dir => some (encFB 3 0 7 d (low dir.val))
  | .qcfg _ q a => some (encFB 3 0 8 (low q.val) a)
  | .qpop _ d q => some (encFB 3 0 9 d (low q.val))
  | .park _ d a => some (encFB 3 0 10 d a)
  | .vwld _ d a b => some (encFA 3 1 0 d a b)
  | .vwst _ d a b => some (encFA 3 1 1 d a b)
  | .vwinc _ d a => some (encFB 3 2 0 d a)
  | .vwpk _ d a => some (encFB 3 2 1 d a)
  | .vwrst _ a => some (encFB 3 2 2 0 a)
  | .att _ d => some (encFB 4 0 0 d 0)
  | .det _ d => some (encFB 4 0 1 d 0)
  | .hand _ d a => some (encFB 4 0 2 d a)
  | .bqry _ d a => some (encFB 4 0 4 d a)
  | .revoke _ d => some (encFB 4 0 5 d 0)
  | .bzero _ d => some (encFB 4 0 6 d 0)
  | .handx _ d a b => some (encFA 4 1 0 d a b)
  | .cpy _ d => some (encFB 4 2 0 d 0)
  | .cpyw _ d => some (encFB 4 2 1 d 0)
  | .cpym _ d => some (encFB 4 2 2 d 0)
  | .ccan _ d => some (encFB 4 2 3 d 0)
  | .cqset _ d a => some (encFB 4 2 4 d a)
  | .cpos _ d a ch => some (encFB 4 3 (ch.val * 4) d a)
  | .cwait _ a ch => some (encFB 4 3 (ch.val * 4 + 1) 0 a)
  | .task _ d => some (encFB 4 4 0 d 0)
  | .ttag _ d a => some (encFB 4 4 1 d a)
  | .tshape _ d a => some (encFB 4 4 2 d a)
  | .tqry _ d a => some (encFB 4 4 3 d a)
  | .mtload _ d => some (encFB 4 4 4 d 0)
  | .pload _ pair c b => some (encFA 5 0 0 (low (2 * pair.val)) (low c.val) b)
  | .pdist _ d pair c => some (encFA 5 0 1 d (low (2 * pair.val)) (low c.val))
  | .psetm _ d a => some (encFB 5 1 0 d a)
  | .psets _ d a => some (encFB 5 1 1 d a)
  | .bal _ pair => some (encFB 5 1 2 (low (2 * pair.val)) 0)
  | .balx _ pair k => some (encFB 5 1 3 (low (2 * pair.val)) (low k.toNat))
  | .pmat _ d pair => some (encFB 5 1 4 (low d.val) (low (2 * pair.val)))
  | .pstat _ d => some (encFB 5 1 5 d 0)
  | .pmovToBank _ d x => some (encFB 5 1 6 d (low x.val))
  | .pmovFromBank _ d x => some (encFB 5 1 7 d (low x.val))
  | .mcall _ a => some ({ page := 6, base := lo3 a * 128, h1 := hi a })
  | .clrst _ => some ({ page := 6, base := 1 })
  | .idle _ => some ({ page := 6, base := 2 })
  | .wrcWp _ _ => none
  | .wrcVtype _ _ => none
  | .wrcBs _ _ => none
  | .wrcSmc _ _ => none
  | .wrcFmt _ _ _ => none
  | .rdcSbcnt _ _ => none
  | .rdcKmc _ _ => none
  | .mver => none
  | .qheld => none
  | .fqset => none
  | .tqset => none
  | .maskset => none
  | .treeset => none
  | .cpool => none
  | .kimport => none
  | .krevoke => none
  | .resume => none
  | .kstate => none
  | .tctl => none
  | .ptmap => none
  | .nextAction => none
  | .steal => none
  | .idleRetry => none
  | .headAging => none
  | .fifoArrival _ => none
  | .rankedArrival _ => none
  | .bounceResend => none
  | .messageAccepted _ => none
  | .sendRoomFreed => none
  | .multicastForward _ _ _ => none
  | .budgetExpiry => none
  | .faultRecordDeferred => none
  | .linkValueArrival _ => none
  | .linkCreditReturn _ _ => none
  | .vwHomeLoad _ => none
  | .vwHomePark _ => none
  | .vwHomeStore _ => none
  | .vwHomeInc _ => none
  | .vwHomePeek _ => none
  | .vwHomeReset _ => none
  | .vwReply _ => none
  | .handReservation _ => none
  | .handGrant _ _ => none
  | .bankAttach _ => none
  | .bankReturnPool _ => none
  | .bankRevoked _ => none
  | .scrubComplete _ => none
  | .bankPoison _ _ => none
  | .mmamStep => none
  | .balSweep => none
  | .copyCommand _ => none
  | .cpymVersionReached _ => none
  | .copyLine => none
  | .copyBudgetWindow => none
  | .asterTaskArrival _ => none
  | .asterDependenceMet => none
  | .asterStagingDone _ => none
  | .asterRetirement _ => none
  | .methodTableInstall => none
  | .keyReload => none
  | .directoryOverflow => none
  | .keyInvalidationComplete => none
  | .sliceExpiry => none
  | .hostSubmit => none
  | .getVersion => none
  | .getCapabilities => none
  | .negotiateAlgorithms => none
  | .getDigests => none
  | .getCertificate => none
  | .challenge => none
  | .getMeasurements => none
  | .keyExchange => none
  | .finish => none
  | .keyUpdate => none
  | .heartbeat => none
  | .endSession => none
  | .unsupportedRequest => none
  | .lockInterfaceRequest => none
  | .startInterfaceRequest => none
  | .stopInterfaceRequest => none
  | .getDeviceInterfaceReport => none
  | .keyProg => none
  | .keyActivate => none
  | .keyRetire => none
  | .keyRevoke => none
  | .partCreate => none
  | .partRebuild => none
  | .partDestroy => none
  | .bankRelease => none
  | .ideThresh => none
  | .lifetimeRead => none
  | .debugDisable => none
  | .debugEnable => none
  | .debugResume => none
  | .debugReadRegister => none
  | .debugWriteRegister => none
  | .measLog => none
  | .partResume => none
  | .imgLoad => none
  | .kSetGo => none
  | .ideRekeyDue => none
  | .ideInsecure => none
  | .atsInvalidation => none
  | .atsInvalidationComplete => none
  | .evtailWrite => none
  | .fatalCoreError => none
  | .correctedError => none
  | .meshLinkFailure => none
  | .thermalTrip => none
  | .clockStretch => none
  | .powerOn => none
  | .lifetimeFlush => none
  | .powerDown => none
  | .cirrusLinkBringup => none
  | .illegalSequence _ _ _ => none
  | .fetchFault _ _ => none
  | .accessPerformed _ => none
  | .lossOfPower => none

/-- The m `PXI` words that carry v, index k first. -/
def pxiWords : Nat → Nat → Nat → List HalfWord
  | 0, _, _ => []
  | m + 1, k, v => BitVec.ofNat 16 (0x3C00 + k * 256 + v % 256) :: pxiWords m (k + 1) (v / 256)

/-- The words of a sequence in the order R44 fixes. -/
def encode (i : Instr) : List HalfWord :=
  match i.use, i.enc with
  | some u, some e =>
    let p := u.pfx
    (if p.pxp then [BitVec.ofNat 16 (0xBC00 + e.page * 128 + p.scope.code * 16 + p.order.code * 4)] else [])
    ++ (if p.pxr then [BitVec.ofNat 16 (0x7C00 + p.qs.code * 256 + p.stall / 4 * 8
          + e.h1.toNat * 4 + e.h2.toNat * 2 + e.h3.toNat)] else [])
    ++ pxiWords p.npxi 0 e.ext
    ++ [BitVec.ofNat 16 (p.stall % 4 * 16384 + e.base)]
  | _, _ => []

end Sys2Proof
end

