-- ==== Sys2Proof/Machine/Sched.lean ====
section
/-! DEFINITION. The choice of the next strand, stealing, enclave switches, budgets, and the traps of the
decoder and of instruction fetch (R26, R31 to R37, R61, R62, R93, R130, R131, R276). -/

namespace Sys2Proof.Machine

/-! ### Dispatch (R26, R93, R130) -/

/-- The core takes a strand: a fresh workspace, the record in g0 to g7, the handler's budget. -/
def State.dispatch (s : State) (c : Nat) (e : Entry) (o : Origin) : State :=
  let k := s.core c
  match s.handler k.part k.enc (hIdx e.record) with
  | some he =>
    s.setCore c
      { k with
        run := .running
        h := { hid := k.seqno + 1, record := e.record, src := e.src, seq := e.seq, woken := e.woken
               origin := o, start := k.cyc, arr := e.arr }
        left := he.budget.getD k.cx.hbDef
        pc := he.addr
        slot := none
        g := Vector.ofFn (fun (i : Fin 16) => if i.val < 8 then dword e.record i.val else 0)
        dq := [], bq := [], sbuf := [], spawns := 0, prods := []
        seqno := k.seqno + 1 }
  | none =>
    -- HIDX at dispatch: the record is discarded and its trap record carries the header (R130).
    let h : Handler :=
      { hid := 0, record := e.record, src := e.src, seq := e.seq, woken := e.woken, origin := o, start := k.cyc }
    let r := { k with h := h, slot := none }.trapRec { cause := Cause.hidx, iaddr := some 0 }
    ((s.taskTrapped k.part h).reportTrap c k.part k.enc r).enqueue c .nextAction

/-- A queue's head is taken. -/
def State.takeHead (s : State) (c : Nat) (q : Fin 4) : State :=
  let k := s.core c
  match k.cx.q[q].res with
  | [] => s
  | e :: _ => (s.popQueue c k.enc q).dispatch c e (.queue q)

/-! ### NextAction (R31) -/

/-- Step 1: the first urgent head from the rotating pointer on. -/
def Core.urgentHead (k : Core) : Option (Fin 4) :=
  (List.range 4).findSome? (fun i =>
    let q : Fin 4 := Fin.ofNat 4 (k.urgentRr + i)
    if k.cx.q[q].ready && k.cx.q[q].effPrio k.cyc == 15 then some q else none)

/-- Step 3: the best of q0 to q2 from the rotating pointer on. -/
def Core.bestHead (k : Core) : Option (Fin 4) :=
  (List.range 3).foldl (fun best i =>
    let q : Fin 4 := Fin.ofNat 4 ((k.rr + i) % 3)
    if !k.cx.q[q].ready then best
    else match best with
      | none => some q
      | some b => if k.cx.q[b].effPrio k.cyc < k.cx.q[q].effPrio k.cyc then some q else best) none

def unheld (e : Entry) : Bool := !hHeld e.record

/-- The deque entries, oldest first. -/
def Ctx.allDeque (c : Ctx) : List Entry := c.dspill ++ c.deque

/-- Remove a deque entry. -/
def Ctx.dropDeque (c : Ctx) (arr : Nat) : Ctx :=
  { c with deque := c.deque.filter (fun e => e.arr != arr), dspill := c.dspill.filter (fun e => e.arr != arr) }.refill

/-- The core dispatches nothing for its enclave while it keeps a record or an entry of it (R130, R131). -/
def Core.blockedFor (k : Core) (enc : Nat) : Bool :=
  k.keptRecs.any (fun r => r.1 == enc) || k.keptEntries.any (fun e => e.2 / 4 == enc)

/-- Steps 1 to 5 of R31 on an idle core. -/
def State.choose (s : State) (c : Nat) : State :=
  let k := s.core c
  match k.urgentHead with
  | some q => (s.setCore c { k with urgentRr := (q.val + 1) % 4 }).takeHead c q
  | none =>
    match k.cx.allDeque.reverse.find? unheld with
    | some e => (s.setCore c (k.setCx (k.cx.dropDeque e.arr))).dispatch c e .deque
    | none =>
      match k.bestHead with
      | some q => (s.setCore c { k with rr := (q.val + 1) % 3 }).takeHead c q
      | none => if k.cx.q[(3 : Fin 4)].ready then s.takeHead c 3 else s.enqueue c .steal

/-! ### Enclave switches (R34, R276) -/

/-- The links of a core are cleared and their credits return (R124, R280). -/
def State.clearLinks (s : State) (c : Nat) : State :=
  let k := s.core c
  let s := s.setCore c { k with link := Vector.replicate 4 none }
  (List.range 4).foldl (fun s i =>
    let d : Fin 4 := Fin.ofNat 4 i
    if k.link[d].isSome then
      match neighbour c i with
      | some n => s.enqueue n (.linkCreditReturn n (opposite d))
      | none => s
    else s) s

/-- The message that an arrival-ring entry was (R117, R276). -/
def State.msgOf (s : State) (c enc : Nat) (e : Entry) : Msg :=
  { record := e.record, part := (s.core c).part, enc := enc, site := c, queue := e.queue, src := e.src, seq := e.seq
    chan := e.chan, woken := e.woken, cell := e.cell }

/-- The incoming enclave's arrival ring is drained, each entry as an ordinary arrival (R276 step 4); `back` are those that
bounce, the oldest first. Behind a bounced one its sender's later ones for the same queue bounce too (R117). -/
def State.drainRing (s : State) (c enc : Nat) (back : List Msg) : List Entry → State
  | [] => s.bounceAll [] back
  | e :: es =>
    let m := s.msgOf c enc e
    match if back.any (fun x => x.queue == m.queue && x.chan == m.chan) then none
      else s.arriveQueue c enc m.queue { e with arr := (s.core c).seqno } with
    | some s => s.drainRing c enc back es
    | none => s.drainRing c enc (back ++ [m]) es

/-- The monitor's switch to another enclave (R276). -/
def State.switchTo (s : State) (c enc : Nat) : State :=
  let s := s.clearLinks c
  let k := s.core c
  let ring := (k.cxOf enc).ring
  let k := k.setCxOf enc { k.cxOf enc with ring := [] }
  (s.setCore c { k with enc := enc, preempt := false, sliceStart := k.cyc }).drainRing c enc [] ring

/-- NextAction (R31) on the idle core c. A quiesced core and a core whose partition is being rebuilt
dispatch nothing (R281, R311); a switch waits for the page-1 accesses of the outgoing enclave. -/
def State.next (s : State) (c : Nat) : State :=
  let k := s.core c
  if k.run ≠ .idle || (s.part k.part).rebuilding then s
  else if k.preempt then
    if k.encs ≤ 1 then (s.setCore c { k with preempt := false }).enqueue c .nextAction
    else if s.page1Pending c then s.enqueue c .nextAction
    else (s.switchTo c ((k.enc + 1) % k.encs)).enqueue c .nextAction
  else if k.quiesced || k.blockedFor k.enc then s
  else s.choose c

/-- The core chooses its next action (R31). -/
def execNextAction (s : State) : Res := .next (s.next s.cur)

/-- After 1,024 idle cycles the core runs NextAction again (R32). -/
def execIdleRetry (s : State) : Res :=
  let k := s.me
  if k.run = .idle && k.idleSince + 1024 ≤ k.cyc then
    .next ((s.setMe { k with idleSince := k.cyc }).next s.cur)
  else .next s

/-! ### Stealing (R32) -/

/-- The thief's and the victim's cores lie in one steal domain. -/
def sameDomain (dom a b : Nat) : Bool :=
  if dom = 0 then false
  else if dom = 1 then clusterOf a == clusterOf b
  else if dom = 2 then dieOf a == dieOf b
  else true

/-- The first eight victims in rising logical order from after the thief's own number, wrapping. The spec does not say
whether a failed core that keeps its number uses up a probe; here it is passed over and not counted (log 67). -/
def State.victims (s : State) (c : Nat) : List Nat :=
  let k := s.core c
  let dom := bitsOf k.cx.smc 3 2
  let members := (s.part k.part).members
  ((members.drop (k.lnum + 1) ++ members.take k.lnum).filter (fun v =>
    (s.core v).live && sameDomain dom c v)).take 8

/-- What a victim gives up: the oldest entry neither held nor NS, when two entries are not held. -/
def State.giveUp (s : State) (v enc : Nat) : Option Entry :=
  let k := s.core v
  let all := k.cx.allDeque
  if k.enc = enc && 2 ≤ (all.filter unheld).length then all.find? (fun e => unheld e && !hNs e.record)
  else none

/-- The first victim that gives an entry up, and the entry. -/
def State.stealFrom (s : State) (c : Nat) : Option (Nat × Entry) :=
  (s.victims c).findSome? (fun v => (s.giveUp v (s.core c).enc).map (fun e => (v, e)))

/-- The probes of a thief; when all fail the core idles. -/
def State.steal (s : State) (c : Nat) : State :=
  let k := s.core c
  match s.stealFrom c with
  | some (v, e) =>
    let w := s.core v
    (s.setCore v (w.setCx (w.cx.dropDeque e.arr))).dispatch c e .stolen
  | none => s.setCore c { k with idleSince := k.cyc }

/-- The core probes victims in its steal domain (R32). -/
def execSteal (s : State) : Res :=
  let k := s.me
  if k.run ≠ .idle || k.preempt || k.quiesced || (s.part k.part).rebuilding || k.blockedFor k.enc then .next s
  else .next (s.steal s.cur)

/-! ### Aging, slices, budgets -/

/-- The head entry takes over the cycles it has spent as head (R31). -/
def Queue.settle (q : Queue) (cyc : Nat) : Queue :=
  match q.res with
  | [] => q
  | e :: es => { q with res := { e with wait := q.headWait cyc } :: es, since := cyc }

/-- Head waits of the running enclave's queues are brought up to the core's counter (R31). -/
def execHeadAging (s : State) : Res :=
  let k := s.me
  .next (s.setCx { k.cx with q := k.cx.q.map (fun q => q.settle k.cyc) })

/-- The end of a time slice raises a pre-emption request (R34, R276). -/
def execSliceExpiry (s : State) : Res :=
  let k := s.me
  let n := (s.part k.part).slices.getD k.enc 0
  if k.live && 1 < k.encs && k.sliceStart + n ≤ k.cyc && !k.preempt then
    let s := s.setMe { k with preempt := true }
    .next (s.wakeIdle s.cur)
  else .next s

/-- The budget has run out: the handler traps with BUDGET (R93). -/
def execBudgetExpiry (s : State) : Res :=
  let k := s.me
  let active := match k.run with
    | .running | .waiting _ => true
    | _ => false
  if active && k.left = 0 then s.trapMe Cause.budget 0 else .next s

/-! ### Traps of the decoder and of instruction fetch (R61, R62) -/

/-- A sequence that reaches no legal base word (R61); `x` is the first byte of a failing page that the
sequence crosses into, `inPlace` a branch in a delay slot (R51). -/
def execIllegalSequence (detail : Nat) (x : Option Word) (inPlace : Bool) (s : State) : Res :=
  .next (s.trap s.cur
    { cause := Cause.illegal, detail := detail, faddr := x.getD 0, x := x.isSome, noSlot := inPlace })

/-- The first word of a sequence cannot be fetched (R61, R62). -/
def execFetchFault (va : Word) (cause : Nat) (s : State) : Res := s.trapMe cause va

/-! ### Records kept for want of room (R131) -/

/-- The core's kept records are written in order while there is room. -/
def State.flushCore (s : State) (c p : Nat) : List (Nat × Record) → State
  | [] => s.wakeIdle c
  | (enc, r) :: rs =>
    match s.writeFault p r with
    | some s =>
      let k := s.core c
      ((s.setCore c { k with keptRecs := rs, faultHold := k.faultHold - 1 }).noteRoom p c).flushCore c p rs
    | none => ((s.countCtl p c).setCore c { s.core c with keptRecs := (enc, r) :: rs }).noteFull p c

/-- Zenith's kept records of refused host submissions (R131, R296). -/
def State.flushZenith (s : State) (p : Nat) : List Record → State
  | [] => s
  | r :: rs =>
    match s.writeFault p r with
    | some s =>
      let pt := s.part p
      ((s.setPart p { pt with zrecs := rs }).noteRoom p 1026).flushZenith p rs
    | none => (s.countCtl p 1026).noteFull p 1026

/-- The agents of the executing core's partition write the records they keep, in the order they kept
them, as far as there is room (R131). -/
def execFaultRecordDeferred (s : State) : Res :=
  let k := s.me
  let p := k.part
  let s := if k.keptRecs.isEmpty then s else s.flushCore s.cur p k.keptRecs
  let s := s.flushZenith p (s.part p).zrecs
  .next (s.flushKept p)

end Sys2Proof.Machine
end

