-- ==== Sys2Proof/Machine/System.lean ====
section
/-! DEFINITION. Page 6: the monitor calls and their services, CLRST and IDLE (R278 to R281, R284, R287 to R289,
R307). -/

namespace Sys2Proof.Machine

/-! ### MCALL (R279) -/

/-- The site under which Zenith's own steps come. -/
def zenithSite : Nat := 1026

/-- The step that performs a service. -/
def serviceStep (n : Nat) : Option Instr :=
  match n with
  | 0 => some .mver
  | 1 => some .qheld
  | 2 => some .fqset
  | 3 => some .tqset
  | 4 => some .maskset
  | 5 => some .treeset
  | 6 => some .cpool
  | 7 => some .kimport
  | 8 => some .krevoke
  | 9 => some .resume
  | 10 => some .kstate
  | 11 => some .tctl
  | 12 => some .ptmap
  | _ => none

/-- A service that any enclave may call (Table 19.3). -/
def anyCaller (n : Nat) : Bool := n == 0 || n == 10

/-- g8 to g11, the arguments of a call, as MCALL reads them (R98). -/
def Core.callArgs (k : Core) : List Word := [k.getG 8, k.getG 9, k.getG 10, k.getG 11]

/-- `MCALL` (R279): a release, so it waits for the strand's own accesses. -/
def execMcall (p : Pfx) (a : Fin 16) (s : State) : Res :=
  let n := (s.me.getG a).toNat
  match serviceStep n with
  | none => s.trapMe Cause.svc 0
  | some i =>
    if !anyCaller n && !s.privileged s.cur then s.trapMe Cause.priv 0
    else if s.pendingAccess s.cur false then s.waitCycle
    else (s.enqueue s.cur i).waitFor (.mcall p n s.me.callArgs)

/-- What a service does: a status of Table 19.4 other than 0, or a new state with a value for g9. -/
abbrev Service := State → Core → Except Nat (State × Option Word)

/-- Argument i of the call that a core waits for. -/
def Core.arg (k : Core) (i : Nat) : Word :=
  match k.run with
  | .waiting (.mcall _ _ args) => args.getD i 0
  | _ => 0

/-- The memory that the service of a waiting MCALL reads or writes: spans of addresses. -/
def State.serviceSpans (s : State) : List (Nat × Nat) :=
  let k := s.me
  let a (i : Nat) : Nat := (k.arg i).toNat
  match k.run with
  | .waiting (.mcall _ n _) =>
    let pt := s.part k.part
    if n = 2 then (a 2, 32) :: (if pt.fcap = 0 then [] else [(pt.fctl, 32)])
    else if n = 3 then (a 2, 256 * 2 ^ min 12 (bitsOf (k.arg 1) 27 24)) :: (match sget? (a 0) pt.tqs with
      | some q => [(q.base, 256 * q.cap)]
      | none => [])
    else if n = 4 then [(a 1, 128)]
    else if n = 5 then [(a 1, 8 + 8 * 1024)]
    else if n = 7 then [(a 0, a 2 % 2 ^ 21 + 32), (a 1, a 2 % 2 ^ 21)]
    else if n = 11 then (a 0, 256) :: ((s.tasks.filter (fun t => t.conv && t.ref.part == k.part)).map (fun t => (t.ref.entry, 256)))
    else []
  | _ => []

/-- The key generations that the service of a waiting MCALL uses: those of its memory, and PTMAP the partition's own. -/
def State.serviceUids (s : State) : List Nat :=
  let own := match s.me.run with
    | .waiting (.mcall _ 12 _) => [(s.part s.me.part).key]
    | _ => []
  own ++ s.spanUids s.me.part s.serviceSpans

/-- That memory is free of other agents (R78, R295), and its keys are resident or can be reloaded (R290). -/
def State.serviceFree (s : State) : Bool :=
  s.serviceSpans.all (fun x => s.vaFree s.me.part x.1 x.2)
  && (s.keys.all (fun k => k.2.resident) || s.keysLoad s.serviceUids)

/-- The service that the executing core waits for is performed, and MCALL returns. The monitor uses the keys of the memory
it reads and writes (R290). -/
def State.serve (s : State) (n : Nat) (f : Service) : Res :=
  match s.me.run with
  | .waiting (.mcall p m _) =>
    if m ≠ n then .next s
    else
      let s := s.useKeys s.serviceUids
      match f s s.me with
      | .error st => .next (s.setMe ((s.me.setG 8 (BitVec.ofNat 64 st)).resume p))
      | .ok (s, v) =>
        let k := s.me.setG 8 0
        let k := match v with
          | some w => k.setG 9 w
          | none => k
        .next (s.setMe (k.resume p))
  | _ => .next s

/-- MVER (R279). -/
def execMver (s : State) : Res :=
  s.serve 0 (fun s _ => .ok (s, some (BitVec.ofNat 64 (Config.monitorVersion.toNat % 2 ^ 32))))

/-! ### QHELD (R130, R279) -/

/-- Change an enclave's state on a core. -/
def State.setCxAt (s : State) (c enc : Nat) (x : Ctx) : State := s.setCore c ((s.core c).setCxOf enc x)

/-- The held head of a queue goes or is released: in a FIFO queue it stays the head, in a ranked queue it takes the place of
its rank (R31, R116). A released head ages from now on. DESIGN CHOICE (log 92): in a merging queue a released entry stays beside
another of its KEY. -/
def State.heldHead (s : State) (c enc : Nat) (q : Fin 4) (discard : Bool) : Option State :=
  let k := s.core c
  let cx := k.cxOf enc
  match cx.q[q].res with
  | e :: es =>
    if !hHeld e.record then none
    else if discard then some (s.popQueue c enc q)
    else
      let e := { e with record := setHeld e.record false }
      let res := if cx.q[q].mode = 0 then e :: es else rankInsert e es
      let q' := { cx.q[q].setRes res k.cyc with since := k.cyc }
      some (s.setCxAt c enc { cx with q := cx.q.set q q' })
  | [] => none

/-- The newest held entry of the deque goes, or is released and becomes the newest entry. -/
def State.heldDeque (s : State) (c enc : Nat) (discard : Bool) : Option State :=
  let cx := (s.core c).cxOf enc
  match cx.allDeque.reverse.find? (fun e => hHeld e.record) with
  | none => none
  | some e =>
    let cx := cx.dropDeque e.arr
    some (s.setCxAt c enc (if discard then cx else cx.pushDeque { e with record := setHeld e.record false }))

/-- QHELD (R279). -/
def execQheld (s : State) : Res :=
  s.serve 1 (fun s k =>
    let g9 := k.arg 1
    let enc := bitsOf g9 6 4
    match s.siteOf k.part (k.arg 0).toNat with
    | none => .error 1
    | some c =>
      if bitsOf g9 63 7 ≠ 0 || bitOf g9 2 || (s.core c).encs ≤ enc || 1 < (k.arg 2).toNat
        || (bitOf g9 3 && bitsOf g9 1 0 ≠ 0) then .error 1
      else
        let discard := k.arg 2 == 1
        match if bitOf g9 3 then s.heldDeque c enc discard
          else s.heldHead c enc (Fin.ofNat 4 (bitsOf g9 1 0)) discard with
        | none => .error 2
        | some s => .ok (s.wakeIdle c, none))

/-! ### FQSET, TQSET, MASKSET, TREESET, CPOOL -/

/-- Every page of a region translates, with the versioned flag asked for, if any, and its key serves a store (R283). -/
def State.pagesOk (s : State) (p va len : Nat) (vw : Bool) : Bool :=
  (List.range ((va + len + 4095) / 4096 - va / 4096)).all (fun i =>
    let a := (va / 4096 + i) * 4096
    (s.physFor p a .write).isSome && (match s.leaf p a with
      | some l => !vw || l.vw
      | none => false))

def powerOfTwo (n : Nat) : Bool := n == 2 ^ Nat.log2 n

/-- The fault ring holds a record that is not acknowledged (R131), or its control block's line does not verify, so that the
monitor cannot tell (R286, log 70). -/
def State.ringUsed (s : State) (p : Nat) : Bool :=
  let pt := s.part p
  pt.fcap != 0 && (s.macFails p pt.fctl 32 || match s.physOf p pt.fctl with
    | some ctl => (s.cellVersion ctl + 2 ^ 64 - s.memWord (ctl + 16) 8) % 2 ^ 32 != 0
    | none => false)

/-- Strands are parked on a cell. -/
def State.cellUsed (s : State) (p va : Nat) : Bool :=
  match s.physOf p va with
  | some cell => s.cellHead cell != 0
  | none => false

/-- A service that reads some spans of memory (an address and a length): a line that does not verify counts in the lifetime
records of the core's site, once (R286, log 37). -/
def State.serveRead (s : State) (n : Nat) (spans : List (Nat × Nat)) (f : Service) : Res :=
  match s.me.run with
  | .waiting (.mcall _ m _) =>
    if m = n && spans.any (fun x => s.macFails s.me.part x.1 x.2) then (s.lifeAdd (1 + s.cur) 3 1).serve n f else s.serve n f
  | _ => s.serve n f

/-- What FQSET refuses of its arguments (R131). -/
def State.fqsetBad (s : State) (k : Core) : Bool :=
  let base := (k.arg 0).toNat
  let cap := (k.arg 1).toNat
  let ctl := (k.arg 2).toNat
  base % 64 != 0 || decide (cap < 16) || decide (65536 < cap) || !powerOfTwo cap || ctl % 32 != 0
  || !s.pagesOk k.part base (64 * cap) false || !s.pagesOk k.part ctl 32 true

/-- What FQSET reads: the new control block's line, and the old control block. -/
def State.fqsetReads (s : State) (k : Core) : List (Nat × Nat) :=
  if s.fqsetBad k then []
  else ((k.arg 2).toNat, 32) :: (if (s.part k.part).fcap = 0 then [] else [((s.part k.part).fctl, 32)])

/-- FQSET (R131, R279). A new control block whose line does not verify gives status 1 (log 70). -/
def execFqset (s : State) : Res :=
  s.serveRead 2 (s.fqsetReads s.me) (fun s k =>
    let p := k.part
    let base := (k.arg 0).toNat
    let cap := (k.arg 1).toNat
    let ctl := (k.arg 2).toNat
    if s.fqsetBad k || s.macFails p ctl 32 then .error 1
    else if s.ringUsed p || s.cellUsed p ctl || s.cellUsed p (ctl + 16) then .error 2
    else
      let s := s.put p ctl (leBytes 32 0)
      .ok (s.setPart p { s.part p with fbase := base, fcap := cap, fctl := ctl }, none))

/-- Every entry of a ring is zeroed, its status word at SEQ 0, STATE 7 (R237). -/
def State.formatRing (s : State) (p base : Nat) : Nat → State
  | 0 => s
  | n + 1 =>
    (s.put p (base + 256 * n) (leBytes 128 0 ++ leBytes 8 7 ++ leBytes 120 0)).formatRing p base n

/-- A queue still holds a task in STATE 0 to 3 or 5 (R237). -/
def State.queueUsed (s : State) (p : Nat) (q : TaskQueue) : Bool :=
  (List.range q.cap).any (fun i => !freeTaskState (s.taskState p (q.entry i)))

/-- What TQSET refuses of its arguments (R237). -/
def State.tqsetBad (s : State) (k : Core) : Bool :=
  let v := k.arg 1
  let base := (k.arg 2).toNat
  let lg := bitsOf v 27 24
  decide (64 ≤ (k.arg 0).toNat) || bitsOf v 7 6 != 0 || bitsOf v 15 14 != 0 || bitsOf v 23 22 != 0 || bitsOf v 63 28 != 0
  || decide (2 < bitsOf v 21 20) || decide (lg < 4) || decide (12 < lg) || base % 256 != 0
  || !(s.part k.part).members.any (fun c => clusterOf c == bitsOf v 5 0) || !s.pagesOk k.part base (256 * 2 ^ lg) true

/-- What TQSET reads: the status words of the queue that it replaces. -/
def State.tqsetReads (s : State) (k : Core) : List (Nat × Nat) :=
  if s.tqsetBad k then []
  else match sget? (k.arg 0).toNat (s.part k.part).tqs with
    | some q => (List.range q.cap).map (fun i => (q.entry i + 128, 8))
    | none => []

/-- TQSET (R237, R279). A status word whose line does not verify counts as that of a task (log 70). -/
def execTqset (s : State) : Res :=
  s.serveRead 3 (s.tqsetReads s.me) (fun s k =>
    let p := k.part
    let n := (k.arg 0).toNat
    let v := k.arg 1
    let base := (k.arg 2).toNat
    let lg := bitsOf v 27 24
    let cl := bitsOf v 5 0
    if s.tqsetBad k then .error 1
    else if (match sget? n (s.part p).tqs with
      | some q => s.queueUsed p q
      | none => false) then .error 2
    else
      let q : TaskQueue := { cluster := cl, mask := bitsOf v 13 8, prio := bitsOf v 19 16, target := bitsOf v 21 20
                             cap := 2 ^ lg, base := base, tail := 0, seq := 0 }
      let s := s.formatRing p base (2 ^ lg)
      let s := { s with tasks := s.tasks.filter (fun (t : Task) => t.ref.part != p || t.ref.tq != n) }
      .ok (s.setPart p { s.part p with tqs := sset n q (s.part p).tqs }, none))

/-- n bytes at virtual addresses of a partition, when every page translates and every line verifies (R286). -/
def State.readVa (s : State) (p va : Nat) : Nat → Option (List Byte)
  | 0 => some []
  | n + 1 =>
    match s.physOf p va, s.readVa p (va + 1) n with
    | some key, some bs => if s.macOk key (s.uidAt p va) then some (memRead s.mem key :: bs) else none
    | _, _ => none

/-- MASKSET (R30, R125, R279). -/
def execMaskset (s : State) : Res :=
  s.serveRead 4 [((s.me.arg 1).toNat, 128)] (fun s k =>
    let p := k.part
    let i := (k.arg 0).toNat
    if i = 0 || 64 ≤ i then .error 1
    else match s.readVa p (k.arg 1).toNat 128 with
      | none => .error 1
      | some bs =>
        let m : BitVec 1024 := BitVec.ofNat 1024 (leNat bs)
        if m.toNat / 2 ^ (s.part p).members.length ≠ 0 then .error 1
        else .ok (s.setPart p { s.part p with masks := sset i m (s.part p).masks }, none))

/-- The doublewords of n × 8 bytes. -/
def wordsOf (bs : List Byte) : Nat → List Word
  | 0 => []
  | n + 1 => BitVec.ofNat 64 (leNat (bs.take 8)) :: wordsOf (bs.drop 8) n

def treeNode (e : Word) : Nat × Nat × Bool := (bitsOf e 9 0, bitsOf e 19 10, bitOf e 20)

/-- What TREESET refuses (R307). -/
def State.treeBad (s : State) (p : Nat) (hdr : Word) (es : List Word) : Bool :=
  let ns := es.map treeNode
  bitsOf hdr 63 42 != 0 || bitsOf hdr 31 11 != 0 || es.any (fun e => bitsOf e 63 21 != 0)
  || (match ns.head? with
    | some (n, par, _) => n != bitsOf hdr 41 32 || par != 0x3ff
    | none => true)
  || ns.zipIdx.any (fun x => x.2 != 0 && decide (x.2 ≤ x.1.2.1))
  || !decide ((ns.map (·.1)).Nodup)
  || ns.any (fun n => (s.siteOf p n.1).isNone) || !ns.any (fun n => n.2.2)

/-- The bytes of a tree's list: its header, and the nodes that it counts (R307). -/
def State.treeBytes (s : State) (p a : Nat) : Nat :=
  match s.readVa p a 8 with
  | some bs => 8 + 8 * min 1024 (leNat bs % 2 ^ 11)
  | none => 8

/-- TREESET (R307). -/
def execTreeset (s : State) : Res :=
  s.serveRead 5 [((s.me.arg 1).toNat, s.treeBytes s.me.part (s.me.arg 1).toNat)] (fun s k =>
    let p := k.part
    let t := (k.arg 0).toNat
    let a := (k.arg 1).toNat
    if 256 ≤ t || a % 8 ≠ 0 then .error 1
    else match s.readVa p a 8 with
      | none => .error 1
      | some bs =>
        let hdr : Word := BitVec.ofNat 64 (leNat bs)
        let n := bitsOf hdr 10 0
        if n = 0 || 1024 < n then .error 1
        else match s.readVa p (a + 8) (8 * n) with
          | none => .error 1
          | some bs =>
            let es := wordsOf bs n
            if s.treeBad p hdr es then .error 1
            else
              let tr : Tree := { root := bitsOf hdr 41 32, nodes := es.map treeNode }
              .ok (s.setPart p { s.part p with trees := sset t tr (s.part p).trees }, none))

/-- CPOOL (R125, R279). -/
def execCpool (s : State) : Res :=
  s.serve 6 (fun s k =>
    let p := k.part
    let base := (k.arg 0).toNat
    let n := (k.arg 1).toNat
    if base % 128 ≠ 0 || n < 64 || 2 ^ 20 < n || !s.pagesOk p base (128 * n) false then .error 1
    else if !(s.part p).conts.isEmpty then .error 2
    else .ok (s.setPart p { s.part p with pool := base, poolN := n }, none))

/-! ### Keys (R287 to R289) -/

/-- The key of a partition under an identifier of 1 to 4,095. -/
def State.tenantKey (s : State) (p ident : Nat) : Option (Nat × Key) :=
  s.keys.find? (fun (_, k) => ident != 0 && k.ident == ident && k.part == p && k.st != .empty)

/-- The address of the access that core c has stalled. -/
def State.stalledVa (s : State) (c : Nat) : Word :=
  match s.flight.find? (s.stalledOf c) with
  | some (_, .accessPerformed x) => x.va
  | _ => 0

/-- Cores stalled on a key that is revoked trap (R84). -/
def State.trapStalled (s : State) (uid : Nat) : List Nat → State
  | [] => s
  | c :: cs =>
    let s := if (s.core c).run = .waiting (.key uid) then
        let va := s.stalledVa c
        s.trap c { cause := Cause.keyrevoked, faddr := va }
      else s
    s.trapStalled uid cs

/-- A key is revoked (R288). -/
def State.revokeKey (s : State) (uid : Nat) : State :=
  match sget? uid s.keys with
  | none => s
  | some k =>
    let s := { s with keys := sset uid { k with st := .revoked } s.keys }
    (s.trapStalled uid (s.cores.map (·.1))).enqueue zenithSite .keyInvalidationComplete

/-- A leaf that carries a key identifier, with rights for an access. -/
def State.pageUnder (s : State) (p va kid : Nat) (want : Want) : Option (Nat × Nat) :=
  match s.translate p va want with
  | .ok (l, uid) => if l.kid = kid && keyExists l.key then some (l.key, uid) else none
  | .error _ => none

/-- All pages of a region carry a key identifier. -/
def State.regionUnder (s : State) (p va len kid : Nat) (want : Want) : Bool :=
  (List.range ((va + len + 4095) / 4096 - va / 4096)).all (fun i =>
    (s.pageUnder p (max va ((va / 4096 + i) * 4096)) kid want).isSome)

/-- Plain lines written one after another under the key of their pages. -/
def State.writeLines (s : State) (p va kid : Nat) (bs : List Byte) : Nat → State
  | 0 => s
  | n + 1 =>
    let s := match s.pageUnder p va kid .write with
      | some (key, uid) => s.storeCells (cellsAt key (bs.take 64)) uid
      | none => s
    s.writeLines p (va + 64) kid (bs.drop 64) n

/-- A working key: the first 32 bytes of SHAKE256 of the secret and a label (R287). -/
def workingKey (secret label : List Byte) : List Byte :=
  (leBytes 64 (Config.shake256 (secret ++ label)).toNat).take 32

/-- The ASCII label of the import key. -/
def importLabel : List Byte := [0x69, 0x6d, 0x70, 0x6f, 0x72, 0x74]

/-- The L bytes of plaintext of an envelope that verifies (R289). -/
def openEnvelope (secret env : List Byte) (n : Nat) : Option (List Byte) :=
  let k := workingKey secret importLabel
  if Config.gcmVerifies k env then some ((List.range n).map (Config.gcmByte k env)) else none

/-- KIMPORT (R289). -/
def execKimport (s : State) : Res :=
  s.serveRead 7 [((s.me.arg 0).toNat, (s.me.arg 2).toNat % 2 ^ 21 + 32)] (fun s k =>
    let p := k.part
    let src := (k.arg 0).toNat
    let dst := (k.arg 1).toNat
    let n := (k.arg 2).toNat
    let id := (k.arg 3).toNat
    if id = 0 || 4096 ≤ id || n % 64 ≠ 0 || n = 0 || 2 ^ 20 < n || dst % 64 ≠ 0 then .error 1
    else match s.tenantKey p id with
      | none => .error 4
      | some (_, key) =>
        if key.st ≠ .active then .error 4
        else if !s.regionUnder p src (n + 32) 0 .read || !s.regionUnder p dst n id .write then .error 1
        else match s.readVa p src (n + 32) with
          | none => .error 1
          | some env =>
            match openEnvelope key.secret env n with
            | none => .error 3
            | some bs => .ok (s.writeLines p dst id bs (n / 64), none))

/-- KREVOKE (R279, R288). -/
def execKrevoke (s : State) : Res :=
  s.serve 8 (fun s k =>
    let id := (k.arg 0).toNat
    if id = 0 || 4096 ≤ id then .error 1
    else match s.tenantKey k.part id with
      | none => .error 4
      | some (uid, key) =>
        if key.st = .active || key.st = .retiring then .ok (s.revokeKey uid, none) else .error 4)

/-- The KSTATE codes of Table 19.6. -/
def keyCode (k : KeyState) : Nat :=
  match k with
  | .empty => 0
  | .provisioned => 1
  | .active => 2
  | .retiring => 3
  | .revoked => 4

/-- KSTATE (R279). -/
def execKstate (s : State) : Res :=
  s.serve 10 (fun s k =>
    .ok (s, some (match s.tenantKey k.part (k.arg 0).toNat with
      | some (_, key) => BitVec.ofNat 64 (keyCode key.st)
      | none => 0)))

/-! ### RESUME (R281) -/

/-- RESUME (R279, R281). -/
def execResume (s : State) : Res :=
  s.serve 9 (fun s k =>
    match s.siteOf k.part (k.arg 0).toNat with
    | none => .error 1
    | some c =>
      if !(s.core c).quiesced then .error 2
      else .ok ((s.setCore c { s.core c with quiesced := false }).wakeIdle c, none))

/-! ### TCTL (R244, R279) -/

/-- An entry is the held strand of a task. -/
def isTaskStrand (entry : Nat) (e : Entry) : Bool :=
  e.src == 0x7fe && hHeld e.record && (dword e.record 7).toNat == entry

/-- A queue without the held strand of a task. -/
def Queue.dropStrand (q : Queue) (entry cyc : Nat) : Queue :=
  let res := q.res.filter (fun e => !isTaskStrand entry e)
  let q : Queue := { q.setRes res cyc with spill := q.spill.filter (fun e => !isTaskStrand entry e) }
  let n := q.cap - q.res.length
  if q.mode = 0 then { q.setRes (q.res ++ q.spill.take n) cyc with spill := q.spill.drop n } else q

/-- The method strand's held entry is discarded on the core where it trapped. -/
def State.discardStrand (s : State) (c enc entry : Nat) : State :=
  let k := s.core c
  let cx := k.cxOf enc
  let s := s.setCore c { k.setCxOf enc { cx with q := cx.q.map (fun q => q.dropStrand entry k.cyc) } with
    keptEntries := k.keptEntries.filter (fun e => !isTaskStrand entry e.1) }
  (s.placeKept c).wakeIdle c

/-- Nimbus drops the staging copies of a task. -/
def State.dropStaging (s : State) (r : TaskRef) : State :=
  { s with nimbus := s.nimbus.map (fun (cl, n) =>
      (cl, { n with copies := n.copies.filter (fun (c : Copy) => c.staging != some r) })) }

/-- A task's banks, its held strand and its copies are given up. -/
def State.clearTask (s : State) (t : Task) : State :=
  let r := s.entryRec t.ref.part t.ref.entry
  let s := s.dropStaging t.ref
  let s := s.dropFootprint t.site t.enc (trSlot r) t.banks
  if t.phase = .trapped then s.discardStrand t.site t.enc t.ref.entry else s

/-- A conversion entry not yet retired is cancelled. -/
def State.cancelConv (s : State) (t : Task) : State :=
  ((s.clearTask t).setTask { t with phase := .finished, banks := [] }).setTaskState t.ref.part t.ref.entry 6

/-- The conversion entries of a task that have not retired: they lie in its ring and carry its SEQ (R245). -/
def State.convTasks (s : State) (t : Task) : List Task :=
  s.tasks.filter (fun x => x.conv && !t.conv && x.ref.part == t.ref.part && x.ref.tq == t.ref.tq && x.seq == t.seq
    && x.phase != .finished)

def State.cancelConvs (s : State) : List Task → State
  | [] => s
  | t :: ts => (s.cancelConv t).cancelConvs ts

/-- A resubmitted task starts again from step 1 (R244), and is handled as new: DESIGN CHOICE (log 100), it has no signature until
its lookup gives one. -/
def State.resubmit (s : State) (t : Task) : State :=
  let p := t.ref.part
  let r := s.entryRec p t.ref.entry
  let s := s.put p (t.ref.entry + 136) (leBytes 32 0)
  let t := { t with phase := .coming, resolved := t.conv, banks := [], copies := 0, failed := false, regs := [], recs := []
                    sig := 0, shapes := (List.range 4).map (trShp r) }
  (((s.setTask t).setTaskState p t.ref.entry 0).enqueue (clusterSite (s.clusterOfTask t.ref))
    (.asterTaskArrival t.ref))

/-- The task that TCTL acts on, or its status (R279). -/
def State.tctlTask (s : State) (k : Core) : Except Nat Task :=
  let e := (k.arg 0).toNat
  if !s.isEntry k.part e || 1 < (k.arg 1).toNat then .error 1
  else match s.tasks.find? (fun t => t.ref.part == k.part && t.ref.entry == e) with
    | none => .error 4
    | some t =>
      if t.phase = .finished then .error 4
      else if t.phase = .running || (s.convTasks t).any (fun x => x.phase == .running) then .error 2
      else .ok t

/-- The entries that TCTL reads and writes: the task's own, and those of its conversions. -/
def State.tctlReads (s : State) (k : Core) : List (Nat × Nat) :=
  match s.tctlTask k with
  | .ok t => (t :: s.convTasks t).map (fun x => (x.ref.entry, 256))
  | .error _ => []

/-- TCTL (R279). An entry whose page no longer takes a write, or whose lines do not verify, gives status 1 (log 70). -/
def execTctl (s : State) : Res :=
  s.serveRead 11 (s.tctlReads s.me) (fun s k =>
    match s.tctlTask k with
    | .error st => .error st
    | .ok t =>
      if !(s.tctlReads k).all (fun x => s.pagesOk k.part x.1 x.2 true && !s.macFails k.part x.1 x.2) then .error 1
      else
        let s := (s.clearTask t).cancelConvs (s.convTasks t)
        if k.arg 1 = 1 then .ok (s.resubmit t, none)
        else .ok ((s.setTask { t with phase := .finished, banks := [] }).setTaskState k.part t.ref.entry 6, none))

/-! ### PTMAP (R282 to R284) -/

/-- Extents together cover the bytes from lo to hi. -/
def covers (es : List (Nat × Nat)) : Nat → Nat → Nat → Bool
  | 0, _, _ => false
  | n + 1, lo, hi =>
    match es.find? (fun e => decide (e.1 ≤ lo ∧ lo < e.1 + e.2)) with
    | none => false
    | some e => decide (hi ≤ e.1 + e.2) || covers es n (e.1 + e.2) hi

/-- A leaf that the monitor refuses (R284). -/
def State.leafBad (s : State) (p : Nat) (e : Word) (lvl : Nat) : Bool :=
  let pt := s.part p
  let size := 2 ^ (12 + 9 * lvl)
  let tgt := bitsOf e 51 50
  let lo := tgt * 2 ^ 50 + bitsOf e 49 12 * 4096 / size * size
  let kid := bitsOf e 63 52
  !bitOf e 0 || !bitOf e 1 || bitsOf e 6 2 != 0 || (bitOf e 7 && lvl != 0) || (kid != 0 && tgt == 2)
  || (s.keyOf p kid).isNone
  || (decide (tgt < 2) && !(covers pt.exts pt.exts.length lo (lo + size)
      && (decide (lo + size ≤ pt.tbl) || decide (pt.tbl + pt.tblLen ≤ lo))))

/-- A table entry written under the partition key. -/
def State.putEntry (s : State) (p key : Nat) (e : Nat) : State :=
  s.storeCells (cellsAt key (leBytes 8 e)) (s.part p).key

/-- The table of level `lvl` that covers an address, with missing intermediate tables taken from the table
region: none where an unmapping finds no table; an error is a status. An entry that does not verify gives status 1 (R286,
log 70). -/
def State.tableAt (s : State) (p va lvl : Nat) (make : Bool) : Nat → Nat → Except Nat (State × Option Nat)
  | 0, _ => .error 1
  | up + 1, tbl =>
    if up = lvl then .ok (s, some tbl)
    else
      let idx := if up = 3 then va / 2 ^ 39 % 2 ^ 17 else va / 2 ^ (12 + 9 * up) % 512
      let at_ := tbl + 8 * idx
      let e := s.memWord at_ 8
      if !s.macOk at_ (s.part p).key then .error 1
      else if e % 2 = 1 then
        if natBits e 1 1 = 1 then .error 1
        else s.tableAt p va lvl make up (tierOf tbl * 2 ^ 50 + natBits e 49 12 * 4096)
      else if !make then .ok (s, none)
      else
        let pt := s.part p
        if pt.tblLen < pt.tblNext + 4096 then .error 2
        else
          let new := pt.tbl + pt.tblNext
          let s := s.setPart p { pt with tblNext := pt.tblNext + 4096 }
          let s := s.storeCells (cellsAt new (leBytes 4096 0)) pt.key
          (s.putEntry p at_ (1 + new % 2 ^ 50 / 4096 * 4096)).tableAt p va lvl make up new

/-- On the way to the leaf an entry does not verify, the leaf's own included. -/
def State.pathFails (s : State) (p va lvl : Nat) : Nat → Nat → Bool
  | 0, _ => false
  | up + 1, tbl =>
    if up = lvl then !s.macOk (tbl + 8 * (va / 2 ^ (12 + 9 * lvl) % 512)) (s.part p).key
    else
      let at_ := tbl + 8 * (if up = 3 then va / 2 ^ 39 % 2 ^ 17 else va / 2 ^ (12 + 9 * up) % 512)
      let e := s.memWord at_ 8
      if !s.macOk at_ (s.part p).key then true
      else e % 2 == 1 && natBits e 1 1 == 0 && s.pathFails p va lvl up (tierOf tbl * 2 ^ 50 + natBits e 49 12 * 4096)

/-- One leaf is written, or removed (R284). An old entry that does not verify gives status 1 (log 70). -/
def State.mapLeaf (s : State) (p va lvl : Nat) (e : Word) : Except Nat State :=
  match s.tableAt p va lvl (e != 0) 4 (s.part p).tbl with
  | .error st => .error st
  | .ok (s, none) => .ok s
  | .ok (s, some tbl) =>
    let key := tbl + 8 * (va / 2 ^ (12 + 9 * lvl) % 512)
    if s.macOk key (s.part p).key then .ok (s.putEntry p key e.toNat) else .error 1

/-- PTMAP's operands that the monitor refuses (R284). -/
def State.ptmapBad (s : State) (k : Core) : Bool :=
  let va := (k.arg 0).toNat
  let e := k.arg 1
  let lvl := (k.arg 2).toNat
  decide (2 < lvl) || decide (2 ^ 56 ≤ va) || va % 2 ^ (12 + 9 * lvl) != 0 || (e != 0 && s.leafBad k.part e lvl)

/-- PTMAP's walk meets an entry that does not verify: it counts in the lifetime records of the core's site (R286, R312). -/
def State.countPath (s : State) : State :=
  let k := s.me
  match k.run with
  | .waiting (.mcall _ 12 _) =>
    if !s.ptmapBad k && s.pathFails k.part (k.arg 0).toNat (k.arg 2).toNat 4 (s.part k.part).tbl then s.lifeAdd (1 + s.cur) 3 1 else s
  | _ => s

/-- PTMAP (R284). -/
def execPtmap (s : State) : Res :=
  s.countPath.serve 12 (fun s k =>
    if s.ptmapBad k then .error 1
    else match s.mapLeaf k.part (k.arg 0).toNat (k.arg 2).toNat (k.arg 1) with
      | .error st => .error st
      | .ok s => .ok (s, none))

/-! ### CLRST and IDLE (R280, R281) -/

/-- The state that CLRST sets to its reset values. -/
def Ctx.clear (c : Ctx) : Ctx :=
  let r := Ctx.reset
  { c with v := r.v, k := r.k, vtype := putBits c.vtype 54 48 0, t := r.t, scale := r.scale, tc := r.tc
           acc := r.acc, bf := r.bf, bg := r.bg, bm := r.bm, bn := r.bn, bs := r.bs, resid := r.resid }

/-- `CLRST` (R280). -/
def execClrst (p : Pfx) (s : State) : Res :=
  if !s.privileged s.cur then s.trapMe Cause.priv 0
  else if s.page1Pending s.cur || s.me.bal.isSome then s.waitCycle
  else ((s.setCx s.cx.clear).clearLinks s.cur).finish p

/-- `IDLE` (R281). -/
def execIdle (p : Pfx) (s : State) : Res :=
  if !s.privileged s.cur then s.trapMe Cause.priv 0
  else s.endingWith p false (fun s =>
    let s := s.endHandler s.cur
    s.setMe { s.me with quiesced := true })

end Sys2Proof.Machine
end

