-- ==== Sys2Proof/Machine/Zenith.lean ====
section
/-! DEFINITION. The security complex's requests: the key store, SPDM, TDISP, the framing of vendor-defined
requests, key requests, and debug halt (R110, R287 to R293, R298 to R301). -/

namespace Sys2Proof.Machine

/-! ### Requests (R291, R293, R298) -/

/-- A number of n bytes in a payload. -/
def field (b : List Byte) (i n : Nat) : Nat := leNat ((b.drop i).take n)

/-- The vendor-defined request of a payload (Table 19.13, R110). -/
def vendorInstr (b : List Byte) : Instr :=
  let code := field b 0 2
  if code = 1 then .keyProg
  else if code = 2 then .keyActivate
  else if code = 3 then .keyRetire
  else if code = 4 then .keyRevoke
  else if code = 0x10 then .partCreate
  else if code = 0x11 then .partRebuild
  else if code = 0x12 then .partDestroy
  else if code = 0x13 then .bankRelease
  else if code = 0x14 then .ideThresh
  else if code = 0x15 then .lifetimeRead
  else if code = 0x16 then
    let act := field b 6 1
    if act = 0 then .debugDisable
    else if act = 1 then .debugEnable
    else if act = 2 then .debugResume
    else if act = 3 then .debugReadRegister
    else if act = 4 then .debugWriteRegister
    else .unsupportedRequest
  else if code = 0x17 then .measLog
  else if code = 0x18 then .partResume
  else if code = 0x19 then .imgLoad
  else .unsupportedRequest

/-- An SPDM request by its code (Table 19.7; the codes are DSP0274's, log 22). -/
def spdmInstr (code : Nat) : Instr :=
  if code = 0x84 then .getVersion
  else if code = 0xe1 then .getCapabilities
  else if code = 0xe3 then .negotiateAlgorithms
  else if code = 0x81 then .getDigests
  else if code = 0x82 then .getCertificate
  else if code = 0x83 then .challenge
  else if code = 0xe0 then .getMeasurements
  else if code = 0xe4 then .keyExchange
  else if code = 0xe5 then .finish
  else if code = 0xe9 then .keyUpdate
  else if code = 0xe8 then .heartbeat
  else if code = 0xec then .endSession
  else .unsupportedRequest

/-- A TDISP message by its code (R293; the codes are the TDISP specification's, log 23). -/
def tdispInstr (code : Nat) : Instr :=
  if code = 0x83 then .lockInterfaceRequest
  else if code = 0x84 then .getDeviceInterfaceReport
  else if code = 0x86 then .startInterfaceRequest
  else if code = 0x87 then .stopInterfaceRequest
  else .unsupportedRequest

def requestInstr (r : HostReq) : Instr :=
  match r.msg with
  | .spdm code _ => spdmInstr code
  | .tdisp code => tdispInstr code
  | .vendor _ _ b => vendorInstr b

/-- The step that what reached the device brings about. -/
def inboxInstr : HostIn → Instr
  | .req r => requestInstr r
  | .image r _ => requestInstr r
  | .write _ => .hostSubmit
  | .evtail _ => .evtailWrite
  | .ksetgo _ _ => .kSetGo
  | .ats _ => .atsInvalidation
  | .cirrus _ => .cirrusLinkBringup
  | .corrected _ => .correctedError
  | .stretch _ _ => .clockStretch

def hostRequest : HostIn → Option (HostReq × Option Manifest)
  | .req r => some (r, none)
  | .image r m => some (r, some m)
  | _ => none

def State.reply (s : State) (x : HostOut) : State := { s with out := s.out ++ [x] }

/-- An SPDM ERROR (0x7f) with an error code. -/
def State.spdmError (s : State) (r : HostReq) (code : Nat) : State :=
  s.reply (.spdm r.iface 0x7f [BitVec.ofNat 8 code, 0])

/-- A TDISP_ERROR (0x7f) with an error code and detail. -/
def State.tdispError (s : State) (r : HostReq) (code detail : Nat) : State :=
  s.reply (.tdisp r.iface 0x7f (leBytes 4 code ++ leBytes 4 detail))

/-- A request is served, or waits at Zenith. -/
inductive Served where
  | done (s : State)
  | wait (s : State)

/-- The oldest request is taken when it is this one (R293); before the device is ready it is answered with
ERROR Busy (R305). -/
def State.request (s : State) (i : Instr) (f : State → HostReq → Option Manifest → Served) : Res :=
  match s.zen.inbox with
  | [] => .next s
  | x :: xs =>
    match hostRequest x with
    | none => .next s
    | some (r, man) =>
      if requestInstr r ≠ i then .next s
      else
        let s' : State := { s with zen := { s.zen with inbox := xs } }
        if !s.zen.ready then .next (s'.spdmError r 3)
        else match f s' r man with
          | .done s' => .next s'
          | .wait s' => .next { s' with zen := { s'.zen with inbox := x :: s'.zen.inbox } }

/-- An SPDM request's parameters. -/
def State.spdm (s : State) (i : Instr) (f : State → HostReq → List Byte → State) : Res :=
  s.request i (fun s r _ => .done (match r.msg with
    | .spdm _ b => f s r b
    | _ => s))

/-- The secured session that carries a request, when it is a session of this interface and requester. -/
def State.sessionOf (s : State) (r : HostReq) : Option (Nat × Session) :=
  match r.sess with
  | none => none
  | some n =>
    match sget? n s.zen.sessions with
    | some x => if x.iface = r.iface && x.requester = r.requester then some (n, x) else none
    | none => none

/-- The request comes inside a session that is set up. -/
def State.inSession (s : State) (r : HostReq) : Bool :=
  match s.sessionOf r with
  | some (_, x) => x.up
  | none => false

/-! ### SPDM (R291, R292) -/

/-- How far an interface's SPDM connection is: 1 versions, 2 capabilities, 3 algorithms. -/
def State.spdmStage (s : State) (iface : Nat) : Nat := sget 0 iface s.zen.spdm
def State.setStage (s : State) (iface n : Nat) : State :=
  { s with zen := { s.zen with spdm := sset iface n s.zen.spdm } }

/-- GET_VERSION: 1.2 and 1.3. -/
def execGetVersion (s : State) : Res :=
  s.spdm .getVersion (fun s r _ =>
    (s.setStage r.iface 1).reply (.spdm r.iface 0x04 [0, 2, 0x00, 0x12, 0x00, 0x13]))

/-- The capability flags that Table 19.7 implies. -/
def capabilityFlags : Nat := 0x2 + 0x4 + 0x10 + 0x40 + 0x80 + 0x200 + 0x2000 + 0x4000

/-- GET_CAPABILITIES. -/
def execGetCapabilities (s : State) : Res :=
  s.spdm .getCapabilities (fun s r _ =>
    if s.spdmStage r.iface ≠ 1 then s.spdmError r 4
    else (s.setStage r.iface 2).reply (.spdm r.iface 0x61 (leBytes 4 capabilityFlags)))

/-- The algorithms of Table 19.7: measurement hash, signature, hash, key agreement, AEAD. -/
def algorithmBits : List (Nat × Nat) := [(4, 0x40), (4, 0x800), (4, 0x20), (2, 0x10), (2, 0x2)]

/-- What is offered and supported. -/
def selectAlgs : List (Nat × Nat) → List Byte → List Byte
  | [], _ => []
  | (n, m) :: as, b => leBytes n (field b 0 n &&& m) ++ selectAlgs as (b.drop n)

/-- NEGOTIATE_ALGORITHMS. -/
def execNegotiateAlgorithms (s : State) : Res :=
  s.spdm .negotiateAlgorithms (fun s r b =>
    if s.spdmStage r.iface ≠ 2 then s.spdmError r 4
    else (s.setStage r.iface 3).reply (.spdm r.iface 0x63 (selectAlgs algorithmBits b)))

/-- A request that follows the negotiation. -/
def State.negotiated (s : State) (i : Instr) (f : State → HostReq → List Byte → State) : Res :=
  s.spdm i (fun s r b => if s.spdmStage r.iface ≠ 3 then s.spdmError r 4 else f s r b)

/-- GET_DIGESTS: certificate slots 0 and 1. -/
def execGetDigests (s : State) : Res :=
  s.negotiated .getDigests (fun s r _ =>
    s.reply (.spdm r.iface 0x01 (3 :: (Config.certDigest 0 ++ Config.certDigest 1))))

/-- GET_CERTIFICATE: slot, offset and length of a portion. -/
def execGetCertificate (s : State) : Res :=
  s.negotiated .getCertificate (fun s r b =>
    let slot := field b 0 1
    if 1 < slot then s.spdmError r 1
    else
      let rest := (Config.certificate slot).drop (field b 1 2)
      let part := rest.take (field b 3 2)
      s.reply (.spdm r.iface 0x02
        (BitVec.ofNat 8 slot :: (leBytes 2 part.length ++ leBytes 2 (rest.length - part.length) ++ part))))

/-- CHALLENGE. -/
def execChallenge (s : State) : Res :=
  s.negotiated .challenge (fun s r b =>
    let slot := field b 0 1
    if 1 < slot then s.spdmError r 1
    else s.reply (.spdm r.iface 0x03 (Config.certDigest slot ++ Config.signature b)))

/-- A measurement block as an interface's requester sees it (Table 19.8). -/
def State.block (s : State) (iface i : Nat) : Option Record :=
  if i = 1 then some Config.block1
  else if i = 2 then some Config.block2
  else if i = 3 then some Config.block3
  else if iface = 0 then none
  else match sget? (iface - 1) s.parts with
    | none => none
    | some pt => if i = 4 then some pt.block4 else if i = 5 then some pt.block5 else none

/-- The blocks of a measurement operation: 0xff all, 0 none, else one. -/
def State.blocks (s : State) (iface op : Nat) : List (Nat × Record) :=
  ([1, 2, 3, 4, 5] : List Nat).filterMap (fun i =>
    if op = 0xff || op = i then (s.block iface i).map (fun r => (i, r)) else none)

/-- GET_MEASUREMENTS: attribute bit 0 asks for a signature. -/
def execGetMeasurements (s : State) : Res :=
  s.negotiated .getMeasurements (fun s r b =>
    let op := field b 1 1
    let bs := s.blocks r.iface op
    if bs.isEmpty && op ≠ 0 then s.spdmError r 1
    else
      let n := if op = 0 then (s.blocks r.iface 0xff).length else bs.length
      let body := BitVec.ofNat 8 n :: bs.flatMap (fun x => BitVec.ofNat 8 x.1 :: leBytes 64 x.2.toNat)
      if field b 0 1 % 2 = 0 then s.reply (.spdm r.iface 0x60 body)
      else
        let s : State := if s.zen.measured.contains r.requester then s
          else { s with zen := { s.zen with measured := s.zen.measured ++ [r.requester] } }
        s.reply (.spdm r.iface 0x60 (body ++ Config.signature (b ++ body))))

/-- KEY_EXCHANGE: at most eight sessions at once. -/
def execKeyExchange (s : State) : Res :=
  s.negotiated .keyExchange (fun s r b =>
    match (List.range 8).find? (fun n => (sget? n s.zen.sessions).isNone) with
    | none => s.spdmError r 0x0a
    | some n =>
      let x : Session := { iface := r.iface, requester := r.requester, up := false, reqKeys := 0, rspKeys := 0 }
      State.reply { s with zen := { s.zen with sessions := sset n x s.zen.sessions } }
        (.spdm r.iface 0x64 (leBytes 2 n ++ Config.keyShare b)))

/-- A session ends, and its provisioned keys become empty (R288). -/
def State.closeSession (s : State) (n : Nat) : State :=
  { s with zen := { s.zen with sessions := sdel n s.zen.sessions }
           keys := s.keys.filter (fun x => !(x.2.st == .provisioned && x.2.sess == n)) }

/-- FINISH: the session is set up when the requester's proof verifies. -/
def execFinish (s : State) : Res :=
  s.spdm .finish (fun s r b =>
    match s.sessionOf r with
    | none => s.spdmError r 2
    | some (n, x) =>
      if x.up then s.spdmError r 4
      else if !Config.finishOk b then (s.closeSession n).spdmError r 6
      else State.reply { s with zen := { s.zen with sessions := sset n { x with up := true } s.zen.sessions } }
        (.spdm r.iface 0x65 []))

/-- A request of a session that is set up. -/
def State.secured (s : State) (i : Instr) (f : State → HostReq → List Byte → Nat → Session → State) : Res :=
  s.spdm i (fun s r b =>
    match s.sessionOf r with
    | none => s.spdmError r 2
    | some (n, x) => if !x.up then s.spdmError r 4 else f s r b n x)

/-- KEY_UPDATE: 1 updates the requester's keys, 2 both directions' keys, 3 verifies the new key. -/
def execKeyUpdate (s : State) : Res :=
  s.secured .keyUpdate (fun s r b n x =>
    let op := field b 0 1
    if op = 0 || 3 < op then s.spdmError r 1
    else
      let x : Session := { x with reqKeys := if op < 3 then x.reqKeys + 1 else x.reqKeys
                                  rspKeys := if op = 2 then x.rspKeys + 1 else x.rspKeys }
      State.reply { s with zen := { s.zen with sessions := sset n x s.zen.sessions } }
        (.spdm r.iface 0x69 (b.take 2)))

/-- HEARTBEAT. -/
def execHeartbeat (s : State) : Res :=
  s.secured .heartbeat (fun s r _ _ _ => s.reply (.spdm r.iface 0x68 []))

/-- END_SESSION. -/
def execEndSession (s : State) : Res :=
  s.secured .endSession (fun s r _ n _ => (s.closeSession n).reply (.spdm r.iface 0x6c []))

/-- A vendor-defined response (R298). -/
def vendorPayload (b : List Byte) (st : Nat) (res : List Byte) : List Byte :=
  leBytes 2 (field b 0 2) ++ leBytes 2 st ++ res

/-- The StandardID that names PCI-SIG (DSP0274). -/
def pciSig : Nat := 3

/-- A vendor-defined request names PCI-SIG and this device's vendor; another is no supported request (R291, R298). -/
def State.ourVendor (s : State) (std vid : Nat) : Bool := std == pciSig && vid == s.zen.vendorId

/-- Any other request (R291, R293, R298). -/
def execUnsupportedRequest (s : State) : Res :=
  s.request .unsupportedRequest (fun s r _ => .done (match r.msg with
    | .spdm _ _ => s.spdmError r 7
    | .tdisp _ => s.tdispError r 7 0
    | .vendor std vid b =>
      if s.ourVendor std vid then s.reply (.vendor r.iface std vid (vendorPayload b 1 [])) else s.spdmError r 7))

/-! ### TDISP (R293) -/

/-- A TDISP message to a partition's interface. -/
def State.tdisp (s : State) (i : Instr) (f : State → HostReq → Nat → Part → State) : Res :=
  s.request i (fun s r _ => .done (
    if r.iface = 0 then s.tdispError r 0x101 0
    else match sget? (r.iface - 1) s.parts with
      | none => s.tdispError r 0x101 0
      | some pt => f s r (r.iface - 1) pt))

def Part.bound (pt : Part) : Bool := pt.iface == .locked || pt.iface == .run

/-- A stream's counters start with its new keys; its thresholds stay (R294). -/
def State.resetStream (s : State) (st : Nat) : State :=
  { s with zen := { s.zen with
      subs := s.zen.subs.map (fun (k, (x : SubStream)) =>
        if k / 4 = st then (k, { x with count := 0, due := false }) else (k, x))
      insecure := s.zen.insecure.filter (· != st) } }

/-- LOCK_INTERFACE_REQUEST. -/
def execLockInterfaceRequest (s : State) : Res :=
  s.tdisp .lockInterfaceRequest (fun s r p pt =>
    if pt.iface ≠ .unlocked then s.tdispError r 4 0
    else if 63 ≤ (s.parts.filter (fun x => x.2.bound)).length then s.tdispError r 0xff 1
    else match (List.range 63).find? (fun n => (sget? (n + 1) s.zen.streams).isNone) with
      | none => s.tdispError r 0xff 1
      | some n =>
        let s := s.resetStream (n + 1)
        let s : State := { s with zen := { s.zen with streams := sset (n + 1) r.iface s.zen.streams } }
        (s.setPart p { pt with iface := .locked, lockedBy := some r.requester }).reply (.tdisp r.iface 0x03 []))

/-- START_INTERFACE_REQUEST. -/
def execStartInterfaceRequest (s : State) : Res :=
  s.tdisp .startInterfaceRequest (fun s r p pt =>
    if pt.iface ≠ .locked then s.tdispError r 4 0
    else if pt.lockedBy ≠ some r.requester then s.tdispError r 0x102 0
    else (s.setPart p { pt with iface := .run }).reply (.tdisp r.iface 0x06 []))

/-- The streams bound to an interface are free again. -/
def State.freeStreams (s : State) (iface : Nat) : State :=
  { s with zen := { s.zen with streams := s.zen.streams.filter (fun x => x.2 != iface) } }

/-- STOP_INTERFACE_REQUEST. -/
def execStopInterfaceRequest (s : State) : Res :=
  s.tdisp .stopInterfaceRequest (fun s r p pt =>
    ((s.setPart p { pt with iface := .unlocked, lockedBy := none }).freeStreams r.iface).reply
      (.tdisp r.iface 0x07 []))

/-- GET_DEVICE_INTERFACE_REPORT: the interface's one range of addresses, BAR 2 (log 23). -/
def execGetDeviceInterfaceReport (s : State) : Res :=
  s.tdisp .getDeviceInterfaceReport (fun s r _ pt =>
    if !pt.bound then s.tdispError r 4 0
    else s.reply (.tdisp r.iface 0x04 (leBytes 4 1 ++ leBytes 8 0 ++ leBytes 4 5 ++ leBytes 4 0x20000)))

/-! ### Vendor-defined requests (R298, R301) -/

/-- What a vendor-defined request gives: a new state with results, a status, a status with an error counted, or a wait. -/
inductive Verdict where
  | ok (s : State) (res : List Byte)
  | refuse (st : Nat)
  | fail (s : State) (st : Nat)
  | wait (s : State)

/-- A vendor-defined request: malformed first, then the channel, then what it does. A status other than 0
changes nothing. -/
def State.vendor (s : State) (i : Instr) (len : Nat) (bad : List Byte → Bool)
    (chan : State → HostReq → List Byte → Bool) (f : State → HostReq → List Byte → Option Manifest → Verdict) : Res :=
  s.request i (fun s r man => match r.msg with
    | .vendor std vid b =>
      let answer (s : State) (st : Nat) (res : List Byte) : Served :=
        .done (s.reply (.vendor r.iface std vid (vendorPayload b st res)))
      if !s.ourVendor std vid then .done (s.spdmError r 7)
      else if b.length ≠ len || field b 2 2 ≠ 0 || bad b then answer s 1 []
      else if !chan s r b then answer s 5 []
      else match f s r b man with
        | .ok s res => answer s 0 res
        | .refuse st => answer s st []
        | .fail s st => answer s st []
        | .wait s => .wait s
    | _ => .done s)

/-- Inside a secured session on physical function 0. -/
def mgmtChannel (s : State) (r : HostReq) (_ : List Byte) : Bool := r.iface == 0 && s.inSession r
/-- Inside a secured session on the interface of the partition that the request names. -/
def keyChannel (s : State) (r : HostReq) (b : List Byte) : Bool := r.iface == 1 + field b 4 2 && s.inSession r

/-- The partition exists. -/
def State.exists (s : State) (p : Nat) : Bool := (sget? p s.parts).isSome

/-! ### The key store (R287, R288, R290) -/

/-- A new key enters the store. -/
def State.addKey (s : State) (k : Key) : State :=
  { s with keys := touchKeys (sset s.nextUid k s.keys) [s.nextUid], nextUid := s.nextUid + 1 }

/-- Zenith reloads the key that the executing core waits for, and the core goes on (R39, R290). -/
def execKeyReload (s : State) : Res :=
  match s.me.run with
  | .waiting (.key uid) =>
    match sget? uid s.keys with
    | none => .next (s.setMe { s.me with run := .running })
    | some k =>
      if k.resident then .next (s.setMe { s.me with run := .running })
      else match s.keyRoom with
        | none => .next (s.enqueue s.cur .keyReload)
        | some s =>
          let s : State := { s with keys := residentKey s.keys uid k }
          .next (s.setMe { s.me with run := .running })
  | _ => .next s

/-- A revoked key becomes empty; the stores under it that have not reached their homes are discarded. -/
def execKeyInvalidationComplete (s : State) : Res :=
  match s.keys.find? (fun x => x.2.st == .revoked) with
  | none => .next s
  | some (uid, _) =>
    .next { s with keys := sdel uid s.keys
                   flight := s.flight.filter (fun (_, i) => match i with
                     | .accessPerformed x => !(x.uid == uid && (match x.kind with
                       | .store _ | .vstore _ => true
                       | _ => false))
                     | _ => true) }

/-- An identifier of a key request: 1 to 4,095, or 0 where Zenith may choose. -/
def idBad (zero : Bool) (b : List Byte) : Bool :=
  decide (255 < field b 4 2) || decide (4095 < field b 6 2) || (!zero && field b 6 2 == 0)

/-- The partition's interface is in RUN. -/
def State.ifaceRun (s : State) (p : Nat) : Bool := s.exists p && (s.part p).iface == .run

/-- The identifier names a key, device-wide. -/
def State.idUsed (s : State) (id : Nat) : Bool := s.keys.any (fun x => x.2.ident == id)

/-- KEY_PROG (R110, R288, R290). Where Zenith may choose, it takes the lowest free identifier (log 75). -/
def State.keyProg (s : State) (r : HostReq) (b : List Byte) : Verdict :=
  let p := field b 4 2
  let want := field b 6 2
  if !s.ifaceRun p || !s.zen.measured.contains r.requester || !(s.part p).dbg.isEmpty then .refuse 4
  else match (List.range 4095).find? (fun i => !s.idUsed (i + 1)) with
    | none => .refuse 2
    | some low =>
      let id := if want = 0 then low + 1 else want
      if want ≠ 0 && s.idUsed want then .refuse 4
      else if 192 ≤ (s.keys.filter (fun x => x.2.resident && !x.2.evictable)).length then .refuse 2
      else match s.keyRoom with
        | none => .wait s
        | some s =>
          let k : Key := { ident := id, part := p, st := .provisioned, m4 := BitVec.ofNat 512 (field b 8 64)
                           m5 := BitVec.ofNat 512 (field b 72 64), secret := (b.drop 136).take 32, resident := true
                           used := 0, sess := r.sess.getD 0 }
          .ok (s.addKey k) (leBytes 2 id)

/-- KEY_PROG. -/
def execKeyProg (s : State) : Res :=
  s.vendor .keyProg 168 (idBad true) keyChannel (fun s r b _ => s.keyProg r b)

/-- A request on the key that a payload names. -/
def State.keyRequest (s : State) (b : List Byte) (f : Nat → Key → Verdict) : Verdict :=
  let p := field b 4 2
  if !s.ifaceRun p then .refuse 4
  else match s.tenantKey p (field b 6 2) with
    | none => .refuse 4
    | some (uid, k) => f uid k

def State.setKeySt (s : State) (uid : Nat) (k : Key) (st : KeyState) : State :=
  { s with keys := sset uid { k with st := st } s.keys }

/-- KEY_ACTIVATE. -/
def execKeyActivate (s : State) : Res :=
  s.vendor .keyActivate 8 (idBad false) keyChannel (fun s r b _ => s.keyRequest b (fun uid k =>
    let pt := s.part k.part
    if k.st ≠ .provisioned || some k.sess ≠ r.sess then .refuse 4
    else if k.m4 ≠ pt.block4 || k.m5 ≠ pt.block5 then .refuse 6
    else .ok (s.setKeySt uid k .active) []))

/-- KEY_RETIRE. -/
def execKeyRetire (s : State) : Res :=
  s.vendor .keyRetire 8 (idBad false) keyChannel (fun s _ b _ => s.keyRequest b (fun uid k =>
    if k.st ≠ .active then .refuse 4 else .ok (s.setKeySt uid k .retiring) []))

/-- KEY_REVOKE. -/
def execKeyRevoke (s : State) : Res :=
  s.vendor .keyRevoke 8 (idBad false) keyChannel (fun s _ b _ => s.keyRequest b (fun uid k =>
    if k.st = .provisioned then .ok { s with keys := sdel uid s.keys } []
    else if k.st = .active || k.st = .retiring then .ok (s.revokeKey uid) []
    else .refuse 4))

/-! ### Debug halt (R110) -/

/-- Reserved bytes and ranges of DEBUG_CTL. -/
def debugBad (b : List Byte) : Bool := field b 7 1 != 0 || decide (6 < field b 5 1)

/-- DEBUG_CTL on a partition that holds the enclave. -/
def State.debugCtl (s : State) (i : Instr) (bad : List Byte → Bool) (f : State → List Byte → Nat → Nat → Verdict) : Res :=
  s.vendor i 20 (fun b => debugBad b || bad b) mgmtChannel (fun s _ b _ =>
    let p := field b 4 1
    let e := field b 5 1
    if !s.exists p then .refuse 4
    else if (s.part p).encs ≤ e then .refuse 1
    else f s b p e)

/-- BRK completes as a NOP: its cycles pass and the core goes on. -/
def Core.resumeHalt (k : Core) : Core :=
  match k.run with
  | .halted n => { k with run := .running }.tick n
  | _ => k

def State.resumeHalted (s : State) (e : Nat) : List Nat → State
  | [] => s
  | c :: cs =>
    let k := s.core c
    (if k.enc = e then s.setCore c k.resumeHalt else s).resumeHalted e cs

/-- DEBUG_CTL action 0. -/
def execDebugDisable (s : State) : Res :=
  s.debugCtl .debugDisable (fun _ => false) (fun s _ p e =>
    let s := s.resumeHalted e (s.part p).members
    let pt := s.part p
    .ok (s.setPart p { pt with dbg := pt.dbg.filter (· != e) }) [])

/-- DEBUG_CTL action 1. -/
def execDebugEnable (s : State) : Res :=
  s.debugCtl .debugEnable (fun _ => false) (fun s _ p e =>
    if s.keys.any (fun x => x.2.part == p && x.2.ident != 0
        && (x.2.st == .provisioned || x.2.st == .active || x.2.st == .retiring)) then .refuse 4
    else
      let pt := s.part p
      .ok (s.setPart p { pt with dbg := if pt.dbg.contains e then pt.dbg else pt.dbg ++ [e] }) [])

/-- The halted core of the enclave that a payload names. -/
def State.haltedCore (s : State) (b : List Byte) (p e : Nat) : Option Nat :=
  match s.siteOf p (field b 8 2) with
  | none => none
  | some c =>
    match (s.core c).run with
    | .halted _ => if (s.core c).enc = e then some c else none
    | _ => none

/-- DEBUG_CTL action 2. -/
def execDebugResume (s : State) : Res :=
  s.debugCtl .debugResume (fun _ => false) (fun s b p e =>
    match s.haltedCore b p e with
    | none => .refuse 4
    | some c => .ok (s.setCore c (s.core c).resumeHalt) [])

/-- A register that action 3 reads. -/
def readBad (b : List Byte) : Bool :=
  let n := field b 11 1
  if field b 10 1 = 0 then decide (15 < n)
  else if field b 10 1 = 1 then n == 15 || decide (31 < n)
  else true

/-- DEBUG_CTL action 3: reading a register of access RC clears it. -/
def execDebugReadRegister (s : State) : Res :=
  s.debugCtl .debugReadRegister readBad (fun s b p e =>
    match s.haltedCore b p e with
    | none => .refuse 4
    | some c =>
      let k := s.core c
      let n := field b 11 1
      if field b 10 1 = 0 then .ok s (leBytes 8 (k.getG (Fin.ofNat 16 n)).toNat)
      else .ok (s.setCore c (k.setCx (k.cx.afterRead n))) (leBytes 8 (k.cr n).toNat))

/-- DEBUG_CTL action 4. -/
def execDebugWriteRegister (s : State) : Res :=
  s.debugCtl .debugWriteRegister (fun b => field b 10 1 != 0 || decide (15 < field b 11 1)) (fun s b p e =>
    match s.haltedCore b p e with
    | none => .refuse 4
    | some c => .ok (s.setCore c ((s.core c).setG (Fin.ofNat 16 (field b 11 1)) (BitVec.ofNat 64 (field b 12 8)))) [])

end Sys2Proof.Machine
end

