-- ==== Sys2Proof/Machine/Partition.lean ====
section
/-! DEFINITION. Partitions: the management requests that build, rebuild, load and destroy them, and the
host's submissions (R22 to R24, R158, R275, R281, R292, R296, R297, R300, R308, R311). -/

namespace Sys2Proof.Machine

/-! ### Numbering (R22 to R24) -/

/-- The physical fields of CID. -/
def physCid (c : Nat) : Nat := siteX c + siteY c * 32 + dieOf c * 2 ^ 10 + clusterOf c * 2 ^ 14

/-- CID of a core in a partition. -/
def cidWord (p lnum c : Nat) : Word := BitVec.ofNat 64 (physCid c + lnum * 2 ^ 20 + p * 2 ^ 32)

/-- One direction of NBR: the valid bit and the neighbour's logical number. -/
def nbrField (members : List Nat) (c dir : Nat) : Nat :=
  match neighbour c dir with
  | none => 0
  | some n =>
    match members.findIdx? (· == n) with
    | some i => (0x8000 + i) * 2 ^ (48 - 16 * dir)
    | none => 0

/-- NBR of a site. -/
def nbrWord (members : List Nat) (c : Nat) : Word :=
  BitVec.ofNat 64 (nbrField members c 0 + nbrField members c 1 + nbrField members c 2 + nbrField members c 3)

/-- The sites of a rectangle, row by row from the south, west to east. -/
def rectSites (x0 y0 w h : Nat) : List Nat :=
  (List.range h).flatMap (fun j => (List.range w).map (fun i => (y0 + j) * 32 + x0 + i))

/-- The core at a live site outside any partition. -/
def bareCore (k : Core) (c : Nat) : Core :=
  { Core.reset with run := .idle, cid := BitVec.ofNat 64 (physCid c), cyc := k.cyc, seqno := k.seqno, sharers := k.sharers }

/-! ### PART_CREATE (R300) -/

def tierSize (t : Nat) : Nat := if t = 0 then 2 ^ 39 else 2 ^ 40

/-- Extent i of a PART_CREATE payload: physical key and length. -/
def extentAt (b : List Byte) (i : Nat) : Nat × Nat :=
  let d := field b (56 + 16 * i) 8
  (natBits d 51 50 * 2 ^ 50 + natBits d 49 0, field b (64 + 16 * i) 8)

def extents (b : List Byte) : List (Nat × Nat) := (List.range (field b 48 1)).map (extentAt b)

/-- An extent outside its range, or an unused one that is not zero. -/
def extentBad (b : List Byte) (i : Nat) : Bool :=
  let d := field b (56 + 16 * i) 8
  let (key, len) := extentAt b i
  if field b 48 1 ≤ i then d != 0 || len != 0
  else d / 2 ^ 51 != 0 || natBits d 49 0 % 2 ^ 21 != 0 || len % 2 ^ 21 != 0 || len == 0
    || decide (tierSize (tierOf key) < key % 2 ^ 50 + len)

/-- Two extents share bytes. -/
def overlap (a b : Nat × Nat) : Bool := decide (a.1 < b.1 + b.2 ∧ b.1 < a.1 + a.2)

def selfOverlap : List (Nat × Nat) → Bool
  | [] => false
  | x :: xs => xs.any (overlap x) || selfOverlap xs

/-- The time slice of enclave e. -/
def sliceBad (b : List Byte) (e : Nat) : Bool :=
  let n := field b (20 + 4 * e) 4
  if e < field b 6 1 then decide (n < 1024) else n != 0

/-- The region of HBM4E for 4,096 blobs of 128 bytes that Zenith reserves at boot: no partition's memory covers any of it,
so that no translation reaches it (R284, R290). -/
def blobRegion : Nat × Nat := (Config.blobBase % (2 ^ 39 - 2 ^ 19), 2 ^ 19)

/-- A field of Table 19.14 outside its range, as far as the payload alone shows it. -/
def createBad (b : List Byte) : Bool :=
  let count := field b 6 1
  count == 0 || decide (7 < count) || decide (count ≤ field b 5 1) || field b 7 1 != 0
  || field b 10 1 == 0 || field b 11 1 == 0 || decide (32 < field b 8 1 + field b 10 1)
  || decide (32 < field b 9 1 + field b 11 1) || decide (1023 < field b 12 2)
  || decide (field b 14 2 < 64) || decide (4096 < field b 14 2)
  || decide (field b 16 2 < 64) || decide (4096 < field b 16 2) || field b 18 2 != 0
  || (List.range 7).any (sliceBad b) || field b 48 1 == 0 || decide (16 < field b 48 1) || field b 49 7 != 0
  || (List.range 16).any (extentBad b) || selfOverlap (extents b)
  || (extents b).any (overlap blobRegion)
  || field b 312 8 % 65536 != 0 || field b 312 8 == 0 || decide ((extentAt b 0).2 < field b 312 8)

/-- A bank of the site's field is attached or in transit (R158). -/
def State.fieldHeld (s : State) (c : Nat) : Bool :=
  s.banks.any (fun (b, x) => homeOf b == c && (match x.st with
    | .attached _ _ _ | .toReceiver _ _ _ _ | .toPool _ => true
    | _ => false))

/-- The free bank with the highest index below n in a site's field. -/
def State.lastFree (s : State) (site : Nat) : Nat → Option Nat
  | 0 => none
  | n + 1 => if (s.bank (site * 512 + n)).st = .free then some (site * 512 + n) else s.lastFree site n

/-- The monitor attaches the banks of an enclave's workspaces, slots 496 to 511, out of the core's own field from its
highest bank down (R139, log 9). -/
def State.attachWorkspaces (s : State) (c : Nat) : List (Nat × Nat) → State
  | [] => s
  | (e, n) :: xs =>
    match s.lastFree c 384 with
    | some b => (s.attach c e n b).attachWorkspaces c xs
    | none => s

/-- The workspace slots of the first n enclaves. -/
def workspaceSlots (encs : Nat) : List (Nat × Nat) :=
  (List.range encs).flatMap (fun e => (List.range 16).map (fun i => (e, 496 + i)))

/-- A bank of the site's field scrubs. -/
def State.fieldScrubs (s : State) (c : Nat) : Bool := s.banks.any (fun (b, x) => homeOf b == c && x.st == .scrubbing)

/-- A core joins a partition; it dispatches nothing before PART_RESUME (log 25). -/
def State.join (s : State) (p encs : Nat) (members : List Nat) (c lnum : Nat) : State :=
  (s.setCore c { bareCore (s.core c) c with
    part := p, lnum := lnum, cid := cidWord p lnum c, nbr := nbrWord members c, encs := encs, quiesced := true
    sliceStart := (s.core c).cyc, idleSince := (s.core c).cyc }).attachWorkspaces c (workspaceSlots encs)

def State.joinAll (s : State) (p encs : Nat) (members : List Nat) : List (Nat × Nat) → State
  | [] => s
  | (c, n) :: cs => (s.join p encs members c n).joinAll p encs members cs

/-- A range of memory becomes zero. -/
def State.zeroRange (s : State) (lo len : Nat) : State :=
  let inside (a : Nat) : Bool := decide (lo ≤ a ∧ a < lo + len)
  { s with mem := s.mem.filter (fun c => !inside c.1), seals := s.seals.filter (fun x => !inside (x.1 * 64)) }

/-- Measurement block 4: rectangle, enclaves, supervisor (Table 19.8, log 25). -/
def createBlock4 (b : List Byte) : Record := Config.shake256 ((b.drop 5).take 9)

/-- The partition that a payload asks for. -/
def newPart (b : List Byte) (members : List Nat) (key : Nat) : Part :=
  let ext := extents b
  { Part.empty with
    sup := field b 12 2, supEnc := field b 5 1, encs := field b 6 1
    x0 := field b 8 1, y0 := field b 9 1, w := field b 10 1, h := field b 11 1
    slices := (List.range (field b 6 1)).map (fun e => field b (20 + 4 * e) 4)
    spill := field b 14 2, ringCap := field b 16 2, exts := ext, tbl := (extentAt b 0).1
    tblLen := field b 312 8, tblNext := 2 ^ 20, pageNext := field b 312 8, members := members, key := key
    block4 := createBlock4 b }

/-- The 32-byte secret that Zenith makes for a partition key (R287): a free value. -/
def State.freshSecret (s : State) : List Byte :=
  (List.range 4).flatMap (fun i => leBytes 8 (Config.freeWord (s.free + i)).toNat)

/-- PART_CREATE. It waits while a field of its cores scrubs, since the monitor then has no bank for the workspaces. -/
def State.partCreate (s : State) (b : List Byte) : Verdict :=
  let p := field b 4 1
  let sites := (rectSites (field b 8 1) (field b 9 1) (field b 10 1) (field b 11 1)).filter (fun c => (s.core c).live)
  if sites.length ≤ field b 12 2 then .refuse 1
  else if s.exists p then .refuse 2
  else if sites.any (fun c => s.partOfSite c != 256 || s.fieldHeld c)
    || s.parts.any (fun x => x.2.exts.any (fun e => (extents b).any (overlap e))) then .refuse 3
  else if field b 312 8 < 2 ^ 20 then .refuse 2
  else if sites.any s.fieldScrubs then .wait s
  else match s.keyRoom with
    | none => .wait s
    | some s =>
      let key : Key := { ident := 0, part := p, st := .active, m4 := 0, m5 := 0, secret := s.freshSecret, resident := true
                         used := 0, sess := 0 }
      let pt := newPart b sites s.nextUid
      let s : State := { s with free := s.free + 4 }
      let s := ((s.addKey key).setPart p pt).zeroRange pt.tbl (2 ^ 20)
      .ok (s.joinAll p pt.encs sites sites.zipIdx) [BitVec.ofNat 8 p]

/-- PART_CREATE (R300). -/
def execPartCreate (s : State) : Res :=
  s.vendor .partCreate 320 createBad mgmtChannel (fun s _ b _ => s.partCreate b)

/-! ### Leaving (R141, R158) -/

/-- The free banks of a site's field. -/
def State.freeField (s : State) (c : Nat) : List Nat :=
  ((List.range 384).map (c * 512 + ·)).filter (fun b => (s.bank b).st = .free)

/-- As a core leaves its partition, every free bank of its field scrubs (R141, R158). -/
def State.scrubField (s : State) (c : Nat) : State :=
  let bs := s.freeField c
  { s with banks := s.banks.filter (fun x => !bs.contains x.1)
             ++ bs.map (fun b => (b, ({ st := .scrubbing, owner := s.partOfSite c } : Bank)))
           flight := s.flight ++ bs.map (fun b => (c, Instr.scrubComplete b)) }

/-- A bank attached to a site's core, or in transit to or from it (R155). -/
def heldBy (c : Nat) (b : Bank) : Bool :=
  match b.st with
  | .attached x _ _ => x == c
  | .toReceiver g x _ _ => g == c || x == c
  | .toPool g => g == c
  | _ => false

/-- The banks that a core holds are revoked. -/
def State.revokeHeld (s : State) (c : Nat) : State :=
  (s.banks.filter (fun x => heldBy c x.2)).foldl (fun s x => s.revokeBank x.1) s

/-- The core at a site leaves its partition: its banks are revoked, its links' credits return, its field scrubs. -/
def State.leave (s : State) (c : Nat) : State :=
  let s := ((s.revokeHeld c).clearLinks c).scrubField c
  let k := s.core c
  s.setCore c (if k.live then bareCore k c else { k with part := 256 })

def State.leaveAll (s : State) : List Nat → State
  | [] => s
  | c :: cs => (s.leave c).leaveAll cs

/-- The partition that a step under way belongs to. -/
def instrPart : Instr → Option Nat
  | .fifoArrival m | .rankedArrival m | .messageAccepted m | .multicastForward m _ _ => some m.part
  | .accessPerformed x => some x.part
  | .vwHomeLoad r | .vwHomePark r | .vwHomeStore r | .vwHomeInc r | .vwHomePeek r | .vwHomeReset r => some r.part
  | .handReservation r | .handGrant r _ | .bankAttach r => some r.part
  | .copyCommand r | .cpymVersionReached r => some r.part
  | .bankRevoked r => some r.part
  | .asterTaskArrival r | .asterStagingDone r | .asterRetirement r => some r.part
  | _ => none

/-- A strand message of a partition under way. -/
def isMessage : Instr → Bool
  | .fifoArrival _ | .rankedArrival _ | .messageAccepted _ | .multicastForward _ _ _ => true
  | _ => false

/-! ### PART_DESTROY (R297) -/

/-- The keys of a partition are revoked (Table 19.6). -/
def State.revokeKeys (s : State) (p : Nat) (tenant : Bool) : State :=
  (s.keys.filter (fun x => x.2.part == p && (x.2.st == .active || x.2.st == .retiring)
    && (!tenant || x.2.ident != 0))).foldl (fun s x => s.revokeKey x.1) s

/-- The partition's banks that are not free are revoked; frozen ones stay frozen. -/
def State.revokeBanks (s : State) (p : Nat) : State :=
  (s.banks.filter (fun x => x.2.owner == p && x.2.st != .free)).foldl (fun s x => s.revokeBank x.1) s

/-- PART_DESTROY. -/
def State.partDestroy (s : State) (p : Nat) : State :=
  let pt := s.part p
  let s := { s with flight := s.flight.filter (fun x => instrPart x.2 != some p) }
  let s := (s.revokeBanks p).leaveAll pt.members
  let s := (s.revokeKeys p false).freeStreams (1 + p)
  { s with
    parts := sdel p s.parts
    tasks := s.tasks.filter (fun (t : Task) => t.ref.part != p)
    nimbus := s.nimbus.map (fun (cl, (n : Nimbus)) =>
      (cl, { n with
        copies := n.copies.filter (fun (c : Copy) => c.cmd.part != p)
        used := n.used.filter (fun x => keyPart x.1 != p), old := n.old.filter (fun x => keyPart x.1 != p) })) }

/-- PART_DESTROY (R297). -/
def execPartDestroy (s : State) : Res :=
  s.vendor .partDestroy 5 (fun _ => false) mgmtChannel (fun s _ b _ =>
    let p := field b 4 1
    if !s.exists p then .refuse 4 else .ok (s.partDestroy p) [])

/-! ### PART_REBUILD (R34, R297, R311) -/

/-- An enclave's queues, deque and arrival ring without their strands. -/
def Ctx.noStrands (c : Ctx) : Ctx :=
  { c with q := c.q.map (fun (q : Queue) => { q with res := [], spill := [] })
           deque := [], dspill := [], ring := [] }

/-- A core that stays: renumbered, without strands, its quiescence ended. Its links and banks stay (R157). -/
def State.restay (s : State) (p : Nat) (members : List Nat) (c lnum : Nat) : State :=
  let k := s.core c
  (s.setCore c { k with
    lnum := lnum, cid := cidWord p lnum c, nbr := nbrWord members c
    ctx := k.ctx.map (fun (e, x) => (e, x.noStrands))
    quiesced := false, preempt := false, keptEntries := [], engine := [], sbuf := []
    sliceStart := k.cyc, idleSince := k.cyc }).enqueue c .nextAction

def State.restayAll (s : State) (p : Nat) (members : List Nat) : List (Nat × Nat) → State
  | [] => s
  | (c, n) :: cs => (s.restay p members c n).restayAll p members cs

/-- The pool is emptied, and the cells' lists with it. -/
def State.dropConts (s : State) (p : Nat) : State :=
  let s := (s.part p).conts.foldl (fun s (_, c) =>
    match s.physOf p c.cell.toNat with
    | some cell => if c.pending then s else s.setCell p cell c.cell (s.cellValue cell) (s.cellVersion cell) 0
    | none => s) s
  s.setPart p { s.part p with conts := [] }

/-- Strand messages of the partition do not survive a rebuild (R311); everything else under way does. -/
def survives (p : Nat) (x : Nat × Instr) : Bool := !(isMessage x.2 && instrPart x.2 == some p)

/-- The rebuild, once every core of the partition is idle (R311). It keeps those members that are live and not left out;
the spec does not say whether it takes back a live site of the rectangle that an earlier rebuild left out (log 72). -/
def State.rebuild (s : State) (p : Nat) (out : Nat → Bool) : State :=
  let pt := s.part p
  let s := { s with flight := s.flight.filter (survives p) }
  let s := s.dropConts p
  let stay := pt.members.filter (fun c => (s.core c).live && !out c)
  let s := s.leaveAll (pt.members.filter (fun c => !stay.contains c))
  let s : State :=
    { s with tasks := s.tasks.map (fun (t : Task) =>
        if t.ref.part = p && t.phase = .running then { t with phase := .trapped } else t) }
  let s := s.setPart p { s.part p with members := stay, trees := [], rebuilding := false
                                       credits := Vector.replicate 4 64 }
  s.restayAll p stay stay.zipIdx

/-- A core that a rebuild still waits for: it runs a handler. -/
def Core.busy (k : Core) : Bool :=
  match k.run with
  | .running | .waiting _ | .halted _ => true
  | _ => false

/-- A rebuild that was accepted waits for running handlers (R34). -/
def State.rebuildWaits (s : State) (p : Nat) : Bool := (s.part p).members.any (fun c => (s.core c).busy)

/-- PART_REBUILD (R297, R311). -/
def execPartRebuild (s : State) : Res :=
  s.vendor .partRebuild 136 (fun b => field b 5 3 != 0) mgmtChannel (fun s _ b _ =>
    let p := field b 4 1
    if !s.exists p then .refuse 4
    else if s.rebuildWaits p then .wait (s.setPart p { s.part p with rebuilding := true })
    else .ok (s.rebuild p (fun c => field b (8 + c / 8) 1 / 2 ^ (c % 8) % 2 == 1)) [])

/-! ### PART_RESUME and IMG_LOAD (R281, R299, R308) -/

def State.resumeAll (s : State) : List Nat → State
  | [] => s
  | c :: cs =>
    let s := if (s.core c).live then (s.setCore c { s.core c with quiesced := false }).wakeIdle c else s
    s.resumeAll cs

/-- PART_RESUME (R281, R299). -/
def execPartResume (s : State) : Res :=
  s.vendor .partResume 5 (fun _ => false) mgmtChannel (fun s _ b _ =>
    let p := field b 4 1
    if !s.exists p then .refuse 4 else .ok (s.resumeAll (s.part p).members) [])

/-- Every core of the partition is quiesced (R281). -/
def State.quiescent (s : State) (p : Nat) : Bool :=
  (s.part p).members.all (fun c => !(s.core c).live || ((s.core c).quiesced && !(s.core c).busy))

/-- The place at an offset into the extents taken one after another. -/
def extentPlace : List (Nat × Nat) → Nat → Option Nat
  | [], _ => none
  | (k, len) :: es, n => if n < len then some (k + n) else extentPlace es (n - len)

/-- The leaf of an image page: its section's attributes (Table 1.5), KEY 0. -/
def imageLeaf (sec key : Nat) : Word :=
  let x := if sec = 0 then 2 ^ 10 else 0
  let w := if 2 ≤ sec then 2 ^ 9 else 0
  let v := if sec = 3 then 2 ^ 11 else 0
  BitVec.ofNat 64 (3 + 2 ^ 8 + x + w + v + key % 2 ^ 50 / 4096 * 4096 + tierOf key * 2 ^ 50)

/-- The physical page of an image page: the one mapped there when it lies in the partition's memory (R308), or the next of
that memory. -/
def State.imagePage (s : State) (p va : Nat) : Option (State × Nat) :=
  let pt := s.part p
  match (s.leaf p va).filter (fun l => pt.exts.any (fun e => e.1 ≤ l.key && decide (l.key < e.1 + e.2))) with
  | some l => some (s, l.key)
  | none =>
    match extentPlace pt.exts pt.pageNext with
    | some key => some (s.setPart p { pt with pageNext := pt.pageNext + 4096 }, key)
    | none => none

/-- The measurement of a partition changes: its tenant keys are revoked (Table 19.6). -/
def State.extendBlock5 (s : State) (p : Nat) : State :=
  let pt := s.part p
  let h := Config.shake256 pt.image
  (s.setPart p { pt with
    block5 := Config.shake256 (leBytes 64 pt.block5.toNat ++ leBytes 64 h.toNat)
    mlog := pt.mlog ++ [h], image := [] }).revokeKeys p true

/-- The handler table, format entries and banks that the loader installs (R13, R26, R164, log 6). A format entry that the image
does not name holds zero. -/
def State.install (s : State) (p : Nat) (m : Manifest) : State :=
  let pt := s.part p
  let hs := m.handlers.foldl (fun t (i, a, b) => sset (m.enc * 4096 + i) { addr := a, budget := b } t) pt.handlers
  let s := s.setPart p { pt with handlers := hs }
  let s := pt.members.foldl (fun s c =>
    let cx := (s.core c).cxOf m.enc
    s.setCxAt c m.enc { cx with fmt := m.fmts.foldl (fun f (i, v) => f.set (Fin.ofNat 16 i) (fmtWord v))
                                  (Vector.replicate 16 0) }) s
  m.banks.foldl (fun s (n, slot) =>
    match s.siteOf p n with
    | none => s
    | some c =>
      if slotState (s.slotEntry c m.enc slot) ≠ 0 || 496 ≤ slot then s
      else match s.freeBank c with
        | some b => s.attach c m.enc slot b
        | none => s) s

/-- One page of an image is written and mapped. -/
def State.imgLoad (s : State) (b : List Byte) (man : Option Manifest) : Verdict :=
  let p := field b 4 1
  let va := field b 8 8
  if !s.exists p || !s.quiescent p then .refuse 4
  else if !s.vaFree p va 4096 || !s.keyLoads (s.part p).key then .wait s
  else if s.pathFails p va 0 4 (s.part p).tbl then .fail (s.lifeAdd 0 4 1) 1
  else match (s.useKey (s.part p).key).imagePage p va with
    | none => .refuse 2
    | some (s1, key) =>
      match s1.mapLeaf p va 0 (imageLeaf (field b 5 1) key) with
      | .error st => .refuse st
      | .ok s1 =>
        let s1 := s1.storeCells (cellsAt key (b.drop 16)) (s1.part p).key
        let pt := s1.part p
        let s1 := s1.setPart p { pt with image := pt.image ++ b.drop 16 }
        if field b 6 1 = 0 then .ok s1 []
        else
          let s1 := s1.extendBlock5 p
          .ok (match man with
            | some m => s1.install p m
            | none => s1) []

/-- IMG_LOAD (R299, R308). -/
def execImgLoad (s : State) : Res :=
  s.vendor .imgLoad 4112 (fun b => decide (4 < field b 5 1) || decide (1 < field b 6 1) || field b 7 1 != 0
    || field b 8 8 % 4096 != 0 || decide (2 ^ 56 ≤ field b 8 8)) mgmtChannel (fun s _ b man => s.imgLoad b man)

/-! ### The other management requests -/

/-- BANK_RELEASE (R155). -/
def execBankRelease (s : State) : Res :=
  s.vendor .bankRelease 8 (fun b => decide (2 ^ 19 ≤ field b 4 4) || decide (384 ≤ field b 4 4 % 512)) mgmtChannel
    (fun s _ b _ =>
      let n := field b 4 4
      if (s.bank n).st = .frozen then .ok (s.scrub n) [] else .refuse 4)

/-- MEAS_LOG (R292): on any interface, inside or outside a session. -/
def execMeasLog (s : State) : Res :=
  s.vendor .measLog 10 (fun b => field b 5 1 != 0 || field b 8 2 == 0 || decide (32 < field b 8 2))
    (fun _ _ _ => true) (fun s _ b _ =>
      let p := field b 4 1
      if !s.exists p then .refuse 4
      else
        let log := (s.part p).mlog
        .ok s (leBytes 2 log.length ++ ((log.drop (field b 6 2)).take (field b 8 2)).flatMap (fun r => leBytes 64 r.toNat)))

/-! ### Host submissions (R296) -/

/-- A host write is discarded and counted in HDROP, which saturates. -/
def State.hostDrop (s : State) (p : Nat) : State :=
  let pt := s.part p
  s.setPart p { pt with hdrop := min (2 ^ 64 - 1) (pt.hdrop + 1) }

/-- The trap record of a refused submission. -/
def hostRecord (p : Nat) (pt : Part) (cause : Nat) (r : Record) : Record :=
  trapRecord 0 0 0 cause 0x7ff pt.hcount 0 0 (BitVec.ofNat 64 (p * 2 ^ 32)) (hdrOf r) 0 0

/-- Zenith writes the record, or keeps it, or beyond 16 discards it (R131). -/
def State.reportHost (s : State) (p : Nat) (r : Record) : State :=
  let keep (s : State) : State :=
    let pt := s.part p
    if 16 ≤ pt.zrecs.length then s.hostDrop p else s.setPart p { pt with zrecs := pt.zrecs ++ [r] }
  if (s.part p).zrecs.isEmpty then
    match s.writeFault p r with
    | some s => (s.noteRoom p 1026).flushKept p
    | none => (keep (s.countCtl p 1026)).noteFull p 1026
  else keep s

/-- A strand of the host enters the supervisor core's queue. -/
def State.hostStrand (s : State) (p : Nat) (q : Fin 4) (r : Record) : State :=
  let pt := s.part p
  if pt.credits[q] = 0 then s.hostDrop p
  else match s.siteOf p pt.sup with
    | none => s.hostDrop p
    | some c =>
      match s.recordBad p pt.supEnc r with
      | some cause => s.reportHost p (hostRecord p pt cause r)
      | none =>
        let m : Msg := { record := setOrig r (Config.freeWord s.free).toNat, part := p, enc := pt.supEnc, site := c, queue := q
                         src := 0x7ff, seq := pt.hcount, chan := 1026, woken := false }
        let s : State := { s with free := s.free + 1 }
        (s.setPart p { pt with credits := pt.credits.set q (pt.credits[q] - 1)
                               hcount := (pt.hcount + 1) % 2 ^ 32 }).enqueue c (s.arrivalOf m)

/-- A posted write into BAR 2 of a partition's virtual function. One of the size and alignment of a strand past the arrival
window is ignored, as HSUB's access has it (R17, R296; log 33). -/
def State.hostWrite (s : State) (w : HostWrite) : State :=
  if !s.ifaceRun w.part then s
  else if w.bytes.length ≠ 64 || w.off % 64 ≠ 0 then s.hostDrop w.part
  else if 0x4000 ≤ w.off then s
  else s.hostStrand w.part (Fin.ofNat 4 (w.off / 4096)) (BitVec.ofNat 512 (leNat w.bytes))

/-- The host has posted writes that are not performed yet. -/
def State.postedByHost (s : State) : Bool := s.zen.posted.any (fun w => w.1)

/-- A 64-byte host write submits a strand (R296); it waits for the host's earlier posted writes (R72, R83). -/
def execHostSubmit (s : State) : Res :=
  match s.zen.inbox with
  | .write w :: xs => .next (if s.postedByHost then s else State.hostWrite { s with zen := { s.zen with inbox := xs } } w)
  | _ => .next s

end Sys2Proof.Machine
end

