-- ==== Sys2Proof/Machine/Device.lean ====
section
/-! DEFINITION. The device: boot and power, errors, the event ring, the lifetime records, and the host link
(R39, R155, R294, R295, R302, R304 to R313). -/

namespace Sys2Proof.Machine

/-! ### Errors (R155, R309) -/

/-- A fatal device error: every core stops, and a reset is required. -/
def State.fatalDevice (s : State) (site : Nat) : State :=
  let s : State := { s with cores := s.cores.map (fun (c, (k : Core)) => (c, if k.live then { k with run := .stopped } else k)) }
  let s := (s.event .fatalDevice site 0xff 0).lifeAdd 0 2 1
  { s with zen := { s.zen with dead := true } }

/-- A bank freezes: every slot that named it reads empty, and its copies end (R155, R232). -/
def State.freeze (s : State) (b : Nat) : State :=
  let s := (s.dropBank b).stopBankCopies b
  s.setBank b { s.bank b with st := .frozen }

/-- A reservation that a failed core granted is lost. -/
def lostGrant (c : Nat) (x : Nat × Instr) : Nat × Instr :=
  match x.2 with
  | .handGrant r _ => if r.tgt = c then (x.1, .handGrant r false) else x
  | _ => x

/-- A fatal error of the core at a site (R155, R309, R311). -/
def State.fatalCore (s : State) (c : Nat) : State :=
  let k := s.core c
  if !k.live then s
  else
    let held := (s.banks.filter (fun x => heldBy c x.2)).map (·.1)
    let s := held.foldl (fun s b => s.freeze b) s
    let s := (s.setCore c { s.core c with run := .failed, prods := [] })
    let s : State := { s with flight := s.flight.map (lostGrant c) }
    (s.event .fatalCore c (if k.part = 256 then 0xff else k.part) 0).lifeAdd (1 + c) 1 1

/-- A core suffers a fatal error (R155, R309). -/
def execFatalCoreError (s : State) : Res := .next (s.fatalCore s.cur)
/-- A mesh link fails 16 retries in a row (R309). -/
def execMeshLinkFailure (s : State) : Res := .next (s.fatalDevice s.cur)
/-- A junction temperature of 115 °C (R313). -/
def execThermalTrip (s : State) : Res := .next (s.fatalDevice s.cur)
/-- A directory overflow at the executing core's slice: its monitor hart extends the sharer list in its own data, which no
strand can see (R39, R277). Which line and which sharer is free: the model has no directory. -/
def execDirectoryOverflow (s : State) : Res :=
  let line := (Config.freeWord s.free).toNat
  let site := (Config.freeWord (s.free + 1)).toNat % 1024
  .next { s.setMe { s.me with sharers := s.me.sharers ++ [(line, site)] } with free := s.free + 2 }

/-! ### The monitor hart's PMP entries (R277) -/

/-- A partition structure that a service call names: the addresses that it covers. -/
inductive PartStructure where
  | pool (base len : Nat)
  | faultRing (base len ctl : Nat)
  | taskRing (base len : Nat)
  | image (base len : Nat)
  | tablePage (va : Nat)
deriving DecidableEq, Repr

/-- A region of Table 19.1. -/
inductive PmpRegion where
  | monitorCode | monitorData | saveArea (enc : Nat) | engineQueues (enc : Nat) | named (x : PartStructure)
deriving DecidableEq, Repr

/-- The access that an entry gives the monitor. -/
inductive PmpAccess where
  | none | readExecute | readWrite
deriving DecidableEq, Repr

/-- The service that the monitor performs for the running enclave. -/
def Core.serviced (k : Core) : Option Nat :=
  match k.run with
  | .waiting (.mcall _ n _) => some n
  | _ => none

/-- The one partition structure that the call in service names (Tables 19.1 and 19.3). -/
def Core.named (k : Core) : Option PartStructure :=
  let a (i : Nat) : Nat := (k.arg i).toNat
  match k.serviced with
  | some 2 => some (.faultRing (a 0) (64 * a 1) (a 2))
  | some 3 => some (.taskRing (a 2) (256 * 2 ^ bitsOf (k.arg 1) 27 24))
  | some 4 => some (.image (a 1) 128)
  | some 5 => some (.image (a 1) (8 + 8 * 1024))
  | some 6 => some (.pool (a 0) (128 * a 1))
  | some 11 => some (.taskRing (a 0) 256)
  | some 12 => some (.tablePage (a 0))
  | _ => none

/-- The regions of entry i of a core's monitor: entry 3 + 2e reaches, during a service call of enclave e, also the structure
that the call names. -/
def Core.pmpRegions (k : Core) (i : Nat) : List PmpRegion :=
  if i = 0 then [.monitorCode]
  else if i = 1 then [.monitorData]
  else if i % 2 = 0 then [.saveArea ((i - 2) / 2)]
  else .engineQueues ((i - 3) / 2) ::
    (if k.enc = (i - 3) / 2 then (k.named.map PmpRegion.named).toList else [])

/-- The monitor's access through entry i of its core. A switch is one step of the model, so that no save area is open
between steps. -/
def Core.pmp (k : Core) (i : Nat) : PmpAccess :=
  if i = 0 then .readExecute
  else if i = 1 then .readWrite
  else if i % 2 = 0 then .none
  else if k.serviced.isSome && k.enc == (i - 3) / 2 then .readWrite else .none

/-- The record of corrections per bank lies beside the lifetime records: bank b counts in field b. -/
def bankRecord : Nat := 2 ^ 18

/-- A corrected error is counted (R309, R312). Table 20.4 names no place for a replayed Cirrus flit: record 0 counts it in its
next field (log 53). -/
def State.corrected (s : State) (k : ErrKind) : State :=
  match k with
  | .bank b => (s.lifeAdd (1 + homeOf b) 0 1).lifeAdd (bankRecord + b / 64) (b % 64) 1
  | .cache c | .slice c | .queue c | .stratus c => s.lifeAdd (1 + c) 0 1
  | .cirrus _ => s.lifeAdd 0 3 1

/-- A corrected error costs time only and is counted (R309). -/
def execCorrectedError (s : State) : Res :=
  match s.zen.inbox with
  | .corrected k :: xs => .next (State.corrected { s with zen := { s.zen with inbox := xs } } k)
  | _ => .next s

/-- The bucket of a stretch length or a count: 0, 1, 2–3, 4–7, … -/
def logBucket (n : Nat) : Nat := if n = 0 then 0 else Nat.log2 n + 1

/-- A die stretches its clock: no count of cycles changes, and the stretch is recorded (R312, R313). -/
def execClockStretch (s : State) : Res :=
  match s.zen.inbox with
  | .stretch die n :: xs =>
    let s : State := { s with zen := { s.zen with inbox := xs } }
    .next (if n = 0 || 18 ≤ die then s else s.lifeAdd (2067 + die) (16 + min 10 (Nat.log2 n)) 1)
  | _ => .next s

/-- A sample of a die's temperature and supply droop (R312). -/
def State.sense (s : State) (die temp droop : Nat) : State :=
  if 18 ≤ die then s
  else (s.lifeAdd (2049 + die) (min 24 (temp / 5)) 1).lifeAdd (2067 + die) (min 15 (droop / 10)) 1

/-! ### The event ring (R310) -/

/-- The host writes EVTAIL; a value outside the range is ignored. -/
def execEvtailWrite (s : State) : Res :=
  match s.zen.inbox with
  | .evtail v :: xs =>
    let z := { s.zen with inbox := xs }
    .next { s with zen := if z.evTail ≤ v && v ≤ z.evHead then { z with evTail := v } else z }
  | _ => .next s

/-- The number under which an event class has its code. -/
def classIndex : EventClass → Nat
  | .selfTest => 0
  | .fatalCore => 1
  | .fatalDevice => 2
  | .ringFull => 3
  | .entryKept => 4
  | .brk => 5
  | .rekeyDue => 6

/-- An event record's 32 bytes (R310): the spec gives the fields but neither their places nor the codes (log 77). -/
def Event.bytes (e : Event) : List Byte :=
  leBytes 4 (Config.eventCode (classIndex e.cls)) ++ leBytes 4 e.site ++ leBytes 4 e.part ++ leBytes 4 e.detail
  ++ leBytes 8 e.cyc ++ leBytes 8 0

/-- BAR 0 of physical function 0 as the host reads it: 8 bytes at an offset (R310). -/
def State.bar0 (s : State) (off : Nat) : Nat :=
  if off < 0x2000 then
    match sget? (off / 32) s.zen.events with
    | some e => leNat ((e.bytes.drop (off % 32)).take 8)
    | none => 0
  else if off = 0x2000 then s.zen.evLost
  else if off = 0x2008 then s.zen.evHead
  else if off = 0x2010 then s.zen.evTail
  else 0

/-! ### Lifetime records (R312) -/

/-- The count of a field: what the non-volatile store holds and what has been gathered since. -/
def State.lifeCount (s : State) (r j : Nat) : Nat :=
  min (2 ^ 32 - 1) (sget 0 (r * 64 + j) s.zen.lifeStored + sget 0 (r * 64 + j) s.zen.life)

/-- The corrections of bank b. -/
def State.corrections (s : State) (b : Nat) : Nat := s.lifeCount (bankRecord + b / 64) (b % 64)

/-- Banks of a field in a bucket of the correction histogram. -/
def State.histogram (s : State) (c i : Nat) : Nat :=
  ((List.range 384).filter (fun k => min 15 (logBucket (s.corrections (c * 512 + k))) == i)).length

/-- A record as LIFETIME_READ returns it (log 53). -/
def State.lifeBytes (s : State) (r : Nat) : List Byte :=
  if 1025 ≤ r && r ≤ 2048 then (List.range 16).flatMap (fun i => leBytes 4 (s.histogram (r - 1025) i))
  else if 2049 ≤ r && r ≤ 2084 then (List.range 32).flatMap (fun j => leBytes 2 (min 65535 (s.lifeCount r j)))
  else (List.range 16).flatMap (fun j => leBytes 4 (s.lifeCount r j))

/-- LIFETIME_READ (R312). -/
def execLifetimeRead (s : State) : Res :=
  s.vendor .lifetimeRead 10
    (fun b => field b 8 2 == 0 || decide (16 < field b 8 2) || decide (2086 < field b 4 4 + field b 8 2)) mgmtChannel
    (fun s _ b _ => .ok s ((List.range (field b 8 2)).flatMap (fun i => s.lifeBytes (field b 4 4 + i))))

/-- The gathered counts are written to the non-volatile store. -/
def State.flushLife (s : State) : State :=
  { s with zen := { s.zen with
      lifeStored := s.zen.life.foldl (fun m x => sset x.1 (min (2 ^ 32 - 1) (sget 0 x.1 m + x.2)) m) s.zen.lifeStored
      life := [], flushed := s.zen.cyc } }

/-- Every 2^36 cycles of Zenith's counter (R312). -/
def execLifetimeFlush (s : State) : Res :=
  .next (if s.zen.flushed + 2 ^ 36 ≤ s.zen.cyc then s.flushLife else s)

/-! ### Power (R304 to R306, R312) -/

/-- The device without power: the non-volatile store, and what lies outside the device, stay. -/
def State.off (s : State) : State :=
  { State.reset with
    mem := s.mem.filter (fun c => decide (2 ≤ tierOf c.1)), nextUid := s.nextUid, out := s.out, agenda := s.agenda
    free := s.free, zen := { Zenith.reset with lifeStored := s.zen.lifeStored } }

/-- An orderly power-down flushes the lifetime records. -/
def execPowerDown (s : State) : Res := .next s.flushLife.off
/-- Power is lost: what was gathered since the last write is lost. -/
def execLossOfPower (s : State) : Res := .next s.off

/-- A site that fails its self-test is reported (R304). -/
def State.reportTests (s : State) : List Nat → State
  | [] => s
  | c :: cs => ((s.event .selfTest c 0xff 0).lifeAdd (1 + c) 2 1).reportTests cs

/-- Step 2 of R305: every site answers the flood. -/
def floodAnswer (n c : Nat) : SiteAnswer :=
  { x := siteX c, y := siteY c, enabled := Config.siteEnabled c, passed := Config.siteEnabled c && Config.selfTestOk n c }

/-- The live sites of a map. -/
def liveSites (map : List SiteAnswer) : List Nat := (map.filter (·.passed)).map (fun a => a.y * 32 + a.x)

/-- Step 3: the next site of the route from s to t, first along the row and then along the column. -/
def routeImage (s t : Nat) : Nat :=
  if siteX s < siteX t then s + 1
  else if siteX t < siteX s then s - 1
  else if siteY s < siteY t then s + 32
  else if siteY t < siteY s then s - 32
  else s

/-- Step 4: the boot tree of the firmware image, every entry a leaf. -/
def bootTreeImage : Tree :=
  { root := Config.bootNode 0, nodes := (List.range 1024).map (fun k => (Config.bootNode k, Config.bootParent k, true)) }

/-- Step 4: the live sites take the monitor image; a hart whose digest differs leaves its core failed. -/
def bootCores (live : List Nat) : SMap Core :=
  live.map (fun c =>
    let k := bareCore Core.reset c
    (c, if Config.monitorDigestOk c then k else { k with run := .failed }))

/-- The steps of R305 from the site map on: the routing tables, the boot tree and the monitor image, then ready. -/
def State.boot (s : State) (map : List SiteAnswer) : State :=
  let live := liveSites map
  let z := { s.zen with bootCore := live.headD 0, siteMap := map, routed := List.range 1024, bootTree := some bootTreeImage
                        ready := true }
  State.lifeAdd { s with cores := bootCores live, zen := z } 0 1 1

/-- Power-good up to ready (R304, R305). -/
def State.powerOn (s : State) : State :=
  let n := s.free
  let s := ({ s.off with free := n + 1 } : State).lifeAdd 0 0 1
  if !Config.fuseReadOk n then s.fatalDevice 0
  else
    let map := (List.range 1024).map (floodAnswer n)
    let bad := (map.filter (fun a => a.enabled && !a.passed)).map (fun a => a.y * 32 + a.x)
    let s := State.reportTests { s with zen := { s.zen with failedTest := bad } } bad
    if (liveSites map).length < 1000 then s.fatalDevice 0 else s.boot map

/-- Power-good starts Zenith and the boot (R304, R305). -/
def execPowerOn (s : State) : Res := .next s.powerOn

/-! ### The host link and the peers (R294, R295, R302) -/

def SubStream.reset : SubStream := { count := 0, log2T := 32, due := false }

def State.sub (s : State) (stream sub : Nat) : SubStream := sget SubStream.reset (stream * 4 + sub) s.zen.subs
def State.setSub (s : State) (stream sub : Nat) (x : SubStream) : State :=
  { s with zen := { s.zen with subs := sset (stream * 4 + sub) x s.zen.subs } }

def SubStream.dueNow (x : SubStream) : Bool := !x.due && decide (2 ^ x.log2T ≤ x.count)
def SubStream.over (x : SubStream) : Bool := decide (2 ^ x.log2T + 2 ^ 20 ≤ x.count)

/-- The steps that a sub-stream's counter brings about. -/
def State.checkSub (s : State) (stream sub : Nat) : State :=
  let x := s.sub stream sub
  let s := if x.dueNow then s.enqueue zenithSite .ideRekeyDue else s
  if x.over && !s.zen.insecure.contains stream then s.enqueue zenithSite .ideInsecure else s

/-- Packets pass on a sub-stream. -/
def State.tlps (s : State) (stream sub n : Nat) : State :=
  let x := s.sub stream sub
  (s.setSub stream sub { x with count := x.count + n }).checkSub stream sub

/-- IDE_THRESH (R294). -/
def execIdeThresh (s : State) : Res :=
  s.vendor .ideThresh 7 (fun b => decide (63 < field b 4 1) || decide (2 < field b 5 1) || decide (field b 6 1 < 16)
    || decide (48 < field b 6 1)) mgmtChannel (fun s _ b _ =>
      let st := field b 4 1
      let sb := field b 5 1
      let s := s.setSub st sb { s.sub st sb with log2T := field b 6 1 }
      .ok (s.checkSub st sb) [])

/-- IDE_KM programs a key set of a sub-stream (R294). -/
def State.ideKey (s : State) (stream sub set : Nat) (key : List Byte) : State :=
  let x := s.sub stream sub
  s.setSub stream sub { x with sets := sset (set % 2) key x.sets }

/-- K_SET_GO switches the sub-stream to its other key set and resets its counter (R294; that there are two sets is log 76). -/
def execKSetGo (s : State) : Res :=
  match s.zen.inbox with
  | .ksetgo st sb :: xs =>
    let s : State := { s with zen := { s.zen with inbox := xs } }
    .next (s.setSub st sb { s.sub st sb with count := 0, due := false, active := 1 - (s.sub st sb).active % 2 })
  | _ => .next s

/-- A sub-stream's counter has reached T: an event to the management interface (R294). -/
def execIdeRekeyDue (s : State) : Res :=
  match s.zen.subs.find? (fun x => x.2.dueNow) with
  | none => .next s
  | some (k, x) => .next ((s.setSub (k / 4) (k % 4) { x with due := true }).event .rekeyDue 0 0xff k)

/-- An interface goes to ERROR. -/
def State.ifaceError (s : State) (iface : Nat) : State :=
  if iface = 0 || !s.exists (iface - 1) then s
  else s.setPart (iface - 1) { s.part (iface - 1) with iface := .error }

/-- The stream goes Insecure, and every interface bound to it to ERROR (R294). -/
def execIdeInsecure (s : State) : Res :=
  match s.zen.subs.find? (fun x => x.2.over && !s.zen.insecure.contains (x.1 / 4)) with
  | none => .next s
  | some (k, _) =>
    let s : State := { s with zen := { s.zen with insecure := s.zen.insecure ++ [k / 4] } }
    .next (match sget? (k / 4) s.zen.streams with
      | some iface => s.ifaceError iface
      | none => s)

/-- A step under way uses a page; a fill that has been served needs it no more. -/
def usesPage (page : Nat) (i : Instr) : Bool :=
  match i with
  | .accessPerformed x => x.served.isNone && x.keys.any (fun a => a / 4096 == page)
  | .vwHomeLoad r | .vwHomePark r | .vwHomeStore r | .vwHomeInc r | .vwHomePeek r | .vwHomeReset r => r.cell / 4096 == page
  | _ => false

def State.pageBusy (s : State) (page : Nat) : Bool := s.flight.any (fun x => usesPage page x.2)

/-- An invalidation blocks new uses of a host page's translation (R295). -/
def execAtsInvalidation (s : State) : Res :=
  match s.zen.inbox with
  | .ats page :: xs =>
    .next (State.enqueue { s with zen := { s.zen with inbox := xs, ats := s.zen.ats ++ [page] } } zenithSite
      .atsInvalidationComplete)
  | _ => .next s

/-- Every earlier use has completed: the completion goes to the host (R295). -/
def execAtsInvalidationComplete (s : State) : Res :=
  match s.zen.ats with
  | [] => .next s
  | page :: rest =>
    if s.pageBusy page then .next (s.enqueue zenithSite .atsInvalidationComplete)
    else .next (State.reply { s with zen := { s.zen with ats := rest } } (.atsDone page))

/-- Two Zeniths agree a link key (R302). -/
def execCirrusLinkBringup (s : State) : Res :=
  match s.zen.inbox with
  | .cirrus port :: xs =>
    let z := { s.zen with inbox := xs }
    .next { s with zen := if 12 ≤ port || z.cirrus.contains port then z else { z with cirrus := z.cirrus ++ [port] } }
  | _ => .next s

/-- HSUB as the host reads it (R296). -/
def Part.hsub (pt : Part) : Record :=
  ofDwords 512 ((pt.credits.toList.map (BitVec.ofNat 64)) ++ [BitVec.ofNat 64 pt.hdrop, 0, 0, 0])

end Sys2Proof.Machine
end

