-- ==== Sys2Proof/Machine/Vector.lean ====
section
/-! DEFINITION. Page 1 without its memory instructions: element types, masks, and every vector and mask
instruction on registers (R185 to R198). -/

namespace Sys2Proof.Machine

/-! ### Element types (R163 to R165, R186, R189) -/

/-- The fields of a format entry (R164). -/
def entryFmt (v : Word) : Fmt :=
  let sign := bitsOf v 1 1
  let exp := bitsOf v 5 2
  let man := bitsOf v 9 6
  { sign := sign, exp := exp, man := man, bias := bitsOf v 17 10, spec := bitsOf v 19 18
    scale := bitsOf v 21 20, sj := bitsOf v 25 22, blk := if bitOf v 26 then 32 else 16
    along := bitsOf v 27 27, cw := if sign + exp + man ≤ 4 then 4 else 8 }

/-- The checks of a scale entry at use (R165). -/
def scaleEntryOk (v : Word) : Bool :=
  let g := entryFmt v
  bitOf v 31 && decide (2 ≤ g.exp) && g.width == 8 && g.scale == 0 && (g.spec == 0 || g.spec == 2)

/-- A format entry at use: none is FMTINV. -/
def entryAt (fmts : Vector Word 16) (i : Nat) : Option Fmt :=
  let v := fmts[Fin.ofNat 16 i]
  if !bitOf v 31 then none
  else
    let f := entryFmt v
    if f.scale = 2 && !scaleEntryOk (fmts[Fin.ofNat 16 f.sj]) then none else some f

/-- The scale entry of a format; E8M0 needs none. -/
def scaleFmt (fmts : Vector Word 16) (f : Fmt) : Fmt := entryFmt (fmts[Fin.ofNat 16 f.sj])

/-- The format a pair names (Table 10.1, R186). -/
def namedFmt (fmts : Vector Word 16) (wc code : Nat) : Option Fmt :=
  if wc = 0 then entryAt fmts code
  else if wc = 1 then
    if code = 0 then some bf16 else if code = 1 then some fp16 else if code = 2 then some int16 else none
  else if wc = 2 then if code = 0 then some fp32 else if code = 1 then some int32 else none
  else if code = 0 then some int64 else none

def Ctx.elemType (c : Ctx) : Option Fmt := namedFmt c.fmt (bitsOf c.vtype 13 12) (bitsOf c.vtype 11 8)
def Ctx.srcType (c : Ctx) : Option Fmt := namedFmt c.fmt (bitsOf c.vtype 21 20) (bitsOf c.vtype 19 16)

/-- The classes of R189. -/
def isI (f : Fmt) : Bool := f.exp == 0 && f.bias == 0 && f.scale == 0
def isF (f : Fmt) : Bool := f.exp != 0 && f.scale == 0
def isIF (f : Fmt) : Bool := isI f || isF f
def isAny (_ : Fmt) : Bool := true
/-- fp32, bf16, fp16 (R180, R197). -/
def isWide (f : Fmt) : Bool := f == fp32 || f == bf16 || f == fp16

/-! ### Elements and masks (R167, R188) -/

/-- Element i is active (R188). -/
def Ctx.active (c : Ctx) (cw i : Nat) : Bool := !c.men || bitOf c.k[c.mreg] (i * cw / 8)

def Ctx.vreg (c : Ctx) (r : Fin 16) : BitVec 1024 := c.v[r]
def Ctx.setV (c : Ctx) (r : Fin 16) (x : BitVec 1024) : Ctx := { c with v := c.v.set r x }
def Ctx.setK (c : Ctx) (r : Fin 8) (x : BitVec 128) : Ctx := { c with k := c.k.set r x }

/-- The code of element i: its container's low bits (R167). -/
def codeAt (f : Fmt) (x : BitVec 1024) (i : Nat) : Nat := elemAt x f.cw i % 2 ^ f.width

/-- ElemOp (R188): what each element of the destination becomes, and the flags. An inactive element that is kept
keeps its whole container, the bits above w included (log 60). -/
def Ctx.elemOp (c : Ctx) (f : Fmt) (old : BitVec 1024) (g : Nat → Nat × Nat) : BitVec 1024 × Nat :=
  let rs := (List.range (1024 / f.cw)).map (fun i =>
    if c.active f.cw i then g i else (if c.mz then 0 else elemAt old f.cw i, 0))
  (ofElems 1024 f.cw (rs.map (·.1)), rs.foldl (fun acc r => acc ||| r.2) 0)

/-- An element instruction: the type's checks, then ElemOp with f(i) from the state and the type. -/
def State.elemInstr (s : State) (p : Pfx) (cls : Fmt → Bool) (d : Fin 16) (g : Ctx → Fmt → Nat → Nat × Nat) :
    Res :=
  let c := s.cx
  match c.elemType with
  | none => s.trapMe Cause.fmtinv 0
  | some f =>
    if !cls f then s.trapMe Cause.voptype 0
    else
      let (x, fl) := c.elemOp f (c.vreg d) (g c f)
      (s.setCx ((c.setV d x).raise fl)).finish p

/-- Element values (R189): integers, and decoded numbers. -/
def intVal (f : Fmt) (c : Nat) : Int := if f.sign = 1 then signExtNat c f.width else (c % 2 ^ f.width : Nat)
def wrapInt (f : Fmt) (x : Int) : Nat := (x % 2 ^ f.width).toNat
def intMax (f : Fmt) : Int := if f.sign = 1 then 2 ^ (f.width - 1) - 1 else 2 ^ f.width - 1
def intMin (f : Fmt) : Int := if f.sign = 1 then -(2 ^ (f.width - 1)) else 0

/-- An exact result of R173 rounded into the element type. -/
def roundPair (f : Fmt) (rm : Rm) (r : Num × Nat) : Nat × Nat :=
  let (c, fl) := roundF f rm r.1
  (c, fl ||| r.2)

/-- An I operation that wraps, or an F operation that rounds once (R173). -/
def arith (f : Fmt) (rm : Rm) (gi : Int → Int → Int) (gf : Num → Num → Num × Nat) (x y : Nat) : Nat × Nat :=
  if f.exp = 0 then (wrapInt f (gi (intVal f x) (intVal f y)), 0)
  else roundPair f rm (gf (decodeNum f x) (decodeNum f y))

def subNum (x y : Num) : Num × Nat := addNum x y.neg

/-- The FA form of an element instruction (R191). -/
def State.vec3 (s : State) (p : Pfx) (cls : Fmt → Bool) (d a b : Fin 16)
    (g : Fmt → Rm → Nat → Nat → Nat × Nat) : Res :=
  s.elemInstr p cls d (fun c f i => g f c.rm (codeAt f (c.vreg a) i) (codeAt f (c.vreg b) i))

/-- The FB form (R192): x from the destination, y from `a`. -/
def State.vec2 (s : State) (p : Pfx) (cls : Fmt → Bool) (d a : Fin 16)
    (g : Fmt → Rm → Nat → Nat → Nat × Nat) : Res := s.vec3 p cls d d a g

/-- `VADD` (R191). -/
def execVadd (p : Pfx) (d a b : Fin 16) (s : State) : Res :=
  s.vec3 p isIF d a b (fun f rm => arith f rm (· + ·) addNum)
/-- `VSUB` (R191). -/
def execVsub (p : Pfx) (d a b : Fin 16) (s : State) : Res :=
  s.vec3 p isIF d a b (fun f rm => arith f rm (· - ·) subNum)
/-- `VMUL` (R191). -/
def execVmul (p : Pfx) (d a b : Fin 16) (s : State) : Res :=
  s.vec3 p isIF d a b (fun f rm => arith f rm (· * ·) mulNum)

/-- One fused multiply-add (R173, R191). -/
def fmaCode (f : Fmt) (rm : Rm) (x y z : Nat) : Nat × Nat :=
  if f.exp = 0 then (wrapInt f (intVal f x * intVal f y + intVal f z), 0)
  else roundPair f rm (fmaNum (decodeNum f x) (decodeNum f y) (decodeNum f z))

/-- `VFMA` (R191). -/
def execVfma (p : Pfx) (d a b : Fin 16) (s : State) : Res :=
  s.elemInstr p isIF d (fun c f i =>
    fmaCode f c.rm (codeAt f (c.vreg a) i) (codeAt f (c.vreg b) i) (codeAt f (c.vreg d) i))
/-- `VMIN` (R191). -/
def execVmin (p : Pfx) (d a b : Fin 16) (s : State) : Res :=
  s.vec3 p isIF d a b (fun f rm => arith f rm min (fun x y => (minNum x y, 0)))
/-- `VMAX` (R191). -/
def execVmax (p : Pfx) (d a b : Fin 16) (s : State) : Res :=
  s.vec3 p isIF d a b (fun f rm => arith f rm max (fun x y => (maxNum x y, 0)))
/-- `VAND` (R191). -/
def execVand (p : Pfx) (d a b : Fin 16) (s : State) : Res :=
  s.vec3 p isAny d a b (fun _ _ x y => (x &&& y, 0))
/-- `VOR` (R191). -/
def execVor (p : Pfx) (d a b : Fin 16) (s : State) : Res :=
  s.vec3 p isAny d a b (fun _ _ x y => (x ||| y, 0))
/-- `VXOR` (R191). -/
def execVxor (p : Pfx) (d a b : Fin 16) (s : State) : Res :=
  s.vec3 p isAny d a b (fun _ _ x y => (x ^^^ y, 0))

/-- `VSEL` (R191): every element is written, and MZ is ignored. -/
def execVsel (p : Pfx) (d a b : Fin 16) (s : State) : Res :=
  let c := s.cx
  match c.elemType with
  | none => s.trapMe Cause.fmtinv 0
  | some f =>
    let x := ofElems 1024 f.cw ((List.range (1024 / f.cw)).map (fun i =>
      if c.active f.cw i then codeAt f (c.vreg a) i else codeAt f (c.vreg b) i))
    (s.setCx (c.setV d x)).finish p

/-- `VSLL` (R192). -/
def execVsll (p : Pfx) (d a : Fin 16) (s : State) : Res :=
  s.vec2 p isI d a (fun f _ x y => (x * 2 ^ (y % f.width) % 2 ^ f.width, 0))
/-- `VSRL` (R192). -/
def execVsrl (p : Pfx) (d a : Fin 16) (s : State) : Res :=
  s.vec2 p isI d a (fun f _ x y => (x / 2 ^ (y % f.width), 0))
/-- `VSRA` (R192). -/
def execVsra (p : Pfx) (d a : Fin 16) (s : State) : Res :=
  s.vec2 p isI d a (fun f _ x y => (wrapInt f (signExtNat x f.width / 2 ^ (y % f.width)), 0))
/-- `VANDN` (R192). -/
def execVandn (p : Pfx) (d a : Fin 16) (s : State) : Res :=
  s.vec2 p isAny d a (fun f _ x y => (x &&& (2 ^ f.width - 1 - y), 0))

/-- The saturating forms of R192: I clamps; a finite F result beyond MaxF becomes ±MaxF. -/
def satArith (f : Fmt) (rm : Rm) (gi : Int → Int → Int) (gf : Num → Num → Num × Nat) (x y : Nat) : Nat × Nat :=
  if f.exp = 0 then (wrapInt f (min (intMax f) (max (intMin f) (gi (intVal f x) (intVal f y)))), 0)
  else
    let r := gf (decodeNum f x) (decodeNum f y)
    let (c, fl) := roundPair f rm r
    match r.1, decodeNum f c with
    | .fin n _, .inf _ => (packMag f n (maxF f), fl)
    | _, _ => (c, fl)

/-- `VADDS` (R192). -/
def execVadds (p : Pfx) (d a : Fin 16) (s : State) : Res :=
  s.vec2 p isIF d a (fun f rm => satArith f rm (· + ·) addNum)
/-- `VSUBS` (R192). -/
def execVsubs (p : Pfx) (d a : Fin 16) (s : State) : Res :=
  s.vec2 p isIF d a (fun f rm => satArith f rm (· - ·) subNum)

/-- Sign(x) × Min(|x|, |y|) (R192). DESIGN CHOICE (log 89): the sign of −0 is its sign bit. -/
def satI (f : Fmt) (x y : Int) : Int :=
  let m := min (min x.natAbs y.natAbs : Int) (intMax f)
  if x < 0 then -m else m
def satF (x y : Num) : Num × Nat :=
  let m := minNum x.abs y.abs
  (if x.signBit then m.neg else m, 0)

/-- `VSAT` (R192). -/
def execVsat (p : Pfx) (d a : Fin 16) (s : State) : Res :=
  s.vec2 p isIF d a (fun f rm => arith f rm (satI f) satF)

/-- `VABS` (R192). -/
def execVabs (p : Pfx) (d a : Fin 16) (s : State) : Res :=
  s.vec3 p isIF d a a (fun f rm => arith f rm (fun x _ => x.natAbs) (fun x _ => (x.abs, 0)))
/-- `VNEG` (R192). -/
def execVneg (p : Pfx) (d a : Fin 16) (s : State) : Res :=
  s.vec3 p isIF d a a (fun f rm => arith f rm (fun x _ => -x) (fun x _ => (x.neg, 0)))
/-- `VNOT` (R192). -/
def execVnot (p : Pfx) (d a : Fin 16) (s : State) : Res :=
  s.vec3 p isAny d a a (fun f _ x _ => (2 ^ f.width - 1 - x, 0))
/-- `VMOV` (R192). -/
def execVmov (p : Pfx) (d a : Fin 16) (s : State) : Res :=
  s.vec3 p isAny d a a (fun _ _ x _ => (x, 0))

/-- One of the four functions on an element (R177 to R180). -/
def transcend (f : Fmt) (g : Num → Nat × Nat) (x : Nat) : Nat × Nat :=
  let (c, fl) := g (decodeNum f x)
  if f = fp32 then (c, fl)
  else
    let (c', fl') := roundF f .rne (d32 c)
    (c', fl ||| fl')

def State.vfun (s : State) (p : Pfx) (d a : Fin 16) (g : Num → Nat × Nat) : Res :=
  s.vec3 p isWide d a a (fun f _ x _ => transcend f g x)

/-- `VEXP2` (R177). -/
def execVexp2 (p : Pfx) (d a : Fin 16) (s : State) : Res := s.vfun p d a exp2F
/-- `VLOG2` (R178). -/
def execVlog2 (p : Pfx) (d a : Fin 16) (s : State) : Res := s.vfun p d a log2F
/-- `VRCP` (R179). -/
def execVrcp (p : Pfx) (d a : Fin 16) (s : State) : Res := s.vfun p d a rcpF
/-- `VRSQ` (R179). -/
def execVrsq (p : Pfx) (d a : Fin 16) (s : State) : Res := s.vfun p d a rsqF

/-! ### Compares (R193) -/

/-- -0 equals +0, and a NaN equals nothing. -/
def eqNum (x y : Num) : Bool :=
  match x, y with
  | .fin _ _, .fin _ _ => x.toRat == y.toRat
  | .inf a, .inf b => a == b
  | _, _ => false
def below (x y : Num) : Bool := !x.isNan && !y.isNan && ltNum x y && !eqNum x y

/-- A compare: relations on integers and on decoded values. -/
def State.vcmp (s : State) (p : Pfx) (d : Fin 8) (a b : Fin 16) (ri : Int → Int → Bool) (rf : Num → Num → Bool) :
    Res :=
  let c := s.cx
  match c.elemType with
  | none => s.trapMe Cause.fmtinv 0
  | some f =>
    if !isIF f || decide (f.cw < 8) then s.trapMe Cause.voptype 0
    else
      let holds (i : Nat) : Bool :=
        let x := codeAt f (c.vreg a) i
        let y := codeAt f (c.vreg b) i
        c.active f.cw i && (if f.exp = 0 then ri (intVal f x) (intVal f y)
          else rf (decodeNum f x) (decodeNum f y))
      let bits := ofElems 128 (f.cw / 8) ((List.range (1024 / f.cw)).map (fun i =>
        if holds i then 2 ^ (f.cw / 8) - 1 else 0))
      (s.setCx (c.setK d bits)).finish p

/-- `VCMPEQ` (R193). -/
def execVcmpeq (p : Pfx) (d : Fin 8) (a b : Fin 16) (s : State) : Res :=
  s.vcmp p d a b (fun x y => x == y) eqNum
/-- `VCMPLT` (R193). -/
def execVcmplt (p : Pfx) (d : Fin 8) (a b : Fin 16) (s : State) : Res :=
  s.vcmp p d a b (fun x y => decide (x < y)) below
/-- `VCMPLE` (R193). -/
def execVcmple (p : Pfx) (d : Fin 8) (a b : Fin 16) (s : State) : Res :=
  s.vcmp p d a b (fun x y => decide (x ≤ y)) (fun x y => below x y || eqNum x y)
/-- `VCMPNE` (R193). -/
def execVcmpne (p : Pfx) (d : Fin 8) (a b : Fin 16) (s : State) : Res :=
  s.vcmp p d a b (fun x y => x != y) (fun x y => !eqNum x y)

/-! ### Moving elements (R194) -/

/-- A permute: the source index of each element from its own code, element 0's code and n. -/
def State.vmove (s : State) (p : Pfx) (d a : Fin 16) (ix : Nat → Nat → Nat → Nat → Nat) : Res :=
  s.elemInstr p isAny d (fun c f i =>
    let n := 1024 / f.cw
    (codeAt f (c.vreg a) (ix (codeAt f (c.vreg d) i % n) (codeAt f (c.vreg d) 0 % n) i n), 0))

/-- `VPERM` (R194). -/
def execVperm (p : Pfx) (d a : Fin 16) (s : State) : Res := s.vmove p d a (fun j _ _ _ => j)
/-- `VROT` (R194). -/
def execVrot (p : Pfx) (d a : Fin 16) (s : State) : Res := s.vmove p d a (fun _ z i n => (i + z) % n)
/-- `VBCAST` (R194). -/
def execVbcast (p : Pfx) (d a : Fin 16) (s : State) : Res := s.vmove p d a (fun _ z _ _ => z)
/-- `VSPLAT` (R194). -/
def execVsplat (p : Pfx) (d a : Fin 16) (s : State) : Res :=
  let g := (s.me.getG a).toNat
  s.elemInstr p isAny d (fun _ f _ => (g % 2 ^ f.width, 0))
/-- `VGET` (R194): the mask is ignored. -/
def execVget (p : Pfx) (d a : Fin 16) (s : State) : Res :=
  let c := s.cx
  match c.elemType with
  | none => s.trapMe Cause.fmtinv 0
  | some f =>
    let x := codeAt f (c.vreg a) ((s.me.getG d).toNat % (1024 / f.cw))
    let v := if isI f && f.sign = 1 then wordOfInt (intVal f x) else BitVec.ofNat 64 x
    (s.setMe (s.me.setG d v)).finish p

/-! ### Reductions, scan and log-sum-exp (R195) -/

/-- The codes of the active elements, with their indices. -/
def Ctx.actives (c : Ctx) (f : Fmt) (a : Fin 16) : List (Nat × Nat) :=
  ((List.range (1024 / f.cw)).filter (c.active f.cw)).map (fun i => (i, codeAt f (c.vreg a) i))

/-- Running sums, one rounding for each addition (R182). -/
def runningSums (f : Fmt) (rm : Rm) : Option Nat → Nat → List Nat → List Nat × Nat
  | _, fl, [] => ([], fl)
  | acc, fl, x :: xs =>
    let (r, e) := match acc with
      | none => if f.exp = 0 then (x, 0) else roundF f rm (decodeNum f x)
      | some a => arith f rm (· + ·) addNum a x
    let (rs, fl) := runningSums f rm (some r) (fl ||| e) xs
    (r :: rs, fl)

/-- A reduction writes element 0 and zeros. -/
def State.reduce (s : State) (p : Pfx) (cls : Fmt → Bool) (d a : Fin 16)
    (g : Fmt → Rm → List Nat → Nat × Nat) : Res :=
  let c := s.cx
  match c.elemType with
  | none => s.trapMe Cause.fmtinv 0
  | some f =>
    if !cls f then s.trapMe Cause.voptype 0
    else
      let (x, fl) := g f c.rm ((c.actives f a).map (·.2))
      (s.setCx ((c.setV d (ofElems 1024 f.cw [x])).raise fl)).finish p

/-- `VRSUM` (R195). -/
def execVrsum (p : Pfx) (d a : Fin 16) (s : State) : Res :=
  s.reduce p isIF d a (fun f rm xs =>
    let (rs, fl) := runningSums f rm none 0 xs
    (rs.getLastD 0, fl))

/-- The maximum or minimum of the active elements (R173, R195). With none active, a VRMAX of an unsigned
floating-point format, which has neither −Inf nor −MaxF, gives code 0 and no flag (log 61). -/
def extremum (hi : Bool) (f : Fmt) (xs : List Nat) : Nat × Nat :=
  if f.exp = 0 then
    match xs.map (intVal f) with
    | [] => (wrapInt f (if hi then intMin f else intMax f), 0)
    | y :: ys => (wrapInt f (ys.foldl (if hi then max else min) y), 0)
  else
    match xs.map (decodeNum f) with
    | [] =>
      let m : Num := if f.spec = 0 then .inf hi else .fin hi (maxF f)
      ((roundF f .rtz m).1, 0)
    | y :: ys => roundF f .rne (ys.foldl (if hi then maxNum else minNum) y)

/-- `VRMAX` (R195). -/
def execVrmax (p : Pfx) (d a : Fin 16) (s : State) : Res :=
  s.reduce p isIF d a (fun f _ xs => extremum true f xs)
/-- `VRMIN` (R195). -/
def execVrmin (p : Pfx) (d a : Fin 16) (s : State) : Res :=
  s.reduce p isIF d a (fun f _ xs => extremum false f xs)
/-- `VLSE` (R181, R195). -/
def execVlse (p : Pfx) (d a : Fin 16) (s : State) : Res :=
  s.reduce p (· == fp32) d a (fun _ _ xs => lse (xs.map d32))

/-- `VSCAN` (R195): inactive elements follow MZ. -/
def execVscan (p : Pfx) (d a : Fin 16) (s : State) : Res :=
  let c := s.cx
  match c.elemType with
  | none => s.trapMe Cause.fmtinv 0
  | some f =>
    if !isIF f then s.trapMe Cause.voptype 0
    else
      let acts := c.actives f a
      let (sums, fl) := runningSums f c.rm none 0 (acts.map (·.2))
      let tab := (acts.map (·.1)).zip sums
      let (x, _) := c.elemOp f (c.vreg d) (fun i => (sget 0 i tab, 0))
      (s.setCx ((c.setV d x).raise fl)).finish p

/-! ### Conversion and quantisation (R196, R197) -/

/-- The element counts and places of a width-changing instruction (R196): how many elements m, the
first source element, the first destination element; none when PART is too large. -/
def convertPlan (cs cd part : Nat) : Option (Nat × Nat × Nat) :=
  let m := 1024 / max cs cd
  if max cs cd / min cs cd ≤ part then none
  else some (m, if cd > cs then part * m else 0, if cd < cs then part * m else 0)

/-- Replace elements `at` to `at + xs.length - 1` of a register; none keeps the old container. -/
def placeElems (x : BitVec 1024) (cw first : Nat) (xs : List (Option Nat)) : BitVec 1024 :=
  ofElems 1024 cw ((List.range (1024 / cw)).map (fun i =>
    if first ≤ i then
      match xs[i - first]? with
      | some (some c) => c
      | _ => elemAt x cw i
    else elemAt x cw i))

/-- VCVT and VCVTR (R196): `rb` gives the rounding of the k-th element. DESIGN CHOICE (log 88): a type that names no format
traps FMTINV before the other type's class is looked at. -/
def State.convert (s : State) (p : Pfx) (d a : Fin 16) (limit : Nat) (rb : Ctx → Nat → Rm) : Res :=
  let c := s.cx
  match c.srcType, c.elemType with
  | some fs, some fd =>
    if fs.scale ≠ 0 || fd.scale ≠ 0 then s.trapMe Cause.voptype 0
    else match convertPlan fs.cw fd.cw c.vpart with
      | none => s.trapMe Cause.voptype 0
      | some (m, si, di) =>
        if limit < m then s.trapMe Cause.voptype 0
        else
          let rs := (List.range m).map (fun k =>
            if c.active fd.cw (di + k) then
              let (x, fl) := roundTo fd (rb c k) (decodeNum fs (codeAt fs (c.vreg a) (si + k)))
              (some x, fl)
            else (if c.mz then some 0 else none, 0))
          let x := placeElems (c.vreg d) fd.cw di (rs.map (·.1))
          (s.setCx ((c.setV d x).raise (rs.foldl (fun acc r => acc ||| r.2) 0))).finish p
  | _, _ => s.trapMe Cause.fmtinv 0

/-- `VCVT` (R196). -/
def execVcvt (p : Pfx) (d a : Fin 16) (s : State) : Res := s.convert p d a 256 (fun c _ => c.rm)
/-- `VCVTR` (R170, R196). -/
def execVcvtr (p : Pfx) (d a b : Fin 16) (s : State) : Res :=
  s.convert p d a 64 (fun c k => .sr (elemAt (c.vreg b) 16 k))

/-- A type that VQNT writes and VDQ reads (R197). -/
def isBlocked (f : Fmt) : Bool := f.scale != 0 && f.along == 0

/-- Split a list into blocks of B. -/
def blocksOf (n : Nat) (B : Nat) (xs : List α) : List (List α) :=
  (List.range n).map (fun j => (xs.drop (j * B)).take B)

/-- `VQNT` (R175, R197): the mask is ignored. DESIGN CHOICE (log 88): FMTINV comes before VOPTYPE. With d = b the codes are written first, then the scale codes
(log 62). -/
def execVqnt (p : Pfx) (d a b : Fin 16) (s : State) : Res :=
  let c := s.cx
  match c.srcType, c.elemType with
  | some fs, some fd =>
    if !isWide fs || !isBlocked fd then s.trapMe Cause.voptype 0
    else match convertPlan fs.cw fd.cw c.vpart with
      | none => s.trapMe Cause.voptype 0
      | some (m, si, di) =>
        let xs := (List.range m).map (fun k => decodeNum fs (codeAt fs (c.vreg a) (si + k)))
        let nb := m / fd.blk
        let qs := (blocksOf nb fd.blk xs).map (quantise fd (scaleFmt c.fmt fd) c.rm)
        let c1 := c.setV d (placeElems (c.vreg d) fd.cw di (qs.flatMap (fun q => q.2.1.map some)))
        let c2 := c1.setV b (placeElems (c1.vreg b) 8 (c.vpart * nb) (qs.map (fun q => some q.1)))
        (s.setCx (c2.raise (qs.foldl (fun acc q => acc ||| q.2.2) 0))).finish p
  | _, _ => s.trapMe Cause.fmtinv 0

/-- `VDQ` (R174, R197): the mask is ignored. DESIGN CHOICE (log 88): FMTINV comes before VOPTYPE. -/
def execVdq (p : Pfx) (d a b : Fin 16) (s : State) : Res :=
  let c := s.cx
  match c.srcType, c.elemType with
  | some fs, some fd =>
    if !isBlocked fs || !isWide fd then s.trapMe Cause.voptype 0
    else match convertPlan fs.cw fd.cw c.vpart with
      | none => s.trapMe Cause.voptype 0
      | some (m, si, di) =>
        let nb := m / fs.blk
        let rs := (List.range m).map (fun k =>
          let sc := elemAt (c.vreg b) 8 (c.vpart * nb + k / fs.blk)
          roundPair fd c.rm (mulNum (scaleNum fs (scaleFmt c.fmt fs) sc)
            (decodeNum fs (codeAt fs (c.vreg a) (si + k)))))
        let x := placeElems (c.vreg d) fd.cw di (rs.map (fun r => some r.1))
        (s.setCx ((c.setV d x).raise (rs.foldl (fun acc r => acc ||| r.2) 0))).finish p
  | _, _ => s.trapMe Cause.fmtinv 0

/-! ### Masks (R198) -/

def State.setMask (s : State) (p : Pfx) (d : Fin 8) (x : BitVec 128) : Res := (s.setCx (s.cx.setK d x)).finish p

/-- `KAND` (R198). -/
def execKand (p : Pfx) (d a b : Fin 8) (s : State) : Res := s.setMask p d (s.cx.k[a] &&& s.cx.k[b])
/-- `KOR` (R198). -/
def execKor (p : Pfx) (d a b : Fin 8) (s : State) : Res := s.setMask p d (s.cx.k[a] ||| s.cx.k[b])
/-- `KXOR` (R198). -/
def execKxor (p : Pfx) (d a : Fin 8) (s : State) : Res := s.setMask p d (s.cx.k[d] ^^^ s.cx.k[a])
/-- `KNOT` (R198). -/
def execKnot (p : Pfx) (d a : Fin 8) (s : State) : Res := s.setMask p d (~~~s.cx.k[a])
/-- `KMOV` (R198). -/
def execKmov (p : Pfx) (d a : Fin 8) (s : State) : Res := s.setMask p d s.cx.k[a]
/-- `KSET` (R198). -/
def execKset (p : Pfx) (d : Fin 8) (s : State) : Res := s.setMask p d (BitVec.allOnes 128)
/-- `KCLR` (R198). -/
def execKclr (p : Pfx) (d : Fin 8) (s : State) : Res := s.setMask p d 0

/-- The number of ones among the low n bits, and the index of the lowest one. -/
def onesIn (x : Nat) : Nat → Nat
  | 0 => 0
  | n + 1 => x % 2 + onesIn (x / 2) n
def firstOne (x : Nat) : Nat → Nat
  | 0 => 0
  | n + 1 => if x % 2 = 1 then 0 else 1 + firstOne (x / 2) n

/-- `KPOP` (R198). -/
def execKpop (p : Pfx) (d : Fin 16) (a : Fin 8) (s : State) : Res :=
  (s.setMe (s.me.setG d (BitVec.ofNat 64 (onesIn s.cx.k[a].toNat 128)))).finish p
/-- `KFIRST` (R198). -/
def execKfirst (p : Pfx) (d : Fin 16) (a : Fin 8) (s : State) : Res :=
  (s.setMe (s.me.setG d (BitVec.ofNat 64 (firstOne s.cx.k[a].toNat 128)))).finish p

end Sys2Proof.Machine
end

