-- ==== Sys2Proof/Machine/Matrix.lean ====
section
/-! DEFINITION. The matrix engine: page 2, the macro sequencer and its steps (R202 to R220). -/

namespace Sys2Proof.Machine

/-! ### Tile control registers (R202, R206, R208) -/

def tcRows (v : Word) : Nat := bitsOf v 23 18 + 1
def tcCols (v : Word) : Nat := bitsOf v 30 24 + 1
def tcClass (v : Word) : Nat := bitsOf v 11 10
def tcLayout (v : Word) : Nat := bitsOf v 9 7
def tcSparse (v : Word) : Nat := bitsOf v 6 4
def tcBmap (v : Word) : Nat := bitsOf v 63 32

/-- Row-ish: row-major or 64-blocked (R202). -/
def rowish (v : Word) : Bool := tcLayout v == 0 || tcLayout v == 2

/-- The tile's format (R202). -/
def tcFmt (fmts : Vector Word 16) (v : Word) : Option Fmt := namedFmt fmts (bitsOf v 17 16) (bitsOf v 3 0)

/-- Containers per row (R202). -/
def capacity (f : Fmt) : Nat := 512 / f.cw

/-- Steps 1 and 2 of R206. -/
def tileCheck (fmts : Vector Word 16) (v : Word) : Except Nat Fmt :=
  match tcFmt fmts v with
  | none => .error Cause.fmtinv
  | some f =>
    if capacity f < tcCols v || tcBmap v / 2 ^ (4 * (capacity f / 16)) ≠ 0
      || (tcSparse v == 1 && tcCols v % 4 != 0) then .error Cause.mtcfg
    else .ok f

/-- What TCFG refuses (R208). -/
def tcfgBad (v : Word) : Bool :=
  decide (2 ≤ bitsOf v 17 16) || tcClass v != 0 || decide (4 ≤ tcLayout v) || decide (3 ≤ tcSparse v)
  || bitOf v 31 || bitsOf v 15 12 != 0 || (tcBmap v != 0 && tcSparse v != 2)

/-- Class data and dense. -/
def plainTile (v : Word) : Bool := tcClass v == 0 && tcSparse v == 0

/-! ### Elements of tiles and accumulators (R202, R204) -/

/-- Container c of register row r. -/
def tileCont (x : BitVec 32768) (cw r c : Nat) : Nat := x.toNat / 2 ^ (512 * r + cw * c) % 2 ^ cw

/-- The entry's blocks use byte i of the scale store (Table 12.1). -/
def scaleUsed (f : Fmt) (i : Nat) : Bool :=
  if f.along = 0 then decide (i % 8 < capacity f / f.blk) else decide (i / 4 < capacity f ∧ i % 4 < 64 / f.blk)

/-- A scale store whose bytes that no block uses read 0 (R204). -/
def cleanScale (f : Fmt) (x : BitVec 4096) : BitVec 4096 :=
  ofElems 4096 8 ((List.range 512).map (fun i => if scaleUsed f i then elemAt x 8 i else 0))

/-- The byte of the scale store that holds the code of a block (Table 12.1). -/
def scaleByte (f : Fmt) (r c : Nat) : Nat := if f.along = 0 then 8 * r + c / f.blk else 4 * c + r / f.blk

/-- The value of container `cont` of row r, scaled by the block of position c (R174, R214, R215). -/
def tileValAt (f g : Fmt) (x : BitVec 32768) (sc : BitVec 4096) (r cont c : Nat) : Num :=
  let v := decodeNum f (tileCont x f.cw r cont)
  if f.scale = 0 then v else (mulNum (scaleNum f g (elemAt sc 8 (scaleByte f r c))) v).1

/-- Val (R214). -/
def tileVal (f g : Fmt) (x : BitVec 32768) (sc : BitVec 4096) (r c : Nat) : Num := tileValAt f g x sc r c c

/-- A tile from the codes of its containers: `code r c` for r below 64 and c below the capacity. -/
def tileOf (cw : Nat) (code : Nat → Nat → Nat) : BitVec 32768 :=
  ofElems 32768 cw ((List.range 64).flatMap (fun r => (List.range (512 / cw)).map (code r)))

def accCode (x : BitVec 131072) (i j : Nat) : Nat := elemAt x 32 (64 * i + j)

/-! ### Page 2, major 0 -/

def Ctx.setTile (c : Ctx) (d : Fin 8) (x : BitVec 32768) : Ctx := { c with t := c.t.set d x }
def Ctx.setTc (c : Ctx) (d : Fin 8) (v : Word) : Ctx := { c with tc := c.tc.set d v }
def Ctx.setScale (c : Ctx) (d : Fin 8) (x : BitVec 4096) : Ctx := { c with scale := c.scale.set d x }

/-- `TCFG` (R208). -/
def execTcfg (p : Pfx) (d : Fin 8) (a : Fin 16) (s : State) : Res :=
  let v := s.me.getG a
  if tcfgBad v then s.trapMe Cause.mtcfg 0 else (s.setCx (s.cx.setTc d v)).finish p

/-- `TRDC` (R208). -/
def execTrdc (p : Pfx) (d : Fin 16) (a : Fin 8) (s : State) : Res :=
  (s.setMe (s.me.setG d s.cx.tc[a])).finish p

/-- `TZ` (R210). -/
def execTz (p : Pfx) (d : Fin 8) (s : State) : Res :=
  (s.setCx ((s.cx.setTile d 0).setScale d 0)).finish p

/-- `ACLR` (R210). -/
def execAclr (p : Pfx) (s_ : Fin 4) (s : State) : Res :=
  (s.setCx { s.cx with acc := s.cx.acc.set s_ 0 }).finish p

/-- Table 12.4: where a pattern has a one. -/
def fillOne (pat r c : Nat) : Bool :=
  match pat with
  | 0 => false
  | 1 => true
  | 2 => c == r
  | 3 => decide (c ≤ r)
  | 4 => decide (r ≤ c)
  | _ => decide (c < r)

/-- The code of one and its flags (R211). -/
def oneCode (f : Fmt) : Nat × Nat := roundTo f .rne (.fin false 1)

/-- The scale store that holds one code for every block that meets the tile (R204, R211, log 34). DESIGN CHOICE (log 90): the
codes of the other blocks become 0. -/
def fillScale (f : Fmt) (rows cols code : Nat) : BitVec 4096 :=
  let used := (List.range rows).flatMap (fun r => (List.range cols).map (scaleByte f r))
  ofElems 4096 8 ((List.range 512).map (fun i => if used.contains i then code else 0))

/-- `TFILL` (R211). -/
def execTfill (p : Pfx) (d : Fin 8) (pat : Fin 6) (s : State) : Res :=
  let c := s.cx
  let v := c.tc[d]
  match tileCheck c.fmt v with
  | .error x => s.trapMe x 0
  | .ok f =>
    if !plainTile v then s.trapMe Cause.mtag 0
    else
      let rows := tcRows v
      let cols := tcCols v
      let inside (r k : Nat) : Bool := decide (r < rows) && decide (k < cols)
      let (one, fl) := oneCode f
      let x := tileOf f.cw (fun r k => if inside r k && fillOne pat.val r k then one else 0)
      let any := (List.range rows).any (fun r => (List.range cols).any (fillOne pat.val r))
      let (sc, sfl) := if f.scale = 1 then (0x7f, 0) else roundF (scaleFmt c.fmt f) .rne (.fin false 1)
      let c1 := (c.setTile d x).raise (if any then fl else 0)
      let c2 := if f.scale = 0 then c1 else (c1.setScale d (fillScale f rows cols sc)).raise sfl
      (s.setCx c2).finish p

/-- The layout of a transposed tile (R212). -/
def swapLayout (l : Nat) : Nat :=
  match l with
  | 0 => 1
  | 1 => 0
  | 2 => 3
  | _ => 2

/-- `TTR` (R212). -/
def execTtr (p : Pfx) (d a : Fin 8) (s : State) : Res :=
  let c := s.cx
  let v := c.tc[a]
  match tileCheck c.fmt v with
  | .error x => s.trapMe x 0
  | .ok f =>
    if !plainTile v || f.cw ≠ 8 || f.scale ≠ 0 then s.trapMe Cause.mtag 0
    else
      let src := c.t[a]
      let x := tileOf 8 (fun r k => tileCont src 8 k r % 2 ^ f.width)
      let v' := putBits (putBits (putBits v 23 18 (tcCols v - 1)) 30 24 (tcRows v - 1)) 9 7 (swapLayout (tcLayout v))
      (s.setCx ((c.setTile d x).setTc d v')).finish p

/-- The offset that PART gives, or MTCFG for PART and COLS out of range (R213). -/
def partOffset (f : Fmt) (cols part : Nat) : Option Nat :=
  if f.cw = 16 then if 1 < part then none else some (part * 32)
  else if part ≠ 0 || 64 < cols then none else some 0

/-- The source value of register element (r, c) (R213). -/
def accSource (v : Word) (x : BitVec 131072) (off r c : Nat) : Num :=
  d32 (if rowish v then accCode x r (c + off) else accCode x (c + off) r)

/-- The checks that ACVT and TQNT share, then `go` on the format and the offset. -/
def State.fromAcc (s : State) (d : Fin 8) (scaled : Bool) (go : Fmt → Nat → Res) : Res :=
  let c := s.cx
  let v := c.tc[d]
  match tileCheck c.fmt v with
  | .error x => s.trapMe x 0
  | .ok f =>
    if !plainTile v || (f.scale != 0) != scaled then s.trapMe Cause.mtag 0
    else match partOffset f (tcCols v) c.vpart with
      | none => s.trapMe Cause.mtcfg 0
      | some off => go f off

/-- Codes and flags for the elements of a tile within ROWS × COLS, as a list of rows. -/
def tileRows (rows cols : Nat) (g : Nat → Nat → Nat × Nat) : List (List (Nat × Nat)) :=
  (List.range rows).map (fun r => (List.range cols).map (g r))

def rowsFlags (xs : List (List (Nat × Nat))) : Nat :=
  xs.foldl (fun a r => r.foldl (fun a e => a ||| e.2) a) 0

/-- A tile that holds these rows and zeros. -/
def tileOfRows (cw : Nat) (xs : List (List (Nat × Nat))) : BitVec 32768 :=
  tileOf cw (fun r c => ((xs.getD r []).getD c (0, 0)).1)

/-- `ACVT` (R213). -/
def execAcvt (p : Pfx) (d : Fin 8) (s_ : Fin 4) (s : State) : Res :=
  s.fromAcc d false (fun f off =>
    let c := s.cx
    let v := c.tc[d]
    let xs := tileRows (tcRows v) (tcCols v) (fun r k => roundTo f c.rm (accSource v c.acc[s_] off r k))
    (s.setCx ((c.setTile d (tileOfRows f.cw xs)).raise (rowsFlags xs))).finish p)

/-- The blocks of Table 12.1 within the capacity: the positions of each, and its scale byte. -/
def tileBlocks (f : Fmt) : List (Nat × List (Nat × Nat)) :=
  let cap := capacity f
  if f.along = 0 then
    (List.range 64).flatMap (fun r => (List.range (cap / f.blk)).map (fun b =>
      (8 * r + b, (List.range f.blk).map (fun k => (r, b * f.blk + k)))))
  else
    (List.range cap).flatMap (fun c => (List.range (64 / f.blk)).map (fun b =>
      (4 * c + b, (List.range f.blk).map (fun k => (b * f.blk + k, c)))))

/-- `TQNT` (R175, R213). -/
def execTqnt (p : Pfx) (d : Fin 8) (s_ : Fin 4) (s : State) : Res :=
  s.fromAcc d true (fun f off =>
    let c := s.cx
    let v := c.tc[d]
    let inside (rc : Nat × Nat) : Bool := decide (rc.1 < tcRows v) && decide (rc.2 < tcCols v)
    let qs := (tileBlocks f).map (fun b =>
      let xs := b.2.map (fun rc => if inside rc then accSource v c.acc[s_] off rc.1 rc.2 else Num.zero)
      (b.1, b.2, quantise f (scaleFmt c.fmt f) c.rm xs))
    let codes := qs.flatMap (fun q => q.2.1.zip q.2.2.2.1)
    let rows := (List.range 64).map (fun r => codes.filter (fun e => e.1.1 == r))
    let x := tileOf f.cw (fun r k =>
      match (rows.getD r []).find? (fun e => e.1.2 == k) with
      | some e => if inside e.1 then e.2 else 0
      | none => 0)
    let sc := ofElems 4096 8 ((List.range 512).map (fun i =>
      match qs.find? (fun q => q.1 == i) with
      | some q => q.2.2.1
      | none => 0))
    let fl := qs.foldl (fun a q => a ||| q.2.2.2.2) 0
    (s.setCx (((c.setTile d x).setScale d sc).raise fl)).finish p)

/-! ### Page 2, major 1 (R209) -/

/-- The tile's entry carries a scale store that moves with it (R209); a scale entry SJ that fails R165 is not
looked at (log 64). -/
def movesScale (fmts : Vector Word 16) (v : Word) : Bool :=
  let e := fmts[Fin.ofNat 16 (bitsOf v 3 0)]
  bitsOf v 17 16 == 0 && bitOf e 31 && bitsOf e 21 20 != 0

/-- The bytes of a tile move: its data, and its scale store. -/
def State.tileChecks (s : State) (want : Want) (addr : Word) (sc : Bool) : LocalCheck :=
  s.localChecks want addr (if sc then 576 else 512)

/-- A bank move of a page-2 or page-5 instruction: ALIGN, the checks, the wait, then `go`. -/
def State.bankMove (s : State) (addr : Word) (check : LocalCheck) (go : Res) : Res :=
  if addr.toNat % 64 ≠ 0 then s.trapMe Cause.align addr
  else match check with
    | .wait => s.waitCycle
    | .trap c f => s.trapMe c f
    | .ok => go

/-- n bytes at a local address as a bit vector. -/
def State.localBits (s : State) (w : Nat) (a : Nat) : BitVec w := BitVec.ofNat w (s.localNat a (w / 8))

/-- `TLDL` (R209). -/
def execTldl (p : Pfx) (d : Fin 8) (a : Fin 16) (off : Int) (s : State) : Res :=
  let addr := s.me.addr a off
  let c := s.cx
  let sc := movesScale c.fmt c.tc[d]
  s.bankMove addr (s.tileChecks .read addr sc)
    (let c1 := c.setTile d (s.localBits 32768 addr.toNat)
     let f := entryFmt c.fmt[Fin.ofNat 16 (bitsOf c.tc[d] 3 0)]
     (s.setCx (if sc then c1.setScale d (cleanScale f (s.localBits 4096 (addr.toNat + 4096))) else c1)).finish p)

/-- `TSTL` (R209). -/
def execTstl (p : Pfx) (d : Fin 8) (a : Fin 16) (off : Int) (s : State) : Res :=
  let addr := s.me.addr a off
  let c := s.cx
  let sc := movesScale c.fmt c.tc[d]
  s.bankMove addr (s.tileChecks .write addr sc)
    ((s.localWrite (cellsAt addr.toNat (leBytes 4096 c.t[d].toNat
      ++ if sc then leBytes 512 c.scale[d].toNat else []))).finish p)

/-- `ALDL` (R209). -/
def execAldl (p : Pfx) (s_ : Fin 4) (a : Fin 16) (off : Int) (s : State) : Res :=
  let addr := s.me.addr a off
  s.bankMove addr (s.localChecks .read addr 2048)
    ((s.setCx { s.cx with acc := s.cx.acc.set s_ (s.localBits 131072 addr.toNat) }).finish p)

/-- `ASTL` (R209). -/
def execAstl (p : Pfx) (s_ : Fin 4) (a : Fin 16) (off : Int) (s : State) : Res :=
  let addr := s.me.addr a off
  s.bankMove addr (s.localChecks .write addr 2048)
    ((s.localWrite (cellsAt addr.toNat (leBytes 16384 s.cx.acc[s_].toNat))).finish p)

/-! ### Multiply-accumulate (R183, R214 to R216) -/

/-- An operand tile as an instruction reads it. -/
structure TileOp where
  tc : Word
  f : Fmt
  g : Fmt
  x : BitVec 32768
  sc : BitVec 4096

def Ctx.tileOp (c : Ctx) (t : Fin 8) (f : Fmt) : TileOp :=
  { tc := c.tc[t], f := f, g := scaleFmt c.fmt f, x := c.t[t], sc := c.scale[t] }

/-- The metadata nibble of logical group q of row i (R215). -/
def metaNibble (x : BitVec 32768) (i q : Nat) : Nat := x.toNat / 2 ^ (512 * i + 256 + 4 * q) % 16

/-- Some group of a row below ROWS has i0 ≥ i1 (R215). -/
def badMeta (v : Word) (x : BitVec 32768) : Bool :=
  (List.range (tcRows v)).any (fun i => (List.range (tcCols v / 4)).any (fun q =>
    let m := metaNibble x i q
    decide (m / 4 % 4 ≤ m % 4)))

/-- ValA (R214, R215): none where the position is not kept. -/
def valA (op : Nat) (A : TileOp) (i k : Nat) : Option Num :=
  if op = 1 then
    let m := metaNibble A.x i (k / 4)
    if k % 4 = m % 4 then some (tileValAt A.f A.g A.x A.sc i (2 * (k / 4)) k)
    else if k % 4 = m / 4 % 4 then some (tileValAt A.f A.g A.x A.sc i (2 * (k / 4) + 1) k)
    else none
  else some (tileVal A.f A.g A.x A.sc i k)

/-- Bmap (R214, R216): k-group g takes part for row i. -/
def groupOn (op : Nat) (A : TileOp) (i g : Nat) : Bool :=
  op != 2 || tcBmap A.tc / 2 ^ (i / 16 * (capacity A.f / 16) + g) % 2 == 1

/-- The exact sum of a k-group from its products (R183). -/
def groupSum : List (Option Num × Num) → Option Num → Num
  | [], acc => acc.getD Num.zero
  | (none, _) :: ps, acc => groupSum ps acc
  | (some a, b) :: ps, acc =>
    let x := (mulNum a b).1
    groupSum ps (some (match acc with
      | none => x
      | some y => (addNum y x).1))

/-- The groups of one element enter the accumulator in ascending order (R183). -/
def accElem (on : Nat → Bool) : List (Option Num × Num) → Nat → Nat → Nat → Nat
  | _, 0, _, x => x
  | ps, n + 1, g, x =>
    let x' := if on g then (f32 (addNum (d32 x) (groupSum (ps.take 16) none)).1).1 else x
    accElem on (ps.drop 16) n (g + 1) x'

/-- MmaCore (R214): the accumulator after the product of two tiles. -/
def mmaCore (op : Nat) (A B : TileOp) (acc : BitVec 131072) : BitVec 131072 :=
  let kk := tcCols A.tc
  let as := (List.range (tcRows A.tc)).map (fun i => (List.range kk).map (valA op A i))
  let bs := (List.range (tcRows B.tc)).map (fun j => (List.range kk).map (tileVal B.f B.g B.x B.sc j))
  ofElems 131072 32 ((List.range 64).flatMap (fun i => (List.range 64).map (fun j =>
    match as[i]?, bs[j]? with
    | some a, some b => accElem (groupOn op A i) (a.zip b) ((kk + 15) / 16) 0 (accCode acc i j)
    | _, _ => accCode acc i j)))

/-- The elements that a product of these two tiles writes come from x, and the others from y (R214). -/
def mmaInto (va vb : Word) (x y : BitVec 131072) : BitVec 131072 :=
  ofElems 131072 32 ((List.range 64).flatMap (fun i => (List.range 64).map (fun j =>
    if i < tcRows va && j < tcRows vb then accCode x i j else accCode y i j)))

/-- The tag conditions of R214. -/
def mmaTags (op : Nat) (va vb : Word) (fa fb : Fmt) : Bool :=
  tcClass va == 0 && tcClass vb == 0 && rowish va && !rowish vb && fa.cw == fb.cw
  && tcCols va == tcCols vb && (fa.scale == 0 || fa.along == 0) && (fb.scale == 0 || fb.along == 0)
  && tcSparse vb == 0 && tcSparse va == op

/-- The checks of R206 on both operands, then the tags (R214); all of A's come before B's (log 63). -/
def mmaCheck (fmts : Vector Word 16) (op : Nat) (va vb : Word) : Except Nat (Fmt × Fmt) :=
  match tileCheck fmts va with
  | .error x => .error x
  | .ok fa =>
    match tileCheck fmts vb with
    | .error x => .error x
    | .ok fb => if mmaTags op va vb fa fb then .ok (fa, fb) else .error Cause.mtag

/-- `MMA`, `MMAS` and `MMAB` by their op. -/
def State.mma (s : State) (p : Pfx) (op : Nat) (s_ : Fin 4) (ta tb : Fin 8) : Res :=
  let c := s.cx
  match mmaCheck c.fmt op c.tc[ta] c.tc[tb] with
  | .error x => s.trapMe x 0
  | .ok (fa, fb) =>
    if op = 1 && badMeta c.tc[ta] c.t[ta] then s.trapMe Cause.msparse 0
    else
      let x := mmaCore op (c.tileOp ta fa) (c.tileOp tb fb) c.acc[s_]
      (s.setCx { c with acc := c.acc.set s_ x }).finish p

/-- `MMA` (R214). -/
def execMma (p : Pfx) (s_ : Fin 4) (ta tb : Fin 8) (s : State) : Res := s.mma p 0 s_ ta tb
/-- `MMAS` (R214, R215). -/
def execMmas (p : Pfx) (s_ : Fin 4) (ta tb : Fin 8) (s : State) : Res := s.mma p 1 s_ ta tb
/-- `MMAB` (R214, R216). -/
def execMmab (p : Pfx) (s_ : Fin 4) (ta tb : Fin 8) (s : State) : Res := s.mma p 2 s_ ta tb

/-! ### The macro sequencer (R217 to R219) -/

def mmAbase (r : Record) : Nat := bitsOf r 20 0
def mmBbase (r : Record) : Nat := bitsOf r 84 64
def mmAstr (r : Record) : Nat := bitsOf r 159 128
def mmBstr (r : Record) : Nat := bitsOf r 191 160
def mmTca (r : Record) : Word := dword r 3
def mmTcb (r : Record) : Word := dword r 4
def mmTa (r : Record) : Fin 8 := Fin.ofNat 8 (bitsOf r 322 320)
def mmTb (r : Record) : Fin 8 := Fin.ofNat 8 (bitsOf r 326 324)
def mmK0 (r : Record) : Nat := bitsOf r 351 336
def mmKn (r : Record) : Nat := bitsOf r 367 352

/-- MDESC (R217). -/
def mdescBad (r : Record) : Bool :=
  bitsOf r 63 21 != 0 || bitsOf r 127 85 != 0 || bitsOf r 323 323 != 0 || bitsOf r 335 327 != 0
  || bitsOf r 383 368 != 0 || bitsOf r 447 384 != 0 || mmKn r == 0 || decide (65536 < mmK0 r + mmKn r)
  || mmTa r == mmTb r || mmAbase r % 64 != 0 || mmBbase r % 64 != 0 || mmAstr r % 64 != 0
  || mmBstr r % 64 != 0

/-- A running BAL or BALX holds a tile (R269). -/
def Core.balTile (k : Core) (t : Fin 8) : Bool :=
  match k.bal with
  | some b => t.val / 2 == b.pair.val
  | none => false

/-- `MMAM` (R217): it waits for a running BAL of its tiles (R269); its checks; then the control registers are written and
the steps start. DEDUCED (log 103): a plan-class TCA or TCB traps MTCFG with TCFG's checks, not MTAG. -/
def execMmam (p : Pfx) (s_ : Fin 4) (a : Fin 16) (s : State) : Res :=
  let addr := s.me.getG a
  let c := s.cx
  s.bankMove addr (s.localChecks .read addr 8)
    (let r := s.localBits 512 addr.toNat
     let op := tcSparse (mmTca r)
     if mdescBad r then s.trapMe Cause.mdesc addr
     else if s.me.balTile (mmTa r) || s.me.balTile (mmTb r) then s.waitCycle
     else if tcfgBad (mmTca r) || tcfgBad (mmTcb r) then s.trapMe Cause.mtcfg 0
     else match mmaCheck c.fmt op (mmTca r) (mmTcb r) with
       | .error x => s.trapMe x 0
       | .ok (fa, fb) =>
         let m : MmamRun :=
           { acc := s_, desc := r, daddr := addr, op := op, fmtA := fa, fmtB := fb
             sfmtA := scaleFmt c.fmt fa, sfmtB := scaleFmt c.fmt fb, kb := mmK0 r, done := 0 }
         let s := s.setCx ((c.setTc (mmTa r) (mmTca r)).setTc (mmTb r) (mmTcb r))
         (State.enqueue (s.setMe { s.me with mmam := some m }) s.cur .mmamStep).waitFor (.mmam p))

/-- The scale store that a tile takes from a fetch: its old one when its entry has none. -/
def State.fetchScale (s : State) (f : Fmt) (t : Fin 8) (addr : Nat) : BitVec 4096 :=
  if f.scale = 0 then s.cx.scale[t] else cleanScale f (s.localBits 4096 (addr + 4096))

/-- A fetch of MMAM faults: the trap, and the neighbours' budgets held while its record is kept (R218,
R219). -/
def State.mmamFault (s : State) (cause : Nat) (faddr : Word) : State :=
  let s' := s.trap s.cur { cause := cause, faddr := faddr }
  let k := s'.me
  s'.setMe { k with faultHold := if k.keptRecs.isEmpty then k.faultHold else k.keptRecs.length }

/-- PROG receives the count of steps, and MMAM completes (R217). -/
def State.mmamEnd (s : State) (p : Pfx) (m : MmamRun) : State :=
  match s.localCheck .write (m.daddr + 56) with
  | .wait => s.enqueue s.cur .mmamStep
  | .trap c f => s.trap s.cur { cause := c, faddr := f }
  | .ok =>
    let s := s.localWrite (cellsAt (m.daddr + 56).toNat (leBytes 8 m.done))
    s.setMe ({ s.me with mmam := none }.resume p)

/-- One step of MMAM whose operands can be fetched (R217). A 2:4 operand with bad metadata traps as it
would under MMAS (log 35). A first step that reads a stale accumulator leaves the elements it does not write to the producer
(R98, R207). -/
def State.mmamStep (s : State) (m : MmamRun) (pa pb : Nat) : State :=
  let ta := mmTa m.desc
  let tb := mmTb m.desc
  let A : TileOp := { tc := mmTca m.desc, f := m.fmtA, g := m.sfmtA, x := s.localBits 32768 pa
                      sc := s.fetchScale m.fmtA ta pa }
  let B : TileOp := { tc := mmTcb m.desc, f := m.fmtB, g := m.sfmtB, x := s.localBits 32768 pb
                      sc := s.fetchScale m.fmtB tb pb }
  if m.op = 1 && badMeta A.tc A.x then s.trap s.cur { cause := Cause.msparse }
  else
    let c := s.cx
    let c := (((c.setTile ta A.x).setScale ta A.sc).setTile tb B.x).setScale tb B.sc
    let x := match m.base with
      | none => mmaCore m.op A B c.acc[m.acc]
      | some y => mmaInto A.tc B.tc (mmaCore m.op A B y) c.acc[m.acc]
    let s := s.setCx { c with acc := c.acc.set m.acc x }
    (s.setMe { s.me with mmam := some { m with kb := m.kb + 1, done := m.done + 1, base := none } }).enqueue s.cur .mmamStep

/-- The address of a k-block's tile. -/
def kBlock (base str kb : Nat) : Word := BitVec.ofNat 64 (base + kb * str)

/-- A step of the macro sequencer (R217, R218). -/
def execMmamStep (s : State) : Res :=
  match s.me.run, s.me.mmam with
  | .waiting (.mmam p), some m =>
    if m.done = mmKn m.desc then .next (s.mmamEnd p m)
    else
      let a := kBlock (mmAbase m.desc) (mmAstr m.desc) m.kb
      let b := kBlock (mmBbase m.desc) (mmBstr m.desc) m.kb
      match s.tileChecks .read a (m.fmtA.scale != 0) with
      | .wait => .next (s.enqueue s.cur .mmamStep)
      | .trap c f => .next (s.mmamFault c f)
      | .ok =>
        match s.tileChecks .read b (m.fmtB.scale != 0) with
        | .wait => .next (s.enqueue s.cur .mmamStep)
        | .trap c f => .next (s.mmamFault c f)
        | .ok => .next (s.mmamStep m a.toNat b.toNat)
  | _, _ => .next s

end Sys2Proof.Machine
end

