-- ==== Sys2Proof/Machine/Iris.lean ====
section
/-! DEFINITION. The balancing engine: page 5 and the sweeps (R257 to R272). The half-sweeps themselves are in
IrisMath.lean. -/

namespace Sys2Proof.Machine

/-! ### The plan context (R257, R258) -/

/-- PlanTag (R258, R261). -/
def planTag (r c : Nat) : Word := BitVec.ofNat 64 (c * 2 ^ 24 + r * 2 ^ 18 + 0x10401)

/-- The lower and the upper tile of a pair. -/
def loTile (pair : Fin 4) : Fin 8 := Fin.ofNat 8 (2 * pair.val)
def hiTile (pair : Fin 4) : Fin 8 := Fin.ofNat 8 (2 * pair.val + 1)

/-- The dimensions m and n of a well-formed pair (R258). -/
def Ctx.planDims (c : Ctx) (pair : Fin 4) : Option (Nat × Nat) :=
  let lo := c.tc[loTile pair]
  let hi := c.tc[hiTile pair]
  let m := tcRows lo
  let n := tcCols hi
  if lo = planTag (m - 1) 31 && hi = planTag (m - 1) (n - 1) && n ≤ 64 then some (m, n) else none

/-- The code of plan element (i, j) (R257). -/
def Ctx.planCode (c : Ctx) (pair : Fin 4) (i j : Nat) : Nat :=
  if j < 32 then tileCont c.t[loTile pair] 16 i j else tileCont c.t[hiTile pair] 16 i (j - 32)

/-- The kernel of an m × n plan, by rows. -/
def Ctx.kernel (c : Ctx) (pair : Fin 4) (m n : Nat) : List (List Nat) :=
  (List.range m).map (fun i => (List.range n).map (c.planCode pair i))

/-- SWEEPS, ST and EMPTY are 0 and RES is +Inf, as PLOAD, PSETM and PSETS leave them. -/
def Ctx.planReset (c : Ctx) : Ctx := { c with bs := c.bs &&& ~~~0x38fff, resid := 0x7f800000 }

/-- A page-5 instruction: it waits for the earlier ones (R269). -/
def State.page5 (s : State) (go : Res) : Res := if s.me.bal.isSome then s.waitCycle else go

/-! ### Building the kernel (R261) -/

/-- The checks of a cost tile (R261). -/
def costCheck (fmts : Vector Word 16) (v : Word) : Except Nat Fmt :=
  match tileCheck fmts v with
  | .error x => .error x
  | .ok f =>
    if !plainTile v || !rowish v then .error Cause.btag
    else if 64 < tcCols v then .error Cause.bshape
    else .ok f

/-- ε of a register, when it is finite and positive. -/
def epsOf (e : Word) : Option Rat :=
  if bitsOf e 63 32 ≠ 0 then none
  else match d32 e.toNat with
    | .fin false x => if x = 0 then none else some x
    | _ => none

/-- -x / ε, exact. -/
def negDiv (x : Num) (eps : Rat) : Num :=
  match x with
  | .fin n q => .fin (!n) (q / eps)
  | y => y.neg

/-- Tiles that hold a plan's codes, and zeros elsewhere. -/
def planTile (rows : List (List (Nat × Nat))) (first : Nat) : BitVec 32768 :=
  tileOf 16 (fun r c => ((rows.getD r []).getD (first + c) (0, 0)).1)

/-- `PLOAD` (R261). -/
def execPload (p : Pfx) (pair : Fin 4) (c : Fin 8) (b : Fin 16) (s : State) : Res :=
  s.page5
    (match epsOf (s.me.getG b) with
    | none => s.trapMe Cause.beps 0
    | some eps =>
      let x := s.cx
      match costCheck x.fmt x.tc[c] with
      | .error e => s.trapMe e 0
      | .ok f =>
        let o := x.tileOp c f
        let m := tcRows o.tc
        let n := tcCols o.tc
        let rows := tileRows m n (fun i j => roundF fp16 .rne (negDiv (tileVal f o.g o.x o.sc i j) eps))
        let x := (x.setTile (loTile pair) (planTile rows 0)).setTile (hiTile pair) (planTile rows 32)
        let x := (x.setTc (loTile pair) (planTag (m - 1) 31)).setTc (hiTile pair) (planTag (m - 1) (n - 1))
        (s.setCx (({ x with bf := 0, bg := 0 }.planReset).raise (rowsFlags rows))).finish p)

/-! ### Vector moves (R262) -/

/-- Two areas of 256 bytes, the first checked before the second (R262, log 36). -/
def State.twoVectors (s : State) (p : Pfx) (d a : Fin 16) (f : Ctx → BitVec 2048 → BitVec 2048 → Ctx) : Res :=
  let x := s.me.getG d
  let y := s.me.getG a
  s.page5 (s.bankMove x (s.localChecks .read x 32) (s.bankMove y (s.localChecks .read y 32)
    ((s.setCx ((f s.cx (s.localBits 2048 x.toNat) (s.localBits 2048 y.toNat)).planReset)).finish p)))

/-- `PSETM` (R262). -/
def execPsetm (p : Pfx) (d a : Fin 16) (s : State) : Res :=
  s.twoVectors p d a (fun c x y => { c with bm := x, bn := y })
/-- `PSETS` (R262). -/
def execPsets (p : Pfx) (d a : Fin 16) (s : State) : Res :=
  s.twoVectors p d a (fun c x y => { c with bf := x, bg := y })

/-- The four vectors by their code. -/
def Ctx.planVec (c : Ctx) (x : Fin 4) : BitVec 2048 :=
  match x with
  | 0 => c.bf
  | 1 => c.bg
  | 2 => c.bm
  | 3 => c.bn
def Ctx.setPlanVec (c : Ctx) (x : Fin 4) (v : BitVec 2048) : Ctx :=
  match x with
  | 0 => { c with bf := v }
  | 1 => { c with bg := v }
  | 2 => { c with bm := v }
  | 3 => { c with bn := v }

/-- `PMOV l:[gd], x` (R262). -/
def execPmovToBank (p : Pfx) (d : Fin 16) (x : Fin 4) (s : State) : Res :=
  let a := s.me.getG d
  s.page5 (s.bankMove a (s.localChecks .write a 32)
    ((s.localWrite (cellsAt a.toNat (leBytes 256 (s.cx.planVec x).toNat))).finish p))
/-- `PMOV x, l:[gd]` (R262). -/
def execPmovFromBank (p : Pfx) (d : Fin 16) (x : Fin 4) (s : State) : Res :=
  let a := s.me.getG d
  s.page5 (s.bankMove a (s.localChecks .read a 32)
    ((s.setCx (s.cx.setPlanVec x (s.localBits 2048 a.toNat))).finish p))

/-! ### Sweeps (R264, R265) -/

/-- A sweep starts: what it reads at issue is kept, and its passes follow. -/
def State.startBal (s : State) (p : Pfx) (pair : Fin 4) (full : Bool) (phase : BalPhase) : Res :=
  s.page5
    (let c := s.cx
     match c.planDims pair with
     | none => s.trapMe Cause.btag 0
     | some (m, n) =>
       let b : BalRun :=
         { pair := pair, full := full, m := m, n := n, kernel := c.kernel pair m n
           limit := bitsOf c.bs 31 20, tol := bitsOf c.bs 63 32, phase := phase }
       let c := if full then { c with bs := setBsSt (setSweeps c.bs 0) 0 } else c
       let k := s.me.setCx c
       ((s.setMe { k with bal := some b }).enqueue s.cur .balSweep).finish p)

/-- `BAL` (R264). -/
def execBal (p : Pfx) (pair : Fin 4) (s : State) : Res := s.startBal p pair true .row
/-- `BALX` (R265). -/
def execBalx (p : Pfx) (pair : Fin 4) (k : Bool) (s : State) : Res :=
  s.startBal p pair false (if k then .col else .row)

/-- One pass of the loop of R264, or the half-sweep of R265. -/
def execBalSweep (s : State) : Res :=
  let k := s.me
  match k.bal with
  | none => .next s
  | some b =>
    if b.full then
      let (c, ended) := k.cx.balPass b
      let s := s.setMe { k.setCx c with bal := if ended then none else some b }
      .next (if ended then s else s.enqueue s.cur .balSweep)
    else .next (s.setMe { k.setCx (k.cx.balxPass b) with bal := none })

/-- `PSTAT` (R266). -/
def execPstat (p : Pfx) (d : Fin 16) (s : State) : Res :=
  s.page5
    (let c := s.cx
     let v := BitVec.ofNat 64 (c.resid.toNat * 2 ^ 32) ||| (c.bs &&& 0x38fff)
     (s.setMe (s.me.setG d v)).finish p)

/-! ### Reading the plan out (R267, R268) -/

/-- Pv (R267): code and flags. The code is +0 wherever a term is −Inf; the flags are those of the sums all the same. -/
def planValue (l : Num) (bf bg : Nat) : Nat × Nat :=
  let (a, f1) := add32 l (d32 bf)
  let (b, f2) := add32 (d32 a) (d32 bg)
  let (t, f3) := mul32 (d32 b) log2E
  let (x, f4) := exp2F (d32 t)
  (if l == .inf true || bf == negInf32 || bg == negInf32 then 0 else x, f1 ||| f2 ||| f3 ||| f4)

/-- Pv of element (i, j) of a pair. -/
def Ctx.pv (c : Ctx) (pair : Fin 4) (i j : Nat) : Nat × Nat :=
  planValue (decodeNum fp16 (c.planCode pair i j)) (elemAt c.bf 32 i) (elemAt c.bg 32 j)

/-- `PMAT` (R267). -/
def execPmat (p : Pfx) (d : Fin 8) (pair : Fin 4) (s : State) : Res :=
  s.page5
    (let c := s.cx
     match c.planDims pair with
     | none => s.trapMe Cause.btag 0
     | some (m, n) =>
       let v := c.tc[d]
       match tileCheck c.fmt v with
       | .error x => s.trapMe x 0
       | .ok f =>
         if !plainTile v || f.scale ≠ 0 then s.trapMe Cause.btag 0
         else match partOffset f (tcCols v) c.vpart with
           | none => s.trapMe Cause.bshape 0
           | some off =>
             let xs := tileRows (tcRows v) (tcCols v) (fun r k =>
               let (i, j) := if rowish v then (r, k + off) else (k + off, r)
               let (x, f1) := if i < m && j < n then c.pv pair i j else (0, 0)
               let (y, f2) := roundTo f c.rm (d32 x)
               (y, f1 ||| f2))
             (s.setCx ((c.setTile d (tileOfRows f.cw xs)).raise (rowsFlags xs))).finish p)

/-- A sum in ascending order from its first term, RNE (R182, R268). -/
def sum32 : List Nat → Option Nat → Nat → Nat × Nat
  | [], acc, fl => (acc.getD 0, fl)
  | x :: xs, none, fl => sum32 xs (some x) fl
  | x :: xs, some a, fl =>
    let (r, f) := add32 (d32 a) (d32 x)
    sum32 xs (some r) (fl ||| f)

/-- `PDIST` (R268). Forming scale × element (Val of R214) raises no flag; the rounding of the product does
(log 49). -/
def execPdist (p : Pfx) (d : Fin 16) (pair : Fin 4) (c : Fin 8) (s : State) : Res :=
  s.page5
    (let x := s.cx
     match x.planDims pair with
     | none => s.trapMe Cause.btag 0
     | some (m, n) =>
       match costCheck x.fmt x.tc[c] with
       | .error e => s.trapMe e 0
       | .ok f =>
         let o := x.tileOp c f
         if tcRows o.tc ≠ m || tcCols o.tc ≠ n then s.trapMe Cause.bshape 0
         else
           let ps := (tileRows m n (fun i j =>
             let (v, f1) := x.pv pair i j
             let (y, f2) := mul32 (d32 v) (tileVal f o.g o.x o.sc i j)
             (y, f1 ||| f2))).flatten
           let (r, fl) := sum32 (ps.map (·.1)) none (ps.foldl (fun a e => a ||| e.2) 0)
           let s := s.setCx (x.raise fl)
           (s.setMe (s.me.setG d (BitVec.ofNat 64 r))).finish p)

end Sys2Proof.Machine
end

