-- ==== Sys2Proof/Machine/MemoryOps.lean ====
section
/-! DEFINITION. Page 0, majors 11 to 13: loads, stores, atomics and the fence (R104 to R106). -/

namespace Sys2Proof.Machine

/-- A load of n bytes (R104). -/
def State.load (s : State) (p : Pfx) (d a : Fin 16) (loc : Bool) (off : Int) (n : Nat) (sgn : Bool) : Res :=
  let k := s.me
  let addr := k.addr a off
  if addr.toNat % n ≠ 0 then s.trapMe Cause.align addr
  else if loc then
    match s.localCheck .read addr with
    | .wait => s.waitCycle
    | .trap c f => s.trapMe c f
    | .ok =>
      if p.qs = .dstQ && 16 ≤ k.dq.length then s.trapMe Cause.qover 0
      else
      let v := extend n sgn (s.localNat addr.toNat n)
      let k := if p.qs = .dstQ then { k with dq := k.dq ++ [(k.seqno, some v)], seqno := k.seqno + 1 } else k.setG d v
      (s.setMe k).finish p
  else
    match s.globalCheck addr .read false with
    | .trap c f => s.trapMe c f
    | .absent key => .fault (.noSuchMemory key)
    | .ok l uid =>
      if p.qs = .dstQ && 16 ≤ k.dq.length then s.trapMe Cause.qover 0
      else
      let keys := keysFrom l.key n
      let dst := if p.qs = .dstQ then LoadDst.dq else .reg d
      let k' := if p.qs = .dstQ then { k with dq := k.dq ++ [(k.seqno, none)] } else k
      s.issueAccess p k' (s.newAccess p addr keys uid (.load dst n sgn (k.overlay keys)
        (k.vwOverlay keys))) [uid]

/-- A store of n bytes (R104). -/
def State.store (s : State) (p : Pfx) (d a : Fin 16) (loc : Bool) (off : Int) (n : Nat) : Res :=
  let k := s.me
  let addr := k.addr a off
  let bytes := leBytes n (k.getG d).toNat
  if addr.toNat % n ≠ 0 then s.trapMe Cause.align addr
  else if loc then
    match s.localCheck .write addr with
    | .wait => s.waitCycle
    | .trap c f => s.trapMe c f
    | .ok => (s.localWrite (cellsAt addr.toNat bytes)).finish p
  else
    match s.globalCheck addr .write true with
    | .trap c f => s.trapMe c f
    | .absent key => .fault (.noSuchMemory key)
    | .ok l uid => s.globalStore p addr [(uid, cellsAt l.key bytes)]

/-- An atomic of major 13 (R105); it reads and writes its page (log 42). Held stores that overlap its doubleword
leave the buffer with it: their bytes are written and the atomic is performed in one step, which is a release when
one of them is (R82). -/
def State.atomic (s : State) (p : Pfx) (op : AtomicOp) (d a : Fin 16) : Res :=
  let k := s.me
  let addr := k.getG a
  if addr.toNat % 8 ≠ 0 then s.trapMe Cause.align addr
  else match s.globalCheck addr .rmw true with
    | .trap c f => s.trapMe c f
    | .absent key => .fault (.noSuchMemory key)
    | .ok l uid =>
      let host := tierOf l.key == 2
      if host && !hostAtomic op then s.trapMe Cause.atomtgt addr
      else if host && Config.hostRefusesAtomic s.free then
        State.trapMe { s with free := s.free + 1 } Cause.atomtgt addr
      else
        let s := if host then { s with free := s.free + 1 } else s
        let taken := k.sbuf.filter (SendEntry.overlaps l.key)
        let held := taken.flatMap SendEntry.parts
        let k' := { k with sbuf := leaveBehind (SendEntry.overlaps l.key) k.sbuf }
        let x := s.newAccess p addr (keysFrom l.key 8 ++ (partCells held).map (·.1)) uid
          (.atomic op (k.getG d) (k.getG (d + 1)) d held)
        let x := if taken.any SendEntry.isRel then { x with order := withRelease x.order } else x
        s.issueAccess p k' x (uid :: held.map (·.1))

/-- `LDB` (R104). -/
def execLdb (p : Pfx) (d a : Fin 16) (loc : Bool) (off : Int) (s : State) : Res :=
  s.load p d a loc off 1 true
/-- `LDBU` (R104). -/
def execLdbu (p : Pfx) (d a : Fin 16) (loc : Bool) (off : Int) (s : State) : Res :=
  s.load p d a loc off 1 false
/-- `LDH` (R104). -/
def execLdh (p : Pfx) (d a : Fin 16) (loc : Bool) (off : Int) (s : State) : Res :=
  s.load p d a loc off 2 true
/-- `LDHU` (R104). -/
def execLdhu (p : Pfx) (d a : Fin 16) (loc : Bool) (off : Int) (s : State) : Res :=
  s.load p d a loc off 2 false
/-- `LDW` (R104). -/
def execLdw (p : Pfx) (d a : Fin 16) (loc : Bool) (off : Int) (s : State) : Res :=
  s.load p d a loc off 4 true
/-- `LDWU` (R104). -/
def execLdwu (p : Pfx) (d a : Fin 16) (loc : Bool) (off : Int) (s : State) : Res :=
  s.load p d a loc off 4 false
/-- `LD` (R104). -/
def execLd (p : Pfx) (d a : Fin 16) (loc : Bool) (off : Int) (s : State) : Res :=
  s.load p d a loc off 8 false
/-- `STB` (R104). -/
def execStb (p : Pfx) (d a : Fin 16) (loc : Bool) (off : Int) (s : State) : Res :=
  s.store p d a loc off 1
/-- `STH` (R104). -/
def execSth (p : Pfx) (d a : Fin 16) (loc : Bool) (off : Int) (s : State) : Res :=
  s.store p d a loc off 2
/-- `STW` (R104). -/
def execStw (p : Pfx) (d a : Fin 16) (loc : Bool) (off : Int) (s : State) : Res :=
  s.store p d a loc off 4
/-- `ST` (R104). -/
def execSt (p : Pfx) (d a : Fin 16) (loc : Bool) (off : Int) (s : State) : Res :=
  s.store p d a loc off 8
/-- `SWP` (R105). -/
def execSwp (p : Pfx) (d a : Fin 16) (s : State) : Res := s.atomic p .swp d a
/-- `CAS` (R105). -/
def execCas (p : Pfx) (d a : Fin 16) (s : State) : Res := s.atomic p .cas d a
/-- `AADD` (R105). -/
def execAadd (p : Pfx) (d a : Fin 16) (s : State) : Res := s.atomic p .add d a
/-- `AAND` (R105). -/
def execAand (p : Pfx) (d a : Fin 16) (s : State) : Res := s.atomic p .and d a
/-- `AOR` (R105). -/
def execAor (p : Pfx) (d a : Fin 16) (s : State) : Res := s.atomic p .or d a
/-- `AXOR` (R105). -/
def execAxor (p : Pfx) (d a : Fin 16) (s : State) : Res := s.atomic p .xor d a
/-- `AMIN` (R105). -/
def execAmin (p : Pfx) (d a : Fin 16) (s : State) : Res := s.atomic p .min d a
/-- `AMAX` (R105). -/
def execAmax (p : Pfx) (d a : Fin 16) (s : State) : Res := s.atomic p .max d a
/-- `AMINU` (R105). -/
def execAminu (p : Pfx) (d a : Fin 16) (s : State) : Res := s.atomic p .minu d a
/-- `AMAXU` (R105). -/
def execAmaxu (p : Pfx) (d a : Fin 16) (s : State) : Res := s.atomic p .maxu d a

/-- `FENCE` (R70, R106): it waits in the access stream for every earlier access (release) or load (acquire); the
sequences that it orders wait at their own issue (State.fenceWaits), and others issue past it. -/
def execFence (p : Pfx) (s : State) : Res :=
  let k := s.me
  (s.setMe { k with fenceRel := if p.order = .acq then k.fenceRel else k.seqno
                    fenceAcq := if p.order = .rel then k.fenceAcq else k.seqno }).finish p

end Sys2Proof.Machine
end

