-- ==== Sys2Proof/Machine/Scalar.lean ====
section
/-! DEFINITION. Page 0, majors 1 to 10: the register and immediate instructions (R99 to R103). -/

namespace Sys2Proof.Machine

/-- Shift counts use the low six bits (Tables 5.6, 5.7). -/
def shamt (y : Word) : Nat := y.toNat % 64

/-- DivRem (R100). -/
def divS (x y : Word) : Word :=
  if y = 0 then BitVec.allOnes 64 else wordOfInt (x.toInt.tdiv y.toInt)
def divU (x y : Word) : Word := if y = 0 then BitVec.allOnes 64 else x / y
def remS (x y : Word) : Word := if y = 0 then x else wordOfInt (x.toInt.tmod y.toInt)
def remU (x y : Word) : Word := if y = 0 then x else x % y

/-- Leading and trailing zeros and the count of ones (Table 5.8). -/
def clzWord (x : Word) : Nat := if x = 0 then 64 else 63 - Nat.log2 x.toNat
def ctzFrom (x : Nat) : Nat → Nat
  | 0 => 0
  | n + 1 => if x % 2 = 1 then 0 else 1 + ctzFrom (x / 2) n
def ctzWord (x : Word) : Nat := ctzFrom x.toNat 64
def popFrom (x : Nat) : Nat → Nat
  | 0 => 0
  | n + 1 => x % 2 + popFrom (x / 2) n
def popWord (x : Word) : Nat := popFrom x.toNat 64
/-- Bits, and bytes, in reverse order. -/
def revFrom (x w : Nat) : Nat → Nat → Nat
  | 0, acc => acc
  | n + 1, acc => revFrom (x / 2 ^ w) w n (acc * 2 ^ w + x % 2 ^ w)
def brevWord (x : Word) : Word := BitVec.ofNat 64 (revFrom x.toNat 1 64 0)
def bswapWord (x : Word) : Word := BitVec.ofNat 64 (revFrom x.toNat 8 8 0)
def sextWord (x : Word) (n : Nat) : Word := wordOfInt (signExtNat x.toNat n)
def zextWord (x : Word) (n : Nat) : Word := BitVec.ofNat 64 (x.toNat % 2 ^ n)
def mulHS (x y : Word) : Word := wordOfInt (x.toInt * y.toInt / 2 ^ 64)
def mulHU (x y : Word) : Word := BitVec.ofNat 64 (x.toNat * y.toNat / 2 ^ 64)
def sltWord (x y : Word) : Bool := decide (x.toInt < y.toInt)
def sltuWord (x y : Word) : Bool := decide (x.toNat < y.toNat)

/-- `ADD` (R99, Table 5.6). -/
def execAdd (p : Pfx) (d a b : Fin 16) (s : State) : Res :=
  let x := s.me.getG a
  s.alu p d b (fun y => x + y)

/-- `SUB` (R99, Table 5.6). -/
def execSub (p : Pfx) (d a b : Fin 16) (s : State) : Res :=
  let x := s.me.getG a
  s.alu p d b (fun y => x - y)

/-- `AND` (R99, Table 5.6). -/
def execAnd (p : Pfx) (d a b : Fin 16) (s : State) : Res :=
  let x := s.me.getG a
  s.alu p d b (fun y => x &&& y)

/-- `OR` (R99, Table 5.6). -/
def execOr (p : Pfx) (d a b : Fin 16) (s : State) : Res :=
  let x := s.me.getG a
  s.alu p d b (fun y => x ||| y)

/-- `XOR` (R99, Table 5.6). -/
def execXor (p : Pfx) (d a b : Fin 16) (s : State) : Res :=
  let x := s.me.getG a
  s.alu p d b (fun y => x ^^^ y)

/-- `MUL` (R99, Table 5.6). -/
def execMul (p : Pfx) (d a b : Fin 16) (s : State) : Res :=
  let x := s.me.getG a
  s.alu p d b (fun y => x * y)

/-- `SLL` (R99, Table 5.6). -/
def execSll (p : Pfx) (d a b : Fin 16) (s : State) : Res :=
  let x := s.me.getG a
  s.alu p d b (fun y => x <<< shamt y)

/-- `SRL` (R99, Table 5.6). -/
def execSrl (p : Pfx) (d a b : Fin 16) (s : State) : Res :=
  let x := s.me.getG a
  s.alu p d b (fun y => x >>> shamt y)

/-- `SLT` (R99, Table 5.6). -/
def execSlt (p : Pfx) (d a b : Fin 16) (s : State) : Res :=
  let x := s.me.getG a
  s.alu p d b (fun y => boolWord (sltWord x y))

/-- `SLTU` (R99, Table 5.6). -/
def execSltu (p : Pfx) (d a b : Fin 16) (s : State) : Res :=
  let x := s.me.getG a
  s.alu p d b (fun y => boolWord (sltuWord x y))

/-- `SRA` (R100, Table 5.7). -/
def execSra (p : Pfx) (d a : Fin 16) (s : State) : Res :=
  let x := s.me.getG d
  s.alu p d a (fun y => x.sshiftRight (shamt y))

/-- `ROR` (R100, Table 5.7). -/
def execRor (p : Pfx) (d a : Fin 16) (s : State) : Res :=
  let x := s.me.getG d
  s.alu p d a (fun y => x.rotateRight (shamt y))

/-- `MULH` (R100, Table 5.7). -/
def execMulh (p : Pfx) (d a : Fin 16) (s : State) : Res :=
  let x := s.me.getG d
  s.alu p d a (fun y => mulHS x y)

/-- `MULHU` (R100, Table 5.7). -/
def execMulhu (p : Pfx) (d a : Fin 16) (s : State) : Res :=
  let x := s.me.getG d
  s.alu p d a (fun y => mulHU x y)

/-- `DIV` (R100, Table 5.7). -/
def execDiv (p : Pfx) (d a : Fin 16) (s : State) : Res :=
  let x := s.me.getG d
  s.alu p d a (fun y => divS x y)

/-- `DIVU` (R100, Table 5.7). -/
def execDivu (p : Pfx) (d a : Fin 16) (s : State) : Res :=
  let x := s.me.getG d
  s.alu p d a (fun y => divU x y)

/-- `REM` (R100, Table 5.7). -/
def execRem (p : Pfx) (d a : Fin 16) (s : State) : Res :=
  let x := s.me.getG d
  s.alu p d a (fun y => remS x y)

/-- `REMU` (R100, Table 5.7). -/
def execRemu (p : Pfx) (d a : Fin 16) (s : State) : Res :=
  let x := s.me.getG d
  s.alu p d a (fun y => remU x y)

/-- `MIN` (R100, Table 5.7). -/
def execMin (p : Pfx) (d a : Fin 16) (s : State) : Res :=
  let x := s.me.getG d
  s.alu p d a (fun y => if sltWord y x then y else x)

/-- `MAX` (R100, Table 5.7). -/
def execMax (p : Pfx) (d a : Fin 16) (s : State) : Res :=
  let x := s.me.getG d
  s.alu p d a (fun y => if sltWord x y then y else x)

/-- `MINU` (R100, Table 5.7). -/
def execMinu (p : Pfx) (d a : Fin 16) (s : State) : Res :=
  let x := s.me.getG d
  s.alu p d a (fun y => if sltuWord y x then y else x)

/-- `MAXU` (R100, Table 5.7). -/
def execMaxu (p : Pfx) (d a : Fin 16) (s : State) : Res :=
  let x := s.me.getG d
  s.alu p d a (fun y => if sltuWord x y then y else x)

/-- `SEQ` (R100, Table 5.7). -/
def execSeq (p : Pfx) (d a : Fin 16) (s : State) : Res :=
  let x := s.me.getG d
  s.alu p d a (fun y => boolWord (x == y))

/-- `SNE` (R100, Table 5.7). -/
def execSne (p : Pfx) (d a : Fin 16) (s : State) : Res :=
  let x := s.me.getG d
  s.alu p d a (fun y => boolWord (x != y))

/-- `ANDN` (R100, Table 5.7). -/
def execAndn (p : Pfx) (d a : Fin 16) (s : State) : Res :=
  let x := s.me.getG d
  s.alu p d a (fun y => x &&& ~~~y)

/-- `MOV` (R100, Table 5.7). -/
def execMov (p : Pfx) (d a : Fin 16) (s : State) : Res :=
  s.alu p d a (fun y => y)

/-- `NEG` (R101, Table 5.8). -/
def execNeg (p : Pfx) (d a : Fin 16) (s : State) : Res :=
  s.alu p d a (fun y => -y)

/-- `NOT` (R101, Table 5.8). -/
def execNot (p : Pfx) (d a : Fin 16) (s : State) : Res :=
  s.alu p d a (fun y => ~~~y)

/-- `CLZ` (R101, Table 5.8). -/
def execClz (p : Pfx) (d a : Fin 16) (s : State) : Res :=
  s.alu p d a (fun y => BitVec.ofNat 64 (clzWord y))

/-- `CTZ` (R101, Table 5.8). -/
def execCtz (p : Pfx) (d a : Fin 16) (s : State) : Res :=
  s.alu p d a (fun y => BitVec.ofNat 64 (ctzWord y))

/-- `POPC` (R101, Table 5.8). -/
def execPopc (p : Pfx) (d a : Fin 16) (s : State) : Res :=
  s.alu p d a (fun y => BitVec.ofNat 64 (popWord y))

/-- `BREV` (R101, Table 5.8). -/
def execBrev (p : Pfx) (d a : Fin 16) (s : State) : Res :=
  s.alu p d a (fun y => brevWord y)

/-- `BSWAP` (R101, Table 5.8). -/
def execBswap (p : Pfx) (d a : Fin 16) (s : State) : Res :=
  s.alu p d a (fun y => bswapWord y)

/-- `SEXTB` (R101, Table 5.8). -/
def execSextb (p : Pfx) (d a : Fin 16) (s : State) : Res :=
  s.alu p d a (fun y => sextWord y 8)

/-- `SEXTH` (R101, Table 5.8). -/
def execSexth (p : Pfx) (d a : Fin 16) (s : State) : Res :=
  s.alu p d a (fun y => sextWord y 16)

/-- `SEXTW` (R101, Table 5.8). -/
def execSextw (p : Pfx) (d a : Fin 16) (s : State) : Res :=
  s.alu p d a (fun y => sextWord y 32)

/-- `ZEXTB` (R101, Table 5.8). -/
def execZextb (p : Pfx) (d a : Fin 16) (s : State) : Res :=
  s.alu p d a (fun y => zextWord y 8)

/-- `ZEXTH` (R101, Table 5.8). -/
def execZexth (p : Pfx) (d a : Fin 16) (s : State) : Res :=
  s.alu p d a (fun y => zextWord y 16)

/-- `ZEXTW` (R101, Table 5.8). -/
def execZextw (p : Pfx) (d a : Fin 16) (s : State) : Res :=
  s.alu p d a (fun y => zextWord y 32)

/-- `ADDI` (R102). -/
def execAddi (p : Pfx) (d a : Fin 16) (e : Int) (s : State) : Res :=
  s.alu p d a (fun y => y + wordOfInt e)

/-- `ANDI` (R102, R103, Table 5.9). -/
def execAndi (p : Pfx) (d : Fin 16) (e : Int) (s : State) : Res :=
  s.alu p d d (fun y => y &&& wordOfInt e)

/-- `ORI` (R102, R103, Table 5.9). -/
def execOri (p : Pfx) (d : Fin 16) (e : Int) (s : State) : Res :=
  s.alu p d d (fun y => y ||| wordOfInt e)

/-- `XORI` (R102, R103, Table 5.9). -/
def execXori (p : Pfx) (d : Fin 16) (e : Int) (s : State) : Res :=
  s.alu p d d (fun y => y ^^^ wordOfInt e)

/-- `SLTI` (R102, R103, Table 5.9). -/
def execSlti (p : Pfx) (d : Fin 16) (e : Int) (s : State) : Res :=
  s.alu p d d (fun y => boolWord (decide (y.toInt < e)))

/-- `SEQI` (R102, R103, Table 5.9). -/
def execSeqi (p : Pfx) (d : Fin 16) (e : Int) (s : State) : Res :=
  s.alu p d d (fun y => boolWord (y == wordOfInt e))

/-- `SLLI` (R102, Table 5.9). -/
def execSlli (p : Pfx) (d : Fin 16) (n : Nat) (s : State) : Res :=
  s.alu p d d (fun y => y <<< n)

/-- `SRLI` (R102, Table 5.9). -/
def execSrli (p : Pfx) (d : Fin 16) (n : Nat) (s : State) : Res :=
  s.alu p d d (fun y => y >>> n)

/-- `SRAI` (R102, Table 5.9). -/
def execSrai (p : Pfx) (d : Fin 16) (n : Nat) (s : State) : Res :=
  s.alu p d d (fun y => y.sshiftRight n)

/-- `LI` (R102). -/
def execLi (p : Pfx) (d : Fin 16) (e : Int) (s : State) : Res :=
  (s.setMe (s.me.setG d (wordOfInt e))).finish p

end Sys2Proof.Machine
end

