-- ==== Sys2Proof/Machine/VectorMem.lean ====
section
/-! DEFINITION. Vector loads, stores, gather and scatter (R199, R200). -/

namespace Sys2Proof.Machine

/-- What the checks of a vector access give: the accessed bytes with their keys and key generations. -/
inductive VecCheck where
  | ok (bytes : List (Nat × Nat × Nat))
  | wait
  | trap (cause : Nat) (faddr : Word)
  | absent (key : Nat)

/-- One global access of n bytes whose lanes start at `lane`. -/
def State.vecGlobal (s : State) (want : Want) (va : Word) (lane n : Nat) (rest : Unit → VecCheck) : VecCheck :=
  match s.globalCheck va want (want = .write) with
  | .trap c f => .trap c f
  | .absent k => .absent k
  | .ok l uid =>
    match rest () with
    | .ok bs => .ok ((List.range n).map (fun j => (lane + j, l.key + j, uid)) ++ bs)
    | r => r

/-- One local doubleword. -/
def State.vecLocal (s : State) (want : Want) (a : Word) (lane : Nat) (rest : Unit → VecCheck) : VecCheck :=
  match s.localCheck want a with
  | .wait => .wait
  | .trap c f => .trap c f
  | .ok =>
    match rest () with
    | .ok bs => .ok ((List.range 8).map (fun j => (lane + j, a.toNat + j, 0)) ++ bs)
    | r => r

/-- A byte lane is active when its own mask bit is. -/
def Ctx.byteActive (c : Ctx) (j : Nat) : Bool := c.active 8 j

/-- The checks of VLD and VST: every doubleword that holds an active byte, in ascending address. -/
def State.vecChecks (s : State) (want : Want) (loc : Bool) (a : Word) : List Nat → VecCheck
  | [] => .ok []
  | i :: is =>
    if !(List.range 8).any (fun j => s.cx.byteActive (8 * i + j)) then s.vecChecks want loc a is
    else
      let va := a + BitVec.ofNat 64 (8 * i)
      if loc then s.vecLocal want va (8 * i) (fun _ => s.vecChecks want loc a is)
      else s.vecGlobal want va (8 * i) 8 (fun _ => s.vecChecks want loc a is)

/-- The active ones of the checked bytes. -/
def Ctx.activeBytes (c : Ctx) (bs : List (Nat × Nat × Nat)) : List (Nat × Nat × Nat) :=
  bs.filter (fun b => c.byteActive b.1)

/-- The destination before the loaded bytes: inactive bytes by MZ. -/
def Ctx.loadBase (c : Ctx) (d : Fin 16) : BitVec 1024 := if c.mz then 0 else c.vreg d

/-- A global vector load leaves the core; `mask` is that of the bytes of an element (R167). -/
def State.vloadGlobal (s : State) (p : Pfx) (d : Fin 16) (va : Word) (bs : List (Nat × Nat × Nat))
    (base : BitVec 1024) (mask : Byte) : Res :=
  let keys := bs.map (fun b => b.2.1)
  let uids := (bs.map (fun b => b.2.2)).dedup
  s.issueAccess p s.me
    (s.newAccess p va keys (uids.headD 0)
      (.vload d base (bs.map (fun b => (b.1, b.2.1))) mask (s.me.overlay keys)
        (s.me.vwOverlay keys))) uids

/-- Stored bytes gathered by key generation. -/
def byUid (bs : List (Nat × Nat × Nat)) (f : Nat → Byte) : List (Nat × List (Nat × Byte)) :=
  (bs.map (fun b => b.2.2)).dedup.map (fun u =>
    (u, (bs.filter (fun b => b.2.2 == u)).map (fun b => (b.2.1, f b.1))))

/-- `VLD` (R199). -/
def execVld (p : Pfx) (d a : Fin 16) (loc : Bool) (off : Int) (s : State) : Res :=
  let c := s.cx
  let va := s.me.addr a off
  if va.toNat % 8 ≠ 0 then s.trapMe Cause.align va
  else match s.vecChecks .read loc va (List.range 16) with
    | .trap x f => s.trapMe x f
    | .absent k => .fault (.noSuchMemory k)
    | .wait => s.waitCycle
    | .ok bs =>
      let bs := c.activeBytes bs
      if loc then
        let x := putLanes (c.loadBase d) (bs.map (fun b => (b.1, s.localByte b.2.1)))
        (s.setCx (c.setV d x)).finish p
      else s.vloadGlobal p d va bs (c.loadBase d) 0xff

/-- `VST` (R199). -/
def execVst (p : Pfx) (d a : Fin 16) (loc : Bool) (off : Int) (s : State) : Res :=
  let c := s.cx
  let va := s.me.addr a off
  let byte (j : Nat) : Byte := byteAt (c.vreg d).toNat j
  if va.toNat % 8 ≠ 0 then s.trapMe Cause.align va
  else match s.vecChecks .write loc va (List.range 16) with
    | .trap x f => s.trapMe x f
    | .absent k => .fault (.noSuchMemory k)
    | .wait => s.waitCycle
    | .ok bs =>
      let bs := c.activeBytes bs
      if loc then (s.localWrite (bs.map (fun b => (b.2.1, byte b.1)))).finish p
      else s.globalStore p va (byUid bs byte) .vstore

/-- The address of element i of a gather or scatter. -/
def lanesAddr (base : Word) (f : Fmt) (x : BitVec 1024) (i : Nat) : Word :=
  base + wordOfInt (signExtNat (codeAt f x i) f.width * (f.cw / 8 : Nat))

/-- The checks of VGTH and VSCT: every active element in ascending index. -/
def State.gatherChecks (s : State) (want : Want) (f : Fmt) (base : Word) (x : BitVec 1024) : List Nat → VecCheck
  | [] => .ok []
  | i :: is =>
    if !s.cx.active f.cw i then s.gatherChecks want f base x is
    else
      let va := lanesAddr base f x i
      if va.toNat % (f.cw / 8) ≠ 0 then .trap Cause.align va
      else s.vecGlobal want va (i * (f.cw / 8)) (f.cw / 8) (fun _ => s.gatherChecks want f base x is)

/-- Gather and scatter: the type's checks, the address checks, then `go` on the bytes. -/
def State.gatherScatter (s : State) (want : Want) (a b : Fin 16)
    (go : Fmt → List (Nat × Nat × Nat) → Res) : Res :=
  let c := s.cx
  match c.elemType with
  | none => s.trapMe Cause.fmtinv 0
  | some f =>
    if f.cw < 8 then s.trapMe Cause.voptype 0
    else match s.gatherChecks want f (s.me.getG a) (c.vreg b) (List.range (1024 / f.cw)) with
      | .trap x y => s.trapMe x y
      | .absent k => .fault (.noSuchMemory k)
      | .wait => s.waitCycle
      | .ok bs => go f bs

/-- The destination of a gather before the loaded elements: inactive elements by MZ. -/
def Ctx.gatherBase (c : Ctx) (f : Fmt) (d : Fin 16) : BitVec 1024 :=
  (c.elemOp f (c.vreg d) (fun _ => (0, 0))).1

/-- The bits that an element of a byte container has (R167); wider containers have no others. -/
def byteMask (f : Fmt) : Byte := if f.cw = 8 then BitVec.ofNat 8 (2 ^ f.width - 1) else 0xff

/-- `VGTH` (R200). -/
def execVgth (p : Pfx) (d a b : Fin 16) (s : State) : Res :=
  s.gatherScatter .read a b (fun f bs => s.vloadGlobal p d (s.me.getG a) bs (s.cx.gatherBase f d) (byteMask f))

/-- `VSCT` (R200): elements in ascending order, so the highest of one address remains. -/
def execVsct (p : Pfx) (d a b : Fin 16) (s : State) : Res :=
  s.gatherScatter .write a b (fun f bs =>
    s.globalStore p (s.me.getG a) (byUid bs (fun j => byteAt (s.cx.vreg d).toNat j &&& byteMask f)) .vstore)

end Sys2Proof.Machine
end

