-- ==== Sys2Proof/Machine/Dispatch.lean ====
section
/-! DEFINITION. What each instruction, step and event does: one arm for each constructor, each a
direct call of its meaning. -/

namespace Sys2Proof.Machine

def exec (i : Instr) (s : State) : Host.Outcome State Fault Refusal :=
  match i with
  | .nop p => Sys2Proof.Machine.execNop p s
  | .stall p n => Sys2Proof.Machine.execStall p n s
  | .cyc p d => Sys2Proof.Machine.execCyc p d s
  | .trap p n => Sys2Proof.Machine.execTrap p n s
  | .brk p n => Sys2Proof.Machine.execBrk p n s
  | .j p e => Sys2Proof.Machine.execJ p e s
  | .jl p e => Sys2Proof.Machine.execJl p e s
  | .loop p a e => Sys2Proof.Machine.execLoop p a e s
  | .lea p d e => Sys2Proof.Machine.execLea p d e s
  | .jr p a => Sys2Proof.Machine.execJr p a s
  | .jlr p d a => Sys2Proof.Machine.execJlr p d a s
  | .rdc p d cr => Sys2Proof.Machine.execRdc p d cr s
  | .wrc p a cr => Sys2Proof.Machine.execWrc p a cr s
  | .add p d a b => Sys2Proof.Machine.execAdd p d a b s
  | .sub p d a b => Sys2Proof.Machine.execSub p d a b s
  | .and p d a b => Sys2Proof.Machine.execAnd p d a b s
  | .or p d a b => Sys2Proof.Machine.execOr p d a b s
  | .xor p d a b => Sys2Proof.Machine.execXor p d a b s
  | .mul p d a b => Sys2Proof.Machine.execMul p d a b s
  | .sll p d a b => Sys2Proof.Machine.execSll p d a b s
  | .srl p d a b => Sys2Proof.Machine.execSrl p d a b s
  | .slt p d a b => Sys2Proof.Machine.execSlt p d a b s
  | .sltu p d a b => Sys2Proof.Machine.execSltu p d a b s
  | .sra p d a => Sys2Proof.Machine.execSra p d a s
  | .ror p d a => Sys2Proof.Machine.execRor p d a s
  | .mulh p d a => Sys2Proof.Machine.execMulh p d a s
  | .mulhu p d a => Sys2Proof.Machine.execMulhu p d a s
  | .div p d a => Sys2Proof.Machine.execDiv p d a s
  | .divu p d a => Sys2Proof.Machine.execDivu p d a s
  | .rem p d a => Sys2Proof.Machine.execRem p d a s
  | .remu p d a => Sys2Proof.Machine.execRemu p d a s
  | .min p d a => Sys2Proof.Machine.execMin p d a s
  | .max p d a => Sys2Proof.Machine.execMax p d a s
  | .minu p d a => Sys2Proof.Machine.execMinu p d a s
  | .maxu p d a => Sys2Proof.Machine.execMaxu p d a s
  | .seq p d a => Sys2Proof.Machine.execSeq p d a s
  | .sne p d a => Sys2Proof.Machine.execSne p d a s
  | .andn p d a => Sys2Proof.Machine.execAndn p d a s
  | .mov p d a => Sys2Proof.Machine.execMov p d a s
  | .neg p d a => Sys2Proof.Machine.execNeg p d a s
  | .not p d a => Sys2Proof.Machine.execNot p d a s
  | .clz p d a => Sys2Proof.Machine.execClz p d a s
  | .ctz p d a => Sys2Proof.Machine.execCtz p d a s
  | .popc p d a => Sys2Proof.Machine.execPopc p d a s
  | .brev p d a => Sys2Proof.Machine.execBrev p d a s
  | .bswap p d a => Sys2Proof.Machine.execBswap p d a s
  | .sextb p d a => Sys2Proof.Machine.execSextb p d a s
  | .sexth p d a => Sys2Proof.Machine.execSexth p d a s
  | .sextw p d a => Sys2Proof.Machine.execSextw p d a s
  | .zextb p d a => Sys2Proof.Machine.execZextb p d a s
  | .zexth p d a => Sys2Proof.Machine.execZexth p d a s
  | .zextw p d a => Sys2Proof.Machine.execZextw p d a s
  | .addi p d a e => Sys2Proof.Machine.execAddi p d a e s
  | .andi p d e => Sys2Proof.Machine.execAndi p d e s
  | .ori p d e => Sys2Proof.Machine.execOri p d e s
  | .xori p d e => Sys2Proof.Machine.execXori p d e s
  | .slli p d n => Sys2Proof.Machine.execSlli p d n s
  | .srli p d n => Sys2Proof.Machine.execSrli p d n s
  | .srai p d n => Sys2Proof.Machine.execSrai p d n s
  | .slti p d e => Sys2Proof.Machine.execSlti p d e s
  | .seqi p d e => Sys2Proof.Machine.execSeqi p d e s
  | .li p d e => Sys2Proof.Machine.execLi p d e s
  | .ldb p d a loc off => Sys2Proof.Machine.execLdb p d a loc off s
  | .ldbu p d a loc off => Sys2Proof.Machine.execLdbu p d a loc off s
  | .ldh p d a loc off => Sys2Proof.Machine.execLdh p d a loc off s
  | .ldhu p d a loc off => Sys2Proof.Machine.execLdhu p d a loc off s
  | .ldw p d a loc off => Sys2Proof.Machine.execLdw p d a loc off s
  | .ldwu p d a loc off => Sys2Proof.Machine.execLdwu p d a loc off s
  | .ld p d a loc off => Sys2Proof.Machine.execLd p d a loc off s
  | .stb p d a loc off => Sys2Proof.Machine.execStb p d a loc off s
  | .sth p d a loc off => Sys2Proof.Machine.execSth p d a loc off s
  | .stw p d a loc off => Sys2Proof.Machine.execStw p d a loc off s
  | .st p d a loc off => Sys2Proof.Machine.execSt p d a loc off s
  | .swp p d a => Sys2Proof.Machine.execSwp p d a s
  | .cas p d a => Sys2Proof.Machine.execCas p d a s
  | .aadd p d a => Sys2Proof.Machine.execAadd p d a s
  | .aand p d a => Sys2Proof.Machine.execAand p d a s
  | .aor p d a => Sys2Proof.Machine.execAor p d a s
  | .axor p d a => Sys2Proof.Machine.execAxor p d a s
  | .amin p d a => Sys2Proof.Machine.execAmin p d a s
  | .amax p d a => Sys2Proof.Machine.execAmax p d a s
  | .aminu p d a => Sys2Proof.Machine.execAminu p d a s
  | .amaxu p d a => Sys2Proof.Machine.execAmaxu p d a s
  | .fence p => Sys2Proof.Machine.execFence p s
  | .bz p a e => Sys2Proof.Machine.execBz p a e s
  | .bnz p a e => Sys2Proof.Machine.execBnz p a e s
  | .bltz p a e => Sys2Proof.Machine.execBltz p a e s
  | .bgez p a e => Sys2Proof.Machine.execBgez p a e s
  | .vadd p d a b => Sys2Proof.Machine.execVadd p d a b s
  | .vsub p d a b => Sys2Proof.Machine.execVsub p d a b s
  | .vmul p d a b => Sys2Proof.Machine.execVmul p d a b s
  | .vfma p d a b => Sys2Proof.Machine.execVfma p d a b s
  | .vmin p d a b => Sys2Proof.Machine.execVmin p d a b s
  | .vmax p d a b => Sys2Proof.Machine.execVmax p d a b s
  | .vand p d a b => Sys2Proof.Machine.execVand p d a b s
  | .vor p d a b => Sys2Proof.Machine.execVor p d a b s
  | .vxor p d a b => Sys2Proof.Machine.execVxor p d a b s
  | .vsel p d a b => Sys2Proof.Machine.execVsel p d a b s
  | .vcmpeq p d a b => Sys2Proof.Machine.execVcmpeq p d a b s
  | .vcmplt p d a b => Sys2Proof.Machine.execVcmplt p d a b s
  | .vcmple p d a b => Sys2Proof.Machine.execVcmple p d a b s
  | .vcmpne p d a b => Sys2Proof.Machine.execVcmpne p d a b s
  | .vsll p d a => Sys2Proof.Machine.execVsll p d a s
  | .vsrl p d a => Sys2Proof.Machine.execVsrl p d a s
  | .vsra p d a => Sys2Proof.Machine.execVsra p d a s
  | .vandn p d a => Sys2Proof.Machine.execVandn p d a s
  | .vadds p d a => Sys2Proof.Machine.execVadds p d a s
  | .vsubs p d a => Sys2Proof.Machine.execVsubs p d a s
  | .vperm p d a => Sys2Proof.Machine.execVperm p d a s
  | .vsat p d a => Sys2Proof.Machine.execVsat p d a s
  | .vscan p d a => Sys2Proof.Machine.execVscan p d a s
  | .vrsum p d a => Sys2Proof.Machine.execVrsum p d a s
  | .vrmax p d a => Sys2Proof.Machine.execVrmax p d a s
  | .vrmin p d a => Sys2Proof.Machine.execVrmin p d a s
  | .vlse p d a => Sys2Proof.Machine.execVlse p d a s
  | .vbcast p d a => Sys2Proof.Machine.execVbcast p d a s
  | .vrot p d a => Sys2Proof.Machine.execVrot p d a s
  | .vabs p d a => Sys2Proof.Machine.execVabs p d a s
  | .vneg p d a => Sys2Proof.Machine.execVneg p d a s
  | .vnot p d a => Sys2Proof.Machine.execVnot p d a s
  | .vmov p d a => Sys2Proof.Machine.execVmov p d a s
  | .vexp2 p d a => Sys2Proof.Machine.execVexp2 p d a s
  | .vlog2 p d a => Sys2Proof.Machine.execVlog2 p d a s
  | .vrcp p d a => Sys2Proof.Machine.execVrcp p d a s
  | .vrsq p d a => Sys2Proof.Machine.execVrsq p d a s
  | .vsplat p d a => Sys2Proof.Machine.execVsplat p d a s
  | .vget p d a => Sys2Proof.Machine.execVget p d a s
  | .vcvt p d a => Sys2Proof.Machine.execVcvt p d a s
  | .vcvtr p d a b => Sys2Proof.Machine.execVcvtr p d a b s
  | .vqnt p d a b => Sys2Proof.Machine.execVqnt p d a b s
  | .vdq p d a b => Sys2Proof.Machine.execVdq p d a b s
  | .vld p d a loc off => Sys2Proof.Machine.execVld p d a loc off s
  | .vst p d a loc off => Sys2Proof.Machine.execVst p d a loc off s
  | .vgth p d a b => Sys2Proof.Machine.execVgth p d a b s
  | .vsct p d a b => Sys2Proof.Machine.execVsct p d a b s
  | .kand p d a b => Sys2Proof.Machine.execKand p d a b s
  | .kor p d a b => Sys2Proof.Machine.execKor p d a b s
  | .kxor p d a => Sys2Proof.Machine.execKxor p d a s
  | .knot p d a => Sys2Proof.Machine.execKnot p d a s
  | .kmov p d a => Sys2Proof.Machine.execKmov p d a s
  | .kpop p d a => Sys2Proof.Machine.execKpop p d a s
  | .kfirst p d a => Sys2Proof.Machine.execKfirst p d a s
  | .kset p d => Sys2Proof.Machine.execKset p d s
  | .kclr p d => Sys2Proof.Machine.execKclr p d s
  | .tcfg p d a => Sys2Proof.Machine.execTcfg p d a s
  | .trdc p d a => Sys2Proof.Machine.execTrdc p d a s
  | .tz p d => Sys2Proof.Machine.execTz p d s
  | .ttr p d a => Sys2Proof.Machine.execTtr p d a s
  | .tfill p d pat => Sys2Proof.Machine.execTfill p d pat s
  | .tqnt p d s_ => Sys2Proof.Machine.execTqnt p d s_ s
  | .acvt p d s_ => Sys2Proof.Machine.execAcvt p d s_ s
  | .aclr p s_ => Sys2Proof.Machine.execAclr p s_ s
  | .tldl p d a off => Sys2Proof.Machine.execTldl p d a off s
  | .tstl p d a off => Sys2Proof.Machine.execTstl p d a off s
  | .aldl p s_ a off => Sys2Proof.Machine.execAldl p s_ a off s
  | .astl p s_ a off => Sys2Proof.Machine.execAstl p s_ a off s
  | .mma p s_ ta tb => Sys2Proof.Machine.execMma p s_ ta tb s
  | .mmas p s_ ta tb => Sys2Proof.Machine.execMmas p s_ ta tb s
  | .mmab p s_ ta tb => Sys2Proof.Machine.execMmab p s_ ta tb s
  | .mmam p s_ a => Sys2Proof.Machine.execMmam p s_ a s
  | .send p d a => Sys2Proof.Machine.execSend p d a s
  | .sendm p d a => Sys2Proof.Machine.execSendm p d a s
  | .sendq p d => Sys2Proof.Machine.execSendq p d s
  | .spawn p d => Sys2Proof.Machine.execSpawn p d s
  | .done p => Sys2Proof.Machine.execDone p s
  | .yield p => Sys2Proof.Machine.execYield p s
  | .post p dir a => Sys2Proof.Machine.execPost p dir a s
  | .xget p d dir => Sys2Proof.Machine.execXget p d dir s
  | .qcfg p q a => Sys2Proof.Machine.execQcfg p q a s
  | .qpop p d q => Sys2Proof.Machine.execQpop p d q s
  | .park p d a => Sys2Proof.Machine.execPark p d a s
  | .vwld p d a b => Sys2Proof.Machine.execVwld p d a b s
  | .vwst p d a b => Sys2Proof.Machine.execVwst p d a b s
  | .vwinc p d a => Sys2Proof.Machine.execVwinc p d a s
  | .vwpk p d a => Sys2Proof.Machine.execVwpk p d a s
  | .vwrst p a => Sys2Proof.Machine.execVwrst p a s
  | .att p d => Sys2Proof.Machine.execAtt p d s
  | .det p d => Sys2Proof.Machine.execDet p d s
  | .hand p d a => Sys2Proof.Machine.execHand p d a s
  | .bqry p d a => Sys2Proof.Machine.execBqry p d a s
  | .revoke p d => Sys2Proof.Machine.execRevoke p d s
  | .bzero p d => Sys2Proof.Machine.execBzero p d s
  | .handx p d a b => Sys2Proof.Machine.execHandx p d a b s
  | .cpy p d => Sys2Proof.Machine.execCpy p d s
  | .cpyw p d => Sys2Proof.Machine.execCpyw p d s
  | .cpym p d => Sys2Proof.Machine.execCpym p d s
  | .ccan p d => Sys2Proof.Machine.execCcan p d s
  | .cqset p d a => Sys2Proof.Machine.execCqset p d a s
  | .cpos p d a ch => Sys2Proof.Machine.execCpos p d a ch s
  | .cwait p a ch => Sys2Proof.Machine.execCwait p a ch s
  | .task p d => Sys2Proof.Machine.execTask p d s
  | .ttag p d a => Sys2Proof.Machine.execTtag p d a s
  | .tshape p d a => Sys2Proof.Machine.execTshape p d a s
  | .tqry p d a => Sys2Proof.Machine.execTqry p d a s
  | .mtload p d => Sys2Proof.Machine.execMtload p d s
  | .pload p pair c b => Sys2Proof.Machine.execPload p pair c b s
  | .pdist p d pair c => Sys2Proof.Machine.execPdist p d pair c s
  | .psetm p d a => Sys2Proof.Machine.execPsetm p d a s
  | .psets p d a => Sys2Proof.Machine.execPsets p d a s
  | .bal p pair => Sys2Proof.Machine.execBal p pair s
  | .balx p pair k => Sys2Proof.Machine.execBalx p pair k s
  | .pmat p d pair => Sys2Proof.Machine.execPmat p d pair s
  | .pstat p d => Sys2Proof.Machine.execPstat p d s
  | .pmovToBank p d x => Sys2Proof.Machine.execPmovToBank p d x s
  | .pmovFromBank p d x => Sys2Proof.Machine.execPmovFromBank p d x s
  | .mcall p a => Sys2Proof.Machine.execMcall p a s
  | .clrst p => Sys2Proof.Machine.execClrst p s
  | .idle p => Sys2Proof.Machine.execIdle p s
  | .wrcWp p a => Sys2Proof.Machine.execWrcWp p a s
  | .wrcVtype p a => Sys2Proof.Machine.execWrcVtype p a s
  | .wrcBs p a => Sys2Proof.Machine.execWrcBs p a s
  | .wrcSmc p a => Sys2Proof.Machine.execWrcSmc p a s
  | .wrcFmt p a j => Sys2Proof.Machine.execWrcFmt p a j s
  | .rdcSbcnt p d => Sys2Proof.Machine.execRdcSbcnt p d s
  | .rdcKmc p d => Sys2Proof.Machine.execRdcKmc p d s
  | .mver => Sys2Proof.Machine.execMver s
  | .qheld => Sys2Proof.Machine.execQheld s
  | .fqset => Sys2Proof.Machine.execFqset s
  | .tqset => Sys2Proof.Machine.execTqset s
  | .maskset => Sys2Proof.Machine.execMaskset s
  | .treeset => Sys2Proof.Machine.execTreeset s
  | .cpool => Sys2Proof.Machine.execCpool s
  | .kimport => Sys2Proof.Machine.execKimport s
  | .krevoke => Sys2Proof.Machine.execKrevoke s
  | .resume => Sys2Proof.Machine.execResume s
  | .kstate => Sys2Proof.Machine.execKstate s
  | .tctl => Sys2Proof.Machine.execTctl s
  | .ptmap => Sys2Proof.Machine.execPtmap s
  | .nextAction => Sys2Proof.Machine.execNextAction s
  | .steal => Sys2Proof.Machine.execSteal s
  | .idleRetry => Sys2Proof.Machine.execIdleRetry s
  | .headAging => Sys2Proof.Machine.execHeadAging s
  | .fifoArrival m => Sys2Proof.Machine.execFifoArrival m s
  | .rankedArrival m => Sys2Proof.Machine.execRankedArrival m s
  | .bounceResend => Sys2Proof.Machine.execBounceResend s
  | .messageAccepted m => Sys2Proof.Machine.execMessageAccepted m s
  | .sendRoomFreed => Sys2Proof.Machine.execSendRoomFreed s
  | .multicastForward m tree node => Sys2Proof.Machine.execMulticastForward m tree node s
  | .budgetExpiry => Sys2Proof.Machine.execBudgetExpiry s
  | .faultRecordDeferred => Sys2Proof.Machine.execFaultRecordDeferred s
  | .linkValueArrival l => Sys2Proof.Machine.execLinkValueArrival l s
  | .linkCreditReturn c dir => Sys2Proof.Machine.execLinkCreditReturn c dir s
  | .vwHomeLoad r => Sys2Proof.Machine.execVwHomeLoad r s
  | .vwHomePark r => Sys2Proof.Machine.execVwHomePark r s
  | .vwHomeStore r => Sys2Proof.Machine.execVwHomeStore r s
  | .vwHomeInc r => Sys2Proof.Machine.execVwHomeInc r s
  | .vwHomePeek r => Sys2Proof.Machine.execVwHomePeek r s
  | .vwHomeReset r => Sys2Proof.Machine.execVwHomeReset r s
  | .vwReply r => Sys2Proof.Machine.execVwReply r s
  | .handReservation r => Sys2Proof.Machine.execHandReservation r s
  | .handGrant r ok => Sys2Proof.Machine.execHandGrant r ok s
  | .bankAttach r => Sys2Proof.Machine.execBankAttach r s
  | .bankReturnPool b => Sys2Proof.Machine.execBankReturnPool b s
  | .bankRevoked r => Sys2Proof.Machine.execBankRevoked r s
  | .scrubComplete b => Sys2Proof.Machine.execScrubComplete b s
  | .bankPoison b off => Sys2Proof.Machine.execBankPoison b off s
  | .mmamStep => Sys2Proof.Machine.execMmamStep s
  | .balSweep => Sys2Proof.Machine.execBalSweep s
  | .copyCommand r => Sys2Proof.Machine.execCopyCommand r s
  | .cpymVersionReached r => Sys2Proof.Machine.execCpymVersionReached r s
  | .copyLine => Sys2Proof.Machine.execCopyLine s
  | .copyBudgetWindow => Sys2Proof.Machine.execCopyBudgetWindow s
  | .asterTaskArrival r => Sys2Proof.Machine.execAsterTaskArrival r s
  | .asterDependenceMet => Sys2Proof.Machine.execAsterDependenceMet s
  | .asterStagingDone r => Sys2Proof.Machine.execAsterStagingDone r s
  | .asterRetirement r => Sys2Proof.Machine.execAsterRetirement r s
  | .methodTableInstall => Sys2Proof.Machine.execMethodTableInstall s
  | .keyReload => Sys2Proof.Machine.execKeyReload s
  | .directoryOverflow => Sys2Proof.Machine.execDirectoryOverflow s
  | .keyInvalidationComplete => Sys2Proof.Machine.execKeyInvalidationComplete s
  | .sliceExpiry => Sys2Proof.Machine.execSliceExpiry s
  | .hostSubmit => Sys2Proof.Machine.execHostSubmit s
  | .getVersion => Sys2Proof.Machine.execGetVersion s
  | .getCapabilities => Sys2Proof.Machine.execGetCapabilities s
  | .negotiateAlgorithms => Sys2Proof.Machine.execNegotiateAlgorithms s
  | .getDigests => Sys2Proof.Machine.execGetDigests s
  | .getCertificate => Sys2Proof.Machine.execGetCertificate s
  | .challenge => Sys2Proof.Machine.execChallenge s
  | .getMeasurements => Sys2Proof.Machine.execGetMeasurements s
  | .keyExchange => Sys2Proof.Machine.execKeyExchange s
  | .finish => Sys2Proof.Machine.execFinish s
  | .keyUpdate => Sys2Proof.Machine.execKeyUpdate s
  | .heartbeat => Sys2Proof.Machine.execHeartbeat s
  | .endSession => Sys2Proof.Machine.execEndSession s
  | .unsupportedRequest => Sys2Proof.Machine.execUnsupportedRequest s
  | .lockInterfaceRequest => Sys2Proof.Machine.execLockInterfaceRequest s
  | .startInterfaceRequest => Sys2Proof.Machine.execStartInterfaceRequest s
  | .stopInterfaceRequest => Sys2Proof.Machine.execStopInterfaceRequest s
  | .getDeviceInterfaceReport => Sys2Proof.Machine.execGetDeviceInterfaceReport s
  | .keyProg => Sys2Proof.Machine.execKeyProg s
  | .keyActivate => Sys2Proof.Machine.execKeyActivate s
  | .keyRetire => Sys2Proof.Machine.execKeyRetire s
  | .keyRevoke => Sys2Proof.Machine.execKeyRevoke s
  | .partCreate => Sys2Proof.Machine.execPartCreate s
  | .partRebuild => Sys2Proof.Machine.execPartRebuild s
  | .partDestroy => Sys2Proof.Machine.execPartDestroy s
  | .bankRelease => Sys2Proof.Machine.execBankRelease s
  | .ideThresh => Sys2Proof.Machine.execIdeThresh s
  | .lifetimeRead => Sys2Proof.Machine.execLifetimeRead s
  | .debugDisable => Sys2Proof.Machine.execDebugDisable s
  | .debugEnable => Sys2Proof.Machine.execDebugEnable s
  | .debugResume => Sys2Proof.Machine.execDebugResume s
  | .debugReadRegister => Sys2Proof.Machine.execDebugReadRegister s
  | .debugWriteRegister => Sys2Proof.Machine.execDebugWriteRegister s
  | .measLog => Sys2Proof.Machine.execMeasLog s
  | .partResume => Sys2Proof.Machine.execPartResume s
  | .imgLoad => Sys2Proof.Machine.execImgLoad s
  | .kSetGo => Sys2Proof.Machine.execKSetGo s
  | .ideRekeyDue => Sys2Proof.Machine.execIdeRekeyDue s
  | .ideInsecure => Sys2Proof.Machine.execIdeInsecure s
  | .atsInvalidation => Sys2Proof.Machine.execAtsInvalidation s
  | .atsInvalidationComplete => Sys2Proof.Machine.execAtsInvalidationComplete s
  | .evtailWrite => Sys2Proof.Machine.execEvtailWrite s
  | .fatalCoreError => Sys2Proof.Machine.execFatalCoreError s
  | .correctedError => Sys2Proof.Machine.execCorrectedError s
  | .meshLinkFailure => Sys2Proof.Machine.execMeshLinkFailure s
  | .thermalTrip => Sys2Proof.Machine.execThermalTrip s
  | .clockStretch => Sys2Proof.Machine.execClockStretch s
  | .powerOn => Sys2Proof.Machine.execPowerOn s
  | .lifetimeFlush => Sys2Proof.Machine.execLifetimeFlush s
  | .powerDown => Sys2Proof.Machine.execPowerDown s
  | .cirrusLinkBringup => Sys2Proof.Machine.execCirrusLinkBringup s
  | .illegalSequence detail x inPlace => Sys2Proof.Machine.execIllegalSequence detail x inPlace s
  | .fetchFault va cause => Sys2Proof.Machine.execFetchFault va cause s
  | .accessPerformed x => Sys2Proof.Machine.execAccessPerformed x s
  | .lossOfPower => Sys2Proof.Machine.execLossOfPower s

end Sys2Proof.Machine
end

