-- ==== Sys2Proof/Machine/Hazard.lean ====
section
/-! DEFINITION. The latency contract: what each sequence reads and writes, the latencies of Table 5.3, and
the stale values of scoreboard mode off (R94 to R98, R207). -/

namespace Sys2Proof.Machine

/-- The registers a sequence reads and writes, and its latency; 0 is variable (R95). -/
structure Haz where
  reads : List Reg := []
  writes : List Reg := []
  lat : Nat := 0

def rg (r : Fin 16) : Reg := .g r.val
def rv (r : Fin 16) : Reg := .v r.val
def rk (r : Fin 8) : Reg := .k r.val
def rt (r : Fin 8) : Reg := .t r.val
def rtc (r : Fin 8) : Reg := .tc r.val
def racc (r : Fin 4) : Reg := .acc r.val

/-- g0 to g7, the carried set. -/
def carriedRegs : List Reg := (List.range 8).map Reg.g

/-- A last source that dq may replace, or a condition that bq may replace. -/
def srcReg (p : Pfx) (r : Fin 16) : List Reg := if p.qs = .srcDq || p.qs = .bqCond then [] else [rg r]
/-- A destination that a queue may replace. -/
def dstReg (p : Pfx) (r : Fin 16) : List Reg := if p.qs = .dstQ then [] else [rg r]

def hazFA (p : Pfx) (d a b : Fin 16) (lat : Nat) : Haz :=
  { reads := rg a :: srcReg p b, writes := dstReg p d, lat := lat }
def hazFB (p : Pfx) (d a : Fin 16) (lat : Nat) : Haz :=
  { reads := rg d :: srcReg p a, writes := dstReg p d, lat := lat }
def hazUnary (p : Pfx) (d a : Fin 16) (lat : Nat) : Haz := { reads := srcReg p a, writes := [rg d], lat := lat }
def hazImm (p : Pfx) (d : Fin 16) : Haz :=
  { reads := if p.qs = .srcDq then [] else [rg d], writes := dstReg p d, lat := 1 }
def hazAtomic (d a : Fin 16) : Haz := { reads := [rg a, rg d], writes := [rg d] }
def hazReads (rs : List (Fin 16)) : Haz := { reads := rs.map rg }

/-- The element type is a floating-point one. -/
def Ctx.floats (c : Ctx) : Bool :=
  match c.elemType with
  | some f => f.exp != 0
  | none => false

/-- The mask register, when masking is on (R188). -/
def Ctx.maskReg (c : Ctx) : List Reg := if c.men then [rk c.mreg] else []
/-- The same, and the destination, when inactive elements keep it (ElemOp of R188, log 38). -/
def Ctx.maskReads (c : Ctx) (d : Reg) : List Reg := c.maskReg ++ (if c.men && !c.mz then [d] else [])

/-- A vector instruction on registers. -/
def Ctx.hazV (c : Ctx) (d : Fin 16) (rs : List (Fin 16)) (lat : Nat) : Haz :=
  { reads := rs.map rv ++ c.maskReads (rv d), writes := [rv d], lat := lat }
def Ctx.latF (c : Ctx) (int : Nat) : Nat := if c.floats then 4 else int
/-- A compare. The row of Table 5.3 that names it restates "integer" before VABS, so it covers the compares of every
element type, as it covers VSEL and VMOV (log 57). -/
def Ctx.hazCmp (c : Ctx) (d : Fin 8) (a b : Fin 16) : Haz :=
  { reads := [rv a, rv b] ++ c.maskReg, writes := [rk d], lat := 2 }
/-- An instruction that writes every element of its destination, or reads only its source (R191, R195). -/
def Ctx.hazAll (c : Ctx) (d : Fin 16) (rs : List (Fin 16)) (lat : Nat) : Haz :=
  { reads := rs.map rv ++ c.maskReg, writes := [rv d], lat := lat }
/-- A conversion into a narrower container leaves elements of its destination as they were (R196). -/
def Ctx.hazCvt (c : Ctx) (d : Fin 16) (rs : List (Fin 16)) : Haz :=
  let narrow := match c.elemType, c.srcType with
    | some fd, some fs => decide (fd.cw < fs.cw)
    | _, _ => false
  c.hazV d (if narrow then d :: rs else rs) 4
def hazK (d : Fin 8) (rs : List (Fin 8)) : Haz := { reads := rs.map rk, writes := [rk d], lat := 2 }

/-- MMA, MMAS, MMAB: 80, or 144 with 16-bit elements (Table 5.3). -/
def Ctx.hazMma (c : Ctx) (s_ : Fin 4) (ta tb : Fin 8) : Haz :=
  let cw := match tcFmt c.fmt c.tc[ta] with
    | some f => f.cw
    | none => 16
  { reads := [rt ta, rt tb, rtc ta, rtc tb, racc s_], writes := [racc s_], lat := if cw ≤ 8 then 80 else 144 }

/-- The tiles and control registers of a plan pair. -/
def pairRegs (pair : Fin 4) : List Reg :=
  [rt (loTile pair), rt (hiTile pair), rtc (loTile pair), rtc (hiTile pair)]

/-- How many of g8 to g11 a monitor service takes (Table 19.3). -/
def serviceArgs (n : Nat) : Nat :=
  match n with
  | 1 | 2 | 3 | 12 => 3
  | 4 | 5 | 6 | 11 => 2
  | 7 => 4
  | 8 | 9 | 10 => 1
  | _ => 0

/-- The general registers that lie at n local bytes from a, when those are the strand's own workspace (R87). -/
def Core.wsRegs (k : Core) (a : Word) (n : Nat) : List Reg :=
  let w := k.cx.wp.toNat
  ((List.range 16).filter (fun i => decide (a.toNat < w + 8 * i + 8 ∧ w + 8 * i < a.toNat + n))).map Reg.g

/-- The same for a vector access of 128 bytes: a doubleword without an active byte is not accessed (R199). -/
def Core.wsVector (k : Core) (a : Word) : List Reg :=
  let w := k.cx.wp.toNat
  ((List.range 16).filter (fun i => (List.range 8).any (fun j =>
    let b := w + 8 * i + j
    decide (a.toNat ≤ b ∧ b < a.toNat + 128) && k.cx.byteActive (b - a.toNat)))).map Reg.g

/-- What reads and writes of local memory add (R87, R88). -/
def Haz.reading (h : Haz) (k : Core) (a : Word) (n : Nat) : Haz := { h with reads := h.reads ++ k.wsRegs a n }
def Haz.writing (h : Haz) (k : Core) (a : Word) (n : Nat) : Haz := { h with writes := h.writes ++ k.wsRegs a n }
def Core.hazLoad (k : Core) (p : Pfx) (d a : Fin 16) (loc : Bool) (off : Int) (n : Nat) : Haz :=
  let h : Haz := { reads := [rg a], writes := dstReg p d }
  if loc then h.reading k (k.addr a off) n else h
def Core.hazStore (k : Core) (p : Pfx) (d a : Fin 16) (loc : Bool) (off : Int) (n : Nat) : Haz :=
  let h : Haz := { reads := rg a :: srcReg p d }
  if loc then h.writing k (k.addr a off) n else h

/-- Every general register, and all the state that CLRST sets. -/
def allG : List Reg := (List.range 16).map Reg.g
def clrstRegs : List Reg :=
  (List.range 16).map Reg.v ++ (List.range 8).map Reg.k ++ (List.range 8).map Reg.t ++ (List.range 8).map Reg.tc
    ++ (List.range 4).map Reg.acc

/-- What each sequence reads and writes on core k; steps and events have none. -/
def hazard (k : Core) (i : Instr) : Haz :=
  let c := k.cx
  match i with
  | .cyc _ d => { writes := [rg d], lat := 2 }
  | .jl _ _ => { writes := [.g 15], lat := 1 }
  | .loop _ a _ => { reads := [rg a], writes := [rg a], lat := 1 }
  | .lea _ d _ => { writes := [rg d], lat := 1 }
  | .jr _ a => hazReads [a]
  | .jlr _ d a => { reads := [rg a], writes := [rg d], lat := 1 }
  | .rdc _ d _ | .rdcSbcnt _ d | .rdcKmc _ d => { writes := [rg d], lat := 3 }
  | .wrc _ a n => { reads := [rg a], writes := if n = 0 then allG else [] }
  | .wrcWp _ a => { reads := [rg a], writes := allG }
  | .wrcVtype _ a | .wrcBs _ a | .wrcSmc _ a | .wrcFmt _ a _ => hazReads [a]
  | .add p d a b | .sub p d a b | .and p d a b | .or p d a b | .xor p d a b | .sll p d a b | .srl p d a b
  | .slt p d a b | .sltu p d a b => hazFA p d a b 1
  | .mul p d a b => hazFA p d a b 3
  | .sra p d a | .ror p d a | .min p d a | .max p d a | .minu p d a | .maxu p d a | .seq p d a | .sne p d a
  | .andn p d a => hazFB p d a 1
  | .mulh p d a | .mulhu p d a => hazFB p d a 4
  | .div p d a | .divu p d a | .rem p d a | .remu p d a => hazFB p d a 0
  | .mov p d a | .neg p d a | .not p d a | .sextb p d a | .sexth p d a | .sextw p d a | .zextb p d a
  | .zexth p d a | .zextw p d a => hazUnary p d a 1
  | .clz p d a | .ctz p d a | .popc p d a | .brev p d a | .bswap p d a => hazUnary p d a 2
  | .addi p d a _ => hazUnary p d a 1
  | .andi p d _ | .ori p d _ | .xori p d _ | .slti p d _ | .seqi p d _ => hazImm p d
  | .slli p d _ | .srli p d _ | .srai p d _ => hazImm p d
  | .li _ d _ => { writes := [rg d], lat := 1 }
  | .ldb p d a l e | .ldbu p d a l e => k.hazLoad p d a l e 1
  | .ldh p d a l e | .ldhu p d a l e => k.hazLoad p d a l e 2
  | .ldw p d a l e | .ldwu p d a l e => k.hazLoad p d a l e 4
  | .ld p d a l e => k.hazLoad p d a l e 8
  | .stb p d a l e => k.hazStore p d a l e 1
  | .sth p d a l e => k.hazStore p d a l e 2
  | .stw p d a l e => k.hazStore p d a l e 4
  | .st p d a l e => k.hazStore p d a l e 8
  | .swp _ d a | .aadd _ d a | .aand _ d a | .aor _ d a | .axor _ d a | .amin _ d a | .amax _ d a | .aminu _ d a
  | .amaxu _ d a => hazAtomic d a
  | .cas _ d a => { reads := [rg a, rg d, .g (d.val + 1)], writes := [rg d] }
  | .bz p a _ | .bnz p a _ | .bltz p a _ | .bgez p a _ => { reads := srcReg p a }
  | .vadd _ d a b | .vsub _ d a b => c.hazV d [a, b] (c.latF 2)
  | .vmul _ d a b => c.hazV d [a, b] 4
  | .vfma _ d a b => c.hazV d [d, a, b] 4
  | .vmin _ d a b | .vmax _ d a b => c.hazV d [a, b] (c.latF 2)
  | .vand _ d a b | .vor _ d a b | .vxor _ d a b => c.hazV d [a, b] 2
  | .vsel _ d a b => c.hazAll d [a, b] 2
  | .vcmpeq _ d a b | .vcmplt _ d a b | .vcmple _ d a b | .vcmpne _ d a b => c.hazCmp d a b
  | .vsll _ d a | .vsrl _ d a | .vsra _ d a | .vandn _ d a => c.hazV d [d, a] 2
  | .vadds _ d a | .vsubs _ d a | .vsat _ d a => c.hazV d [d, a] 4
  | .vperm _ d a | .vrot _ d a | .vbcast _ d a => c.hazV d [d, a] 3
  | .vscan _ d a | .vrsum _ d a | .vrmax _ d a | .vrmin _ d a | .vlse _ d a => c.hazAll d [a] 12
  | .vabs _ d a | .vneg _ d a => c.hazV d [a] (c.latF 2)
  | .vnot _ d a | .vmov _ d a => c.hazV d [a] 2
  | .vexp2 _ d a | .vlog2 _ d a | .vrcp _ d a | .vrsq _ d a => c.hazV d [a] 8
  | .vsplat _ d a => { reads := rg a :: c.maskReads (rv d), writes := [rv d], lat := 3 }
  | .vget _ d a => { reads := [rg d, rv a], writes := [rg d], lat := 3 }
  | .vcvt _ d a => c.hazCvt d [a]
  | .vcvtr _ d a b => c.hazCvt d [a, b]
  | .vqnt _ d a b => { reads := [rv a, rv d, rv b], writes := [rv d, rv b], lat := 4 }
  | .vdq _ d a b => { reads := [rv a, rv b], writes := [rv d], lat := 4 }
  | .vld _ d a l e =>
    let h : Haz := { reads := rg a :: c.maskReads (rv d), writes := [rv d] }
    if l then { h with reads := h.reads ++ k.wsVector (k.addr a e) } else h
  | .vst _ d a l e =>
    let h : Haz := { reads := rg a :: rv d :: c.maskReads (rv d) }
    if l then { h with writes := h.writes ++ k.wsVector (k.addr a e) } else h
  | .vgth _ d a b => { reads := rg a :: rv b :: c.maskReads (rv d), writes := [rv d] }
  | .vsct _ d a b => { reads := rg a :: rv b :: rv d :: c.maskReads (rv d) }
  | .kand _ d a b | .kor _ d a b => hazK d [a, b]
  | .kxor _ d a => hazK d [d, a]
  | .knot _ d a | .kmov _ d a => hazK d [a]
  | .kpop _ d a | .kfirst _ d a => { reads := [rk a], writes := [rg d], lat := 3 }
  | .kset _ d | .kclr _ d => hazK d []
  | .tcfg _ d a => { reads := [rg a], writes := [rtc d], lat := 2 }
  | .trdc _ d a => { reads := [rtc a], writes := [rg d], lat := 2 }
  | .tz _ d => { writes := [rt d], lat := 4 }
  | .ttr _ d a => { reads := [rt a, rtc a], writes := [rt d, rtc d], lat := 16 }
  | .tfill _ d _ => { reads := [rtc d], writes := [rt d], lat := 8 }
  | .tqnt _ d s_ => { reads := [rtc d, racc s_], writes := [rt d], lat := 20 }
  | .acvt _ d s_ => { reads := [rtc d, racc s_], writes := [rt d], lat := 16 }
  | .aclr _ s_ => { writes := [racc s_], lat := 4 }
  | .tldl _ d a _ => { reads := [rg a, rtc d], writes := [rt d] }
  | .tstl _ d a _ => { reads := [rg a, rtc d, rt d] }
  | .aldl _ s_ a _ => { reads := [rg a], writes := [racc s_] }
  | .astl _ s_ a _ => { reads := [rg a, racc s_] }
  | .mma _ s_ ta tb | .mmas _ s_ ta tb | .mmab _ s_ ta tb => c.hazMma s_ ta tb
  | .mmam _ s_ a =>
    (Haz.reading { reads := [rg a, racc s_], writes := [racc s_] } k (k.getG a) 64).writing k (k.getG a + 56) 8
  | .clrst _ => { writes := clrstRegs }
  | .send _ d a | .sendm _ d a => (hazReads [d, a]).reading k (k.getG a) 64
  | .sendq _ d => { reads := rg d :: carriedRegs }
  | .spawn _ d => (hazReads [d]).reading k (k.getG d) 64
  | .yield _ => { reads := carriedRegs }
  | .post _ _ a => hazReads [a]
  | .xget _ d _ => { writes := [rg d] }
  | .qcfg _ _ a => hazReads [a]
  | .qpop _ d _ => (hazReads [d]).writing k (k.getG d) 64
  | .park _ d a => { reads := rg d :: rg a :: carriedRegs }
  | .vwld _ d a b => { reads := rg a :: rg b :: carriedRegs, writes := [rg d] }
  | .vwst _ d a b => hazReads [d, a, b]
  | .vwinc _ d a => hazReads [d, a]
  | .vwpk _ d a => { reads := [rg a], writes := [rg d, .g (d.val + 1)] }
  | .vwrst _ a => hazReads [a]
  | .att _ d | .det _ d | .revoke _ d | .bzero _ d => hazReads [d]
  | .hand _ d a => hazReads [d, a]
  | .bqry _ d a => { reads := [rg a], writes := [rg d] }
  | .handx _ d a b => hazReads [d, a, b]
  | .cpy _ d | .cpyw _ d | .cpym _ d => (hazReads [d]).reading k (k.getG d) 64
  | .ccan _ d => hazReads [d]
  | .cqset _ d a => hazReads [d, a]
  | .cpos _ d a _ => { reads := [rg a], writes := [rg d] }
  | .cwait _ a _ => hazReads [a]
  | .task _ d => ((hazReads [d]).reading k (k.getG d) 128).writing k (k.getG d + 96) 8
  | .mtload _ d => hazReads [d]
  | .ttag _ d a => hazReads [d, a]
  | .tshape _ d a => (hazReads [d, a]).reading k (k.getG a) 64
  | .tqry _ d a => { reads := [rg a], writes := [rg d] }
  | .pload _ pair c b => { reads := [rg b, rt c, rtc c], writes := pairRegs pair }
  | .pdist _ d pair c => { reads := rt c :: rtc c :: pairRegs pair, writes := [rg d] }
  | .psetm _ d a | .psets _ d a => hazReads [d, a]
  | .bal _ pair | .balx _ pair _ => { reads := pairRegs pair }
  | .pmat _ d pair => { reads := rtc d :: pairRegs pair, writes := [rt d] }
  | .pstat _ d => { writes := [rg d] }
  | .pmovToBank _ d _ | .pmovFromBank _ d _ => hazReads [d]
  | .mcall _ a =>
    { reads := rg a :: (List.range (serviceArgs (k.getG a).toNat)).map (fun j => .g (8 + j))
      writes := if anyCaller (k.getG a).toNat then [.g 8, .g 9] else [.g 8] }
  | _ => {}

/-- The prefixes of a sequence. -/
def instrPfx (i : Instr) : Pfx := (i.use.map (·.pfx)).getD {}

/-- The issue cost (R94). -/
def issueCost (i : Instr) : Nat :=
  match i with
  | .stall p n => 1 + p.stall + n
  | _ => 1 + (instrPfx i).stall

/-- An instruction of the accumulating chain (R207). -/
def chains : Instr → Bool
  | .mma _ _ _ _ | .mmas _ _ _ _ | .mmab _ _ _ _ | .mmam _ _ _ => true
  | _ => false

/-- The producers whose result the sequence reads with an undersized count (R94, R207). -/
def Core.undersized (k : Core) (i : Instr) : List Producer :=
  let rs := (hazard k i).reads
  k.prods.filter (fun x => rs.contains x.reg && decide (x.dist < x.lat)
    && !(chains i && decide (80 ≤ x.lat)))

/-- A register's content as a number; a tile's with its scale store above it. -/
def Core.regNat (k : Core) (r : Reg) : Nat :=
  let c := k.cx
  match r with
  | .g n => k.g[Fin.ofNat 16 n].toNat
  | .v n => c.v[Fin.ofNat 16 n].toNat
  | .k n => c.k[Fin.ofNat 8 n].toNat
  | .t n => c.t[Fin.ofNat 8 n].toNat + 2 ^ 32768 * c.scale[Fin.ofNat 8 n].toNat
  | .tc n => c.tc[Fin.ofNat 8 n].toNat
  | .acc n => c.acc[Fin.ofNat 4 n].toNat

/-- The register holds a number again. -/
def Core.putReg (k : Core) (r : Reg) (x : Nat) : Core :=
  let c := k.cx
  match r with
  | .g n => k.setG (Fin.ofNat 16 n) (BitVec.ofNat 64 x)
  | .v n => k.setCx { c with v := c.v.set (Fin.ofNat 16 n) (BitVec.ofNat 1024 x) }
  | .k n => k.setCx { c with k := c.k.set (Fin.ofNat 8 n) (BitVec.ofNat 128 x) }
  | .t n => k.setCx { c with t := c.t.set (Fin.ofNat 8 n) (BitVec.ofNat 32768 x)
                             scale := c.scale.set (Fin.ofNat 8 n) (BitVec.ofNat 4096 (x / 2 ^ 32768)) }
  | .tc n => k.setCx { c with tc := c.tc.set (Fin.ofNat 8 n) (BitVec.ofNat 64 x) }
  | .acc n => k.setCx { c with acc := c.acc.set (Fin.ofNat 4 n) (BitVec.ofNat 131072 x) }

/-- The producers after a sequence with these hazards has issued on core k, whose registers it found as in
`old`. -/
def Core.produce (k old : Core) (h : Haz) (cost : Nat) : Core :=
  let kept := (k.prods.map (fun x => { x with dist := x.dist + cost })).filter (fun x =>
    decide (x.dist < x.lat) && !h.writes.contains x.reg)
  let new := if h.lat ≤ cost then [] else h.writes.map (fun r =>
    ({ reg := r, lat := h.lat, dist := cost, old := old.regNat r } : Producer))
  { k with prods := kept ++ new }

/-- The local bytes that a store writes into the strand's own workspace: those that it accesses at all (R87, R104, R199). -/
def Core.storedBytes (k : Core) (i : Instr) : List Nat :=
  let run (a : Fin 16) (off : Int) (n : Nat) : List Nat := (List.range n).map ((k.addr a off).toNat + ·)
  match i with
  | .stb _ _ a true e => run a e 1
  | .sth _ _ a true e => run a e 2
  | .stw _ _ a true e => run a e 4
  | .vst _ _ a true e => ((List.range 128).filter k.cx.byteActive).map ((k.addr a e).toNat + ·)
  | _ => []

/-- A doubleword whose named bytes come from x and the others from y. -/
def mixBytes (named : Nat → Bool) (x y : Word) : Word :=
  BitVec.ofNat 64 (leNat ((List.range 8).map (fun j => byteAt (if named j then x else y).toNat j)))

/-- A register that a sequence has written on core k, which it found as `found`: the parts that it did not write hold what
the producers before it gave, as in `old` (R97, R207). A tile that a page-5 instruction or TTR writes keeps its scale store.
The accumulator of an MMAM is written by its steps, the first of which reads what MMAM found, and a register that holds its
PROG by its end. -/
def Core.mergeReg (k found old : Core) (i : Instr) (r : Reg) : Core :=
  match r with
  | .acc n =>
    let n := Fin.ofNat 4 n
    match i with
    | .mma _ _ ta tb | .mmas _ _ ta tb | .mmab _ _ ta tb =>
      k.setCx { k.cx with acc := k.cx.acc.set n (mmaInto found.cx.tc[ta] found.cx.tc[tb] k.cx.acc[n] old.cx.acc[n]) }
    | .mmam _ _ _ =>
      { k.setCx { k.cx with acc := k.cx.acc.set n old.cx.acc[n] } with
        mmam := k.mmam.map (fun m => { m with base := some found.cx.acc[n] }) }
    | _ => k
  | .t n => k.setCx { k.cx with scale := k.cx.scale.set (Fin.ofNat 8 n) old.cx.scale[Fin.ofNat 8 n] }
  | .g n =>
    let d := Fin.ofNat 16 n
    let bs := found.storedBytes i
    let w := found.cx.wp.toNat + 8 * (n % 16)
    match i with
    | .mmam _ _ _ => k.setG d (old.getG d)
    | _ => if bs.isEmpty then k else k.setG d (mixBytes (fun j => bs.contains (w + j)) (k.getG d) (old.getG d))
  | .v _ | .k _ | .tc _ => k

/-- A g register that belongs to the running handler only. -/
def isG : Reg → Bool
  | .g _ => true
  | _ => false

/-- A pending load, gather or atomic will write the register (R95). -/
def State.regPending (s : State) (c : Nat) (r : Reg) : Bool :=
  match r with
  | .g n => s.gPending c (Fin.ofNat 16 n)
  | .v n => s.flight.any (fun (_, i) => match i with
    | .accessPerformed x => x.core == c && !x.stalled && (match x.kind with
      | .vload d _ _ _ _ _ => d.val == n
      | _ => false)
    | _ => false)
  | _ => false

/-- A running BAL or BALX reads the tile (R269). -/
def Core.balHolds (k : Core) (r : Reg) : Bool :=
  match k.bal with
  | some b => (pairRegs b.pair).contains r
  | none => false

/-- A sequence that may access global memory. -/
def touchesGlobal (i : Instr) : Bool :=
  match i with
  | .ldb _ _ _ l _ | .ldbu _ _ _ l _ | .ldh _ _ _ l _ | .ldhu _ _ _ l _ | .ldw _ _ _ l _ | .ldwu _ _ _ l _
  | .ld _ _ _ l _ | .stb _ _ _ l _ | .sth _ _ _ l _ | .stw _ _ _ l _ | .st _ _ _ l _ | .vld _ _ _ l _
  | .vst _ _ _ l _ => !l
  | .swp _ _ _ | .cas _ _ _ | .aadd _ _ _ | .aand _ _ _ | .aor _ _ _ | .axor _ _ _ | .amin _ _ _ | .amax _ _ _
  | .aminu _ _ _ | .amaxu _ _ _ | .vgth _ _ _ _ | .vsct _ _ _ _ | .vwld _ _ _ _ | .vwst _ _ _ _ | .vwinc _ _ _
  | .vwpk _ _ _ | .vwrst _ _ | .park _ _ _ | .task _ _ | .ttag _ _ _ | .tshape _ _ _ | .tqry _ _ _ | .mtload _ _ => true
  | _ => false

/-- A sequence with which something else leaves the core, or may: a message, a link value, a copy command, a
service call, the end of the handler. -/
def sendsOut (i : Instr) : Bool :=
  match i with
  | .send _ _ _ | .sendm _ _ _ | .sendq _ _ | .spawn _ _ | .done _ | .yield _ | .idle _ | .post _ _ _ | .cpy _ _ | .cpyw _ _
  | .cpym _ _ | .mcall _ _ => true
  | _ => false

/-- An access of core c numbered below n is under way. -/
def State.pendingBelow (s : State) (c n : Nat) (loadsOnly : Bool) : Bool :=
  s.flight.any (fun e => pendingOf c loadsOnly e.2 && decide (numberOf e.2 < n))

/-- A FENCE before it holds the sequence (R70, R106). -/
def State.fenceWaits (s : State) (c : Nat) (i : Instr) : Bool :=
  let k := s.core c
  ((touchesGlobal i || sendsOut i) && s.pendingBelow c k.fenceRel false)
  || (touchesGlobal i && s.pendingBelow c k.fenceAcq true)

/-- The sequence waits for a variable-latency result, for Iris, or behind a FENCE (R95, R106, R269). -/
def State.scoreboardWaits (s : State) (c : Nat) (i : Instr) : Bool :=
  let h := hazard (s.core c) i
  (h.reads ++ h.writes).any (fun r => s.regPending c r || (s.core c).balHolds r) || s.fenceWaits c i

/-- The tiles that the macro sequencer of core k writes (R217). -/
def Core.mmamRegs (k : Core) : List Reg :=
  match k.mmam with
  | some m => [rt (mmTa m.desc), rt (mmTb m.desc), rtc (mmTa m.desc), rtc (mmTb m.desc)]
  | none => []

end Sys2Proof.Machine
end

