-- ==== Sys2Proof/Machine/Flight.lean ====
section
/-! DEFINITION. When a step that is under way may be performed: the orders of chapter 4, the arrival order
of messages, and the waits of the engines (R21, R64 to R78, R229, R230, R295, R307). Everything else may
be performed in any order. -/

namespace Sys2Proof.Machine

/-- A step that is under way, with the site where it is performed. -/
abbrev Flight := Nat × Instr

/-- The physical keys that an access or a request of the home order touches. -/
def accessKeys (i : Instr) : List Nat :=
  match i with
  | .accessPerformed x => x.keys
  | .vwHomeLoad r | .vwHomePark r | .vwHomeStore r | .vwHomeInc r | .vwHomePeek r | .vwHomeReset r => keysFrom r.cell 16
  | _ => []

/-- An acquire of R70 and R74. -/
def acquires (i : Instr) : Bool :=
  match i with
  | .accessPerformed x => x.order == .acq || x.order == .ar
  | .vwHomeLoad _ | .vwHomePark _ | .vwHomePeek _ => true
  | _ => false

/-- A release of R70 and R74. -/
def releases (i : Instr) : Bool :=
  match i with
  | .accessPerformed x => x.order == .rel || x.order == .ar
  | .vwHomeStore _ | .vwHomeInc _ | .vwHomeReset _ => true
  | _ => false

def orders (i : Instr) : Bool := acquires i || releases i

/-- An access of core c must come after the earlier access e of that core: the same bytes (R64, R66), an
acquire before, a release after (R70), or two ordered operations (R71). -/
def accessAfter (i e : Instr) : Bool :=
  (accessKeys e).any (accessKeys i).contains || acquires e || releases i || (orders i && orders e)

/-- A stalled access waits for its core: only the fill of a load is served meanwhile, once, at its turn (R84). -/
def accessParked (x : Access) : Bool := x.stalled && (x.served.isSome || !loadKind x.kind)

/-- No earlier access of the core must come first, and Nimbus owns no line of it (R78). -/
def State.accessReady (s : State) (pre : List Flight) (c : Nat) (parked : Bool) (i : Instr) : Bool :=
  !parked && !(pre.any (fun e => pendingOf c false e.2 && accessAfter i e.2))
  && !((accessKeys i).any (fun a => s.lineOwned (a / 64)))

/-- A VWLD or PARK at its home need not wait for the core, nor for the keys of its held writes (R117, R269, R290). -/
def State.parkReady (s : State) (r : VwReq) : Bool :=
  let k := s.core r.core
  let goes := match r.op with
    | .load _ n _ => s.lineDead r.cell || decide (n ≤ (s.seenCell r).2) || (k.bal.isNone && (k.endTrap false).isSome)
    | _ => false
  goes || !k.runs r.hid || !(s.endWaits r.core || !k.engineRoom 0 || !s.keysLoad (s.heldUids r.core))

/-- The site from which a message of this channel comes (R21): a home's or an Aster's is that of its own core site. -/
def chanSite (chan : Nat) : Nat :=
  if 4096 ≤ chan then clusterSite (chan - 4096) else if 2048 ≤ chan then chan - 2048 else chan

/-- A message of core c leaves behind the releases that stand before it (R72, R73). -/
def State.behindRelease (pre : List Flight) (c : Nat) : Bool :=
  decide (c < 1024) && pre.any (fun e => pendingOf c false e.2 && releases e.2)

/-- The message would be accepted. A host's has places of its own (R296). -/
def State.hasPlace (s : State) (m : Msg) : Bool :=
  let k := s.core m.site
  if !k.live || k.part ≠ m.part then true
  else if s.heldBehind m then false
  else if m.enc = k.enc then (s.arriveQueue m.site m.enc m.queue (entryOf m 0)).isSome
  else m.src == 0x7ff || decide (((k.cxOf m.enc).ring.filter (fun x => !isHost x)).length < (s.part k.part).ringCap)

/-- A message may arrive: it is accepted, or its sender's engine has room to keep it (R117). -/
def State.arrivable (s : State) (m : Msg) : Bool := s.hasPlace m || (decide (m.chan < 1024) && !s.engineFull m)

/-- A strand message on its way: the site it comes from and the site it goes to. A SENDM message goes to its tree's
root as a unicast, which the root's own copy stands for; another copy of a multicast comes from the root (R21, R307). -/
def wayOf (e : Flight) : Option (Nat × Nat) :=
  match e.2 with
  | .fifoArrival m | .rankedArrival m =>
    some (((m.mcast.map (·.1)).filter (· != m.site)).getD (chanSite m.chan), m.site)
  | .multicastForward m _ 0 => some (chanSite m.chan, e.1)
  | _ => none

/-- A node of a tree lies on the way from the root to an entry, the entry itself included. -/
def onPath (nodes : List (Nat × Nat × Bool)) (node : Nat) : Nat → Nat → Bool
  | 0, _ => false
  | n + 1, i => i == node || (i != 0 && match nodes[i]? with
    | some (_, par, _) => onPath nodes node n par
    | none => false)

/-- A forward still brings a copy to a site. -/
def State.bringsTo (s : State) (m : Msg) (tree node site : Nat) : Bool :=
  let pt := s.part m.part
  match sget? tree pt.trees with
  | none => false
  | some t => t.nodes.zipIdx.any (fun (e, i) => e.2.2 && (pt.members[e.1]?).getD 1024 == site && onPath t.nodes node 1024 i)

/-- A copy of a multicast that the same root injected earlier is still on its way to the site (R21). -/
def State.laterCopy (s : State) (m : Msg) (e : Flight) : Bool :=
  match m.mcast with
  | none => false
  | some (root, k) =>
    let before (n : Msg) : Bool := match n.mcast with
      | some (r, j) => r == root && decide (j < k)
      | none => false
    match e.2 with
    | .fifoArrival n | .rankedArrival n => before n && n.site == m.site && s.arrivable n
    | .multicastForward n t i => before n && s.bringsTo n t i m.site
    | _ => false

/-- The message of a step under way could not arrive yet, so that it does not hold others back. -/
def State.stuck (s : State) (i : Instr) : Bool :=
  match i with
  | .fifoArrival m | .rankedArrival m => !s.arrivable m
  | _ => false

/-- In order with the earlier messages of the same source to the same site (R21), and behind its sender's releases. -/
def State.inOrder (s : State) (pre : List Flight) (chan : Nat) (f : Flight) : Bool :=
  !pre.any (fun e => (wayOf f).isSome && wayOf e == wayOf f && !s.stuck e.2) && !State.behindRelease pre chan

/-- A strand message may arrive. -/
def State.msgReady (s : State) (pre : List Flight) (m : Msg) : Bool :=
  s.inOrder pre m.chan (s.cur, .fifoArrival m) && !s.flight.any (s.laterCopy m) && s.arrivable m

/-- A forward of the same tree at the same node stands before (R307). -/
def sameForward (site tree node : Nat) (e : Flight) : Bool :=
  match e.2 with
  | .multicastForward _ t i => e.1 == site && t == tree && i == node
  | _ => false

/-- An engine command of a site's core to a site (R21): a copy command, or a task. DESIGN CHOICE (log 84): the spec does not
state the message class of a task. -/
def State.commandWay (s : State) (e : Flight) : Option (Nat × Nat) :=
  match e.2 with
  | .copyCommand r => some (r.core, e.1)
  | .asterTaskArrival r => (s.task r).map (fun t => (bitsOf t.core 9 0, e.1))
  | _ => none

def State.commandReady (s : State) (pre : List Flight) (i : Instr) : Bool :=
  !pre.any (fun e => s.commandWay e == s.commandWay (s.cur, i) && (s.commandWay e).isSome)

/-- A copy under way, or on its way to Nimbus, uses the bank (R76). -/
def State.bankInCopy (s : State) (b : Nat) : Bool :=
  let uses (c : CopyCmd) : Bool := c.sbanks.contains b || c.dbanks.contains b
  s.nimbus.any (fun n => n.2.copies.any (fun c => uses c.cmd))
  || s.flight.any (fun e => match e.2 with
    | .copyCommand r => uses r
    | _ => false)

/-- Nimbus has a copy to end or a line to move (R229). -/
def State.lineReady (s : State) (cl : Nat) : Bool :=
  let s := s.setNim cl (s.nim cl).turn
  (s.nim cl).copies.isEmpty || (s.nim cl).copies.any (fun c => (s.copyStop cl c).isSome && s.mayEnd cl c)
    || (s.chooseCopy cl).isSome

/-- The macro sequencer need not wait for a bank in transit (R76, R217): A's fetch comes first, and its fault waits for no
bank of B. -/
def State.mmamReady (s : State) : Bool :=
  match s.me.run, s.me.mmam with
  | .waiting (.mmam _), some m =>
    let waits (x : LocalCheck) : Bool := match x with
      | .wait => true
      | _ => false
    if m.done = mmKn m.desc then !waits (s.localCheck .write (m.daddr + 56))
    else match s.tileChecks .read (kBlock (mmAbase m.desc) (mmAstr m.desc) m.kb) (m.fmtA.scale != 0) with
      | .wait => false
      | .trap _ _ => true
      | .ok => !waits (s.tileChecks .read (kBlock (mmBbase m.desc) (mmBstr m.desc) m.kb) (m.fmtB.scale != 0))
  | _, _ => true

/-- The key that the core waits for can become resident, or is gone (R84, R290). -/
def State.keyReady (s : State) : Bool :=
  match s.me.run with
  | .waiting (.key uid) =>
    match sget? uid s.keys with
    | none => true
    | some k => k.resident || s.keyRoom.isSome
  | _ => true

/-- A strand is stolen only when its creator's releases have been performed (R72, R73). -/
def State.stealReady (s : State) (c : Nat) : Bool :=
  match s.stealFrom c with
  | some (v, _) => !State.behindRelease s.flight v
  | none => true

/-- A switch of enclaves waits for the page-1 accesses of the outgoing one (R187, R276). -/
def State.switchReady (s : State) (c : Nat) : Bool :=
  let k := s.core c
  !(k.run = .idle && k.preempt && decide (1 < k.encs) && s.page1Pending c)

/-- The lines that Aster touches for a task are free of other agents (R78, R295). -/
def State.taskUnowned (s : State) (r : TaskRef) : Bool :=
  match s.task r with
  | some t => s.taskFree t
  | none => true

/-- A retirement that stands before, from the same core to the same Aster (R21). -/
def State.sameRetirement (s : State) (r : TaskRef) (e : Flight) : Bool :=
  match e.2 with
  | .asterRetirement x => e.1 == s.cur && s.clusterOfTask x == s.clusterOfTask r
  | _ => false

/-- The method strand's accesses are performed before its task retires (R72), and retirements of one core arrive at an Aster
in their order (R21). DESIGN CHOICE (log 91): the spec does not state the message class of a retirement, nor that of MTLOAD's
message, and neither is ordered against tasks and copy commands. -/
def State.retireReady (s : State) (pre : List Flight) (r : TaskRef) : Bool :=
  !pre.any (s.sameRetirement r) && (match s.task r with
    | some t => !pre.any (fun e => pendingOf t.site false e.2) && s.taskFree t
    | none => true)

/-- The step `i` under way to a site may be performed, with the steps `pre` before it in the flight list;
s is the state without it, at its site. -/
def State.ready (s : State) (pre : List Flight) (i : Instr) : Bool :=
  match i with
  | .fifoArrival m | .rankedArrival m => s.msgReady pre m
  | .multicastForward m tree node =>
    !pre.any (sameForward s.cur tree node) && s.inOrder pre m.chan (s.cur, .multicastForward m tree node)
  | .accessPerformed x => s.accessReady pre x.core (accessParked x) i
  | .vwHomeLoad r | .vwHomePark r => s.accessReady pre r.core false i && s.parkReady r
  | .vwHomeStore r | .vwHomeInc r | .vwHomePeek r | .vwHomeReset r => s.accessReady pre r.core false i
  | .bankAttach r => !s.bankInCopy r.bank
  | .bankReturnPool b => !s.bankInCopy b
  | .copyCommand r => s.commandReady pre i && s.acceptReady r
  | .asterTaskArrival r => s.commandReady pre i && s.taskUnowned r
  | .steal => s.stealReady s.cur
  | .copyLine => s.lineReady (clusterOf s.cur)
  | .cpymVersionReached r => s.versionReached r && s.cellFree (clusterOf r.core) r.part (cdVwa r.desc)
  | .asterDependenceMet =>
    match s.nextTask (clusterOf s.cur) with
    | some t => s.taskFree t
    | none => false
  | .asterStagingDone r => s.taskUnowned r
  | .asterRetirement r => s.retireReady pre r
  | .mmamStep => s.mmamReady
  | .keyReload => s.keyReady
  | .atsInvalidationComplete => match s.zen.ats with
    | page :: _ => !s.pageBusy page
    | [] => true
  | .nextAction => s.switchReady s.cur
  | .fqset | .tqset | .maskset | .treeset | .kimport | .tctl | .ptmap => s.serviceFree
  | _ => true

/-- The state in which entry k of the flight list would be performed, with the entry and those before it. -/
def State.takeFlight (s : State) (k : Nat) : Option (State × Instr × List Flight) :=
  match s.flight[k]? with
  | some (site, i) => some ({ s with flight := s.flight.eraseIdx k, cur := site }, i, s.flight.take k)
  | none => none

/-- Entry k may be performed now. -/
def State.flightReady (s : State) (k : Nat) : Bool :=
  match s.takeFlight k with
  | some (s', i, pre) => s'.ready pre i
  | none => false

/-- The first entry that may be performed. -/
def State.firstReady (s : State) : Option Nat := (List.range s.flight.length).find? s.flightReady

end Sys2Proof.Machine
end

