-- ==== Sys2Proof/Machine/Issue.lean ====
section
/-! DEFINITION. The issue of one sequence on a core: the fetch of its words, decoding, the scoreboard, and the
latency contract (R37, R42, R61 to R63, R93 to R98, R286). -/

namespace Sys2Proof.Machine

/-! ### Fetching words (R42, R61, R286) -/

/-- The outcome of the fetch of one word of a sequence. -/
inductive Fetched where
  | word (w : HalfWord) (uid : Nat)
  | fail (cause : Nat)
  | miss (uid : Nat) (key : Nat)
  | wait
  | absent (key : Nat)
deriving DecidableEq, Repr

/-- The word at an address, each word translated as it is fetched (R42, R63). It waits for a line that Nimbus owns
(R78), and for a host page under invalidation (R295). -/
def State.fetchWord (s : State) (va : Word) : Fetched :=
  match s.translate s.me.part va.toNat .exec with
  | .error c => .fail c
  | .ok (l, uid) =>
    if !keyExists l.key then .absent l.key
    else if s.atsBlocked [l.key] || s.lineOwned (l.key / 64) then .wait
    else if (s.keyMissing [uid]).isSome then .miss uid l.key
    else if !s.macOk l.key uid then .fail Cause.sealmac
    else .word (BitVec.ofNat 16 (memNat s.mem l.key 2)) uid

/-- The address of the j-th word of the executing core's sequence. -/
def Core.wordVa (k : Core) (j : Nat) : Word := k.pc + BitVec.ofNat 64 (2 * j)

/-- The words of the sequence that the core has fetched already (R63). -/
def Core.kept (k : Core) : List (HalfWord × Nat) := if k.fetchPc = k.pc then k.words else []

/-- A word fetched earlier, or fetched now. -/
def State.keptOrFetch (s : State) (j : Nat) : Fetched :=
  match s.me.kept[j]? with
  | some (w, u) => .word w u
  | none => s.fetchWord (s.me.wordVa j)

/-- The words as the decoder asks for them. -/
def State.fetchHalf (s : State) (j : Nat) : Option HalfWord :=
  match s.keptOrFetch j with
  | .word w _ => some w
  | _ => none

/-- The first n words of the sequence, each with its key generation. -/
def State.firstWords (s : State) (n : Nat) : List (HalfWord × Nat) :=
  (List.range n).filterMap (fun j => match s.keptOrFetch j with
    | .word w u => some (w, u)
    | _ => none)

/-- The stall of an instruction fetch on its key, kept as an access without an effect (R39, R84). -/
def isFetchStall (x : Access) : Bool := x.stalled && x.kind == .store [] && !x.keys.isEmpty

/-- The first n words have been fetched and are kept: their keys have been used, and no fetch stalls any more. -/
def State.fetched (s : State) (n : Nat) : State :=
  let ws := s.firstWords n
  let new := (ws.drop s.me.kept.length).map (·.2)
  { s.setMe { s.me with fetchPc := s.me.pc, words := ws } with
    keys := touchKeys s.keys new.dedup
    flight := s.flight.filter (fun e => match e.2 with
      | .accessPerformed x => !(s.isStalled e && isFetchStall x)
      | _ => true) }

/-- The first byte of an address's page. -/
def pageBase (va : Word) : Word := va &&& ~~~(0xfff : Word)

/-- The j-th word of the sequence cannot be fetched (R61, R62, R286): a page that is absent or not
executable is X when the sequence crosses into it. So is a page whose KEY gives PROT, of which R61 does not speak
(log 68). The words before it are kept. -/
def State.fetchFailed (s : State) (j : Nat) : Res :=
  let s := s.fetched j
  let va := s.me.wordVa j
  match s.fetchWord va with
  | .word _ _ => .next s
  | .wait => s.waitCycle
  | .absent key => .fault (.noSuchMemory key)
  | .miss uid key => s.keyMiss (s.newAccess {} va [key] uid (.store [])) uid
  | .fail c =>
    if j ≠ 0 && (c = Cause.page || c = Cause.prot) then exec (.illegalSequence 5 (some (pageBase va)) false) s
    else exec (.fetchFault va c) s

/-! ### The latency contract (R94, R97, R98) -/

/-- The sequence has issued: it does not wait to issue again. -/
def Core.issuedFrom (old k : Core) : Bool :=
  let again := match k.run with
    | .running => k.pc == old.pc && k.slot == old.slot && k.h.hid == old.h.hid
    | .waiting .room | .waiting (.key _) => true
    | _ => false
  !again

/-- One event of SBCNT (R98); the count stops at its largest value. -/
def Core.countEvent (k : Core) (enc : Nat) : Core :=
  let c := k.cxOf enc
  k.setCxOf enc { c with sbcnt := min (2 ^ 32 - 1) (c.sbcnt + 1) }

/-- The producers that core c still has after a sequence that has issued on it as `old` and found it as `found`; its words are
kept no longer. -/
def State.produced (s : State) (c : Nat) (old found : Core) (i : Instr) : State :=
  let k := s.core c
  let h := hazard found i
  if old.issuedFrom k && k.runs old.h.hid then
    s.setCore c { k.produce old { h with writes := h.writes ++ k.mmamRegs } (issueCost i) with words := [] } else s

/-- A meaning, and then the producers. -/
def State.runInstr (s : State) (i : Instr) : Res :=
  match exec i s with
  | .next s' => .next (s'.produced s.cur s.me s.me i)
  | r => r

/-- Interlock (R98): the sequence reads the producers' results, and one event is counted when it issues. -/
def State.runCounted (s : State) (i : Instr) : Res :=
  match s.runInstr i with
  | .next s' =>
    let k := s'.core s.cur
    .next (if s.me.issuedFrom k then s'.setCore s.cur (k.countEvent s.me.enc) else s')
  | r => r

/-- Mode off (R98): each register read too early holds its old value or the new one. -/
def State.stale (s : State) : List Producer → State
  | [] => s
  | x :: xs =>
    let s := if Config.staleRead s.free then s.setMe (s.me.putReg x.reg x.old) else s
    State.stale { s with free := s.free + 1 } xs

/-- Afterwards what the sequence, which found the core as `found`, did not write holds the producers' results (R97). -/
def Core.settle (k found old : Core) (i : Instr) (writes : List Reg) : List Producer → Core
  | [] => k
  | x :: xs =>
    let k := if writes.contains x.reg then k.mergeReg found old i x.reg
      else if isG x.reg && !k.runs old.h.hid then k
      else k.putReg x.reg (old.regNat x.reg)
    k.settle found old i writes xs

def State.runStale (s : State) (i : Instr) (us : List Producer) : Res :=
  let found := (s.stale us).me
  match exec i (s.stale us) with
  | .next s' =>
    let old := s.me
    let k := s'.core s.cur
    let writes := if old.issuedFrom k && k.runs old.h.hid then (hazard found i).writes ++ k.mmamRegs else []
    .next ((s'.setCore s.cur (k.settle found old i writes us)).produced s.cur old found i)
  | r => r

/-- A decoded sequence on the executing core: it waits for scoreboarded results, and an undersized count is
handled as SBM says (R95, R98). -/
def State.issueInstr (s : State) (i : Instr) : Res :=
  let us := s.me.undersized i
  if s.scoreboardWaits s.cur i then s.waitCycle
  else if us.isEmpty then s.runInstr i
  else if bitsOf s.cx.sbm 1 0 = 2 then s.trapMe Cause.stallcheck 0
  else if bitsOf s.cx.sbm 1 0 = 1 then s.runCounted i
  else s.runStale i us

/-- The sequence that decoding gives on the executing core. -/
def State.issueDecoded (s : State) (r : DecodeResult) : Res :=
  match r with
  | .ok i n => (s.fetched n).issueInstr i
  | .illegal d inPlace => exec (.illegalSequence d none inPlace) s
  | .fetchFail j => s.fetchFailed j

/-- Core c fetches one more word of its next sequence (R63): a change of the page tables may come before the next. A
word that cannot be fetched is left to the issue. -/
def State.fetchOne (s : State) (c : Nat) : State :=
  let s := { s with cur := c }
  let k := s.me
  if k.run ≠ .running then s
  else match decode (fun j => (k.kept[j]?).map (·.1)) k.slot.isSome with
    | .fetchFail j => if (s.fetchHalf j).isSome then s.fetched (j + 1) else s
    | _ => s

/-- Core c issues its next sequence: BUDGET comes first (R93). -/
def State.issue (s : State) (c : Nat) : Res :=
  let s := { s with cur := c }
  let k := s.me
  if k.run ≠ .running then .next s
  else if k.left = 0 then exec .budgetExpiry s
  else s.issueDecoded (decode s.fetchHalf k.slot.isSome)

end Sys2Proof.Machine
end

