-- ==== Sys2Proof/Machine/Turns.lean ====
section
/-! DEFINITION. The turns of the environment's schedule (log 3), what the machine does when none is listed,
and the state in which a given instruction is fetched next (log 5). -/

namespace Sys2Proof.Machine

/-! ### Time (R40) -/

/-- The link that core c's next sequence waits for, when it has issued as far as that: an XGET without a value, or a
POST without a credit or whose neighbour runs another enclave (R124). -/
def State.linkWait (s : State) (c : Nat) : Option (Fin 4) :=
  let k := s.core c
  match decode (fun j => (k.kept[j]?).map (·.1)) k.slot.isSome with
  | .ok (.xget _ _ dir) _ => if k.link[dir].isNone then some dir else none
  | .ok (.post _ dir _) _ =>
    if !k.credit[dir] || (match neighbour c dir.val with
      | some n => (s.core n).enc != k.enc
      | none => false) then some dir else none
  | _ => none

/-- A neighbour's halt or kept record holds this core's budget: the core is stalled on its link (R34, R110, R219). -/
def State.heldByNeighbour (s : State) (c : Nat) : Bool :=
  match s.linkWait c with
  | some dir => match neighbour c dir.val with
    | some n => s.holdsNeighbours n
    | none => false
  | none => false

/-- Cycles pass on core c's own counter without a sequence. -/
def State.passCore (s : State) (c n : Nat) : State :=
  let k := s.core c
  match k.run with
  | .off | .failed | .stopped => s
  | .idle | .halted _ => s.setCore c (k.tickHeld n)
  | .waiting _ => s.setCore c (k.tick n)
  | .running => s.setCore c (if s.heldByNeighbour c then k.tickHeld n else k.tick n)

/-- A sequence that waits when its budget runs out traps at once (R93). -/
def State.passTurn (s : State) (c n : Nat) : Res :=
  let s := { s.passCore c n with cur := c }
  match s.me.run with
  | .waiting _ => if s.me.left = 0 then exec .budgetExpiry s else .next s
  | _ => .next s

/-- Cycles pass on Nimbus's counter. -/
def Nimbus.pass (n : Nimbus) (k : Nat) : Nimbus := { n with cyc := n.cyc + k, moved := 0 }.renew
def State.passNimbus (s : State) (cl n : Nat) : State := s.setNim cl ((s.nim cl).pass n)
/-- Cycles pass on Zenith's counter, but not past the next write of the lifetime records (R312). -/
def State.passZenith (s : State) (n : Nat) : State :=
  { s with zen := { s.zen with cyc := min (s.zen.cyc + n) (max s.zen.cyc (s.zen.flushed + 2 ^ 36)) } }

/-- One cycle passes on every counter but those of the cores that issue. -/
def State.passRest (s : State) : State :=
  let s := s.cores.foldl (fun s x => if x.2.run = .running then s else s.passCore x.1 1) s
  ({ s with nimbus := s.nimbus.map (fun x => (x.1, x.2.pass 1)) } : State).passZenith 1

/-! ### Turns -/

/-- What happens on its own, when its condition holds or by chance. -/
def isEvent (i : Instr) : Bool :=
  match i with
  | .idleRetry | .headAging | .bounceResend | .budgetExpiry | .faultRecordDeferred | .copyBudgetWindow
  | .directoryOverflow | .sliceExpiry | .bankPoison _ _ | .fatalCoreError | .meshLinkFailure | .powerOn
  | .lifetimeFlush | .powerDown | .lossOfPower => true
  | _ => false

/-- Entry k of the flight list is performed, if it may be. -/
def State.flightTurn (s : State) (k : Nat) : Res :=
  match s.takeFlight k with
  | some (s', i, pre) => if s'.ready pre i then exec i s' else .next s
  | none => .next s

/-- A write from outside may be performed: Nimbus owns no line of it (R78). -/
def State.postable (s : State) (cells : List (Nat × Byte)) : Bool :=
  cells.all (fun c => !s.lineOwned (c.1 / 64))

/-- The writes from outside that may be performed are, the host's in their order (R83). -/
def State.drainPosted (s : State) (hostWaits : Bool) : List (Bool × Nat × List (Nat × Byte)) → State
  | [] => s
  | (host, uid, cells) :: ws =>
    if s.postable cells && !(host && hostWaits) then (s.storeCells cells uid).drainPosted hostWaits ws
    else State.drainPosted { s with zen := { s.zen with posted := s.zen.posted ++ [(host, uid, cells)] } }
      (hostWaits || host) ws

def State.drain (s : State) : State :=
  State.drainPosted { s with zen := { s.zen with posted := [] } } false s.zen.posted

/-- A posted write of the host, or a write of a peer device under a key generation that both devices hold, comes
(R83, R302): it is performed, or held behind those before it. -/
def State.outsideWrite (s : State) (host : Bool) (uid : Nat) (cells : List (Nat × Byte)) : State :=
  if cells.all (fun c => keyExists c.1) then
    State.drain { s with zen := { s.zen with posted := s.zen.posted ++ [(host, uid, cells)] } }
  else s.drain

/-- The site that stands for a die in an event record: its first core's, or Zenith for an I/O die. -/
def dieSite (die : Nat) : Nat := if die < 16 then die / 4 * 8 * 32 + die % 4 * 8 else zenithSite

/-- A die is sampled (R312, R313): above 100 °C its clock stretches, by a length the spec does not give, and at 115 °C the
device trips. -/
def State.senseTurn (s : State) (die temp droop : Nat) : Res :=
  let s := s.sense die temp droop
  let s : State := if die < 18 && 100 < temp then
      { s with free := s.free + 1
               zen := { s.zen with inbox := s.zen.inbox ++ [.stretch die ((Config.freeWord s.free).toNat + 1)] } }
    else s
  if die < 18 && 115 ≤ temp && !s.zen.dead then exec .thermalTrip { s with cur := dieSite die } else .next s

/-- A line with an error beyond its code is poisoned in the way of a failed MAC (R309). -/
def State.poisonLine (s : State) (key : Nat) : State := { s with seals := sset (key / 64) Seal.never s.seals }

/-- One turn. After a fatal device error no core issues; what else is under way goes on, and so does Zenith (R309). -/
def State.turn (s : State) (t : Turn) : Res :=
  match t with
  | .event site i => if isEvent i then exec i { s with cur := site } else .next s
  | .passZenith n => .next (s.passZenith n)
  | .pass site n => s.passTurn site n
  | .passNimbus cl n => .next (s.passNimbus cl n)
  | .issue c => if s.zen.dead then .next s else s.issue c
  | .fetch c => .next (if s.zen.dead then s else s.fetchOne c)
  | .flight k => s.flightTurn k
  | .arrive x => .next { s with zen := { s.zen with inbox := s.zen.inbox ++ [x] } }
  | .tlps stream sub n => .next (s.tlps stream sub n)
  | .ideKey stream sub set key => .next (s.ideKey stream sub set key)
  | .sense die temp droop => s.senseTurn die temp droop
  | .outside host uid cells => .next (s.outsideWrite host uid cells)
  | .badLine key => .next (s.poisonLine key)

/-! ### Without a schedule -/

/-- What must wait: a rebuild under way, a key without room, a field that scrubs, a page that another agent holds, a
submission behind posted writes (R83). -/
def State.inboxWaits (s : State) (x : HostIn) : Bool :=
  match x, inboxInstr x with
  | .write _, _ => s.postedByHost
  | .req r, .partRebuild =>
    match r.msg with
    | .vendor _ _ b => (s.part (field b 4 1)).rebuilding && s.rebuildWaits (field b 4 1)
    | _ => false
  | .req r, .partCreate =>
    match r.msg with
    | .vendor _ _ b => s.keyRoom.isNone || (rectSites (field b 8 1) (field b 9 1) (field b 10 1) (field b 11 1)).any s.fieldScrubs
    | _ => false
  | .req r, .imgLoad | .image r _, .imgLoad =>
    match r.msg with
    | .vendor _ _ b => !s.vaFree (field b 4 1) (field b 8 8) 4096 || !s.keyLoads (s.part (field b 4 1)).key
    | _ => false
  | _, .keyProg => s.keyRoom.isNone
  | _, _ => false

/-- The interface that a request waits for: its requests are served one at a time, in the order in which they came
(R293). -/
def ifaceOf (x : HostIn) : Option Nat := (hostRequest x).map (fun r => r.1.iface)

/-- The inbox with the first item that can be served moved to its head; `held` are the interfaces of requests before it
that wait. -/
def State.servable (s : State) (held : List Nat) : List HostIn → Option (List HostIn)
  | [] => none
  | x :: xs =>
    let behind := match ifaceOf x with
      | some i => held.contains i
      | none => false
    if !behind && !s.inboxWaits x then some (x :: xs)
    else match s.servable (held ++ (ifaceOf x).toList) xs with
      | some (y :: ys) => some (y :: x :: ys)
      | _ => none

/-- The partition has room for a record, and an agent of it keeps one. -/
def State.keepsRecord (s : State) (p : Nat) (k : Core) : Bool :=
  let pt := s.part p
  (s.faultRoom p).isSome &&
    (!k.keptRecs.isEmpty || !pt.zrecs.isEmpty || !pt.kept.isEmpty)

/-- The event that has fallen due on a core. -/
def State.dueOn (s : State) (k : Core) : Option Instr :=
  let waits := match k.run with
    | .waiting _ => true
    | _ => false
  if k.part ≠ 256 && s.keepsRecord k.part k then some .faultRecordDeferred
  else if waits && k.left = 0 then some .budgetExpiry
  else if k.live && k.engine.any (fun x => match x.due with
      | some t => !x.sent && decide (t ≤ k.cyc)
      | none => false) then some .bounceResend
  else if k.live && decide (1 < k.encs) && decide (k.sliceStart + (s.part k.part).slices.getD k.enc 0 ≤ k.cyc) && !k.preempt then
    some .sliceExpiry
  else if k.run = .idle && decide (k.idleSince + 1024 ≤ k.cyc) then some .idleRetry
  else none

/-- The first event that has fallen due. -/
def State.due (s : State) : Option (Nat × Instr) :=
  if s.zen.flushed + 2 ^ 36 ≤ s.zen.cyc then some (zenithSite, .lifetimeFlush)
  else s.cores.findSome? (fun x => (s.dueOn x.2).map (fun i => (x.1, i)))

/-- The running cores take turns, in rising order of their sites. -/
def State.nextRunning (s : State) : Option Nat :=
  let run := (s.cores.filter (fun x => x.2.run == .running)).map (·.1)
  let least (l : List Nat) : Option Nat := l.foldl (fun m c => match m with
    | none => some c
    | some d => some (min c d)) none
  match least (run.filter (fun c => decide (s.cur < c))) with
  | some c => some c
  | none => least run

/-- A core issues; when all have had a turn, a cycle passes elsewhere. -/
def State.issueTurn (s : State) (c : Nat) : Res :=
  if c ≤ s.cur then s.passRest.issue c else s.issue c

/-- What happens when the schedule is empty: what has arrived is served, what is under way is performed, what
is due happens, a core issues; else time passes. -/
def State.idleTurn (s : State) : Res :=
  if s.drain.zen.posted.length < s.zen.posted.length then .next s.drain
  else match s.servable [] s.zen.inbox with
    | some (x :: xs) => exec (inboxInstr x) { s with zen := { s.zen with inbox := x :: xs } }
    | _ =>
      match s.firstReady with
      | some k => s.flightTurn k
      | none =>
        match s.due with
        | some (c, i) => exec i { s with cur := c }
        | none =>
          match if s.zen.dead then none else s.nextRunning with
          | some c => s.issueTurn c
          | none => .next s.passRest

/-! ### The state in which a given instruction comes next (log 5) -/

/-- The attach table with the workspaces' banks (log 9). -/
def placedSlots : SMap Word := (List.range 16).map (fun i => (496 + i, mkSlot 1 7 false 0 (383 - i)))

/-- Their banks. -/
def placedBanks : SMap Bank :=
  (List.range 16).map (fun i => (383 - i, { st := .attached 0 0 (496 + i), owner := 0 }))

/-- A core that runs a handler of enclave 0 of partition 0 at site 0, with its pc at 0x10000. -/
def placedCore : Core :=
  { Core.reset with
    run := .running, part := 0, encs := 1, ctx := [(0, { Ctx.reset with slots := placedSlots })], left := 65536
    h := { Handler.none with hid := 1 }, pc := 0x10000 }

/-- Partition 0, whose supervisor is its enclave 0, with the tables and memory that the fetch needs. -/
def placedPart : Part :=
  { Part.empty with
    encs := 1, w := 1, h := 1, slices := [2 ^ 32 - 1], exts := [(0, 2 ^ 30)], tbl := 0x100000, tblLen := 0x200000
    tblNext := 0x101000, members := [0], key := 1 }

def placedKey : Key :=
  { ident := 0, part := 0, st := .active, m4 := 0, m5 := 0, secret := [], resident := true, used := 0, sess := 0 }

/-- The tables map the first 1 GiB onto itself, with every right; the instruction's bytes stand at 0x10000. -/
def placedCells (nbits w : Nat) : List (Nat × Byte) :=
  cellsAt 0x100000 (leBytes 8 0x200001) ++ cellsAt 0x200000 (leBytes 8 0x703)
  ++ cellsAt 0x10000 (leBytes 10 (w % 2 ^ nbits))

/-- Site 0's core is about to fetch the instruction whose bits are w. -/
def State.placeInstr (s : State) (nbits w : Nat) : State :=
  let s : State :=
    { s with
      keys := sset 1 placedKey s.keys, nextUid := max 2 s.nextUid
      cores := sset 0 placedCore s.cores, parts := sset 0 placedPart s.parts
      banks := placedBanks ++ s.banks.filter (fun x => homeOf x.1 != 0)
      agenda := .issue 0 :: s.agenda, zen := { s.zen with dead := false } }
  s.storeCells (placedCells nbits w) 1

end Sys2Proof.Machine
end

