-- ==== Sys2Proof/Machine/Step.lean ====
section
/-! DEFINITION. One step of the device, and the state in which a given instruction is fetched next. -/

namespace Sys2Proof.Machine

/-- One step: the next turn of the schedule, or what happens without one (log 3). -/
def step (s : State) : Host.Outcome State Fault Refusal :=
  match s.agenda with
  | t :: ts => { s with agenda := ts }.turn t
  | [] => s.idleTurn

/-- s with an instruction where the next step fetches: a program is loaded from outside the device, and this
stands for that load (log 5). -/
def State.withFetchWord (s : State) (nbits w : Nat) : State := s.placeInstr nbits w

end Sys2Proof.Machine
end

