-- ==== Sys2Proof/Safety.lean ====
section
/-! DEFINITION. What the statements about the machine say in common: a memory in its one form, what a
sequence reads and where its result goes, what a sequence that completes leaves unchanged, and the
numbers that the one-operand instructions compute, given bit by bit. -/

namespace Sys2Proof

/-- The destinations of a page-0 register or immediate sequence (majors 1 to 10), of CYC and of LEA. -/
def Instr.scalarDest : Instr → Option (Fin 16)
  | .cyc _ d | .lea _ d _ | .li _ d _ => some d
  | .add _ d _ _ | .sub _ d _ _ | .and _ d _ _ | .or _ d _ _ | .xor _ d _ _ | .mul _ d _ _ | .sll _ d _ _
  | .srl _ d _ _ | .slt _ d _ _ | .sltu _ d _ _ => some d
  | .sra _ d _ | .ror _ d _ | .mulh _ d _ | .mulhu _ d _ | .div _ d _ | .divu _ d _ | .rem _ d _ | .remu _ d _
  | .min _ d _ | .max _ d _ | .minu _ d _ | .maxu _ d _ | .seq _ d _ | .sne _ d _ | .andn _ d _ | .mov _ d _
  | .neg _ d _ | .not _ d _ | .clz _ d _ | .ctz _ d _ | .popc _ d _ | .brev _ d _ | .bswap _ d _ | .sextb _ d _
  | .sexth _ d _ | .sextw _ d _ | .zextb _ d _ | .zexth _ d _ | .zextw _ d _ => some d
  | .addi _ d _ _ => some d
  | .andi _ d _ | .ori _ d _ | .xori _ d _ | .slli _ d _ | .srli _ d _ | .srai _ d _ | .slti _ d _
  | .seqi _ d _ => some d
  | _ => none

end Sys2Proof

namespace Sys2Proof.Machine

/-! ### Safe states -/

/-- Both memories, the global one and the banks', are in canonical form (log 1). -/
def State.memWf (s : State) : Prop := Memory.wf s.mem = true ∧ Memory.wf s.bmem = true

/-- An outcome that is a next state has both memories in canonical form. -/
def Res.memWf (r : Res) : Prop := ∀ t, r = .next t → t.memWf

/-- Every byte of both memories reads alike in two states. -/
def State.sameMemory (s t : State) : Prop :=
  ∀ a, memRead t.mem a = memRead s.mem a ∧ memRead t.bmem a = memRead s.bmem a

/-! ### Operands (R46, R89) -/

/-- What the last source of a page-0 sequence supplies, and the core after it is read: a register, or
under queue select 0b01 the oldest entry of dq, which is removed (R46, R89). -/
def Core.lastSource (k : Core) (p : Pfx) (r : Fin 16) (y : Word) (k' : Core) : Prop :=
  (p.qs ≠ .srcDq ∧ y = k.getG r ∧ k' = k) ∨ (p.qs = .srcDq ∧ ∃ n q, k.dq = (n, some y) :: q ∧ k' = { k with dq := q })

/-- Where the result of a page-0 sequence goes: a register, or under queue select 0b10 the condition
"the result is not 0" to bq, which has room (R46, R89). -/
def Core.resultTo (k : Core) (p : Pfx) (d : Fin 16) (v : Word) (k' : Core) : Prop :=
  (p.qs ≠ .dstQ ∧ k' = k.setG d v) ∨
  (p.qs = .dstQ ∧ k.bq.length < 8 ∧ k' = { k with bq := k.bq ++ [decide (v ≠ 0)] })

/-- What the condition of a branch supplies: a register, or under queue select 0b11 the oldest entry of
bq as 1 or 0 (R46, R89, R107). -/
def Core.condSource (k : Core) (p : Pfx) (r : Fin 16) (y : Word) (k' : Core) : Prop :=
  (p.qs ≠ .bqCond ∧ y = k.getG r ∧ k' = k) ∨
  (p.qs = .bqCond ∧ ∃ b q, k.bq = b :: q ∧ y = (if b then 1 else 0) ∧ k' = { k with bq := q })

/-- The sequence `i` computes `f` of the state and its last source into d, and nothing else of the device
changes but the end of the sequence (R42, R93, R94). -/
def Computes (i : Pfx → Instr) (d last : Fin 16) (f : State → Word → Word) : Prop :=
  ∀ (s : State) (p : Pfx) (y : Word) (k k' : Core), s.me.lastSource p last y k → k.resultTo p d (f s y) k' →
    exec (i p) s = .next (s.setMe (k'.advance p))

/-- The same where the value is given by a property that only one word has. -/
def ComputesThat (i : Pfx → Instr) (d last : Fin 16) (P : Word → Word → Prop) : Prop :=
  ∀ (s : State) (p : Pfx) (y v : Word) (k k' : Core), P y v → s.me.lastSource p last y k → k.resultTo p d v k' →
    exec (i p) s = .next (s.setMe (k'.advance p))

/-- The sequence takes no value from an empty dq and waits for an entry that is not filled (R89). -/
def ReadsDq (i : Pfx → Instr) : Prop :=
  ∀ (s : State) (p : Pfx), p.qs = .srcDq →
    (s.me.dq = [] → exec (i p) s = .next (s.trap s.cur { cause := 0x0e })) ∧
    (∀ n q, s.me.dq = (n, none) :: q → exec (i p) s = .next (s.setMe (s.me.tick 1)))

/-- The sequence does not push a full bq (R89). -/
def FillsBq (i : Pfx → Instr) : Prop :=
  ∀ (s : State) (p : Pfx), p.qs = .dstQ → s.me.bq.length = 8 → exec (i p) s = .next (s.trap s.cur { cause := 0x0d })

/-! ### The one-operand results of R101, bit by bit -/

/-- v is the number of zeros above the highest one of x. -/
def IsLeadingZeros (x v : Word) : Prop :=
  v.toNat ≤ 64 ∧ (∀ j, j < v.toNat → x.getLsbD (63 - j) = false) ∧ (v.toNat < 64 → x.getLsbD (63 - v.toNat) = true)

/-- v is the number of zeros below the lowest one of x. -/
def IsTrailingZeros (x v : Word) : Prop :=
  v.toNat ≤ 64 ∧ (∀ j, j < v.toNat → x.getLsbD j = false) ∧ (v.toNat < 64 → x.getLsbD v.toNat = true)

/-- v is the number of ones of x. -/
def IsOnesCount (x v : Word) : Prop := v.toNat = ((List.range 64).filter (fun j => x.getLsbD j)).length

/-- v is x with its 64 bits in reverse order. -/
def IsBitReverse (x v : Word) : Prop := ∀ j, j < 64 → v.getLsbD j = x.getLsbD (63 - j)

/-- v is x with its 8 bytes in reverse order. -/
def IsByteReverse (x v : Word) : Prop := ∀ j, j < 64 → v.getLsbD j = x.getLsbD (8 * (7 - j / 8) + j % 8)

/-! ### Frames -/

/-- The core `k'` is `k` but for general registers, its place in the program, its queue operands, its cycle
counter and its budget. -/
def Core.sameButScalars (k k' : Core) : Prop :=
  { k' with g := k.g, pc := k.pc, slot := k.slot, dq := k.dq, bq := k.bq, cyc := k.cyc, left := k.left } = k

/-! ### Vectors (R186 to R197) -/

/-- A vector instruction's constructor with its prefixes. -/
abbrev Form := Pfx → Instr

/-- Element j of container width cw is governed by bit (j × cw) div 8 of the mask register MK when MEN is 1
(R188). -/
def State.governed (s : State) (cw j : Nat) : Prop :=
  bitOf s.cx.vtype 4 = true → (s.cx.k[Fin.ofNat 8 (bitsOf s.cx.vtype 2 0)]).getLsbD (j * cw / 8) = true

/-- The code of element j of v r, the integer and the number it stands for, in format f (R167, R168, R189). -/
def State.vcode (s : State) (f : Fmt) (r : Fin 16) (j : Nat) : Nat := elemAt s.cx.v[r] f.cw j % 2 ^ f.width
def State.vint (s : State) (f : Fmt) (r : Fin 16) (j : Nat) : Int :=
  if f.sign = 1 ∧ 2 ^ (f.width - 1) ≤ s.vcode f r j then (s.vcode f r j : Int) - 2 ^ f.width else s.vcode f r j
def State.vnum (s : State) (f : Fmt) (r : Fin 16) (j : Nat) : Num := decodeNum f (s.vcode f r j)

/-- VTYPE's rounding mode (R186). -/
def State.rounding (s : State) : Rm := if bitOf s.cx.vtype 6 then .rtz else .rne

/-- A result in format f: an integer modulo 2^w, or an exact number rounded once with its flags (R173). -/
def resultIn (f : Fmt) (rm : Rm) (i : Int) (r : Num × Nat) : Nat × Nat :=
  if f.exp = 0 then ((i % 2 ^ f.width).toNat, 0) else ((roundF f rm r.1).1, (roundF f rm r.1).2 ||| r.2)

/-- The register x and the flags fl that an element instruction leaves in v d: element j is g j where it is
governed, and else 0 under MZ or what it was (R188). -/
def State.ElementsOf (s : State) (f : Fmt) (d : Fin 16) (g : Nat → Nat × Nat) (x : BitVec 1024) (fl : Nat) : Prop :=
  (∀ j, j < 1024 / f.cw →
    (s.governed f.cw j → elemAt x f.cw j = (g j).1 % 2 ^ f.cw) ∧
    (¬ s.governed f.cw j → elemAt x f.cw j = if bitOf s.cx.vtype 5 then 0 else elemAt s.cx.v[d] f.cw j)) ∧
  (∀ b, fl.testBit b = true ↔ ∃ j, j < 1024 / f.cw ∧ s.governed f.cw j ∧ (g j).2.testBit b = true)

/-- The sequence writes v d and ORs flags into VTYPE, and nothing else of the device changes but its end. -/
def State.writesV (s : State) (i : Form) (p : Pfx) (d : Fin 16) (x : BitVec 1024) (fl : Nat) : Prop :=
  exec (i p) s = .next (s.setMe ((s.me.setCx { s.cx with
    v := s.cx.v.set d x, vtype := s.cx.vtype ||| BitVec.ofNat 64 (fl * 2 ^ 48) }).advance p))

/-- The sequence traps with the cause, and fault address 0. -/
def State.TrapsWith (s : State) (i : Form) (p : Pfx) (cause : Nat) : Prop :=
  exec (i p) s = .next (s.trap s.cur { cause := cause })

/-- The sequence traps with the cause and the fault address. -/
def State.trapsAt (s : State) (i : Form) (p : Pfx) (cause : Nat) (faddr : Word) : Prop :=
  exec (i p) s = .next (s.trap s.cur { cause := cause, faddr := faddr })

/-- The sequence reads the element type: an undefined one traps FMTINV, one outside its classes VOPTYPE (R189). -/
def TypeChecks (i : Form) (cls : Fmt → Bool) : Prop :=
  ∀ (s : State) (p : Pfx), (s.cx.elemType = none → s.TrapsWith i p 0x48) ∧
    (∀ f, s.cx.elemType = some f → cls f = false → s.TrapsWith i p 0x49)

/-- An element instruction (R188, R189). -/
def ElementWise (i : Form) (d : Fin 16) (cls : Fmt → Bool) (g : State → Fmt → Nat → Nat × Nat) : Prop :=
  TypeChecks i cls ∧
  ∀ (s : State) (p : Pfx) (f : Fmt), s.cx.elemType = some f → cls f = true →
    ∃ x fl, s.writesV i p d x fl ∧ s.ElementsOf f d (g s f) x fl

/-- The elements of v d that are not governed become 0 under MZ, and else keep their codes (R188). -/
def State.InactiveKept (s : State) (f : Fmt) (d : Fin 16) (x : BitVec 1024) : Prop :=
  ∀ j, j < 1024 / f.cw → ¬ s.governed f.cw j → elemAt x f.cw j = if bitOf s.cx.vtype 5 then 0 else elemAt s.cx.v[d] f.cw j

/-- The codes of the governed elements of v a, in ascending order (R195). -/
def State.ActiveCodes (s : State) (f : Fmt) (a : Fin 16) (l : List (Nat × Nat)) : Prop :=
  (∀ j c, (j, c) ∈ l ↔ j < 1024 / f.cw ∧ s.governed f.cw j ∧ c = s.vcode f a j) ∧ l.Pairwise (fun x y => x.1 < y.1)

/-- The greatest integer of a format (R189). -/
def highest (f : Fmt) : Int := if f.sign = 1 then 2 ^ (f.width - 1) - 1 else 2 ^ f.width - 1

/-- The same with saturation: an integer to the format's range, a finite number that overflows to ±MaxF (R192). -/
def saturated (f : Fmt) (rm : Rm) (i : Int) (r : Num × Nat) : Nat × Nat :=
  if f.exp = 0 then
    ((max (if f.sign = 1 then -(2 ^ (f.width - 1)) else 0) (min (highest f) i) % 2 ^ f.width).toNat, 0)
  else if r.1.isInf = false ∧ r.1.isNan = false ∧ (decodeNum f (roundF f rm r.1).1).isInf = true then
    (packMag f r.1.signBit (maxF f), (roundF f rm r.1).2 ||| r.2)
  else ((roundF f rm r.1).1, (roundF f rm r.1).2 ||| r.2)

/-- A function's fp32 code rounded to the element type (R180). -/
def functionIn (f : Fmt) (r : Nat × Nat) : Nat × Nat :=
  if f = fp32 then r else ((roundF f .rne (decodeNum fp32 r.1)).1, (roundF f .rne (decodeNum fp32 r.1)).2 ||| r.2)

/-- The integer that a code stands for (R189). -/
def signedIn (f : Fmt) (c : Nat) : Int := if f.sign = 1 ∧ 2 ^ (f.width - 1) ≤ c then (c : Int) - 2 ^ f.width else c

/-- The sum of codes from the first on, one rounding for each addition (R182). -/
def floatSum (f : Fmt) (rm : Rm) : List Nat → Nat × Nat
  | [] => (0, 0)
  | y :: ys => ys.foldl (fun acc z =>
      ((roundF f rm (addNum (decodeNum f acc.1) (decodeNum f z)).1).1,
        acc.2 ||| ((roundF f rm (addNum (decodeNum f acc.1) (decodeNum f z)).1).2 ||| (addNum (decodeNum f acc.1) (decodeNum f z)).2)))
      (roundF f rm (decodeNum f y))

/-- The orders of decoded values (R193): −0 equals +0, and a NaN stands in no relation. -/
def Num.Equal : Num → Num → Prop
  | .fin a p, .fin b q => (Num.fin a p).toRat = (Num.fin b q).toRat
  | .inf a, .inf b => a = b
  | _, _ => False
def Num.Less : Num → Num → Prop
  | .fin a p, .fin b q => (Num.fin a p).toRat < (Num.fin b q).toRat
  | .fin _ _, .inf b => b = false
  | .inf a, .fin _ _ => a = true
  | .inf a, .inf b => a = true ∧ b = false
  | _, _ => False

/-- The four compares with their relations on integers and on numbers. -/
def compareForms : List ((Pfx → Fin 8 → Fin 16 → Fin 16 → Instr) × (Int → Int → Prop) × (Num → Num → Prop)) :=
  [(.vcmpeq, fun x y => x = y, Num.Equal), (.vcmplt, fun x y => x < y, Num.Less),
   (.vcmple, fun x y => x ≤ y, fun x y => x.Less y ∨ x.Equal y), (.vcmpne, fun x y => x ≠ y, fun x y => ¬ x.Equal y)]

/-- The sequence writes k d and nothing else but its end. -/
def State.writesK (s : State) (i : Form) (p : Pfx) (d : Fin 8) (x : BitVec 128) : Prop :=
  exec (i p) s = .next (s.setMe ((s.me.setCx { s.cx with k := s.cx.k.set d x }).advance p))

/-- Converted elements g in the m places from `first` of v d, under the mask; the other places keep their codes (R196). -/
def State.PlacedOf (s : State) (f : Fmt) (d : Fin 16) (first m : Nat) (g : Nat → Nat × Nat) (x : BitVec 1024) (fl : Nat) :
    Prop :=
  (∀ k, k < m →
    (s.governed f.cw (first + k) → elemAt x f.cw (first + k) = (g k).1 % 2 ^ f.cw) ∧
    (¬ s.governed f.cw (first + k) →
      elemAt x f.cw (first + k) = if bitOf s.cx.vtype 5 then 0 else elemAt s.cx.v[d] f.cw (first + k))) ∧
  (∀ i, i < 1024 / f.cw → i < first ∨ first + m ≤ i → elemAt x f.cw i = elemAt s.cx.v[d] f.cw i) ∧
  (∀ b, fl.testBit b = true ↔ ∃ k, k < m ∧ s.governed f.cw (first + k) ∧ (g k).2.testBit b = true)

/-- The scale code, the codes and the flags of block j of v a's elements from `first` (R175, R197). -/
def State.blockCodes (s : State) (fs fd : Fmt) (a : Fin 16) (first j : Nat) : Nat × List Nat × Nat :=
  quantise fd (scaleFmt s.cx.fmt fd) s.rounding
    ((List.range fd.blk).map (fun k => s.vnum fs a (first + (j * fd.blk + k))))

/-- The element formats of the presets of Table 10.2. -/
def presetFloats : List Fmt :=
  [{ sign := 1, exp := 4, man := 3, bias := 7, spec := 2, cw := 8 }, { sign := 1, exp := 5, man := 2, bias := 15, spec := 0, cw := 8 },
   { sign := 1, exp := 3, man := 2, bias := 3, spec := 1, cw := 8 }, { sign := 1, exp := 2, man := 3, bias := 1, spec := 1, cw := 8 },
   { sign := 1, exp := 2, man := 1, bias := 1, spec := 1, cw := 4 }]

/-- The entry of the worked block of Table 10.5, and the block. -/
def workedFmt : Fmt := { sign := 1, exp := 2, man := 1, bias := 1, spec := 1, scale := 1, blk := 16, cw := 4 }
def workedBlock : List Num :=
  [.fin false 40, .fin true 20, .fin false 10, .fin false 5, .fin false 3, .fin false (3 / 2), .fin true (3 / 4)]
    ++ List.replicate 9 (.fin false 0)

/-! ### Memory instructions (R104, R105) -/

/-- A load's or store's constructor: prefixes, register fields, local or global, offset. -/
abbrev MemForm := Pfx → Fin 16 → Fin 16 → Bool → Int → Instr

/-- The seven loads: their bytes, and whether they extend the sign (Table 5.10). -/
def loadForms : List (MemForm × Nat × Bool) :=
  [(.ldb, 1, true), (.ldbu, 1, false), (.ldh, 2, true), (.ldhu, 2, false), (.ldw, 4, true), (.ldwu, 4, false), (.ld, 8, false)]

/-- The four stores and their bytes (Table 5.10). -/
def storeForms : List (MemForm × Nat) := [(.stb, 1), (.sth, 2), (.stw, 4), (.st, 8)]

/-- The ten atomics and their operations (R105). -/
def atomicForms : List ((Pfx → Fin 16 → Fin 16 → Instr) × AtomicOp) :=
  [(.swp, .swp), (.cas, .cas), (.aadd, .add), (.aand, .and), (.aor, .or), (.axor, .xor), (.amin, .min), (.amax, .max),
   (.aminu, .minu), (.amaxu, .maxu)]

/-! ### Translation (R282, R283) -/

/-- No queue of a core is longer than the hardware's: the send buffer, bq, dq and each enclave's resident deque (R89, R118,
R119). -/
def State.Bounded (s : State) : Prop :=
  ∀ x ∈ s.cores, x.2.sbuf.length ≤ 32 ∧ x.2.bq.length ≤ 8 ∧ x.2.dq.length ≤ 16 ∧ ∀ y ∈ x.2.ctx, y.2.deque.length ≤ 32

/-- The entry that a walk reads in the table at `tbl`: the top level has 2^17 entries, and each lower one 512. -/
def entryPlace (lvl tbl va : Nat) : Nat :=
  tbl + 8 * (if lvl = 3 then va / 2 ^ 39 % 2 ^ 17 else va / 2 ^ (12 + 9 * lvl) % 2 ^ 9)

def State.entryAt (s : State) (lvl tbl va : Nat) : Nat := memNat s.mem (entryPlace lvl tbl va) 8

/-- What a walk finds from the table at a level on: the leaf, or the cause of its fault. -/
inductive State.Walks (s : State) (uid va : Nat) : Nat → Nat → Except Nat Leaf → Prop where
  /-- The line of the entry does not verify (R286). -/
  | unsealed (lvl tbl : Nat) (h : s.macOk (entryPlace lvl tbl va) uid = false) : State.Walks s uid va lvl tbl (.error 0x71)
  /-- V is 0, or a reserved bit is set. -/
  | invalid (lvl tbl : Nat) (h : s.macOk (entryPlace lvl tbl va) uid = true)
      (hv : natBits (s.entryAt lvl tbl va) 0 0 = 0 ∨ natBits (s.entryAt lvl tbl va) 6 2 ≠ 0) :
      State.Walks s uid va lvl tbl (.error 6)
  /-- A leaf in the top level. -/
  | topLeaf (tbl : Nat) (h : s.macOk (entryPlace 3 tbl va) uid = true) (hl : natBits (s.entryAt 3 tbl va) 1 1 = 1) :
      State.Walks s uid va 3 tbl (.error 6)
  /-- A leaf of 4 KiB, 2 MiB or 1 GiB. -/
  | leaf (lvl tbl : Nat) (hn : lvl < 3) (h : s.macOk (entryPlace lvl tbl va) uid = true)
      (hv : natBits (s.entryAt lvl tbl va) 0 0 = 1) (hr : natBits (s.entryAt lvl tbl va) 6 2 = 0)
      (hl : natBits (s.entryAt lvl tbl va) 1 1 = 1) (l : Leaf)
      (hk : l = { key := natBits (s.entryAt lvl tbl va) 51 50 * 2 ^ 50
                    + natBits (s.entryAt lvl tbl va) 49 12 / 2 ^ (9 * lvl) * 2 ^ (12 + 9 * lvl) + va % 2 ^ (12 + 9 * lvl)
                  kid := natBits (s.entryAt lvl tbl va) 63 52, vw := natBits (s.entryAt lvl tbl va) 11 11 = 1
                  x := natBits (s.entryAt lvl tbl va) 10 10 = 1, w := natBits (s.entryAt lvl tbl va) 9 9 = 1
                  r := natBits (s.entryAt lvl tbl va) 8 8 = 1 }) : State.Walks s uid va lvl tbl (.ok l)
  /-- A non-leaf with an attribute bit set. -/
  | attributes (lvl tbl : Nat) (h : s.macOk (entryPlace lvl tbl va) uid = true) (hl : natBits (s.entryAt lvl tbl va) 1 1 = 0)
      (ha : natBits (s.entryAt lvl tbl va) 63 50 ≠ 0 ∨ natBits (s.entryAt lvl tbl va) 11 7 ≠ 0) :
      State.Walks s uid va lvl tbl (.error 6)
  /-- No leaf in the lowest level. -/
  | bottom (tbl : Nat) (h : s.macOk (entryPlace 0 tbl va) uid = true) (hl : natBits (s.entryAt 0 tbl va) 1 1 = 0) :
      State.Walks s uid va 0 tbl (.error 6)
  /-- The next level. -/
  | next (lvl tbl : Nat) (h : s.macOk (entryPlace (lvl + 1) tbl va) uid = true)
      (hv : natBits (s.entryAt (lvl + 1) tbl va) 0 0 = 1) (hr : natBits (s.entryAt (lvl + 1) tbl va) 11 2 = 0)
      (hl : natBits (s.entryAt (lvl + 1) tbl va) 1 1 = 0) (ha : natBits (s.entryAt (lvl + 1) tbl va) 63 50 = 0)
      (r : Except Nat Leaf)
      (hw : State.Walks s uid va lvl (tierOf tbl * 2 ^ 50 + natBits (s.entryAt (lvl + 1) tbl va) 49 12 * 4096) r) :
      State.Walks s uid va (lvl + 1) tbl r

/-- The right that an access wants of a page; an atomic wants to read and write. -/
def Leaf.lacks (l : Leaf) : Want → Prop
  | .read => l.r = false
  | .write => l.w = false
  | .exec => l.x = false
  | .rmw => l.r = false ∨ l.w = false

/-- A KEY names a key of the partition: 0 the partition key, and any other the partition's key of that identifier. -/
def State.namesKey (s : State) (part kid uid : Nat) (k : Key) : Prop :=
  (kid = 0 ∧ uid = (s.part part).key ∧ sget? uid s.keys = some k) ∨
  (kid ≠ 0 ∧ k.ident = kid ∧ k.part = part ∧ k.st ≠ .empty ∧
    ∃ before after, s.keys = before ++ (uid, k) :: after ∧ ∀ x ∈ before, ¬ (x.2.ident = kid ∧ x.2.part = part ∧ x.2.st ≠ .empty))

/-- No key of the partition has that identifier. -/
def State.noKey (s : State) (part kid : Nat) : Prop :=
  (kid = 0 → sget? (s.part part).key s.keys = none) ∧
  (kid ≠ 0 → ∀ x ∈ s.keys, ¬ (x.2.ident = kid ∧ x.2.part = part ∧ x.2.st ≠ .empty))

/-- The checks on a leaf for an access: the right, and its key (R282, R283). -/
def State.LeafChecks (s : State) (part va : Nat) (want : Want) (l : Leaf) : Prop :=
  (l.lacks want → s.translate part va want = .error 7) ∧
  (¬ l.lacks want → s.noKey part l.kid → s.translate part va want = .error 7) ∧
  (¬ l.lacks want → ∀ uid k, s.namesKey part l.kid uid k →
    (l.kid ≠ 0 → tierOf l.key = 2 → s.translate part va want = .error 7) ∧
    (¬ (l.kid ≠ 0 ∧ tierOf l.key = 2) →
      (k.st = .revoked → s.translate part va want = .error 0x0c) ∧
      (k.st = .retiring → want = .write ∨ want = .rmw → s.translate part va want = .error 7) ∧
      (k.st = .active ∨ (k.st = .retiring ∧ (want = .read ∨ want = .exec)) → s.translate part va want = .ok (l, uid))))

/-- A global load or store is refused with the cause that translation gives, or with SEALMAC when its line does not verify,
at its address (R104, R283, R286). -/
def State.globalRefused (s : State) (i : Form) (p : Pfx) (addr : Word) (want : Want) : Prop :=
  (∀ c, s.translate s.me.part addr.toNat want = .error c → s.trapsAt i p c addr) ∧
  (∀ l uid, s.translate s.me.part addr.toNat want = .ok (l, uid) →
    (want = .write → l.vw = true → s.trapsAt i p 0x0a addr) ∧
    ((want = .write → l.vw = false) → keyExists l.key = true → s.macOk l.key uid = false → s.trapsAt i p 0x71 addr))

/-- n little-endian bytes as a register's value: the sign or zeros above them. -/
def loadedValue (bytes : List Byte) (sgn : Bool) : Word :=
  if sgn then (BitVec.ofNat (8 * bytes.length) (leNat bytes)).signExtend 64 else BitVec.ofNat 64 (leNat bytes)

/-- The bank byte behind a local address outside the workspaces: its bank's number × 4,096 and its offset. -/
def Core.bankByte (k : Core) (a : Nat) : Nat := slotBank (k.cx.slot (a / 4096)) * 4096 + a % 4096

/-! ### Vector accesses (R199, R200) -/

/-- Doubleword i of the 128 bytes at va holds an active byte. -/
def State.wanted (s : State) (i : Nat) : Prop := ∃ j, j < 8 ∧ s.governed 8 (8 * i + j)

/-- The local address of byte lane j at va. -/
def laneAddr (va : Word) (j : Nat) : Nat := (va + BitVec.ofNat 64 (8 * (j / 8))).toNat + j % 8

/-- What a global vector access needs of lane j beyond its checks: its host page is not under invalidation and its
key is resident. -/
def State.laneReady (s : State) (key uid : Nat) : Prop :=
  s.zen.ats.contains (key / 4096) = false ∧ ∀ k, sget? uid s.keys = some k → k.resident = true

/-- The sequence leaves the core as one load of the lanes in J at their keys; the lanes outside J of v d become 0
under MZ, and else keep their bytes. The loaded bytes lose the bits that `mask` does not name. -/
def State.issuesVload (s : State) (i : Form) (p : Pfx) (d : Fin 16) (J : Nat → Prop) (key : Nat → Nat) (mask : Byte) : Prop :=
  ∃ (t : State) (x : Access) (base : BitVec 1024) (lanes : List (Nat × Nat)), exec (i p) s = .next t ∧ t.core s.cur = Core.advance { s.me with seqno := s.me.seqno + 1 } p ∧
    t.mem = s.mem ∧ t.bmem = s.bmem ∧
    t.flight = s.flight.filter (fun e => !s.isStalled e) ++ [(s.cur, .accessPerformed x)] ∧ x.core = s.cur ∧
    x.kind = .vload d base lanes mask (s.me.overlay x.keys) (s.me.vwOverlay x.keys) ∧
    (∀ j q, (j, q) ∈ lanes ↔ j < 128 ∧ J j ∧ q = key j) ∧
    (∀ j, j < 128 → ¬ J j → elemAt base 8 j = if bitOf s.cx.vtype 5 then 0 else elemAt s.cx.v[d] 8 j)

/-- A store of the lanes in J that are sealed under key generation u, in ascending order. -/
def isLaneStore (cells : List (Nat × Byte)) (u : Nat) (J : Nat → Prop) (key uid : Nat → Nat) (byte : Nat → Byte) : Prop :=
  ∃ l : List Nat, l.Pairwise (· < ·) ∧ (∀ j, j ∈ l ↔ j < 128 ∧ J j ∧ uid j = u) ∧ cells = l.map (fun j => (key j, byte j))

/-- The sequence stores the lanes in J: as accesses that leave the core, one for each key generation, whose bytes older
stores that are still held lose (log 81); or in staged mode as one entry of the send buffer, for which a full one traps
SNDFULL (R82, R119). -/
def State.issuesVstore (s : State) (i : Form) (p : Pfx) (J : Nat → Prop) (key uid : Nat → Nat) (byte : Nat → Byte) : Prop :=
  (bitOf s.cx.smc 0 = false → ∃ (t : State) (acc : List Access) (keys : List Nat), exec (i p) s = .next t ∧
    t.core s.cur = Core.advance { s.me with seqno := s.me.seqno + 1, sbuf := s.me.sbuf.map (SendEntry.without keys) } p ∧
    (∀ q, q ∈ keys ↔ ∃ j, j < 128 ∧ J j ∧ q = key j) ∧ t.mem = s.mem ∧ t.bmem = s.bmem ∧
    t.flight = s.flight.filter (fun e => !s.isStalled e) ++ acc.map (fun x => (s.cur, Instr.accessPerformed x)) ∧
    (∀ x ∈ acc, x.core = s.cur ∧ ∃ cells, x.kind = .vstore cells ∧ isLaneStore cells x.uid J key uid byte) ∧
    (∀ j, j < 128 → J j → ∃ x ∈ acc, x.uid = uid j) ∧ (acc.map (·.uid)).Nodup) ∧
  (bitOf s.cx.smc 0 = true → s.me.sbuf.length < 32 → ∃ (t : State) (parts : List (Nat × List (Nat × Byte))), exec (i p) s = .next t ∧
    t.core s.cur = Core.advance { s.me with sbuf := s.me.sbuf ++ [.store (p.order == .rel) parts] } p ∧ t.mem = s.mem ∧
    t.bmem = s.bmem ∧ (∀ y ∈ parts, isLaneStore y.2 y.1 J key uid byte) ∧ (∀ j, j < 128 → J j → ∃ y ∈ parts, y.1 = uid j) ∧
    (parts.map (·.1)).Nodup) ∧
  (bitOf s.cx.smc 0 = true → s.me.sbuf.length = 32 → s.TrapsWith i p 0x1b)

/-- The sequence stores n bytes at local addresses from a on, to banks and to the registers of the strand's workspace,
where no two of them fall on one byte; every other byte and register stays as it was (R87, R104, R209). -/
def State.storesLocal (s : State) (i : Form) (p : Pfx) (a n : Nat) (byte : Nat → Byte) : Prop :=
  s.memWf → (∀ j j', j < j' → j' < n → s.me.bankByte (a + j) ≠ s.me.bankByte (a + j')) → ∃ t k,
    exec (i p) s = .next t ∧ t = { s.setMe (Core.advance k p) with bmem := t.bmem, bpoison := t.bpoison } ∧
    k = { s.me with g := k.g } ∧
    (∀ x, (∀ j, j < n → s.me.bankByte (a + j) ≠ x) → memRead t.bmem x = memRead s.bmem x) ∧
    (∀ (r : Fin 16) (b : Nat), b < 8 → (∀ j, j < n → a + j ≠ s.cx.wp.toNat + 8 * r.val + b) →
      byteAt (k.getG r).toNat b = byteAt (s.me.getG r).toNat b) ∧
    (∀ j, j < n → t.localByte (a + j) = byte j)

/-! ### Tiles (R202 to R217) -/

/-- The fields of a tile control register (R202). -/
def rowsOf (v : Word) : Nat := bitsOf v 23 18 + 1
def colsOf (v : Word) : Nat := bitsOf v 30 24 + 1

/-- A tile's control register passes the first two checks of R206, in format f. -/
def State.goodTile (s : State) (v : Word) (f : Fmt) : Prop :=
  namedFmt s.cx.fmt (bitsOf v 17 16) (bitsOf v 3 0) = some f ∧ colsOf v ≤ 512 / f.cw ∧
  bitsOf v 63 32 / 2 ^ (4 * (512 / f.cw / 16)) = 0 ∧ (bitsOf v 6 4 = 1 → colsOf v % 4 = 0)

/-- A sequence that uses the tile control register v traps with the cause of the first check that it fails (R206). -/
def State.tileTraps (s : State) (v : Word) (i : Form) (p : Pfx) : Prop :=
  (namedFmt s.cx.fmt (bitsOf v 17 16) (bitsOf v 3 0) = none → s.TrapsWith i p 0x48) ∧
  (∀ f, namedFmt s.cx.fmt (bitsOf v 17 16) (bitsOf v 3 0) = some f → ¬ s.goodTile v f → s.TrapsWith i p 0x50)

/-- A data tile that is dense. -/
def dense (v : Word) : Prop := bitsOf v 11 10 = 0 ∧ bitsOf v 6 4 = 0

/-- The blocks of a format use byte j of a tile's scale store (Table 12.1). -/
def scaleByteUsed (f : Fmt) (j : Nat) : Prop :=
  if f.along = 0 then j % 8 < 512 / f.cw / f.blk else j / 4 < 512 / f.cw ∧ j % 4 < 64 / f.blk

/-- x and y are a tile's data and scale store as they are fetched from local address a; a format without scales keeps the
old scale store (R204, R209, R217). -/
def State.fetchedTile (s : State) (f : Fmt) (t : Fin 8) (a : Nat) (x : BitVec 32768) (y : BitVec 4096) : Prop :=
  (∀ j, j < 4096 → elemAt x 8 j = (s.localByte (a + j)).toNat) ∧
  (f.scale = 0 → y = s.cx.scale[t]) ∧
  (f.scale ≠ 0 → ∀ j, j < 512 → (scaleByteUsed f j → elemAt y 8 j = (s.localByte (a + 4096 + j)).toNat) ∧
    (¬ scaleByteUsed f j → elemAt y 8 j = 0))

/-- The doublewords of a tile's fetch. -/
def fetchWords (f : Fmt) : Nat := if f.scale = 0 then 512 else 576

/-- Column-major or k-packed (R202). -/
abbrev columnish (v : Word) : Prop := bitsOf v 9 7 = 1 ∨ bitsOf v 9 7 = 3

/-- Container c of register row r, and the bytes of the scale store. -/
def tileAt (x : BitVec 32768) (cw r c : Nat) : Nat := elemAt x cw (512 / cw * r + c)

/-- The sequence writes the enclave's state on its core and nothing else but its end. -/
def State.writesCx (s : State) (i : Form) (p : Pfx) (c : Ctx) : Prop :=
  exec (i p) s = .next (s.setMe ((s.me.setCx c).advance p))

/-- The exact sum of products from the first on; +0 of none (R183). -/
def exactSum : List Num → Num
  | [] => .fin false 0
  | x :: xs => xs.foldl (fun a b => (addNum a b).1) x

/-- The value of register element (r, c) of a tile: container `cont` times the scale of position c's block (R174, R214). -/
def State.tileNum (s : State) (f : Fmt) (t : Fin 8) (r cont c : Nat) : Num :=
  let n := decodeNum f (tileAt s.cx.t[t] f.cw r cont)
  if f.scale = 0 then n
  else (mulNum (scaleNum f (scaleFmt s.cx.fmt f) (elemAt s.cx.scale[t] 8 (8 * r + c / f.blk))) n).1

/-- The kept value of position k of row i of a 2:4 tile (R215). -/
def State.keptNum (s : State) (f : Fmt) (t : Fin 8) (i k : Nat) : Option Num :=
  let m := elemAt s.cx.t[t] 4 (128 * i + 64 + k / 4)
  if k % 4 = m % 4 then some (s.tileNum f t i (2 * (k / 4)) k)
  else if k % 4 = m / 4 then some (s.tileNum f t i (2 * (k / 4) + 1) k)
  else none

/-- The products of k-group g that enter element (i, j): positions 16g to 16g + 15 below K (R214 to R216). -/
def State.groupProducts (s : State) (op : Nat) (fa fb : Fmt) (ta tb : Fin 8) (k i j g : Nat) : List Num :=
  ((List.range 16).filter (fun q => decide (16 * g + q < k))).filterMap (fun q =>
    (if op = 1 then s.keptNum fa ta i (16 * g + q) else some (s.tileNum fa ta i (16 * g + q) (16 * g + q))).map
      (fun x => (mulNum x (s.tileNum fb tb j (16 * g + q) (16 * g + q))).1))

/-- An accumulator after the product of two tiles: each k-group's exact sum is added with one rounding to fp32 (R183,
R214); MMAB leaves out the groups whose bit of BMAP is 0 (R216). -/
def State.ProductOf (s : State) (op : Nat) (fa fb : Fmt) (ta tb : Fin 8) (old new : BitVec 131072) : Prop :=
  ∀ i j, i < 64 → j < 64 → elemAt new 32 (64 * i + j) =
    if i < rowsOf s.cx.tc[ta] ∧ j < rowsOf s.cx.tc[tb] then
      ((List.range ((colsOf s.cx.tc[ta] + 15) / 16)).foldl (fun x g =>
        if op = 2 ∧ (bitsOf s.cx.tc[ta] 63 32).testBit (i / 16 * (512 / fa.cw / 16) + g) = false then x
        else (roundF fp32 .rne (addNum (decodeNum fp32 x)
          (exactSum (s.groupProducts op fa fb ta tb (colsOf s.cx.tc[ta]) i j g))).1).1) (elemAt old 32 (64 * i + j))) % 2 ^ 32
    else elemAt old 32 (64 * i + j)

/-- The operands of a product: data tiles, A row-ish and B column-ish, of one container width and one COLS, scales
along rows, B dense and A as op says (R214). -/
def productTags (op : Nat) (va vb : Word) (fa fb : Fmt) : Prop :=
  bitsOf va 11 10 = 0 ∧ bitsOf vb 11 10 = 0 ∧ (bitsOf va 9 7 = 0 ∨ bitsOf va 9 7 = 2) ∧ ¬ (bitsOf vb 9 7 = 0 ∨ bitsOf vb 9 7 = 2) ∧
  fa.cw = fb.cw ∧ colsOf va = colsOf vb ∧ (fa.scale ≠ 0 → fa.along = 0) ∧ (fb.scale ≠ 0 → fb.along = 0) ∧
  bitsOf vb 6 4 = 0 ∧ bitsOf va 6 4 = op

/-- Every 2:4 group of a row below ROWS names two positions in rising order (R215). -/
def State.goodMeta (s : State) (t : Fin 8) : Prop :=
  ∀ i q, i < rowsOf s.cx.tc[t] → q < colsOf s.cx.tc[t] / 4 →
    elemAt s.cx.t[t] 4 (128 * i + 64 + q) % 4 < elemAt s.cx.t[t] 4 (128 * i + 64 + q) / 4

/-- The three products and their operations. -/
def productForms : List ((Pfx → Fin 4 → Fin 8 → Fin 8 → Instr) × Nat) := [(.mma, 0), (.mmas, 1), (.mmab, 2)]

/-! ### Messages (R112 to R124) -/

/-- The 64 bytes at local address la pass their checks and are the record r. -/
def State.recordAt (s : State) (la : Word) (r : Record) : Prop :=
  la.toNat % 64 = 0 ∧ (∀ i, i < 8 → s.localCheck .read (la + BitVec.ofNat 64 (8 * i)) = .ok) ∧
  ∀ j, j < 64 → elemAt r 8 j = (s.localByte (la.toNat + j)).toNat

/-- g0 to g7 as a record, g0 lowest. -/
def Core.carries (k : Core) (r : Record) : Prop := ∀ i : Fin 8, dword r i.val = k.getG ⟨i.val, by omega⟩

/-- The reserved header bits and HLD are clear and the mask that MSK names is installed (R112, R121). -/
def State.goodHeader (s : State) (r : Record) : Prop :=
  bitsOf r 37 34 = 0 ∧ bitOf r 44 = false ∧
  (bitsOf r 43 38 = 0 ∨ (sget? (bitsOf r 43 38) (s.part s.me.part).masks).isSome = true)

/-- The handler that HIDX names is in the running enclave's table. -/
def State.knownHandler (s : State) (r : Record) : Prop := (s.handler s.me.part s.me.enc (bitsOf r 63 52)).isSome = true

/-- r' is r with ORIG set to n (R121). -/
def hasOrig (r r' : Record) (n : Nat) : Prop :=
  bitsOf r' 33 24 = n % 1024 ∧ ∀ j, j < 24 ∨ 34 ≤ j → r'.getLsbD j = r.getLsbD j

/-- The sequence takes one send-buffer entry. -/
def State.buffers (s : State) (i : Form) (p : Pfx) (e : SendEntry) (spawns : Nat) : Prop :=
  exec (i p) s = .next (s.setMe (Core.advance { s.me with sbuf := s.me.sbuf ++ [e], spawns := spawns } p))

/-- What comes before an entry's own check: RECFMT, then HIDX (R121). -/
def State.recordTraps (s : State) (i : Form) (p : Pfx) (r : Record) : Prop :=
  (¬ s.goodHeader r → s.TrapsWith i p 0x17) ∧ (s.goodHeader r → ¬ s.knownHandler r → s.TrapsWith i p 0x16)

/-- The core after the end of its handler, n cycles later: idle, with its queues, buffer and workspace freed (R35, R86). What
its fences order stays (R65, R70). -/
def Core.ended (k : Core) (n : Nat) : Core :=
  { k with run := .idle, h := Handler.none, left := 0, slot := none, g := Vector.replicate 16 0, dq := [], bq := [], sbuf := []
           spawns := 0, words := [], copyWait := none, prods := [], cyc := k.cyc + n
           idleSince := k.cyc + n }

/-- The messages that a handler's send buffer holds. -/
def Core.bufferedMessages (k : Core) : Nat :=
  (k.sbuf.filter (fun e => match e with | .send _ _ | .sendm _ _ => true | _ => false)).length

/-- The entries that take no place of the host (R296). -/
def ordinary (es : List Entry) : List Entry := es.filter (fun e => !(e.src == 0x7ff && e.credit))

/-- An entry stands behind those of `before` and ahead of those of `after` in a ranked queue: held ones first, then by
PRIO, then by arrival (R116). -/
def ranked (prio arr : Nat) (before after : List Entry) : Prop :=
  (∀ x ∈ before, bitOf x.record 44 = true ∨ prio < bitsOf x.record 51 48 ∨ (prio = bitsOf x.record 51 48 ∧ x.arr ≤ arr)) ∧
  (∀ x xs, after = x :: xs → bitOf x.record 44 = false ∧
    (bitsOf x.record 51 48 < prio ∨ (prio = bitsOf x.record 51 48 ∧ arr < x.arr)))

/-- The entry merges with the message under the key of R116. -/
def merges (m : Msg) (x : Entry) : Prop := bitOf x.record 44 = false ∧ bitsOf x.record 23 0 = bitsOf m.record 23 0

/-- SMC with n more drops (R116, R132). -/
def dropsMore (smc : Word) (n : Nat) : Word := putBits smc 47 32 (min 0xffff (bitsOf smc 47 32 + n))

/-- The logical number n names a live core of the running partition. -/
def State.liveCore (s : State) (n c : Nat) : Prop :=
  (s.part s.me.part).members[n]? = some c ∧ (s.core c).live = true

/-- A message that no engine keeps or holds back, bound for the running enclave of a live core of its partition. -/
def State.arrivesNow (s : State) (m : Msg) : Prop :=
  (s.core m.site).live = true ∧ (s.core m.site).part = m.part ∧ (s.core m.site).enc = m.enc ∧
  (m.chan < 1024 → (s.core m.chan).engine = [])

/-- Message a is an earlier one of the sender of b, for the same core, enclave and queue (R117, R119). -/
def holdsBack (a b : Msg) : Prop :=
  a.site = b.site ∧ a.enc = b.enc ∧ a.queue = b.queue ∧ a.seq ≠ b.seq ∧ (b.seq + 2 ^ 32 - a.seq) % 2 ^ 32 < 2 ^ 31

/-- The entry that a message becomes. -/
def Entry.isOf (e : Entry) (m : Msg) : Prop :=
  e.record = m.record ∧ e.src = m.src ∧ e.seq = m.seq ∧ e.woken = m.woken ∧ e.wait = 0

/-- An idle core that receives work chooses its next action. -/
def State.wokenFlight (s : State) (c : Nat) : List (Nat × Instr) :=
  s.flight ++ (if (s.core c).run = .idle then [(c, .nextAction)] else [])

/-! ### Versioned words (R74, R125 to R129) -/

/-- A versioned word may be accessed now: its checks pass, its page is not under invalidation, its key is resident, its
line verifies. -/
def State.cellReady (s : State) (va : Word) (want : Want) (cell : Nat) : Prop :=
  ∃ l uid, s.vwCheck va want = .ok l uid ∧ l.key = cell ∧ s.atsBlocked [cell] = false ∧ s.keyMissing [uid] = none ∧
    s.macOk cell uid = true

/-- The checks of VwCheck pass at va for the cell (R127). -/
def State.cellAt (s : State) (va : Word) (want : Want) (cell : Nat) : Prop := ∃ l uid, s.vwCheck va want = .ok l uid ∧ l.key = cell

/-- The sequence sends a request to the cell's home, with the strand's held writes of the cell, and the core becomes k. -/
def State.asksHome (s : State) (i : Form) (p : Pfx) (k : Core) (va : Word) (cell : Nat) (op : VwOp) (f : VwReq → Instr) : Prop :=
  ∃ t r, exec (i p) s = .next t ∧ t.core s.cur = k ∧ t.mem = s.mem ∧ t.bmem = s.bmem ∧
    t.flight = s.flight.filter (fun e => !s.isStalled e) ++ [(s.cur, f r)] ∧
    r = { core := s.cur, hid := s.me.h.hid, seqno := s.me.seqno, part := s.me.part, enc := s.me.enc, cell := cell, va := va
          scope := p.scope, op := op, held := heldVws cell s.me.sbuf, pc := s.me.pc }

/-- The core after a request that it waits for. -/
def Core.asking (k : Core) (p : Pfx) : Core :=
  { k with seqno := k.seqno + 1, run := .waiting (.vw p), cyc := k.cyc + 1, left := k.left - 1 }

/-- A cell's value, version and list head in memory; every byte outside the cell is as in s. -/
def State.cellIs (t s : State) (cell : Nat) (v : Word) (ver head : Nat) : Prop :=
  memNat t.mem cell 8 = v.toNat ∧ memNat t.mem (cell + 8) 4 = ver % 2 ^ 32 ∧ memNat t.mem (cell + 12) 4 = head % 2 ^ 32 ∧
  ∀ a, a < cell ∨ cell + 16 ≤ a → memRead t.mem a = memRead s.mem a

/-- The wake that a home sends for a strand of enclave enc of partition p parked at the cell: an arrival at q3 (R28). -/
def wakeMsg (rc : Record) (p enc site cell : Nat) (va : Word) : Msg :=
  { record := rc, part := p, enc := enc, site := site, queue := 3, src := 0x7fd, seq := 0
    chan := 2048 + Config.homeSlice (cell / 64) % 1024, woken := true, mcast := none, cell := va }

/-- The NOLIVE record of R28 for a strand of enclave enc of partition p parked at the cell at va (R132). -/
def isNolive (p enc : Nat) (rc : Record) (va : Word) (r : Record) : Prop :=
  dword r 0 = 0x100014 ∧ dword r 1 = 0x7fd00000000 ∧ dword r 2 = 0 ∧ dword r 3 = va ∧
  dword r 4 = BitVec.ofNat 64 (enc * 2 ^ 61 + p * 2 ^ 32 + bitsOf rc 33 24 * 2 ^ 20) ∧ dword r 5 = dword rc 0 ∧
  dword r 6 = 0 ∧ dword r 7 = 0

/-- The core's handler may end: nothing is left in its queues or buffer and no engine holds it up (R90, R117). -/
def Core.mayEnd (k : Core) : Prop :=
  k.h.src ≠ 0x7fe ∧ k.dq = [] ∧ k.bq = [] ∧ k.sbuf = [] ∧ k.bal = none ∧ k.engine.length ≤ 64

/-- The handler of core c has ended as at DONE, and the core chooses its next action. -/
def State.endedAt (t s : State) (c : Nat) : Prop :=
  (t.core c).run = .idle ∧ (t.core c).h = Handler.none ∧ (t.core c).g = Vector.replicate 16 0 ∧ (t.core c).ctx = (s.core c).ctx

/-! ### Dispatch (R26, R31, R32) -/

/-- The thief may probe core v: it is live and in the steal domain of the running enclave, one of none, cluster, die and
partition (R32). That a failed core that keeps its number uses up no probe is log 67. -/
def State.mayProbe (s : State) (v : Nat) : Bool :=
  (s.core v).live && (match bitsOf s.cx.smc 3 2 with
    | 0 => false
    | 1 => clusterOf s.cur == clusterOf v
    | 2 => dieOf s.cur == dieOf v
    | _ => true)

/-- Victim v gives up entry e: its deque of the thief's enclave, which it runs (log 39), holds a second entry that is not
held, and e is the oldest that is neither held nor NS (R32). -/
def State.gives (s : State) (v : Nat) (e : Entry) : Prop :=
  (s.core v).enc = s.me.enc ∧ ∃ before after, (s.core v).cx.dspill ++ (s.core v).cx.deque = before ++ e :: after ∧
    bitOf e.record 44 = false ∧ bitOf e.record 45 = false ∧ (∀ x ∈ before, bitOf x.record 44 = true ∨ bitOf x.record 45 = true) ∧
    ∃ x ∈ before ++ after, bitOf x.record 44 = false

/-- The core runs the entry's strand from its start: its record in g0 to g7, zeros above, its budget. -/
def Core.started (k : Core) (e : Entry) (he : HandlerEntry) (hb : Nat) : Prop :=
  k.run = .running ∧ k.h.record = e.record ∧ k.h.src = e.src ∧ k.h.seq = e.seq ∧ k.pc = he.addr ∧ k.left = he.budget.getD hb ∧
  (∀ i : Fin 16, k.getG i = if i.val < 8 then dword e.record i.val else 0) ∧ k.dq = [] ∧ k.bq = [] ∧ k.sbuf = [] ∧
  k.spawns = 0 ∧ k.slot = none

/-- The idle core may choose a strand of its enclave. -/
def State.chooses (s : State) : Prop :=
  s.me.run = .idle ∧ (s.part s.me.part).rebuilding = false ∧ s.me.preempt = false ∧ s.me.quiesced = false ∧
  s.me.keptRecs = [] ∧ s.me.keptEntries = []

/-- Queue q's head is not held; its effective priority (R31). -/
def State.headReady (s : State) (q : Fin 4) : Prop := ∃ e es, s.cx.q[q].res = e :: es ∧ bitOf e.record 44 = false
def State.headPrio (s : State) (q : Fin 4) : Nat :=
  match s.cx.q[q].res with
  | [] => 0
  | e :: _ => min 15 (bitsOf e.record 51 48 +
      (if bitOf e.record 44 then 0 else e.wait + (s.me.cyc - s.cx.q[q].since)) / 4096)
def State.urgent (s : State) (q : Fin 4) : Prop := s.headReady q ∧ s.headPrio q = 15

/-- The head of queue q is taken and runs. -/
def State.takes (t s : State) (q : Fin 4) : Prop :=
  ∀ e es he, s.cx.q[q].res = e :: es → s.cx.q[q].spill = [] → s.handler s.me.part s.me.enc (bitsOf e.record 63 52) = some he →
    (t.core s.cur).started e he s.cx.hbDef ∧ ((t.core s.cur).cx.q[q]).res.map (·.record) = es.map (·.record) ∧
    t.mem = s.mem ∧ t.bmem = s.bmem ∧ t.flight = s.flight

/-! ### Banks and copies (R138 to R158, R223 to R233) -/

/-- g holds the address of slot n (R143). -/
def slotAddr (a : Word) (n : Nat) : Prop := a.toNat = n * 4096 ∧ n < 496

/-- The slot's entry names a bank that is attached, with its rights (R139). -/
def State.attachedAt (s : State) (n : Nat) (e : Word) : Prop := s.cx.slot n = e ∧ bitsOf e 33 32 = 1

/-- The sequence of a hand-over sends its reservation and waits (R146). -/
def State.reserves (s : State) (i : Form) (p : Pfx) (c : Nat) (r : HandReq) : Prop :=
  exec (i p) s = .next ((s.setMe { s.me with run := .waiting (.hand p), cyc := s.me.cyc + 1, left := s.me.left - 1 }).enqueue c
    (.handReservation r))

/-- The descriptor's 64 bytes, both sides' slots and the cells it names pass their checks, with the banks of its local
sides (R226). -/
def State.copyGood (s : State) (da : Word) (form : Nat) (r : Record) (sb db : List Nat) : Prop :=
  s.me.copyWait = none ∧ s.recordAt da r ∧ cdescBad form r = false ∧ s.checkRange .read (cdSrc r) (cdSl r) (cdLen r) = .ok sb ∧
  s.checkRange .write (cdDst r) (cdDl r) (cdLen r) = .ok db ∧ (cdCw r ≠ 0 → s.cellBad (cdCw r) .write = none) ∧
  (form = 2 → s.cellBad (cdVwa r) .read = none)

/-- The copy issues once its channel's last copy has ended and the accesses before it are performed: the channel's write
pointer holds the next generation, the channel's queue its descriptor, and the command is on its way to the cluster's
engine (R223, R225); until then the core waits with the copy as it was checked (R226). -/
def State.copyIssues (s : State) (i : Form) (p : Pfx) (cmd : CopyCmd) : Prop :=
  (bitsOf s.cx.cwp[Fin.ofNat 4 cmd.ch] 34 32 ≠ 0 → s.pendingAccess s.cur false = false →
    ∃ gen, gen = (bitsOf s.cx.cwp[Fin.ofNat 4 cmd.ch] 63 48 + 1) % 2 ^ 16 ∧
    exec (i p) s = .next ((s.setMe (Core.advance { s.me.setCx { s.cx with
      cwp := s.cx.cwp.set (Fin.ofNat 4 cmd.ch) (BitVec.ofNat 64 (gen * 2 ^ 48))
      vqueue := s.cx.vqueue.set (Fin.ofNat 4 cmd.ch) (some cmd.desc), vqTail := s.cx.vqTail + 1 } with copyWait := none } p)).enqueue
        (clusterSite (clusterOf s.cur)) (.copyCommand { cmd with gen := gen }))) ∧
  (bitsOf s.cx.cwp[Fin.ofNat 4 cmd.ch] 34 32 = 0 ∨ s.pendingAccess s.cur false = true → ∃ t, exec (i p) s = .next t ∧
    t.core s.cur = Core.tick { s.me with copyWait := some cmd } 1 ∧ t.mem = s.mem ∧ t.bmem = s.bmem ∧ t.flight = s.flight)

/-- The copy's core is still in its partition, where no strand is parked and no record kept. -/
def State.copyQuiet (s : State) (c : Copy) : Prop :=
  (s.core c.cmd.core).part = c.cmd.part ∧ (s.part c.cmd.part).conts = [] ∧ (s.part c.cmd.part).kept = [] ∧ s.memWf ∧
  (cdSrc c.cmd.desc).toNat % 64 = 0 ∧ (cdDst c.cmd.desc).toNat % 64 = 0

/-- A global line can be served at once: no other agent holds it and its key is resident (R78, R290, R295). -/
def State.lineServed (s : State) (cl key uid : Nat) : Prop :=
  s.zen.ats.contains (key / 4096) = false ∧ s.ownedElsewhere cl (key / 64) = false ∧ s.keyMissing [uid] = none

/-- A copy's completion cell, where it names one that translates, can be written at once. -/
def State.cellServed (s : State) (cl : Nat) (c : Copy) : Prop :=
  ∀ cell, cdCw c.cmd.desc ≠ 0 → s.physOf c.cmd.part (cdCw c.cmd.desc).toNat = some cell →
    s.lineServed cl cell (s.uidAt c.cmd.part (cdCw c.cmd.desc).toNat)

/-- Nimbus of cluster cl serves one copy alone, which is not told to stop, has no deadline, is ready and has budget left in
the current window, and whose completion cell can be written; its core is still in its partition, where no strand is parked
and no record kept. -/
def State.servesOnly (s : State) (cl : Nat) (n : Nimbus) (c : Copy) : Prop :=
  sget Nimbus.reset cl s.nimbus = n ∧ n.copies = [c] ∧ n.moved < 2 ∧ n.cyc < n.window + 1024 ∧ c.cmd.stop = 0 ∧ c.due = none ∧
  c.ready = true ∧ c.staging = none ∧ sget 0 c.key n.used < s.budgetOf cl c ∧ s.copyQuiet c ∧ s.cellServed cl c

/-- The bank byte of line k of a copy's local side at va, whose slots covered these banks at issue (R151). -/
def copyByte (va : Word) (banks : List Nat) (k : Nat) : Nat :=
  banks.getD ((va.toNat + 64 * k) / 4096 - va.toNat / 4096) 0 * 4096 + (va.toNat + 64 * k) % 4096

/-- The next source line of a copy: its bytes, and whether it comes poisoned, from a bank without poison or a global line
that translates (R229, R231, R286). -/
def State.readsLine (s : State) (cl : Nat) (c : Copy) (bs : Nat → Byte) (bad : Bool) : Prop :=
  (cdSl c.cmd.desc = true ∧ bad = false ∧ (∀ j, j < 8 → copyByte (cdSrc c.cmd.desc) c.cmd.sbanks c.next / 8 + j ∉ s.bpoison) ∧
    ∀ j, j < 64 → bs j = memRead s.bmem (copyByte (cdSrc c.cmd.desc) c.cmd.sbanks c.next + j)) ∨
  (cdSl c.cmd.desc = false ∧ ∃ l uid, s.translate c.cmd.part ((cdSrc c.cmd.desc).toNat + 64 * c.next) .read = .ok (l, uid) ∧
    keyExists l.key = true ∧ s.lineServed cl l.key uid ∧ bad = !s.macOk l.key uid ∧ ∀ j, j < 64 → bs j = memRead s.mem (l.key + j))

/-- Where the next line of a copy goes: to a bank (none), or to a global line that translates, with its key generation. -/
def State.writableLine (s : State) (cl : Nat) (c : Copy) (dst : Option (Nat × Nat)) : Prop :=
  (cdDl c.cmd.desc = true ∧ dst = none) ∨
  (cdDl c.cmd.desc = false ∧ ∃ l uid, s.translate c.cmd.part ((cdDst c.cmd.desc).toNat + 64 * c.next) .write = .ok (l, uid) ∧
    keyExists l.key = true ∧ s.lineServed cl l.key uid ∧ dst = some (l.key, uid))

/-- u is s with 64 bytes written at a copy's next line: a poisoned line arrives poisoned (R286, R309); every other byte,
seal and poison stays. -/
def State.lineWritten (u s : State) (c : Copy) (dst : Option (Nat × Nat)) (bs : Nat → Byte) (bad : Bool) : Prop :=
  match dst with
  | none => u.mem = s.mem ∧ u.seals = s.seals ∧ ∃ b, b = copyByte (cdDst c.cmd.desc) c.cmd.dbanks c.next ∧
      (∀ x, memRead u.bmem x = if b ≤ x ∧ x < b + 64 then bs (x - b) else memRead s.bmem x) ∧
      ∀ d, d ∈ u.bpoison ↔ if b / 8 ≤ d ∧ d < b / 8 + 8 then bad = true else d ∈ s.bpoison
  | some (key, uid) => u.bmem = s.bmem ∧ u.bpoison = s.bpoison ∧
      (∀ x, memRead u.mem x = if key ≤ x ∧ x < key + 64 then bs (x - key) else memRead s.mem x) ∧
      (∀ x, u.sealOf x = if x / 64 = key / 64 then (if bad then .never else .key uid) else s.sealOf x)

/-- A copy's write pointer (R223). -/
def State.pointerIs (t : State) (c : Copy) (st off : Nat) : Prop :=
  ((t.core c.cmd.core).cxOf c.cmd.enc).cwp[Fin.ofNat 4 c.cmd.ch] = BitVec.ofNat 64 (c.cmd.gen % 2 ^ 16 * 2 ^ 48 + st * 2 ^ 32 + off)

/-- t is u after a copy's end: its write pointer, and one write of its completion cell, where it names one that
translates, whose key serves a store and whose line verifies (R232, R283, R286, Table 14.3; what else by log 95). -/
def State.copyEnded (t u : State) (c : Copy) (st cause off : Nat) : Prop :=
  t.pointerIs c st off ∧ t.bmem = u.bmem ∧
  (cdCw c.cmd.desc = 0 ∨ u.physFor c.cmd.part (cdCw c.cmd.desc).toNat .write = none → t.mem = u.mem) ∧
  ∀ cell, cdCw c.cmd.desc ≠ 0 → u.physFor c.cmd.part (cdCw c.cmd.desc).toNat .write = some cell →
    (u.macOk cell (u.uidAt c.cmd.part (cdCw c.cmd.desc).toNat) = false → t.mem = u.mem) ∧
    (u.macOk cell (u.uidAt c.cmd.part (cdCw c.cmd.desc).toNat) = true →
      t.cellIs u cell (BitVec.ofNat 64 (off * 2 ^ 16 + cause * 2 ^ 8 + st)) (memNat u.mem (cell + 8) 4 + 1) 0)

/-! ### Plans (R257 to R270) -/

/-- One half of a sweep (R263, R264): each of the `len` scalings becomes its marginal less the log-sum-exp of its line
of the kernel with the other scalings, or −Inf where that is −Inf; the others keep their codes. -/
def HalfOf (len cnt : Nat) (ker : Nat → Nat → Nat) (others marg old new : BitVec 2048) : Prop :=
  ∀ i, i < 64 → elemAt new 32 i = if i < len then
      (if (lse ((List.range cnt).map (fun j => decodeNum fp32
          (roundF fp32 .rne (addNum (decodeNum fp16 (ker i j)) (decodeNum fp32 (elemAt others 32 j))).1).1))).1 = 0xff800000
        then 0xff800000
        else (roundF fp32 .rne (addNum (decodeNum fp32 (elemAt marg 32 i)) (decodeNum fp32 (lse ((List.range cnt).map (fun j =>
          decodeNum fp32 (roundF fp32 .rne (addNum (decodeNum fp16 (ker i j)) (decodeNum fp32 (elemAt others 32 j))).1).1))).1).neg).1).1)
        % 2 ^ 32
    else elemAt old 32 i

/-- Change(a, b) of two scalings (R263). -/
def scalingChange (a b : Nat) : Nat :=
  if a = 0xff800000 ∧ b = 0xff800000 then 0
  else if (decodeNum fp32 (roundF fp32 .rne (addNum (decodeNum fp32 a) (decodeNum fp32 b).neg).1).1).isNan then
    (roundF fp32 .rne (addNum (decodeNum fp32 a) (decodeNum fp32 b).neg).1).1
  else (roundF fp32 .rne (addNum (decodeNum fp32 a) (decodeNum fp32 b).neg).1).1 % 2 ^ 31

/-- res is the largest change between the first `len` scalings of two vectors: the canonical NaN where one is NaN (R263). -/
def ResidualOf (len : Nat) (new old : BitVec 2048) (res : Nat) : Prop :=
  ∀ l, l = (List.range len).map (fun i => scalingChange (elemAt new 32 i) (elemAt old 32 i)) →
    ((∃ x ∈ l, (decodeNum fp32 x).isNan = true) → res = 0x7fc00000) ∧
    ((∀ x ∈ l, (decodeNum fp32 x).isNan = false) → res ∈ 0 :: l ∧ ∀ x ∈ l, ¬ (decodeNum fp32 res).Less (decodeNum fp32 x))

/-- BS with SWEEPS, ST and EMPTY 0 (R258, R261, R262). -/
def clearedBs (bs : Word) : Word := bs &&& ~~~0x38fff

/-! ### Tasks (R234 to R252) -/

/-- The 1,024 bits of a task record stand at local address la, readable, with the TID's doubleword writable (R249). -/
def State.taskAt (s : State) (la : Word) (r : BitVec 1024) : Prop :=
  la.toNat % 64 = 0 ∧ (∀ i, i < 16 → s.localCheck .read (la + BitVec.ofNat 64 (8 * i)) = .ok) ∧ s.localCheck .write (la + 96) = .ok ∧
  ∀ j, j < 128 → elemAt r 8 j = (s.localByte (la.toNat + j)).toNat

/-- A task record is well-formed (R236, R249). -/
def goodTask (r : BitVec 1024) : Prop :=
  bitsOf r 63 28 = 0 ∧ bitOf r 19 = false ∧ bitsOf r 767 727 = 0 ∧ bitsOf r 719 717 = 0 ∧ bitsOf r 1023 832 = 0 ∧
  1 ≤ bitsOf r 18 16 ∧ bitsOf r 18 16 ≤ 4 ∧ bitsOf r 25 24 ≤ 2 ∧ bitsOf r 27 26 ≤ 2 ∧ bitsOf r 726 720 ≤ 64 ∧
  bitsOf r 716 708 + bitsOf r 726 720 ≤ 496 ∧ bitsOf r 23 20 < 2 ^ bitsOf r 18 16 ∧ bitsOf r 707 704 < 2 ^ bitsOf r 18 16 ∧
  (∀ i, i < 4 → if i < bitsOf r 18 16 then elemAt r 64 (2 + i) ≠ 0 ∧ elemAt r 64 (2 + i) % 64 = 0 else elemAt r 64 (2 + i) = 0) ∧
  (1 ≤ bitsOf r 25 24 → elemAt r 64 6 % 16 = 0) ∧ (bitsOf r 25 24 = 2 → elemAt r 64 8 % 16 = 0) ∧
  (1 ≤ bitsOf r 27 26 → elemAt r 64 9 % 16 = 0) ∧ (bitsOf r 27 26 = 2 → elemAt r 64 10 % 16 = 0)

/-- An address lies in a page flagged versioned with the right that is wanted. -/
def State.versionedPage (s : State) (a : Nat) (w : Want) : Prop := ∃ l uid, s.translate s.me.part a w = .ok (l, uid) ∧ l.vw = true

/-- The wait and bump cells that a record uses lie in versioned pages (R249). -/
def State.taskCells (s : State) (r : BitVec 1024) : Prop :=
  (1 ≤ bitsOf r 25 24 → s.versionedPage (elemAt r 64 6) .read) ∧ (bitsOf r 25 24 = 2 → s.versionedPage (elemAt r 64 8) .read) ∧
  (1 ≤ bitsOf r 27 26 → s.versionedPage (elemAt r 64 9) .write) ∧ (bitsOf r 27 26 = 2 → s.versionedPage (elemAt r 64 10) .write)

/-- STATE 4, 6 or 7: a ring entry is free (R237, R239). -/
def State.entryFree (s : State) (p a : Nat) : Prop := s.statusOf p a % 16 = 4 ∨ s.statusOf p a % 16 = 6 ∨ s.statusOf p a % 16 = 7

/-- A tag and an element width have no reserved value (R235). -/
def goodTag (tag ew : Nat) : Prop := tag < 2 ^ 12 ∧ tag / 2 ^ 10 < 2 ∧ tag / 2 ^ 7 % 8 < 4 ∧ tag / 2 ^ 4 % 8 < 3 ∧ ew < 2

/-- The sequence stores cells under key generation uid: as an access that leaves the core, and whose bytes older stores that
are still held lose (log 81), or in staged mode as an entry of the send buffer (R82, R119). -/
def State.storesGlobal (s : State) (i : Form) (p : Pfx) (cells : List (Nat × Byte)) (uid : Nat) : Prop :=
  (bitOf s.cx.smc 0 = false → ∃ (t : State) (x : Access), exec (i p) s = .next t ∧
    t.core s.cur = Core.advance { s.me with seqno := s.me.seqno + 1
                                            sbuf := s.me.sbuf.map (SendEntry.without (cells.map (·.1))) } p ∧
    t.mem = s.mem ∧ t.bmem = s.bmem ∧
    t.flight = s.flight.filter (fun e => !s.isStalled e) ++ [(s.cur, .accessPerformed x)] ∧ x.core = s.cur ∧ x.uid = uid ∧
    x.order = p.order ∧ x.kind = .store cells) ∧
  (bitOf s.cx.smc 0 = true → s.me.sbuf.length < 32 → ∃ t : State, exec (i p) s = .next t ∧
    t.core s.cur = Core.advance { s.me with sbuf := s.me.sbuf ++ [.store (p.order == .rel) [(uid, cells)]] } p ∧ t.mem = s.mem ∧
    t.bmem = s.bmem) ∧
  (bitOf s.cx.smc 0 = true → s.me.sbuf.length = 32 → s.TrapsWith i p 0x1b)

/-- The sequence stores several parts, each with its key generation: as one access each that leave the core in their order,
and whose bytes older stores that are still held lose (log 81), or in staged mode as one entry of the send buffer (R82, R119,
R251). -/
def State.storesParts (s : State) (i : Form) (p : Pfx) (parts : List (Nat × List (Nat × Byte))) : Prop :=
  (bitOf s.cx.smc 0 = false → ∃ (t : State) (xs : List Access), exec (i p) s = .next t ∧
    t.core s.cur = Core.advance { s.me with
      seqno := s.me.seqno + 1, sbuf := s.me.sbuf.map (SendEntry.without ((partCells parts).map (·.1))) } p ∧ t.mem = s.mem ∧ t.bmem = s.bmem ∧
    t.flight = s.flight.filter (fun e => !s.isStalled e) ++ xs.map (fun x => (s.cur, .accessPerformed x)) ∧
    xs.map (fun x => (x.uid, x.kind)) = parts.map (fun y => (y.1, .store y.2)) ∧ ∀ x ∈ xs, x.core = s.cur ∧ x.order = p.order) ∧
  (bitOf s.cx.smc 0 = true → s.me.sbuf.length < 32 → ∃ t : State, exec (i p) s = .next t ∧
    t.core s.cur = Core.advance { s.me with sbuf := s.me.sbuf ++ [.store (p.order == .rel) parts] } p ∧ t.mem = s.mem ∧ t.bmem = s.bmem) ∧
  (bitOf s.cx.smc 0 = true → s.me.sbuf.length = 32 → s.TrapsWith i p 0x1b)

/-- A key is free for use: no page under invalidation, its key resident. -/
def State.pageReady (s : State) (keys : List Nat) (uid : Nat) : Prop := s.atsBlocked keys = false ∧ s.keyMissing [uid] = none

/-- The state at which a sequence goes on with these keys at hand: its stalled access is gone and their use is noted (R290). -/
def State.keysAtHand (s : State) (uids : List Nat) : State :=
  { s with flight := s.flight.filter (fun e => !s.isStalled e), keys := touchKeys s.keys uids }

/-- An Aster looks at its tasks again, once. -/
def State.kicked (s : State) (cl : Nat) : List (Nat × Instr) :=
  s.flight ++ (if (clusterSite cl, Instr.asterDependenceMet) ∈ s.flight then [] else [(clusterSite cl, .asterDependenceMet)])

/-- The code of operand i's descriptor under a table's code map (R240, R241). -/
def State.operandCode (s : State) (p tbl : Nat) (sh : Record) : Nat :=
  (s.physRead p (tbl + 0x40 + (bitOf sh 464).toNat * 256 + ((bitOf sh 458).toNat * 2 ^ 8 + bitsOf sh 456 455 * 2 ^ 6 + bitsOf sh 453 452 * 2 ^ 4 + bitsOf sh 451 448) / 2) 1).getD 0
    / 2 ^ (4 * (bitsOf sh 451 448 % 2)) % 16

/-- A task's status word lies at this key, written and read by Aster: it translates and its line verifies (R283, R286). -/
def State.taskWord (s : State) (p entry key : Nat) : Prop :=
  s.physFor p (entry + 128) .write = some key ∧ s.physOf p (entry + 128) = some key ∧
  s.macsOk key 8 (s.uidAt p (entry + 128)) = true

/-- The doubleword at a key is v and every other byte of memory is as in s. -/
def State.wordIs (t s : State) (key v : Nat) : Prop :=
  memNat t.mem key 8 = v ∧ ∀ b, b < key ∨ key + 8 ≤ b → memRead t.mem b = memRead s.mem b

/-- Only STATE of a task's status word changes in memory, where the word lies in memory (R239). -/
def State.stateIs (t s : State) (x : Task) (st : Nat) : Prop :=
  s.memWf → ∀ key, s.taskWord x.ref.part x.ref.entry key → t.wordIs s key (memNat s.mem key 8 / 16 * 16 + st)

/-- The record that Aster writes of a held task (R132, R246): OP and the signature stand in CODE. -/
def isHeldRecord (x : Task) (tr : BitVec 1024) (cause op sig : Nat) (r : Record) : Prop :=
  dword r 0 = BitVec.ofNat 64 (cause + (op * 2 ^ 16 + sig % 2 ^ 16) % 2 ^ 32 * 2 ^ 32) ∧
  dword r 1 = BitVec.ofNat 64 (x.seq % 2 ^ 32 + 0x7fe * 2 ^ 32) ∧ dword r 2 = 0 ∧ dword r 3 = BitVec.ofNat 64 x.ref.entry ∧
  dword r 4 = x.core ∧ dword r 5 = dword tr 0 ∧ dword r 6 = 0 ∧ dword r 7 = 0

/-- The task is held, and the Aster of cluster cl owes its record (R131, R246): u is the device once the task's status word is
written; a ring with room takes the record, and else Aster keeps it. -/
def State.holdsTask (t s u : State) (x : Task) (cl : Nat) (tr : BitVec 1024) (cause op sig : Nat) : Prop :=
  (t.task x.ref).map (·.phase) = some .held ∧ t.cores = s.cores ∧ t.bmem = s.bmem ∧
  { u with mem := s.mem, seals := s.seals, tasks := s.tasks, keys := s.keys, zen := s.zen } = s ∧
  ∃ r, isHeldRecord x tr cause op sig r ∧
    (u.faultRoom x.ref.part = none → t.mem = u.mem ∧ (t.part x.ref.part).kept = [(4096 + cl, r)]) ∧
    (∀ ctl slot v, u.faultRoom x.ref.part = some (ctl, slot, v) → s.memWf → slot + 64 ≤ ctl ∨ ctl + 16 ≤ slot →
      (t.part x.ref.part).kept = [] ∧ memNat t.mem slot 64 = r.toNat ∧
      memNat t.mem ctl 8 = (memNat u.mem ctl 8 + 1) % 2 ^ 64 ∧ memNat t.mem (ctl + 8) 4 = (v + 1) % 2 ^ 32)

/-- The partition keeps no record for its fault ring, and no strand is parked where it has one (R131). -/
def State.quietRing (s : State) (p : Nat) : Prop := (s.part p).kept = [] ∧ ((s.part p).fcap = 0 ∨ (s.part p).conts = [])

/-- The bytes at an address readable in partition p are the shape record sh. -/
def State.shapeRead (s : State) (p a : Nat) (sh : Record) : Prop :=
  a % 64 = 0 ∧ ∃ l uid, s.translate p a .read = .ok (l, uid) ∧ keyExists l.key = true ∧ s.macOk l.key uid = true ∧
  ∀ j, j < 64 → elemAt sh 8 j = (memRead s.mem (l.key + j)).toNat

/-- A shape record has no misaligned address and no reserved tag (R242 step 2). -/
def goodShape (sh : Record) : Prop :=
  (dword sh 0).toNat % 64 = 0 ∧ (dword sh 5).toNat % 16 = 0 ∧ (dword sh 6).toNat % 64 = 0 ∧
  goodTag (bitsOf sh 463 448) (bitsOf sh 465 464)

/-- The operands' shape records of a task, all read and good (R242 step 2). -/
def State.shapesGood (s : State) (x : Task) (r : BitVec 1024) (shs : List Record) : Prop :=
  x.shapes.length = 4 ∧ bitsOf r 18 16 ≤ 4 ∧ shs.length = bitsOf r 18 16 ∧
  ∀ i, i < bitsOf r 18 16 → s.shapeRead x.ref.part (x.shapes.getD i 0) (shs.getD i 0) ∧ goodShape (shs.getD i 0)

/-- An operand's shape record is unreadable, does not verify, or is no good (R242 step 2). -/
def State.shapeUnfit (s : State) (p a : Nat) : Prop :=
  (∃ c, s.translate p a .read = .error c) ∨ (∃ l uid, s.translate p a .read = .ok (l, uid) ∧ s.macOk l.key uid = false) ∨
  ∃ sh, s.shapeRead p a sh ∧ ¬ goodShape sh

/-- The task is placed on core c (R242 steps 4 and 5): the lowest free banks of its field attach at the slots from SLOT on,
pinned, with RD and WR; the status word names method and core with STATE 2; the operands that STG names are copied into the
banks, or the strand may start at once. -/
def State.placedAt (t s : State) (x : Task) (r : BitVec 1024) (q : TaskQueue) (cl c : Nat) : Prop :=
  ∃ (banks : List Nat) (sts : List Record), banks.length = bitsOf r 726 720 ∧ banks.Pairwise (· < ·) ∧
    (∀ b ∈ banks, b / 512 = c ∧ b % 512 < 384 ∧ (s.bank b).st = .free) ∧
    (∀ b, b / 512 = c → b % 512 < 384 → (s.bank b).st = .free → b ∉ banks → ∀ b' ∈ banks, b' < b) ∧
    (∀ i, i < banks.length → ∃ e, ((t.core c).cxOf x.enc).slot (bitsOf r 716 708 + i) = e ∧ bitsOf e 33 32 = 1 ∧ bitsOf e 36 34 = 3 ∧
      bitOf e 37 = true ∧ bitsOf e 29 20 = (s.core c).lnum ∧ slotBank e = banks.getD i 0 ∧
      t.bank (banks.getD i 0) = { st := .attached c x.enc (bitsOf r 716 708 + i), owner := (s.core c).part }) ∧
    (∀ n, n < bitsOf r 716 708 ∨ bitsOf r 716 708 + banks.length ≤ n →
      ((t.core c).cxOf x.enc).slot n = ((s.core c).cxOf x.enc).slot n) ∧ (∀ y, y ≠ c → t.core y = s.core y) ∧
    (∀ b, b ∉ banks → t.bank b = s.bank b) ∧ t.bmem = s.bmem ∧
    sts = ((x.recs.zipIdx.filter (fun y => (bitsOf r 707 704).testBit y.2)).map (·.1)).filter (fun sh => bitsOf sh 511 480 != 0) ∧
    t.task x.ref = some { x with phase := .staging, banks := banks, site := c, copies := sts.length, failed := false } ∧
    (s.memWf → ∀ key, s.taskWord x.ref.part x.ref.entry key →
      t.wordIs s key ((x.seq % 2 ^ 32 * 2 ^ 32 + x.hidx * 2 ^ 14 + (s.core c).lnum * 2 ^ 4 + 2) % 2 ^ 64)) ∧
    (sts = [] → t.nimbus = s.nimbus ∧
      t.flight = State.kicked { s with flight := s.flight ++ [(clusterSite q.cluster, .asterStagingDone x.ref)] } cl) ∧
    (∀ sh, sts = [sh] → ∃ (n : Nimbus) (y : Copy), n = sget Nimbus.reset (clusterOf c) s.nimbus ∧
      sget Nimbus.reset (clusterOf c) t.nimbus = { n with copies := n.copies ++ [y], arrivals := n.arrivals + 1 } ∧
      y.staging = some x.ref ∧ y.next = 0 ∧ y.due = none ∧ y.ready = true ∧ y.cmd.part = x.ref.part ∧ y.cmd.dbanks = banks ∧
      cdSl y.cmd.desc = false ∧ cdDl y.cmd.desc = true ∧ cdSrc y.cmd.desc = dword sh 0 ∧
      cdDst y.cmd.desc = BitVec.ofNat 64 (bitsOf r 716 708 * 4096) ∧
      (bitsOf sh 511 480 + 63 < 2 ^ 32 → cdLen y.cmd.desc = (bitsOf sh 511 480 + 63) / 64 * 64) ∧
      (clusterSite (clusterOf c), Instr.copyLine) ∈ t.flight)

/-! ### Monitor calls (R278 to R281) -/

/-- The services of Table 19.3 and the steps that perform them. -/
def services : List (Nat × Instr) :=
  [(0, .mver), (1, .qheld), (2, .fqset), (3, .tqset), (4, .maskset), (5, .treeset), (6, .cpool), (7, .kimport), (8, .krevoke),
   (9, .resume), (10, .kstate), (11, .tctl), (12, .ptmap)]

/-- The core waits for service n; the arguments of its call are as MCALL read them (R98). -/
def State.calling (s : State) (p : Pfx) (n : Nat) : Prop := ∃ args, s.me.run = .waiting (.mcall p n args)

/-- The device after the monitor used the keys of the memory that the service reads and writes (R290). -/
def State.inService (s : State) : State := s.useKeys s.serviceUids

/-- Entries that verify, each of a next table, lead from the table at one level to a table at a lower one (R282). -/
inductive State.LeadsTo (s : State) (uid va : Nat) : Nat → Nat → Nat → Nat → Prop where
  | here (lvl tbl : Nat) : State.LeadsTo s uid va lvl tbl lvl tbl
  | down (up tbl lvl t : Nat) (h : s.macOk (entryPlace (up + 1) tbl va) uid = true) (he : s.entryAt (up + 1) tbl va % 4 = 1)
      (hn : State.LeadsTo s uid va up (tierOf tbl * 2 ^ 50 + natBits (s.entryAt (up + 1) tbl va) 49 12 * 4096) lvl t) :
      State.LeadsTo s uid va (up + 1) tbl lvl t

/-- m new tables, the first at `new`, hold zeros but for the chain of entries from the one at `place` down to the leaf e
that stands at level lvl; no other byte of memory changes (R284). -/
def State.chains (u s : State) (place new m va lvl e : Nat) : Prop :=
  memNat u.mem place 8 = 1 + new % 2 ^ 50 / 4096 * 4096 ∧
  (∀ j, j + 1 < m → memNat u.mem (entryPlace (lvl + m - 1 - j) (new + 4096 * j) va) 8 = 1 + (new + 4096 * (j + 1)) % 2 ^ 50 / 4096 * 4096) ∧
  memNat u.mem (entryPlace lvl (new + 4096 * (m - 1)) va) 8 = e ∧
  (∀ j x, j < m → new + 4096 * j ≤ x → x < new + 4096 * (j + 1) → x < entryPlace (lvl + m - 1 - j) (new + 4096 * j) va ∨
    entryPlace (lvl + m - 1 - j) (new + 4096 * j) va + 8 ≤ x → memRead u.mem x = 0) ∧
  ∀ x, x < new ∨ new + 4096 * m ≤ x → x < place ∨ place + 8 ≤ x → memRead u.mem x = memRead s.mem x

/-- The service answers the MCALL that waits for it with a status of Table 19.4; apart from its use of keys nothing else changes. -/
def State.answers (s : State) (i : Instr) (p : Pfx) (st : Nat) : Prop :=
  exec i s = .next (s.inService.setMe ((s.me.setG 8 (BitVec.ofNat 64 st)).resume p))

/-- The count of field j of lifetime record r has grown by n, up to its limit (R312). -/
def State.counted (u s : State) (r j n : Nat) : Prop :=
  sget 0 (r * 64 + j) u.zen.life = min (2 ^ 32 - 1) (sget 0 (r * 64 + j) s.zen.life + n)

/-- The service meets a line that does not verify, answers with a status, and counts the failure in the lifetime record of the
core's site (R286, R312, log 37); apart from its use of keys nothing else changes. -/
def State.answersFailed (s : State) (i : Instr) (p : Pfx) (st : Nat) : Prop :=
  ∃ u : State, u = { s.inService with zen := u.zen } ∧ u.counted s (1 + s.cur) 3 1 ∧
    exec i s = .next (u.setMe ((u.me.setG 8 (BitVec.ofNat 64 st)).resume p))

/-- The service turns the device into u and answers status 0. -/
def State.serves (s : State) (i : Instr) (p : Pfx) (u : State) : Prop :=
  exec i s = .next (u.setMe ((u.me.setG 8 0).resume p))

/-- u is s after n lines of plaintext bs, each written and sealed under the page that carries the identifier id (R289). -/
def State.importedTo (u : State) (p id : Nat) : State → Nat → List Byte → Nat → Prop
  | s, _, _, 0 => u = { s with mem := u.mem, seals := u.seals } ∧ u.mem = s.mem ∧ u.seals = s.seals
  | s, va, bs, n + 1 => ∃ t : State, t = { s with mem := t.mem, seals := t.seals } ∧
      (∀ cell uid, s.pageUnder p va id .write = some (cell, uid) →
        (∀ x, memRead t.mem x = if cell ≤ x ∧ x < cell + 64 then bs.getD (x - cell) 0 else memRead s.mem x) ∧
        ∀ x, t.sealOf x = if x / 64 = cell / 64 then .key uid else s.sealOf x) ∧
      u.importedTo p id t (va + 64) (bs.drop 64) n

/-- The import key of a secret: the first 32 bytes of SHAKE256 of the secret and the ASCII word import (R287, R289). -/
def importKey (secret : List Byte) : List Byte :=
  (leBytes 64 (Config.shake256 (secret ++ [0x69, 0x6d, 0x70, 0x6f, 0x72, 0x74])).toNat).take 32

/-- An entry with HLD cleared and all else as it was. -/
def Entry.releasedFrom (e' e : Entry) : Prop :=
  bitOf e'.record 44 = false ∧ e'.src = e.src ∧ e'.seq = e.seq ∧ ∀ j, j ≠ 44 → e'.record.getLsbD j = e.record.getLsbD j

/-- The device is as before but for memory and its sealing, the partition p and the tasks. -/
def State.onlyPart (u s : State) (p : Nat) : Prop :=
  { u with mem := s.mem, seals := s.seals, parts := s.parts, tasks := s.tasks } = s ∧ ∀ x, x ≠ p → u.part x = s.part x

/-- A multicast tree's list: the root first, every parent before its children, no core twice, only live cores, and some
leaf (R307). -/
def State.goodTree (s : State) (p root : Nat) (nodes : List (Nat × Nat × Bool)) : Prop :=
  (∃ lv tl, nodes = (root, 0x3ff, lv) :: tl) ∧ nodes.length ≤ 1024 ∧ (nodes.map (·.1)).Nodup ∧
  (∀ i x, nodes[i]? = some x → x.1 < 1024 ∧ x.2.1 < 1024 ∧ (i ≠ 0 → x.2.1 < i) ∧ ∃ c, s.siteOf p x.1 = some c) ∧ ∃ x ∈ nodes, x.2.2 = true

/-! ### The host's requests (R291 to R301) -/

/-- The oldest thing that reached the device, which is ready, is this request. -/
def State.oldest (s : State) (r : HostReq) (xs : List HostIn) : Prop := s.zen.inbox = .req r :: xs ∧ s.zen.ready = true

/-- The device without its oldest input. -/
def State.taken (s : State) (xs : List HostIn) : State := { s with zen := { s.zen with inbox := xs } }

/-- The request is answered, and the device becomes u. -/
def State.replies (s : State) (i : Instr) (u : State) (x : HostOut) : Prop := exec i s = .next { u with out := u.out ++ [x] }

/-- An SPDM request of interface r.iface waits, with its parameters; the interface's connection is at a stage. -/
def State.spdmAsks (s : State) (r : HostReq) (xs : List HostIn) (code : Nat) (b : List Byte) : Prop :=
  s.oldest r xs ∧ r.msg = .spdm code b

/-- A vendor-defined request waits, under PCI-SIG's StandardID and this device's VendorID: its request code, its length and
zero flags (R298, Table 19.13). -/
def State.vendorAsks (s : State) (r : HostReq) (xs : List HostIn) (code len : Nat) (b : List Byte) : Prop :=
  s.oldest r xs ∧ r.msg = .vendor 3 s.zen.vendorId b ∧ field b 0 2 = code ∧ b.length = len ∧ field b 2 2 = 0

/-- It is answered under the same identifiers: its code, a status and results (R298). -/
def State.vendorReply (s : State) (i : Instr) (u : State) (r : HostReq) (b : List Byte) (st : Nat) (res : List Byte) : Prop :=
  s.replies i u (.vendor r.iface 3 s.zen.vendorId (leBytes 2 (field b 0 2) ++ leBytes 2 st ++ res))

/-- Session n of an interface and its requester carries the request; it is set up or not. -/
def State.inSessionOf (s : State) (r : HostReq) (n : Nat) (x : Session) : Prop :=
  r.sess = some n ∧ sget? n s.zen.sessions = some x ∧ x.iface = r.iface ∧ x.requester = r.requester

/-- The management interface's secured session, or the partition's own (R298). -/
def State.onManagement (s : State) (r : HostReq) : Prop := r.iface = 0 ∧ ∃ n x, s.inSessionOf r n x ∧ x.up = true
def State.onPartition (s : State) (r : HostReq) (p : Nat) : Prop := r.iface = 1 + p ∧ ∃ n x, s.inSessionOf r n x ∧ x.up = true

/-! ### Requests on a partition and events of the device (R287 to R312) -/

/-- A key may enter the store at once: a resident entry is free. -/
def State.storeHasRoom (s : State) : Prop :=
  (s.keys.filter (fun x => x.2.resident)).length < 256 ∧
  (s.keys.filter (fun x => x.2.resident && !(x.2.resident && (x.2.st == .active || x.2.st == .retiring)))).length < 192

/-- The device is as before but for the keys and what the key store counts. -/
def State.onlyKeys (u s : State) : Prop := { u with keys := s.keys, nextUid := s.nextUid } = s

/-- The device whose key store may still be short of a resident entry: key v is the one to evict, the least recently used of
those that may go (R290). -/
def State.leastUsed (s : State) (v : Nat) (kv : Key) : Prop :=
  sget? v s.keys = some kv ∧ kv.resident = true ∧ (kv.st = .active ∨ kv.st = .retiring) ∧ s.keyBusy v = false ∧
  ∀ w kw, (w, kw) ∈ s.keys → w ≠ v → kw.resident = true → kw.st = .active ∨ kw.st = .retiring → s.keyBusy w = false → kv.used < kw.used

/-- No strand waits in an enclave's queues, deque and arrival ring. -/
def Ctx.strandless (c : Ctx) : Prop :=
  c.ring = [] ∧ c.deque = [] ∧ c.dspill = [] ∧ ∀ q : Fin 4, c.q[q].res = [] ∧ c.q[q].spill = []

/-- R121 refuses a record that the host submits to an enclave of a partition, with this cause. -/
def State.refusesRecord (s : State) (p enc : Nat) (r : Record) (cause : Nat) : Prop :=
  (cause = 0x17 ∧ (bitsOf r 37 34 ≠ 0 ∨ bitOf r 44 = true ∨ (bitsOf r 43 38 ≠ 0 ∧ sget? (bitsOf r 43 38) (s.part p).masks = none))) ∨
  (cause = 0x16 ∧ bitsOf r 37 34 = 0 ∧ bitOf r 44 = false ∧
    (bitsOf r 43 38 = 0 ∨ (sget? (bitsOf r 43 38) (s.part p).masks).isSome = true) ∧ s.handler p enc (bitsOf r 63 52) = none)

/-- The trap record of a refused host submission: SRC 0x7ff, the cause, the host's count as SEQ, the refused header (R132, R296). -/
def refusedRecord (p seq cause : Nat) (r x : Record) : Prop :=
  bitsOf x 7 0 = cause ∧ bitsOf x 31 8 = 0 ∧ bitsOf x 63 32 = 0 ∧ bitsOf x 95 64 = seq % 2 ^ 32 ∧ bitsOf x 127 96 = 0x7ff ∧
  dword x 2 = 0 ∧ dword x 3 = 0 ∧ dword x 4 = BitVec.ofNat 64 (p * 2 ^ 32) ∧ dword x 5 = dword r 0 ∧ dword x 6 = 0 ∧ dword x 7 = 0

/-- The debugger's payload names enclave e of partition p, action `act`, and core n (Table 19.13). -/
def debugAsks (b : List Byte) (p e act n : Nat) : Prop :=
  field b 4 1 = p ∧ field b 5 1 = e ∧ field b 6 1 = act ∧ field b 7 1 = 0 ∧ field b 8 2 = n

/-- Core c of partition p, number n, is halted in enclave e. -/
def State.haltedAt (s : State) (p e n c : Nat) : Prop :=
  s.siteOf p n = some c ∧ (s.core c).enc = e ∧ ∃ cost, (s.core c).run = .halted cost

/-- The core goes on after BRK, with the cycles of BRK passed. -/
def State.goesOn (s : State) (c : Nat) (k : Core) : Prop :=
  ∀ cost, (s.core c).run = .halted cost →
    k = { s.core c with run := .running, cyc := (s.core c).cyc + cost, left := (s.core c).left - cost }

/-- The device's oldest input is x. -/
def State.inboxHas (s : State) (x : HostIn) (xs : List HostIn) : Prop := s.zen.inbox = x :: xs

/-- An event record is in the ring, its cycle the device counter's, or it is counted as lost (R310). -/
def State.reports (u s : State) (cls : EventClass) (site part detail : Nat) : Prop :=
  (s.zen.evHead - s.zen.evTail ≠ 256 → u.zen.evHead = s.zen.evHead + 1 ∧ u.out = s.out ++ [.msix 0] ∧
    sget? (s.zen.evHead % 256) u.zen.events = some ⟨cls, site, part, detail, s.zen.cyc⟩) ∧
  (s.zen.evHead - s.zen.evTail = 256 → u.zen.evLost = s.zen.evLost + 1 ∧ u.zen.events = s.zen.events ∧ u.out = s.out)

end Sys2Proof.Machine
end

