-- ==== Sys2Proof/Certificates/Slice0/Obligations.lean ====
section
/-! DEFINITION. The statements for the provers: what the spec's numbered rules say the machine does. -/

open Sys2Proof Sys2Proof.Machine

/-! ### Encoding -/

/-- R41 to R49, R61: decoding the words of every well-formed sequence gives it back, with every operand,
prefix and immediate it holds. -/
def Obligations.EncodeDecodeRoundTrip : Prop :=
  ∀ i : Instr, i.enc ≠ none → i.wf = true → decodeWords (encode i) = .ok i (encode i).length

/-- Words written out from the tables of chapter 3, one for each page, decode to what they stand for. -/
def Obligations.TableWordsDecode : Prop :=
  decodeWords [0b0000010010100110] = .ok (.add {} 1 2 3) 1 ∧
  decodeWords [0b0001110110100010] = .ok (.clz {} 3 2) 1 ∧
  decodeWords [0b0111110000100010, 0b1100010010100110] =
    .ok (.add { stall := 19, pxr := true } 1 10 3) 2 ∧
  decodeWords [0b1011110010000000, 0b0000000010100110] = .ok (.vadd { pxp := true } 1 2 3) 2 ∧
  decodeWords [0b1011110100000000, 0b0000100100101100] = .ok (.mma { pxp := true } 1 1 3) 2 ∧
  decodeWords [0b1011110110000000, 0b0000000000000100] = .ok (.done { pxp := true }) 2 ∧
  decodeWords [0b1011111000000000, 0b0000000010000000] = .ok (.att { pxp := true } 1) 2 ∧
  decodeWords [0b1011111010000000, 0b0000010100000010] = .ok (.bal { pxp := true } 1) 2 ∧
  decodeWords [0b1011111100000000, 0b0000000010000000] = .ok (.mcall { pxp := true } 1) 2

/-- R61, Table 3.11: what reaches no legal base word is refused under its detail code: a prefix of a
reserved kind, a fifth prefix, a repeated one, a missing `PXI` index, a page-0 word of no row, page 7, reserved and
unused bits and values beyond their limits, a modifier or a queue select that the sequence does not accept, and in a
delay slot a prefix word or any branch or jump. -/
def Obligations.ReservedWordsRefused : Prop :=
  (∀ (w : HalfWord) (ws : List HalfWord), bitsOf w 13 10 = 15 → bitsOf w 15 14 = 3 →
    decodeWords (w :: ws) = .illegal 1 false) ∧
  (∀ (w : HalfWord) (ws : List HalfWord), bitsOf w 13 10 ≠ 15 → rowOf 0 w = none →
    decodeWords (w :: ws) = .illegal 7 false) ∧
  (∀ (x w : HalfWord) (ws : List HalfWord), bitsOf x 15 10 = 0b101111 → bitsOf x 9 7 = 7 → bitsOf x 1 0 = 0 →
    bitsOf w 13 10 ≠ 15 →
    decodeWords (x :: w :: ws) = .illegal 8 false) ∧
  (∀ (x w : HalfWord) (ws : List HalfWord), bitsOf x 15 10 = 0b001111 → bitsOf x 9 8 ≠ 0 → bitsOf w 13 10 ≠ 15 →
    decodeWords (x :: w :: ws) = .illegal 4 false) ∧
  (∀ (x : HalfWord) (ws : List HalfWord), bitsOf x 15 10 = 0b011111 → bitOf x 7 = false →
    decodeWords (x :: x :: ws) = .illegal 3 false) ∧
  (∀ (x : HalfWord) (f : Nat → Option HalfWord), f 0 = some x → bitsOf x 13 10 = 15 →
    decode f true = .illegal 5 false) ∧
  (∀ (w : HalfWord) (f : Nat → Option HalfWord), f 0 = some w →
    bitsOf w 13 10 = 14 ∨ (bitsOf w 13 10 = 0 ∧ bitsOf w 9 7 ∈ [1, 2, 3, 5]) → decode f true = .illegal 10 true) ∧
  (∀ (x r y z w : HalfWord) (ws : List HalfWord), bitsOf x 15 10 = 0b101111 → bitsOf x 1 0 = 0 → bitsOf r 15 10 = 0b011111 →
    bitOf r 7 = false → bitsOf y 15 8 = 0b00111100 → bitsOf z 15 8 = 0b00111101 → bitsOf w 13 10 = 15 → bitsOf w 15 14 ≠ 3 →
    decodeWords (x :: r :: y :: z :: w :: ws) = .illegal 2 false) ∧
  (∀ (x : HalfWord) (ws : List HalfWord), bitsOf x 15 10 = 0b101111 → bitsOf x 1 0 ≠ 0 → decodeWords (x :: ws) = .illegal 6 false) ∧
  (∀ (x : HalfWord) (ws : List HalfWord), bitsOf x 15 10 = 0b011111 → bitOf x 7 = true → decodeWords (x :: ws) = .illegal 6 false) ∧
  (∀ (w : HalfWord) (ws : List HalfWord), bitsOf w 13 7 = 0 → bitsOf w 3 0 = 1 → bitsOf w 6 4 ≠ 0 →
    decodeWords (w :: ws) = .illegal 6 false) ∧
  (∀ (w : HalfWord) (ws : List HalfWord), bitsOf w 13 10 = 13 → bitsOf w 3 0 = 1 → bitOf w 7 = true →
    decodeWords (w :: ws) = .illegal 6 false) ∧
  (∀ (x w : HalfWord) (ws : List HalfWord), bitsOf x 15 10 = 0b011111 → bitsOf x 9 7 = 0 → bitOf x 0 = true →
    bitsOf w 13 10 = 8 → decodeWords (x :: w :: ws) = .illegal 6 false) ∧
  (∀ (x w : HalfWord) (ws : List HalfWord), bitsOf x 15 8 = 0b00111100 → 4 ≤ bitsOf x 7 0 → bitsOf w 13 10 = 9 →
    bitsOf w 6 4 = 3 → decodeWords (x :: w :: ws) = .illegal 6 false) ∧
  (∀ (x w : HalfWord) (ws : List HalfWord), bitsOf x 15 10 = 0b101111 → bitsOf x 9 7 = 0 → bitsOf x 1 0 = 0 →
    bitsOf x 6 2 ≠ 0 → bitsOf w 13 10 = 1 → decodeWords (x :: w :: ws) = .illegal 9 false) ∧
  (∀ (x w : HalfWord) (ws : List HalfWord), bitsOf x 15 10 = 0b101111 → bitsOf x 9 7 = 0 → bitsOf x 1 0 = 0 →
    bitsOf x 6 4 = 7 → bitsOf w 13 10 = 13 → bitsOf w 3 0 = 2 → decodeWords (x :: w :: ws) = .illegal 9 false) ∧
  (∀ (x w : HalfWord) (ws : List HalfWord), bitsOf x 15 10 = 0b011111 → bitOf x 7 = false → bitsOf x 9 8 = 3 →
    bitsOf w 13 10 = 1 → decodeWords (x :: w :: ws) = .illegal 11 false) ∧
  (∀ (x w : HalfWord) (ws : List HalfWord), bitsOf x 15 10 = 0b011111 → bitOf x 7 = false → bitsOf x 9 8 ≠ 0 →
    bitsOf w 13 10 = 10 → decodeWords (x :: w :: ws) = .illegal 11 false)

/-! ### Steps -/

/-- R42, R63, R95: a core whose next sequence decodes, whose scoreboard holds nothing that it waits for and
whose counts are not undersized executes exactly that sequence; one that must wait passes a cycle. The fetch changes the
words it keeps, key uses and fetch stalls alone, and after the sequence only the words and the record of results under
way (R94) are brought up to date. -/
def Obligations.StepIssuesDecoded : Prop :=
  (∀ (s s' : State) (c : Nat) (rest : List Turn) (i : Instr) (n : Nat),
    s.agenda = .issue c :: rest → s.zen.dead = false → (s.core c).run = .running → (s.core c).left ≠ 0 →
    decode ({ s with agenda := rest, cur := c } : State).fetchHalf (s.core c).slot.isSome = .ok i n →
    s' = ({ s with agenda := rest, cur := c } : State).fetched n →
    (s'.scoreboardWaits c i = true → step s = .next (s'.setMe (s'.me.tick 1))) ∧
    (s'.scoreboardWaits c i = false → s'.me.undersized i = [] →
      step s = match exec i s' with
        | .next t => .next (t.produced c s'.me s'.me i)
        | r => r)) ∧
  (∀ (s : State) (n : Nat), s.fetched n = { s.setMe { s.me with fetchPc := s.me.pc, words := s.firstWords n } with
    keys := (s.fetched n).keys, flight := (s.fetched n).flight }) ∧
  (∀ (t : State) (c : Nat) (old found : Core) (i : Instr), t.produced c old found i = t ∨
    ∃ l, t.produced c old found i = t.setCore c { t.core c with prods := l, words := [] })

/-- R98: a sequence that reads a result too early is detected before it executes: under SBM 1 it reads the
producers' results and counts one event; under SBM 2 it traps with STALLCHECK and does not execute. -/
def Obligations.UndersizedSequences : Prop :=
  ∀ (s : State) (i : Instr), s.me.undersized i ≠ [] → s.scoreboardWaits s.cur i = false →
    (bitsOf s.cx.sbm 1 0 = 2 → s.issueInstr i = .next (s.trap s.cur { cause := 0x10 })) ∧
    (∀ t, bitsOf s.cx.sbm 1 0 = 1 → exec i s = .next t →
      s.me.issuedFrom ((t.produced s.cur s.me s.me i).core s.cur) = true →
      s.issueInstr i = .next ((t.produced s.cur s.me s.me i).setCore s.cur
        (((t.produced s.cur s.me s.me i).core s.cur).setCxOf s.me.enc
          { ((t.produced s.cur s.me s.me i).core s.cur).cxOf s.me.enc with
            sbcnt := min 0xffffffff ((((t.produced s.cur s.me s.me i).core s.cur).cxOf s.me.enc).sbcnt + 1) })))

/-- The model's own form of memory (log 1): every step, whatever it is, keeps both memories in canonical
form: addresses strictly rising and no entry equal to what an unlisted address reads as. -/
def Obligations.StepKeepsMemoryForm : Prop :=
  ∀ s t : State, s.memWf → step s = .next t → t.memWf

/-- R304, R305, R276 and the register maps: before power-good nothing runs and no partition exists; an
enclave's registers as its creation leaves them, where the spec gives a value. -/
def Obligations.ResetState : Prop :=
  State.reset.cores = [] ∧ State.reset.parts = [] ∧ State.reset.zen.ready = false ∧ State.reset.memWf ∧
  Ctx.reset.hbDef = 65536 ∧ Ctx.reset.sbm = 1 ∧ Ctx.reset.sbcnt = 0 ∧ Ctx.reset.kmc = 0 ∧
  Ctx.reset.smc = 0x200004 ∧ Ctx.reset.vtype = 0x202000 ∧ Ctx.reset.bs = 0x3780000004000000 ∧
  Ctx.reset.resid = 0x7f800000 ∧ (∀ ch : Fin 4, Ctx.reset.cwp[ch] = 0x100000000) ∧
  (∀ t : Fin 8, Ctx.reset.t[t] = 0 ∧ Ctx.reset.tc[t] = 0) ∧ (∀ a : Fin 4, Ctx.reset.acc[a] = 0) ∧
  (∀ q : Fin 4, Ctx.reset.q[q].cfg = 0x100)

/-! ### Page 0: register and immediate sequences -/

/-- R99, Table 5.6: the three-operand results. -/
def Obligations.ThreeOperandResults : Prop :=
  ∀ d a b : Fin 16,
    Computes (fun p => .add p d a b) d b (fun s y => s.me.getG a + y) ∧
    Computes (fun p => .sub p d a b) d b (fun s y => s.me.getG a - y) ∧
    Computes (fun p => .and p d a b) d b (fun s y => s.me.getG a &&& y) ∧
    Computes (fun p => .or p d a b) d b (fun s y => s.me.getG a ||| y) ∧
    Computes (fun p => .xor p d a b) d b (fun s y => s.me.getG a ^^^ y) ∧
    Computes (fun p => .mul p d a b) d b (fun s y => s.me.getG a * y) ∧
    Computes (fun p => .sll p d a b) d b (fun s y => s.me.getG a <<< (y &&& 63)) ∧
    Computes (fun p => .srl p d a b) d b (fun s y => s.me.getG a >>> (y &&& 63)) ∧
    Computes (fun p => .slt p d a b) d b (fun s y => if (s.me.getG a).slt y then 1 else 0) ∧
    Computes (fun p => .sltu p d a b) d b (fun s y => if s.me.getG a < y then 1 else 0)

/-- R100, Table 5.7: the two-operand results; a division by 0 gives all ones, and its remainder the
dividend. -/
def Obligations.TwoOperandResults : Prop :=
  ∀ d a : Fin 16,
    Computes (fun p => .sra p d a) d a (fun s y => (s.me.getG d).sshiftRight (y.toNat % 64)) ∧
    Computes (fun p => .ror p d a) d a (fun s y =>
      s.me.getG d >>> (y &&& 63) ||| s.me.getG d <<< ((64 - (y &&& 63)) &&& 127)) ∧
    Computes (fun p => .mulh p d a) d a (fun s y =>
      (((s.me.getG d).signExtend 128 * y.signExtend 128).sshiftRight 64).setWidth 64) ∧
    Computes (fun p => .mulhu p d a) d a (fun s y =>
      (((s.me.getG d).setWidth 128 * y.setWidth 128) >>> 64).setWidth 64) ∧
    Computes (fun p => .div p d a) d a (fun s y => if y = 0 then BitVec.allOnes 64 else (s.me.getG d).sdiv y) ∧
    Computes (fun p => .divu p d a) d a (fun s y => if y = 0 then BitVec.allOnes 64 else (s.me.getG d).udiv y) ∧
    Computes (fun p => .rem p d a) d a (fun s y => if y = 0 then s.me.getG d else (s.me.getG d).srem y) ∧
    Computes (fun p => .remu p d a) d a (fun s y => if y = 0 then s.me.getG d else (s.me.getG d).umod y) ∧
    Computes (fun p => .min p d a) d a (fun s y => if (s.me.getG d).slt y then s.me.getG d else y) ∧
    Computes (fun p => .max p d a) d a (fun s y => if (s.me.getG d).slt y then y else s.me.getG d) ∧
    Computes (fun p => .minu p d a) d a (fun s y => if s.me.getG d < y then s.me.getG d else y) ∧
    Computes (fun p => .maxu p d a) d a (fun s y => if s.me.getG d < y then y else s.me.getG d) ∧
    Computes (fun p => .seq p d a) d a (fun s y => if s.me.getG d = y then 1 else 0) ∧
    Computes (fun p => .sne p d a) d a (fun s y => if s.me.getG d = y then 0 else 1) ∧
    Computes (fun p => .andn p d a) d a (fun s y => s.me.getG d &&& ~~~y) ∧
    Computes (fun p => .mov p d a) d a (fun _ y => y)

/-- R101, Table 5.8: the one-operand results; the counts and reversals bit by bit. -/
def Obligations.OneOperandResults : Prop :=
  ∀ d a : Fin 16,
    Computes (fun p => .neg p d a) d a (fun _ y => 0 - y) ∧
    Computes (fun p => .not p d a) d a (fun _ y => y ^^^ BitVec.allOnes 64) ∧
    ComputesThat (fun p => .clz p d a) d a IsLeadingZeros ∧
    ComputesThat (fun p => .ctz p d a) d a IsTrailingZeros ∧
    ComputesThat (fun p => .popc p d a) d a IsOnesCount ∧
    ComputesThat (fun p => .brev p d a) d a IsBitReverse ∧
    ComputesThat (fun p => .bswap p d a) d a IsByteReverse ∧
    Computes (fun p => .sextb p d a) d a (fun _ y => (y.setWidth 8).signExtend 64) ∧
    Computes (fun p => .sexth p d a) d a (fun _ y => (y.setWidth 16).signExtend 64) ∧
    Computes (fun p => .sextw p d a) d a (fun _ y => (y.setWidth 32).signExtend 64) ∧
    Computes (fun p => .zextb p d a) d a (fun _ y => y &&& 0xff) ∧
    Computes (fun p => .zexth p d a) d a (fun _ y => y &&& 0xffff) ∧
    Computes (fun p => .zextw p d a) d a (fun _ y => y &&& 0xffffffff)

/-- R102, R103, Table 5.9: the immediate results. -/
def Obligations.ImmediateResults : Prop :=
  ∀ (d a : Fin 16) (e : Int) (n : Nat),
    Computes (fun p => .addi p d a e) d a (fun _ y => y + BitVec.ofInt 64 e) ∧
    Computes (fun p => .andi p d e) d d (fun _ y => y &&& BitVec.ofInt 64 e) ∧
    Computes (fun p => .ori p d e) d d (fun _ y => y ||| BitVec.ofInt 64 e) ∧
    Computes (fun p => .xori p d e) d d (fun _ y => y ^^^ BitVec.ofInt 64 e) ∧
    Computes (fun p => .slli p d n) d d (fun _ y => y <<< n) ∧
    Computes (fun p => .srli p d n) d d (fun _ y => y >>> n) ∧
    Computes (fun p => .srai p d n) d d (fun _ y => y.sshiftRight n) ∧
    (-(2 ^ 63) ≤ e → e < 2 ^ 63 →
      Computes (fun p => .slti p d e) d d (fun _ y => if y.slt (BitVec.ofInt 64 e) then 1 else 0)) ∧
    Computes (fun p => .seqi p d e) d d (fun _ y => if y = BitVec.ofInt 64 e then 1 else 0) ∧
    (∀ (s : State) (p : Pfx), exec (.li p d e) s = .next (s.setMe ((s.me.setG d (BitVec.ofInt 64 e)).advance p)))

/-- R46, R89: a source from an empty dq and a condition from an empty bq trap with QUNDER (0x0E), a source from an entry
still to be filled waits, and a result for a full bq and a load for a full dq trap with QOVER (0x0D). No step makes a queue of a
core longer than it is: 32 entries in the send buffer (R119) and in a resident deque (R118), 8 in bq and 16 in dq. -/
def Obligations.QueueOperandTraps : Prop :=
  ∀ (d a b : Fin 16) (e : Int) (n : Nat),
    (∀ i ∈ ([fun p => .add p d a b, fun p => .sub p d a b, fun p => .and p d a b, fun p => .or p d a b, fun p => .xor p d a b,
        fun p => .mul p d a b, fun p => .sll p d a b, fun p => .srl p d a b, fun p => .slt p d a b, fun p => .sltu p d a b,
        fun p => .sra p d a, fun p => .ror p d a, fun p => .mulh p d a, fun p => .mulhu p d a, fun p => .div p d a,
        fun p => .divu p d a, fun p => .rem p d a, fun p => .remu p d a, fun p => .min p d a, fun p => .max p d a,
        fun p => .minu p d a, fun p => .maxu p d a, fun p => .seq p d a, fun p => .sne p d a, fun p => .andn p d a,
        fun p => .mov p d a, fun p => .neg p d a, fun p => .not p d a, fun p => .clz p d a, fun p => .ctz p d a,
        fun p => .popc p d a, fun p => .brev p d a, fun p => .bswap p d a, fun p => .sextb p d a, fun p => .sexth p d a,
        fun p => .sextw p d a, fun p => .zextb p d a, fun p => .zexth p d a, fun p => .zextw p d a, fun p => .addi p d a e,
        fun p => .andi p d e, fun p => .ori p d e, fun p => .xori p d e, fun p => .slli p d n, fun p => .srli p d n,
        fun p => .srai p d n, fun p => .slti p d e, fun p => .seqi p d e] : List Form), ReadsDq i) ∧
    (∀ i ∈ ([fun p => .slt p d a b, fun p => .sltu p d a b, fun p => .seq p d a, fun p => .sne p d a, fun p => .slti p d e,
        fun p => .seqi p d e] : List Form), FillsBq i) ∧
    (∀ i ∈ ([fun p => .bz p a e, fun p => .bnz p a e, fun p => .bltz p a e, fun p => .bgez p a e] : List Form),
      ∀ (s : State) (p : Pfx), p.qs = .bqCond → s.me.bq = [] → s.TrapsWith i p 0x0e) ∧
    (∀ x ∈ loadForms, ∀ (s : State) (p : Pfx), p.qs = .dstQ → s.me.dq.length = 16 →
      (s.me.addr a e).toNat % x.2.1 = 0 →
      (s.localCheck .read (s.me.addr a e) = .ok → s.TrapsWith (fun p => x.1 p d a true e) p 0x0d) ∧
      (∀ l uid, s.globalCheck (s.me.addr a e) .read false = .ok l uid → s.TrapsWith (fun p => x.1 p d a false e) p 0x0d)) ∧
    State.reset.Bounded ∧ ∀ s t : State, s.Bounded → step s = .next t → t.Bounded

/-- R99 to R103 as a frame: where the handler goes on, a page-0 register or immediate sequence changes no
register but its destination, no control, vector or tile register, no queue but dq as its source and bq as
its destination, no other core and no byte of memory. -/
def Obligations.ScalarFrame : Prop :=
  ∀ (i : Instr) (d : Fin 16) (s t : State), i.scalarDest = some d → s.me.h.hid ≠ 0 → exec i s = .next t →
    (t.core s.cur).h.hid = s.me.h.hid →
    t = s.setMe (t.core s.cur) ∧ s.me.sameButScalars (t.core s.cur) ∧
    (∀ r : Fin 16, r ≠ d → (t.core s.cur).getG r = s.me.getG r) ∧
    (t.core s.cur).bq.take s.me.bq.length = s.me.bq ∧
    ((t.core s.cur).dq = s.me.dq ∨ ∃ x, s.me.dq = x :: (t.core s.cur).dq) ∧ s.sameMemory t

/-! ### Page 0: the end of a sequence, branches, traps -/

/-- R42, R51, R93, R94, R108, R109: a sequence moves the pc past its words, or to the target of the branch
whose delay slot it is; it takes 1 cycle and its stall count, which pass on the counter and off the budget.
NOP does nothing else, STALL adds its count, CYC reads the counter, LEA gives start + 2 × displacement. -/
def Obligations.SequenceEnd : Prop :=
  ∀ (s : State) (p : Pfx) (d : Fin 16) (e : Int) (n : Nat),
    exec (.nop p) s = .next (s.setMe { s.me with
      pc := match s.me.slot with
        | some (_, some t) => t
        | _ => s.me.pc + BitVec.ofNat 64 (2 * (1 + p.pxp.toNat + p.pxr.toNat + p.npxi))
      slot := none, cyc := s.me.cyc + (1 + p.stall), left := s.me.left - (1 + p.stall) }) ∧
    exec (.nop p) s = .next (s.setMe (s.me.advance p)) ∧
    exec (.stall p n) s = .next (s.setMe { s.me.advance p with
      cyc := s.me.cyc + (1 + p.stall) + n, left := s.me.left - (1 + p.stall) - n }) ∧
    exec (.cyc p d) s = .next (s.setMe ((s.me.setG d (BitVec.ofNat 64 s.me.cyc)).advance p)) ∧
    exec (.lea p d e) s = .next (s.setMe ((s.me.setG d (s.me.pc + BitVec.ofInt 64 (2 * e))).advance p))

/-- R50, R51, R107, R108: a branch or jump issues its delay slot next, and after it the target when it is
taken; JL and JLR link the address past the delay slot, LOOP counts down. A JR or JLR to an odd address
traps ILLEGAL with detail 12. -/
def Obligations.BranchesAndJumps : Prop :=
  ∀ (s : State) (p : Pfx) (a d : Fin 16) (e : Int),
    (∀ (y : Word) (k : Core), s.me.condSource p a y k →
      exec (.bz p a e) s = .next (s.setMe (k.branch p (if y = 0 then some (s.me.pc + BitVec.ofInt 64 (2 * e)) else none))) ∧
      exec (.bnz p a e) s = .next (s.setMe (k.branch p (if y = 0 then none else some (s.me.pc + BitVec.ofInt 64 (2 * e))))) ∧
      exec (.bltz p a e) s = .next (s.setMe (k.branch p (if y.msb then some (s.me.pc + BitVec.ofInt 64 (2 * e)) else none))) ∧
      exec (.bgez p a e) s = .next (s.setMe (k.branch p (if y.msb then none else some (s.me.pc + BitVec.ofInt 64 (2 * e)))))) ∧
    (p.qs = .bqCond → s.me.bq = [] → exec (.bz p a e) s = .next (s.trap s.cur { cause := 0x0e })) ∧
    exec (.j p e) s = .next (s.setMe (s.me.branch p (some (s.me.pc + BitVec.ofInt 64 (2 * e))))) ∧
    exec (.jl p e) s = .next (s.setMe ((s.me.branch p (some (s.me.pc + BitVec.ofInt 64 (2 * e)))).setG 15
      (s.me.pc + pfxBytes p + 2))) ∧
    exec (.loop p a e) s = .next (s.setMe ((s.me.branch p
      (if s.me.getG a = 1 then none else some (s.me.pc + BitVec.ofInt 64 (2 * e)))).setG a (s.me.getG a - 1))) ∧
    ((s.me.getG a).getLsbD 0 = false →
      exec (.jr p a) s = .next (s.setMe (s.me.branch p (some (s.me.getG a)))) ∧
      exec (.jlr p d a) s = .next (s.setMe ((s.me.branch p (some (s.me.getG a))).setG d (s.me.pc + pfxBytes p + 2)))) ∧
    ((s.me.getG a).getLsbD 0 = true →
      exec (.jr p a) s = .next (s.trap s.cur { cause := 1, detail := 12 }) ∧
      exec (.jlr p d a) s = .next (s.trap s.cur { cause := 1, detail := 12 })) ∧
    (∀ (k : Core) (t : Option Word), k.branch p t =
      { k with slot := some (k.pc, t), pc := k.pc + BitVec.ofNat 64 (2 * (1 + p.pxp.toNat + p.pxr.toNat + p.npxi))
               cyc := k.cyc + (1 + p.stall), left := k.left - (1 + p.stall) })

/-- R109, R110, R61, R62, R93: TRAP takes a trap with cause SOFT and BRK with BREAK and their code; with debug
halt enabled for the enclave BRK halts the core past itself; an illegal sequence traps with its detail, a fetch
that fails with its cause and address, and a budget that has run out with BUDGET. That an event whose condition does not
hold changes nothing is the model's choice (log 29). -/
def Obligations.SoftwareTraps : Prop :=
  ∀ (s : State) (p : Pfx) (n : Nat),
    exec (.trap p n) s = .next (s.trap s.cur { cause := 0x12, code := n }) ∧
    ((s.part s.me.part).dbg.contains s.me.enc = false →
      exec (.brk p n) s = .next (s.trap s.cur { cause := 0x13, code := n })) ∧
    ((s.part s.me.part).dbg.contains s.me.enc = true → (∀ r : Fin 16, s.gPending s.cur r = false) → ∃ t, exec (.brk p n) s = .next t ∧
      t.core s.cur = { s.me with pc := s.me.nextPc p, slot := none, run := .halted (1 + p.stall) } ∧ t.mem = s.mem) ∧
    (∀ detail inPlace, exec (.illegalSequence detail none inPlace) s =
      .next (s.trap s.cur { cause := 1, detail := detail, noSlot := inPlace })) ∧
    (∀ detail va inPlace, exec (.illegalSequence detail (some va) inPlace) s =
      .next (s.trap s.cur { cause := 1, detail := detail, faddr := va, x := true, noSlot := inPlace })) ∧
    (∀ va cause, exec (.fetchFault va cause) s = .next (s.trap s.cur { cause := cause, faddr := va })) ∧
    (s.me.run = .running → s.me.left = 0 → exec .budgetExpiry s = .next (s.trap s.cur { cause := 0x11 })) ∧
    (s.me.left ≠ 0 → exec .budgetExpiry s = .next s)

/-- R130, R131: taking a trap ends the handler: its workspace, queues and send buffer are gone, the core is
idle and chooses its next action; the trap record stands in the next slot of the fault ring, whose record
cell counts it, or is kept by the core when there is no room; and the message that started the handler goes
back to the head of its queue, or to the deque's end, with HLD set. That a ring which FQSET has not set counts as one
without room is the model's choice (log 12). -/
def Obligations.TrapEntry : Prop :=
  ∀ (s : State) (c : Nat) (t : TrapInfo),
    ((s.trap c t).core c).run = .idle ∧ ((s.trap c t).core c).h = Handler.none ∧ ((s.trap c t).core c).left = 0 ∧
    ((s.trap c t).core c).slot = none ∧ ((s.trap c t).core c).g = Vector.replicate 16 0 ∧
    ((s.trap c t).core c).dq = [] ∧ ((s.trap c t).core c).bq = [] ∧ ((s.trap c t).core c).sbuf = [] ∧
    (s.trap c t).flight.getLast? = some (c, .nextAction) ∧
    (s.memWf → (s.core c).mmam = none → (s.core c).bal = none → (s.core c).keptRecs = [] →
      (s.part (s.core c).part).conts = [] → (s.part (s.core c).part).kept = [] → ∀ ctl slot v, s.faultRoom (s.core c).part = some (ctl, slot, v) →
      (slot + 64 ≤ ctl ∨ ctl + 32 ≤ slot) →
      (∀ j, j < 64 → memRead (s.trap c t).mem (slot + j) = byteAt ((s.core c).trapRec t).toNat j) ∧
      memNat (s.trap c t).mem (ctl + 8) 4 = (v + 1) % 2 ^ 32 ∧ ((s.trap c t).core c).keptRecs = []) ∧
    ((s.core c).mmam = none → (s.core c).bal = none → (s.core c).keptRecs = [] →
      s.faultRoom (s.core c).part = none →
      ((s.trap c t).core c).keptRecs = [((s.core c).enc, (s.core c).trapRec t)]) ∧
    ((s.core c).mmam = none → (s.core c).bal = none → (s.core c).h.origin = .deque → (s.core c).cx.deque.length < 32 →
      ∃ e : Entry, ((s.trap c t).core c).cx.deque = (s.core c).cx.deque ++ [e] ∧
        e.record = setHeld (s.core c).h.record true ∧ e.src = (s.core c).h.src ∧ e.seq = (s.core c).h.seq) ∧
    (∀ q : Fin 4, (s.core c).mmam = none → (s.core c).bal = none → (s.core c).h.origin = .queue q →
      (s.core c).h.woken = false → (s.core c).cx.q[q].mode = 0 →
      (s.core c).cx.q[q].res.length < (s.core c).cx.q[q].cap →
      ∃ e : Entry, (((s.trap c t).core c).cx.q[q].res.head? = some e) ∧
        e.record = setHeld (s.core c).h.record true ∧ e.src = (s.core c).h.src ∧ e.seq = (s.core c).h.seq)

/-- R132: the fields of the 64-byte trap record. That CODE holds the low 32 bits of a code that is wider is the model's
choice (log 18). -/
def Obligations.TrapRecordFields : Prop :=
  ∀ (k : Core) (t : TrapInfo), t.cause < 256 → t.detail < 256 → t.iaddr = none → k.h.src < 2 ^ 11 →
    k.h.seq < 2 ^ 32 → k.left < 2 ^ 32 →
    bitsOf (k.trapRec t) 7 0 = t.cause ∧ bitsOf (k.trapRec t) 15 8 = t.detail ∧
    bitOf (k.trapRec t) 16 = (k.slot.isSome && !t.noSlot) ∧ bitOf (k.trapRec t) 17 = t.x ∧
    bitOf (k.trapRec t) 18 = bitOf k.cx.smc 0 ∧ bitOf (k.trapRec t) 19 = decide (k.h.src = 0x7fe) ∧
    bitOf (k.trapRec t) 20 = k.h.woken ∧ bitOf (k.trapRec t) 21 = decide (k.h.origin = .stolen) ∧
    bitsOf (k.trapRec t) 31 22 = 0 ∧ bitsOf (k.trapRec t) 63 32 = t.code % 2 ^ 32 ∧
    bitsOf (k.trapRec t) 95 64 = k.h.seq ∧ bitsOf (k.trapRec t) 106 96 = k.h.src ∧ bitsOf (k.trapRec t) 127 107 = 0 ∧
    dword (k.trapRec t) 2 = (match k.slot with
      | some (b, _) => if t.noSlot then k.pc else b
      | none => k.pc) ∧
    dword (k.trapRec t) 3 = t.faddr ∧ dword (k.trapRec t) 4 = (k.cid ||| BitVec.ofNat 64 (k.enc * 2 ^ 61)) ∧
    dword (k.trapRec t) 5 = dword k.h.record 0 ∧ bitsOf (k.trapRec t) 415 384 = k.left ∧
    bitsOf (k.trapRec t) 447 416 = min (k.cyc - k.h.start) (2 ^ 32 - 1) ∧ dword (k.trapRec t) 7 = 0

/-! ### Control registers -/

/-- R91, R93, R95, R98, R39, Table 5.2: what RDC reads from each control register, LAT's revision never below 1; SBCNT and KMC
are cleared by the read. -/
def Obligations.ControlRegisterReads : Prop :=
  ∀ (s : State) (p : Pfx) (d : Fin 16),
    (∀ n v, (n, v) ∈ [(0, s.cx.wp), (1, BitVec.ofNat 64 (s.cx.hbDef + s.me.left * 2 ^ 32)), (2, s.cx.sbm), (4, s.me.cid),
        (5, s.me.nbr), (6, BitVec.ofNat 64 (max 1 Config.fuseRev.toNat + Config.fuseStep.toNat * 256)), (8, s.cx.cwp[0]),
        (9, s.cx.cwp[1]), (10, s.cx.cwp[2]), (11, s.cx.cwp[3]), (14, s.cx.smc)] →
      exec (.rdc p d n) s = .next (s.setMe (((s.me.setCx s.cx).setG d v).advance p))) ∧
    (∀ i : Fin 16, exec (.rdc p d (16 + i.val)) s = .next (s.setMe (((s.me.setCx s.cx).setG d s.cx.fmt[i]).advance p))) ∧
    (s.page1Pending s.cur = false → s.me.bal = none →
      exec (.rdc p d 12) s = .next (s.setMe (((s.me.setCx s.cx).setG d s.cx.vtype).advance p))) ∧
    (s.me.bal = none → exec (.rdc p d 13) s = .next (s.setMe (((s.me.setCx s.cx).setG d s.cx.bs).advance p))) ∧
    exec (.rdc p d 3) s = exec (.rdcSbcnt p d) s ∧ exec (.rdc p d 7) s = exec (.rdcKmc p d) s ∧
    exec (.rdcSbcnt p d) s =
      .next (s.setMe (((s.me.setCx { s.cx with sbcnt := 0 }).setG d (BitVec.ofNat 64 s.cx.sbcnt)).advance p)) ∧
    exec (.rdcKmc p d) s =
      .next (s.setMe (((s.me.setCx { s.cx with kmc := 0 }).setG d (BitVec.ofNat 64 s.cx.kmc)).advance p))

/-- R86, R87, R92, R93, R132, R139, R156, R164, R165, R187, R259: what WRC writes to each control register. WRC WP stores the
registers to the old workspace's bank and takes them from the new one's. That a
workspace that no strand has left reads what its bank held (0 where nothing was written: logs 1, 2 and 8), that WRC WP
to a slot without a bank traps DETACHED (log 9), and that WRC WP itself traps BANKECC for a poisoned doubleword of the new
workspace (log 85), is the model's choice. -/
def Obligations.ControlRegisterWrites : Prop :=
  ∀ (s : State) (p : Pfx) (a : Fin 16),
    (s.privileged s.cur = true →
      (bitsOf (s.me.getG a) 20 12 < 496 → s.TrapsWith (fun p => .wrcWp p a) p 4) ∧
      (∀ wp e old oldKey key, wp = s.me.getG a &&& 0x1fff80 → 496 ≤ bitsOf (s.me.getG a) 20 12 →
        e = s.cx.slot (wp.toNat / 4096) → old = s.cx.slot (s.cx.wp.toNat / 4096) →
        oldKey = slotBank old * 4096 + s.cx.wp.toNat % 4096 → key = slotBank e * 4096 + wp.toNat % 4096 →
        (bitsOf e 33 32 ≠ 1 → s.trapsAt (fun p => .wrcWp p a) p 9 wp) ∧
        (bitsOf e 33 32 = 1 → bitsOf old 33 32 = 1 →
          (s.memWf → (∀ i, i < 16 → s.bpoison.contains (key / 8 + i) = false) → ∃ t g, exec (.wrcWp p a) s = .next t ∧
            t = { s.setMe (Core.advance { s.me.setCx { s.cx with wp := wp } with g := g } p) with
              bmem := t.bmem, bpoison := t.bpoison } ∧
            (∀ i : Fin 16, g[i] = BitVec.ofNat 64 (memNat t.bmem (key + 8 * i.val) 8)) ∧
            (∀ j, j < 128 → memRead t.bmem (oldKey + j) = byteAt (s.me.getG (Fin.ofNat 16 (j / 8))).toNat (j % 8)) ∧
            (∀ x, x < oldKey ∨ oldKey + 128 ≤ x → memRead t.bmem x = memRead s.bmem x)) ∧
          (∀ i, i < 16 → key + 128 ≤ oldKey ∨ oldKey + 128 ≤ key → s.bpoison.contains (key / 8 + i) = true →
            (∀ j, j < i → s.bpoison.contains (key / 8 + j) = false) →
            s.trapsAt (fun p => .wrcWp p a) p 0x47 (wp + BitVec.ofNat 64 (8 * i)))))) ∧
    (bitsOf (s.me.getG a) 31 0 ≠ 0 → (s.privileged s.cur = true ∨ bitsOf (s.me.getG a) 31 0 = s.cx.hbDef) →
      exec (.wrc p a 1) s = .next (s.setMe ((s.me.setCx { s.cx with hbDef := bitsOf (s.me.getG a) 31 0 }).advance p))) ∧
    (bitsOf (s.me.getG a) 1 0 ≠ 3 →
      exec (.wrc p a 2) s = .next (s.setMe ((s.me.setCx { s.cx with sbm := s.me.getG a &&& 3 }).advance p))) ∧
    (s.page1Pending s.cur = false → s.me.bal = none → ∃ v : Word,
      exec (.wrcVtype p a) s = .next (s.setMe ((s.me.setCx { s.cx with vtype := v }).advance p)) ∧
      (∀ j, j < 27 → v.getLsbD j = ((s.me.getG a).getLsbD j && (0x73f3f77 : Word).getLsbD j)) ∧
      (∀ j, j < 7 → v.getLsbD (48 + j) = (s.cx.vtype.getLsbD (48 + j) && !(s.me.getG a).getLsbD (48 + j))) ∧
      (∀ j, 27 ≤ j → j < 48 ∨ 55 ≤ j → v.getLsbD j = false)) ∧
    (s.me.bal = none → (s.me.getG a).msb = false → bitsOf (s.me.getG a) 31 20 ≠ 0 →
      (d32 (bitsOf (s.me.getG a) 63 32)).isNan = false → ∃ v : Word,
      exec (.wrcBs p a) s = .next (s.setMe ((s.me.setCx { s.cx with bs := v }).advance p)) ∧
      bitsOf v 63 32 = bitsOf (s.me.getG a) 63 32 ∧ bitsOf v 31 20 = bitsOf (s.me.getG a) 31 20 ∧
      bitsOf v 17 15 = bitsOf s.cx.bs 17 15 ∧ bitsOf v 11 0 = bitsOf s.cx.bs 11 0) ∧
    (bitsOf (s.me.getG a) 21 16 ≤ 32 → (s.privileged s.cur = true ∨ bitsOf (s.me.getG a) 3 2 = bitsOf s.cx.smc 3 2) →
      ∃ v : Word, exec (.wrcSmc p a) s = .next (s.setMe ((s.me.setCx { s.cx with smc := v }).advance p)) ∧
      bitOf v 0 = bitOf (s.me.getG a) 0 ∧ bitsOf v 3 2 = bitsOf (s.me.getG a) 3 2 ∧
      bitsOf v 21 16 = bitsOf (s.me.getG a) 21 16 ∧ bitsOf v 47 32 = bitsOf s.cx.smc 47 32) ∧
    (∀ i : Fin 16, s.privileged s.cur = true → (bitOf (s.me.getG a) 31 = true → fmtBad i.val (s.me.getG a) = false) →
      exec (.wrcFmt p a i) s = .next (s.setMe ((s.me.setCx { s.cx with
        fmt := s.cx.fmt.set i (if bitOf (s.me.getG a) 31 then s.me.getG a &&& 0x8ffffffe else 0) }).advance p)))

/-- R92, R275: what is refused: WRC to a read-only register traps CRPROT, a value out of range CRVAL; and outside
the supervisor enclave a write of WP, of a format entry, of another budget default or steal domain traps PRIV,
as MTLOAD, REVOKE, CLRST, IDLE and a monitor call of the supervisor's do. -/
def Obligations.PrivilegeTraps : Prop :=
  ∀ (s : State) (p : Pfx) (a : Fin 16),
    (∀ n, 3 ≤ n → n ≤ 11 → exec (.wrc p a n) s = .next (s.trap s.cur { cause := 3 })) ∧
    (bitsOf (s.me.getG a) 1 0 = 3 → exec (.wrc p a 2) s = .next (s.trap s.cur { cause := 4 })) ∧
    (s.privileged s.cur = false →
      exec (.wrcWp p a) s = .next (s.trap s.cur { cause := 2 }) ∧
      (∀ i : Fin 16, exec (.wrcFmt p a i) s = .next (s.trap s.cur { cause := 2 })) ∧
      (bitsOf (s.me.getG a) 31 0 ≠ s.cx.hbDef → exec (.wrc p a 1) s = .next (s.trap s.cur { cause := 2 })) ∧
      (bitsOf (s.me.getG a) 3 2 ≠ bitsOf s.cx.smc 3 2 → exec (.wrcSmc p a) s = .next (s.trap s.cur { cause := 2 })) ∧
      exec (.mtload p a) s = .next (s.trap s.cur { cause := 2 }) ∧
      exec (.revoke p a) s = .next (s.trap s.cur { cause := 2 }) ∧
      exec (.clrst p) s = .next (s.trap s.cur { cause := 2 }) ∧ exec (.idle p) s = .next (s.trap s.cur { cause := 2 }) ∧
      (∀ n, (s.me.getG a).toNat = n → n < 13 → n ≠ 0 → n ≠ 10 →
        exec (.mcall p a) s = .next (s.trap s.cur { cause := 2 }))) ∧
    (13 ≤ (s.me.getG a).toNat → exec (.mcall p a) s = .next (s.trap s.cur { cause := 0x70 }))

/-! ### Page 0: memory -/

/-- R87, R104, R139, R151, R156: what a local access is refused for, in this order: an address past 2^21 or in
another strand's workspace LADDR, a slot in transit a wait, an empty slot DETACHED, a right that is missing RIGHTS,
and on a read a poisoned doubleword BANKECC at that doubleword. -/
def Obligations.LocalAccessChecks : Prop :=
  ∀ (s : State) (p : Pfx) (d a : Fin 16) (off : Int) (addr e : Word),
    addr = s.me.getG a + BitVec.ofInt 64 off → addr.toNat % 8 = 0 → e = s.cx.slot (addr.toNat / 4096) →
    (2 ^ 21 ≤ addr.toNat → exec (.ld p d a true off) s = .next (s.trap s.cur { cause := 8, faddr := addr }) ∧
      exec (.st p d a true off) s = .next (s.trap s.cur { cause := 8, faddr := addr })) ∧
    (496 * 4096 ≤ addr.toNat → addr.toNat < s.cx.wp.toNat ∨ s.cx.wp.toNat + 128 ≤ addr.toNat →
      exec (.ld p d a true off) s = .next (s.trap s.cur { cause := 8, faddr := addr }) ∧
      exec (.st p d a true off) s = .next (s.trap s.cur { cause := 8, faddr := addr })) ∧
    (addr.toNat < 496 * 4096 →
      (bitsOf e 33 32 = 2 → exec (.ld p d a true off) s = .next (s.setMe (s.me.tick 1)) ∧
        exec (.st p d a true off) s = .next (s.setMe (s.me.tick 1))) ∧
      (bitsOf e 33 32 = 0 → exec (.ld p d a true off) s = .next (s.trap s.cur { cause := 9, faddr := addr }) ∧
        exec (.st p d a true off) s = .next (s.trap s.cur { cause := 9, faddr := addr })) ∧
      (bitsOf e 33 32 = 1 →
        (bitOf e 34 = false → exec (.ld p d a true off) s = .next (s.trap s.cur { cause := 0x43, faddr := addr })) ∧
        (bitOf e 35 = false → exec (.st p d a true off) s = .next (s.trap s.cur { cause := 0x43, faddr := addr })) ∧
        (bitOf e 34 = true → s.bpoison.contains (slotBank e * 512 + addr.toNat % 4096 / 8) = true →
          exec (.ld p d a true off) s = .next (s.trap s.cur { cause := 0x47, faddr := addr })) ∧
        (bitOf e 34 = true → s.bpoison.contains (slotBank e * 512 + addr.toNat % 4096 / 8) = false →
          s.localCheck .read addr = .ok) ∧
        (bitOf e 35 = true → s.localCheck .write addr = .ok)))

/-- R104, R89: a local load that passes its checks reads its bytes, little-endian, extends them, and writes d, or
under queue select 0b10 pushes dq, which traps QOVER when it holds 16 entries. A byte of the strand's own
workspace is its register's byte, any other its bank's. Nothing else changes. -/
def Obligations.LocalLoads : Prop :=
  (∀ (f : MemForm) (n : Nat) (sgn : Bool), (f, n, sgn) ∈ loadForms →
    ∀ (s : State) (p : Pfx) (d a : Fin 16) (off : Int) (addr v : Word),
    addr = s.me.getG a + BitVec.ofInt 64 off → addr.toNat % n = 0 → s.localCheck .read addr = .ok →
    v = loadedValue ((List.range n).map (fun j => s.localByte (addr.toNat + j))) sgn →
    (p.qs ≠ .dstQ → exec (f p d a true off) s = .next (s.setMe ((s.me.setG d v).advance p))) ∧
    (p.qs = .dstQ → s.me.dq.length < 16 → exec (f p d a true off) s =
      .next (s.setMe (Core.advance { s.me with dq := s.me.dq ++ [(s.me.seqno, some v)], seqno := s.me.seqno + 1 } p))) ∧
    (p.qs = .dstQ → s.me.dq.length = 16 → exec (f p d a true off) s = .next (s.trap s.cur { cause := 0x0d }))) ∧
  (∀ (s : State) (a : Nat), s.cx.wp.toNat ≤ a → a < s.cx.wp.toNat + 128 →
    s.localByte a = byteAt (s.me.getG (Fin.ofNat 16 ((a - s.cx.wp.toNat) / 8))).toNat ((a - s.cx.wp.toNat) % 8)) ∧
  (∀ (s : State) (a : Nat), a < s.cx.wp.toNat ∨ s.cx.wp.toNat + 128 ≤ a → s.localByte a = memRead s.bmem (s.me.bankByte a))

/-- R104, R156: a local store that passes its checks writes the low bytes of d, little-endian, to the bank of its
slot, or to its register where it lies in the strand's workspace; every other byte of every bank, every other
register and all of global memory stay as they were. -/
def Obligations.LocalStores : Prop :=
  ∀ (f : MemForm) (n : Nat), (f, n) ∈ storeForms →
    ∀ (s : State) (p : Pfx) (d a : Fin 16) (off : Int) (addr : Word),
    addr = s.me.getG a + BitVec.ofInt 64 off → addr.toNat % n = 0 → s.localCheck .write addr = .ok → s.memWf →
    s.cx.wp.toNat % 8 = 0 → 496 * 4096 ≤ s.cx.wp.toNat →
    (addr.toNat < 496 * 4096 → ∃ t, exec (f p d a true off) s = .next t ∧
      t = { s.setMe (s.me.advance p) with bmem := t.bmem, bpoison := t.bpoison } ∧
      (∀ x, memRead t.bmem x = if s.me.bankByte addr.toNat ≤ x ∧ x < s.me.bankByte addr.toNat + n
        then byteAt (s.me.getG d).toNat (x - s.me.bankByte addr.toNat) else memRead s.bmem x) ∧
      (∀ x, x ∈ t.bpoison ↔ x ∈ s.bpoison ∧ ¬ (n = 8 ∧ x = s.me.bankByte addr.toNat / 8))) ∧
    (496 * 4096 ≤ addr.toNat → ∃ t k, exec (f p d a true off) s = .next t ∧ t = s.setMe (Core.advance k p) ∧
      k = { s.me with g := k.g } ∧
      ∀ (r : Fin 16) (j : Nat), j < 8 → byteAt (k.getG r).toNat j =
        if addr.toNat ≤ s.cx.wp.toNat + 8 * r.val + j ∧ s.cx.wp.toNat + 8 * r.val + j < addr.toNat + n
        then byteAt (s.me.getG d).toNat (s.cx.wp.toNat + 8 * r.val + j - addr.toNat) else byteAt (s.me.getG r).toNat j)

/-- R282, R283: translation: a virtual address of more than 56 bits, and every fault of the walk, whose four levels read the
tables under the partition key; a leaf at level 2, 1 or 0; PROT for a right that is missing, and what the leaf's KEY is
refused for. R66, R82, R104, R119: a global load or store that translation refuses, a store to a versioned page and a line
that does not verify trap with their causes at its address. One that passes its checks leaves the core as one
access of its bytes under the page's key, and the sequence completes; no memory changes yet; a load under queue select 0b10
pushes an entry of dq that is still to be filled. A store of a strand
in staged mode is held by the send buffer instead; when that is full, the store traps SNDFULL (0x1B). That a store which
leaves replaces its bytes in older stores that are still held (log 81), that a table entry which does not verify faults at
the access's address (log 70), and that an atomic needs both R and W and a key that is not retiring (log 42), is the model's
choice. -/
def Obligations.GlobalAccessesIssue : Prop :=
  (∀ (s : State) (part va : Nat) (want : Want),
    (2 ^ 56 ≤ va → s.translate part va want = .error 6) ∧
    (va < 2 ^ 56 →
      (∀ c, s.Walks (s.part part).key va 3 (s.part part).tbl (.error c) → s.translate part va want = .error c) ∧
      (∀ l, s.Walks (s.part part).key va 3 (s.part part).tbl (.ok l) → s.LeafChecks part va want l))) ∧
  (∀ (s : State) (p : Pfx) (d a : Fin 16) (off : Int) (addr : Word), addr = s.me.getG a + BitVec.ofInt 64 off →
    (∀ f n sgn, (f, n, sgn) ∈ loadForms → addr.toNat % n = 0 → s.globalRefused (fun p => f p d a false off) p addr .read) ∧
    (∀ f n, (f, n) ∈ storeForms → addr.toNat % n = 0 → s.globalRefused (fun p => f p d a false off) p addr .write)) ∧
  (∀ (f : MemForm) (n : Nat) (sgn : Bool), (f, n, sgn) ∈ loadForms →
    ∀ (s : State) (p : Pfx) (d a : Fin 16) (off : Int) (addr : Word) (l : Leaf) (uid : Nat),
    addr = s.me.getG a + BitVec.ofInt 64 off → addr.toNat % n = 0 → s.globalCheck addr .read false = .ok l uid →
    s.atsBlocked (keysFrom l.key n) = false → s.keyMissing [uid] = none → (p.qs = .dstQ → s.me.dq.length < 16) → ∃ t x,
      exec (f p d a false off) s = .next t ∧
      t.core s.cur = Core.advance { s.me with
        seqno := s.me.seqno + 1, dq := if p.qs = .dstQ then s.me.dq ++ [(s.me.seqno, none)] else s.me.dq } p ∧
      t.mem = s.mem ∧ t.bmem = s.bmem ∧
      t.flight = s.flight.filter (fun e => !s.isStalled e) ++ [(s.cur, .accessPerformed x)] ∧
      x.core = s.cur ∧ x.hid = s.me.h.hid ∧ x.seqno = s.me.seqno ∧ x.uid = uid ∧ x.order = p.order ∧ x.scope = p.scope ∧
      x.keys = (List.range n).map (l.key + ·) ∧
      x.kind = .load (if p.qs = .dstQ then .dq else .reg d) n sgn (s.me.overlay x.keys) (s.me.vwOverlay x.keys)) ∧
  (∀ (f : MemForm) (n : Nat), (f, n) ∈ storeForms →
    ∀ (s : State) (p : Pfx) (d a : Fin 16) (off : Int) (addr : Word) (l : Leaf) (uid : Nat),
    addr = s.me.getG a + BitVec.ofInt 64 off → addr.toNat % n = 0 → s.globalCheck addr .write true = .ok l uid →
    s.atsBlocked (keysFrom l.key n) = false → s.keyMissing [uid] = none →
    (bitOf s.cx.smc 0 = false → ∃ t x,
      exec (f p d a false off) s = .next t ∧
      t.core s.cur = Core.advance { s.me with seqno := s.me.seqno + 1
                                              sbuf := s.me.sbuf.map (SendEntry.without ((List.range n).map (l.key + ·))) } p ∧
      t.mem = s.mem ∧ t.bmem = s.bmem ∧
      t.flight = s.flight.filter (fun e => !s.isStalled e) ++ [(s.cur, .accessPerformed x)] ∧
      x.core = s.cur ∧ x.uid = uid ∧ x.order = p.order ∧ x.kind = .store (cellsAt l.key (leBytes n (s.me.getG d).toNat))) ∧
    (bitOf s.cx.smc 0 = true → s.me.sbuf.length < 32 → ∃ t, exec (f p d a false off) s = .next t ∧
      t.core s.cur = Core.advance { s.me with sbuf := s.me.sbuf ++
        [.store (p.order == .rel) [(uid, cellsAt l.key (leBytes n (s.me.getG d).toNat))]] } p ∧ t.mem = s.mem ∧ t.bmem = s.bmem) ∧
    (bitOf s.cx.smc 0 = true → s.me.sbuf.length = 32 →
      exec (f p d a false off) s = .next (s.trap s.cur { cause := 0x1b })))

/-- R105: the atomics issue as one access of their doubleword with both operands, when the page may be read and
written and no held store overlaps it; what translation refuses comes before all else, which includes a page without R or W
and a retiring key (log 42). On a host page SWP, CAS and AADD issue as AtomicOps; the other seven trap ATOMTGT, and so do
these three when the host refuses the AtomicOp: whether it does is a free value at issue (logs 10, 21). -/
def Obligations.AtomicsIssue : Prop :=
  ∀ (f : Pfx → Fin 16 → Fin 16 → Instr) (op : AtomicOp), (f, op) ∈ atomicForms →
    ∀ (s : State) (p : Pfx) (d a : Fin 16) (l : Leaf) (uid : Nat),
    (s.me.getG a).toNat % 8 = 0 →
    (∀ c, s.translate s.me.part (s.me.getG a).toNat .rmw = .error c → s.trapsAt (fun p => f p d a) p c (s.me.getG a)) ∧
    (s.globalCheck (s.me.getG a) .rmw true = .ok l uid →
    (s.me.sbuf.all (fun e => !e.overlaps l.key)) = true → s.atsBlocked (keysFrom l.key 8) = false →
    s.keyMissing [uid] = none →
    (tierOf l.key ≠ 2 ∨ (op = .swp ∨ op = .cas ∨ op = .add) ∧ Config.hostRefusesAtomic s.free = false → ∃ t x,
      exec (f p d a) s = .next t ∧ t.core s.cur = Core.advance { s.me with seqno := s.me.seqno + 1 } p ∧
      t.mem = s.mem ∧ t.bmem = s.bmem ∧ t.free = s.free + (if tierOf l.key = 2 then 1 else 0) ∧
      t.flight = s.flight.filter (fun e => !s.isStalled e) ++ [(s.cur, .accessPerformed x)] ∧
      x.core = s.cur ∧ x.hid = s.me.h.hid ∧ x.keys = (List.range 8).map (l.key + ·) ∧ x.uid = uid ∧ x.order = p.order ∧
      x.kind = .atomic op (s.me.getG d) (s.me.getG (d + 1)) d []) ∧
    (tierOf l.key = 2 → op ≠ .swp → op ≠ .cas → op ≠ .add →
      exec (f p d a) s = .next (s.trap s.cur { cause := 0x0b, faddr := s.me.getG a })) ∧
    (tierOf l.key = 2 → op = .swp ∨ op = .cas ∨ op = .add → Config.hostRefusesAtomic s.free = true →
      exec (f p d a) s = .next (State.trap { s with free := s.free + 1 } s.cur { cause := 0x0b, faddr := s.me.getG a })))

/-- R66, R82, R104, R105: performing an access: a load writes d of the handler that issued it, or its
entry of dq, and changes no memory; a store writes its bytes and no other; an atomic writes its doubleword's new
value and gives the old one. For a load that waits for its key the home only fixes its bytes (R84). A line that does not
verify any more when its access is performed traps SEALMAC at the access while its handler runs, and else counts in the
lifetime records: that is the model's choice (log 82). -/
def Obligations.AccessesPerformed : Prop :=
  (∀ (x : Access) (s : State), x.stalled = false → s.accessFails x = true →
    (x.hid ≠ 0 → (s.core x.core).h.hid = x.hid → exec (.accessPerformed x) s =
      .next (s.trap x.core { cause := 0x71, faddr := x.va, iaddr := some x.pc, noSlot := true })) ∧
    ((s.core x.core).h.hid ≠ x.hid → exec (.accessPerformed x) s = .next (s.lifeAdd (1 + x.core) 3 1))) ∧
  (∀ (x : Access) (s : State), (∀ a ∈ x.keys, s.macOk a x.uid = true) → s.accessFails x = false) ∧
  (∀ (x : Access) (s : State), x.stalled = true → exec (.accessPerformed x) s =
    .next (s.enqueue x.core (.accessPerformed { x with served := some (x.keys.map (fun a => (a, memRead s.mem a))) }))) ∧
  ∀ (x : Access) (s : State), x.stalled = false → s.accessFails x = false →
    (∀ d n sgn, x.kind = .load (.reg d) n sgn [] [] → x.served = none → x.keys.length = n → n = 1 ∨ n = 2 ∨ n = 4 ∨ n = 8 →
      (x.hid ≠ 0 → (s.core x.core).h.hid = x.hid → exec (.accessPerformed x) s = .next (s.setCore x.core
        ((s.core x.core).setG d (loadedValue (x.keys.map (memRead s.mem)) sgn)))) ∧
      ((s.core x.core).h.hid ≠ x.hid → exec (.accessPerformed x) s = .next s)) ∧
    (∀ n sgn before after, x.kind = .load .dq n sgn [] [] → x.served = none → x.keys.length = n → n = 1 ∨ n = 2 ∨ n = 4 ∨ n = 8 →
      x.hid ≠ 0 → (s.core x.core).h.hid = x.hid → (s.core x.core).dq = before ++ (x.seqno, none) :: after →
      (∀ y ∈ before, y.1 ≠ x.seqno) → exec (.accessPerformed x) s = .next (s.setCore x.core { s.core x.core with
        dq := before ++ (x.seqno, some (loadedValue (x.keys.map (memRead s.mem)) sgn)) :: after })) ∧
    (∀ key bytes, x.kind = .store (cellsAt key bytes) → s.memWf → ∃ t, exec (.accessPerformed x) s = .next t ∧
      t.cores = s.cores ∧ t.bmem = s.bmem ∧
      ∀ a, memRead t.mem a = if key ≤ a ∧ a < key + bytes.length then bytes.getD (a - key) 0 else memRead s.mem a) ∧
    (∀ op u v d key, x.kind = .atomic op u v d [] → x.keys.head? = some key → s.memWf → x.hid ≠ 0 →
      (s.core x.core).h.hid = x.hid → ∃ t, exec (.accessPerformed x) s = .next t ∧
      t.core x.core = (s.core x.core).setG d (BitVec.ofNat 64 (memNat s.mem key 8)) ∧ t.bmem = s.bmem ∧
      (∀ a, a < key ∨ key + 8 ≤ a → memRead t.mem a = memRead s.mem a) ∧
      BitVec.ofNat 64 (memNat t.mem key 8) =
        (match op with
          | .swp => u
          | .cas => if BitVec.ofNat 64 (memNat s.mem key 8) = u then v else BitVec.ofNat 64 (memNat s.mem key 8)
          | .add => BitVec.ofNat 64 (memNat s.mem key 8) + u
          | .and => BitVec.ofNat 64 (memNat s.mem key 8) &&& u
          | .or => BitVec.ofNat 64 (memNat s.mem key 8) ||| u
          | .xor => BitVec.ofNat 64 (memNat s.mem key 8) ^^^ u
          | .min => if u.slt (BitVec.ofNat 64 (memNat s.mem key 8)) then u else BitVec.ofNat 64 (memNat s.mem key 8)
          | .max => if u.slt (BitVec.ofNat 64 (memNat s.mem key 8)) then BitVec.ofNat 64 (memNat s.mem key 8) else u
          | .minu => if u < BitVec.ofNat 64 (memNat s.mem key 8) then u else BitVec.ofNat 64 (memNat s.mem key 8)
          | .maxu => if u < BitVec.ofNat 64 (memNat s.mem key 8) then BitVec.ofNat 64 (memNat s.mem key 8) else u))

/-- R70, R104 to R106, R126, R127, R199, R209, R217, R226: an address that is not aligned as the form asks traps ALIGN with
the address, before anything else, for a copy that does not yet wait for its channel; the accesses and sends after a FENCE
wait for the accesses that it orders, while other sequences issue past it. That FENCE itself completes at once, in every
state, is the model's reading (log 43). -/
def Obligations.AlignmentAndFence : Prop :=
  (∀ (s : State) (p : Pfx), exec (.fence p) s = .next (s.setMe (Core.advance { s.me with
    fenceRel := if p.order = .acq then s.me.fenceRel else s.me.seqno
    fenceAcq := if p.order = .rel then s.me.fenceAcq else s.me.seqno } p))) ∧
  (∀ (s : State) (p : Pfx) (d a b : Fin 16) (dir : Fin 4) (off : Int) (before after : Prop),
    before = (∃ e ∈ s.flight, pendingOf s.cur false e.2 = true ∧ numberOf e.2 < s.me.fenceRel) →
    after = (∃ e ∈ s.flight, pendingOf s.cur true e.2 = true ∧ numberOf e.2 < s.me.fenceAcq) →
    (∀ i ∈ [Instr.ld p d a false off, .st p d a false off, .swp p d a, .vld p d a false off, .vst p d a false off, .vgth p d a b,
      .vwld p d a b, .vwst p d a b, .vwinc p d a, .park p d a, .task p d], before ∨ after →
      s.issueInstr i = .next (s.setMe (s.me.tick 1))) ∧
    (∀ i ∈ [Instr.send p d a, .sendq p d, .spawn p d, .done p, .yield p, .post p dir a, .cpy p d, .mcall p a], before →
      s.issueInstr i = .next (s.setMe (s.me.tick 1))) ∧
    (∀ i ∈ [Instr.add p d a b, .li p d off, .j p off, .ld p d a true off, .st p d a true off, .vadd p d a b],
      s.fenceWaits s.cur i = false)) ∧
  ∀ (s : State) (p : Pfx) (d a b : Fin 16) (loc : Bool) (off : Int) (addr : Word), addr = s.me.getG a + BitVec.ofInt 64 off →
    (∀ f n sgn, (f, n, sgn) ∈ loadForms → addr.toNat % n ≠ 0 →
      exec (f p d a loc off) s = .next (s.trap s.cur { cause := 5, faddr := addr })) ∧
    (∀ f n, (f, n) ∈ storeForms → addr.toNat % n ≠ 0 →
      exec (f p d a loc off) s = .next (s.trap s.cur { cause := 5, faddr := addr })) ∧
    (∀ f op, (f, op) ∈ atomicForms → (s.me.getG a).toNat % 8 ≠ 0 →
      exec (f p d a) s = .next (s.trap s.cur { cause := 5, faddr := s.me.getG a })) ∧
    (addr.toNat % 8 ≠ 0 → exec (.vld p d a loc off) s = .next (s.trap s.cur { cause := 5, faddr := addr }) ∧
      exec (.vst p d a loc off) s = .next (s.trap s.cur { cause := 5, faddr := addr })) ∧
    ((s.me.getG a).toNat % 16 ≠ 0 →
      exec (.vwld p d a b) s = .next (s.trap s.cur { cause := 5, faddr := s.me.getG a }) ∧
      exec (.vwst p d a b) s = .next (s.trap s.cur { cause := 5, faddr := s.me.getG a }) ∧
      exec (.vwinc p d a) s = .next (s.trap s.cur { cause := 5, faddr := s.me.getG a })) ∧
    (∀ t : Fin 8, addr.toNat % 64 ≠ 0 → s.trapsAt (.tldl · t a off) p 5 addr ∧ s.trapsAt (.tstl · t a off) p 5 addr) ∧
    (∀ c : Fin 4, (addr.toNat % 64 ≠ 0 → s.trapsAt (.aldl · c a off) p 5 addr ∧ s.trapsAt (.astl · c a off) p 5 addr) ∧
      ((s.me.getG a).toNat % 64 ≠ 0 → s.trapsAt (.mmam · c a) p 5 (s.me.getG a))) ∧
    (s.me.copyWait = none → (s.me.getG d).toNat % 64 ≠ 0 →
      ∀ i ∈ ([(.cpy · d), (.cpyw · d), (.cpym · d)] : List Form), s.trapsAt i p 5 (s.me.getG d))

/-! ### Page 1 -/

/-- R188, R191, R192, Tables 11.3 and 11.4: the element instructions: the type's checks, the element results, the
destination's inactive elements, the flags; nothing else changes. VSEL writes every element. That an inactive element which
is kept keeps its whole container (log 60), and that the sign of −0 in VSAT is its sign bit (log 89), is the model's choice. -/
def Obligations.VectorElementResults : Prop :=
  ∀ d a b : Fin 16,
    ElementWise (.vadd · d a b) d isIF (fun s f j => resultIn f s.rounding (s.vint f a j + s.vint f b j) (addNum (s.vnum f a j) (s.vnum f b j))) ∧
    ElementWise (.vsub · d a b) d isIF (fun s f j => resultIn f s.rounding (s.vint f a j - s.vint f b j) (addNum (s.vnum f a j) (s.vnum f b j).neg)) ∧
    ElementWise (.vmul · d a b) d isIF (fun s f j => resultIn f s.rounding (s.vint f a j * s.vint f b j) (mulNum (s.vnum f a j) (s.vnum f b j))) ∧
    ElementWise (.vfma · d a b) d isIF (fun s f j =>
      resultIn f s.rounding (s.vint f a j * s.vint f b j + s.vint f d j) (fmaNum (s.vnum f a j) (s.vnum f b j) (s.vnum f d j))) ∧
    ElementWise (.vmin · d a b) d isIF (fun s f j =>
      resultIn f s.rounding (if s.vint f a j ≤ s.vint f b j then s.vint f a j else s.vint f b j) (minNum (s.vnum f a j) (s.vnum f b j), 0)) ∧
    ElementWise (.vmax · d a b) d isIF (fun s f j =>
      resultIn f s.rounding (if s.vint f a j ≤ s.vint f b j then s.vint f b j else s.vint f a j) (maxNum (s.vnum f a j) (s.vnum f b j), 0)) ∧
    ElementWise (.vand · d a b) d (fun _ => true) (fun s f j => (s.vcode f a j &&& s.vcode f b j, 0)) ∧
    ElementWise (.vor · d a b) d (fun _ => true) (fun s f j => (s.vcode f a j ||| s.vcode f b j, 0)) ∧
    ElementWise (.vxor · d a b) d (fun _ => true) (fun s f j => (s.vcode f a j ^^^ s.vcode f b j, 0)) ∧
    (TypeChecks (.vsel · d a b) (fun _ => true) ∧ ∀ (s : State) (p : Pfx) (f : Fmt), s.cx.elemType = some f → ∃ x,
      exec (.vsel p d a b) s = .next (s.setMe ((s.me.setCx { s.cx with v := s.cx.v.set d x }).advance p)) ∧
      ∀ j, j < 1024 / f.cw → (s.governed f.cw j → elemAt x f.cw j = s.vcode f a j) ∧
        (¬ s.governed f.cw j → elemAt x f.cw j = s.vcode f b j)) ∧
    ElementWise (.vsll · d a) d isI (fun s f j => (s.vcode f d j <<< (s.vcode f a j % f.width) % 2 ^ f.width, 0)) ∧
    ElementWise (.vsrl · d a) d isI (fun s f j => (s.vcode f d j >>> (s.vcode f a j % f.width), 0)) ∧
    ElementWise (.vsra · d a) d isI (fun s f j =>
      ((BitVec.ofNat f.width (s.vcode f d j)).sshiftRight (s.vcode f a j % f.width) |>.toNat, 0)) ∧
    ElementWise (.vandn · d a) d (fun _ => true) (fun s f j => (s.vcode f d j &&& (s.vcode f a j ^^^ (2 ^ f.width - 1)), 0)) ∧
    ElementWise (.vadds · d a) d isIF (fun s f j => saturated f s.rounding (s.vint f d j + s.vint f a j) (addNum (s.vnum f d j) (s.vnum f a j))) ∧
    ElementWise (.vsubs · d a) d isIF (fun s f j =>
      saturated f s.rounding (s.vint f d j - s.vint f a j) (addNum (s.vnum f d j) (s.vnum f a j).neg)) ∧
    ElementWise (.vsat · d a) d isIF (fun s f j => resultIn f s.rounding
      ((if s.vint f d j < 0 then -1 else 1) * min (min (s.vint f d j).natAbs (s.vint f a j).natAbs : Int) (highest f))
      (if (s.vnum f d j).signBit then (minNum (s.vnum f d j).abs (s.vnum f a j).abs).neg else minNum (s.vnum f d j).abs (s.vnum f a j).abs, 0)) ∧
    ElementWise (.vabs · d a) d isIF (fun s f j => resultIn f s.rounding (s.vint f a j).natAbs ((s.vnum f a j).abs, 0)) ∧
    ElementWise (.vneg · d a) d isIF (fun s f j => resultIn f s.rounding (-s.vint f a j) ((s.vnum f a j).neg, 0)) ∧
    ElementWise (.vnot · d a) d (fun _ => true) (fun s f j => (s.vcode f a j ^^^ (2 ^ f.width - 1), 0)) ∧
    ElementWise (.vmov · d a) d (fun _ => true) (fun s f j => (s.vcode f a j, 0)) ∧
    ElementWise (.vexp2 · d a) d isWide (fun s f j => functionIn f (exp2F (s.vnum f a j))) ∧
    ElementWise (.vlog2 · d a) d isWide (fun s f j => functionIn f (log2F (s.vnum f a j))) ∧
    ElementWise (.vrcp · d a) d isWide (fun s f j => functionIn f (rcpF (s.vnum f a j))) ∧
    ElementWise (.vrsq · d a) d isWide (fun s f j => functionIn f (rsqF (s.vnum f a j)))

/-- R169 to R172, R175, R177 to R181: rounding, quantising, and the functions on numbers.

To a floating-point format, the presets' element formats among them: the code that a finite value within ±MaxF rounds to
stands for a value with its sign; no code stands for a value nearer to it (to nearest), or between it and 0 and nearer to
it (toward zero); of two codes as near, to nearest takes the even one; INX is raised just when the value changes. Far
beyond MaxF the result is infinite where the format has an infinity, and else ±MaxF. Stochastic rounding goes away from
zero just when its random bits are below the 16 discarded ones. To a fixed-point or integer format, the nearest integer,
clamped with INV. A block is quantised as Table 10.5 works it out, and the functions have the values that R177 to R181
fix. -/
def Obligations.RoundingIsCorrect : Prop :=
  (∀ f ∈ presetFloats ++ [bf16, fp16, fp32], ∀ (neg : Bool) (a : Rat),
    (0 ≤ a → a ≤ maxF f →
      (∃ v, decodeNum f (roundF f .rne (.fin neg a)).1 = .fin neg v ∧
        (∀ c u, decodeNum f c = .fin neg u → |a - v| ≤ |a - u|) ∧
        (∀ c u, decodeNum f c = .fin neg u → u ≠ v → |a - v| = |a - u| → (roundF f .rne (.fin neg a)).1 % 2 = 0) ∧
        ((roundF f .rne (.fin neg a)).2.testBit 4 = true ↔ v ≠ a)) ∧
      (∃ v, decodeNum f (roundF f .rtz (.fin neg a)).1 = .fin neg v ∧ v ≤ a ∧
        (∀ c u, decodeNum f c = .fin neg u → u ≤ a → u ≤ v) ∧
        ((roundF f .rtz (.fin neg a)).2.testBit 4 = true ↔ v ≠ a)) ∧
      (∀ (rb k : Nat) (q : Rat), a ≠ 0 → q = pow2 (max (log2Floor a) (1 - (f.bias : Int)) - f.man) → k * q ≤ a → a < (k + 1) * q →
        (k + 1) * q ≤ maxF f → decodeNum f (roundF f (.sr rb) (.fin neg a)).1 =
          .fin neg (if (rb : Int) < ((a - k * q) * 2 ^ 16 / q).floor then (k + 1) * q else k * q))) ∧
    (2 * maxF f ≤ a → (∀ c, c = decodeNum f (roundF f .rne (.fin neg a)).1 →
        (f.spec = 0 → c = .inf neg) ∧ (f.spec ≠ 0 → c = .fin neg (maxF f))) ∧
      decodeNum f (roundF f .rtz (.fin neg a)).1 = .fin neg (maxF f) ∧
      (roundF f .rne (.fin neg a)).2 = 0b10100 ∧ (roundF f .rtz (.fin neg a)).2 = 0b10100) ∧
    (f.spec = 0 → ∀ rm, roundF f rm (.inf neg) = (packInf f neg, 0) ∧ decodeNum f (packInf f neg) = .inf neg) ∧
    (f.spec ≠ 0 → ∀ rm, decodeNum f (roundF f rm (.inf neg)).1 = .fin neg (maxF f) ∧ (roundF f rm (.inf neg)).2 = 0b100) ∧
    (f.spec = 1 → ∀ rm, roundF f rm .nan = (0, 1)) ∧
    (f.spec ≠ 1 → ∀ rm, decodeNum f (roundF f rm .nan).1 = .nan ∧ (roundF f rm .nan).2 = 0)) ∧
  (∀ (f : Fmt) (neg : Bool) (a : Rat) (m : Nat) (rm : Rm), f.exp = 0 → f.sign ≤ 1 → f.sign < f.width → 0 ≤ a →
    roundX f rm .nan = (0, 1) ∧
    (f.sign = 0 → a ≠ 0 → roundX f rm (.fin true a) = (0, 1)) ∧
    (f.sign = 1 → roundX f rm (.inf true) = (2 ^ (f.width - 1), 1) ∧ roundX f rm (.inf false) = (2 ^ (f.width - 1) - 1, 1)) ∧
    (|a * pow2 f.bias - m| ≤ 1 / 2 → (|a * pow2 f.bias - m| = 1 / 2 → m % 2 = 0) → f.sign = 1 ∨ neg = false →
      (f.sign = 1 → 2 ^ (f.width - 1) ≤ m → neg = false → (roundX f .rne (.fin neg a)).1 = 2 ^ (f.width - 1) - 1 ∧
        (roundX f .rne (.fin neg a)).2.testBit 0 = true) ∧
      (f.sign = 1 → 2 ^ (f.width - 1) < m → neg = true → (roundX f .rne (.fin neg a)).1 = 2 ^ (f.width - 1) ∧
        (roundX f .rne (.fin neg a)).2.testBit 0 = true) ∧
      (m < 2 ^ (f.width - f.sign) → (roundX f .rne (.fin neg a)).1 = ((if neg then -(m : Int) else m) % 2 ^ f.width).toNat ∧
        (roundX f .rne (.fin neg a)).2.testBit 0 = false ∧
        ((roundX f .rne (.fin neg a)).2.testBit 4 = true ↔ (m : Rat) ≠ a * pow2 f.bias)))) ∧
  -- R175
  quantise workedFmt workedFmt .rne workedBlock = (0x82, [6, 0xc, 2, 1, 1, 0, 8, 0, 0, 0, 0, 0, 0, 0, 0, 0], 0b11000) ∧
  (∀ (f g : Fmt) (rm : Rm) (xs : List Machine.Num),
    ((∃ x ∈ xs, x.isNan = true ∨ x.isInf = true) → quantise f g rm xs = (255, xs.map (fun _ => 0), 0b100000)) ∧
    ((∀ x ∈ xs, x.isZero = true) → quantise f g rm xs = (0, xs.map (fun _ => 0), 0)) ∧
    (∀ (t : Int) (neg : Bool) (a : Rat), f.scale = 1 → .fin neg a ∈ xs → 0 < a →
      (∀ x ∈ xs, ∃ n b, x = .fin n b ∧ 0 ≤ b ∧ b ≤ a) → t = log2Floor a - log2Floor (maxF f) →
      (-127 ≤ t → t ≤ 127 → (quantise f g rm xs).1 = (t + 127).toNat) ∧
      (127 < t → (quantise f g rm xs).1 = 254 ∧ (quantise f g rm xs).2.2.testBit 6 = true) ∧
      (t < -127 → (quantise f g rm xs).1 = 0 ∧ (quantise f g rm xs).2.2.testBit 6 = true))) ∧
  -- R177 to R179
  (∀ m : Int, (-149 ≤ m → m < 128 →
      (decodeNum fp32 (exp2F (.fin (decide (m < 0)) m.natAbs)).1 = .fin false (pow2 m) ∧ (exp2F (.fin (decide (m < 0)) m.natAbs)).2 = 0) ∧
      (decodeNum fp32 (log2F (.fin false (pow2 m))).1 = .fin (decide (m < 0)) m.natAbs ∧ (log2F (.fin false (pow2 m))).2 = 0)) ∧
    (-126 ≤ m → m ≤ 126 → ∀ neg, rcpF (.fin neg (pow2 m)) = roundF fp32 .rne (.fin neg (pow2 (-m))) ∧
      decodeNum fp32 (rsqF (.fin false (pow2 (2 * m)))).1 = .fin false (pow2 (-m)))) ∧
  (∀ v : Rat, (128 ≤ v → exp2F (.fin false v) = (0x7f800000, 0b10100)) ∧ (151 < v → exp2F (.fin true v) = (0, 0b11000)) ∧
    (0 < v → log2F (.fin true v) = (0x7fc00000, 1) ∧ rsqF (.fin true v) = (0x7fc00000, 1))) ∧
  (exp2F .nan = (0x7fc00000, 0) ∧ exp2F (.inf false) = (0x7f800000, 0) ∧ exp2F (.inf true) = (0, 0) ∧
    log2F .nan = (0x7fc00000, 0) ∧ log2F (.inf false) = (0x7f800000, 0) ∧ (log2F (.inf true)) = (0x7fc00000, 1) ∧
    (∀ neg, log2F (.fin neg 0) = (0xff800000, 2) ∧ rcpF (.fin neg 0) = (if neg then 0xff800000 else 0x7f800000, 2) ∧
      rcpF (.inf neg) = (if neg then 0x80000000 else 0, 0) ∧ rsqF (.fin neg 0) = (if neg then 0xff800000 else 0x7f800000, 2)) ∧
    rcpF .nan = (0x7fc00000, 0) ∧ rsqF .nan = (0x7fc00000, 0) ∧ rsqF (.inf false) = (0, 0) ∧ rsqF (.inf true) = (0x7fc00000, 1)) ∧
  -- R181
  lse [] = (0xff800000, 0) ∧ lse [.fin false 0, .fin false 0] = (0x3f317218, 0) ∧
  (∀ zs : List Machine.Num, .nan ∈ zs → lse zs = (0x7fc00000, 0)) ∧
  (∀ zs : List Machine.Num, .nan ∉ zs → .inf false ∈ zs → lse zs = (0x7f800000, 0)) ∧
  (∀ c neg a n m, decodeNum fp32 c = .fin neg a → a ≠ 0 →
    decodeNum fp32 (lse (List.replicate n (.inf true) ++ .fin neg a :: List.replicate m (.inf true))).1 = .fin neg a)

/-- R194: the permutes take their indices from the destination as it was; VSPLAT takes the low bits of g a, and VGET
reads one element. That an inactive element which is kept keeps its whole container is the model's choice (log 60). -/
def Obligations.VectorMoves : Prop :=
  ∀ d a : Fin 16,
    ElementWise (.vperm · d a) d (fun _ => true) (fun s f j => (s.vcode f a (s.vcode f d j % (1024 / f.cw)), 0)) ∧
    ElementWise (.vrot · d a) d (fun _ => true)
      (fun s f j => (s.vcode f a ((j + s.vcode f d 0 % (1024 / f.cw)) % (1024 / f.cw)), 0)) ∧
    ElementWise (.vbcast · d a) d (fun _ => true) (fun s f _ => (s.vcode f a (s.vcode f d 0 % (1024 / f.cw)), 0)) ∧
    ElementWise (.vsplat · d a) d (fun _ => true) (fun s f _ => ((s.me.getG a).toNat % 2 ^ f.width, 0)) ∧
    TypeChecks (.vget · d a) (fun _ => true) ∧
    ∀ (s : State) (p : Pfx) (f : Fmt) (k : Nat), s.cx.elemType = some f → k = (s.me.getG d).toNat % (1024 / f.cw) →
      exec (.vget p d a) s = .next (s.setMe ((s.me.setG d
        (if isI f ∧ f.sign = 1 then BitVec.ofInt 64 (s.vint f a k) else BitVec.ofNat 64 (s.vcode f a k))).advance p))

/-- R182, R195: the reductions write one element and zeros from the active elements of v a in ascending order, and
VSCAN their running sums. That VSCAN keeps the whole container of an inactive element which is kept is the model's choice
(log 60). -/
def Obligations.VectorReductions : Prop :=
  ∀ d a : Fin 16, TypeChecks (.vrsum · d a) isIF ∧ TypeChecks (.vrmax · d a) isIF ∧ TypeChecks (.vrmin · d a) isIF ∧
    TypeChecks (.vscan · d a) isIF ∧ TypeChecks (.vlse · d a) (· == fp32) ∧
    ∀ (s : State) (p : Pfx) (f : Fmt) (l : List (Nat × Nat)), s.cx.elemType = some f → s.ActiveCodes f a l →
      (isI f = true →
        (∃ x, s.writesV (.vrsum · d a) p d x 0 ∧
          x.toNat = ((l.map (fun y => signedIn f y.2)).sum % 2 ^ f.width).toNat % 2 ^ f.cw) ∧
        (l ≠ [] → ∃ x y, s.writesV (.vrmax · d a) p d x 0 ∧ y ∈ l ∧ x.toNat = y.2 ∧
          ∀ z ∈ l, signedIn f z.2 ≤ signedIn f y.2) ∧
        (l ≠ [] → ∃ x y, s.writesV (.vrmin · d a) p d x 0 ∧ y ∈ l ∧ x.toNat = y.2 ∧
          ∀ z ∈ l, signedIn f y.2 ≤ signedIn f z.2) ∧
        (l = [] → ∃ x y, s.writesV (.vrmax · d a) p d x 0 ∧ s.writesV (.vrmin · d a) p d y 0 ∧
          x.toNat = (if f.sign = 1 then 2 ^ (f.width - 1) else 0) % 2 ^ f.cw ∧
          y.toNat = (highest f % 2 ^ f.width).toNat % 2 ^ f.cw) ∧
        (∃ x, s.writesV (.vscan · d a) p d x 0 ∧ s.InactiveKept f d x ∧
          ∀ j, j < 1024 / f.cw → s.governed f.cw j → elemAt x f.cw j =
            (((l.filter (fun y => decide (y.1 ≤ j))).map (fun y => signedIn f y.2)).sum % 2 ^ f.width).toNat % 2 ^ f.cw)) ∧
      (isF f = true →
        (∃ x fl, s.writesV (.vrsum · d a) p d x fl ∧ x.toNat = (floatSum f s.rounding (l.map (·.2))).1 % 2 ^ f.cw ∧
          fl = (floatSum f s.rounding (l.map (·.2))).2) ∧
        (∀ y ys, l = y :: ys → ∃ x u fl gl, s.writesV (.vrmax · d a) p d x fl ∧ s.writesV (.vrmin · d a) p d u gl ∧
          (fl = (roundF f .rne (ys.foldl (fun acc z => maxNum acc (decodeNum f z.2)) (decodeNum f y.2))).2 ∧
            x.toNat = (roundF f .rne (ys.foldl (fun acc z => maxNum acc (decodeNum f z.2)) (decodeNum f y.2))).1 % 2 ^ f.cw) ∧
          (gl = (roundF f .rne (ys.foldl (fun acc z => minNum acc (decodeNum f z.2)) (decodeNum f y.2))).2 ∧
            u.toNat = (roundF f .rne (ys.foldl (fun acc z => minNum acc (decodeNum f z.2)) (decodeNum f y.2))).1 % 2 ^ f.cw)) ∧
        (l = [] → f.sign = 1 → ∃ x y, s.writesV (.vrmax · d a) p d x 0 ∧ s.writesV (.vrmin · d a) p d y 0 ∧
          (f.spec = 0 → x.toNat = (2 ^ (f.exp + f.man) + (2 ^ f.exp - 1) * 2 ^ f.man) % 2 ^ f.cw ∧
            y.toNat = (2 ^ f.exp - 1) * 2 ^ f.man % 2 ^ f.cw) ∧
          (f.spec ≠ 0 → x.toNat = (roundF f .rtz (.fin true (maxF f))).1 % 2 ^ f.cw ∧
            y.toNat = (roundF f .rtz (.fin false (maxF f))).1 % 2 ^ f.cw)) ∧
        (∃ x, s.writesV (.vscan · d a) p d x (floatSum f s.rounding (l.map (·.2))).2 ∧ s.InactiveKept f d x ∧
          ∀ j, j < 1024 / f.cw → s.governed f.cw j → elemAt x f.cw j =
            (floatSum f s.rounding ((l.filter (fun y => decide (y.1 ≤ j))).map (·.2))).1 % 2 ^ f.cw)) ∧
      (f = fp32 → ∃ x fl, s.writesV (.vlse · d a) p d x fl ∧ (l = [] → x = 0xff800000 ∧ fl = 0) ∧
        x.toNat = (lse (l.map (fun y => decodeNum fp32 y.2))).1 % 2 ^ 32 ∧ fl = (lse (l.map (fun y => decodeNum fp32 y.2))).2)

/-- R193: a compare writes each active element's relation to every mask bit of the element's bytes, and 0 for the
others; −0 equals +0, no relation but VCMPNE holds of a NaN; formats of 4-bit containers trap VOPTYPE. -/
def Obligations.VectorCompares : Prop :=
  ∀ (d : Fin 8) (a b : Fin 16), ∀ q ∈ compareForms,
    TypeChecks (q.1 · d a b) (fun f => isIF f && decide (8 ≤ f.cw)) ∧
    ∀ (s : State) (p : Pfx) (f : Fmt), s.cx.elemType = some f → isIF f = true → 8 ≤ f.cw → ∃ x,
      exec (q.1 p d a b) s = .next (s.setMe ((s.me.setCx { s.cx with k := s.cx.k.set d x }).advance p)) ∧
      ∀ j, j < 128 → (x.getLsbD j = true ↔ s.governed f.cw (j / (f.cw / 8)) ∧
        (if f.exp = 0 then q.2.1 (s.vint f a (j / (f.cw / 8))) (s.vint f b (j / (f.cw / 8)))
          else q.2.2 (s.vnum f a (j / (f.cw / 8))) (s.vnum f b (j / (f.cw / 8)))))

/-- R198: the mask instructions act on whole mask registers; KPOP counts ones, and KFIRST finds the lowest. -/
def Obligations.MaskResults : Prop :=
  ∀ (s : State) (p : Pfx) (d a b : Fin 8) (r : Fin 16) (v : Word),
    s.writesK (.kand · d a b) p d (s.cx.k[a] &&& s.cx.k[b]) ∧ s.writesK (.kor · d a b) p d (s.cx.k[a] ||| s.cx.k[b]) ∧
    s.writesK (.kxor · d a) p d (s.cx.k[d] ^^^ s.cx.k[a]) ∧ s.writesK (.knot · d a) p d (s.cx.k[a] ^^^ BitVec.allOnes 128) ∧
    s.writesK (.kmov · d a) p d s.cx.k[a] ∧ s.writesK (.kset · d) p d (BitVec.allOnes 128) ∧ s.writesK (.kclr · d) p d 0 ∧
    (v.toNat = ((List.range 128).filter (fun j => (s.cx.k[a]).getLsbD j)).length →
      exec (.kpop p r a) s = .next (s.setMe ((s.me.setG r v).advance p))) ∧
    (v.toNat ≤ 128 → (∀ j, j < v.toNat → (s.cx.k[a]).getLsbD j = false) → (v.toNat < 128 → (s.cx.k[a]).getLsbD v.toNat = true) →
      exec (.kfirst p r a) s = .next (s.setMe ((s.me.setG r v).advance p))) ∧
    (∀ w : HalfWord, bitsOf w 13 10 = 14 → bitsOf w 3 0 = 5 ∨ bitsOf w 3 0 = 6 → bitsOf w 6 4 ≠ 0 →
      decodeWords [0b1011110010000000, w] = .illegal 6 false)

/-- R170, R172, R174, R175, R196, R197: conversions. m elements between formats of containers cs and cd, at the
places that PART gives; the others keep their codes; VQNT and VDQ with one scale code for each block. It is the model's
choice that a place which is kept keeps its whole container (log 60), that VQNT with b = d writes its codes first and then its
scale codes (log 62), and that a type which names no format traps FMTINV whatever the other type is (log 88). -/
def Obligations.VectorConversions : Prop :=
  (∀ (s : State) (p : Pfx) (d a b : Fin 16), s.cx.srcType = none ∨ s.cx.elemType = none →
    s.TrapsWith (.vcvt · d a) p 0x48 ∧ s.TrapsWith (.vcvtr · d a b) p 0x48 ∧ s.TrapsWith (.vqnt · d a b) p 0x48 ∧
    s.TrapsWith (.vdq · d a b) p 0x48) ∧
  ∀ (s : State) (p : Pfx) (d a b : Fin 16) (fs fd : Fmt) (m cmax part si di : Nat),
    s.cx.srcType = some fs → s.cx.elemType = some fd → cmax = max fs.cw fd.cw → m = 1024 / cmax → part = bitsOf s.cx.vtype 26 24 →
    si = (if fs.cw < fd.cw then part * m else 0) → di = (if fd.cw < fs.cw then part * m else 0) →
    (cmax / min fs.cw fd.cw ≤ part → s.TrapsWith (.vcvt · d a) p 0x49 ∧ s.TrapsWith (.vcvtr · d a b) p 0x49 ∧
      s.TrapsWith (.vqnt · d a b) p 0x49 ∧ s.TrapsWith (.vdq · d a b) p 0x49) ∧
    (fs.scale ≠ 0 ∨ fd.scale ≠ 0 → s.TrapsWith (.vcvt · d a) p 0x49 ∧ s.TrapsWith (.vcvtr · d a b) p 0x49) ∧
    (64 < m → s.TrapsWith (.vcvtr · d a b) p 0x49) ∧
    (isWide fs = false ∨ fd.scale = 0 ∨ fd.along ≠ 0 → s.TrapsWith (.vqnt · d a b) p 0x49) ∧
    (isWide fd = false ∨ fs.scale = 0 ∨ fs.along ≠ 0 → s.TrapsWith (.vdq · d a b) p 0x49) ∧
    (part < cmax / min fs.cw fd.cw → fs.scale = 0 → fd.scale = 0 →
      (∃ x fl, s.writesV (.vcvt · d a) p d x fl ∧
        s.PlacedOf fd d di m (fun k => roundTo fd s.rounding (s.vnum fs a (si + k))) x fl) ∧
      (m ≤ 64 → ∃ x fl, s.writesV (.vcvtr · d a b) p d x fl ∧
        s.PlacedOf fd d di m (fun k => roundTo fd (.sr (bitsOf s.cx.v[b] (16 * k + 15) (16 * k))) (s.vnum fs a (si + k))) x fl)) ∧
    (part < cmax / min fs.cw fd.cw → isWide fs = true → fd.scale ≠ 0 → fd.along = 0 → ∃ x y fl,
      exec (.vqnt p d a b) s = .next (s.setMe ((s.me.setCx { s.cx with
        v := (s.cx.v.set d x).set b y, vtype := s.cx.vtype ||| BitVec.ofNat 64 (fl * 2 ^ 48) }).advance p)) ∧
      (∀ j k, j < m / fd.blk → k < fd.blk → elemAt x fd.cw (di + (j * fd.blk + k)) =
        (s.blockCodes fs fd a si j).2.1.getD k 0 % 2 ^ fd.cw) ∧
      (∀ i, i < 1024 / fd.cw → i < di ∨ di + m ≤ i → elemAt x fd.cw i = elemAt s.cx.v[d] fd.cw i) ∧
      (∀ j, j < m / fd.blk → elemAt y 8 (part * (m / fd.blk) + j) = (s.blockCodes fs fd a si j).1 % 256) ∧
      (∀ i, i < 128 → i < part * (m / fd.blk) ∨ (part + 1) * (m / fd.blk) ≤ i →
        elemAt y 8 i = elemAt (if b = d then x else s.cx.v[b]) 8 i) ∧
      (∀ i, fl.testBit i = true ↔ ∃ j, j < m / fd.blk ∧ (s.blockCodes fs fd a si j).2.2.testBit i = true)) ∧
    (part < cmax / min fs.cw fd.cw → isWide fd = true → fs.scale ≠ 0 → fs.along = 0 → ∀ g : Nat → Machine.Num × Nat,
      (∀ k, g k = mulNum (scaleNum fs (scaleFmt s.cx.fmt fs) (elemAt s.cx.v[b] 8 (part * (m / fs.blk) + k / fs.blk)))
        (s.vnum fs a (si + k))) → ∃ x fl, s.writesV (.vdq · d a b) p d x fl ∧
      (∀ k, k < m → elemAt x fd.cw (di + k) = (roundF fd s.rounding (g k).1).1 % 2 ^ fd.cw) ∧
      (∀ i, i < 1024 / fd.cw → i < di ∨ di + m ≤ i → elemAt x fd.cw i = elemAt s.cx.v[d] fd.cw i) ∧
      (∀ i, fl.testBit i = true ↔ ∃ k, k < m ∧ ((roundF fd s.rounding (g k).1).2 ||| (g k).2).testBit i = true))

/-- R167, R199, R200: VLD, VST, VGTH and VSCT check every doubleword or element that is accessed, in ascending order, and
the first failure traps before anything is written; then the active bytes alone are loaded or stored, an element of a byte
container without the bits above its width. A store that finds the send buffer full traps SNDFULL (0x1B). That one
sequence's lanes make one access for each key generation, performed as a whole, is the model's choice (log 28), and so is
that a store which leaves replaces its bytes in older stores that are still held (log 81). -/
def Obligations.VectorMemory : Prop :=
  (∀ (s : State) (p : Pfx) (d a : Fin 16) (off : Int) (va : Word), va = s.me.getG a + BitVec.ofInt 64 off → va.toNat % 8 = 0 →
    -- local
    ((∀ i, i < 16 → s.wanted i → s.localCheck .read (va + BitVec.ofNat 64 (8 * i)) = .ok) → ∃ x,
      exec (.vld p d a true off) s = .next (s.setMe ((s.me.setCx { s.cx with v := s.cx.v.set d x }).advance p)) ∧
      ∀ j, j < 128 → (s.governed 8 j → elemAt x 8 j = (s.localByte (laneAddr va j)).toNat) ∧
        (¬ s.governed 8 j → elemAt x 8 j = if bitOf s.cx.vtype 5 then 0 else elemAt s.cx.v[d] 8 j)) ∧
    ((∀ i, i < 16 → s.wanted i → s.localCheck .write (va + BitVec.ofNat 64 (8 * i)) = .ok) → s.memWf →
      (∀ i j, i < j → j < 128 → s.governed 8 i → s.governed 8 j →
        s.me.bankByte (laneAddr va i) ≠ s.me.bankByte (laneAddr va j)) → ∃ t k,
      exec (.vst p d a true off) s = .next t ∧ t = { s.setMe (Core.advance k p) with bmem := t.bmem, bpoison := t.bpoison } ∧
      k = { s.me with g := k.g } ∧
      (∀ x, (∀ j, j < 128 → s.governed 8 j → s.me.bankByte (laneAddr va j) ≠ x) → memRead t.bmem x = memRead s.bmem x) ∧
      (∀ (r : Fin 16) (b : Nat), b < 8 → (∀ j, j < 128 → s.governed 8 j → laneAddr va j ≠ s.cx.wp.toNat + 8 * r.val + b) →
        byteAt (k.getG r).toNat b = byteAt (s.me.getG r).toNat b) ∧
      (∀ j, j < 128 → s.governed 8 j → t.localByte (laneAddr va j) = BitVec.ofNat 8 (elemAt s.cx.v[d] 8 j))) ∧
    (∀ i, i < 16 → s.wanted i →
      ((∀ i', i' < i → s.wanted i' → s.localCheck .read (va + BitVec.ofNat 64 (8 * i')) = .ok) → ∀ c f,
        s.localCheck .read (va + BitVec.ofNat 64 (8 * i)) = .trap c f →
        exec (.vld p d a true off) s = .next (s.trap s.cur { cause := c, faddr := f })) ∧
      ((∀ i', i' < i → s.wanted i' → s.localCheck .write (va + BitVec.ofNat 64 (8 * i')) = .ok) → ∀ c f,
        s.localCheck .write (va + BitVec.ofNat 64 (8 * i)) = .trap c f →
        exec (.vst p d a true off) s = .next (s.trap s.cur { cause := c, faddr := f })) ∧
    -- global
      (∀ (l : Nat → Leaf) (uid : Nat → Nat), (∀ i', i' < i → s.wanted i' →
          s.globalCheck (va + BitVec.ofNat 64 (8 * i')) .read false = .ok (l i') (uid i')) → ∀ c f,
        s.globalCheck (va + BitVec.ofNat 64 (8 * i)) .read false = .trap c f →
        exec (.vld p d a false off) s = .next (s.trap s.cur { cause := c, faddr := f })) ∧
      (∀ (l : Nat → Leaf) (uid : Nat → Nat), (∀ i', i' < i → s.wanted i' →
          s.globalCheck (va + BitVec.ofNat 64 (8 * i')) .write true = .ok (l i') (uid i')) → ∀ c f,
        s.globalCheck (va + BitVec.ofNat 64 (8 * i)) .write true = .trap c f →
        exec (.vst p d a false off) s = .next (s.trap s.cur { cause := c, faddr := f }))) ∧
    (∀ (l : Nat → Leaf) (uid : Nat → Nat),
      (∀ j, j < 128 → s.governed 8 j → s.laneReady ((l (j / 8)).key + j % 8) (uid (j / 8))) →
      ((∀ i, i < 16 → s.wanted i → s.globalCheck (va + BitVec.ofNat 64 (8 * i)) .read false = .ok (l i) (uid i)) →
        s.issuesVload (.vld · d a false off) p d (s.governed 8) (fun j => (l (j / 8)).key + j % 8) 0xff) ∧
      ((∀ i, i < 16 → s.wanted i → s.globalCheck (va + BitVec.ofNat 64 (8 * i)) .write true = .ok (l i) (uid i)) →
        s.issuesVstore (.vst · d a false off) p (s.governed 8) (fun j => (l (j / 8)).key + j % 8) (fun j => uid (j / 8))
          (fun j => BitVec.ofNat 8 (elemAt s.cx.v[d] 8 j))))) ∧
  (∀ d a b : Fin 16, TypeChecks (.vgth · d a b) (fun f => decide (8 ≤ f.cw)) ∧ TypeChecks (.vsct · d a b) (fun f => decide (8 ≤ f.cw)) ∧
    ∀ (s : State) (p : Pfx) (f : Fmt) (n : Nat) (va : Nat → Word), s.cx.elemType = some f → 8 ≤ f.cw → n = f.cw / 8 →
      (∀ i, va i = s.me.getG a + BitVec.ofInt 64 (signExtNat (s.vcode f b i) f.width * n)) →
      (∀ i, i < 1024 / f.cw → s.governed f.cw i → ∀ (l : Nat → Leaf) (uid : Nat → Nat),
        ((∀ i', i' < i → s.governed f.cw i' → (va i').toNat % n = 0 ∧ s.globalCheck (va i') .read false = .ok (l i') (uid i')) →
          ((va i).toNat % n ≠ 0 → exec (.vgth p d a b) s = .next (s.trap s.cur { cause := 5, faddr := va i })) ∧
          (∀ c y, (va i).toNat % n = 0 → s.globalCheck (va i) .read false = .trap c y →
            exec (.vgth p d a b) s = .next (s.trap s.cur { cause := c, faddr := y }))) ∧
        ((∀ i', i' < i → s.governed f.cw i' → (va i').toNat % n = 0 ∧ s.globalCheck (va i') .write true = .ok (l i') (uid i')) →
          ((va i).toNat % n ≠ 0 → exec (.vsct p d a b) s = .next (s.trap s.cur { cause := 5, faddr := va i })) ∧
          (∀ c y, (va i).toNat % n = 0 → s.globalCheck (va i) .write true = .trap c y →
            exec (.vsct p d a b) s = .next (s.trap s.cur { cause := c, faddr := y })))) ∧
      (∀ (l : Nat → Leaf) (uid : Nat → Nat), (∀ i, i < 1024 / f.cw → s.governed f.cw i → (va i).toNat % n = 0) →
        (∀ j, j < 128 → s.governed f.cw (j / n) → s.laneReady ((l (j / n)).key + j % n) (uid (j / n))) →
        ((∀ i, i < 1024 / f.cw → s.governed f.cw i → s.globalCheck (va i) .read false = .ok (l i) (uid i)) →
          s.issuesVload (.vgth · d a b) p d (fun j => s.governed f.cw (j / n)) (fun j => (l (j / n)).key + j % n)
            (if f.cw = 8 then BitVec.ofNat 8 (2 ^ f.width - 1) else 0xff)) ∧
        ((∀ i, i < 1024 / f.cw → s.governed f.cw i → s.globalCheck (va i) .write true = .ok (l i) (uid i)) →
          s.issuesVstore (.vsct · d a b) p (fun j => s.governed f.cw (j / n)) (fun j => (l (j / n)).key + j % n)
            (fun j => uid (j / n)) (fun j => BitVec.ofNat 8
              (if f.cw = 8 then elemAt s.cx.v[d] 8 j % 2 ^ f.width else elemAt s.cx.v[d] 8 j))))) ∧
  (∀ (x : Access) (s : State) (d : Fin 16) (base : BitVec 1024) (lanes : List (Nat × Nat)) (mask : Byte),
    x.kind = .vload d base lanes mask [] [] → x.stalled = false → s.accessFails x = false → x.served = none → (∀ y ∈ lanes, y.1 < 128) → (lanes.map (·.1)).Nodup → ∃ v,
    exec (.accessPerformed x) s = .next (s.setCore x.core ((s.core x.core).setCx { (s.core x.core).cx with
      v := (s.core x.core).cx.v.set d v })) ∧
    (∀ j q, (j, q) ∈ lanes → elemAt v 8 j = (memRead s.mem q &&& mask).toNat) ∧
    (∀ j, j < 128 → (∀ q, (j, q) ∉ lanes) → elemAt v 8 j = elemAt base 8 j)) ∧
  (∀ (x : Access) (s : State) (cells : List (Nat × Byte)), x.kind = .store cells ∨ x.kind = .vstore cells → x.stalled = false →
    s.accessFails x = false → s.memWf → ∃ t,
    exec (.accessPerformed x) s = .next t ∧ t.cores = s.cores ∧ t.bmem = s.bmem ∧
    (∀ q, (∀ y ∈ cells, y.1 ≠ q) → memRead t.mem q = memRead s.mem q) ∧
    (∀ before after q b, cells = before ++ (q, b) :: after → (∀ y ∈ after, y.1 ≠ q) → memRead t.mem q = b))


/-! ### Page 2 -/

/-- R167, R206, R208, R210, R211, R212: tile control: what TCFG refuses and writes; TRDC, TZ, ACLR; the patterns of TFILL;
the transpose of TTR. That TFILL gives a scale code to every block that meets the tile (log 34), and 0 to every other
(log 90), is the model's choice. -/
def Obligations.TileControl : Prop :=
  ∀ (s : State) (p : Pfx) (d a : Fin 8) (r : Fin 16) (acc : Fin 4) (v : Word), v = s.me.getG r →
    (2 ≤ bitsOf v 17 16 ∨ bitsOf v 11 10 ≠ 0 ∨ 4 ≤ bitsOf v 9 7 ∨ 3 ≤ bitsOf v 6 4 ∨ bitOf v 31 = true ∨ bitsOf v 15 12 ≠ 0 ∨
        (bitsOf v 63 32 ≠ 0 ∧ bitsOf v 6 4 ≠ 2) → s.TrapsWith (.tcfg · d r) p 0x50) ∧
    (bitsOf v 17 16 < 2 → bitsOf v 11 10 = 0 → bitsOf v 9 7 < 4 → bitsOf v 6 4 < 3 → bitOf v 31 = false → bitsOf v 15 12 = 0 →
      (bitsOf v 63 32 ≠ 0 → bitsOf v 6 4 = 2) → s.writesCx (.tcfg · d r) p { s.cx with tc := s.cx.tc.set d v }) ∧
    exec (.trdc p r a) s = .next (s.setMe ((s.me.setG r s.cx.tc[a]).advance p)) ∧
    s.writesCx (.tz · d) p { s.cx with t := s.cx.t.set d 0, scale := s.cx.scale.set d 0 } ∧
    s.writesCx (.aclr · acc) p { s.cx with acc := s.cx.acc.set acc 0 } ∧
    (∀ pat : Fin 6, s.tileTraps s.cx.tc[d] (.tfill · d pat) p ∧ ∀ f, s.goodTile s.cx.tc[d] f →
      (¬ dense s.cx.tc[d] → s.TrapsWith (.tfill · d pat) p 0x51) ∧
      (dense s.cx.tc[d] → ∀ (one : Nat → Nat → Prop) (ones : Prop) (sc : Nat × Nat),
        (∀ i k, one i k ↔ i < rowsOf s.cx.tc[d] ∧ k < colsOf s.cx.tc[d] ∧ (pat = 1 ∨ (pat = 2 ∧ k = i) ∨ (pat = 3 ∧ k ≤ i) ∨
          (pat = 4 ∧ i ≤ k) ∨ (pat = 5 ∧ k < i))) →
        (ones ↔ ∃ i k, one i k) →
        sc = (if f.scale = 1 then (0x7f, 0) else roundF (scaleFmt s.cx.fmt f) .rne (.fin false 1)) → ∃ x y fl,
        s.writesCx (.tfill · d pat) p { s.cx with
          t := s.cx.t.set d x, scale := s.cx.scale.set d y, vtype := s.cx.vtype ||| BitVec.ofNat 64 (fl * 2 ^ 48) } ∧
        (∀ i k, i < 64 → k < 512 / f.cw → (one i k → tileAt x f.cw i k = (roundTo f .rne (.fin false 1)).1 % 2 ^ f.cw) ∧
          (¬ one i k → tileAt x f.cw i k = 0)) ∧
        (f.scale = 0 → y = s.cx.scale[d]) ∧
        (f.scale ≠ 0 → f.along = 0 → ∀ i b, i < 64 → b < 8 →
          elemAt y 8 (8 * i + b) = if i < rowsOf s.cx.tc[d] ∧ f.blk * b < colsOf s.cx.tc[d] then sc.1 % 256 else 0) ∧
        (f.scale ≠ 0 → f.along ≠ 0 → ∀ k b, k < 128 → b < 4 →
          elemAt y 8 (4 * k + b) = if k < colsOf s.cx.tc[d] ∧ f.blk * b < rowsOf s.cx.tc[d] then sc.1 % 256 else 0) ∧
        (∀ b, fl.testBit b = true ↔ (ones ∧ (roundTo f .rne (.fin false 1)).2.testBit b = true) ∨
          (f.scale ≠ 0 ∧ sc.2.testBit b = true)))) ∧
    s.tileTraps s.cx.tc[a] (.ttr · d a) p ∧ ∀ f, s.goodTile s.cx.tc[a] f →
      (¬ dense s.cx.tc[a] ∨ f.cw ≠ 8 ∨ f.scale ≠ 0 → s.TrapsWith (.ttr · d a) p 0x51) ∧
      (dense s.cx.tc[a] → f.cw = 8 → f.scale = 0 → ∃ x w, s.writesCx (.ttr · d a) p { s.cx with
          t := s.cx.t.set d x, tc := s.cx.tc.set d w } ∧
        (∀ i k, i < 64 → k < 64 → tileAt x 8 i k = tileAt s.cx.t[a] 8 k i % 2 ^ f.width) ∧
        rowsOf w = colsOf s.cx.tc[a] ∧ colsOf w = rowsOf s.cx.tc[a] ∧
        (bitsOf s.cx.tc[a] 9 7 = 0 → bitsOf w 9 7 = 1) ∧ (bitsOf s.cx.tc[a] 9 7 = 1 → bitsOf w 9 7 = 0) ∧
        (bitsOf s.cx.tc[a] 9 7 = 2 → bitsOf w 9 7 = 3) ∧ (bitsOf s.cx.tc[a] 9 7 = 3 → bitsOf w 9 7 = 2) ∧
        bitsOf w 6 0 = bitsOf s.cx.tc[a] 6 0 ∧ bitsOf w 17 10 = bitsOf s.cx.tc[a] 17 10 ∧ bitsOf w 63 31 = bitsOf s.cx.tc[a] 63 31)

/-- R204, R209: the tile and accumulator moves: every doubleword is checked first, in ascending address; then 4,096 bytes
of a tile, and 512 of its scale store where its entry has scales, or 16,384 of an accumulator, move. A byte of the scale
store that no block uses reads 0 after a load. That VAL and SCALE of the tile's own entry alone decide whether its scale
store moves, whatever the entry that its SJ names, is the model's choice (log 64). -/
def Obligations.TileMoves : Prop :=
  ∀ (s : State) (p : Pfx) (d : Fin 8) (r : Fin 4) (a : Fin 16) (off : Int) (addr : Word) (n : Nat),
    addr = s.me.getG a + BitVec.ofInt 64 off → addr.toNat % 64 = 0 →
    n = (if bitsOf s.cx.tc[d] 17 16 = 0 ∧ bitOf s.cx.fmt[Fin.ofNat 16 (bitsOf s.cx.tc[d] 3 0)] 31 = true ∧
      bitsOf s.cx.fmt[Fin.ofNat 16 (bitsOf s.cx.tc[d] 3 0)] 21 20 ≠ 0 then 576 else 512) →
    ((∀ i, i < n → s.localCheck .read (addr + BitVec.ofNat 64 (8 * i)) = .ok) → ∃ x y,
      s.writesCx (.tldl · d a off) p { s.cx with t := s.cx.t.set d x, scale := s.cx.scale.set d y } ∧
      (∀ j, j < 4096 → elemAt x 8 j = (s.localByte (addr.toNat + j)).toNat) ∧
      (n = 512 → y = s.cx.scale[d]) ∧
      (n = 576 → ∀ j, j < 512 →
        (scaleByteUsed (entryFmt s.cx.fmt[Fin.ofNat 16 (bitsOf s.cx.tc[d] 3 0)]) j →
          elemAt y 8 j = (s.localByte (addr.toNat + 4096 + j)).toNat) ∧
        (¬ scaleByteUsed (entryFmt s.cx.fmt[Fin.ofNat 16 (bitsOf s.cx.tc[d] 3 0)]) j → elemAt y 8 j = 0))) ∧
    ((∀ i, i < 2048 → s.localCheck .read (addr + BitVec.ofNat 64 (8 * i)) = .ok) → ∃ x,
      s.writesCx (.aldl · r a off) p { s.cx with acc := s.cx.acc.set r x } ∧
      ∀ j, j < 16384 → elemAt x 8 j = (s.localByte (addr.toNat + j)).toNat) ∧
    ((∀ i, i < n → s.localCheck .write (addr + BitVec.ofNat 64 (8 * i)) = .ok) →
      s.storesLocal (.tstl · d a off) p addr.toNat (8 * n)
        (fun j => BitVec.ofNat 8 (if j < 4096 then elemAt s.cx.t[d] 8 j else elemAt s.cx.scale[d] 8 (j - 4096)))) ∧
    ((∀ i, i < 2048 → s.localCheck .write (addr + BitVec.ofNat 64 (8 * i)) = .ok) →
      s.storesLocal (.astl · r a off) p addr.toNat 16384 (fun j => BitVec.ofNat 8 (elemAt s.cx.acc[r] 8 j))) ∧
    (∀ i w c f, s.localCheck w (addr + BitVec.ofNat 64 (8 * i)) = .trap c f →
      (∀ i', i' < i → s.localCheck w (addr + BitVec.ofNat 64 (8 * i')) = .ok) →
      (w = .read → i < n → s.trapsAt (.tldl · d a off) p c f) ∧ (w = .read → i < 2048 → s.trapsAt (.aldl · r a off) p c f) ∧
      (w = .write → i < n → s.trapsAt (.tstl · d a off) p c f) ∧ (w = .write → i < 2048 → s.trapsAt (.astl · r a off) p c f))

/-- R206, R214, R215, R216: the products: their checks in order, and the accumulator after them. That all checks of A come
before those of B is the model's choice (log 63). -/
def Obligations.MatrixProducts : Prop :=
  ∀ q ∈ productForms, ∀ (s : State) (p : Pfx) (r : Fin 4) (ta tb : Fin 8),
    s.tileTraps s.cx.tc[ta] (q.1 · r ta tb) p ∧
    ∀ fa, s.goodTile s.cx.tc[ta] fa → s.tileTraps s.cx.tc[tb] (q.1 · r ta tb) p ∧
    ∀ fb, s.goodTile s.cx.tc[tb] fb →
      (¬ productTags q.2 s.cx.tc[ta] s.cx.tc[tb] fa fb → s.TrapsWith (q.1 · r ta tb) p 0x51) ∧
      (productTags q.2 s.cx.tc[ta] s.cx.tc[tb] fa fb →
        (q.2 = 1 → ¬ s.goodMeta ta → s.TrapsWith (q.1 · r ta tb) p 0x52) ∧
        ((q.2 = 1 → s.goodMeta ta) → ∃ x, s.writesCx (q.1 · r ta tb) p { s.cx with acc := s.cx.acc.set r x } ∧
          s.ProductOf q.2 fa fb ta tb s.cx.acc[r] x))

/-- R213 to R218: ACVT and TQNT write a tile from an accumulator, TQNT in blocks along rows or along columns. MMAM checks its
descriptor, then both control registers as TCFG, then A's and B's format and shape, then their tags, and writes both control
registers and starts. That a plan-class TCA or TCB traps MTCFG among TCFG's checks is the model's choice (log 103). Each of its steps fetches both tiles, multiplies them into the accumulator and counts; after KN steps
the count goes to PROG and MMAM completes. A doubleword of a fetch that fails its check traps with its cause, A's before
B's, and the trap stores the count of completed steps in PROG. The first step of an MMAM that read its accumulator before
the producer's result was there (R98) multiplies into what it read, and the elements it does not write are the producer's.
That bad 2:4 metadata traps MSPARSE in a step is the model's choice (log 35). -/
def Obligations.MatrixConversionsAndMacro : Prop :=
  ∀ (s : State) (p : Pfx) (d : Fin 8) (r : Fin 4) (a : Fin 16),
    s.tileTraps s.cx.tc[d] (.acvt · d r) p ∧ s.tileTraps s.cx.tc[d] (.tqnt · d r) p ∧
    (∀ (f : Fmt) (off : Nat) (src : Nat → Nat → Machine.Num), s.goodTile s.cx.tc[d] f →
      off = (if f.cw = 16 then bitsOf s.cx.vtype 26 24 * 32 else 0) →
      (∀ i k, src i k = decodeNum fp32 (if columnish s.cx.tc[d] then elemAt s.cx.acc[r] 32 (64 * (k + off) + i)
        else elemAt s.cx.acc[r] 32 (64 * i + (k + off)))) → bitsOf s.cx.tc[d] 9 7 < 4 →
      (¬ dense s.cx.tc[d] ∨ f.scale ≠ 0 → s.TrapsWith (.acvt · d r) p 0x51) ∧
      (¬ dense s.cx.tc[d] ∨ f.scale = 0 → s.TrapsWith (.tqnt · d r) p 0x51) ∧
      (dense s.cx.tc[d] →
        ((f.cw = 16 ∧ 1 < bitsOf s.cx.vtype 26 24) ∨ (f.cw ≠ 16 ∧ (bitsOf s.cx.vtype 26 24 ≠ 0 ∨ 64 < colsOf s.cx.tc[d])) →
          (f.scale = 0 → s.TrapsWith (.acvt · d r) p 0x50) ∧ (f.scale ≠ 0 → s.TrapsWith (.tqnt · d r) p 0x50)) ∧
        ((f.cw = 16 → bitsOf s.cx.vtype 26 24 ≤ 1) → (f.cw ≠ 16 → bitsOf s.cx.vtype 26 24 = 0 ∧ colsOf s.cx.tc[d] ≤ 64) →
          (f.scale = 0 → ∃ x fl, s.writesCx (.acvt · d r) p { s.cx with
              t := s.cx.t.set d x, vtype := s.cx.vtype ||| BitVec.ofNat 64 (fl * 2 ^ 48) } ∧
            (∀ i k, i < 64 → k < 512 / f.cw → tileAt x f.cw i k =
              if i < rowsOf s.cx.tc[d] ∧ k < colsOf s.cx.tc[d] then (roundTo f s.rounding (src i k)).1 % 2 ^ f.cw else 0) ∧
            (∀ b, fl.testBit b = true ↔ ∃ i k, i < rowsOf s.cx.tc[d] ∧ k < colsOf s.cx.tc[d] ∧
              (roundTo f s.rounding (src i k)).2.testBit b = true)) ∧
          (f.scale ≠ 0 → ∃ x y fl, s.writesCx (.tqnt · d r) p { s.cx with
              t := s.cx.t.set d x, scale := s.cx.scale.set d y, vtype := s.cx.vtype ||| BitVec.ofNat 64 (fl * 2 ^ 48) } ∧
            (f.along = 0 → ∀ q : Nat → Nat → Nat × List Nat × Nat,
              (∀ i b, q i b = quantise f (scaleFmt s.cx.fmt f) s.rounding ((List.range f.blk).map (fun k =>
                if i < rowsOf s.cx.tc[d] ∧ b * f.blk + k < colsOf s.cx.tc[d] then src i (b * f.blk + k) else .fin false 0))) →
              (∀ i b, i < 64 → b < 512 / f.cw / f.blk → elemAt y 8 (8 * i + b) = (q i b).1 % 256 ∧
                ∀ k, k < f.blk → tileAt x f.cw i (b * f.blk + k) =
                  if i < rowsOf s.cx.tc[d] ∧ b * f.blk + k < colsOf s.cx.tc[d] then (q i b).2.1.getD k 0 % 2 ^ f.cw else 0) ∧
              (∀ n, fl.testBit n = true ↔ ∃ i b, i < 64 ∧ b < 512 / f.cw / f.blk ∧ (q i b).2.2.testBit n = true)) ∧
            (f.along ≠ 0 → ∀ q : Nat → Nat → Nat × List Nat × Nat,
              (∀ k b, q k b = quantise f (scaleFmt s.cx.fmt f) s.rounding ((List.range f.blk).map (fun i =>
                if b * f.blk + i < rowsOf s.cx.tc[d] ∧ k < colsOf s.cx.tc[d] then src (b * f.blk + i) k else .fin false 0))) →
              (∀ k b, k < 512 / f.cw → b < 64 / f.blk → elemAt y 8 (4 * k + b) = (q k b).1 % 256 ∧
                ∀ i, i < f.blk → tileAt x f.cw (b * f.blk + i) k =
                  if b * f.blk + i < rowsOf s.cx.tc[d] ∧ k < colsOf s.cx.tc[d] then (q k b).2.1.getD i 0 % 2 ^ f.cw else 0) ∧
              (∀ n, fl.testBit n = true ↔ ∃ k b, k < 512 / f.cw ∧ b < 64 / f.blk ∧ (q k b).2.2.testBit n = true)))))) ∧
    (∀ (addr : Word) (rec8 : Record) (op : Nat) (ua ub : Fin 8), addr = s.me.getG a → addr.toNat % 64 = 0 →
      ua = Fin.ofNat 8 (bitsOf rec8 322 320) → ub = Fin.ofNat 8 (bitsOf rec8 326 324) →
      (∀ i, i < 8 → s.localCheck .read (addr + BitVec.ofNat 64 (8 * i)) = .ok) →
      (∀ j, j < 64 → elemAt rec8 8 j = (s.localByte (addr.toNat + j)).toNat) → op = bitsOf rec8 198 196 →
      (mdescBad rec8 = true → s.trapsAt (.mmam · r a) p 0x53 addr) ∧
      (s.me.bal = none →
      (mdescBad rec8 = false → tcfgBad (dword rec8 3) = true ∨ tcfgBad (dword rec8 4) = true → s.TrapsWith (.mmam · r a) p 0x50) ∧
      (mdescBad rec8 = false → bitsOf (dword rec8 3) 11 10 ≠ 0 ∨ bitsOf (dword rec8 4) 11 10 ≠ 0 → s.TrapsWith (.mmam · r a) p 0x50) ∧
      (mdescBad rec8 = false → tcfgBad (dword rec8 3) = false → tcfgBad (dword rec8 4) = false →
        s.tileTraps (dword rec8 3) (.mmam · r a) p ∧ ∀ fa, s.goodTile (dword rec8 3) fa → s.tileTraps (dword rec8 4) (.mmam · r a) p ∧
        ∀ fb, s.goodTile (dword rec8 4) fb → ¬ productTags op (dword rec8 3) (dword rec8 4) fa fb → s.TrapsWith (.mmam · r a) p 0x51) ∧
      (mdescBad rec8 = false → tcfgBad (dword rec8 3) = false → tcfgBad (dword rec8 4) = false → ∀ fa fb,
        s.goodTile (dword rec8 3) fa → s.goodTile (dword rec8 4) fb → productTags op (dword rec8 3) (dword rec8 4) fa fb → ∃ t k m,
        exec (.mmam p r a) s = .next t ∧ t.flight = s.flight ++ [(s.cur, .mmamStep)] ∧ t.core s.cur = k ∧
        k.run = .waiting (.mmam p) ∧ k.mmam = some m ∧ m.desc = rec8 ∧ m.acc = r ∧ m.daddr = addr ∧
        m.kb = bitsOf rec8 351 336 ∧ m.done = 0 ∧ m.base = none ∧ k.g = s.me.g ∧ k.pc = s.me.pc ∧
        k.cx = { s.cx with tc := (s.cx.tc.set ua (dword rec8 3)).set ub (dword rec8 4) }))) ∧
    (∀ m, s.me.run = .waiting (.mmam p) → s.me.mmam = some m →
      (m.done = bitsOf m.desc 367 352 → s.localCheck .write (m.daddr + 56) = .ok → (m.daddr + 56).toNat / 4096 < 496 →
        (m.daddr + 56).toNat % 8 = 0 → s.memWf → (∀ j, j < 8 → s.me.inWorkspace ((m.daddr + 56).toNat + j) = false) →
        ∃ t, exec .mmamStep s = .next t ∧
        t = { s.setMe (Core.resume { s.me with mmam := none } p) with bmem := t.bmem, bpoison := t.bpoison } ∧
        (∀ j, j < 8 → s.me.inWorkspace ((m.daddr + 56).toNat + j) = false →
          memRead t.bmem (s.me.bankByte (m.daddr + 56).toNat + j) = byteAt m.done j)) ∧
      (m.done < bitsOf m.desc 367 352 → ∀ (ta tb : Fin 8) (pa pb : Word),
        ta = Fin.ofNat 8 (bitsOf m.desc 322 320) → tb = Fin.ofNat 8 (bitsOf m.desc 326 324) →
        pa = BitVec.ofNat 64 (bitsOf m.desc 20 0 + m.kb * bitsOf m.desc 159 128) →
        pb = BitVec.ofNat 64 (bitsOf m.desc 84 64 + m.kb * bitsOf m.desc 191 160) →
        ((∀ i, i < fetchWords m.fmtA → s.localCheck .read (pa + BitVec.ofNat 64 (8 * i)) = .ok) →
         (∀ i, i < fetchWords m.fmtB → s.localCheck .read (pb + BitVec.ofNat 64 (8 * i)) = .ok) →
         ∀ (xa xb : BitVec 32768) (ya yb : BitVec 4096) (c : Ctx) (u : State),
          s.fetchedTile m.fmtA ta pa.toNat xa ya → s.fetchedTile m.fmtB tb pb.toNat xb yb →
          c = { s.cx with t := (s.cx.t.set ta xa).set tb xb, scale := (s.cx.scale.set ta ya).set tb yb } →
          u = s.setMe (s.me.setCx { c with tc := (s.cx.tc.set ta (dword m.desc 3)).set tb (dword m.desc 4) }) →
          ta ≠ tb → m.fmtA.cw ∈ [4, 8, 16] → m.fmtB.cw ∈ [4, 8, 16] → (m.fmtA.scale ≠ 0 → m.fmtA.along = 0) →
          (m.fmtB.scale ≠ 0 → m.fmtB.along = 0) → m.sfmtA = scaleFmt s.cx.fmt m.fmtA → m.sfmtB = scaleFmt s.cx.fmt m.fmtB →
          (m.op = 1 → ¬ u.goodMeta ta → exec .mmamStep s = .next (s.trap s.cur { cause := 0x52 })) ∧
          ((m.op = 1 → u.goodMeta ta) → ∃ x y,
            u.ProductOf m.op m.fmtA m.fmtB ta tb (m.base.getD s.cx.acc[m.acc]) y ∧
            (∀ i j, i < 64 → j < 64 → elemAt x 32 (64 * i + j) =
              if i < rowsOf u.cx.tc[ta] ∧ j < rowsOf u.cx.tc[tb] then elemAt y 32 (64 * i + j)
              else elemAt s.cx.acc[m.acc] 32 (64 * i + j)) ∧
            exec .mmamStep s = .next ((s.setMe { s.me.setCx { c with acc := s.cx.acc.set m.acc x } with
              mmam := some { m with kb := m.kb + 1, done := m.done + 1, base := none } }).enqueue s.cur .mmamStep))) ∧
        (∀ (i : Nat) (x : Nat) (f : Word) (q : Word),
          (q = pa ∧ i < fetchWords m.fmtA) ∨ (q = pb ∧ i < fetchWords m.fmtB ∧
            ∀ i', i' < fetchWords m.fmtA → s.localCheck .read (pa + BitVec.ofNat 64 (8 * i')) = .ok) →
          (∀ i', i' < i → s.localCheck .read (q + BitVec.ofNat 64 (8 * i')) = .ok) →
          s.localCheck .read (q + BitVec.ofNat 64 (8 * i)) = .trap x f → ∃ n,
          exec .mmamStep s = .next ((s.trap s.cur { cause := x, faddr := f }).setMe
            { (s.trap s.cur { cause := x, faddr := f }).me with faultHold := n }) ∧
          ((s.trap s.cur { cause := x, faddr := f }).me.keptRecs ≠ [] →
            n = (s.trap s.cur { cause := x, faddr := f }).me.keptRecs.length)))) ∧
    (∀ (m : MmamRun) (e : Word) (t : TrapInfo), s.me.mmam = some m → e = s.cx.slot ((m.daddr.toNat + 56) / 4096) →
      bitsOf e 33 32 = 1 → bitOf e 35 = true → s.memWf → ∀ j, j < 8 →
      memRead (s.trap s.cur t).bmem (slotBank e * 4096 + (m.daddr.toNat + 56) % 4096 + j) = byteAt m.done j)


/-! ### Page 3 -/

/-- R118, R119, R121: SEND, SENDM, SENDQ and SPAWN put a copy of the record, with ORIG set, into the send buffer; the
checks and their order. -/
def Obligations.SendsBuffer : Prop :=
  ∀ (s : State) (p : Pfx) (d a : Fin 16) (r : Record) (n : Nat), n = (s.me.getG d).toNat →
    (s.recordAt (s.me.getG a) r →
      s.recordTraps (.send · d a) p r ∧ s.recordTraps (.sendm · d a) p r ∧
      (s.goodHeader r → s.knownHandler r →
        ((∀ c, ¬ s.liveCore n c) → s.TrapsWith (.send · d a) p 0x15) ∧
        (sget? n (s.part s.me.part).trees = none → s.TrapsWith (.sendm · d a) p 0x18) ∧
        (s.me.sbuf.length = 32 → (∀ c, s.liveCore n c → s.TrapsWith (.send · d a) p 0x1b) ∧
          (sget? n (s.part s.me.part).trees ≠ none → s.TrapsWith (.sendm · d a) p 0x1b)) ∧
        (s.me.sbuf.length < 32 → ∃ r', hasOrig r r' s.me.lnum ∧
          (∀ c, s.liveCore n c → s.buffers (.send · d a) p (.send r' n) s.me.spawns) ∧
          (sget? n (s.part s.me.part).trees ≠ none → s.buffers (.sendm · d a) p (.sendm r' n) s.me.spawns)))) ∧
    (s.me.carries r →
      s.recordTraps (.sendq · d) p r ∧
      (s.goodHeader r → s.knownHandler r →
        ((∀ c, ¬ s.liveCore n c) → s.TrapsWith (.sendq · d) p 0x15) ∧
        (s.me.sbuf.length = 32 → ∀ c, s.liveCore n c → s.TrapsWith (.sendq · d) p 0x1b) ∧
        (s.me.sbuf.length < 32 → ∃ r', hasOrig r r' s.me.lnum ∧
          ∀ c, s.liveCore n c → s.buffers (.sendq · d) p (.send r' n) s.me.spawns))) ∧
    (s.recordAt (s.me.getG d) r →
      s.recordTraps (.spawn · d) p r ∧
      (s.goodHeader r → s.knownHandler r →
        (s.me.spawns = bitsOf s.cx.smc 21 16 → s.TrapsWith (.spawn · d) p 0x1c) ∧
        (s.me.spawns ≠ bitsOf s.cx.smc 21 16 →
          32 + (s.part s.me.part).spill ≤ s.cx.deque.length + s.cx.dspill.length + s.me.spawns →
          s.TrapsWith (.spawn · d) p 0x1d) ∧
        (s.me.spawns ≠ bitsOf s.cx.smc 21 16 →
          s.cx.deque.length + s.cx.dspill.length + s.me.spawns < 32 + (s.part s.me.part).spill →
          (s.me.sbuf.length = 32 → s.TrapsWith (.spawn · d) p 0x1b) ∧
          (s.me.sbuf.length < 32 → ∃ r', hasOrig r r' s.me.lnum ∧ s.buffers (.spawn · d) p (.spawn r') (s.me.spawns + 1))))) ∧
    ((s.me.getG d).toNat % 64 ≠ 0 → s.trapsAt (.spawn · d) p 5 (s.me.getG d)) ∧
    ((s.me.getG a).toNat % 64 ≠ 0 → s.trapsAt (.send · d a) p 5 (s.me.getG a) ∧ s.trapsAt (.sendm · d a) p 5 (s.me.getG a))

/-- R35, R82, R84, R90, R117, R119, R122, R269, R281: DONE, YIELD and IDLE end the handler: they wait for a plan of Iris that
runs; what is refused, and in what order;
then the core is idle with its queues, buffer and workspace freed and chooses its next action; a held store is
written once its key is resident (R290; else the core waits for it), a message leaves with the next identifier, a spawned strand enters the deque as the newest; Aster learns that a
strand of its own is done; YIELD places g0 to g7 in the core's own queue, and IDLE quiesces the core. That YIELD completes
with any header in g0, reserved bits included, is the model's choice (log 40, DEDUCED). -/
def Obligations.HandlerEnds : Prop :=
  ∀ (s : State) (p : Pfx),
    (s.me.bal ≠ none → exec (.done p) s = .next (s.setMe (s.me.tick 1)) ∧ exec (.yield p) s = .next (s.setMe (s.me.tick 1)) ∧
      (s.privileged s.cur = true → exec (.idle p) s = .next (s.setMe (s.me.tick 1)))) ∧
    (s.me.bal = none → s.me.h.src = 0x7fe → s.TrapsWith .yield p 0x1f ∧ (s.privileged s.cur = true → s.TrapsWith .idle p 0x1f)) ∧
    (s.me.bal = none → s.me.dq ≠ [] ∨ s.me.bq ≠ [] → s.TrapsWith .done p 0x0f ∧ (s.me.h.src ≠ 0x7fe → s.TrapsWith .yield p 0x0f ∧
      (s.privileged s.cur = true → s.TrapsWith .idle p 0x0f))) ∧
    (s.me.dq = [] → s.me.bq = [] → s.me.h.src ≠ 0x7fe → s.me.bal = none →
      (64 < s.me.engine.length + s.me.bufferedMessages →
        s.heldBehindAccess s.cur = false → s.heldBlocked s.cur = false →
        exec (.done p) s = .next (s.setMe { s.me.tick 1 with run := .waiting .room })) ∧
      (∀ k : Core, k = s.me.ended (1 + p.stall) →
        (s.me.sbuf = [] → s.me.engine.length ≤ 64 →
          exec (.done p) s = .next ((s.setMe k).enqueue s.cur .nextAction) ∧
          (s.privileged s.cur = true →
            exec (.idle p) s = .next ((s.setMe { k with quiesced := true }).enqueue s.cur .nextAction)) ∧
          (∀ (r r' : Record), s.me.carries r → hasOrig r r' s.me.lnum → s.me.engine = [] →
            (s.cx.q[(Fin.ofNat 4 (bitsOf r 47 46))]).mode = 0 → (s.cx.q[(Fin.ofNat 4 (bitsOf r 47 46))]).res.length <
              bitsOf (s.cx.q[(Fin.ofNat 4 (bitsOf r 47 46))]).cfg 8 4 → ∃ (t : State) (e : Entry), exec (.yield p) s = .next t ∧
            e.record = r' ∧ e.src = s.me.lnum ∧ e.seq = s.me.msgs ∧ (t.core s.cur).run = .idle ∧
            ((t.core s.cur).cxOf s.me.enc).q[(Fin.ofNat 4 (bitsOf r 47 46))].res =
              (s.cx.q[(Fin.ofNat 4 (bitsOf r 47 46))]).res ++ [e] ∧
            t.flight = s.flight ++ [(s.cur, .nextAction), (s.cur, .nextAction)] ∧ t.mem = s.mem)) ∧
        (∀ rel uid cells, s.me.sbuf = [.store rel [(uid, cells)]] → s.me.engine.length ≤ 64 → s.heldBehindAccess s.cur = false →
          s.heldBlocked s.cur = false →
          (s.keyMissing [uid] = none → (∀ x ∈ cells, s.lineDead x.1 = false) → exec (.done p) s =
            .next ((((s.keysAtHand [uid]).storeCells cells uid).setMe k).enqueue s.cur .nextAction)) ∧
          (s.keyMissing [uid] = some uid → ∃ t, exec (.done p) s = .next t ∧ t.me.run = .waiting (.key uid) ∧ t.me.h = s.me.h ∧
            t.me.sbuf = s.me.sbuf ∧ t.mem = s.mem)) ∧
        (∀ r n c, s.me.sbuf = [.send r n] → s.me.engine = [] → (s.part s.me.part).members[n]? = some c →
          bitsOf (((s.core c).cxOf s.me.enc).q[(Fin.ofNat 4 (bitsOf r 47 46))]).cfg 1 0 = 0 → exec (.done p) s = .next (((s.setMe { k with
            msgs := (s.me.msgs + 1) % 2 ^ 32 }).enqueue c (.fifoArrival
            { record := r, part := s.me.part, enc := s.me.enc, site := c, queue := Fin.ofNat 4 (bitsOf r 47 46), src := s.me.lnum
              seq := s.me.msgs, chan := s.cur, woken := false })).enqueue s.cur .nextAction)) ∧
        (∀ r, s.me.sbuf = [.spawn r] → s.cx.deque.length < 32 → s.me.engine.length ≤ 64 → ∃ (t : State) (e : Entry), exec (.done p) s = .next t ∧
          e.record = r ∧ (t.core s.cur).cx.deque = s.cx.deque ++ [e] ∧ (t.core s.cur).run = .idle ∧ t.mem = s.mem ∧
          t.flight = s.flight ++ [(s.cur, .nextAction)]))) ∧
    (∀ (before after : List Task) (tk : Task), s.me.h.src = 0x7fe → s.me.dq = [] → s.me.bq = [] → s.me.sbuf = [] →
      s.me.bal = none → s.me.engine.length ≤ 64 → s.tasks = before ++ tk :: after → tk.ref.part = s.me.part →
      tk.ref.entry = (dword s.me.h.record 7).toNat →
      (∀ x ∈ before, x.ref.part ≠ s.me.part ∨ x.ref.entry ≠ (dword s.me.h.record 7).toNat) →
      exec (.done p) s = .next (((s.setMe (s.me.ended (1 + p.stall))).enqueue s.cur (.asterRetirement tk.ref)).enqueue s.cur
        .nextAction))

/-- R114, R123, R124: QCFG and QPOP, POST and XGET, and the arrival of a posted value and of its credit. -/
def Obligations.QueuesAndLinks : Prop :=
  (∀ (s : State) (p : Pfx) (q : Fin 4) (a : Fin 16) (v : Word), v = s.me.getG a →
    (bitsOf v 63 9 ≠ 0 ∨ bitsOf v 3 2 ≠ 0 ∨ bitsOf v 1 0 = 3 ∨ bitsOf v 8 4 = 0 ∨ 16 < bitsOf v 8 4 ∨ (q = 3 ∧ bitsOf v 1 0 ≠ 0) →
      s.TrapsWith (.qcfg · q a) p 4) ∧
    (bitsOf v 63 9 = 0 → bitsOf v 3 2 = 0 → bitsOf v 1 0 ≠ 3 → bitsOf v 8 4 ≠ 0 → bitsOf v 8 4 ≤ 16 → (q = 3 → bitsOf v 1 0 = 0) →
      (s.cx.q[q].res ≠ [] ∨ s.cx.q[q].spill ≠ [] → s.TrapsWith (.qcfg · q a) p 0x1a) ∧
      (s.cx.q[q].res = [] → s.cx.q[q].spill = [] → ∃ w, bitsOf w 47 32 = 0 ∧ bitsOf w 31 0 = bitsOf s.cx.smc 31 0 ∧
        bitsOf w 63 48 = bitsOf s.cx.smc 63 48 ∧
        s.writesCx (.qcfg · q a) p { s.cx with q := s.cx.q.set q { s.cx.q[q] with cfg := v }, smc := w }))) ∧
  (∀ (s : State) (p : Pfx) (d : Fin 16) (q : Fin 4) (la : Word), la = s.me.getG d → la.toNat % 64 = 0 →
    (∀ i, i < 8 → s.localCheck .write (la + BitVec.ofNat 64 (8 * i)) = .ok) → s.memWf →
    (∀ j, j < 64 → s.me.inWorkspace (la.toNat + j) = false) →
    (s.cx.q[q].res = [] → ∃ t, exec (.qpop p d q) s = .next t ∧ t = { s.setMe (s.me.advance p) with bmem := t.bmem, bpoison := t.bpoison } ∧
      ∀ j, j < 64 → memRead t.bmem (s.me.bankByte la.toNat + j) = if j < 8 then 0xff else 0) ∧
    (∀ e es, s.cx.q[q].res = e :: es → s.cx.q[q].spill = [] → s.me.keptEntries = [] → e.src ≠ 0x7ff → ∃ t, exec (.qpop p d q) s = .next t ∧
      t.mem = s.mem ∧ (t.core s.cur).g = s.me.g ∧ (t.core s.cur).pc = s.me.nextPc p ∧
      ((t.core s.cur).cx.q[q]).res.map (·.record) = es.map (·.record) ∧
      ∀ j, j < 64 → memRead t.bmem (s.me.bankByte la.toNat + j) = BitVec.ofNat 8 (elemAt e.record 8 j))) ∧
  (∀ (s : State) (p : Pfx) (dir : Fin 4) (a d : Fin 16),
    (bitOf s.me.nbr (63 - 16 * dir.val) = false → s.TrapsWith (.post · dir a) p 0x19) ∧
    (∀ c, bitOf s.me.nbr (63 - 16 * dir.val) = true → neighbour s.cur dir.val = some c →
      (s.me.credit[dir] = true → (s.core c).enc = s.me.enc →
        exec (.post p dir a) s = .next (((s.setMe (Core.advance { s.me with credit := s.me.credit.set dir false } p))).enqueue c
          (.linkValueArrival { poster := s.cur, site := c, reg := dir + 2, enc := s.me.enc, value := s.me.getG a }))) ∧
      (s.me.credit[dir] = false ∨ (s.core c).enc ≠ s.me.enc → s.holdsNeighbours c = false →
        exec (.post p dir a) s = .next (s.setMe (s.me.tick 1))) ∧
      (s.me.credit[dir] = false ∨ (s.core c).enc ≠ s.me.enc → s.holdsNeighbours c = true →
        exec (.post p dir a) s = .next (s.setMe { s.me with cyc := s.me.cyc + 1 }))) ∧
    (∀ c v, neighbour s.cur dir.val = some c → s.me.link[dir] = some v → exec (.xget p d dir) s =
      .next ((s.setMe (Core.advance { s.me.setG d v with link := s.me.link.set dir none } p)).enqueue c
        (.linkCreditReturn c (dir + 2)))) ∧
    (∀ c, neighbour s.cur dir.val = some c → s.me.link[dir] = none → s.holdsNeighbours c = false →
      exec (.xget p d dir) s = .next (s.setMe (s.me.tick 1)))) ∧
  (∀ (s : State) (l : LinkMsg) (c : Nat) (dir : Fin 4),
    ((s.core l.site).live = true → (s.core l.site).enc = l.enc → (s.core l.site).part = (s.core l.poster).part →
      exec (.linkValueArrival l) s = .next (s.setCore l.site { s.core l.site with
        link := (s.core l.site).link.set l.reg (some l.value) })) ∧
    ((s.core l.site).enc ≠ l.enc → exec (.linkValueArrival l) s = .next (s.enqueue l.poster (.linkCreditReturn l.poster (l.reg + 2)))) ∧
    exec (.linkCreditReturn c dir) s = .next (s.setCore c { s.core c with credit := (s.core c).credit.set dir true }))

/-- R33, R115, R116, R117, R307: what an arrival does: a FIFO queue takes it resident, in the spill sub-ring, or bounces
it; a ranked queue takes it in its place, and a full one discards the lowest-ranked entry that is not held, the arrival
itself where it is the lowest; under merging an entry of the same key gives way to an arrival of its own or a higher
PRIO, which takes its arrival time and head wait, and beats one of a lower PRIO; a switched-out enclave's ring keeps an
arrival, and one behind an earlier message of its own sender for the same core, enclave and queue is held back, before the later
ones that the engine keeps. A bounced message is sent again 512
cycles later, its acceptance sends the next one held behind it and frees a waiting handler; a tree's root gives a
multicast its place in order, and a node forwards it to its children. That an event whose condition does not hold changes
nothing (log 29), and that an arrival at a switched-out enclave's ring starts no choice on an idle core (log 79), is the model's
choice. -/
def Obligations.MessagesArrive : Prop :=
  (∀ (s : State) (m : Msg), s.arrivesNow m → ∀ q : Queue, q = ((s.core m.site).cxOf m.enc).q[m.queue] →
    (bitsOf q.cfg 1 0 = 0 → q.res.length < bitsOf q.cfg 8 4 → ∃ (t : State) (e : Entry), exec (.fifoArrival m) s = .next t ∧ e.isOf m ∧
      (((t.core m.site).cxOf m.enc).q[m.queue]).res = q.res ++ [e] ∧ (((t.core m.site).cxOf m.enc).q[m.queue]).spill = q.spill ∧
      t.flight = s.wokenFlight m.site ∧ t.mem = s.mem ∧ t.bmem = s.bmem) ∧
    (bitsOf q.cfg 1 0 = 0 → bitsOf q.cfg 8 4 ≤ q.res.length → m.src ≠ 0x7ff →
      ((ordinary q.spill).length < (s.part m.part).spill → ∃ (t : State) (e : Entry), exec (.fifoArrival m) s = .next t ∧ e.isOf m ∧
        (((t.core m.site).cxOf m.enc).q[m.queue]).res = q.res ∧ (((t.core m.site).cxOf m.enc).q[m.queue]).spill = q.spill ++ [e] ∧
        t.flight = s.wokenFlight m.site) ∧
      ((s.part m.part).spill ≤ (ordinary q.spill).length → m.chan < 1024 →
        exec (.fifoArrival m) s = .next (s.setCore m.chan { s.core m.chan with
          engine := [{ msg := { m with mcast := none }, due := some ((s.core m.chan).cyc + 512), sent := false }] }))) ∧
    (bitsOf q.cfg 1 0 = 1 ∨ (bitsOf q.cfg 1 0 = 2 ∧ ∀ x ∈ q.res, ¬ merges m x) →
      ∃ (t : State) (e : Entry) (before after : List Entry), exec (.rankedArrival m) s = .next t ∧ e.isOf m ∧ q.res = before ++ after ∧
      t.flight = s.wokenFlight m.site ∧ ranked (bitsOf m.record 51 48) (s.core m.site).seqno before after ∧
      (q.res.length < bitsOf q.cfg 8 4 → (((t.core m.site).cxOf m.enc).q[m.queue]).res.map (·.record) =
        before.map (·.record) ++ m.record :: after.map (·.record) ∧
        ((t.core m.site).cxOf m.enc).smc = dropsMore ((s.core m.site).cxOf m.enc).smc 0) ∧
      (bitsOf q.cfg 8 4 ≤ q.res.length → bitOf m.record 44 = false → ((s.core m.site).seqno :: q.res.map (·.arr)).Nodup →
        ((t.core m.site).cxOf m.enc).smc = dropsMore ((s.core m.site).cxOf m.enc).smc 1 ∧
        ∀ l1 x l2, before ++ e :: after = l1 ++ x :: l2 → bitOf x.record 44 = false → (∀ y ∈ l2, bitOf y.record 44 = true) →
          (((t.core m.site).cxOf m.enc).q[m.queue]).res.map (·.record) = (l1 ++ l2).map (·.record))) ∧
    (bitsOf q.cfg 1 0 = 2 → ∀ (l1 l2 : List Entry) (x : Entry), q.res = l1 ++ x :: l2 → (∀ y ∈ l1, ¬ merges m y) → merges m x →
      (q.res.map (·.arr)).Nodup →
      (bitsOf m.record 51 48 < bitsOf x.record 51 48 → ∃ t, exec (.rankedArrival m) s = .next t ∧
        ((t.core m.site).cxOf m.enc).q[m.queue] = q ∧
        ((t.core m.site).cxOf m.enc).smc = dropsMore ((s.core m.site).cxOf m.enc).smc 1) ∧
      (bitsOf x.record 51 48 ≤ bitsOf m.record 51 48 → ∃ (t : State) (e : Entry) (before after : List Entry),
        exec (.rankedArrival m) s = .next t ∧ l1 ++ l2 = before ++ after ∧ ranked (bitsOf m.record 51 48) x.arr before after ∧
        e.record = m.record ∧ e.arr = x.arr ∧ e.wait = (if l1 = [] then x.wait + ((s.core m.site).cyc - q.since) else x.wait) ∧
        (((t.core m.site).cxOf m.enc).q[m.queue]).res[before.length]? = some e ∧
        (((t.core m.site).cxOf m.enc).q[m.queue]).res.map (·.record) = (before ++ e :: after).map (·.record) ∧
        ((t.core m.site).cxOf m.enc).smc = dropsMore ((s.core m.site).cxOf m.enc).smc 1 ∧ t.flight = s.wokenFlight m.site))) ∧
  (∀ (s : State) (m : Msg), (s.core m.site).live = true → (s.core m.site).part = m.part → (s.core m.site).enc ≠ m.enc →
    (m.chan < 1024 → (s.core m.chan).engine = []) → m.src ≠ 0x7ff →
    ((ordinary ((s.core m.site).cxOf m.enc).ring).length < (s.part m.part).ringCap → ∃ (t : State) (e : Entry),
      exec (.fifoArrival m) s = .next t ∧ exec (.rankedArrival m) s = .next t ∧ e.isOf m ∧
      ((t.core m.site).cxOf m.enc).ring = ((s.core m.site).cxOf m.enc).ring ++ [e] ∧ t.flight = s.flight) ∧
    ((s.part m.part).ringCap ≤ (ordinary ((s.core m.site).cxOf m.enc).ring).length → m.chan < 1024 →
      exec (.fifoArrival m) s = .next (s.setCore m.chan { s.core m.chan with
        engine := [{ msg := { m with mcast := none }, due := some ((s.core m.chan).cyc + 512), sent := false }] }))) ∧
  (∀ (s : State) (m : Msg) (l1 l2 : List KeptMsg), (s.core m.site).live = true → (s.core m.site).part = m.part →
    m.chan < 1024 → m.mcast = none → (s.core m.chan).engine = l1 ++ l2 → (∃ x ∈ l1, holdsBack x.msg m) →
    (∀ y ∈ l1 ++ l2, y.msg ≠ m) → (l1 ++ l2).length < 64 → (∀ y ∈ l1, ¬ holdsBack m y.msg) → (∀ y ∈ l2.head?, holdsBack m y.msg) →
    ∃ l3, exec (.fifoArrival m) s = .next (s.setCore m.chan { s.core m.chan with
      engine := l1 ++ { msg := m, due := none, sent := false } :: l3 }) ∧ l3.length = l2.length ∧
    ∀ (i : Nat) (y z : KeptMsg), l2[i]? = some y → l3[i]? = some z → (holdsBack m y.msg → y.sent = false → z = { y with due := none }) ∧
      (¬ holdsBack m y.msg ∨ y.sent = true → z = y)) ∧
  (∀ (s : State) (m : Msg) (due : Nat) (rest : List KeptMsg), s.me.engine = { msg := m, due := some due, sent := false } :: rest →
    (∀ x ∈ rest, x.msg ≠ m) → s.me.live = true →
    (due ≤ s.me.cyc → exec .bounceResend s = .next ((s.setMe { s.me with
      engine := { msg := m, due := none, sent := true } :: rest }).enqueue m.site (s.arrivalOf m))) ∧
    (s.me.cyc < due → rest = [] → exec .bounceResend s = .next s)) ∧
  (∀ (s : State) (m x : Msg) (rest : List KeptMsg),
    ((s.core m.chan).run ≠ .waiting .room → (s.core m.chan).engine = { msg := x, due := none, sent := false } :: rest →
      (∀ y ∈ rest, y.msg ≠ x) → x.site = m.site → x.enc = m.enc → x.queue = m.queue →
      exec (.messageAccepted m) s = .next ((s.setCore m.chan { s.core m.chan with
        engine := { msg := x, due := none, sent := true } :: rest }).enqueue x.site (s.arrivalOf x))) ∧
    ((∀ y ∈ (s.core m.chan).engine, y.msg.site ≠ m.site ∨ y.msg.enc ≠ m.enc ∨ y.msg.queue ≠ m.queue) →
      ((s.core m.chan).run = .waiting .room → exec (.messageAccepted m) s = .next (s.enqueue m.chan .sendRoomFreed)) ∧
      ((s.core m.chan).run ≠ .waiting .room → exec (.messageAccepted m) s = .next s))) ∧
  (∀ (s : State), (s.me.run = .waiting .room → s.me.engine.length + s.me.bufferedMessages ≤ 64 →
      exec .sendRoomFreed s = .next (s.setMe { s.me with run := .running })) ∧
    (s.me.run ≠ .waiting .room → exec .sendRoomFreed s = .next s)) ∧
  (∀ (s u : State) (m c : Msg) (tree node n par : Nat) (leaf : Bool) (tr : Tree), sget? tree (s.part m.part).trees = some tr →
    tr.nodes[node]? = some (n, par, leaf) →
    ((m.mcast = none ∧ c = { m with mcast := some (s.cur, s.me.seqno) } ∧ u = s.setMe { s.me with seqno := s.me.seqno + 1 }) ∨
      (m.mcast ≠ none ∧ c = m ∧ u = s)) → ∃ t, exec (.multicastForward m tree node) s = .next t ∧
    t = { u with flight := t.flight } ∧
    ∀ x, x ∈ t.flight ↔ x ∈ s.flight ∨
      (leaf = true ∧ ∃ site, site = ((s.part m.part).members[n]?).getD 1024 ∧ x = (site, s.arrivalOf { c with site := site })) ∨
      (∃ (i n' : Nat) (l' : Bool), i ≠ 0 ∧ tr.nodes[i]? = some (n', node, l') ∧
        x = (((s.part m.part).members[n']?).getD 1024, .multicastForward c tree i)))

/-- R82, R119, R126 to R129, R269: the versioned-word instructions at issue: VWLD, VWPK, VWRST and PARK ask the home and
wait; VWST and VWINC leave the core, or are held in staged mode, where a full buffer traps SNDFULL; what VWLD, VWRST and PARK
refuse before they ask; PARK waits for a plan of Iris that runs. The held writes of a cell stay held behind a VWST or VWINC of it
that leaves; how the strand sees the cell from then on is the model's choice (log 81). -/
def Obligations.VersionedWordsIssue : Prop :=
  ∀ (s : State) (p : Pfx) (d a b : Fin 16) (cell : Nat) (r r' : Record), s.me.carries r → hasOrig r r' s.me.lnum →
    (s.cellReady (s.me.getG a) .read cell →
      ((s.me.getG b).toNat < 2 ^ 32 → s.asksHome (.vwld · d a b) p (s.me.asking p) (s.me.getG a) cell
        (.load d (s.me.getG b).toNat r') .vwHomeLoad) ∧
      s.asksHome (.vwpk · d a) p (s.me.asking p) (s.me.getG a) cell (.peek d) .vwHomePeek) ∧
    (s.cellReady (s.me.getG a) .write cell →
      (bitOf s.cx.smc 0 = false →
        s.asksHome (.vwst · d a b) p (Core.advance { s.me with seqno := s.me.seqno + 1, sbuf := s.me.sbuf.map (fun e => match e with
            | .vw x => if x.cell = cell then .vw { x with past := true } else .vw x
            | x => x) } p) (s.me.getG a) cell (.store (s.me.getG d) (bitsOf (s.me.getG b) 31 0)) .vwHomeStore ∧
        s.asksHome (.vwinc · d a) p (Core.advance { s.me with seqno := s.me.seqno + 1, sbuf := s.me.sbuf.map (fun e => match e with
            | .vw x => if x.cell = cell ∧ x.version ≠ none then .vw { x with more := (x.more.1 + s.me.getG d, x.more.2 + 1) } else .vw x
            | x => x) } p) (s.me.getG a) cell (.inc (s.me.getG d)) .vwHomeInc) ∧
      (bitOf s.cx.smc 0 = true → s.me.sbuf.length < 32 →
        (∃ t, exec (.vwst p d a b) s = .next t ∧ t.mem = s.mem ∧ t.core s.cur = Core.advance { s.me with
          sbuf := s.me.sbuf ++ [.vw
            { cell := cell, va := s.me.getG a, value := s.me.getG d, version := some (bitsOf (s.me.getG b) 31 0) }] } p) ∧
        (∃ t, exec (.vwinc p d a) s = .next t ∧ t.mem = s.mem ∧ t.core s.cur = Core.advance { s.me with
          sbuf := s.me.sbuf ++ [.vw
            { cell := cell, va := s.me.getG a, value := s.me.getG d, version := none }] } p)) ∧
      (heldVws cell s.me.sbuf = [] → s.asksHome (.vwrst · a) p (s.me.asking p) (s.me.getG a) cell .reset .vwHomeReset)) ∧
    (s.cellAt (s.me.getG a) .read cell → 2 ^ 32 ≤ (s.me.getG b).toNat → s.trapsAt (.vwld · d a b) p 0x0a (s.me.getG a)) ∧
    (s.cellAt (s.me.getG a) .write cell →
      (bitOf s.cx.smc 0 = true → s.me.sbuf.length = 32 → s.TrapsWith (.vwst · d a b) p 0x1b ∧ s.TrapsWith (.vwinc · d a) p 0x1b) ∧
      (heldVws cell s.me.sbuf ≠ [] → s.trapsAt (.vwrst · a) p 0x0a (s.me.getG a))) ∧
    (s.cellAt (s.me.getG d) .read cell →
      (s.me.bal = none → s.me.h.src = 0x7fe → s.TrapsWith (.park · d a) p 0x1f) ∧
      (s.me.bal = none → s.me.h.src ≠ 0x7fe → s.me.dq ≠ [] ∨ s.me.bq ≠ [] → s.TrapsWith (.park · d a) p 0x0f)) ∧
    (s.me.bal ≠ none → exec (.park p d a) s = .next (s.setMe (s.me.tick 1))) ∧
    (s.cellReady (s.me.getG d) .read cell → s.me.mayEnd → s.asksHome (.park · d a) p (s.me.asking p) (s.me.getG d) cell
      (.park (bitsOf (s.me.getG a) 31 0) r') .vwHomePark) ∧
    (s.vwCheck (s.me.getG a) .read = .trap 0x0a (s.me.getG a) →
      s.trapsAt (.vwld · d a b) p 0x0a (s.me.getG a) ∧ s.trapsAt (.vwpk · d a) p 0x0a (s.me.getG a))

/-- R28, R74, R125 to R129: what a home does: a load of a reached version answers the value, one that is not parks the
strand in a free pool entry at the head of the cell's list, or answers CONTFULL; a PARK whose version is reached wakes its
strand at once, or reports NOLIVE where its mask holds no live core; a store or an increment writes value and version and
wakes the continuations whose version is reached, the newest first, and keeps those without a live core, whose NOLIVE records
it reports, or keeps while the ring is full; a peek answers both; a reset clears the version, or answers VWMISUSE when a strand is parked. The answer completes the
waiting instruction. That the entry taken is the lowest free one, and so the list head that names it, is the model's
choice (log 16), as is the reached PARK that reports NOLIVE and takes no entry (log 71), the ring that was never set and so
has no room (log 12), what the strand sees of a cell that a write left behind (log 81), and the trap or the count where the
cell's line fails after the request was sent (log 82). A held write is performed when its handler ends, also where the strand
parks, and an increment that arrives before leaves it where it is (R82). -/
def Obligations.VersionedHomes : Prop :=
  (∀ (s : State) (r : VwReq) (d : Fin 16) (n : Nat) (rc : Record) (v : Word) (ver : Nat), r.op = .load d n rc → r.held = [] → s.lineDead r.cell = false →
    v = BitVec.ofNat 64 (memNat s.mem r.cell 8) → ver = memNat s.mem (r.cell + 8) 4 →
    (n ≤ ver → exec (.vwHomeLoad r) s = .next (s.enqueue r.core (.vwReply { core := r.core, hid := r.hid, result := .value d v }))) ∧
    (ver < n → (s.core r.core).h.hid = r.hid → r.hid ≠ 0 → (s.core r.core).live = true → (s.core r.core).mayEnd → ∀ i, (∀ j, j < i → (sget? j (s.part r.part).conts).isSome = true) →
      sget? i (s.part r.part).conts = none →
      (i < (s.part r.part).poolN → s.memWf → ∃ t, exec (.vwHomeLoad r) s = .next t ∧ t.endedAt s r.core ∧
        t.flight = s.flight ++ [(r.core, .nextAction)] ∧ t.cellIs s r.cell v ver (i + 1) ∧
        sget? i (t.part r.part).conts = some ⟨rc, n, r.scope, r.enc, memNat s.mem (r.cell + 12) 4, false, r.va⟩) ∧
      ((s.part r.part).poolN ≤ i → exec (.vwHomeLoad r) s = .next (s.enqueue r.core (.vwReply
        { core := r.core, hid := r.hid, result := .trap 0x1e r.va }))))) ∧
  (∀ (s : State) (r : VwReq) (n : Nat) (rc : Record) (ver i : Nat), r.op = .park n rc → r.held = [] → s.lineDead r.cell = false →
    ver = memNat s.mem (r.cell + 8) 4 → (s.core r.core).h.hid = r.hid → r.hid ≠ 0 → (s.core r.core).live = true → (s.core r.core).mayEnd →
    (∀ j, j < i → (sget? j (s.part r.part).conts).isSome = true) → sget? i (s.part r.part).conts = none →
    (n ≤ ver → ∀ site, s.wakeSite r.part rc = some site → bitsOf (((s.core site).cxOf r.enc).q[(3 : Fin 4)]).cfg 1 0 = 0 →
      ∃ t, exec (.vwHomePark r) s = .next t ∧ t.endedAt s r.core ∧ t.mem = s.mem ∧
      t.flight = s.flight ++ [(r.core, .nextAction), (site, .fifoArrival (wakeMsg rc r.part r.enc site r.cell r.va))]) ∧
    (n ≤ ver → s.wakeSite r.part rc = none → (s.part r.part).kept = [] → (s.part r.part).fcap = 0 →
      ∃ t rec, exec (.vwHomePark r) s = .next t ∧ t.endedAt s r.core ∧ t.mem = s.mem ∧ (t.part r.part).conts = (s.part r.part).conts ∧
      isNolive r.part r.enc rc r.va rec ∧
      (t.part r.part).kept = [(2048 + Config.homeSlice (r.cell / 64) % 1024, rec)]) ∧
    (ver < n → i < (s.part r.part).poolN → s.memWf → ∃ t, exec (.vwHomePark r) s = .next t ∧
      t.endedAt s r.core ∧ t.cellIs s r.cell (BitVec.ofNat 64 (memNat s.mem r.cell 8)) ver (i + 1)) ∧
    (ver < n → (s.part r.part).poolN ≤ i → exec (.vwHomePark r) s = .next (s.enqueue r.core (.vwReply
      { core := r.core, hid := r.hid, result := .trap 0x1e r.va })))) ∧
  (∀ (s : State) (r : VwReq) (v : Word) (n : Nat) (i : Instr), (r.op = .store v n ∧ i = .vwHomeStore r) ∨
      (∃ u, r.op = .inc u ∧ i = .vwHomeInc r ∧ v = BitVec.ofNat 64 (memNat s.mem r.cell 8) + u ∧
        n = (memNat s.mem (r.cell + 8) 4 + 1) % 2 ^ 32) → n < 2 ^ 32 → s.memWf → s.lineDead r.cell = false → (s.part r.part).kept = [] →
    ((s.part r.part).conts = [] → ∃ t, exec i s = .next t ∧ t.cores = s.cores ∧ t.bmem = s.bmem ∧ t.flight = s.flight ∧
      t.cellIs s r.cell v n 0) ∧
    (∀ e c, (s.part r.part).conts = [(e, c)] → memNat s.mem (r.cell + 12) 4 = e + 1 → e < 2 ^ 31 → c.next = 0 → c.pending = false →
      (n < c.n → ∃ t, exec i s = .next t ∧ t.flight = s.flight ∧ t.cellIs s r.cell v n (e + 1) ∧ (t.part r.part).conts = [(e, c)]) ∧
      (c.n ≤ n → ∀ site, s.wakeSite r.part c.record = some site → bitsOf (((s.core site).cxOf c.enc).q[(3 : Fin 4)]).cfg 1 0 = 0 →
        ∃ t, exec i s = .next t ∧ t.cellIs s r.cell v n 0 ∧ (t.part r.part).conts = [] ∧ t.cores = s.cores ∧
        t.flight = s.flight ++ [(site, .fifoArrival (wakeMsg c.record r.part c.enc site r.cell r.va))]) ∧
      (c.n ≤ n → s.wakeSite r.part c.record = none → (s.part r.part).fcap = 0 → ∃ t rec, exec i s = .next t ∧
        t.cellIs s r.cell v n 0 ∧ (t.part r.part).conts = [(e, { c with pending := true, cell := r.va })] ∧ t.cores = s.cores ∧
        t.flight = s.flight ∧ isNolive r.part c.enc c.record r.va rec ∧
        (t.part r.part).kept = [(2048 + Config.homeSlice (r.cell / 64) % 1024, rec)]) ∧
      (c.n ≤ n → s.wakeSite r.part c.record = none → ∀ u, u = s.cellWrite r.part r.cell r.va v n →
        (u.faultRoom r.part = none → ∃ t rec, exec i s = .next t ∧ t.mem = u.mem ∧ t.cores = s.cores ∧ t.flight = s.flight ∧
          isNolive r.part c.enc c.record r.va rec ∧
          (t.part r.part).kept = [(2048 + Config.homeSlice (r.cell / 64) % 1024, rec)]) ∧
        (∀ ctl slot w, u.faultRoom r.part = some (ctl, slot, w) → memNat u.mem (ctl + 12) 4 = 0 →
          slot + 64 ≤ ctl ∨ ctl + 16 ≤ slot → ∃ t rec, exec i s = .next t ∧ t.cores = s.cores ∧ t.flight = s.flight ∧
          isNolive r.part c.enc c.record r.va rec ∧ (t.part r.part).kept = [] ∧
          (t.part r.part).conts = [(e, { c with pending := true, cell := r.va })] ∧ memNat t.mem slot 64 = rec.toNat ∧
          memNat t.mem ctl 8 = (memNat u.mem ctl 8 + 1) % 2 ^ 64 ∧ memNat t.mem (ctl + 8) 4 = (w + 1) % 2 ^ 32))) ∧
    (∀ (e e' : Nat) (c c' : Cont) (x y : Nat × Cont), e < e' → e' < 2 ^ 31 → (s.part r.part).conts = [(e, c), (e', c')] →
      (x = (e, c) ∧ y = (e', c')) ∨ (x = (e', c') ∧ y = (e, c)) → memNat s.mem (r.cell + 12) 4 = x.1 + 1 → x.2.next = y.1 + 1 →
      y.2.next = 0 → x.2.pending = false → y.2.pending = false → ∀ sx sy, s.wakeSite r.part x.2.record = some sx →
      s.wakeSite r.part y.2.record = some sy → bitsOf (((s.core sx).cxOf x.2.enc).q[(3 : Fin 4)]).cfg 1 0 = 0 →
      bitsOf (((s.core sy).cxOf y.2.enc).q[(3 : Fin 4)]).cfg 1 0 = 0 → ∃ t, exec i s = .next t ∧ t.cores = s.cores ∧
      t.cellIs s r.cell v n (if n < x.2.n then x.1 + 1 else if n < y.2.n then y.1 + 1 else 0) ∧
      t.flight = s.flight ++
        (if n < x.2.n then [] else [(sx, .fifoArrival (wakeMsg x.2.record r.part x.2.enc sx r.cell r.va))]) ++
        (if n < y.2.n then [] else [(sy, .fifoArrival (wakeMsg y.2.record r.part y.2.enc sy r.cell r.va))]) ∧
      sget? x.1 (t.part r.part).conts =
        (if n < x.2.n then some { x.2 with next := if n < y.2.n then y.1 + 1 else 0 } else none) ∧
      sget? y.1 (t.part r.part).conts = (if n < y.2.n then some y.2 else none))) ∧
  (∀ (s : State) (r : VwReq) (n : Nat) (rc : Record) (w : HeldVw) (m : Nat), r.op = .park n rc → r.held = [w] →
    (s.core r.core).sbuf = [.vw w] → Core.mayEnd { s.core r.core with sbuf := [] } → w.cell = r.cell → w.va = r.va → w.version = some m →
    n ≤ m → m < 2 ^ 32 → s.lineDead r.cell = false → s.keyMissing [s.uidAt r.part r.va.toNat] = none → s.memWf →
    (s.core r.core).h.hid = r.hid → r.hid ≠ 0 → (s.core r.core).live = true → (s.core r.core).part = r.part → (s.part r.part).kept = [] →
    (s.part r.part).conts = [] → ∀ site, s.wakeSite r.part rc = some site →
    bitsOf (((s.core site).cxOf r.enc).q[(3 : Fin 4)]).cfg 1 0 = 0 → ∃ t, exec (.vwHomePark r) s = .next t ∧ t.endedAt s r.core ∧
    t.cellIs s r.cell w.value m 0 ∧
    t.flight = s.flight ++ [(r.core, .nextAction), (site, .fifoArrival (wakeMsg rc r.part r.enc site r.cell r.va))]) ∧
  (∀ (s : State) (r : VwReq) (d : Fin 16) (w : HeldVw) (m : Nat), r.op = .peek d → r.held = [w] → w.version = some m → w.more.2 = 0 → m < 2 ^ 32 →
    s.lineDead r.cell = false →
    (w.past = false → w.more = (0, 0) → exec (.vwHomePeek r) s = .next (s.enqueue r.core (.vwReply
      { core := r.core, hid := r.hid, result := .pair d w.value m }))) ∧
    (w.past = true → exec (.vwHomePeek r) s = .next (s.enqueue r.core (.vwReply
      { core := r.core, hid := r.hid
        result := .pair d (BitVec.ofNat 64 (memNat s.mem r.cell 8)) (memNat s.mem (r.cell + 8) 4) })))) ∧
  (∀ (s : State) (r : VwReq) (i : Instr), s.lineDead r.cell = true →
    ((∃ v n, r.op = .store v n ∧ i = .vwHomeStore r) ∨ (∃ v, r.op = .inc v ∧ i = .vwHomeInc r) →
      ((s.core r.core).runs r.hid = true →
        exec i s = .next (s.trap r.core { cause := 0x71, faddr := r.va, iaddr := some r.pc, noSlot := true }))) ∧
    ((∃ d n rc, r.op = .load d n rc ∧ i = .vwHomeLoad r) ∨ (∃ n rc, r.op = .park n rc ∧ i = .vwHomePark r) ∨
        (∃ d, r.op = .peek d ∧ i = .vwHomePeek r) ∨ (r.op = .reset ∧ i = .vwHomeReset r) →
      ((s.core r.core).runs r.hid = true → exec i s = .next (s.enqueue r.core (.vwReply
        { core := r.core, hid := r.hid, result := .trap 0x71 r.va })))) ∧
    ((∃ v n, r.op = .store v n ∧ i = .vwHomeStore r) ∨ (∃ v, r.op = .inc v ∧ i = .vwHomeInc r) ∨
        (∃ d n rc, r.op = .load d n rc ∧ i = .vwHomeLoad r) ∨ (∃ n rc, r.op = .park n rc ∧ i = .vwHomePark r) ∨
        (∃ d, r.op = .peek d ∧ i = .vwHomePeek r) ∨ (r.op = .reset ∧ i = .vwHomeReset r) → (s.core r.core).runs r.hid = false →
      ∃ t, exec i s = .next t ∧ t.mem = s.mem ∧ t.seals = s.seals ∧ t.cores = s.cores ∧ t.counted s (1 + r.core) 3 1)) ∧
  (∀ (s : State) (r : VwReq) (d : Fin 16), r.op = .peek d → r.held = [] → s.lineDead r.cell = false → exec (.vwHomePeek r) s = .next (s.enqueue r.core (.vwReply
    { core := r.core, hid := r.hid
      result := .pair d (BitVec.ofNat 64 (memNat s.mem r.cell 8)) (memNat s.mem (r.cell + 8) 4) }))) ∧
  (∀ (s : State) (r : VwReq), r.op = .reset → s.lineDead r.cell = false →
    (memNat s.mem (r.cell + 12) 4 ≠ 0 → exec (.vwHomeReset r) s = .next (s.enqueue r.core (.vwReply
      { core := r.core, hid := r.hid, result := .trap 0x0a r.va }))) ∧
    (memNat s.mem (r.cell + 12) 4 = 0 → s.memWf → ∃ t, exec (.vwHomeReset r) s = .next t ∧ t.cores = s.cores ∧
      t.cellIs s r.cell (BitVec.ofNat 64 (memNat s.mem r.cell 8)) 0 0 ∧
      t.flight = s.flight ++ [(r.core, .vwReply { core := r.core, hid := r.hid, result := .done })])) ∧
  (∀ (s : State) (c hid : Nat) (p : Pfx), (s.core c).run = .waiting (.vw p) → (s.core c).h.hid = hid → hid ≠ 0 → ∀ (d : Fin 16) (v : Word) (n f : Nat),
    exec (.vwReply { core := c, hid := hid, result := .value d v }) s = .next (s.setCore c (((s.core c).setG d v).resume p)) ∧
    exec (.vwReply { core := c, hid := hid, result := .pair d v n }) s =
      .next (s.setCore c ((((s.core c).setG d v).setG (d + 1) (BitVec.ofNat 64 n)).resume p)) ∧
    exec (.vwReply { core := c, hid := hid, result := .done }) s = .next (s.setCore c ((s.core c).resume p)) ∧
    exec (.vwReply { core := c, hid := hid, result := .trap f v }) s = .next (s.trap c { cause := f, faddr := v }))

/-- R26, R31, R32, R34, R131, R276: the choice of the next strand: an urgent head, the newest deque entry, the best
head of q0 to q2, q3, a steal, which probes up to eight victims of the steal domain in rising logical order from after the
thief's number, wrapping, and takes the first's oldest entry that is neither held nor NS; the retry, aging and slice of an idle
or running core; and the writing of kept records. These are the model's choices: a victim gives only what lies in the deque of
the enclave it runs, and two entries not held count (log 39), a failed core that keeps its number uses up no probe (log 67).
That a switch goes to the enclave of the next number is the model's choice (log 7: R276 leaves the order open), and so is that
an event whose condition does not hold changes nothing (log 29). -/
def Obligations.StrandsDispatched : Prop :=
  (∀ s : State, s.me.run ≠ .idle → exec .nextAction s = .next s ∧ exec .idleRetry s = .next s ∧ exec .steal s = .next s) ∧
  (∀ s u : State, s.me.run = .idle → s.me.idleSince + 1024 ≤ s.me.cyc → u = s.setMe { s.me with idleSince := s.me.cyc } →
    ∃ t, exec .idleRetry s = .next t ∧ exec .nextAction u = .next t ∧
      (s.chooses → (∀ x ∈ s.cx.dspill ++ s.cx.deque, bitOf x.record 44 = true) → (∀ q, ¬ s.headReady q) →
        t = u.enqueue s.cur .steal)) ∧
  (∀ s : State, s.chooses →
    (∀ i q, i < 4 → q = Fin.ofNat 4 (s.me.urgentRr + i) → s.urgent q → (∀ j, j < i → ¬ s.urgent (Fin.ofNat 4 (s.me.urgentRr + j))) →
      ∃ t, exec .nextAction s = .next t ∧ t.takes s q) ∧
    ((∀ q, ¬ s.urgent q) →
      (∀ before e after he, s.cx.dspill ++ s.cx.deque = before ++ e :: after → bitOf e.record 44 = false →
        (∀ x ∈ after, bitOf x.record 44 = true) → s.handler s.me.part s.me.enc (bitsOf e.record 63 52) = some he → ∃ t,
        exec .nextAction s = .next t ∧ (t.core s.cur).started e he s.cx.hbDef ∧ t.mem = s.mem ∧ t.flight = s.flight ∧
        (t.core s.cur).cx.dspill ++ (t.core s.cur).cx.deque = (s.cx.dspill ++ s.cx.deque).filter (fun x => x.arr != e.arr)) ∧
      ((∀ x ∈ s.cx.dspill ++ s.cx.deque, bitOf x.record 44 = true) →
        (∀ i q, i < 3 → q = Fin.ofNat 4 ((s.me.rr + i) % 3) → s.headReady q →
          (∀ j, j < i → s.headReady (Fin.ofNat 4 ((s.me.rr + j) % 3)) → s.headPrio (Fin.ofNat 4 ((s.me.rr + j) % 3)) < s.headPrio q) →
          (∀ j, i < j → j < 3 → s.headReady (Fin.ofNat 4 ((s.me.rr + j) % 3)) → s.headPrio (Fin.ofNat 4 ((s.me.rr + j) % 3)) ≤ s.headPrio q) →
          ∃ t, exec .nextAction s = .next t ∧ t.takes s q ∧ (∀ e es he, s.cx.q[q].res = e :: es →
            s.handler s.me.part s.me.enc (bitsOf e.record 63 52) = some he → (t.core s.cur).rr = (q.val + 1) % 3)) ∧
        (¬ s.headReady 0 → ¬ s.headReady 1 → ¬ s.headReady 2 →
          (s.headReady 3 → ∃ t, exec .nextAction s = .next t ∧ t.takes s 3) ∧
          (¬ s.headReady 3 → exec .nextAction s = .next (s.enqueue s.cur .steal))))) ∧
    (∀ order, order = ((s.part s.me.part).members.drop (s.me.lnum + 1) ++ (s.part s.me.part).members.take s.me.lnum).filter s.mayProbe →
      (∀ (i v : Nat) e he, i < 8 → order[i]? = some v → s.gives v e →
        (∀ (j w : Nat), j < i → order[j]? = some w → ∀ x, ¬ s.gives w x) → v ≠ s.cur →
        s.handler s.me.part s.me.enc (bitsOf e.record 63 52) = some he → ∃ t, exec .steal s = .next t ∧
        (t.core s.cur).started e he s.cx.hbDef ∧ t.mem = s.mem ∧ (t.core v).cx.dspill ++ (t.core v).cx.deque =
          ((s.core v).cx.dspill ++ (s.core v).cx.deque).filter (fun x => x.arr != e.arr)) ∧
      ((∀ (i v : Nat) x, i < 8 → order[i]? = some v → ¬ s.gives v x) →
        exec .steal s = .next (s.setMe { s.me with idleSince := s.me.cyc }))) ∧
    (s.me.idleSince + 1024 ≤ s.me.cyc → exec .idleRetry s = exec .nextAction (s.setMe { s.me with idleSince := s.me.cyc })) ∧
    (s.me.cyc < s.me.idleSince + 1024 → exec .idleRetry s = .next s)) ∧
  (∀ s : State, s.me.run = .idle → (s.part s.me.part).rebuilding = false → s.me.preempt = true → 1 < s.me.encs → s.page1Pending s.cur = false →
    s.me.link = Vector.replicate 4 none → (s.me.cxOf ((s.me.enc + 1) % s.me.encs)).ring = [] → ∃ t, exec .nextAction s = .next t ∧
    (t.core s.cur).enc = (s.me.enc + 1) % s.me.encs ∧ (t.core s.cur).preempt = false ∧ (t.core s.cur).sliceStart = s.me.cyc ∧
    t.flight = s.flight ++ [(s.cur, .nextAction)]) ∧
  (∀ s : State, ∃ w : Vector Queue 4, exec .headAging s = .next (s.setCx { s.cx with q := w }) ∧ ∀ q : Fin 4,
    (s.cx.q[q].res = [] → w[q] = s.cx.q[q]) ∧
    (∀ e es, s.cx.q[q].res = e :: es → w[q] = { s.cx.q[q] with since := s.me.cyc, res := { e with
      wait := if bitOf e.record 44 then 0 else e.wait + (s.me.cyc - s.cx.q[q].since) } :: es })) ∧
  (∀ s : State,
    (s.me.live = true → 1 < s.me.encs → s.me.sliceStart + (s.part s.me.part).slices.getD s.me.enc 0 ≤ s.me.cyc → s.me.preempt = false →
      exec .sliceExpiry s = .next { s.setMe { s.me with preempt := true } with flight := s.wokenFlight s.cur }) ∧
    (s.me.encs ≤ 1 ∨ s.me.preempt = true ∨ s.me.cyc < s.me.sliceStart + (s.part s.me.part).slices.getD s.me.enc 0 →
      exec .sliceExpiry s = .next s)) ∧
  (∀ (s : State) (enc ctl slot v : Nat) (r : Record), s.me.keptRecs = [(enc, r)] → (s.part s.me.part).zrecs = [] → s.tasks = [] →
    (s.part s.me.part).conts = [] → (s.part s.me.part).kept = [] → s.memWf → s.faultRoom s.me.part = some (ctl, slot, v) →
    (slot + 64 ≤ ctl ∨ ctl + 16 ≤ slot) → ∃ t,
    exec .faultRecordDeferred s = .next t ∧ (t.core s.cur).keptRecs = [] ∧ memNat t.mem slot 64 = r.toNat ∧
    memNat t.mem ctl 8 = (memNat s.mem ctl 8 + 1) % 2 ^ 64 ∧ memNat t.mem (ctl + 8) 4 = (v + 1) % 2 ^ 32 ∧
    t.flight = s.wokenFlight s.cur) ∧
  (∀ (s : State) (a ctl slot v : Nat) (r : Record), s.me.keptRecs = [] → (s.part s.me.part).zrecs = [] → s.tasks = [] →
    (s.part s.me.part).conts = [] → (s.part s.me.part).kept = [(a, r)] → s.memWf → s.faultRoom s.me.part = some (ctl, slot, v) →
    (slot + 64 ≤ ctl ∨ ctl + 16 ≤ slot) → ∃ t,
    exec .faultRecordDeferred s = .next t ∧ t.cores = s.cores ∧ (t.part s.me.part).kept = [] ∧ memNat t.mem slot 64 = r.toNat ∧
    memNat t.mem ctl 8 = (memNat s.mem ctl 8 + 1) % 2 ^ 64 ∧ memNat t.mem (ctl + 8) 4 = (v + 1) % 2 ^ 32 ∧ t.flight = s.flight)


/-! ### Page 4: banks and copies -/

/-- R143 to R150, R275: the bank instructions: the slot that g names, what each refuses, what each does: ATT takes the
free bank of the lowest index, DET returns it, HAND and HANDX reserve at the receiver, BQRY reads the entry, BZERO clears
the bank, REVOKE goes to the bank. -/
def Obligations.BankInstructions : Prop :=
  ∀ (s : State) (p : Pfx) (d a b : Fin 16),
    (2 ^ 21 ≤ (s.me.getG d).toNat → s.trapsAt (.att · d) p 8 (s.me.getG d) ∧ s.trapsAt (.det · d) p 8 (s.me.getG d) ∧
      s.trapsAt (.hand · d a) p 8 (s.me.getG d) ∧ s.trapsAt (.handx · d a b) p 8 (s.me.getG d) ∧
      s.trapsAt (.bqry · a d) p 8 (s.me.getG d) ∧ s.trapsAt (.bzero · d) p 8 (s.me.getG d)) ∧
    ((s.me.getG d).toNat < 2 ^ 21 → (s.me.getG d).toNat % 4096 ≠ 0 → s.trapsAt (.att · d) p 5 (s.me.getG d) ∧
      s.trapsAt (.det · d) p 5 (s.me.getG d) ∧ s.trapsAt (.hand · d a) p 5 (s.me.getG d) ∧
      s.trapsAt (.handx · d a b) p 5 (s.me.getG d) ∧ s.trapsAt (.bqry · a d) p 5 (s.me.getG d) ∧ s.trapsAt (.bzero · d) p 5 (s.me.getG d)) ∧
    (∀ n, 496 ≤ n → n < 512 → (s.me.getG d).toNat = n * 4096 → s.trapsAt (.att · d) p 8 (s.me.getG d) ∧
      s.trapsAt (.det · d) p 8 (s.me.getG d) ∧ s.trapsAt (.hand · d a) p 8 (s.me.getG d) ∧ s.trapsAt (.handx · d a b) p 8 (s.me.getG d) ∧
      s.trapsAt (.bqry · a d) p 8 (s.me.getG d) ∧ s.trapsAt (.bzero · d) p 8 (s.me.getG d)) ∧
    (∀ n, slotAddr (s.me.getG d) n →
      exec (.bqry p a d) s = .next (s.setMe ((s.me.setG a (s.cx.slot n)).advance p)) ∧
      (bitsOf (s.cx.slot n) 33 32 ≠ 0 → s.trapsAt (.att · d) p 0x41 (s.me.getG d)) ∧
      (bitsOf (s.cx.slot n) 33 32 = 0 →
        ((∀ i, i < 384 → (s.bank (s.cur * 512 + i)).st ≠ .free) → s.trapsAt (.att · d) p 0x42 (s.me.getG d)) ∧
        (∀ i, i < 384 → (s.bank (s.cur * 512 + i)).st = .free → (∀ j, j < i → (s.bank (s.cur * 512 + j)).st ≠ .free) → s.cur < 1024 →
          s.me.lnum < 1024 → ∃ t e, exec (.att p d) s = .next t ∧
          t = { s.setMe (Core.advance (s.me.setCx { s.cx with slots := sset n e s.cx.slots }) p) with banks := t.banks } ∧
          bitsOf e 33 32 = 1 ∧ bitsOf e 36 34 = 7 ∧ bitOf e 37 = false ∧ bitsOf e 29 20 = s.me.lnum ∧ slotBank e = s.cur * 512 + i ∧
          t.bank (s.cur * 512 + i) = { st := .attached s.cur s.me.enc n, owner := s.me.part } ∧
          ∀ x, x ≠ s.cur * 512 + i → t.bank x = s.bank x)) ∧
      (bitsOf (s.cx.slot n) 33 32 = 0 → s.trapsAt (.det · d) p 9 (s.me.getG d) ∧ s.trapsAt (.bzero · d) p 9 (s.me.getG d) ∧
        s.trapsAt (.hand · d a) p 9 (s.me.getG d) ∧ s.trapsAt (.handx · d a b) p 9 (s.me.getG d)) ∧
      (bitsOf (s.cx.slot n) 33 32 = 2 → exec (.det p d) s = .next (s.setMe (s.me.tick 1)) ∧
        exec (.bzero p d) s = .next (s.setMe (s.me.tick 1)) ∧ exec (.hand p d a) s = .next (s.setMe (s.me.tick 1)) ∧
        exec (.handx p d a b) s = .next (s.setMe (s.me.tick 1))) ∧
      (∀ e, s.attachedAt n e →
        (bitOf e 37 = true → s.trapsAt (.det · d) p 0x44 (s.me.getG d) ∧ s.trapsAt (.hand · d a) p 0x44 (s.me.getG d) ∧
          s.trapsAt (.handx · d a b) p 0x44 (s.me.getG d)) ∧
        (bitOf e 37 = false → ∃ t, exec (.det p d) s = .next t ∧
          t.core s.cur = Core.advance (s.me.setCx { s.cx with slots := sdel n s.cx.slots }) p ∧ t.mem = s.mem ∧ t.bmem = s.bmem ∧
          t.bank (slotBank e) = { s.bank (slotBank e) with st := .toPool s.cur } ∧ (∀ x, x ≠ slotBank e → t.bank x = s.bank x) ∧
          t.flight = s.flight ++ [(slotBank e / 512 % 1024, .bankReturnPool (slotBank e))]) ∧
        (bitOf e 35 = false → s.trapsAt (.bzero · d) p 0x43 (s.me.getG d)) ∧
        (bitOf e 35 = true → ∃ t, exec (.bzero p d) s = .next t ∧
          t = { s.setMe (s.me.advance p) with bmem := t.bmem, bpoison := t.bpoison } ∧
          (s.memWf → ∀ x, memRead t.bmem x = if x / 4096 = slotBank e then 0 else memRead s.bmem x) ∧
          ∀ x, x ∈ t.bpoison ↔ x ∈ s.bpoison ∧ x / 512 ≠ slotBank e) ∧
        (bitOf e 37 = false → bitOf e 36 = false → s.trapsAt (.hand · d a) p 0x43 (s.me.getG d) ∧
          s.trapsAt (.handx · d a b) p 0x43 (s.me.getG d)) ∧
        (bitOf e 37 = false → bitOf e 36 = true →
          (496 ≤ bitsOf (s.me.getG b) 8 0 → s.trapsAt (.handx · d a b) p 8 (BitVec.ofNat 64 (bitsOf (s.me.getG b) 8 0 * 4096))) ∧
          (bitsOf (s.me.getG b) 8 0 < 496 → bitsOf (s.me.getG b) 18 16 &&& bitsOf e 36 34 ≠ bitsOf (s.me.getG b) 18 16 →
            s.trapsAt (.handx · d a b) p 0x43 (s.me.getG d)) ∧
          (s.inReach (slotBank e) (s.me.getG a).toNat = none → s.trapsAt (.hand · d a) p 0x40 (s.me.getG d) ∧
            (bitsOf (s.me.getG b) 8 0 < 496 → bitsOf (s.me.getG b) 18 16 &&& bitsOf e 36 34 = bitsOf (s.me.getG b) 18 16 →
              s.trapsAt (.handx · d a b) p 0x40 (s.me.getG d))) ∧
          (∀ c, s.inReach (slotBank e) (s.me.getG a).toNat = some c →
            s.reserves (.hand · d a) p c ⟨s.cur, s.me.h.hid, s.me.part, s.me.enc, n, slotBank e, c, n, bitsOf e 36 34, s.me.lnum⟩ ∧
            (bitsOf (s.me.getG b) 8 0 < 496 → bitsOf (s.me.getG b) 18 16 &&& bitsOf e 36 34 = bitsOf (s.me.getG b) 18 16 →
              s.reserves (.handx · d a b) p c ⟨s.cur, s.me.h.hid, s.me.part, s.me.enc, n, slotBank e, c, bitsOf (s.me.getG b) 8 0,
                bitsOf (s.me.getG b) 18 16, s.me.lnum⟩))))) ∧
    (s.privileged s.cur = true → ∀ v, v = (s.me.getG d).toNat →
      (2 ^ 19 ≤ v ∨ 384 ≤ v % 512 ∨ s.bankOwner v ≠ s.me.part → s.TrapsWith (.revoke · d) p 0x46) ∧
      (v < 2 ^ 19 → v % 512 < 384 → s.bankOwner v = s.me.part →
        ((s.bank v).st = .frozen → s.TrapsWith (.revoke · d) p 0x45) ∧
        ((s.bank v).st = .scrubbing → exec (.revoke p d) s = .next (s.setMe (s.me.advance p))) ∧
        ((s.bank v).st ≠ .frozen → (s.bank v).st ≠ .scrubbing → exec (.revoke p d) s = .next ((s.setMe { s.me.tick 1 with run := .waiting (.revoke p v) }).enqueue
          (v / 512 % 1024) (.bankRevoked ⟨s.me.part, v⟩)))))

/-- R141, R146, R150, R152, R156: the steps of the bank controllers: a reservation taken or refused, its grant, the
attachment, the return to the pool, a revocation, a scrub and a poisoned doubleword. A revocation that finds the bank another
partition's, or frozen, traps the core that waits for it. It is the model's choice that a revocation whose handler has trapped
meanwhile is performed all the same (log 83), and that an event whose condition does not hold changes nothing (log 29). -/
def Obligations.BankSteps : Prop :=
  (∀ (s : State) (r : HandReq),
    ((s.core r.tgt).live = true → (s.core r.tgt).part = r.part → bitsOf (((s.core r.tgt).cxOf r.enc).slot r.tslot) 33 32 = 0 → r.bank < 2 ^ 19 →
      r.rights < 8 → ∃ t e, exec (.handReservation r) s = .next t ∧ ((t.core r.tgt).cxOf r.enc).slot r.tslot = e ∧ bitsOf e 33 32 = 2 ∧
      bitsOf e 36 34 = r.rights ∧ slotBank e = r.bank ∧ t.flight = s.flight ++ [(r.giver, .handGrant r true)] ∧ t.mem = s.mem ∧ t.bmem = s.bmem) ∧
    ((s.core r.tgt).live = false ∨ (s.core r.tgt).part ≠ r.part ∨ bitsOf (((s.core r.tgt).cxOf r.enc).slot r.tslot) 33 32 ≠ 0 →
      exec (.handReservation r) s = .next (s.enqueue r.giver (.handGrant r false))) ∧
    (∀ p, (s.core r.giver).run = .waiting (.hand p) → (s.core r.giver).h.hid = r.hid →
      exec (.handGrant r false) s = .next (s.trap r.giver { cause := 0x41, faddr := BitVec.ofNat 64 (r.slot * 4096) }) ∧
      (bitsOf (((s.core r.giver).cxOf r.enc).slot r.slot) 33 32 = 1 → slotBank (((s.core r.giver).cxOf r.enc).slot r.slot) = r.bank → ∃ t,
        exec (.handGrant r true) s = .next t ∧ t.core r.giver = Core.resume ((s.core r.giver).setCxOf r.enc { (s.core r.giver).cxOf r.enc with
          slots := sdel r.slot ((s.core r.giver).cxOf r.enc).slots }) p ∧ (t.bank r.bank).st = .toReceiver r.giver r.tgt r.enc r.tslot ∧
        t.flight = s.flight ++ [(r.bank / 512 % 1024, .bankAttach r)])) ∧
    ((s.bank r.bank).st = .toReceiver r.giver r.tgt r.enc r.tslot → bitsOf (((s.core r.tgt).cxOf r.enc).slot r.tslot) 33 32 = 2 →
      slotBank (((s.core r.tgt).cxOf r.enc).slot r.tslot) = r.bank → r.rights < 8 → ∃ t e, exec (.bankAttach r) s = .next t ∧
      ((t.core r.tgt).cxOf r.enc).slot r.tslot = e ∧ bitsOf e 33 32 = 1 ∧ bitsOf e 36 34 = r.rights ∧ bitOf e 37 = false ∧
      t.bank r.bank = { s.bank r.bank with st := .attached r.tgt r.enc r.tslot } ∧ t.flight = s.flight)) ∧
  (∀ (s : State) (b g : Nat),
    ((s.bank b).st = .toPool g → (s.bank b).owner = (s.core (b / 512 % 1024)).part →
      exec (.bankReturnPool b) s = .next (s.setBank b { s.bank b with st := .free })) ∧
    ((s.bank b).st = .toPool g → (s.bank b).owner ≠ (s.core (b / 512 % 1024)).part → exec (.bankReturnPool b) s =
      .next ((s.setBank b { s.bank b with st := .scrubbing }).enqueue (b / 512 % 1024) (.scrubComplete b))) ∧
    ((s.bank b).st = .scrubbing → ∃ t, exec (.scrubComplete b) s = .next t ∧ t.cores = s.cores ∧ t.mem = s.mem ∧
      t.bank b = { st := .free, owner := (s.core (b / 512 % 1024)).part } ∧ (∀ x, x ≠ b → t.bank x = s.bank x) ∧
      (s.memWf → ∀ x, memRead t.bmem x = if x / 4096 = b then 0 else memRead s.bmem x) ∧ ∀ x ∈ t.bpoison, x / 512 ≠ b) ∧
    ((s.bank b).st ≠ .scrubbing → exec (.scrubComplete b) s = .next s) ∧
    (∀ part, s.bankOwner b = part → (s.bank b).st ≠ .frozen → (s.bank b).st ≠ .scrubbing → ∃ t,
      exec (.bankRevoked ⟨part, b⟩) s = .next t ∧ (t.bank b).st = .scrubbing ∧
      t.flight.getLast? = some (b / 512 % 1024, .scrubComplete b) ∧ t.mem = s.mem ∧ t.bmem = s.bmem ∧
      (∀ site q, (site, Instr.bankAttach q) ∈ t.flight → q.bank ≠ b) ∧
      (∀ c p, (s.core c).run = .waiting (.revoke p b) → (s.core c).part = part → (t.core c).run = .running) ∧
      ∀ c k enc x n e, (c, k) ∈ t.cores → (enc, x) ∈ k.ctx → (n, e) ∈ x.slots → bitsOf e 33 32 = 0 ∨ slotBank e ≠ b) ∧
    (∀ (part cause : Nat) (u : State), (s.bankOwner b ≠ part ∧ cause = 0x46) ∨
        (s.bankOwner b = part ∧ (s.bank b).st = .frozen ∧ cause = 0x45) →
      u = { s with flight := s.flight.filter (fun e => e.2 != .bankRevoked ⟨part, b⟩) } →
      (s.cores.filter (fun x => x.2.revokes part b) = [] → exec (.bankRevoked ⟨part, b⟩) s = .next u) ∧
      (∀ c k, s.cores.filter (fun x => x.2.revokes part b) = [(c, k)] →
        exec (.bankRevoked ⟨part, b⟩) s = .next (u.trap c { cause := cause }))) ∧
    (∀ off, off < 512 → ∃ t, exec (.bankPoison b off) s = .next t ∧ t = { s with bpoison := t.bpoison } ∧
      ∀ x, x ∈ t.bpoison ↔ x ∈ s.bpoison ∨ x = b * 512 + off))

/-- R223 to R228: the copy instructions: an ill-formed descriptor traps CDESC, a good one issues, or waits for its channel
as it was checked; CCAN cancels a copy of the partition's own core and no other; CQSET; CPOS and CWAIT compare a position with the
channel's write pointer. That the queue's tail counts the entries (log 73), and that a copy waits for the core's earlier accesses
(log 43), is the model's choice. -/
def Obligations.CopyInstructions : Prop :=
  ∀ (s : State) (p : Pfx) (d a : Fin 16) (ch : Fin 4),
    (∀ (form : Nat) (i : Form), (form, i) ∈ [(0, (Instr.cpy · d)), (1, (Instr.cpyw · d)), (2, (Instr.cpym · d))] →
      (∀ r sb db, s.copyGood (s.me.getG d) form r sb db →
        s.copyIssues i p ⟨s.cur, s.me.enc, s.me.part, (cdCh r).val, 0, form, r, sb, db, 0⟩) ∧
      (∀ cmd, s.me.copyWait = some cmd → s.copyIssues i p cmd)) ∧
    (∀ r, s.recordAt (s.me.getG d) r → s.me.copyWait = none →
      (bitsOf r 159 128 = 0 ∨ bitsOf r 159 128 % 64 ≠ 0 ∨ 0x1000000 < bitsOf r 159 128 ∨ bitsOf r 191 164 ≠ 0 ∨ bitsOf r 63 0 % 64 ≠ 0 ∨
          bitsOf r 127 64 % 64 ≠ 0 ∨ bitsOf r 255 192 % 16 ≠ 0 →
        s.trapsAt (.cpy · d) p 0x58 (s.me.getG d) ∧ s.trapsAt (.cpyw · d) p 0x58 (s.me.getG d) ∧ s.trapsAt (.cpym · d) p 0x58 (s.me.getG d)) ∧
      (bitsOf r 287 256 ≠ 0 → s.trapsAt (.cpy · d) p 0x58 (s.me.getG d)) ∧
      (bitsOf r 287 256 = 0 → s.trapsAt (.cpyw · d) p 0x58 (s.me.getG d)) ∧
      (bitOf r 162 = true ∨ bitOf r 163 = false → s.trapsAt (.cpym · d) p 0x58 (s.me.getG d))) ∧
    (bitsOf (s.me.getG d) 47 2 ≠ 0 → s.TrapsWith (.ccan · d) p 0x58) ∧
    (bitsOf (s.me.getG d) 47 2 = 0 → ∃ t, exec (.ccan p d) s = .next t ∧ t.core s.cur = s.me.advance p ∧ t.mem = s.mem ∧ t.bmem = s.bmem ∧
      (∀ site c, (site, Instr.copyCommand c) ∈ s.flight → c.part ≠ s.me.part → (site, Instr.copyCommand c) ∈ t.flight) ∧
      (∀ cl n c, (cl, n) ∈ s.nimbus → c ∈ n.copies → c.cmd.part ≠ s.me.part → ∃ n', (cl, n') ∈ t.nimbus ∧ c ∈ n'.copies) ∧
      (∀ site c, (site, Instr.copyCommand c) ∈ s.flight → c.part = s.me.part → c.core = s.cur → c.enc = s.me.enc → c.ch = bitsOf (s.me.getG d) 1 0 →
        c.gen = bitsOf (s.me.getG d) 63 48 → c.stop = 0 → (site, Instr.copyCommand { c with stop := 2 }) ∈ t.flight) ∧
      (∀ cl n c, (cl, n) ∈ s.nimbus → c ∈ n.copies → c.staging = none → c.cmd.part = s.me.part → c.cmd.core = s.cur → c.cmd.enc = s.me.enc →
        c.cmd.ch = bitsOf (s.me.getG d) 1 0 → c.cmd.gen = bitsOf (s.me.getG d) 63 48 → c.cmd.stop = 0 →
        ∃ n' c', (cl, n') ∈ t.nimbus ∧ c' ∈ n'.copies ∧ c' = { c with cmd := { c.cmd with stop := 2 } })) ∧
    (3 < (s.me.getG d).toNat ∨ s.me.getG a = 0 ∨ 2048 < (s.me.getG a).toNat → s.TrapsWith (.cqset · d a) p 0x59) ∧
    ((s.me.getG d).toNat ≤ 3 → s.me.getG a ≠ 0 → (s.me.getG a).toNat ≤ 2048 → ∃ t, exec (.cqset p d a) s = .next t ∧
      t.core s.cur = Core.advance (s.me.setCx { s.cx with budget := s.cx.budget.set (Fin.ofNat 4 (s.me.getG d).toNat) (s.me.getG a).toNat }) p ∧
      t.mem = s.mem ∧ t.flight = s.flight) ∧
    exec (.cpos p d a ch) s = .next (s.setMe ((s.me.setG d
      (if (s.me.getG a).toNat ≤ bitsOf s.cx.cwp[ch] 24 0 then 1 else 0)).advance p)) ∧
    ((s.me.getG a).toNat ≤ bitsOf s.cx.cwp[ch] 24 0 → exec (.cwait p a ch) s = .next (s.setMe (s.me.advance p))) ∧
    (bitsOf s.cx.cwp[ch] 24 0 < (s.me.getG a).toNat →
      (bitsOf s.cx.cwp[ch] 34 32 ≠ 0 → s.TrapsWith (.cwait · a ch) p 0x5a) ∧
      (bitsOf s.cx.cwp[ch] 34 32 = 0 → exec (.cwait p a ch) s = .next (s.setMe (s.me.tick 1))))

/-- R78, R223, R225, R227, R229, R230, R232, R286: the service of copies: a command enters its cluster's engine, which takes
its queue entry, or ends at once when it is cancelled or too late; the only eligible copy's next line moves between banks
and global lines, the write pointer rises and the line's ownership ends; the last line ends the copy with status 1 and
its completion word; a cancelled, a late, a faulting and a revoked copy end with status 2, 2, 3 and 4; two combined
copies share one read; a CPYM waits for its version. That every cause of translation ends a copy with status 3, a table entry that
fails its MAC told as PAGE and a revoked key as PROT (log 41), that the engine takes the command's queue entry and so raises the
queue's head (log 73), that a command whose core has left its partition changes nothing (log 29), and that a completion cell
whose line fails is not written (log 95), is the model's choice. -/
def Obligations.CopiesServed : Prop :=
  (∀ (s : State) (r : CopyCmd), (s.core r.core).part ≠ r.part → exec (.copyCommand r) s = .next s) ∧
  (∀ (s : State) (r : CopyCmd) (n : Nimbus) (cx : Ctx), (s.core r.core).part = r.part → sget Nimbus.reset (clusterOf r.core) s.nimbus = n →
    r.form ≠ 2 → cx = (s.core r.core).cxOf r.enc → cx.vqueue[Fin.ofNat 4 r.ch] = some r.desc →
    (r.stop = 0 → cdLen r.desc / 64 * 1024 ≤ cdDeadline r.desc * cx.budget[Fin.ofNat 4 r.ch] ∨ cdDeadline r.desc = 0 → ∃ t c, exec (.copyCommand r) s = .next t ∧
      t.core r.core = (s.core r.core).setCxOf r.enc { cx with vqHead := cx.vqHead + 1 } ∧ (∀ x, x ≠ r.core → t.core x = s.core x) ∧ t.mem = s.mem ∧
      sget Nimbus.reset (clusterOf r.core) t.nimbus = { n with copies := n.copies ++ [c], arrivals := n.arrivals + 1 } ∧ c.cmd = r ∧ c.next = 0 ∧
      c.ready = true ∧ c.due = (if cdDeadline r.desc = 0 then none else some (n.cyc + cdDeadline r.desc)) ∧
      (clusterSite (clusterOf r.core), Instr.copyLine) ∈ t.flight) ∧
    (∀ c : Copy, c.cmd = r → s.copyQuiet c → (∀ x ∈ n.copies, x.arrival ≠ n.arrivals) →
      (r.stop ≠ 0 → ∃ t, exec (.copyCommand r) s = .next t ∧ (sget Nimbus.reset (clusterOf r.core) t.nimbus).copies = n.copies ∧
        t.copyEnded s c r.stop 0 0) ∧
      (r.stop = 0 → cdDeadline r.desc ≠ 0 → cdDeadline r.desc * cx.budget[Fin.ofNat 4 r.ch] < cdLen r.desc / 64 * 1024 →
        ∃ t, exec (.copyCommand r) s = .next t ∧ (sget Nimbus.reset (clusterOf r.core) t.nimbus).copies = n.copies ∧
        t.copyEnded s c 2 0 0))) ∧
  (∀ (s : State) (cl : Nat) (n : Nimbus) (c : Copy) (bs : Nat → Byte) (bad : Bool) (dst : Option (Nat × Nat)), cl = clusterOf s.cur →
    s.servesOnly cl n c → s.readsLine cl c bs bad → s.writableLine cl c dst →
    ∃ t u, exec .copyLine s = .next t ∧ u.lineWritten s c dst bs bad ∧
    u = { s with mem := u.mem, bmem := u.bmem, seals := u.seals, bpoison := u.bpoison } ∧
    ((c.next + 1) * 64 ≠ cdLen c.cmd.desc → t.mem = u.mem ∧ t.bmem = u.bmem ∧ t.seals = u.seals ∧ t.bpoison = u.bpoison ∧
      t.pointerIs c 0 ((c.next + 1) * 64) ∧ ∃ own, (sget Nimbus.reset cl t.nimbus).copies = [{ c with next := c.next + 1, own := own }] ∧
      (∀ key uid, dst = some (key, uid) → own = c.own.filter (· != key / 64)) ∧ (dst = none → own = c.own) ∧
      sget 0 c.key (sget Nimbus.reset cl t.nimbus).used = sget 0 c.key n.used + 1) ∧
    ((c.next + 1) * 64 = cdLen c.cmd.desc → (sget Nimbus.reset cl t.nimbus).copies = [] ∧ t.copyEnded u c 1 0 ((c.next + 1) * 64))) ∧
  (∀ (s : State) (cl : Nat) (n : Nimbus) (c : Copy) (x : Nat), cl = clusterOf s.cur → s.servesOnly cl n c →
    ((cdSl c.cmd.desc = true ∧ x = 0x47 ∧ ∃ j, j < 8 ∧ copyByte (cdSrc c.cmd.desc) c.cmd.sbanks c.next / 8 + j ∈ s.bpoison) ∨
      (cdSl c.cmd.desc = false ∧ s.translate c.cmd.part ((cdSrc c.cmd.desc).toNat + 64 * c.next) .read = .error x)) →
    s.lineFree cl c = true → ∃ t, exec .copyLine s = .next t ∧ (sget Nimbus.reset cl t.nimbus).copies = [] ∧
    t.copyEnded s c 3 (if x = 0x71 then 0x06 else if x = 0x0c then 0x07 else x) (c.next * 64)) ∧
  (∀ (s : State) (cl : Nat) (n : Nimbus) (c : Copy), cl = clusterOf s.cur → sget Nimbus.reset cl s.nimbus = n → n.copies = [c] → n.moved < 2 →
    n.cyc < n.window + 1024 → c.staging = none → s.copyQuiet c → s.cellServed cl c →
    (c.cmd.stop ≠ 0 → ∃ t, exec .copyLine s = .next t ∧ (sget Nimbus.reset cl t.nimbus).copies = [] ∧
      t.copyEnded s c c.cmd.stop 0 (c.next * 64)) ∧
    (∀ d, c.cmd.stop = 0 → c.due = some d → d ≤ n.cyc → c.next < cdLen c.cmd.desc / 64 → ∃ t, exec .copyLine s = .next t ∧
      (sget Nimbus.reset cl t.nimbus).copies = [] ∧ t.copyEnded s c 2 0 (c.next * 64))) ∧
  (∀ (s : State) (cl : Nat) (n : Nimbus) (c c' : Copy) (bs : Nat → Byte) (bad : Bool), cl = clusterOf s.cur →
    sget Nimbus.reset cl s.nimbus = n → n.copies = [c, c'] → n.moved < 2 → n.cyc < n.window + 1024 →
    (∀ x ∈ [c, c'], x.cmd.stop = 0 ∧ x.due = none ∧ x.ready = true ∧ x.staging = none ∧ sget 0 x.key n.used < s.budgetOf cl x ∧ s.copyQuiet x ∧
      cdSl x.cmd.desc = false ∧ cdDl x.cmd.desc = true ∧ (x.next + 1) * 64 ≠ cdLen x.cmd.desc) →
    c.arrival < c'.arrival → c.group = c'.group → c.next = c'.next → c.key ≠ c'.key → c.cmd.part = c'.cmd.part →
    cdSrc c.cmd.desc = cdSrc c'.cmd.desc → s.readsLine cl c bs bad →
    ((c.cmd.core, c.cmd.enc, c.cmd.ch % 4) ≠ (c'.cmd.core, c'.cmd.enc, c'.cmd.ch % 4)) →
    copyByte (cdDst c.cmd.desc) c.cmd.dbanks c.next / 64 ≠ copyByte (cdDst c'.cmd.desc) c'.cmd.dbanks c.next / 64 →
    ∃ t u, exec .copyLine s = .next t ∧ u.lineWritten s c none bs bad ∧ t.lineWritten u c' none bs bad ∧ t.mem = s.mem ∧
    t.pointerIs c 0 ((c.next + 1) * 64) ∧ t.pointerIs c' 0 ((c.next + 1) * 64) ∧
    (sget Nimbus.reset cl t.nimbus).copies = [{ c with next := c.next + 1 }, { c' with next := c.next + 1 }] ∧
    sget 0 c.key (sget Nimbus.reset cl t.nimbus).used = sget 0 c.key n.used + 1 ∧
    sget 0 c'.key (sget Nimbus.reset cl t.nimbus).used = sget 0 c'.key n.used + 1) ∧
  (∀ (s : State) (n : Nimbus), sget Nimbus.reset (clusterOf s.cur) s.nimbus = n → n.copies = [] → ∃ t, exec .copyBudgetWindow s = .next t ∧
    t.cores = s.cores ∧ t.mem = s.mem ∧ t.bmem = s.bmem ∧ (n.window + 1024 ≤ n.cyc →
      (sget Nimbus.reset (clusterOf s.cur) t.nimbus).used = [] ∧ (sget Nimbus.reset (clusterOf s.cur) t.nimbus).old = [] ∧
      (sget Nimbus.reset (clusterOf s.cur) t.nimbus).window = n.cyc / 1024 * 1024)) ∧
  (∀ (s : State) (r : CopyCmd) (c : Copy) (n : Nimbus) (cell : Nat), sget Nimbus.reset (clusterOf r.core) s.nimbus = n → n.copies = [c] → c.cmd = r →
    r.form = 2 → c.ready = false → s.physOf r.part (cdVwa r.desc).toNat = some cell →
    (cdVer r.desc ≤ memNat s.mem (cell + 8) 4 → ∃ t, exec (.cpymVersionReached r) s = .next t ∧
      (sget Nimbus.reset (clusterOf r.core) t.nimbus).copies = [{ c with ready := true }] ∧ (clusterSite (clusterOf r.core), Instr.copyLine) ∈ t.flight) ∧
    (memNat s.mem (cell + 8) 4 < cdVer r.desc → exec (.cpymVersionReached r) s =
      .next (s.enqueue (clusterSite (clusterOf r.core)) (.cpymVersionReached r))))


/-! ### Page 5 -/

/-- R257, R258, R261, R262, R266 to R269: the balancing engine's instructions: each waits while a sweep runs; PLOAD
builds the kernel −cost/ε in fp16 and the plan's tags, PSETM, PSETS and PMOV move the vectors, BAL and BALX start a sweep
and complete, PSTAT reads the status, PMAT and PDIST read the plan out. -/
def Obligations.BalancingInstructions : Prop :=
  ∀ (s : State) (p : Pfx) (pair : Fin 4) (c td : Fin 8) (d a b : Fin 16) (x : Fin 4) (k : Bool),
    (s.me.bal ≠ none → ∀ i ∈ [Instr.pload p pair c b, .psetm p d a, .psets p d a, .pmovToBank p d x, .pmovFromBank p d x, .bal p pair,
      .balx p pair k, .pstat p d, .pmat p td pair, .pdist p d pair c], exec i s = .next (s.setMe (s.me.tick 1))) ∧
    (s.me.bal = none →
      (bitsOf (s.me.getG b) 63 32 ≠ 0 ∨ (∀ e, decodeNum fp32 (s.me.getG b).toNat = .fin false e → e = 0) →
        s.TrapsWith (.pload · pair c b) p 0x69) ∧
      (∀ (e : Rat) (f : Fmt) (m n : Nat) (cost : Nat → Nat → Machine.Num), bitsOf (s.me.getG b) 63 32 = 0 →
        decodeNum fp32 (s.me.getG b).toNat = .fin false e → e ≠ 0 → s.goodTile s.cx.tc[c] f →
        (¬ dense s.cx.tc[c] ∨ ¬ (bitsOf s.cx.tc[c] 9 7 = 0 ∨ bitsOf s.cx.tc[c] 9 7 = 2) → s.TrapsWith (.pload · pair c b) p 0x68) ∧
        (dense s.cx.tc[c] → (bitsOf s.cx.tc[c] 9 7 = 0 ∨ bitsOf s.cx.tc[c] 9 7 = 2) → m = rowsOf s.cx.tc[c] → n = colsOf s.cx.tc[c] →
          (64 < n → s.TrapsWith (.pload · pair c b) p 0x6a) ∧
          (n ≤ 64 → (f.scale = 0 ∨ f.along = 0) → (∀ i j, cost i j = s.tileNum f c i j j) → ∃ lo hi fl, s.writesCx (.pload · pair c b) p { s.cx with
              t := (s.cx.t.set (loTile pair) lo).set (hiTile pair) hi, bf := 0, bg := 0, resid := 0x7f800000
              tc := (s.cx.tc.set (loTile pair) (BitVec.ofNat 64 (31 * 2 ^ 24 + (m - 1) * 2 ^ 18 + 0x10401))).set (hiTile pair)
                (BitVec.ofNat 64 ((n - 1) * 2 ^ 24 + (m - 1) * 2 ^ 18 + 0x10401))
              bs := clearedBs s.cx.bs, vtype := s.cx.vtype ||| BitVec.ofNat 64 (fl * 2 ^ 48) } ∧
            ∀ i j, i < 64 → j < 64 → (if j < 32 then tileAt lo 16 i j else tileAt hi 16 i (j - 32)) =
              if i < m ∧ j < n then (roundF fp16 .rne (match cost i j with
                | .fin s q => .fin (!s) (q / e)
                | .inf s => .inf (!s)
                | .nan => .nan)).1 % 2 ^ 16 else 0))) ∧
      ((s.me.getG d).toNat % 64 = 0 → (s.me.getG a).toNat % 64 = 0 →
        (∀ i, i < 32 → s.localCheck .read (s.me.getG d + BitVec.ofNat 64 (8 * i)) = .ok ∧
          s.localCheck .read (s.me.getG a + BitVec.ofNat 64 (8 * i)) = .ok) → ∃ u v,
        s.writesCx (.psetm · d a) p { s.cx with bm := u, bn := v, bs := clearedBs s.cx.bs, resid := 0x7f800000 } ∧
        s.writesCx (.psets · d a) p { s.cx with bf := u, bg := v, bs := clearedBs s.cx.bs, resid := 0x7f800000 } ∧
        ∀ j, j < 256 → elemAt u 8 j = (s.localByte ((s.me.getG d).toNat + j)).toNat ∧
          elemAt v 8 j = (s.localByte ((s.me.getG a).toNat + j)).toNat) ∧
      ((s.me.getG d).toNat % 64 = 0 → (∀ i, i < 32 → s.localCheck .write (s.me.getG d + BitVec.ofNat 64 (8 * i)) = .ok) →
        s.storesLocal (.pmovToBank · d x) p (s.me.getG d).toNat 256 (fun j => BitVec.ofNat 8 (elemAt (s.cx.planVec x) 8 j))) ∧
      (s.cx.planVec 0 = s.cx.bf ∧ s.cx.planVec 1 = s.cx.bg ∧ s.cx.planVec 2 = s.cx.bm ∧ s.cx.planVec 3 = s.cx.bn) ∧
      ((s.me.getG d).toNat % 64 = 0 → (∀ i, i < 32 → s.localCheck .read (s.me.getG d + BitVec.ofNat 64 (8 * i)) = .ok) → ∃ u,
        s.writesCx (.pmovFromBank · d x) p (if x = 0 then { s.cx with bf := u } else if x = 1 then
          { s.cx with bg := u } else if x = 2 then { s.cx with bm := u } else { s.cx with bn := u }) ∧
        ∀ j, j < 256 → elemAt u 8 j = (s.localByte ((s.me.getG d).toNat + j)).toNat) ∧
      ((s.me.getG d).toNat % 64 ≠ 0 → s.trapsAt (.pmovToBank · d x) p 5 (s.me.getG d) ∧ s.trapsAt (.pmovFromBank · d x) p 5 (s.me.getG d) ∧
        s.trapsAt (.psetm · d a) p 5 (s.me.getG d) ∧ s.trapsAt (.psets · d a) p 5 (s.me.getG d)) ∧
      (s.cx.planDims pair = none → s.TrapsWith (.bal · pair) p 0x68 ∧ s.TrapsWith (.balx · pair k) p 0x68 ∧
        s.TrapsWith (.pmat · td pair) p 0x68 ∧ s.TrapsWith (.pdist · d pair c) p 0x68) ∧
      exec (.pstat p d) s = .next (s.setMe ((s.me.setG d (BitVec.ofNat 64 (s.cx.resid.toNat * 2 ^ 32) ||| (s.cx.bs &&& 0x38fff))).advance p)) ∧
      (∀ m n, s.cx.planDims pair = some (m, n) →
        (∃ r bs, exec (.bal p pair) s = .next ((s.setMe (Core.advance { s.me.setCx { s.cx with bs := bs } with bal := some r } p)).enqueue s.cur .balSweep) ∧
          bitsOf bs 11 0 = 0 ∧ bitsOf bs 17 16 = 0 ∧ bitsOf bs 63 18 = bitsOf s.cx.bs 63 18 ∧ bitOf bs 15 = bitOf s.cx.bs 15 ∧
          r.pair = pair ∧ r.full = true ∧ r.m = m ∧ r.n = n ∧ r.limit = bitsOf s.cx.bs 31 20 ∧ r.tol = bitsOf s.cx.bs 63 32) ∧
        (∃ r, exec (.balx p pair k) s = .next ((s.setMe (Core.advance { s.me with bal := some r, ctx := (s.me.setCx s.cx).ctx } p)).enqueue s.cur .balSweep) ∧
          r.pair = pair ∧ r.full = false ∧ r.m = m ∧ r.n = n ∧ (r.phase = .col ↔ k = true)) ∧
        (∀ f, s.goodTile s.cx.tc[td] f →
          (¬ dense s.cx.tc[td] ∨ f.scale ≠ 0 → s.TrapsWith (.pmat · td pair) p 0x68) ∧
          (dense s.cx.tc[td] → f.scale = 0 → bitsOf s.cx.tc[td] 9 7 < 4 →
            ((f.cw = 16 ∧ 1 < bitsOf s.cx.vtype 26 24) ∨ (f.cw ≠ 16 ∧ (bitsOf s.cx.vtype 26 24 ≠ 0 ∨ 64 < colsOf s.cx.tc[td])) →
              s.TrapsWith (.pmat · td pair) p 0x6a) ∧
            ((f.cw = 16 → bitsOf s.cx.vtype 26 24 ≤ 1) → (f.cw ≠ 16 → bitsOf s.cx.vtype 26 24 = 0 ∧ colsOf s.cx.tc[td] ≤ 64) →
              ∀ (off : Nat) (el : Nat → Nat → Nat × Nat), off = (if f.cw = 16 then bitsOf s.cx.vtype 26 24 * 32 else 0) →
              (∀ r q, el r q = (if columnish s.cx.tc[td] then (if q + off < m ∧ r < n then s.cx.pv pair (q + off) r else (0, 0))
                else (if r < m ∧ q + off < n then s.cx.pv pair r (q + off) else (0, 0)))) → ∃ u fl, s.writesCx (.pmat · td pair) p { s.cx with
                t := s.cx.t.set td u, vtype := s.cx.vtype ||| BitVec.ofNat 64 (fl * 2 ^ 48) } ∧
              (∀ r q, r < 64 → q < 512 / f.cw → tileAt u f.cw r q = if r < rowsOf s.cx.tc[td] ∧ q < colsOf s.cx.tc[td]
                then (roundTo f s.rounding (decodeNum fp32 (el r q).1)).1 % 2 ^ f.cw else 0) ∧
              (∀ b, fl.testBit b = true ↔ ∃ r q, r < rowsOf s.cx.tc[td] ∧ q < colsOf s.cx.tc[td] ∧
                ((el r q).2.testBit b = true ∨ (roundTo f s.rounding (decodeNum fp32 (el r q).1)).2.testBit b = true))))) ∧
        (∀ f, s.goodTile s.cx.tc[c] f → dense s.cx.tc[c] → (bitsOf s.cx.tc[c] 9 7 = 0 ∨ bitsOf s.cx.tc[c] 9 7 = 2) → colsOf s.cx.tc[c] ≤ 64 →
          (rowsOf s.cx.tc[c] ≠ m ∨ colsOf s.cx.tc[c] ≠ n → s.TrapsWith (.pdist · d pair c) p 0x6a) ∧
          (rowsOf s.cx.tc[c] = m → colsOf s.cx.tc[c] = n → (f.scale = 0 ∨ f.along = 0) → ∃ v fl, exec (.pdist p d pair c) s = .next (s.setMe
              (((s.me.setCx { s.cx with vtype := s.cx.vtype ||| BitVec.ofNat 64 (fl * 2 ^ 48) }).setG d v).advance p)) ∧
            ∀ y ys, y :: ys = (List.range m).flatMap (fun i => (List.range n).map (fun j => (roundF fp32 .rne
              (mulNum (decodeNum fp32 (s.cx.pv pair i j).1) (s.tileNum f c i j j)).1).1)) →
            v = BitVec.ofNat 64 (ys.foldl (fun acc z => (roundF fp32 .rne (addNum (decodeNum fp32 acc) (decodeNum fp32 z)).1).1) y)))))

/-- R263 to R265: the sweeps: BALX makes one half-sweep over rows or columns, RES is its largest change and ST is 3 for a
NaN and else 0; each pass of BAL makes a row half and a column half and counts, RES is the change that the next row half
would make, and it ends with status 3 for a NaN, with status 1 at or below TOL, and at its limit with status 2. That a sweep's
event on a core where nothing runs changes nothing is the model's choice (log 29). -/
def Obligations.BalancingSweeps : Prop :=
  (∀ s : State, s.me.bal = none → exec .balSweep s = .next s) ∧
  ∀ (s : State) (r : BalRun) (ker : Nat → Nat → Nat), s.me.bal = some r → r.m ≤ 64 → r.n ≤ 64 → r.kernel = (List.range r.m).map (fun i =>
      (List.range r.n).map (ker i)) →
    (r.full = false → r.phase = .row → ∃ c, exec .balSweep s = .next (s.setMe { s.me.setCx c with bal := none }) ∧
      HalfOf r.m r.n ker s.cx.bg s.cx.bm s.cx.bf c.bf ∧ c.bg = s.cx.bg ∧ c.bm = s.cx.bm ∧ c.bn = s.cx.bn ∧ c.t = s.cx.t ∧ c.tc = s.cx.tc ∧
      ResidualOf r.m c.bf s.cx.bf c.resid.toNat ∧ bitsOf c.bs 17 16 = (if (decodeNum fp32 c.resid.toNat).isNan then 3 else 0) ∧
      bitsOf c.bs 11 0 = bitsOf s.cx.bs 11 0 ∧ bitsOf c.bs 63 18 = bitsOf s.cx.bs 63 18) ∧
    (r.full = false → r.phase = .col → ∃ c, exec .balSweep s = .next (s.setMe { s.me.setCx c with bal := none }) ∧
      HalfOf r.n r.m (fun j i => ker i j) s.cx.bf s.cx.bn s.cx.bg c.bg ∧ c.bf = s.cx.bf ∧ c.bm = s.cx.bm ∧ c.bn = s.cx.bn ∧ c.t = s.cx.t ∧
      ResidualOf r.n c.bg s.cx.bg c.resid.toNat ∧ bitsOf c.bs 17 16 = (if (decodeNum fp32 c.resid.toNat).isNan then 3 else 0) ∧
      bitsOf c.bs 11 0 = bitsOf s.cx.bs 11 0) ∧
    (r.full = true → bitsOf s.cx.bs 11 0 = r.limit → ∃ bs, exec .balSweep s = .next (s.setMe { s.me.setCx { s.cx with bs := bs } with bal := none }) ∧
      bitsOf bs 17 16 = 2 ∧ bitsOf bs 15 0 = bitsOf s.cx.bs 15 0 ∧ bitsOf bs 63 18 = bitsOf s.cx.bs 63 18) ∧
    (r.full = true → bitsOf s.cx.bs 11 0 ≠ r.limit → bitsOf s.cx.bs 11 0 < 4095 → (decodeNum fp32 r.tol).isNan = false →
      ∃ (t : State) (k : Core) (u : BitVec 2048), exec .balSweep s = .next t ∧ k = t.core s.cur ∧ t.mem = s.mem ∧
      t.bmem = s.bmem ∧ k.g = s.me.g ∧ HalfOf r.m r.n ker s.cx.bg s.cx.bm s.cx.bf k.cx.bf ∧
      HalfOf r.n r.m (fun j i => ker i j) k.cx.bf s.cx.bn s.cx.bg k.cx.bg ∧ HalfOf r.m r.n ker k.cx.bg s.cx.bm k.cx.bf u ∧
      ResidualOf r.m u k.cx.bf k.cx.resid.toNat ∧ bitsOf k.cx.bs 11 0 = bitsOf s.cx.bs 11 0 + 1 ∧
      ((decodeNum fp32 k.cx.resid.toNat).isNan = true → bitsOf k.cx.bs 17 16 = 3 ∧ k.bal = none ∧ t.flight = s.flight) ∧
      ((decodeNum fp32 k.cx.resid.toNat).isNan = false →
        (¬ (decodeNum fp32 r.tol).Less (decodeNum fp32 k.cx.resid.toNat) →
          bitsOf k.cx.bs 17 16 = 1 ∧ k.bal = none ∧ t.flight = s.flight) ∧
        ((decodeNum fp32 r.tol).Less (decodeNum fp32 k.cx.resid.toNat) → bitsOf k.cx.bs 17 16 = bitsOf s.cx.bs 17 16 ∧
          k.bal = some r ∧ t.flight = s.flight ++ [(s.cur, .balSweep)])))


/-! ### Page 4: tasks -/

/-- R236, R247 to R252, R286: the dispatcher's instructions: what each refuses; TASK reads the tail's status word as any core does,
claims the ring's tail, writes the record with its TID and sends it to the queue's Aster; TTAG and TSHAPE store to a shape record, TSHAPE each doubleword by itself;
TQRY loads a status word; MTLOAD checks a table's lines and fields, tells the Asters of it and waits for them. That TASK and
MTLOAD wait for the strand's accesses before they touch memory themselves is the model's choice (log 43), and so is that TASK
finds an entry whose page does not translate any more not free (log 70). -/
def Obligations.TaskInstructions : Prop :=
  ∀ (s : State) (p : Pfx) (d a : Fin 16),
    (∀ r, s.taskAt (s.me.getG d) r →
      (¬ goodTask r → s.trapsAt (.task · d) p 0x61 (s.me.getG d)) ∧
      (goodTask r → s.taskCells r →
        (sget? (bitsOf r 15 10) (s.part s.me.part).tqs = none → s.trapsAt (.task · d) p 0x63 (s.me.getG d)) ∧
        (∀ q e, sget? (bitsOf r 15 10) (s.part s.me.part).tqs = some q → e = q.base + 256 * (q.tail % q.cap) →
          (s.vaFree s.me.part e 256 = false → exec (.task p d) s = .next (s.setMe (s.me.tick 1))) ∧
          (∀ u : State, s.vaFree s.me.part e 256 = true → s.keyMissing (s.uidsOf s.me.part e 256) = none →
            u = s.keysAtHand (s.uidsOf s.me.part e 256) →
            (s.lineFails s.me.part (e + 128) = true →
              exec (.task p d) s = .next (u.trap s.cur { cause := 0x71, faddr := BitVec.ofNat 64 (e + 128) })) ∧
            (1 ≤ q.cap → s.lineFails s.me.part (e + 128) = false → ¬ s.entryFree s.me.part e →
              exec (.task p d) s = .next (u.trap s.cur { cause := 0x62, faddr := s.me.getG d })) ∧
            (1 ≤ q.cap → s.lineFails s.me.part (e + 128) = false → s.entryFree s.me.part e → s.pendingAccess s.cur false = true →
              exec (.task p d) s = .next (u.setMe (s.me.tick 1)))) ∧
          (1 ≤ q.cap → s.entryFree s.me.part e → s.lineFails s.me.part (e + 128) = false → s.pendingAccess s.cur false = false →
            s.vaFree s.me.part e 256 = true → s.keyMissing (s.uidsOf s.me.part e 256) = none → e < 2 ^ 56 →
            ∃ (t : State) (x : Task),
            exec (.task p d) s = .next t ∧
            (t.part s.me.part).tqs = sset (bitsOf r 15 10) { q with tail := q.tail + 1, seq := (q.seq + 1) % 2 ^ 32 } (s.part s.me.part).tqs ∧
            t.task ⟨s.me.part, bitsOf r 15 10, e⟩ = some x ∧ x.phase = .coming ∧ x.seq = q.seq ∧ x.enc = s.me.enc ∧ x.conv = false ∧
            x.resolved = false ∧ x.shapes = (List.range 4).map (fun i => elemAt r 64 (2 + i)) ∧
            t.flight = s.flight.filter (fun y => !s.isStalled y) ++
              [(clusterSite q.cluster, .asterTaskArrival ⟨s.me.part, bitsOf r 15 10, e⟩)] ∧
            (s.memWf → ((s.me.getG d).toNat + 96 < 496 * 4096 → 496 * 4096 ≤ s.cx.wp.toNat →
              t.core s.cur = s.me.advance p ∧ ∀ j, j < 8 → t.localByte ((s.me.getG d).toNat + 96 + j) = byteAt e j) ∧
              ∀ key, s.physFor s.me.part e .write = some key → memNat t.mem (key + 128) 8 = q.seq % 2 ^ 32 * 2 ^ 32 ∧
                (∀ j, j < 128 → memRead t.mem (key + j) = if 96 ≤ j ∧ j < 104 then byteAt e (j - 96) else BitVec.ofNat 8 (elemAt r 8 j)) ∧
                ∀ x, x < key ∨ key + 192 ≤ x → memRead t.mem x = memRead s.mem x))))) ∧
    ((s.me.getG d).toNat % 64 ≠ 0 → s.trapsAt (.task · d) p 5 (s.me.getG d) ∧ s.trapsAt (.ttag · d a) p 5 (s.me.getG d) ∧
      s.trapsAt (.tshape · d a) p 5 (s.me.getG d)) ∧
    ((s.me.getG d).toNat % 64 = 0 →
      (bitsOf (s.me.getG a) 63 18 ≠ 0 ∨ ¬ goodTag (bitsOf (s.me.getG a) 15 0) (bitsOf (s.me.getG a) 17 16) → s.TrapsWith (.ttag · d a) p 0x64) ∧
      (bitsOf (s.me.getG a) 63 18 = 0 → goodTag (bitsOf (s.me.getG a) 15 0) (bitsOf (s.me.getG a) 17 16) → ∀ l uid,
        s.globalCheck (s.me.getG d + 56) .write (!s.isDestRecord (s.me.getG d)) = .ok l uid → s.pageReady (keysFrom l.key 4) uid →
        s.storesGlobal (.ttag · d a) p (cellsAt l.key (leBytes 4 (s.me.getG a).toNat)) uid) ∧
      (∀ r, s.recordAt (s.me.getG a) r →
        (bitOf r 479 = true → ¬ goodTag (bitsOf r 463 448) (bitsOf r 465 464) → s.TrapsWith (.tshape · d a) p 0x64) ∧
        (bitOf r 479 = false ∨ goodTag (bitsOf r 463 448) (bitsOf r 465 464) →
          (bitsOf r 479 472 = 0 → ∀ l uid, s.globalCheck (s.me.getG d) .write (!s.isDestRecord (s.me.getG d)) = .ok l uid →
            s.storesParts (.tshape · d a) p []) ∧
          (∀ k l uid parts, k < 8 → bitOf r (472 + k) = true → (∀ i, i < k → bitOf r (472 + i) = false) →
            s.globalCheck (s.me.getG d + BitVec.ofNat 64 (8 * k)) .write (!s.isDestRecord (s.me.getG d)) = .ok l uid →
            parts = ((List.range 8).filter (fun i => bitOf r (472 + i))).map (fun i => (uid, cellsAt (l.key - 8 * k + 8 * i) (leBytes 8
              (if i = 7 then bitsOf r 465 448 + bitsOf r 511 480 * 2 ^ 32 else elemAt r 64 i)))) →
            s.pageReady (parts.flatMap (fun y => y.2.map (·.1))) uid → s.storesParts (.tshape · d a) p parts)))) ∧
    ((∀ n q i, (n, q) ∈ (s.part s.me.part).tqs → i < q.cap → (s.me.getG a).toNat ≠ q.base + 256 * i) →
      s.trapsAt (.tqry · d a) p 0x63 (s.me.getG a)) ∧
    (∀ n q i l uid, (n, q) ∈ (s.part s.me.part).tqs → i < q.cap → (s.me.getG a).toNat = q.base + 256 * i →
      s.globalCheck (s.me.getG a + 128) .read false = .ok l uid → s.pageReady (keysFrom l.key 8) uid → ∃ (t : State) (x : Access),
      exec (.tqry p d a) s = .next t ∧ t.core s.cur = Core.advance { s.me with seqno := s.me.seqno + 1 } p ∧ t.mem = s.mem ∧
      t.flight = s.flight.filter (fun e => !s.isStalled e) ++ [(s.cur, .accessPerformed x)] ∧
      x.kind = .load (.reg d) 8 false (s.me.overlay (keysFrom l.key 8)) (s.me.vwOverlay (keysFrom l.key 8))) ∧
    (s.privileged s.cur = true →
      ((s.me.getG d).toNat % 4096 ≠ 0 → s.trapsAt (.mtload · d) p 0x65 (s.me.getG d)) ∧
      (∀ (v u : State) (n : Nat) (uids : List Nat), v = s.ownView s.me.sbuf → uids = s.uidsOf s.me.part (s.me.getG d).toNat (0x240 + 8 * n) →
        n = min 1024 (bitsOf (v.tblWord s.me.part (s.me.getG d).toNat 0) 26 16) → u = s.keysAtHand uids → (s.me.getG d).toNat % 4096 = 0 →
        (s.pendingAccess s.cur false = true → (∃ l, s.translate s.me.part (s.me.getG d).toNat .read = .ok l) →
          exec (.mtload p d) s = .next (s.setMe (s.me.tick 1))) ∧
        ((∀ i, 4096 * i < 0x240 + 8 * n → ∃ l, s.translate s.me.part ((s.me.getG d).toNat + 4096 * i) .read = .ok l) →
        (s.pendingAccess s.cur false = true ∨ s.vaFree s.me.part (s.me.getG d).toNat (0x240 + 8 * n) = false →
          exec (.mtload p d) s = .next (s.setMe (s.me.tick 1))) ∧
        (s.pendingAccess s.cur false = false → s.vaFree s.me.part (s.me.getG d).toNat (0x240 + 8 * n) = true → s.keyMissing uids = none →
          (∀ x, v.badLineAt s.me.part (s.me.getG d).toNat (0x240 + 8 * n) = some x →
            exec (.mtload p d) s = .next (u.trap s.cur { cause := 0x71, faddr := BitVec.ofNat 64 x })) ∧
          (v.badLineAt s.me.part (s.me.getG d).toNat (0x240 + 8 * n) = none →
            (bitsOf (v.tblWord s.me.part (s.me.getG d).toNat 0) 15 0 ≠ 1 ∨ v.tableBad s.me.part (s.me.getG d).toNat = true →
              exec (.mtload p d) s = .next (u.trap s.cur { cause := 0x65, faddr := s.me.getG d })) ∧
            (v.tableBad s.me.part (s.me.getG d).toNat = false →
              ((s.part s.me.part).tqs = [] → exec (.mtload p d) s = .next (u.setMe (s.me.advance p))) ∧
              ((s.part s.me.part).tqs ≠ [] → ∃ t cls, exec (.mtload p d) s = .next t ∧ t.core s.cur = { s.me.tick 1 with
                  run := .waiting (.mtload p (s.me.getG d) cls) } ∧ (∀ cl, cl ∈ cls ↔ ∃ n q, (n, q) ∈ (s.part s.me.part).tqs ∧ q.cluster = cl) ∧
                t.mem = s.mem ∧ t.flight = u.flight ++ cls.map (fun cl => (clusterSite cl, .methodTableInstall)))))))))


/-- R35, R38, R131, R240 to R247: what Aster does with a task: it registers with the homes of the versions not yet reached,
or holds a task whose wait cell has no versioned page; once all are reached it reads the shape records, resolves the task,
and holds it with FOOTBAD, NOMETHOD or CONVDEPTH, inserts a conversion, leaves it unplaced, or places it on a core of its
queue's mask with its banks attached and staged; it sends the method strand when staging is done, or holds the task when
that failed; a retired task's banks go back and its cells are bumped. What resolution finds by the method table, and how a
table is installed. The record of a held task goes to the fault ring, or stays with Aster while the ring has no room. It is the
model's choice that a ring which was never set has no room (log 12), that a shape record whose line does not verify or does not
translate holds its task (log 70), and that an event whose condition does not hold changes nothing (log 29). -/
def Obligations.TasksServed : Prop :=
  (∀ (s : State) (r : TaskRef) (x : Task) (q : TaskQueue) (tr : BitVec 1024), s.task r = some x → x.ref = r → s.queueOf r = some q →
    tr = s.entryRec r.part r.entry →
    (x.phase = .coming → (∀ a n, (a, n) ∈ trWaits tr → s.physOf r.part a ≠ none ∧ ∃ l, s.leaf r.part a = some l ∧ l.vw = true) → ∃ t regs,
      exec (.asterTaskArrival r) s = .next t ∧ t.task r = some { x with phase := .waiting, regs := regs } ∧ t.mem = s.mem ∧
      t.cores = s.cores ∧ t.flight = s.kicked q.cluster ∧
      ∀ cell n, (cell, n) ∈ regs ↔ ∃ a, (a, n) ∈ trWaits tr ∧ s.physOf r.part a = some cell ∧ memNat s.mem (cell + 8) 4 < n) ∧
    (x.phase = .coming → s.quietRing r.part → (∃ a n, (a, n) ∈ trWaits tr ∧
        (s.physOf r.part a = none ∨ ∀ l, s.leaf r.part a = some l → l.vw = false)) →
      ∃ t u, exec (.asterTaskArrival r) s = .next t ∧ t.holdsTask s u x q.cluster tr 0x66 (bitsOf tr 9 0) x.sig ∧ u.stateIs s x 5 ∧
        t.flight = s.flight) ∧
    (x.phase ≠ .coming → exec (.asterTaskArrival r) s = .next s) ∧
    (x.phase = .staging → x.copies = 0 → x.failed = false → ∃ (t : State) (m : Msg), exec (.asterStagingDone r) s = .next t ∧
      t.task r = some { x with phase := .running } ∧ t.cores = s.cores ∧ t.flight = s.flight ++ [(x.site, s.arrivalOf m)] ∧
      m.part = r.part ∧ m.enc = x.enc ∧ m.site = x.site ∧ m.src = 0x7fe ∧ m.seq = x.seq ∧
      bitsOf m.record 23 0 = x.seq % 2 ^ 24 ∧
      (q.prio < 16 → q.target < 4 → bitsOf m.record 63 52 = x.hidx % 2 ^ 12 ∧ bitsOf m.record 51 48 = q.prio ∧ bitsOf m.record 47 46 = q.target ∧ bitOf m.record 45 = true ∧
        bitsOf m.record 44 24 = 0) ∧ dword m.record 5 = dword tr 1 ∧
      dword m.record 6 = BitVec.ofNat 64 (bitsOf tr 716 708 * 4096) ∧ dword m.record 7 = BitVec.ofNat 64 r.entry ∧
      (∀ i, i < 4 → dword m.record (1 + i) = if i < bitsOf tr 18 16 then BitVec.ofNat 64 (x.shapes.getD i 0) else 0) ∧
      t.stateIs s x 3) ∧
    (x.phase = .staging → x.copies = 0 → x.failed = true → s.quietRing r.part → ∃ t u, exec (.asterStagingDone r) s = .next t ∧
      t.holdsTask s u x (s.clusterOfTask r) tr 0x66 (bitsOf tr 9 0) x.sig ∧ u.stateIs s x 5 ∧ t.flight = s.flight) ∧
    (x.phase ≠ .staging ∨ x.copies ≠ 0 → exec (.asterStagingDone r) s = .next s) ∧
    (x.phase = .running ∨ x.phase = .trapped → x.banks = [] → x.doneCells = [] → bitsOf tr 27 26 = 0 → ∃ t,
      exec (.asterRetirement r) s = .next t ∧ t.task r = some { x with phase := .finished } ∧ t.cores = s.cores ∧
      t.flight = s.kicked q.cluster ∧ t.bmem = s.bmem ∧ t.stateIs s x 4) ∧
    (∀ b e, x.phase = .running ∨ x.phase = .trapped → x.banks = [b] → x.doneCells = [] → bitsOf tr 27 26 = 0 →
      ((s.core x.site).cxOf x.enc).slot (bitsOf tr 716 708) = e → bitsOf e 33 32 = 1 → slotBank e = b → ∃ t,
      exec (.asterRetirement r) s = .next t ∧ t.task r = some { x with phase := .finished, banks := [] } ∧
      (t.bank b).st = .toPool x.site ∧ ((t.core x.site).cxOf x.enc).slot (bitsOf tr 716 708) = 0 ∧
      t.flight = State.kicked { s with flight := s.flight ++ [(b / 512 % 1024, .bankReturnPool b)] } q.cluster ∧ t.stateIs s x 4) ∧
    (∀ a cell, x.phase = .running ∨ x.phase = .trapped → x.banks = [] → x.doneCells = [a] → bitsOf tr 27 26 = 0 → s.memWf →
      s.physFor r.part a .write = some cell → (s.part r.part).conts = [] → (s.part r.part).kept = [] → ∃ t u,
      exec (.asterRetirement r) s = .next t ∧ (t.task r).map (·.phase) = some .finished ∧ t.mem = (u.setTaskState r.part r.entry 4).mem ∧
      u = s.homeWrite r.part cell (BitVec.ofNat 64 a) (s.cellValue cell + 1) ((s.cellVersion cell + 1) % 2 ^ 32) ∧
      u.cellIs s cell (s.cellValue cell + 1) (s.cellVersion cell + 1) 0)) ∧
  (∀ (s : State) (cl : Nat), cl = clusterOf s.cur →
    ((∀ x ∈ s.tasks, s.clusterOfTask x.ref = cl → x.phase ≠ .placing ∧ (x.phase = .waiting → x.regs ≠ [])) →
      exec .asterDependenceMet s = .next s) ∧
    (∀ (x : Task) (q : TaskQueue) (r : BitVec 1024), s.nextTask cl = some x → s.queueOf x.ref = some q → s.task x.ref = some x →
      q.cluster = cl → r = s.entryRec x.ref.part x.ref.entry →
      (x.phase = .placing → s.choosePlace x r q = none → ∃ t, exec .asterDependenceMet s = .next t ∧
        t.task x.ref = some { x with phase := .unplaced } ∧ t.mem = s.mem ∧ t.flight = s.kicked cl) ∧
      (∀ c, x.phase = .placing → s.choosePlace x r q = some c → c < 1024 → (s.core c).lnum < 1024 → ∃ t,
        exec .asterDependenceMet s = .next t ∧ t.placedAt s x r q cl c) ∧
      (x.phase = .waiting → s.quietRing x.ref.part → (∃ i, i < bitsOf r 18 16 ∧ i < x.shapes.length ∧
          s.shapeUnfit x.ref.part (x.shapes.getD i 0)) → ∃ t u, exec .asterDependenceMet s = .next t ∧
        t.holdsTask s u x cl r 0x66 (bitsOf r 9 0) x.sig ∧ u.stateIs s x 5 ∧ t.flight = s.kicked cl) ∧
      (∀ (shs : List Record) (tbl : Option Nat), x.phase = .waiting → s.shapesGood x r shs →
        tbl = sget? (cl * 8 + x.enc) (s.part x.ref.part).mtab →
        (∀ sig, x.conv = false → x.resolved = false → s.quietRing x.ref.part → s.resolve x.ref.part tbl (bitsOf r 9 0) shs = (.miss, sig) → ∃ t u,
          exec .asterDependenceMet s = .next t ∧ t.holdsTask s u x cl r 0x60 (bitsOf r 9 0) sig ∧ u.stateIs s x 5 ∧ t.flight = s.kicked cl) ∧
        (∀ e sig, x.conv = true ∨ x.resolved = true → s.quietRing x.ref.part → (∀ h m, e ≠ .method h m) →
          s.resolve x.ref.part tbl (bitsOf r 9 0) shs = (e, sig) → ∃ t u,
          exec .asterDependenceMet s = .next t ∧ t.holdsTask s u x cl r 0x67 (bitsOf r 9 0) sig ∧ u.stateIs s x 5 ∧ t.flight = s.kicked cl) ∧
        (∀ ci via tgt tgew sig, x.conv = false → x.resolved = false → s.resolve x.ref.part tbl (bitsOf r 9 0) shs = (.conv ci via tgt tgew, sig) →
          (s.quietRing x.ref.part → bitsOf r 18 16 ≤ ci ∨ (bitsOf r 23 20).testBit ci = true ∨ dword (shs.getD ci 0) 6 = 0 → ∃ t u,
            exec .asterDependenceMet s = .next t ∧ t.holdsTask s u x cl r 0x67 (bitsOf r 9 0) sig ∧ u.stateIs s x 5 ∧ t.flight = s.kicked cl) ∧
          (∀ (u : Record) (e minb h m sig1 sig2 : Nat), ci < bitsOf r 18 16 → (bitsOf r 23 20).testBit ci = false →
            dword (shs.getD ci 0) 6 ≠ 0 → u = targetShape (shs.getD ci 0) tgt tgew →
            s.resolve x.ref.part tbl via [shs.getD ci 0, u] = (.method m minb, sig1) →
            s.resolve x.ref.part tbl (bitsOf r 9 0) (shs.set ci u) = (.method h m, sig2) →
            (s.tailFree x.ref.part q 1 = false → s.quietRing x.ref.part → ∃ t v, exec .asterDependenceMet s = .next t ∧
              t.holdsTask s v x cl r 0x62 (bitsOf r 9 0) sig2 ∧ v.stateIs s x 5 ∧ t.flight = s.kicked cl) ∧
            (s.tailFree x.ref.part q 1 = true → e = q.entry q.tail → e ≠ x.ref.entry → ∃ t, exec .asterDependenceMet s = .next t ∧
            (t.task x.ref).map (fun y => (y.phase, y.resolved, y.shapes)) = some (.waiting, true, x.shapes.set ci (e + 192)) ∧
            (t.task { x.ref with entry := e }).map (fun y => (y.conv, y.seq)) = some (true, x.seq)))) ∧
        (∀ h minb sig, s.resolve x.ref.part tbl (bitsOf r 9 0) shs = (.method h minb, sig) →
          (s.quietRing x.ref.part → bitsOf r 726 720 < minb ∨
              bitsOf r 726 720 * 4096 < (((stagedShapes r shs).map shapeSpan).foldl (· + ·) 0) → ∃ t u,
            exec .asterDependenceMet s = .next t ∧ t.holdsTask s u x cl r 0x66 (bitsOf r 9 0) sig ∧ t.flight = s.kicked cl ∧
            (s.memWf → ∀ key, s.taskWord x.ref.part x.ref.entry key →
              u.wordIs s key ((x.seq % 2 ^ 32 * 2 ^ 32 + h % 2 ^ 12 * 2 ^ 14 + 5) % 2 ^ 64))) ∧
          (minb ≤ bitsOf r 726 720 → (((stagedShapes r shs).map shapeSpan).foldl (· + ·) 0) ≤ bitsOf r 726 720 * 4096 →
            ∀ y, y = { x with recs := shs, doneCells := outputCells r shs, hidx := h, sig := sig, resolved := true } →
            (s.choosePlace x r q = none → ∃ t, exec .asterDependenceMet s = .next t ∧
              t.task x.ref = some { y with phase := .unplaced } ∧ t.cores = s.cores ∧ t.bmem = s.bmem ∧ t.flight = s.kicked cl ∧
              (s.memWf → ∀ key, s.taskWord x.ref.part x.ref.entry key →
                t.wordIs s key ((x.seq % 2 ^ 32 * 2 ^ 32 + h * 2 ^ 14 + memNat s.mem key 8 % 16) % 2 ^ 64))) ∧
            (∀ c, s.choosePlace x r q = some c → c < 1024 → (s.core c).lnum < 1024 → ∃ t, exec .asterDependenceMet s = .next t ∧
              t.placedAt s y r q cl c)))))) ∧
  (∀ (s : State) (p tbl op wb n : Nat) (shs : List Record), wb = bitsOf (s.tblWord p tbl (0x240 + 8 * op)) 36 34 →
    (s.resolve p none op shs).1 = .miss ∧
    (bitsOf (s.tblWord p tbl 0) 26 16 ≤ op → (s.resolve p (some tbl) op shs).1 = .miss) ∧
    (bitOf (s.tblWord p tbl (0x240 + 8 * op)) 63 = false → (s.resolve p (some tbl) op shs).1 = .miss) ∧
    (bitsOf (s.tblWord p tbl (0x240 + 8 * op)) 33 32 + 1 ≠ shs.length → (s.resolve p (some tbl) op shs).1 = .miss) ∧
    ((∃ sh ∈ shs, s.operandCode p tbl sh = 15 ∨ 2 ^ wb ≤ s.operandCode p tbl sh) → (s.resolve p (some tbl) op shs).1 = .miss) ∧
    (op < bitsOf (s.tblWord p tbl 0) 26 16 → bitOf (s.tblWord p tbl (0x240 + 8 * op)) 63 = true →
      bitsOf (s.tblWord p tbl (0x240 + 8 * op)) 33 32 + 1 = shs.length →
      (∀ sh ∈ shs, s.operandCode p tbl sh ≠ 15 ∧ s.operandCode p tbl sh < 2 ^ wb) →
      n = bitsOf (s.tblWord p tbl (0x240 + 8 * op)) 31 0 +
        ((shs.zipIdx.map (fun x => s.operandCode p tbl x.1 * 2 ^ (wb * x.2))).foldl (· + ·) 0) →
      (bitsOf (s.tblWord p tbl 0) 63 32 ≤ n → (s.resolve p (some tbl) op shs).1 = .miss) ∧
      (n < bitsOf (s.tblWord p tbl 0) 63 32 → ∀ e f, e = s.tblWord p tbl ((s.tblWord p tbl 8).toNat + 16 * n) →
        f = s.tblWord p tbl ((s.tblWord p tbl 8).toNat + 16 * n + 8) → (s.resolve p (some tbl) op shs).1 =
        if bitsOf e 1 0 = 1 then .method (bitsOf e 15 4) (bitsOf e 23 16)
        else if bitsOf e 1 0 = 2 then .conv (bitsOf e 33 32) (bitsOf e 43 34) (bitsOf f 15 0) (bitsOf f 17 16) else .miss))) ∧
  (∀ (s : State) (cl c : Nat) (k : Core) (p : Pfx) (tbl : Word) (left : List Nat), cl = clusterOf s.cur → s.mtWaiter cl = some (c, k) →
    s.core c = k → k.run = .waiting (.mtload p tbl left) → ∃ t, exec .methodTableInstall s = .next t ∧
    sget? (cl * 8 + k.enc) (t.part k.part).mtab = some tbl.toNat ∧ t.mem = s.mem ∧ t.flight = s.flight ∧
    t.core c = if (∀ x ∈ left, x = cl) then k.resume p else { k with run := .waiting (.mtload p tbl (left.filter (· != cl))) }) ∧
  (∀ s : State, s.mtWaiter (clusterOf s.cur) = none → exec .methodTableInstall s = .next s)


/-! ### Page 6: the monitor -/

/-- R37, R98, R130, R279 to R281, R287 to R289: MCALL calls a service with g8 to g11 as it reads them, and waits; a service answers
in g8; MVER, QHELD, KIMPORT,
KREVOKE, RESUME and KSTATE do what Table 19.3 says: QHELD releases or discards a held head or the newest held deque entry,
KIMPORT writes every line of the plaintext; CLRST clears the enclave's vector, tile and plan state and its links. That MCALL waits
for the core's earlier accesses (log 43) and CLRST until its page-1 accesses are performed (log 66), and that a service event
without its waiting call changes nothing (log 29), is the model's choice. -/
def Obligations.MonitorCalls : Prop :=
  (∀ (s : State) (p : Pfx) (a : Fin 16) (n : Nat) (i : Instr), (n, i) ∈ services →
    ((s.me.getG a).toNat = n → s.privileged s.cur = true ∨ n = 0 ∨ n = 10 →
      (s.pendingAccess s.cur false = true → exec (.mcall p a) s = .next (s.setMe (s.me.tick 1))) ∧
      (s.pendingAccess s.cur false = false → exec (.mcall p a) s =
        .next ((s.setMe { s.me.tick 1 with run := .waiting (.mcall p n [s.me.getG 8, s.me.getG 9, s.me.getG 10, s.me.getG 11]) }).enqueue
          s.cur i))) ∧
    ((∀ q, ¬ s.calling q n) → exec i s = .next s)) ∧
  (∀ (s : State) (p : Pfx), s.privileged s.cur = true →
    (s.page1Pending s.cur = true ∨ s.me.bal ≠ none → exec (.clrst p) s = .next (s.setMe (s.me.tick 1))) ∧
    (s.page1Pending s.cur = false → s.me.bal = none → ∃ t, exec (.clrst p) s = .next t ∧
      t = { s.setMe (Core.advance { s.me.setCx { s.cx with
          v := Vector.replicate 16 0, k := Vector.replicate 8 0, vtype := putBits s.cx.vtype 54 48 0, t := Vector.replicate 8 0
          scale := Vector.replicate 8 0, tc := Vector.replicate 8 0, acc := Vector.replicate 4 0, bf := 0, bg := 0, bm := 0, bn := 0
          bs := 0x3780000004000000, resid := 0x7f800000 } with link := Vector.replicate 4 none } p) with flight := t.flight } ∧
      (∀ x, x ∈ t.flight ↔ x ∈ s.flight ∨ ∃ (d : Fin 4) (n : Nat), s.me.link[d].isSome = true ∧ neighbour s.cur d.val = some n ∧
        x = (n, .linkCreditReturn n (d + 2))))) ∧
  (∀ (s : State) (p : Pfx),
    (s.calling p 0 →
      exec .mver s = .next (s.setMe (((s.me.setG 8 0).setG 9 (BitVec.ofNat 64 (Config.monitorVersion.toNat % 2 ^ 32))).resume p))) ∧
    (s.calling p 10 → ∃ v, exec .kstate s = .next (s.setMe (((s.me.setG 8 0).setG 9 v).resume p)) ∧
      (s.tenantKey s.me.part (s.me.arg 0).toNat = none → v = 0) ∧
      (∀ uid key, s.tenantKey s.me.part (s.me.arg 0).toNat = some (uid, key) →
        (key.st = .empty → v = 0) ∧ (key.st = .provisioned → v = 1) ∧ (key.st = .active → v = 2) ∧ (key.st = .retiring → v = 3) ∧
        (key.st = .revoked → v = 4))) ∧
    (s.calling p 9 →
      (s.siteOf s.me.part (s.me.arg 0).toNat = none → s.answers .resume p 1) ∧
      (∀ c, s.siteOf s.me.part (s.me.arg 0).toNat = some c → ((s.core c).quiesced = false → s.answers .resume p 2) ∧
        ((s.core c).quiesced = true → s.serves .resume p { s.setCore c { s.core c with quiesced := false } with flight := s.wokenFlight c }))) ∧
    (s.calling p 8 → ∀ id, id = (s.me.arg 0).toNat →
      (id = 0 ∨ 4096 ≤ id → s.answers .krevoke p 1) ∧
      (id ≠ 0 → id < 4096 → (s.tenantKey s.me.part id = none → s.answers .krevoke p 4) ∧
        ∀ uid key, s.tenantKey s.me.part id = some (uid, key) →
        (key.st = .provisioned ∨ key.st = .revoked → s.answers .krevoke p 4) ∧
        (key.st = .active ∨ key.st = .retiring → sget? uid s.keys = some key → (∀ c, (s.core c).run ≠ .waiting (.key uid)) →
          s.serves .krevoke p (State.enqueue { s with keys := sset uid { key with st := .revoked } s.keys } 1026 .keyInvalidationComplete)))) ∧
    (s.calling p 7 → ∀ src dst n id, src = (s.me.arg 0).toNat → dst = (s.me.arg 1).toNat → n = (s.me.arg 2).toNat →
      id = (s.me.arg 3).toNat → s.macFails s.me.part src (n % 2 ^ 21 + 32) = false →
      (id = 0 ∨ 4096 ≤ id ∨ n % 64 ≠ 0 ∨ n = 0 ∨ 2 ^ 20 < n ∨ dst % 64 ≠ 0 → s.answers .kimport p 1) ∧
      (id ≠ 0 → id < 4096 → n % 64 = 0 → n ≠ 0 → n ≤ 2 ^ 20 → dst % 64 = 0 →
        (s.tenantKey s.me.part id = none → s.answers .kimport p 4) ∧
        ∀ uid key, s.tenantKey s.me.part id = some (uid, key) →
        (key.st ≠ .active → s.answers .kimport p 4) ∧
        (key.st = .active → s.regionUnder s.me.part src (n + 32) 0 .read = false ∨ s.regionUnder s.me.part dst n id .write = false →
          s.answers .kimport p 1) ∧
        (key.st = .active → s.regionUnder s.me.part src (n + 32) 0 .read = true → s.regionUnder s.me.part dst n id .write = true →
          ∀ env, s.readVa s.me.part src (n + 32) = some env →
          (Config.gcmVerifies (importKey key.secret) env = false → s.answers .kimport p 3) ∧
          (Config.gcmVerifies (importKey key.secret) env = true → ∃ (u : State) (bs : List Byte), s.serves .kimport p u ∧
            u.cores = s.cores ∧ u.bmem = s.bmem ∧ bs.length = n ∧
            (∀ j, j < n → bs.getD j 0 = Config.gcmByte (importKey key.secret) env j) ∧
            (s.memWf → u.importedTo s.me.part id s.inService dst bs (n / 64)))))) ∧
    (s.calling p 1 → ∀ g enc, g = s.me.arg 1 → enc = bitsOf g 6 4 →
      (s.siteOf s.me.part (s.me.arg 0).toNat = none → s.answers .qheld p 1) ∧
      (∀ c, s.siteOf s.me.part (s.me.arg 0).toNat = some c →
        (bitsOf g 63 7 ≠ 0 ∨ bitOf g 2 = true ∨ (s.core c).encs ≤ enc ∨ 1 < (s.me.arg 2).toNat ∨ (bitOf g 3 = true ∧ bitsOf g 1 0 ≠ 0) →
          s.answers .qheld p 1) ∧
        (bitsOf g 63 7 = 0 → bitOf g 2 = false → enc < (s.core c).encs → (s.me.arg 2).toNat ≤ 1 →
          (bitOf g 3 = true → bitsOf g 1 0 = 0 → (∀ e ∈ ((s.core c).cxOf enc).allDeque, bitOf e.record 44 = false) → s.answers .qheld p 2) ∧
          (∀ l1 e l2, bitOf g 3 = true → bitsOf g 1 0 = 0 → ((s.core c).cxOf enc).dspill ++ ((s.core c).cxOf enc).deque = l1 ++ e :: l2 →
            bitOf e.record 44 = true → (∀ y ∈ l2, bitOf y.record 44 = false) → ((l1 ++ e :: l2).map (·.arr)).Nodup →
            (s.me.arg 2 = 0 → ∃ t e', exec .qheld s = .next t ∧ t.me.getG 8 = 0 ∧ Entry.releasedFrom e' e ∧
              ((t.core c).cxOf enc).dspill ++ ((t.core c).cxOf enc).deque = l1 ++ l2 ++ [e']) ∧
            (s.me.arg 2 = 1 → ∃ t, exec .qheld s = .next t ∧ t.me.getG 8 = 0 ∧
              ((t.core c).cxOf enc).dspill ++ ((t.core c).cxOf enc).deque = l1 ++ l2)) ∧
          (∀ q : Fin 4, bitOf g 3 = false → q.val = bitsOf g 1 0 →
            (((s.core c).cxOf enc).q[q].res = [] → s.answers .qheld p 2) ∧
            (∀ e es, ((s.core c).cxOf enc).q[q].res = e :: es → (bitOf e.record 44 = false → s.answers .qheld p 2) ∧
              (bitOf e.record 44 = true → s.me.arg 2 = 0 → ∃ t e', exec .qheld s = .next t ∧ t.me.getG 8 = 0 ∧
                Entry.releasedFrom e' e ∧
                (bitsOf (((s.core c).cxOf enc).q[q]).cfg 1 0 = 0 → ((t.core c).cxOf enc).q[q].res = e' :: es) ∧
                (bitsOf (((s.core c).cxOf enc).q[q]).cfg 1 0 ≠ 0 → ∃ before after, es = before ++ after ∧
                  ranked (bitsOf e.record 51 48) e.arr before after ∧
                  ((t.core c).cxOf enc).q[q].res.map (·.record) = (before ++ e' :: after).map (·.record))) ∧
              (bitOf e.record 44 = true → s.me.arg 2 = 1 → ((s.core c).cxOf enc).q[q].spill = [] → (s.core c).keptEntries = [] → ∃ t,
                exec .qheld s = .next t ∧ t.me.getG 8 = 0 ∧ ((t.core c).cxOf enc).q[q].res.map (·.record) = es.map (·.record))))))))

/-- R237, R244, R279, R284, R307: FQSET, TQSET, MASKSET, TREESET and CPOOL install the fault ring, a task queue, a core mask,
a multicast tree and the pool; TCTL cancels or resubmits a task; PTMAP writes one leaf of the page table at level 2, 1 or 0,
with the next tables that are missing. The model's choices: FQSET's status 2 for a control cell in use, TQSET's checks of the
base and of the cluster, and PTMAP's refusal under a larger leaf (log 47); where the monitor takes its tables (log 15); the
status for a table line, a control block, a status word or a task's entry that fails its MAC (log 70), and what that adds to the
lifetime records (logs 37, 53); the signature of a resubmitted task (log 100). -/
def Obligations.MonitorInstalls : Prop :=
  ∀ (s : State) (p : Pfx) (pt : Nat), pt = s.me.part →
    (s.calling p 2 → ∀ base cap ctl, base = (s.me.arg 0).toNat → cap = (s.me.arg 1).toNat → ctl = (s.me.arg 2).toNat →
      (base % 64 ≠ 0 ∨ cap < 16 ∨ 65536 < cap ∨ (∀ j, cap ≠ 2 ^ j) ∨ ctl % 32 ≠ 0 ∨ s.pagesOk pt base (64 * cap) false = false ∨
        s.pagesOk pt ctl 32 true = false → s.answers .fqset p 1) ∧
      (base % 64 = 0 → 16 ≤ cap → cap ≤ 65536 → (∃ j, cap = 2 ^ j) → ctl % 32 = 0 → s.pagesOk pt base (64 * cap) false = true →
        s.pagesOk pt ctl 32 true = true →
        (s.macFails pt ctl 32 = true → s.answersFailed .fqset p 1) ∧
        (s.macFails pt ctl 32 = false → (s.part pt).fcap ≠ 0 → s.macFails pt (s.part pt).fctl 32 = true → s.answersFailed .fqset p 2) ∧
        (s.macFails pt ctl 32 = false → (s.part pt).fcap = 0 ∨ s.macFails pt (s.part pt).fctl 32 = false →
          s.ringUsed pt = true ∨ s.cellUsed pt ctl = true ∨ s.cellUsed pt (ctl + 16) = true → s.answers .fqset p 2) ∧
        (s.macFails pt ctl 32 = false → s.ringUsed pt = false → s.cellUsed pt ctl = false → s.cellUsed pt (ctl + 16) = false → ∃ u, s.serves .fqset p u ∧ u.onlyPart s.inService pt ∧
          u.part pt = { s.part pt with fbase := base, fcap := cap, fctl := ctl } ∧
          (s.memWf → ∀ key, s.physFor pt ctl .write = some key → ∀ x, memRead u.mem x = if key ≤ x ∧ x < key + 32 then 0 else memRead s.mem x)))) ∧
    (s.calling p 3 → ∀ n v base lg cl, n = (s.me.arg 0).toNat → v = s.me.arg 1 → base = (s.me.arg 2).toNat →
      lg = bitsOf v 27 24 → cl = bitsOf v 5 0 →
      (64 ≤ n ∨ bitsOf v 7 6 ≠ 0 ∨ bitsOf v 15 14 ≠ 0 ∨ bitsOf v 23 22 ≠ 0 ∨ bitsOf v 63 28 ≠ 0 ∨ 2 < bitsOf v 21 20 ∨ lg < 4 ∨ 12 < lg ∨
        base % 256 ≠ 0 ∨ (∀ c ∈ (s.part pt).members, clusterOf c ≠ cl) ∨ s.pagesOk pt base (256 * 2 ^ lg) true = false → s.answers .tqset p 1) ∧
      (n < 64 → bitsOf v 7 6 = 0 → bitsOf v 15 14 = 0 → bitsOf v 23 22 = 0 → bitsOf v 63 28 = 0 → bitsOf v 21 20 ≤ 2 → 4 ≤ lg → lg ≤ 12 →
        base % 256 = 0 → (∃ c ∈ (s.part pt).members, clusterOf c = cl) → s.pagesOk pt base (256 * 2 ^ lg) true = true →
        (∀ q i, sget? n (s.part pt).tqs = some q → i < q.cap → s.macFails pt (q.base + 256 * i + 128) 8 = true → s.answersFailed .tqset p 2) ∧
        (∀ q i, sget? n (s.part pt).tqs = some q → (∀ j, j < q.cap → s.macFails pt (q.base + 256 * j + 128) 8 = false) → i < q.cap →
          ¬ s.entryFree pt (q.base + 256 * i) → s.answers .tqset p 2) ∧
        ((∀ q i, sget? n (s.part pt).tqs = some q → i < q.cap → s.entryFree pt (q.base + 256 * i)) → ∃ u, s.serves .tqset p u ∧ u.onlyPart s.inService pt ∧
          u.part pt = { s.part pt with tqs := sset n ⟨cl, bitsOf v 13 8, bitsOf v 19 16, bitsOf v 21 20, 2 ^ lg, base, 0, 0⟩ (s.part pt).tqs } ∧
          u.mem = (s.inService.formatRing pt base (2 ^ lg)).mem ∧ ∀ x, x ∈ u.tasks ↔ x ∈ s.tasks ∧ ¬ (x.ref.part = pt ∧ x.ref.tq = n)))) ∧
    (s.calling p 4 → s.macFails pt (s.me.arg 1).toNat 128 = true → s.me.arg 0 = 1 → s.answersFailed .maskset p 1) ∧
    (s.calling p 4 → ∀ i a, i = (s.me.arg 0).toNat → a = (s.me.arg 1).toNat → s.macFails pt a 128 = false →
      (i = 0 ∨ 64 ≤ i → s.answers .maskset p 1) ∧
      (i ≠ 0 → i < 64 → (s.readVa pt a 128 = none → s.answers .maskset p 1) ∧
        ∀ bs m, s.readVa pt a 128 = some bs → m = BitVec.ofNat 1024 (leNat bs) →
        ((∃ j, (s.part pt).members.length ≤ j ∧ m.getLsbD j = true) → s.answers .maskset p 1) ∧
        ((∀ j, (s.part pt).members.length ≤ j → m.getLsbD j = false) →
          s.serves .maskset p (s.inService.setPart pt { s.part pt with masks := sset i m (s.part pt).masks })))) ∧
    (s.calling p 5 → ∀ n a, n = (s.me.arg 0).toNat → a = (s.me.arg 1).toNat → s.macFails pt a 8200 = false →
      (256 ≤ n ∨ a % 8 ≠ 0 → s.answers .treeset p 1) ∧
      (∀ root nodes hdr es, n < 256 → a % 8 = 0 → s.goodTree pt root nodes → root < 1024 → s.readVa pt a 8 = some (leBytes 8 hdr) →
        hdr = nodes.length + root * 2 ^ 32 → s.readVa pt (a + 8) (8 * nodes.length) = some es →
        (∀ i x, nodes[i]? = some x → leNat ((es.drop (8 * i)).take 8) = x.1 + x.2.1 * 2 ^ 10 + x.2.2.toNat * 2 ^ 20) →
        s.serves .treeset p (s.inService.setPart pt { s.part pt with trees := sset n ⟨root, nodes⟩ (s.part pt).trees })) ∧
      (∀ bs es, n < 256 → a % 8 = 0 → s.readVa pt a 8 = some bs → s.readVa pt (a + 8) (8 * (leNat bs % 2 ^ 11)) = some es →
        (leNat bs % 2 ^ 11 = 0 ∨ 1024 < leNat bs % 2 ^ 11 ∨ s.treeBad pt (BitVec.ofNat 64 (leNat bs)) (wordsOf es (leNat bs % 2 ^ 11)) = true) →
        s.answers .treeset p 1)) ∧
    (s.calling p 6 → ∀ base n, base = (s.me.arg 0).toNat → n = (s.me.arg 1).toNat →
      (base % 128 ≠ 0 ∨ n < 64 ∨ 2 ^ 20 < n ∨ s.pagesOk pt base (128 * n) false = false → s.answers .cpool p 1) ∧
      (base % 128 = 0 → 64 ≤ n → n ≤ 2 ^ 20 → s.pagesOk pt base (128 * n) false = true →
        ((s.part pt).conts ≠ [] → s.answers .cpool p 2) ∧
        ((s.part pt).conts = [] → s.serves .cpool p (s.setPart pt { s.part pt with pool := base, poolN := n })))) ∧
    (s.calling p 11 → ∀ e, e = (s.me.arg 0).toNat →
      ((∀ n q i, (n, q) ∈ (s.part pt).tqs → i < q.cap → e ≠ q.base + 256 * i) ∨ 1 < (s.me.arg 1).toNat → s.answers .tctl p 1) ∧
      (∀ n q i, (n, q) ∈ (s.part pt).tqs → i < q.cap → e = q.base + 256 * i → (s.me.arg 1).toNat ≤ 1 →
        ((∀ x ∈ s.tasks, ¬ (x.ref.part = pt ∧ x.ref.entry = e)) → s.answers .tctl p 4) ∧
        (∀ x, s.tasks.find? (fun y => y.ref.part == pt && y.ref.entry == e) = some x →
          (x.phase = .finished → s.answers .tctl p 4) ∧ (x.phase = .running → s.answers .tctl p 2) ∧
          (x.phase = .waiting ∨ x.phase = .held ∨ x.phase = .unplaced → x.banks = [] → s.convTasks x = [] →
            (s.macFails pt e 256 = true → s.answersFailed .tctl p 1) ∧
            (s.macFails pt e 256 = false → s.pagesOk pt e 256 true = false → s.answers .tctl p 1) ∧
            (s.macFails pt e 256 = false → s.pagesOk pt e 256 true = true → s.me.arg 1 = 0 → ∃ u, s.serves .tctl p u ∧ u.cores = s.cores ∧ u.flight = s.flight ∧ u.task x.ref = some { x with phase := .finished } ∧
              u.stateIs s x 6) ∧
            (s.macFails pt e 256 = false → s.pagesOk pt e 256 true = true → s.me.arg 1 = 1 → ∃ u y, s.serves .tctl p u ∧ u.cores = s.cores ∧
              u.task x.ref = some y ∧ y.phase = .coming ∧ y.resolved = x.conv ∧ y.sig = 0 ∧ y.failed = false ∧ y.copies = 0 ∧ y.seq = x.seq ∧ y.shapes = (List.range 4).map (trShp (s.entryRec pt e)) ∧
              u.flight = s.flight ++ [(clusterSite (s.clusterOfTask x.ref), .asterTaskArrival x.ref)]))))) ∧
    (s.calling p 12 → ∀ va e lvl, va = (s.me.arg 0).toNat → e = s.me.arg 1 → lvl = (s.me.arg 2).toNat →
      (2 < lvl ∨ 2 ^ 56 ≤ va ∨ va % 2 ^ (12 + 9 * lvl) ≠ 0 → s.answers .ptmap p 1) ∧
      (e ≠ 0 → bitsOf e 1 0 ≠ 3 ∨ bitsOf e 6 2 ≠ 0 ∨ (bitOf e 7 = true ∧ lvl ≠ 0) ∨ (bitsOf e 63 52 ≠ 0 ∧ bitsOf e 51 50 = 2) ∨
        s.keyOf pt (bitsOf e 63 52) = none → s.answers .ptmap p 1) ∧
      (lvl ≤ 2 → va < 2 ^ 56 → va % 2 ^ (12 + 9 * lvl) = 0 → e = 0 ∨ s.leafBad pt e lvl = false → ∀ up t, s.LeadsTo (s.part pt).key va 3
        (s.part pt).tbl up t →
        (up = lvl → s.macOk (entryPlace up t va) (s.part pt).key = true → ∃ u, s.serves .ptmap p u ∧ { u with mem := s.mem, seals := s.seals } = s.inService ∧ (s.memWf →
          memNat u.mem (entryPlace lvl t va) 8 = e.toNat ∧
          ∀ b, b < entryPlace lvl t va ∨ entryPlace lvl t va + 8 ≤ b → memRead u.mem b = memRead s.mem b)) ∧
        (lvl ≤ up → s.macOk (entryPlace up t va) (s.part pt).key = false → s.answersFailed .ptmap p 1) ∧
        (lvl < up → s.macOk (entryPlace up t va) (s.part pt).key = true →
          (s.entryAt up t va % 4 = 3 → s.answers .ptmap p 1) ∧
          (s.entryAt up t va % 2 = 0 → e = 0 → s.serves .ptmap p s.inService) ∧
          (∀ new m, new = (s.part pt).tbl + (s.part pt).tblNext → m = up - lvl → s.entryAt up t va % 2 = 0 → e ≠ 0 →
            ((s.part pt).tblLen < (s.part pt).tblNext + 4096 * m → s.answers .ptmap p 2) ∧
            ((s.part pt).tblNext + 4096 * m ≤ (s.part pt).tblLen → entryPlace up t va + 8 ≤ new ∨ new + 4096 * m ≤ entryPlace up t va →
              ∃ u, s.serves .ptmap p u ∧ u.onlyPart s.inService pt ∧ u.tasks = s.tasks ∧
              u.part pt = { s.part pt with tblNext := (s.part pt).tblNext + 4096 * m } ∧
              (s.memWf → u.chains s (entryPlace up t va) new m va lvl e.toNat))))))


/-! ### Zenith -/

/-- R291, R293, R298, R305: the SPDM and TDISP requests; before the device is ready a request is answered Busy. The codes are those
of the named standards (log 22, log 23), and the cryptographic contents are opaque (log 13). -/
def Obligations.SessionsAndInterfaces : Prop :=
  (∀ (s : State) (r : HostReq) (xs : List HostIn), s.zen.inbox = .req r :: xs → s.zen.ready = false →
    s.replies (requestInstr r) (s.taken xs) (.spdm r.iface 0x7f [3, 0])) ∧
  (∀ (s : State) (r : HostReq) (xs : List HostIn) (b : List Byte),
    (s.spdmAsks r xs 0x84 b → s.replies .getVersion ((s.taken xs).setStage r.iface 1) (.spdm r.iface 0x04 [0, 2, 0, 0x12, 0, 0x13])) ∧
    (s.spdmAsks r xs 0xe1 b → (s.spdmStage r.iface ≠ 1 → s.replies .getCapabilities (s.taken xs) (.spdm r.iface 0x7f [4, 0])) ∧
      (s.spdmStage r.iface = 1 → s.replies .getCapabilities ((s.taken xs).setStage r.iface 2) (.spdm r.iface 0x61 (leBytes 4 0x62d6)))) ∧
    (s.spdmAsks r xs 0xe3 b → (s.spdmStage r.iface ≠ 2 → s.replies .negotiateAlgorithms (s.taken xs) (.spdm r.iface 0x7f [4, 0])) ∧
      (s.spdmStage r.iface = 2 → s.replies .negotiateAlgorithms ((s.taken xs).setStage r.iface 3) (.spdm r.iface 0x63
        (leBytes 4 (field b 0 4 &&& 0x40) ++ leBytes 4 (field b 4 4 &&& 0x800) ++ leBytes 4 (field b 8 4 &&& 0x20) ++
          leBytes 2 (field b 12 2 &&& 0x10) ++ leBytes 2 (field b 14 2 &&& 0x2))))) ∧
    (∀ code i, (code, i) ∈ ([(0x81, .getDigests), (0x82, .getCertificate), (0x83, .challenge), (0xe0, .getMeasurements),
        (0xe4, .keyExchange)] : List (Nat × Instr)) → s.spdmAsks r xs code b → s.spdmStage r.iface ≠ 3 →
      s.replies i (s.taken xs) (.spdm r.iface 0x7f [4, 0])) ∧
    (s.spdmStage r.iface = 3 →
      (s.spdmAsks r xs 0x81 b → s.replies .getDigests (s.taken xs) (.spdm r.iface 0x01 (3 :: (Config.certDigest 0 ++ Config.certDigest 1)))) ∧
      (s.spdmAsks r xs 0x82 b → (1 < field b 0 1 → s.replies .getCertificate (s.taken xs) (.spdm r.iface 0x7f [1, 0])) ∧
        (∀ rest part, field b 0 1 ≤ 1 → rest = (Config.certificate (field b 0 1)).drop (field b 1 2) → part = rest.take (field b 3 2) →
          s.replies .getCertificate (s.taken xs) (.spdm r.iface 0x02 ([BitVec.ofNat 8 (field b 0 1)] ++ leBytes 2 part.length ++
            leBytes 2 (rest.length - part.length) ++ part)))) ∧
      (s.spdmAsks r xs 0x83 b → (1 < field b 0 1 → s.replies .challenge (s.taken xs) (.spdm r.iface 0x7f [1, 0])) ∧
        (field b 0 1 ≤ 1 → s.replies .challenge (s.taken xs) (.spdm r.iface 0x03 (Config.certDigest (field b 0 1) ++ Config.signature b)))) ∧
      (s.spdmAsks r xs 0xe0 b → ∀ bs, bs = s.blocks r.iface (field b 1 1) →
        (field b 1 1 ≠ 0 → bs = [] → s.replies .getMeasurements (s.taken xs) (.spdm r.iface 0x7f [1, 0])) ∧
        (bs ≠ [] → ∀ body, body = BitVec.ofNat 8 bs.length :: bs.flatMap (fun x => BitVec.ofNat 8 x.1 :: leBytes 64 x.2.toNat) → field b 1 1 ≠ 0 →
          (field b 0 1 % 2 = 0 → s.replies .getMeasurements (s.taken xs) (.spdm r.iface 0x60 body)) ∧
          (field b 0 1 % 2 = 1 → ∃ u, s.replies .getMeasurements u (.spdm r.iface 0x60 (body ++ Config.signature (b ++ body))) ∧
            r.requester ∈ u.zen.measured ∧ { u with zen := { u.zen with measured := s.zen.measured } } = s.taken xs))) ∧
      (s.spdmAsks r xs 0xe4 b → (∀ n, (∀ m, m < n → (sget? m s.zen.sessions).isSome = true) → sget? n s.zen.sessions = none →
        (n < 8 → s.replies .keyExchange { s with zen := { s.zen with inbox := xs, sessions := sset n ⟨r.iface, r.requester, false, 0, 0⟩ s.zen.sessions } }
          (.spdm r.iface 0x64 (leBytes 2 n ++ Config.keyShare b))) ∧
        (8 ≤ n → s.replies .keyExchange (s.taken xs) (.spdm r.iface 0x7f [0x0a, 0]))))) ∧
    (∀ n x, s.inSessionOf r n x →
      (s.spdmAsks r xs 0xe5 b → (x.up = true → s.replies .finish (s.taken xs) (.spdm r.iface 0x7f [4, 0])) ∧
        (x.up = false → Config.finishOk b = true → s.replies .finish
          { s with zen := { s.zen with inbox := xs, sessions := sset n { x with up := true } s.zen.sessions } } (.spdm r.iface 0x65 [])) ∧
        (x.up = false → Config.finishOk b = false → ∃ u, s.replies .finish u (.spdm r.iface 0x7f [6, 0]) ∧ u.zen.sessions = sdel n s.zen.sessions ∧
          ∀ k, k ∈ u.keys ↔ k ∈ s.keys ∧ ¬ (k.2.st = .provisioned ∧ k.2.sess = n))) ∧
      (x.up = true →
        (s.spdmAsks r xs 0xe9 b → (field b 0 1 = 0 ∨ 3 < field b 0 1 → s.replies .keyUpdate (s.taken xs) (.spdm r.iface 0x7f [1, 0])) ∧
          (1 ≤ field b 0 1 → field b 0 1 ≤ 3 → s.replies .keyUpdate { s with zen := { s.zen with inbox := xs, sessions := sset n { x with
              reqKeys := x.reqKeys + (if field b 0 1 = 3 then 0 else 1), rspKeys := x.rspKeys + (if field b 0 1 = 2 then 1 else 0) } s.zen.sessions } }
            (.spdm r.iface 0x69 (b.take 2)))) ∧
        (s.spdmAsks r xs 0xe8 b → s.replies .heartbeat (s.taken xs) (.spdm r.iface 0x68 [])) ∧
        (s.spdmAsks r xs 0xec b → ∃ u, s.replies .endSession u (.spdm r.iface 0x6c []) ∧ u.zen.sessions = sdel n s.zen.sessions ∧
          (∀ k, k ∈ u.keys ↔ k ∈ s.keys ∧ ¬ (k.2.st = .provisioned ∧ k.2.sess = n)) ∧ u.mem = s.mem ∧ u.cores = s.cores))) ∧
    (∀ code i, (code, i) ∈ ([(0xe5, .finish), (0xe9, .keyUpdate), (0xe8, .heartbeat), (0xec, .endSession)] : List (Nat × Instr)) →
      s.spdmAsks r xs code b → r.sess = none → s.replies i (s.taken xs) (.spdm r.iface 0x7f [2, 0])) ∧
    (s.oldest r xs → requestInstr r = .unsupportedRequest →
      (∀ code, r.msg = .spdm code b → s.replies .unsupportedRequest (s.taken xs) (.spdm r.iface 0x7f [7, 0])) ∧
      (∀ code, r.msg = .tdisp code → s.replies .unsupportedRequest (s.taken xs) (.tdisp r.iface 0x7f (leBytes 4 7 ++ leBytes 4 0))) ∧
      (r.msg = .vendor 3 s.zen.vendorId b → s.vendorReply .unsupportedRequest (s.taken xs) r b 1 [])) ∧
    (∀ std vid, s.oldest r xs → r.msg = .vendor std vid b → std ≠ 3 ∨ vid ≠ s.zen.vendorId →
      s.replies (requestInstr r) (s.taken xs) (.spdm r.iface 0x7f [7, 0])) ∧
    (∀ pt, s.oldest r xs → r.iface ≠ 0 → sget? (r.iface - 1) s.parts = some pt →
      (r.msg = .tdisp 0x83 → (pt.iface ≠ .unlocked → s.replies .lockInterfaceRequest (s.taken xs) (.tdisp r.iface 0x7f (leBytes 4 4 ++ leBytes 4 0))) ∧
        (pt.iface = .unlocked → 63 ≤ (s.parts.filter (fun x => x.2.iface == .locked || x.2.iface == .run)).length →
          s.replies .lockInterfaceRequest (s.taken xs) (.tdisp r.iface 0x7f (leBytes 4 0xff ++ leBytes 4 1))) ∧
        (∀ n, pt.iface = .unlocked → n < 63 → sget? (n + 1) s.zen.streams = none → (∀ m, m < n → (sget? (m + 1) s.zen.streams).isSome = true) →
          (s.parts.filter (fun x => x.2.iface == .locked || x.2.iface == .run)).length < 63 → ∃ u, s.replies .lockInterfaceRequest u (.tdisp r.iface 0x03 []) ∧
          u.part (r.iface - 1) = { pt with iface := .locked, lockedBy := some r.requester } ∧ u.zen.streams = sset (n + 1) r.iface s.zen.streams ∧
          u.mem = s.mem ∧ u.cores = s.cores ∧ (n + 1) ∉ u.zen.insecure)) ∧
      (r.msg = .tdisp 0x86 → (pt.iface ≠ .locked → s.replies .startInterfaceRequest (s.taken xs) (.tdisp r.iface 0x7f (leBytes 4 4 ++ leBytes 4 0))) ∧
        (pt.iface = .locked → pt.lockedBy ≠ some r.requester →
          s.replies .startInterfaceRequest (s.taken xs) (.tdisp r.iface 0x7f (leBytes 4 0x102 ++ leBytes 4 0))) ∧
        (pt.iface = .locked → pt.lockedBy = some r.requester →
          s.replies .startInterfaceRequest ((s.taken xs).setPart (r.iface - 1) { pt with iface := .run }) (.tdisp r.iface 0x06 []))) ∧
      (r.msg = .tdisp 0x87 → ∃ u, s.replies .stopInterfaceRequest u (.tdisp r.iface 0x07 []) ∧
        u.part (r.iface - 1) = { pt with iface := .unlocked, lockedBy := none } ∧ (∀ x ∈ u.zen.streams, x.2 ≠ r.iface) ∧ u.mem = s.mem ∧
        u.cores = s.cores) ∧
      (r.msg = .tdisp 0x84 →
        (pt.iface = .locked ∨ pt.iface = .run → s.replies .getDeviceInterfaceReport (s.taken xs) (.tdisp r.iface 0x04
          (leBytes 4 1 ++ leBytes 8 0 ++ leBytes 4 5 ++ leBytes 4 0x20000))) ∧
        (pt.iface = .unlocked ∨ pt.iface = .error →
          s.replies .getDeviceInterfaceReport (s.taken xs) (.tdisp r.iface 0x7f (leBytes 4 4 ++ leBytes 4 0))))) ∧
    (∀ code i, (code, i) ∈ ([(0x83, .lockInterfaceRequest), (0x84, .getDeviceInterfaceReport), (0x86, .startInterfaceRequest),
        (0x87, .stopInterfaceRequest)] : List (Nat × Instr)) → s.oldest r xs → r.msg = .tdisp code →
      r.iface = 0 ∨ sget? (r.iface - 1) s.parts = none → s.replies i (s.taken xs) (.tdisp r.iface 0x7f (leBytes 4 0x101 ++ leBytes 4 0))))

/-- R110, R155, R281, R287 to R290, R292, R297 to R301, R308, R311, R312: the vendor-defined requests on their channels: keys,
partitions, images, measurements, lifetime records and the debugger; a wrong length is status 1, a wrong channel status 5;
and the key store's own steps. These clauses are the model's choices: the order of the checks and the statuses (log 52), that
PART_CREATE leaves its cores quiesced (log 25), the rebuild that waits at Zenith (log 54), the count of 2086 lifetime records
(log 53), the members of a rebuild (log 72), the lowest free identifier of KEY_PROG (log 75), the workspaces' banks (log 9), status 1 for a
table line of IMG_LOAD that fails its MAC (log 70) with its count (logs 37, 53), that the debugger's read of SBCNT or KMC clears
it (log 52), and that a key event whose condition does not hold changes nothing (log 29). -/
def Obligations.ManagementRequests : Prop :=
  (∀ (s : State) (r : HostReq) (xs : List HostIn) (b : List Byte) (i : Instr) (code len : Nat), (i, code, len) ∈
      ([(.keyProg, 1, 168), (.keyActivate, 2, 8), (.keyRetire, 3, 8), (.keyRevoke, 4, 8), (.partCreate, 0x10, 320), (.partRebuild, 0x11, 136),
        (.partDestroy, 0x12, 5), (.bankRelease, 0x13, 8), (.ideThresh, 0x14, 7), (.lifetimeRead, 0x15, 10), (.measLog, 0x17, 10),
        (.partResume, 0x18, 5), (.imgLoad, 0x19, 4112)] : List (Instr × Nat × Nat)) → s.oldest r xs → r.msg = .vendor 3 s.zen.vendorId b → field b 0 2 = code →
    b.length ≠ len ∨ field b 2 2 ≠ 0 → s.vendorReply i (s.taken xs) r b 1 []) ∧
  (∀ (s : State) (r : HostReq) (xs : List HostIn) (b : List Byte) (p : Nat),
    (s.vendorAsks r xs 0x12 5 b → field b 4 1 = p → (¬ s.onManagement r → s.vendorReply .partDestroy (s.taken xs) r b 5 []) ∧
      (s.onManagement r → sget? p s.parts = none → s.vendorReply .partDestroy (s.taken xs) r b 4 []) ∧
      (∀ pt, s.onManagement r → sget? p s.parts = some pt → ∃ u, s.vendorReply .partDestroy u r b 0 [] ∧ sget? p u.parts = none ∧
        (∀ c ∈ pt.members, (u.core c).part = 256) ∧ (∀ x ∈ u.tasks, x.ref.part ≠ p) ∧ u.zen.inbox = xs ∧
        (∀ n, ((s.bank n).owner = p ∧ (s.bank n).st ≠ .free ∧ (s.bank n).st ≠ .frozen ∧ (s.bank n).st ≠ .scrubbing) ∨
            (n / 512 ∈ pt.members ∧ n / 512 < 1024 ∧ n % 512 < 384 ∧ (s.bank n).st = .free) →
          (u.bank n).st = .scrubbing ∧ (n / 512 % 1024, Instr.scrubComplete n) ∈ u.flight) ∧
        (∀ n, (s.bank n).st = .frozen → (u.bank n).st = .frozen) ∧
        (∀ uid k, sget? uid s.keys = some k → k.part = p → k.st = .active ∨ k.st = .retiring →
          (∃ k', sget? uid u.keys = some k' ∧ k'.st = .revoked ∧ k'.part = p ∧ k'.ident = k.ident) ∧ (1026, Instr.keyInvalidationComplete) ∈ u.flight))) ∧
    (s.vendorAsks r xs 0x11 136 b → field b 4 1 = p → field b 5 3 = 0 → s.onManagement r → ∀ pt, sget? p s.parts = some pt →
      (s.rebuildWaits p = true → exec .partRebuild s = .next (s.setPart p { pt with rebuilding := true })) ∧
      (s.rebuildWaits p = false → pt.members.Nodup → ∃ u stay, s.vendorReply .partRebuild u r b 0 [] ∧ (u.part p).members = stay ∧
        (u.part p).trees = [] ∧ (u.part p).rebuilding = false ∧
        (∀ c, c ∈ stay ↔ c ∈ pt.members ∧ (s.core c).live = true ∧ field b (8 + c / 8) 1 / 2 ^ (c % 8) % 2 = 0) ∧
        (∀ (n c : Nat), stay[n]? = some c → (u.core c).lnum = n ∧ (u.core c).quiesced = false) ∧ (∀ c ∈ pt.members, c ∉ stay → (u.core c).part = 256) ∧
        (u.part p).conts = [] ∧ (∀ e ∈ u.flight, ∀ m, e.2 = .fifoArrival m ∨ e.2 = .rankedArrival m ∨ e.2 = .messageAccepted m → m.part ≠ p) ∧
        (∀ c ∈ stay, (u.core c).sbuf = [] ∧ (u.core c).engine = [] ∧ (u.core c).keptEntries = [] ∧ ∀ e, ((u.core c).cxOf e).strandless) ∧
        u.bmem = s.bmem ∧ u.keys = s.keys ∧ (pt.conts = [] → u.mem = s.mem) ∧
        (∀ x cell, pt.conts = [x] → s.memWf → s.physOf p x.2.cell.toNat = some cell → ∀ a, a < cell + 12 ∨ cell + 16 ≤ a →
          memRead u.mem a = memRead s.mem a) ∧
        (∀ y, y ∈ u.tasks ↔ ∃ x ∈ s.tasks, y = (if x.ref.part = p ∧ x.phase = .running then { x with phase := .trapped } else x)) ∧
        (∀ b c e k, c ∈ stay → (s.bank b).st = .attached c e k → u.bank b = s.bank b))) ∧
    (s.vendorAsks r xs 0x18 5 b → field b 4 1 = p → s.onManagement r → (sget? p s.parts = none → s.vendorReply .partResume (s.taken xs) r b 4 []) ∧
      (∀ pt, sget? p s.parts = some pt → ∃ u, s.vendorReply .partResume u r b 0 [] ∧ u.mem = s.mem ∧ u.parts = s.parts ∧
        ∀ c ∈ pt.members, (s.core c).live = true → u.core c = { s.core c with quiesced := false })) ∧
    (∀ n, s.vendorAsks r xs 0x13 8 b → field b 4 4 = n → s.onManagement r → n < 2 ^ 19 → n % 512 < 384 →
      ((s.bank n).st = .frozen → s.vendorReply .bankRelease (((s.taken xs).setBank n { s.bank n with st := .scrubbing }).enqueue (n / 512 % 1024)
        (.scrubComplete n)) r b 0 []) ∧
      ((s.bank n).st ≠ .frozen → s.vendorReply .bankRelease (s.taken xs) r b 4 [])) ∧
    (∀ st sb t, s.vendorAsks r xs 0x14 7 b → s.onManagement r → st = field b 4 1 → sb = field b 5 1 → t = field b 6 1 → st ≤ 63 → sb ≤ 2 → 16 ≤ t →
      t ≤ 48 → (s.sub st sb).count < 2 ^ t → s.vendorReply .ideThresh ((s.taken xs).setSub st sb { s.sub st sb with log2T := t }) r b 0 []) ∧
    (s.vendorAsks r xs 0x15 10 b → s.onManagement r → 1 ≤ field b 8 2 → field b 8 2 ≤ 16 → field b 4 4 + field b 8 2 ≤ 2086 →
      s.vendorReply .lifetimeRead (s.taken xs) r b 0 ((List.range (field b 8 2)).flatMap (fun i => s.lifeBytes (field b 4 4 + i)))) ∧
    (∀ pt, s.vendorAsks r xs 0x17 10 b → field b 5 1 = 0 → 1 ≤ field b 8 2 → field b 8 2 ≤ 32 → sget? (field b 4 1) s.parts = some pt →
      s.vendorReply .measLog (s.taken xs) r b 0 (leBytes 2 pt.mlog.length ++
        ((pt.mlog.drop (field b 6 2)).take (field b 8 2)).flatMap (fun x => leBytes 64 x.toNat))) ∧
    (∀ pt va key u, s.vendorAsks r xs 0x19 4112 b → s.onManagement r → field b 4 1 = p → va = field b 8 8 → sget? p s.parts = some pt →
      field b 5 1 ≤ 4 → field b 6 1 = 0 → field b 7 1 = 0 → va % 4096 = 0 → va < 2 ^ 56 →
      (s.quiescent p = false → s.vendorReply .imgLoad (s.taken xs) r b 4 []) ∧
      (s.quiescent p = true → s.vaFree p va 4096 = true → s.keyLoads pt.key = true →
        (∀ up tbl, s.LeadsTo pt.key va 3 pt.tbl (up + 1) tbl → s.macOk (entryPlace (up + 1) tbl va) pt.key = false → ∃ t : State,
          s.vendorReply .imgLoad t r b 1 [] ∧ { t with zen := s.zen } = s ∧ t.zen.inbox = xs ∧ t.counted s 0 4 1) ∧
        ((∃ l, s.leaf p va = some l ∧ l.key = key ∧ ∃ e ∈ pt.exts, e.1 ≤ key ∧ key < e.1 + e.2) →
          ((s.taken xs).useKey pt.key).mapLeaf p va 0 (imageLeaf (field b 5 1) key) = .ok u → u.memWf → ∃ t,
          s.vendorReply .imgLoad t r b 0 [] ∧ t.cores = u.cores ∧ (t.part p).image = (u.part p).image ++ b.drop 16 ∧
          ∀ x, memRead t.mem x = if key ≤ x ∧ x < key + 4096 then b.getD (16 + x - key) 0 else memRead u.mem x))) ∧
    (∀ sites, s.vendorAsks r xs 0x10 320 b → s.onManagement r → field b 4 1 = p → createBad b = false →
      sites = (rectSites (field b 8 1) (field b 9 1) (field b 10 1) (field b 11 1)).filter (fun c => (s.core c).live) →
      (sites.length ≤ field b 12 2 → s.vendorReply .partCreate (s.taken xs) r b 1 []) ∧
      (field b 12 2 < sites.length → (sget? p s.parts).isSome = true → s.vendorReply .partCreate (s.taken xs) r b 2 []) ∧
      (field b 12 2 < sites.length → sget? p s.parts = none →
        ((∃ c ∈ sites, (s.core c).part ≠ 256) → s.vendorReply .partCreate (s.taken xs) r b 3 []) ∧
        ((∀ c ∈ sites, (s.core c).part = 256 ∧ s.fieldHeld c = false ∧ s.fieldScrubs c = false) → s.parts = [] → 2 ^ 20 ≤ field b 312 8 →
          s.storeHasRoom → ∃ u,
          s.vendorReply .partCreate u r b 0 [BitVec.ofNat 8 p] ∧ (u.part p).members = sites ∧ (u.part p).sup = field b 12 2 ∧
          (u.part p).encs = field b 6 1 ∧ (u.part p).supEnc = field b 5 1 ∧ (u.part p).iface = .unlocked ∧
          (∃ k, sget? (u.part p).key u.keys = some k ∧ k.ident = 0 ∧ k.part = p ∧ k.st = .active ∧ k.secret.length = 32) ∧
          (∀ a, (u.part p).tbl ≤ a → a < (u.part p).tbl + 2 ^ 20 → s.memWf → memRead u.mem a = 0) ∧
          (∀ (n c : Nat), sites[n]? = some c → (u.core c).part = p ∧ (u.core c).lnum = n ∧ (u.core c).run = .idle ∧ (u.core c).quiesced = true ∧
            (u.core c).encs = field b 6 1) ∧
          ∀ (c e n : Nat), c ∈ sites → 16 * field b 6 1 ≤ (s.freeField c).length → e < field b 6 1 → 496 ≤ n → n < 512 →
            ∃ k, k / 512 = c ∧ (s.bank k).st = .free ∧ u.slotEntry c e n = mkSlot 1 7 false (u.core c).lnum k ∧
              (u.bank k).st = .attached c e n))) ∧
    (∀ id low, s.vendorAsks r xs 1 168 b → field b 4 2 = p → p ≤ 255 → field b 6 2 ≤ 4095 → s.onPartition r p → s.ifaceRun p = true →
      r.requester ∈ s.zen.measured → (s.part p).dbg = [] → s.storeHasRoom → low < 4095 → s.idUsed (low + 1) = false →
      (∀ j, j < low → s.idUsed (j + 1) = true) → id = (if field b 6 2 = 0 then low + 1 else field b 6 2) →
      (s.idUsed id = true → s.vendorReply .keyProg (s.taken xs) r b 4 []) ∧
      (s.idUsed id = false → ∃ u k, s.vendorReply .keyProg u r b 0 (leBytes 2 id) ∧ u.onlyKeys (s.taken xs) ∧ u.nextUid = s.nextUid + 1 ∧
        sget? s.nextUid u.keys = some k ∧ k.ident = id ∧ k.part = p ∧ k.st = .provisioned ∧ k.resident = true ∧ k.secret = (b.drop 136).take 32 ∧
        r.sess = some k.sess ∧ k.m4 = BitVec.ofNat 512 (field b 8 64) ∧ k.m5 = BitVec.ofNat 512 (field b 72 64))) ∧
    (s.vendorAsks r xs 1 168 b → field b 4 2 = p → p ≤ 255 → field b 6 2 ≤ 4095 → s.onPartition r p →
      (s.ifaceRun p = false ∨ r.requester ∉ s.zen.measured ∨ (s.part p).dbg ≠ [] → s.vendorReply .keyProg (s.taken xs) r b 4 []) ∧
      (s.ifaceRun p = true → r.requester ∈ s.zen.measured → (s.part p).dbg = [] →
        ((∀ id, 1 ≤ id → id ≤ 4095 → s.idUsed id = true) → s.vendorReply .keyProg (s.taken xs) r b 2 []) ∧
        (∀ id, 1 ≤ id → id ≤ 4095 → s.idUsed id = false → field b 6 2 = 0 ∨ s.idUsed (field b 6 2) = false →
          192 ≤ (s.keys.filter (fun x => x.2.resident && !(x.2.resident && (x.2.st == .active || x.2.st == .retiring)))).length →
          s.vendorReply .keyProg (s.taken xs) r b 2 []))) ∧
    (∀ uid k, field b 4 2 = p → p ≤ 255 → 1 ≤ field b 6 2 → field b 6 2 ≤ 4095 → s.onPartition r p → s.ifaceRun p = true →
      s.tenantKey p (field b 6 2) = some (uid, k) →
      (s.vendorAsks r xs 2 8 b →
        (k.st ≠ .provisioned ∨ r.sess ≠ some k.sess → s.vendorReply .keyActivate (s.taken xs) r b 4 []) ∧
        (k.st = .provisioned → r.sess = some k.sess →
          (k.m4 ≠ (s.part p).block4 ∨ k.m5 ≠ (s.part p).block5 → s.vendorReply .keyActivate (s.taken xs) r b 6 []) ∧
          (k.m4 = (s.part p).block4 → k.m5 = (s.part p).block5 →
            s.vendorReply .keyActivate { s.taken xs with keys := sset uid { k with st := .active } s.keys } r b 0 []))) ∧
      (s.vendorAsks r xs 3 8 b → (k.st ≠ .active → s.vendorReply .keyRetire (s.taken xs) r b 4 []) ∧
        (k.st = .active → s.vendorReply .keyRetire { s.taken xs with keys := sset uid { k with st := .retiring } s.keys } r b 0 [])) ∧
      (s.vendorAsks r xs 4 8 b → (k.st = .provisioned → s.vendorReply .keyRevoke { s.taken xs with keys := sdel uid s.keys } r b 0 []) ∧
        (k.st = .revoked → s.vendorReply .keyRevoke (s.taken xs) r b 4 []) ∧
        (k.st = .active ∨ k.st = .retiring → sget? uid s.keys = some k → (∀ c, (s.core c).run ≠ .waiting (.key uid)) → s.vendorReply .keyRevoke (State.enqueue { s.taken xs with
          keys := sset uid { k with st := .revoked } s.keys } 1026 .keyInvalidationComplete) r b 0 []))) ∧
    (∀ e n c act, s.vendorAsks r xs 0x16 20 b → s.onManagement r → debugAsks b p e act n → (sget? p s.parts).isSome = true → e < (s.part p).encs → e ≤ 6 →
      (act = 1 → (∃ x ∈ s.keys, x.2.part = p ∧ x.2.ident ≠ 0 ∧ (x.2.st = .provisioned ∨ x.2.st = .active ∨ x.2.st = .retiring)) →
        s.vendorReply .debugEnable (s.taken xs) r b 4 []) ∧
      (act = 1 → (∀ x ∈ s.keys, x.2.part = p → x.2.ident ≠ 0 → x.2.st = .revoked ∨ x.2.st = .empty) → ∃ u, s.vendorReply .debugEnable u r b 0 [] ∧
        { u with parts := s.parts } = s.taken xs ∧ ∀ x, x ∈ (u.part p).dbg ↔ x ∈ (s.part p).dbg ∨ x = e) ∧
      (act = 0 → ∃ u, s.vendorReply .debugDisable u r b 0 [] ∧ u.mem = s.mem ∧ u.flight = s.flight ∧ e ∉ (u.part p).dbg ∧
        ∀ m ∈ (s.part p).members, (s.part p).members.Nodup → (s.core m).enc = e → s.goesOn m (u.core m)) ∧
      ((∀ m, ¬ s.haltedAt p e n m) → (act = 2 → s.vendorReply .debugResume (s.taken xs) r b 4 []) ∧
        (act = 3 → field b 10 1 = 0 → field b 11 1 ≤ 15 → s.vendorReply .debugReadRegister (s.taken xs) r b 4 []) ∧
        (act = 4 → field b 10 1 = 0 → field b 11 1 ≤ 15 → s.vendorReply .debugWriteRegister (s.taken xs) r b 4 [])) ∧
      (act = 3 → (field b 10 1 = 0 ∧ 15 < field b 11 1) ∨ (field b 10 1 = 1 ∧ (field b 11 1 = 15 ∨ 31 < field b 11 1)) ∨ 1 < field b 10 1 →
        s.vendorReply .debugReadRegister (s.taken xs) r b 1 []) ∧
      (act = 4 → field b 10 1 ≠ 0 ∨ 15 < field b 11 1 → s.vendorReply .debugWriteRegister (s.taken xs) r b 1 []) ∧
      (s.haltedAt p e n c →
        (∀ x k, x = (s.core c).cx → act = 3 → field b 10 1 = 1 → k = (s.core c).setCx x →
          (∀ v, (field b 11 1, v) ∈ [(0, x.wp), (1, BitVec.ofNat 64 (x.hbDef + (s.core c).left * 2 ^ 32)), (2, x.sbm), (4, (s.core c).cid),
              (5, (s.core c).nbr), (6, BitVec.ofNat 64 (max 1 Config.fuseRev.toNat + Config.fuseStep.toNat * 256)), (8, x.cwp[0]), (9, x.cwp[1]),
              (10, x.cwp[2]), (11, x.cwp[3]), (12, x.vtype), (13, x.bs), (14, x.smc)] →
            s.vendorReply .debugReadRegister ((s.taken xs).setCore c k) r b 0 (leBytes 8 v.toNat)) ∧
          (∀ j : Fin 16, field b 11 1 = 16 + j.val → s.vendorReply .debugReadRegister ((s.taken xs).setCore c k) r b 0 (leBytes 8 x.fmt[j].toNat)) ∧
          (field b 11 1 = 3 → s.vendorReply .debugReadRegister ((s.taken xs).setCore c ((s.core c).setCx { x with sbcnt := 0 })) r b 0
            (leBytes 8 (BitVec.ofNat 64 x.sbcnt : Word).toNat)) ∧
          (field b 11 1 = 7 → s.vendorReply .debugReadRegister ((s.taken xs).setCore c ((s.core c).setCx { x with kmc := 0 })) r b 0
            (leBytes 8 (BitVec.ofNat 64 x.kmc : Word).toNat))) ∧
        (act = 2 → ∃ k, s.vendorReply .debugResume ((s.taken xs).setCore c k) r b 0 [] ∧ s.goesOn c k) ∧
        (∀ j : Fin 16, act = 3 → field b 10 1 = 0 → field b 11 1 = j.val →
          s.vendorReply .debugReadRegister (s.taken xs) r b 0 (leBytes 8 ((s.core c).getG j).toNat)) ∧
        (∀ j : Fin 16, act = 4 → field b 10 1 = 0 → field b 11 1 = j.val → s.vendorReply .debugWriteRegister ((s.taken xs).setCore c
          ((s.core c).setG j (BitVec.ofNat 64 (field b 12 8)))) r b 0 [])))) ∧
  (∀ (s : State) (uid : Nat) (k : Key), s.me.run = .waiting (.key uid) → sget? uid s.keys = some k →
    (k.resident = true → exec .keyReload s = .next (s.setMe { s.me with run := .running })) ∧
    (k.resident = false → (s.keys.filter (fun x => x.2.resident)).length < 256 → ∃ t, exec .keyReload s = .next t ∧
      t = { s.setMe { s.me with run := .running } with keys := t.keys } ∧ (sget? uid t.keys).map (·.resident) = some true) ∧
    (k.resident = false → 256 ≤ (s.keys.filter (fun x => x.2.resident)).length →
      (∀ v kv, s.leastUsed v kv → ∃ t, exec .keyReload s = .next t ∧ t = { s.setMe { s.me with run := .running } with keys := t.keys } ∧
        (sget? uid t.keys).map (·.resident) = some true ∧ sget? v t.keys = some { kv with resident := false } ∧
        ∀ w, w ≠ v → w ≠ uid → sget? w t.keys = sget? w s.keys) ∧
      ((∀ w kw, (w, kw) ∈ s.keys → kw.resident = true → kw.st = .active ∨ kw.st = .retiring → s.keyBusy w = true) →
        exec .keyReload s = .next (s.enqueue s.cur .keyReload)))) ∧
  (∀ (s : State), (∀ x ∈ s.keys, x.2.st ≠ .revoked) → exec .keyInvalidationComplete s = .next s) ∧
  (∀ (s : State) (uid : Nat) (k : Key), s.keys.find? (fun x => x.2.st == .revoked) = some (uid, k) → ∃ t, exec .keyInvalidationComplete s = .next t ∧
    t = { s with keys := sdel uid s.keys, flight := t.flight } ∧
    ∀ e, e ∈ t.flight ↔ e ∈ s.flight ∧ ∀ x cells, e.2 = .accessPerformed x → x.uid = uid → x.kind ≠ .store cells ∧ x.kind ≠ .vstore cells)

/-- R39, R155, R294 to R296, R302, R304, R305, R309 to R313: what comes from outside and what happens to the device: host
submissions, link keys, invalidations, errors, power and the records that count them. What the self-tests and fuses say is
opaque (log 27). A host record that the checks of R121 refuse is discarded, and Zenith writes or keeps its trap record with
SRC 0x7ff. These clauses are the model's choices: the records' layout (log 53), that a strand's write past the four queue
pages is ignored, that CORE of a refused record holds the partition alone and its FADDR, LEFT and USED are 0 (log 33), that a ring which FQSET has not set counts as
full (log 12), what stays in memory at loss of power (log 56), ORIG of a host record (log 10), the two key sets
of a sub-stream (log 76), and that an event whose condition does not hold changes nothing (log 29). -/
def Obligations.DeviceEvents : Prop :=
  (∀ (s : State) (xs : List HostIn),
    (∀ w, s.inboxHas (.write w) xs → s.postedByHost = true → exec .hostSubmit s = .next s) ∧
    (∀ w q c pt, s.inboxHas (.write w) xs → s.postedByHost = false → sget? w.part s.parts = some pt →
      (pt.iface ≠ .run → exec .hostSubmit s = .next (s.taken xs)) ∧
      (pt.iface = .run → w.bytes.length ≠ 64 ∨ w.off % 64 ≠ 0 → exec .hostSubmit s =
        .next ((s.taken xs).setPart w.part { pt with hdrop := min (2 ^ 64 - 1) (pt.hdrop + 1) })) ∧
      (pt.iface = .run → w.bytes.length = 64 → w.off % 64 = 0 → 0x4000 ≤ w.off → exec .hostSubmit s = .next (s.taken xs)) ∧
      (pt.iface = .run → w.bytes.length = 64 → w.off % 64 = 0 → w.off < 0x4000 → q = Fin.ofNat 4 (w.off / 4096) →
        (pt.credits[q] = 0 → exec .hostSubmit s = .next ((s.taken xs).setPart w.part { pt with hdrop := min (2 ^ 64 - 1) (pt.hdrop + 1) })) ∧
        (pt.credits[q] ≠ 0 → s.siteOf w.part pt.sup = some c → ∀ r, r = (BitVec.ofNat 512 (leNat w.bytes) : Record) →
          s.recordBad w.part pt.supEnc r = none → ∃ t m, exec .hostSubmit s = .next t ∧ t.mem = s.mem ∧ t.cores = s.cores ∧
          t.part w.part = { pt with credits := pt.credits.set q (pt.credits[q] - 1), hcount := (pt.hcount + 1) % 2 ^ 32 } ∧
          t.flight = s.flight ++ [(c, s.arrivalOf m)] ∧ m.part = w.part ∧ m.enc = pt.supEnc ∧ m.site = c ∧ m.queue = q ∧ m.src = 0x7ff ∧
          m.seq = pt.hcount ∧ hasOrig r m.record (Config.freeWord s.free).toNat) ∧
        (pt.credits[q] ≠ 0 → s.siteOf w.part pt.sup = some c → ∀ r cause, r = (BitVec.ofNat 512 (leNat w.bytes) : Record) →
          s.refusesRecord w.part pt.supEnc r cause → ∃ x, refusedRecord w.part pt.hcount cause r x ∧
          (∀ ctl slot v, pt.zrecs = [] → pt.kept = [] → pt.conts = [] → s.tasks = [] → s.memWf → s.faultRoom w.part = some (ctl, slot, v) →
            slot + 64 ≤ ctl ∨ ctl + 16 ≤ slot → ∃ t, exec .hostSubmit s = .next t ∧ t.cores = s.cores ∧ t.flight = s.flight ∧ t.zen.inbox = xs ∧
            memNat t.mem slot 64 = x.toNat ∧ memNat t.mem ctl 8 = (memNat s.mem ctl 8 + 1) % 2 ^ 64 ∧
            memNat t.mem (ctl + 8) 4 = (v + 1) % 2 ^ 32 ∧ (t.part w.part).credits = pt.credits ∧ (t.part w.part).hcount = pt.hcount) ∧
          (pt.zrecs.length < 16 → pt.zrecs ≠ [] ∨ s.faultRoom w.part = none → ∃ t, exec .hostSubmit s = .next t ∧ t.cores = s.cores ∧
            t.mem = s.mem ∧ t.flight = s.flight ∧ (t.part w.part).zrecs = pt.zrecs ++ [x] ∧ (t.part w.part).credits = pt.credits) ∧
          (16 ≤ pt.zrecs.length → exec .hostSubmit s =
            .next ((s.taken xs).setPart w.part { pt with hdrop := min (2 ^ 64 - 1) (pt.hdrop + 1) }))))) ∧
    (∀ st sb, s.inboxHas (.ksetgo st sb) xs → exec .kSetGo s = .next ((s.taken xs).setSub st sb { s.sub st sb with
      count := 0, due := false, active := 1 - (s.sub st sb).active % 2 })) ∧
    (∀ page, s.inboxHas (.ats page) xs → exec .atsInvalidation s = .next (State.enqueue { s with zen := { s.zen with
      inbox := xs, ats := s.zen.ats ++ [page] } } 1026 .atsInvalidationComplete)) ∧
    (∀ v, s.inboxHas (.evtail v) xs → (s.zen.evTail ≤ v → v ≤ s.zen.evHead →
        exec .evtailWrite s = .next { s with zen := { s.zen with inbox := xs, evTail := v } }) ∧
      (v < s.zen.evTail ∨ s.zen.evHead < v → exec .evtailWrite s = .next (s.taken xs))) ∧
    (∀ port, s.inboxHas (.cirrus port) xs → ∃ t, exec .cirrusLinkBringup s = .next t ∧
      { t with zen := { t.zen with cirrus := s.zen.cirrus } } = s.taken xs ∧ ∀ x, x ∈ t.zen.cirrus ↔ x ∈ s.zen.cirrus ∨ (x = port ∧ port < 12)) ∧
    (∀ c, s.inboxHas (.corrected (.cache c)) xs → ∃ t, exec .correctedError s = .next t ∧ t.counted s (1 + c) 0 1 ∧ t.cores = s.cores ∧ t.mem = s.mem) ∧
    (∀ b, s.inboxHas (.corrected (.bank b)) xs → ∃ t, exec .correctedError s = .next t ∧ t.counted s (1 + b / 512 % 1024) 0 1 ∧
      t.counted s (2 ^ 18 + b / 64) (b % 64) 1 ∧ t.cores = s.cores ∧ t.mem = s.mem ∧ t.bmem = s.bmem) ∧
    (∀ port, s.inboxHas (.corrected (.cirrus port)) xs → ∃ t, exec .correctedError s = .next t ∧ t.counted s 0 3 1 ∧ t.cores = s.cores ∧
      t.mem = s.mem) ∧
    (∀ die n, s.inboxHas (.stretch die n) xs → ∃ t, exec .clockStretch s = .next t ∧ { t with zen := s.zen } = s ∧ t.zen.cyc = s.zen.cyc ∧
      (1 ≤ n → die < 18 → t.counted s (2067 + die) (16 + min 10 (Nat.log2 n)) 1))) ∧
  (∀ s : State, (∃ line site, exec .directoryOverflow s = .next { s.setMe { s.me with sharers := s.me.sharers ++ [(line, site)] } with
      free := s.free + 2 } ∧ site < 1024) ∧
    (∀ die temp droop, die < 18 → s.zen.dead = false → (115 ≤ temp → ∃ t, s.turn (.sense die temp droop) = .next t ∧ t.zen.dead = true) ∧
      (100 < temp → temp < 115 → ∃ t n, s.turn (.sense die temp droop) = .next t ∧ t.zen.inbox = s.zen.inbox ++ [.stretch die (n + 1)] ∧
        t.cores = s.cores)) ∧
    (∀ page rest, s.zen.ats = page :: rest →
      (s.pageBusy page = true → exec .atsInvalidationComplete s = .next (s.enqueue 1026 .atsInvalidationComplete)) ∧
      (s.pageBusy page = false → exec .atsInvalidationComplete s = .next { s with zen := { s.zen with ats := rest }, out := s.out ++ [.atsDone page] })) ∧
    ((∀ x ∈ s.zen.subs, x.2.due = true ∨ x.2.count < 2 ^ x.2.log2T) → exec .ideRekeyDue s = .next s) ∧
    (∀ k x, s.zen.subs = [(k, x)] → x.due = false → 2 ^ x.log2T ≤ x.count → ∃ t, exec .ideRekeyDue s = .next t ∧
      t.zen.subs = [(k, { x with due := true })] ∧ t.reports s .rekeyDue 0 0xff k ∧ t.mem = s.mem ∧ t.cores = s.cores) ∧
    ((∀ x ∈ s.zen.subs, x.2.count < 2 ^ x.2.log2T + 2 ^ 20 ∨ x.1 / 4 ∈ s.zen.insecure) → exec .ideInsecure s = .next s) ∧
    (∀ k x iface pt, s.zen.subs = [(k, x)] → 2 ^ x.log2T + 2 ^ 20 ≤ x.count → k / 4 ∉ s.zen.insecure → sget? (k / 4) s.zen.streams = some iface →
      iface ≠ 0 → sget? (iface - 1) s.parts = some pt → exec .ideInsecure s = .next (State.setPart { s with zen := { s.zen with
        insecure := s.zen.insecure ++ [k / 4] } } (iface - 1) { pt with iface := .error })) ∧
    (s.me.live = true → ∃ t, exec .fatalCoreError s = .next t ∧ (t.core s.cur).run = .failed ∧ t.mem = s.mem ∧ t.bmem = s.bmem ∧
      t.reports s .fatalCore s.cur (if s.me.part = 256 then 0xff else s.me.part) 0 ∧ t.counted s (1 + s.cur) 1 1 ∧
      (∀ b e n, (s.bank b).st = .attached s.cur e n → (t.bank b).st = .frozen) ∧ ∀ c, c ≠ s.cur → (t.core c).run = (s.core c).run) ∧
    (s.me.live = false → exec .fatalCoreError s = .next s) ∧
    (∀ i, i = Instr.meshLinkFailure ∨ i = Instr.thermalTrip → ∃ t, exec i s = .next t ∧ t.zen.dead = true ∧ t.mem = s.mem ∧ t.bmem = s.bmem ∧
      t.reports s .fatalDevice s.cur 0xff 0 ∧ t.counted s 0 2 1 ∧ ∀ c, (s.core c).live = true → (t.core c).run = .stopped) ∧
    (s.zen.flushed + 2 ^ 36 ≤ s.zen.cyc → ∃ t, exec .lifetimeFlush s = .next t ∧ { t with zen := s.zen } = s ∧ t.zen.life = [] ∧
      t.zen.flushed = s.zen.cyc ∧ ∀ k n, s.zen.life = [(k, n)] → sget 0 k t.zen.lifeStored = min (2 ^ 32 - 1) (sget 0 k s.zen.lifeStored + n)) ∧
    (s.zen.cyc < s.zen.flushed + 2 ^ 36 → exec .lifetimeFlush s = .next s) ∧
    (∃ t, exec .lossOfPower s = .next t ∧ t.cores = [] ∧ t.parts = [] ∧ t.banks = [] ∧ t.bmem = [] ∧ t.keys = [] ∧ t.tasks = [] ∧ t.flight = [] ∧
      t.zen = { Zenith.reset with lifeStored := s.zen.lifeStored } ∧ t.mem = s.mem.filter (fun c => decide (2 ≤ c.1 / 2 ^ 50))) ∧
    (∃ t, exec .powerDown s = .next t ∧ t.cores = [] ∧ t.parts = [] ∧ t.bmem = [] ∧ t.flight = [] ∧ t.zen.life = [] ∧
      ∀ k n, s.zen.life = [(k, n)] → sget 0 k t.zen.lifeStored = min (2 ^ 32 - 1) (sget 0 k s.zen.lifeStored + n)) ∧
    (Config.fuseReadOk s.free = false → ∃ t, exec .powerOn s = .next t ∧ t.zen.dead = true ∧ t.zen.ready = false ∧ t.cores = []) ∧
    (∀ live, Config.fuseReadOk s.free = true →
      live = (List.range 1024).filter (fun c => Config.siteEnabled c && Config.selfTestOk s.free c) →
      (live.length < 1000 → ∃ t, exec .powerOn s = .next t ∧ t.zen.dead = true) ∧
      (1000 ≤ live.length → ∃ t, exec .powerOn s = .next t ∧ t.zen.ready = true ∧ t.zen.bootCore = live.headD 0 ∧ t.parts = [] ∧ t.flight = [] ∧
        t.cores.map (·.1) = live ∧ (∀ c ∈ live, (t.core c).run = (if Config.monitorDigestOk c = true then .idle else .failed) ∧
          (t.core c).part = 256) ∧ (∀ c, c < 1024 → t.zen.siteMap[c]? = some ⟨c % 32, c / 32, Config.siteEnabled c,
            Config.siteEnabled c && Config.selfTestOk s.free c⟩) ∧ t.zen.routed = List.range 1024 ∧ t.zen.bootTree ≠ none ∧ t.zen.failedTest = (List.range 1024).filter (fun c => Config.siteEnabled c && !Config.selfTestOk s.free c))))
end

