-- ==== Sys2Proof/Laws/Memory.lean ====
section
/-! SUPPORT. The laws of memory: reading back what was written, the frame of a write, and that every
operation that changes a memory keeps its canonical form (log 1). -/

namespace Sys2Proof.Machine

/-! ### One byte -/

theorem memWfFrom_mono {m : List Host.Cell} {lo lo' : Nat} (h : lo' ≤ lo) (hm : memWfFrom lo m = true) :
    memWfFrom lo' m = true := by
  cases m with
  | nil => rfl
  | cons x m =>
    obtain ⟨j, b⟩ := x
    simp only [memWfFrom, Bool.and_eq_true, decide_eq_true_eq] at hm ⊢
    exact ⟨⟨Nat.le_trans h hm.1.1, hm.1.2⟩, hm.2⟩

/-- Below its first listed address a memory reads 0. -/
theorem memRead_below {m : List Host.Cell} {lo a : Nat} (hm : memWfFrom lo m = true) (h : a < lo) : memRead m a = 0 := by
  cases m with
  | nil => rfl
  | cons x m =>
    obtain ⟨j, b⟩ := x
    simp only [memWfFrom, Bool.and_eq_true, decide_eq_true_eq] at hm
    have : j ≠ a := by omega
    have : a < j := by omega
    simp [memRead, *]

theorem memWrite_wfFrom {m : List Host.Cell} (a : Nat) (v : Byte) {lo : Nat} (hm : memWfFrom lo m = true) (h : lo ≤ a) :
    memWfFrom lo (memWrite a v m) = true := by
  induction m generalizing lo with
  | nil => by_cases hv : v = 0#8 <;> simp [memWrite, memWfFrom, hv, h]
  | cons x m ih =>
    obtain ⟨j, b⟩ := x
    simp only [memWfFrom, Bool.and_eq_true, decide_eq_true_eq, bne_iff_ne] at hm
    by_cases h1 : j = a
    · subst h1
      by_cases hv : v = 0#8
      · simpa [memWrite, hv] using memWfFrom_mono (by omega) hm.2
      · simp [memWrite, memWfFrom, hv, hm.1.1, hm.2]
    · by_cases h2 : a < j
      · by_cases hv : v = 0#8
        · simp [memWrite, memWfFrom, h1, h2, hv, hm.1.1, show b ≠ 0#8 from hm.1.2, hm.2]
        · have : a + 1 ≤ j := h2
          simp [memWrite, memWfFrom, h1, h2, hv, h, this, show b ≠ 0#8 from hm.1.2, hm.2]
      · have : j + 1 ≤ a := by omega
        simp [memWrite, memWfFrom, h1, h2, hm.1.1, show b ≠ 0#8 from hm.1.2, ih hm.2 this]

/-- A write keeps the canonical form. -/
theorem memWrite_wf (a : Nat) (v : Byte) {m : List Host.Cell} (hm : Memory.wf m = true) : Memory.wf (memWrite a v m) = true :=
  memWrite_wfFrom a v hm (Nat.zero_le a)

theorem memRead_memWriteFrom {m : List Host.Cell} (a : Nat) (v : Byte) {lo : Nat} (hm : memWfFrom lo m = true) (x : Nat) :
    memRead (memWrite a v m) x = if x = a then v else memRead m x := by
  induction m generalizing lo with
  | nil =>
    by_cases hv : v = 0#8
    · simp [memWrite, hv, memRead]
    · by_cases h : x = a
      · simp [memWrite, hv, memRead, h]
      · simp [memWrite, hv, memRead, h, Ne.symm h]
  | cons y m ih =>
    obtain ⟨j, b⟩ := y
    have hm' := hm
    simp only [memWfFrom, Bool.and_eq_true, decide_eq_true_eq, bne_iff_ne] at hm'
    have below : ∀ z, z ≤ j → memRead m z = 0 := fun z hz => memRead_below hm'.2 (by omega)
    by_cases h1 : j = a
    · subst h1
      by_cases hv : v = 0#8
      · subst hv
        by_cases hx : x = j
        · simp [memWrite, hx, below]
        · by_cases hlt : x < j
          · have : j ≠ x := by omega
            simp [memWrite, hx, memRead, this, hlt, below x (by omega)]
          · have : j ≠ x := by omega
            simp [memWrite, hx, memRead, this, hlt]
      · by_cases hx : x = j
        · simp [memWrite, hv, memRead, hx]
        · simp [memWrite, hv, memRead, hx, Ne.symm hx]
    · by_cases h2 : a < j
      · by_cases hv : v = 0#8
        · subst hv
          by_cases hx : x = a
          · subst hx; simp [memWrite, h1, h2, memRead]
          · simp [memWrite, h1, h2, hx]
        · by_cases hx : x = a
          · subst hx; simp [memWrite, h1, h2, hv, memRead]
          · by_cases hlt : x < a
            · have e1 : j ≠ x := by omega
              have e2 : x < j := by omega
              simp [memWrite, h1, h2, hv, memRead, hx, Ne.symm hx, hlt, e1, e2]
            · simp [memWrite, h1, h2, hv, memRead, hx, Ne.symm hx, hlt]
      · by_cases hx : j = x
        · subst hx
          simp [memWrite, h1, h2, memRead]
        · by_cases hlt : x < j
          · have : x ≠ a := by omega
            simp [memWrite, h1, h2, memRead, hx, hlt, this]
          · simp [memWrite, h1, h2, memRead, hx, hlt, ih hm'.2]

/-- Read after write: the byte written, and every other byte as before. -/
theorem memRead_memWrite {m : List Host.Cell} (a : Nat) (v : Byte) (hm : Memory.wf m = true) (x : Nat) :
    memRead (memWrite a v m) x = if x = a then v else memRead m x :=
  memRead_memWriteFrom a v hm x

/-! ### Many bytes -/

theorem memCells_wf (cs : List (Nat × Byte)) {m : List Host.Cell} (hm : Memory.wf m = true) : Memory.wf (memCells cs m) = true := by
  induction cs generalizing m with
  | nil => exact hm
  | cons c cs ih => obtain ⟨a, b⟩ := c; exact ih (memWrite_wf a b hm)

/-- A byte that the writes do not name reads as before. -/
theorem memRead_memCells_other (cs : List (Nat × Byte)) {m : List Host.Cell} (hm : Memory.wf m = true) (x : Nat)
    (h : ∀ c ∈ cs, c.1 ≠ x) : memRead (memCells cs m) x = memRead m x := by
  induction cs generalizing m with
  | nil => rfl
  | cons c cs ih =>
    obtain ⟨a, b⟩ := c
    have ha : x ≠ a := fun e => h (a, b) (by simp) e.symm
    rw [memCells, ih (memWrite_wf a b hm) (fun c hc => h c (by simp [hc])), memRead_memWrite a b hm, if_neg ha]

/-- The addresses of consecutive bytes. -/
theorem mem_cellsAt {a : Nat} {bs : List Byte} {c : Nat × Byte} (h : c ∈ cellsAt a bs) : a ≤ c.1 ∧ c.1 < a + bs.length := by
  induction bs generalizing a with
  | nil => simp [cellsAt] at h
  | cons b bs ih =>
    simp only [cellsAt, List.mem_cons] at h
    rcases h with rfl | h
    · simp
    · have := ih h; simp only [List.length_cons]; omega

/-- Consecutive bytes written: byte j where it was written, and every other byte as before. -/
theorem memRead_cellsAt (a : Nat) (bs : List Byte) {m : List Host.Cell} (hm : Memory.wf m = true) (x : Nat) :
    memRead (memCells (cellsAt a bs) m) x = if a ≤ x ∧ x < a + bs.length then bs.getD (x - a) 0 else memRead m x := by
  induction bs generalizing a m with
  | nil =>
    have : ¬ (a ≤ x ∧ x < a + ([] : List Byte).length) := by simp
    rw [if_neg this]; rfl
  | cons b bs ih =>
    rw [cellsAt, memCells, ih (a + 1) (memWrite_wf a b hm), memRead_memWrite a b hm]
    by_cases h1 : x = a
    · subst h1; simp
    · by_cases h2 : a + 1 ≤ x ∧ x < a + 1 + bs.length
      · have h3 : a ≤ x ∧ x < a + (b :: bs).length := by simp only [List.length_cons]; omega
        obtain ⟨k, hk⟩ : ∃ k, x - a = k + 1 := ⟨x - a - 1, by omega⟩
        have : x - (a + 1) = k := by omega
        rw [if_pos h2, if_pos h3, hk, this]; simp
      · have h3 : ¬ (a ≤ x ∧ x < a + (b :: bs).length) := by simp only [List.length_cons]; omega
        rw [if_neg h2, if_neg h3, if_neg h1]

/-- Keeping some of the cells keeps the canonical form. -/
theorem memWfFrom_filter (p : Host.Cell → Bool) {m : List Host.Cell} {lo : Nat} (hm : memWfFrom lo m = true) :
    memWfFrom lo (m.filter p) = true := by
  induction m generalizing lo with
  | nil => rfl
  | cons x m ih =>
    obtain ⟨j, b⟩ := x
    simp only [memWfFrom, Bool.and_eq_true, decide_eq_true_eq] at hm
    by_cases hp : p (j, b) = true
    · simp [hp, memWfFrom, hm.1.1, ih hm.2]
      simpa using hm.1.2
    · simp only [List.filter_cons, hp]
      exact memWfFrom_mono (by omega) (ih hm.2)

theorem wf_filter (p : Host.Cell → Bool) {m : List Host.Cell} (hm : Memory.wf m = true) : Memory.wf (m.filter p) = true :=
  memWfFrom_filter p hm

theorem memRead_filter (p : Host.Cell → Bool) (q : Nat → Bool) (hp : ∀ j b, p (j, b) = q j) {m : List Host.Cell} {lo : Nat}
    (hm : memWfFrom lo m = true) (x : Nat) : memRead (m.filter p) x = if q x then memRead m x else 0 := by
  induction m generalizing lo with
  | nil => simp [memRead]
  | cons y m ih =>
    obtain ⟨j, b⟩ := y
    simp only [memWfFrom, Bool.and_eq_true, decide_eq_true_eq] at hm
    have hf : memWfFrom (j + 1) (m.filter p) = true := memWfFrom_filter p hm.2
    by_cases hj : q j = true
    · by_cases h1 : j = x
      · subst h1; simp [hp, hj, memRead]
      · by_cases h2 : x < j
        · simp [hp, hj, memRead, h1, h2]
        · simp [hp, hj, memRead, h1, h2, ih hm.2]
    · by_cases h1 : j = x
      · subst h1
        simp [hp, hj, ih hm.2]
      · by_cases h2 : x < j
        · have := memRead_below hm.2 (show x < j + 1 by omega)
          simp [hp, hj, ih hm.2, memRead, h1, h2, this]
        · simp [hp, hj, ih hm.2, memRead, h1, h2]

/-! ### The operations of the state -/

theorem State.storeCells_wf {s : State} (cs : List (Nat × Byte)) (u : Nat) (h : s.memWf) : (s.storeCells cs u).memWf :=
  ⟨memCells_wf cs h.1, h.2⟩

theorem State.bankCells_wf {s : State} (cs : List (Nat × Byte)) (h : s.memWf) : (s.bankCells cs).memWf :=
  ⟨h.1, memCells_wf cs h.2⟩

theorem State.zeroBank_wf {s : State} (b : Nat) (h : s.memWf) : (s.zeroBank b).memWf := ⟨h.1, wf_filter _ h.2⟩

theorem State.zeroRange_wf {s : State} (lo len : Nat) (h : s.memWf) : (s.zeroRange lo len).memWf := ⟨wf_filter _ h.1, h.2⟩

theorem State.off_wf {s : State} (h : s.memWf) : s.off.memWf := ⟨wf_filter _ h.1, rfl⟩

/-- A change of anything but the memories keeps their form. -/
theorem State.memWf_of_eq {s t : State} (h : s.memWf) (hm : t.mem = s.mem) (hb : t.bmem = s.bmem) : t.memWf := by
  unfold State.memWf; rw [hm, hb]; exact h

theorem State.storeParts_wf {s : State} (ps : List (Nat × List (Nat × Byte))) (h : s.memWf) : (s.storeParts ps).memWf := by
  induction ps generalizing s with
  | nil => exact h
  | cons p ps ih => obtain ⟨u, cs⟩ := p; exact ih (State.storeCells_wf cs u h)

/-- A bank that was cleared reads 0, and every other bank as before (R149). -/
theorem State.zeroBank_read {s : State} (b : Nat) (h : s.memWf) (x : Nat) :
    memRead (s.zeroBank b).bmem x = if x / 4096 = b then 0 else memRead s.bmem x := by
  have := memRead_filter (fun c : Host.Cell => c.1 / 4096 != b) (fun a => a / 4096 != b) (fun _ _ => rfl) h.2 x
  by_cases hx : x / 4096 = b
  · rw [if_pos hx]; simpa [State.zeroBank, hx] using this
  · rw [if_neg hx]; simpa [State.zeroBank, hx] using this

end Sys2Proof.Machine
end

