-- ==== Sys2Proof/Laws/State.lean ====
section
/-! SUPPORT. What each update of the state leaves alone, and reading back what was written. -/

namespace Sys2Proof.Machine

/-! ### Tables -/

theorem sget_sset_same {α : Type} (d : α) (k : Nat) (v : α) (m : SMap α) : sget d k (sset k v m) = v := by
  induction m with
  | nil => simp [sset, sget]
  | cons x m ih =>
    obtain ⟨j, y⟩ := x
    by_cases h : j = k
    · simp [sset, sget, h]
    · simp [sset, sget, h, ih]

theorem sget_sset_other {α : Type} (d : α) (k j : Nat) (v : α) (m : SMap α) (h : j ≠ k) :
    sget d j (sset k v m) = sget d j m := by
  induction m with
  | nil => simp [sset, sget, Ne.symm h]
  | cons x m ih =>
    obtain ⟨i, y⟩ := x
    by_cases hi : i = k
    · subst hi; simp [sset, sget, Ne.symm h]
    · by_cases hj : i = j
      · subst hj; simp [sset, sget, hi]
      · simp [sset, sget, hi, hj, ih]

theorem sset_sset {α : Type} (k : Nat) (v w : α) (m : SMap α) : sset k v (sset k w m) = sset k v m := by
  induction m with
  | nil => simp [sset]
  | cons x m ih =>
    obtain ⟨j, y⟩ := x
    by_cases h : j = k
    · simp [sset, h]
    · simp [sset, h, ih]

theorem sget?_sset_same {α : Type} (k : Nat) (v : α) (m : SMap α) : sget? k (sset k v m) = some v := by
  induction m with
  | nil => simp [sset, sget?]
  | cons x m ih =>
    obtain ⟨j, y⟩ := x
    by_cases h : j = k
    · simp [sset, sget?, h]
    · simp [sset, sget?, h, ih]

theorem sget?_sset_other {α : Type} (k j : Nat) (v : α) (m : SMap α) (h : j ≠ k) :
    sget? j (sset k v m) = sget? j m := by
  induction m with
  | nil => simp [sset, sget?, Ne.symm h]
  | cons x m ih =>
    obtain ⟨i, y⟩ := x
    by_cases hi : i = k
    · subst hi; simp [sset, sget?, Ne.symm h]
    · by_cases hj : i = j
      · subst hj; simp [sset, sget?, hi]
      · simp [sset, sget?, hi, hj, ih]

/-! ### Updates of the device state -/

@[simp] theorem State.setCore_parts (s : State) (c : Nat) (k : Core) : (s.setCore c k).parts = s.parts := rfl
@[simp] theorem State.setCore_banks (s : State) (c : Nat) (k : Core) : (s.setCore c k).banks = s.banks := rfl
@[simp] theorem State.setCore_mem (s : State) (c : Nat) (k : Core) : (s.setCore c k).mem = s.mem := rfl
@[simp] theorem State.setCore_bmem (s : State) (c : Nat) (k : Core) : (s.setCore c k).bmem = s.bmem := rfl
@[simp] theorem State.setCore_seals (s : State) (c : Nat) (k : Core) : (s.setCore c k).seals = s.seals := rfl
@[simp] theorem State.setCore_bpoison (s : State) (c : Nat) (k : Core) : (s.setCore c k).bpoison = s.bpoison := rfl
@[simp] theorem State.setCore_keys (s : State) (c : Nat) (k : Core) : (s.setCore c k).keys = s.keys := rfl
@[simp] theorem State.setCore_nextUid (s : State) (c : Nat) (k : Core) : (s.setCore c k).nextUid = s.nextUid := rfl
@[simp] theorem State.setCore_tasks (s : State) (c : Nat) (k : Core) : (s.setCore c k).tasks = s.tasks := rfl
@[simp] theorem State.setCore_nimbus (s : State) (c : Nat) (k : Core) : (s.setCore c k).nimbus = s.nimbus := rfl
@[simp] theorem State.setCore_zen (s : State) (c : Nat) (k : Core) : (s.setCore c k).zen = s.zen := rfl
@[simp] theorem State.setCore_out (s : State) (c : Nat) (k : Core) : (s.setCore c k).out = s.out := rfl
@[simp] theorem State.setCore_flight (s : State) (c : Nat) (k : Core) : (s.setCore c k).flight = s.flight := rfl
@[simp] theorem State.setCore_agenda (s : State) (c : Nat) (k : Core) : (s.setCore c k).agenda = s.agenda := rfl
@[simp] theorem State.setCore_cur (s : State) (c : Nat) (k : Core) : (s.setCore c k).cur = s.cur := rfl
@[simp] theorem State.setCore_free (s : State) (c : Nat) (k : Core) : (s.setCore c k).free = s.free := rfl
@[simp] theorem State.setMe_parts (s : State) (k : Core) : (s.setMe k).parts = s.parts := rfl
@[simp] theorem State.setMe_banks (s : State) (k : Core) : (s.setMe k).banks = s.banks := rfl
@[simp] theorem State.setMe_mem (s : State) (k : Core) : (s.setMe k).mem = s.mem := rfl
@[simp] theorem State.setMe_bmem (s : State) (k : Core) : (s.setMe k).bmem = s.bmem := rfl
@[simp] theorem State.setMe_seals (s : State) (k : Core) : (s.setMe k).seals = s.seals := rfl
@[simp] theorem State.setMe_bpoison (s : State) (k : Core) : (s.setMe k).bpoison = s.bpoison := rfl
@[simp] theorem State.setMe_keys (s : State) (k : Core) : (s.setMe k).keys = s.keys := rfl
@[simp] theorem State.setMe_nextUid (s : State) (k : Core) : (s.setMe k).nextUid = s.nextUid := rfl
@[simp] theorem State.setMe_tasks (s : State) (k : Core) : (s.setMe k).tasks = s.tasks := rfl
@[simp] theorem State.setMe_nimbus (s : State) (k : Core) : (s.setMe k).nimbus = s.nimbus := rfl
@[simp] theorem State.setMe_zen (s : State) (k : Core) : (s.setMe k).zen = s.zen := rfl
@[simp] theorem State.setMe_out (s : State) (k : Core) : (s.setMe k).out = s.out := rfl
@[simp] theorem State.setMe_flight (s : State) (k : Core) : (s.setMe k).flight = s.flight := rfl
@[simp] theorem State.setMe_agenda (s : State) (k : Core) : (s.setMe k).agenda = s.agenda := rfl
@[simp] theorem State.setMe_cur (s : State) (k : Core) : (s.setMe k).cur = s.cur := rfl
@[simp] theorem State.setMe_free (s : State) (k : Core) : (s.setMe k).free = s.free := rfl
@[simp] theorem State.setCx_parts (s : State) (x : Ctx) : (s.setCx x).parts = s.parts := rfl
@[simp] theorem State.setCx_banks (s : State) (x : Ctx) : (s.setCx x).banks = s.banks := rfl
@[simp] theorem State.setCx_mem (s : State) (x : Ctx) : (s.setCx x).mem = s.mem := rfl
@[simp] theorem State.setCx_bmem (s : State) (x : Ctx) : (s.setCx x).bmem = s.bmem := rfl
@[simp] theorem State.setCx_seals (s : State) (x : Ctx) : (s.setCx x).seals = s.seals := rfl
@[simp] theorem State.setCx_bpoison (s : State) (x : Ctx) : (s.setCx x).bpoison = s.bpoison := rfl
@[simp] theorem State.setCx_keys (s : State) (x : Ctx) : (s.setCx x).keys = s.keys := rfl
@[simp] theorem State.setCx_nextUid (s : State) (x : Ctx) : (s.setCx x).nextUid = s.nextUid := rfl
@[simp] theorem State.setCx_tasks (s : State) (x : Ctx) : (s.setCx x).tasks = s.tasks := rfl
@[simp] theorem State.setCx_nimbus (s : State) (x : Ctx) : (s.setCx x).nimbus = s.nimbus := rfl
@[simp] theorem State.setCx_zen (s : State) (x : Ctx) : (s.setCx x).zen = s.zen := rfl
@[simp] theorem State.setCx_out (s : State) (x : Ctx) : (s.setCx x).out = s.out := rfl
@[simp] theorem State.setCx_flight (s : State) (x : Ctx) : (s.setCx x).flight = s.flight := rfl
@[simp] theorem State.setCx_agenda (s : State) (x : Ctx) : (s.setCx x).agenda = s.agenda := rfl
@[simp] theorem State.setCx_cur (s : State) (x : Ctx) : (s.setCx x).cur = s.cur := rfl
@[simp] theorem State.setCx_free (s : State) (x : Ctx) : (s.setCx x).free = s.free := rfl
@[simp] theorem State.setPart_cores (s : State) (p : Nat) (x : Part) : (s.setPart p x).cores = s.cores := rfl
@[simp] theorem State.setPart_banks (s : State) (p : Nat) (x : Part) : (s.setPart p x).banks = s.banks := rfl
@[simp] theorem State.setPart_mem (s : State) (p : Nat) (x : Part) : (s.setPart p x).mem = s.mem := rfl
@[simp] theorem State.setPart_bmem (s : State) (p : Nat) (x : Part) : (s.setPart p x).bmem = s.bmem := rfl
@[simp] theorem State.setPart_seals (s : State) (p : Nat) (x : Part) : (s.setPart p x).seals = s.seals := rfl
@[simp] theorem State.setPart_bpoison (s : State) (p : Nat) (x : Part) : (s.setPart p x).bpoison = s.bpoison := rfl
@[simp] theorem State.setPart_keys (s : State) (p : Nat) (x : Part) : (s.setPart p x).keys = s.keys := rfl
@[simp] theorem State.setPart_nextUid (s : State) (p : Nat) (x : Part) : (s.setPart p x).nextUid = s.nextUid := rfl
@[simp] theorem State.setPart_tasks (s : State) (p : Nat) (x : Part) : (s.setPart p x).tasks = s.tasks := rfl
@[simp] theorem State.setPart_nimbus (s : State) (p : Nat) (x : Part) : (s.setPart p x).nimbus = s.nimbus := rfl
@[simp] theorem State.setPart_zen (s : State) (p : Nat) (x : Part) : (s.setPart p x).zen = s.zen := rfl
@[simp] theorem State.setPart_out (s : State) (p : Nat) (x : Part) : (s.setPart p x).out = s.out := rfl
@[simp] theorem State.setPart_flight (s : State) (p : Nat) (x : Part) : (s.setPart p x).flight = s.flight := rfl
@[simp] theorem State.setPart_agenda (s : State) (p : Nat) (x : Part) : (s.setPart p x).agenda = s.agenda := rfl
@[simp] theorem State.setPart_cur (s : State) (p : Nat) (x : Part) : (s.setPart p x).cur = s.cur := rfl
@[simp] theorem State.setPart_free (s : State) (p : Nat) (x : Part) : (s.setPart p x).free = s.free := rfl
@[simp] theorem State.setBank_cores (s : State) (b : Nat) (x : Bank) : (s.setBank b x).cores = s.cores := rfl
@[simp] theorem State.setBank_parts (s : State) (b : Nat) (x : Bank) : (s.setBank b x).parts = s.parts := rfl
@[simp] theorem State.setBank_mem (s : State) (b : Nat) (x : Bank) : (s.setBank b x).mem = s.mem := rfl
@[simp] theorem State.setBank_bmem (s : State) (b : Nat) (x : Bank) : (s.setBank b x).bmem = s.bmem := rfl
@[simp] theorem State.setBank_seals (s : State) (b : Nat) (x : Bank) : (s.setBank b x).seals = s.seals := rfl
@[simp] theorem State.setBank_bpoison (s : State) (b : Nat) (x : Bank) : (s.setBank b x).bpoison = s.bpoison := rfl
@[simp] theorem State.setBank_keys (s : State) (b : Nat) (x : Bank) : (s.setBank b x).keys = s.keys := rfl
@[simp] theorem State.setBank_nextUid (s : State) (b : Nat) (x : Bank) : (s.setBank b x).nextUid = s.nextUid := rfl
@[simp] theorem State.setBank_tasks (s : State) (b : Nat) (x : Bank) : (s.setBank b x).tasks = s.tasks := rfl
@[simp] theorem State.setBank_nimbus (s : State) (b : Nat) (x : Bank) : (s.setBank b x).nimbus = s.nimbus := rfl
@[simp] theorem State.setBank_zen (s : State) (b : Nat) (x : Bank) : (s.setBank b x).zen = s.zen := rfl
@[simp] theorem State.setBank_out (s : State) (b : Nat) (x : Bank) : (s.setBank b x).out = s.out := rfl
@[simp] theorem State.setBank_flight (s : State) (b : Nat) (x : Bank) : (s.setBank b x).flight = s.flight := rfl
@[simp] theorem State.setBank_agenda (s : State) (b : Nat) (x : Bank) : (s.setBank b x).agenda = s.agenda := rfl
@[simp] theorem State.setBank_cur (s : State) (b : Nat) (x : Bank) : (s.setBank b x).cur = s.cur := rfl
@[simp] theorem State.setBank_free (s : State) (b : Nat) (x : Bank) : (s.setBank b x).free = s.free := rfl
@[simp] theorem State.enqueue_cores (s : State) (c : Nat) (i : Instr) : (s.enqueue c i).cores = s.cores := rfl
@[simp] theorem State.enqueue_parts (s : State) (c : Nat) (i : Instr) : (s.enqueue c i).parts = s.parts := rfl
@[simp] theorem State.enqueue_banks (s : State) (c : Nat) (i : Instr) : (s.enqueue c i).banks = s.banks := rfl
@[simp] theorem State.enqueue_mem (s : State) (c : Nat) (i : Instr) : (s.enqueue c i).mem = s.mem := rfl
@[simp] theorem State.enqueue_bmem (s : State) (c : Nat) (i : Instr) : (s.enqueue c i).bmem = s.bmem := rfl
@[simp] theorem State.enqueue_seals (s : State) (c : Nat) (i : Instr) : (s.enqueue c i).seals = s.seals := rfl
@[simp] theorem State.enqueue_bpoison (s : State) (c : Nat) (i : Instr) : (s.enqueue c i).bpoison = s.bpoison := rfl
@[simp] theorem State.enqueue_keys (s : State) (c : Nat) (i : Instr) : (s.enqueue c i).keys = s.keys := rfl
@[simp] theorem State.enqueue_nextUid (s : State) (c : Nat) (i : Instr) : (s.enqueue c i).nextUid = s.nextUid := rfl
@[simp] theorem State.enqueue_tasks (s : State) (c : Nat) (i : Instr) : (s.enqueue c i).tasks = s.tasks := rfl
@[simp] theorem State.enqueue_nimbus (s : State) (c : Nat) (i : Instr) : (s.enqueue c i).nimbus = s.nimbus := rfl
@[simp] theorem State.enqueue_zen (s : State) (c : Nat) (i : Instr) : (s.enqueue c i).zen = s.zen := rfl
@[simp] theorem State.enqueue_out (s : State) (c : Nat) (i : Instr) : (s.enqueue c i).out = s.out := rfl
@[simp] theorem State.enqueue_agenda (s : State) (c : Nat) (i : Instr) : (s.enqueue c i).agenda = s.agenda := rfl
@[simp] theorem State.enqueue_cur (s : State) (c : Nat) (i : Instr) : (s.enqueue c i).cur = s.cur := rfl
@[simp] theorem State.enqueue_free (s : State) (c : Nat) (i : Instr) : (s.enqueue c i).free = s.free := rfl
@[simp] theorem State.storeCells_cores (s : State) (cs : List (Nat × Byte)) (u : Nat) : (s.storeCells cs u).cores = s.cores := rfl
@[simp] theorem State.storeCells_parts (s : State) (cs : List (Nat × Byte)) (u : Nat) : (s.storeCells cs u).parts = s.parts := rfl
@[simp] theorem State.storeCells_banks (s : State) (cs : List (Nat × Byte)) (u : Nat) : (s.storeCells cs u).banks = s.banks := rfl
@[simp] theorem State.storeCells_bmem (s : State) (cs : List (Nat × Byte)) (u : Nat) : (s.storeCells cs u).bmem = s.bmem := rfl
@[simp] theorem State.storeCells_bpoison (s : State) (cs : List (Nat × Byte)) (u : Nat) : (s.storeCells cs u).bpoison = s.bpoison := rfl
@[simp] theorem State.storeCells_keys (s : State) (cs : List (Nat × Byte)) (u : Nat) : (s.storeCells cs u).keys = s.keys := rfl
@[simp] theorem State.storeCells_nextUid (s : State) (cs : List (Nat × Byte)) (u : Nat) : (s.storeCells cs u).nextUid = s.nextUid := rfl
@[simp] theorem State.storeCells_tasks (s : State) (cs : List (Nat × Byte)) (u : Nat) : (s.storeCells cs u).tasks = s.tasks := rfl
@[simp] theorem State.storeCells_nimbus (s : State) (cs : List (Nat × Byte)) (u : Nat) : (s.storeCells cs u).nimbus = s.nimbus := rfl
@[simp] theorem State.storeCells_zen (s : State) (cs : List (Nat × Byte)) (u : Nat) : (s.storeCells cs u).zen = s.zen := rfl
@[simp] theorem State.storeCells_out (s : State) (cs : List (Nat × Byte)) (u : Nat) : (s.storeCells cs u).out = s.out := rfl
@[simp] theorem State.storeCells_flight (s : State) (cs : List (Nat × Byte)) (u : Nat) : (s.storeCells cs u).flight = s.flight := rfl
@[simp] theorem State.storeCells_agenda (s : State) (cs : List (Nat × Byte)) (u : Nat) : (s.storeCells cs u).agenda = s.agenda := rfl
@[simp] theorem State.storeCells_cur (s : State) (cs : List (Nat × Byte)) (u : Nat) : (s.storeCells cs u).cur = s.cur := rfl
@[simp] theorem State.storeCells_free (s : State) (cs : List (Nat × Byte)) (u : Nat) : (s.storeCells cs u).free = s.free := rfl
@[simp] theorem State.bankCells_cores (s : State) (cs : List (Nat × Byte)) : (s.bankCells cs).cores = s.cores := rfl
@[simp] theorem State.bankCells_parts (s : State) (cs : List (Nat × Byte)) : (s.bankCells cs).parts = s.parts := rfl
@[simp] theorem State.bankCells_banks (s : State) (cs : List (Nat × Byte)) : (s.bankCells cs).banks = s.banks := rfl
@[simp] theorem State.bankCells_mem (s : State) (cs : List (Nat × Byte)) : (s.bankCells cs).mem = s.mem := rfl
@[simp] theorem State.bankCells_seals (s : State) (cs : List (Nat × Byte)) : (s.bankCells cs).seals = s.seals := rfl
@[simp] theorem State.bankCells_keys (s : State) (cs : List (Nat × Byte)) : (s.bankCells cs).keys = s.keys := rfl
@[simp] theorem State.bankCells_nextUid (s : State) (cs : List (Nat × Byte)) : (s.bankCells cs).nextUid = s.nextUid := rfl
@[simp] theorem State.bankCells_tasks (s : State) (cs : List (Nat × Byte)) : (s.bankCells cs).tasks = s.tasks := rfl
@[simp] theorem State.bankCells_nimbus (s : State) (cs : List (Nat × Byte)) : (s.bankCells cs).nimbus = s.nimbus := rfl
@[simp] theorem State.bankCells_zen (s : State) (cs : List (Nat × Byte)) : (s.bankCells cs).zen = s.zen := rfl
@[simp] theorem State.bankCells_out (s : State) (cs : List (Nat × Byte)) : (s.bankCells cs).out = s.out := rfl
@[simp] theorem State.bankCells_flight (s : State) (cs : List (Nat × Byte)) : (s.bankCells cs).flight = s.flight := rfl
@[simp] theorem State.bankCells_agenda (s : State) (cs : List (Nat × Byte)) : (s.bankCells cs).agenda = s.agenda := rfl
@[simp] theorem State.bankCells_cur (s : State) (cs : List (Nat × Byte)) : (s.bankCells cs).cur = s.cur := rfl
@[simp] theorem State.bankCells_free (s : State) (cs : List (Nat × Byte)) : (s.bankCells cs).free = s.free := rfl
@[simp] theorem State.lifeAdd_cores (s : State) (r j n : Nat) : (s.lifeAdd r j n).cores = s.cores := rfl
@[simp] theorem State.lifeAdd_parts (s : State) (r j n : Nat) : (s.lifeAdd r j n).parts = s.parts := rfl
@[simp] theorem State.lifeAdd_banks (s : State) (r j n : Nat) : (s.lifeAdd r j n).banks = s.banks := rfl
@[simp] theorem State.lifeAdd_mem (s : State) (r j n : Nat) : (s.lifeAdd r j n).mem = s.mem := rfl
@[simp] theorem State.lifeAdd_bmem (s : State) (r j n : Nat) : (s.lifeAdd r j n).bmem = s.bmem := rfl
@[simp] theorem State.lifeAdd_seals (s : State) (r j n : Nat) : (s.lifeAdd r j n).seals = s.seals := rfl
@[simp] theorem State.lifeAdd_bpoison (s : State) (r j n : Nat) : (s.lifeAdd r j n).bpoison = s.bpoison := rfl
@[simp] theorem State.lifeAdd_keys (s : State) (r j n : Nat) : (s.lifeAdd r j n).keys = s.keys := rfl
@[simp] theorem State.lifeAdd_nextUid (s : State) (r j n : Nat) : (s.lifeAdd r j n).nextUid = s.nextUid := rfl
@[simp] theorem State.lifeAdd_tasks (s : State) (r j n : Nat) : (s.lifeAdd r j n).tasks = s.tasks := rfl
@[simp] theorem State.lifeAdd_nimbus (s : State) (r j n : Nat) : (s.lifeAdd r j n).nimbus = s.nimbus := rfl
@[simp] theorem State.lifeAdd_out (s : State) (r j n : Nat) : (s.lifeAdd r j n).out = s.out := rfl
@[simp] theorem State.lifeAdd_flight (s : State) (r j n : Nat) : (s.lifeAdd r j n).flight = s.flight := rfl
@[simp] theorem State.lifeAdd_agenda (s : State) (r j n : Nat) : (s.lifeAdd r j n).agenda = s.agenda := rfl
@[simp] theorem State.lifeAdd_cur (s : State) (r j n : Nat) : (s.lifeAdd r j n).cur = s.cur := rfl
@[simp] theorem State.lifeAdd_free (s : State) (r j n : Nat) : (s.lifeAdd r j n).free = s.free := rfl

/-! ### Updates of a core -/

@[simp] theorem Core.setCx_run (k : Core) (x : Ctx) : (k.setCx x).run = k.run := rfl
@[simp] theorem Core.setCx_part (k : Core) (x : Ctx) : (k.setCx x).part = k.part := rfl
@[simp] theorem Core.setCx_lnum (k : Core) (x : Ctx) : (k.setCx x).lnum = k.lnum := rfl
@[simp] theorem Core.setCx_cid (k : Core) (x : Ctx) : (k.setCx x).cid = k.cid := rfl
@[simp] theorem Core.setCx_nbr (k : Core) (x : Ctx) : (k.setCx x).nbr = k.nbr := rfl
@[simp] theorem Core.setCx_encs (k : Core) (x : Ctx) : (k.setCx x).encs = k.encs := rfl
@[simp] theorem Core.setCx_enc (k : Core) (x : Ctx) : (k.setCx x).enc = k.enc := rfl
@[simp] theorem Core.setCx_h (k : Core) (x : Ctx) : (k.setCx x).h = k.h := rfl
@[simp] theorem Core.setCx_left (k : Core) (x : Ctx) : (k.setCx x).left = k.left := rfl
@[simp] theorem Core.setCx_pc (k : Core) (x : Ctx) : (k.setCx x).pc = k.pc := rfl
@[simp] theorem Core.setCx_slot (k : Core) (x : Ctx) : (k.setCx x).slot = k.slot := rfl
@[simp] theorem Core.setCx_g (k : Core) (x : Ctx) : (k.setCx x).g = k.g := rfl
@[simp] theorem Core.setCx_dq (k : Core) (x : Ctx) : (k.setCx x).dq = k.dq := rfl
@[simp] theorem Core.setCx_bq (k : Core) (x : Ctx) : (k.setCx x).bq = k.bq := rfl
@[simp] theorem Core.setCx_sbuf (k : Core) (x : Ctx) : (k.setCx x).sbuf = k.sbuf := rfl
@[simp] theorem Core.setCx_spawns (k : Core) (x : Ctx) : (k.setCx x).spawns = k.spawns := rfl
@[simp] theorem Core.setCx_msgs (k : Core) (x : Ctx) : (k.setCx x).msgs = k.msgs := rfl
@[simp] theorem Core.setCx_fenceRel (k : Core) (x : Ctx) : (k.setCx x).fenceRel = k.fenceRel := rfl
@[simp] theorem Core.setCx_fenceAcq (k : Core) (x : Ctx) : (k.setCx x).fenceAcq = k.fenceAcq := rfl
@[simp] theorem Core.setCx_fetchPc (k : Core) (x : Ctx) : (k.setCx x).fetchPc = k.fetchPc := rfl
@[simp] theorem Core.setCx_words (k : Core) (x : Ctx) : (k.setCx x).words = k.words := rfl
@[simp] theorem Core.setCx_copyWait (k : Core) (x : Ctx) : (k.setCx x).copyWait = k.copyWait := rfl
@[simp] theorem Core.setCx_link (k : Core) (x : Ctx) : (k.setCx x).link = k.link := rfl
@[simp] theorem Core.setCx_credit (k : Core) (x : Ctx) : (k.setCx x).credit = k.credit := rfl
@[simp] theorem Core.setCx_urgentRr (k : Core) (x : Ctx) : (k.setCx x).urgentRr = k.urgentRr := rfl
@[simp] theorem Core.setCx_rr (k : Core) (x : Ctx) : (k.setCx x).rr = k.rr := rfl
@[simp] theorem Core.setCx_quiesced (k : Core) (x : Ctx) : (k.setCx x).quiesced = k.quiesced := rfl
@[simp] theorem Core.setCx_preempt (k : Core) (x : Ctx) : (k.setCx x).preempt = k.preempt := rfl
@[simp] theorem Core.setCx_keptRecs (k : Core) (x : Ctx) : (k.setCx x).keptRecs = k.keptRecs := rfl
@[simp] theorem Core.setCx_keptEntries (k : Core) (x : Ctx) : (k.setCx x).keptEntries = k.keptEntries := rfl
@[simp] theorem Core.setCx_engine (k : Core) (x : Ctx) : (k.setCx x).engine = k.engine := rfl
@[simp] theorem Core.setCx_cyc (k : Core) (x : Ctx) : (k.setCx x).cyc = k.cyc := rfl
@[simp] theorem Core.setCx_idleSince (k : Core) (x : Ctx) : (k.setCx x).idleSince = k.idleSince := rfl
@[simp] theorem Core.setCx_sliceStart (k : Core) (x : Ctx) : (k.setCx x).sliceStart = k.sliceStart := rfl
@[simp] theorem Core.setCx_prods (k : Core) (x : Ctx) : (k.setCx x).prods = k.prods := rfl
@[simp] theorem Core.setCx_bal (k : Core) (x : Ctx) : (k.setCx x).bal = k.bal := rfl
@[simp] theorem Core.setCx_mmam (k : Core) (x : Ctx) : (k.setCx x).mmam = k.mmam := rfl
@[simp] theorem Core.setCx_seqno (k : Core) (x : Ctx) : (k.setCx x).seqno = k.seqno := rfl
@[simp] theorem Core.setCx_faultHold (k : Core) (x : Ctx) : (k.setCx x).faultHold = k.faultHold := rfl
@[simp] theorem Core.setCx_sharers (k : Core) (x : Ctx) : (k.setCx x).sharers = k.sharers := rfl
@[simp] theorem Core.setCxOf_run (k : Core) (e : Nat) (x : Ctx) : (k.setCxOf e x).run = k.run := rfl
@[simp] theorem Core.setCxOf_part (k : Core) (e : Nat) (x : Ctx) : (k.setCxOf e x).part = k.part := rfl
@[simp] theorem Core.setCxOf_lnum (k : Core) (e : Nat) (x : Ctx) : (k.setCxOf e x).lnum = k.lnum := rfl
@[simp] theorem Core.setCxOf_cid (k : Core) (e : Nat) (x : Ctx) : (k.setCxOf e x).cid = k.cid := rfl
@[simp] theorem Core.setCxOf_nbr (k : Core) (e : Nat) (x : Ctx) : (k.setCxOf e x).nbr = k.nbr := rfl
@[simp] theorem Core.setCxOf_encs (k : Core) (e : Nat) (x : Ctx) : (k.setCxOf e x).encs = k.encs := rfl
@[simp] theorem Core.setCxOf_enc (k : Core) (e : Nat) (x : Ctx) : (k.setCxOf e x).enc = k.enc := rfl
@[simp] theorem Core.setCxOf_h (k : Core) (e : Nat) (x : Ctx) : (k.setCxOf e x).h = k.h := rfl
@[simp] theorem Core.setCxOf_left (k : Core) (e : Nat) (x : Ctx) : (k.setCxOf e x).left = k.left := rfl
@[simp] theorem Core.setCxOf_pc (k : Core) (e : Nat) (x : Ctx) : (k.setCxOf e x).pc = k.pc := rfl
@[simp] theorem Core.setCxOf_slot (k : Core) (e : Nat) (x : Ctx) : (k.setCxOf e x).slot = k.slot := rfl
@[simp] theorem Core.setCxOf_g (k : Core) (e : Nat) (x : Ctx) : (k.setCxOf e x).g = k.g := rfl
@[simp] theorem Core.setCxOf_dq (k : Core) (e : Nat) (x : Ctx) : (k.setCxOf e x).dq = k.dq := rfl
@[simp] theorem Core.setCxOf_bq (k : Core) (e : Nat) (x : Ctx) : (k.setCxOf e x).bq = k.bq := rfl
@[simp] theorem Core.setCxOf_sbuf (k : Core) (e : Nat) (x : Ctx) : (k.setCxOf e x).sbuf = k.sbuf := rfl
@[simp] theorem Core.setCxOf_spawns (k : Core) (e : Nat) (x : Ctx) : (k.setCxOf e x).spawns = k.spawns := rfl
@[simp] theorem Core.setCxOf_msgs (k : Core) (e : Nat) (x : Ctx) : (k.setCxOf e x).msgs = k.msgs := rfl
@[simp] theorem Core.setCxOf_fenceRel (k : Core) (e : Nat) (x : Ctx) : (k.setCxOf e x).fenceRel = k.fenceRel := rfl
@[simp] theorem Core.setCxOf_fenceAcq (k : Core) (e : Nat) (x : Ctx) : (k.setCxOf e x).fenceAcq = k.fenceAcq := rfl
@[simp] theorem Core.setCxOf_fetchPc (k : Core) (e : Nat) (x : Ctx) : (k.setCxOf e x).fetchPc = k.fetchPc := rfl
@[simp] theorem Core.setCxOf_words (k : Core) (e : Nat) (x : Ctx) : (k.setCxOf e x).words = k.words := rfl
@[simp] theorem Core.setCxOf_copyWait (k : Core) (e : Nat) (x : Ctx) : (k.setCxOf e x).copyWait = k.copyWait := rfl
@[simp] theorem Core.setCxOf_link (k : Core) (e : Nat) (x : Ctx) : (k.setCxOf e x).link = k.link := rfl
@[simp] theorem Core.setCxOf_credit (k : Core) (e : Nat) (x : Ctx) : (k.setCxOf e x).credit = k.credit := rfl
@[simp] theorem Core.setCxOf_urgentRr (k : Core) (e : Nat) (x : Ctx) : (k.setCxOf e x).urgentRr = k.urgentRr := rfl
@[simp] theorem Core.setCxOf_rr (k : Core) (e : Nat) (x : Ctx) : (k.setCxOf e x).rr = k.rr := rfl
@[simp] theorem Core.setCxOf_quiesced (k : Core) (e : Nat) (x : Ctx) : (k.setCxOf e x).quiesced = k.quiesced := rfl
@[simp] theorem Core.setCxOf_preempt (k : Core) (e : Nat) (x : Ctx) : (k.setCxOf e x).preempt = k.preempt := rfl
@[simp] theorem Core.setCxOf_keptRecs (k : Core) (e : Nat) (x : Ctx) : (k.setCxOf e x).keptRecs = k.keptRecs := rfl
@[simp] theorem Core.setCxOf_keptEntries (k : Core) (e : Nat) (x : Ctx) : (k.setCxOf e x).keptEntries = k.keptEntries := rfl
@[simp] theorem Core.setCxOf_engine (k : Core) (e : Nat) (x : Ctx) : (k.setCxOf e x).engine = k.engine := rfl
@[simp] theorem Core.setCxOf_cyc (k : Core) (e : Nat) (x : Ctx) : (k.setCxOf e x).cyc = k.cyc := rfl
@[simp] theorem Core.setCxOf_idleSince (k : Core) (e : Nat) (x : Ctx) : (k.setCxOf e x).idleSince = k.idleSince := rfl
@[simp] theorem Core.setCxOf_sliceStart (k : Core) (e : Nat) (x : Ctx) : (k.setCxOf e x).sliceStart = k.sliceStart := rfl
@[simp] theorem Core.setCxOf_prods (k : Core) (e : Nat) (x : Ctx) : (k.setCxOf e x).prods = k.prods := rfl
@[simp] theorem Core.setCxOf_bal (k : Core) (e : Nat) (x : Ctx) : (k.setCxOf e x).bal = k.bal := rfl
@[simp] theorem Core.setCxOf_mmam (k : Core) (e : Nat) (x : Ctx) : (k.setCxOf e x).mmam = k.mmam := rfl
@[simp] theorem Core.setCxOf_seqno (k : Core) (e : Nat) (x : Ctx) : (k.setCxOf e x).seqno = k.seqno := rfl
@[simp] theorem Core.setCxOf_faultHold (k : Core) (e : Nat) (x : Ctx) : (k.setCxOf e x).faultHold = k.faultHold := rfl
@[simp] theorem Core.setCxOf_sharers (k : Core) (e : Nat) (x : Ctx) : (k.setCxOf e x).sharers = k.sharers := rfl
@[simp] theorem Core.setG_run (k : Core) (d : Fin 16) (v : Word) : (k.setG d v).run = k.run := rfl
@[simp] theorem Core.setG_part (k : Core) (d : Fin 16) (v : Word) : (k.setG d v).part = k.part := rfl
@[simp] theorem Core.setG_lnum (k : Core) (d : Fin 16) (v : Word) : (k.setG d v).lnum = k.lnum := rfl
@[simp] theorem Core.setG_cid (k : Core) (d : Fin 16) (v : Word) : (k.setG d v).cid = k.cid := rfl
@[simp] theorem Core.setG_nbr (k : Core) (d : Fin 16) (v : Word) : (k.setG d v).nbr = k.nbr := rfl
@[simp] theorem Core.setG_encs (k : Core) (d : Fin 16) (v : Word) : (k.setG d v).encs = k.encs := rfl
@[simp] theorem Core.setG_enc (k : Core) (d : Fin 16) (v : Word) : (k.setG d v).enc = k.enc := rfl
@[simp] theorem Core.setG_ctx (k : Core) (d : Fin 16) (v : Word) : (k.setG d v).ctx = k.ctx := rfl
@[simp] theorem Core.setG_h (k : Core) (d : Fin 16) (v : Word) : (k.setG d v).h = k.h := rfl
@[simp] theorem Core.setG_left (k : Core) (d : Fin 16) (v : Word) : (k.setG d v).left = k.left := rfl
@[simp] theorem Core.setG_pc (k : Core) (d : Fin 16) (v : Word) : (k.setG d v).pc = k.pc := rfl
@[simp] theorem Core.setG_slot (k : Core) (d : Fin 16) (v : Word) : (k.setG d v).slot = k.slot := rfl
@[simp] theorem Core.setG_dq (k : Core) (d : Fin 16) (v : Word) : (k.setG d v).dq = k.dq := rfl
@[simp] theorem Core.setG_bq (k : Core) (d : Fin 16) (v : Word) : (k.setG d v).bq = k.bq := rfl
@[simp] theorem Core.setG_sbuf (k : Core) (d : Fin 16) (v : Word) : (k.setG d v).sbuf = k.sbuf := rfl
@[simp] theorem Core.setG_spawns (k : Core) (d : Fin 16) (v : Word) : (k.setG d v).spawns = k.spawns := rfl
@[simp] theorem Core.setG_msgs (k : Core) (d : Fin 16) (v : Word) : (k.setG d v).msgs = k.msgs := rfl
@[simp] theorem Core.setG_fenceRel (k : Core) (d : Fin 16) (v : Word) : (k.setG d v).fenceRel = k.fenceRel := rfl
@[simp] theorem Core.setG_fenceAcq (k : Core) (d : Fin 16) (v : Word) : (k.setG d v).fenceAcq = k.fenceAcq := rfl
@[simp] theorem Core.setG_fetchPc (k : Core) (d : Fin 16) (v : Word) : (k.setG d v).fetchPc = k.fetchPc := rfl
@[simp] theorem Core.setG_words (k : Core) (d : Fin 16) (v : Word) : (k.setG d v).words = k.words := rfl
@[simp] theorem Core.setG_copyWait (k : Core) (d : Fin 16) (v : Word) : (k.setG d v).copyWait = k.copyWait := rfl
@[simp] theorem Core.setG_link (k : Core) (d : Fin 16) (v : Word) : (k.setG d v).link = k.link := rfl
@[simp] theorem Core.setG_credit (k : Core) (d : Fin 16) (v : Word) : (k.setG d v).credit = k.credit := rfl
@[simp] theorem Core.setG_urgentRr (k : Core) (d : Fin 16) (v : Word) : (k.setG d v).urgentRr = k.urgentRr := rfl
@[simp] theorem Core.setG_rr (k : Core) (d : Fin 16) (v : Word) : (k.setG d v).rr = k.rr := rfl
@[simp] theorem Core.setG_quiesced (k : Core) (d : Fin 16) (v : Word) : (k.setG d v).quiesced = k.quiesced := rfl
@[simp] theorem Core.setG_preempt (k : Core) (d : Fin 16) (v : Word) : (k.setG d v).preempt = k.preempt := rfl
@[simp] theorem Core.setG_keptRecs (k : Core) (d : Fin 16) (v : Word) : (k.setG d v).keptRecs = k.keptRecs := rfl
@[simp] theorem Core.setG_keptEntries (k : Core) (d : Fin 16) (v : Word) : (k.setG d v).keptEntries = k.keptEntries := rfl
@[simp] theorem Core.setG_engine (k : Core) (d : Fin 16) (v : Word) : (k.setG d v).engine = k.engine := rfl
@[simp] theorem Core.setG_cyc (k : Core) (d : Fin 16) (v : Word) : (k.setG d v).cyc = k.cyc := rfl
@[simp] theorem Core.setG_idleSince (k : Core) (d : Fin 16) (v : Word) : (k.setG d v).idleSince = k.idleSince := rfl
@[simp] theorem Core.setG_sliceStart (k : Core) (d : Fin 16) (v : Word) : (k.setG d v).sliceStart = k.sliceStart := rfl
@[simp] theorem Core.setG_prods (k : Core) (d : Fin 16) (v : Word) : (k.setG d v).prods = k.prods := rfl
@[simp] theorem Core.setG_bal (k : Core) (d : Fin 16) (v : Word) : (k.setG d v).bal = k.bal := rfl
@[simp] theorem Core.setG_mmam (k : Core) (d : Fin 16) (v : Word) : (k.setG d v).mmam = k.mmam := rfl
@[simp] theorem Core.setG_seqno (k : Core) (d : Fin 16) (v : Word) : (k.setG d v).seqno = k.seqno := rfl
@[simp] theorem Core.setG_faultHold (k : Core) (d : Fin 16) (v : Word) : (k.setG d v).faultHold = k.faultHold := rfl
@[simp] theorem Core.setG_sharers (k : Core) (d : Fin 16) (v : Word) : (k.setG d v).sharers = k.sharers := rfl
@[simp] theorem Core.tick_run (k : Core) (n : Nat) : (k.tick n).run = k.run := rfl
@[simp] theorem Core.tick_part (k : Core) (n : Nat) : (k.tick n).part = k.part := rfl
@[simp] theorem Core.tick_lnum (k : Core) (n : Nat) : (k.tick n).lnum = k.lnum := rfl
@[simp] theorem Core.tick_cid (k : Core) (n : Nat) : (k.tick n).cid = k.cid := rfl
@[simp] theorem Core.tick_nbr (k : Core) (n : Nat) : (k.tick n).nbr = k.nbr := rfl
@[simp] theorem Core.tick_encs (k : Core) (n : Nat) : (k.tick n).encs = k.encs := rfl
@[simp] theorem Core.tick_enc (k : Core) (n : Nat) : (k.tick n).enc = k.enc := rfl
@[simp] theorem Core.tick_ctx (k : Core) (n : Nat) : (k.tick n).ctx = k.ctx := rfl
@[simp] theorem Core.tick_h (k : Core) (n : Nat) : (k.tick n).h = k.h := rfl
@[simp] theorem Core.tick_pc (k : Core) (n : Nat) : (k.tick n).pc = k.pc := rfl
@[simp] theorem Core.tick_slot (k : Core) (n : Nat) : (k.tick n).slot = k.slot := rfl
@[simp] theorem Core.tick_g (k : Core) (n : Nat) : (k.tick n).g = k.g := rfl
@[simp] theorem Core.tick_dq (k : Core) (n : Nat) : (k.tick n).dq = k.dq := rfl
@[simp] theorem Core.tick_bq (k : Core) (n : Nat) : (k.tick n).bq = k.bq := rfl
@[simp] theorem Core.tick_sbuf (k : Core) (n : Nat) : (k.tick n).sbuf = k.sbuf := rfl
@[simp] theorem Core.tick_spawns (k : Core) (n : Nat) : (k.tick n).spawns = k.spawns := rfl
@[simp] theorem Core.tick_msgs (k : Core) (n : Nat) : (k.tick n).msgs = k.msgs := rfl
@[simp] theorem Core.tick_fenceRel (k : Core) (n : Nat) : (k.tick n).fenceRel = k.fenceRel := rfl
@[simp] theorem Core.tick_fenceAcq (k : Core) (n : Nat) : (k.tick n).fenceAcq = k.fenceAcq := rfl
@[simp] theorem Core.tick_fetchPc (k : Core) (n : Nat) : (k.tick n).fetchPc = k.fetchPc := rfl
@[simp] theorem Core.tick_words (k : Core) (n : Nat) : (k.tick n).words = k.words := rfl
@[simp] theorem Core.tick_copyWait (k : Core) (n : Nat) : (k.tick n).copyWait = k.copyWait := rfl
@[simp] theorem Core.tick_link (k : Core) (n : Nat) : (k.tick n).link = k.link := rfl
@[simp] theorem Core.tick_credit (k : Core) (n : Nat) : (k.tick n).credit = k.credit := rfl
@[simp] theorem Core.tick_urgentRr (k : Core) (n : Nat) : (k.tick n).urgentRr = k.urgentRr := rfl
@[simp] theorem Core.tick_rr (k : Core) (n : Nat) : (k.tick n).rr = k.rr := rfl
@[simp] theorem Core.tick_quiesced (k : Core) (n : Nat) : (k.tick n).quiesced = k.quiesced := rfl
@[simp] theorem Core.tick_preempt (k : Core) (n : Nat) : (k.tick n).preempt = k.preempt := rfl
@[simp] theorem Core.tick_keptRecs (k : Core) (n : Nat) : (k.tick n).keptRecs = k.keptRecs := rfl
@[simp] theorem Core.tick_keptEntries (k : Core) (n : Nat) : (k.tick n).keptEntries = k.keptEntries := rfl
@[simp] theorem Core.tick_engine (k : Core) (n : Nat) : (k.tick n).engine = k.engine := rfl
@[simp] theorem Core.tick_idleSince (k : Core) (n : Nat) : (k.tick n).idleSince = k.idleSince := rfl
@[simp] theorem Core.tick_sliceStart (k : Core) (n : Nat) : (k.tick n).sliceStart = k.sliceStart := rfl
@[simp] theorem Core.tick_prods (k : Core) (n : Nat) : (k.tick n).prods = k.prods := rfl
@[simp] theorem Core.tick_bal (k : Core) (n : Nat) : (k.tick n).bal = k.bal := rfl
@[simp] theorem Core.tick_mmam (k : Core) (n : Nat) : (k.tick n).mmam = k.mmam := rfl
@[simp] theorem Core.tick_seqno (k : Core) (n : Nat) : (k.tick n).seqno = k.seqno := rfl
@[simp] theorem Core.tick_faultHold (k : Core) (n : Nat) : (k.tick n).faultHold = k.faultHold := rfl
@[simp] theorem Core.tick_sharers (k : Core) (n : Nat) : (k.tick n).sharers = k.sharers := rfl
@[simp] theorem Core.tickHeld_run (k : Core) (n : Nat) : (k.tickHeld n).run = k.run := rfl
@[simp] theorem Core.tickHeld_part (k : Core) (n : Nat) : (k.tickHeld n).part = k.part := rfl
@[simp] theorem Core.tickHeld_lnum (k : Core) (n : Nat) : (k.tickHeld n).lnum = k.lnum := rfl
@[simp] theorem Core.tickHeld_cid (k : Core) (n : Nat) : (k.tickHeld n).cid = k.cid := rfl
@[simp] theorem Core.tickHeld_nbr (k : Core) (n : Nat) : (k.tickHeld n).nbr = k.nbr := rfl
@[simp] theorem Core.tickHeld_encs (k : Core) (n : Nat) : (k.tickHeld n).encs = k.encs := rfl
@[simp] theorem Core.tickHeld_enc (k : Core) (n : Nat) : (k.tickHeld n).enc = k.enc := rfl
@[simp] theorem Core.tickHeld_ctx (k : Core) (n : Nat) : (k.tickHeld n).ctx = k.ctx := rfl
@[simp] theorem Core.tickHeld_h (k : Core) (n : Nat) : (k.tickHeld n).h = k.h := rfl
@[simp] theorem Core.tickHeld_left (k : Core) (n : Nat) : (k.tickHeld n).left = k.left := rfl
@[simp] theorem Core.tickHeld_pc (k : Core) (n : Nat) : (k.tickHeld n).pc = k.pc := rfl
@[simp] theorem Core.tickHeld_slot (k : Core) (n : Nat) : (k.tickHeld n).slot = k.slot := rfl
@[simp] theorem Core.tickHeld_g (k : Core) (n : Nat) : (k.tickHeld n).g = k.g := rfl
@[simp] theorem Core.tickHeld_dq (k : Core) (n : Nat) : (k.tickHeld n).dq = k.dq := rfl
@[simp] theorem Core.tickHeld_bq (k : Core) (n : Nat) : (k.tickHeld n).bq = k.bq := rfl
@[simp] theorem Core.tickHeld_sbuf (k : Core) (n : Nat) : (k.tickHeld n).sbuf = k.sbuf := rfl
@[simp] theorem Core.tickHeld_spawns (k : Core) (n : Nat) : (k.tickHeld n).spawns = k.spawns := rfl
@[simp] theorem Core.tickHeld_msgs (k : Core) (n : Nat) : (k.tickHeld n).msgs = k.msgs := rfl
@[simp] theorem Core.tickHeld_fenceRel (k : Core) (n : Nat) : (k.tickHeld n).fenceRel = k.fenceRel := rfl
@[simp] theorem Core.tickHeld_fenceAcq (k : Core) (n : Nat) : (k.tickHeld n).fenceAcq = k.fenceAcq := rfl
@[simp] theorem Core.tickHeld_fetchPc (k : Core) (n : Nat) : (k.tickHeld n).fetchPc = k.fetchPc := rfl
@[simp] theorem Core.tickHeld_words (k : Core) (n : Nat) : (k.tickHeld n).words = k.words := rfl
@[simp] theorem Core.tickHeld_copyWait (k : Core) (n : Nat) : (k.tickHeld n).copyWait = k.copyWait := rfl
@[simp] theorem Core.tickHeld_link (k : Core) (n : Nat) : (k.tickHeld n).link = k.link := rfl
@[simp] theorem Core.tickHeld_credit (k : Core) (n : Nat) : (k.tickHeld n).credit = k.credit := rfl
@[simp] theorem Core.tickHeld_urgentRr (k : Core) (n : Nat) : (k.tickHeld n).urgentRr = k.urgentRr := rfl
@[simp] theorem Core.tickHeld_rr (k : Core) (n : Nat) : (k.tickHeld n).rr = k.rr := rfl
@[simp] theorem Core.tickHeld_quiesced (k : Core) (n : Nat) : (k.tickHeld n).quiesced = k.quiesced := rfl
@[simp] theorem Core.tickHeld_preempt (k : Core) (n : Nat) : (k.tickHeld n).preempt = k.preempt := rfl
@[simp] theorem Core.tickHeld_keptRecs (k : Core) (n : Nat) : (k.tickHeld n).keptRecs = k.keptRecs := rfl
@[simp] theorem Core.tickHeld_keptEntries (k : Core) (n : Nat) : (k.tickHeld n).keptEntries = k.keptEntries := rfl
@[simp] theorem Core.tickHeld_engine (k : Core) (n : Nat) : (k.tickHeld n).engine = k.engine := rfl
@[simp] theorem Core.tickHeld_idleSince (k : Core) (n : Nat) : (k.tickHeld n).idleSince = k.idleSince := rfl
@[simp] theorem Core.tickHeld_sliceStart (k : Core) (n : Nat) : (k.tickHeld n).sliceStart = k.sliceStart := rfl
@[simp] theorem Core.tickHeld_prods (k : Core) (n : Nat) : (k.tickHeld n).prods = k.prods := rfl
@[simp] theorem Core.tickHeld_bal (k : Core) (n : Nat) : (k.tickHeld n).bal = k.bal := rfl
@[simp] theorem Core.tickHeld_mmam (k : Core) (n : Nat) : (k.tickHeld n).mmam = k.mmam := rfl
@[simp] theorem Core.tickHeld_seqno (k : Core) (n : Nat) : (k.tickHeld n).seqno = k.seqno := rfl
@[simp] theorem Core.tickHeld_faultHold (k : Core) (n : Nat) : (k.tickHeld n).faultHold = k.faultHold := rfl
@[simp] theorem Core.tickHeld_sharers (k : Core) (n : Nat) : (k.tickHeld n).sharers = k.sharers := rfl
@[simp] theorem Core.advance_run (k : Core) (p : Pfx) : (k.advance p).run = k.run := rfl
@[simp] theorem Core.advance_part (k : Core) (p : Pfx) : (k.advance p).part = k.part := rfl
@[simp] theorem Core.advance_lnum (k : Core) (p : Pfx) : (k.advance p).lnum = k.lnum := rfl
@[simp] theorem Core.advance_cid (k : Core) (p : Pfx) : (k.advance p).cid = k.cid := rfl
@[simp] theorem Core.advance_nbr (k : Core) (p : Pfx) : (k.advance p).nbr = k.nbr := rfl
@[simp] theorem Core.advance_encs (k : Core) (p : Pfx) : (k.advance p).encs = k.encs := rfl
@[simp] theorem Core.advance_enc (k : Core) (p : Pfx) : (k.advance p).enc = k.enc := rfl
@[simp] theorem Core.advance_ctx (k : Core) (p : Pfx) : (k.advance p).ctx = k.ctx := rfl
@[simp] theorem Core.advance_h (k : Core) (p : Pfx) : (k.advance p).h = k.h := rfl
@[simp] theorem Core.advance_g (k : Core) (p : Pfx) : (k.advance p).g = k.g := rfl
@[simp] theorem Core.advance_dq (k : Core) (p : Pfx) : (k.advance p).dq = k.dq := rfl
@[simp] theorem Core.advance_bq (k : Core) (p : Pfx) : (k.advance p).bq = k.bq := rfl
@[simp] theorem Core.advance_sbuf (k : Core) (p : Pfx) : (k.advance p).sbuf = k.sbuf := rfl
@[simp] theorem Core.advance_spawns (k : Core) (p : Pfx) : (k.advance p).spawns = k.spawns := rfl
@[simp] theorem Core.advance_msgs (k : Core) (p : Pfx) : (k.advance p).msgs = k.msgs := rfl
@[simp] theorem Core.advance_fenceRel (k : Core) (p : Pfx) : (k.advance p).fenceRel = k.fenceRel := rfl
@[simp] theorem Core.advance_fenceAcq (k : Core) (p : Pfx) : (k.advance p).fenceAcq = k.fenceAcq := rfl
@[simp] theorem Core.advance_fetchPc (k : Core) (p : Pfx) : (k.advance p).fetchPc = k.fetchPc := rfl
@[simp] theorem Core.advance_words (k : Core) (p : Pfx) : (k.advance p).words = k.words := rfl
@[simp] theorem Core.advance_copyWait (k : Core) (p : Pfx) : (k.advance p).copyWait = k.copyWait := rfl
@[simp] theorem Core.advance_link (k : Core) (p : Pfx) : (k.advance p).link = k.link := rfl
@[simp] theorem Core.advance_credit (k : Core) (p : Pfx) : (k.advance p).credit = k.credit := rfl
@[simp] theorem Core.advance_urgentRr (k : Core) (p : Pfx) : (k.advance p).urgentRr = k.urgentRr := rfl
@[simp] theorem Core.advance_rr (k : Core) (p : Pfx) : (k.advance p).rr = k.rr := rfl
@[simp] theorem Core.advance_quiesced (k : Core) (p : Pfx) : (k.advance p).quiesced = k.quiesced := rfl
@[simp] theorem Core.advance_preempt (k : Core) (p : Pfx) : (k.advance p).preempt = k.preempt := rfl
@[simp] theorem Core.advance_keptRecs (k : Core) (p : Pfx) : (k.advance p).keptRecs = k.keptRecs := rfl
@[simp] theorem Core.advance_keptEntries (k : Core) (p : Pfx) : (k.advance p).keptEntries = k.keptEntries := rfl
@[simp] theorem Core.advance_engine (k : Core) (p : Pfx) : (k.advance p).engine = k.engine := rfl
@[simp] theorem Core.advance_idleSince (k : Core) (p : Pfx) : (k.advance p).idleSince = k.idleSince := rfl
@[simp] theorem Core.advance_sliceStart (k : Core) (p : Pfx) : (k.advance p).sliceStart = k.sliceStart := rfl
@[simp] theorem Core.advance_prods (k : Core) (p : Pfx) : (k.advance p).prods = k.prods := rfl
@[simp] theorem Core.advance_bal (k : Core) (p : Pfx) : (k.advance p).bal = k.bal := rfl
@[simp] theorem Core.advance_mmam (k : Core) (p : Pfx) : (k.advance p).mmam = k.mmam := rfl
@[simp] theorem Core.advance_seqno (k : Core) (p : Pfx) : (k.advance p).seqno = k.seqno := rfl
@[simp] theorem Core.advance_faultHold (k : Core) (p : Pfx) : (k.advance p).faultHold = k.faultHold := rfl
@[simp] theorem Core.advance_sharers (k : Core) (p : Pfx) : (k.advance p).sharers = k.sharers := rfl
@[simp] theorem Core.branch_run (k : Core) (p : Pfx) (t : Option Word) : (k.branch p t).run = k.run := rfl
@[simp] theorem Core.branch_part (k : Core) (p : Pfx) (t : Option Word) : (k.branch p t).part = k.part := rfl
@[simp] theorem Core.branch_lnum (k : Core) (p : Pfx) (t : Option Word) : (k.branch p t).lnum = k.lnum := rfl
@[simp] theorem Core.branch_cid (k : Core) (p : Pfx) (t : Option Word) : (k.branch p t).cid = k.cid := rfl
@[simp] theorem Core.branch_nbr (k : Core) (p : Pfx) (t : Option Word) : (k.branch p t).nbr = k.nbr := rfl
@[simp] theorem Core.branch_encs (k : Core) (p : Pfx) (t : Option Word) : (k.branch p t).encs = k.encs := rfl
@[simp] theorem Core.branch_enc (k : Core) (p : Pfx) (t : Option Word) : (k.branch p t).enc = k.enc := rfl
@[simp] theorem Core.branch_ctx (k : Core) (p : Pfx) (t : Option Word) : (k.branch p t).ctx = k.ctx := rfl
@[simp] theorem Core.branch_h (k : Core) (p : Pfx) (t : Option Word) : (k.branch p t).h = k.h := rfl
@[simp] theorem Core.branch_g (k : Core) (p : Pfx) (t : Option Word) : (k.branch p t).g = k.g := rfl
@[simp] theorem Core.branch_dq (k : Core) (p : Pfx) (t : Option Word) : (k.branch p t).dq = k.dq := rfl
@[simp] theorem Core.branch_bq (k : Core) (p : Pfx) (t : Option Word) : (k.branch p t).bq = k.bq := rfl
@[simp] theorem Core.branch_sbuf (k : Core) (p : Pfx) (t : Option Word) : (k.branch p t).sbuf = k.sbuf := rfl
@[simp] theorem Core.branch_spawns (k : Core) (p : Pfx) (t : Option Word) : (k.branch p t).spawns = k.spawns := rfl
@[simp] theorem Core.branch_msgs (k : Core) (p : Pfx) (t : Option Word) : (k.branch p t).msgs = k.msgs := rfl
@[simp] theorem Core.branch_fenceRel (k : Core) (p : Pfx) (t : Option Word) : (k.branch p t).fenceRel = k.fenceRel := rfl
@[simp] theorem Core.branch_fenceAcq (k : Core) (p : Pfx) (t : Option Word) : (k.branch p t).fenceAcq = k.fenceAcq := rfl
@[simp] theorem Core.branch_fetchPc (k : Core) (p : Pfx) (t : Option Word) : (k.branch p t).fetchPc = k.fetchPc := rfl
@[simp] theorem Core.branch_words (k : Core) (p : Pfx) (t : Option Word) : (k.branch p t).words = k.words := rfl
@[simp] theorem Core.branch_copyWait (k : Core) (p : Pfx) (t : Option Word) : (k.branch p t).copyWait = k.copyWait := rfl
@[simp] theorem Core.branch_link (k : Core) (p : Pfx) (t : Option Word) : (k.branch p t).link = k.link := rfl
@[simp] theorem Core.branch_credit (k : Core) (p : Pfx) (t : Option Word) : (k.branch p t).credit = k.credit := rfl
@[simp] theorem Core.branch_urgentRr (k : Core) (p : Pfx) (t : Option Word) : (k.branch p t).urgentRr = k.urgentRr := rfl
@[simp] theorem Core.branch_rr (k : Core) (p : Pfx) (t : Option Word) : (k.branch p t).rr = k.rr := rfl
@[simp] theorem Core.branch_quiesced (k : Core) (p : Pfx) (t : Option Word) : (k.branch p t).quiesced = k.quiesced := rfl
@[simp] theorem Core.branch_preempt (k : Core) (p : Pfx) (t : Option Word) : (k.branch p t).preempt = k.preempt := rfl
@[simp] theorem Core.branch_keptRecs (k : Core) (p : Pfx) (t : Option Word) : (k.branch p t).keptRecs = k.keptRecs := rfl
@[simp] theorem Core.branch_keptEntries (k : Core) (p : Pfx) (t : Option Word) : (k.branch p t).keptEntries = k.keptEntries := rfl
@[simp] theorem Core.branch_engine (k : Core) (p : Pfx) (t : Option Word) : (k.branch p t).engine = k.engine := rfl
@[simp] theorem Core.branch_idleSince (k : Core) (p : Pfx) (t : Option Word) : (k.branch p t).idleSince = k.idleSince := rfl
@[simp] theorem Core.branch_sliceStart (k : Core) (p : Pfx) (t : Option Word) : (k.branch p t).sliceStart = k.sliceStart := rfl
@[simp] theorem Core.branch_prods (k : Core) (p : Pfx) (t : Option Word) : (k.branch p t).prods = k.prods := rfl
@[simp] theorem Core.branch_bal (k : Core) (p : Pfx) (t : Option Word) : (k.branch p t).bal = k.bal := rfl
@[simp] theorem Core.branch_mmam (k : Core) (p : Pfx) (t : Option Word) : (k.branch p t).mmam = k.mmam := rfl
@[simp] theorem Core.branch_seqno (k : Core) (p : Pfx) (t : Option Word) : (k.branch p t).seqno = k.seqno := rfl
@[simp] theorem Core.branch_faultHold (k : Core) (p : Pfx) (t : Option Word) : (k.branch p t).faultHold = k.faultHold := rfl
@[simp] theorem Core.branch_sharers (k : Core) (p : Pfx) (t : Option Word) : (k.branch p t).sharers = k.sharers := rfl
@[simp] theorem Core.resume_part (k : Core) (p : Pfx) : (k.resume p).part = k.part := rfl
@[simp] theorem Core.resume_lnum (k : Core) (p : Pfx) : (k.resume p).lnum = k.lnum := rfl
@[simp] theorem Core.resume_cid (k : Core) (p : Pfx) : (k.resume p).cid = k.cid := rfl
@[simp] theorem Core.resume_nbr (k : Core) (p : Pfx) : (k.resume p).nbr = k.nbr := rfl
@[simp] theorem Core.resume_encs (k : Core) (p : Pfx) : (k.resume p).encs = k.encs := rfl
@[simp] theorem Core.resume_enc (k : Core) (p : Pfx) : (k.resume p).enc = k.enc := rfl
@[simp] theorem Core.resume_ctx (k : Core) (p : Pfx) : (k.resume p).ctx = k.ctx := rfl
@[simp] theorem Core.resume_h (k : Core) (p : Pfx) : (k.resume p).h = k.h := rfl
@[simp] theorem Core.resume_g (k : Core) (p : Pfx) : (k.resume p).g = k.g := rfl
@[simp] theorem Core.resume_dq (k : Core) (p : Pfx) : (k.resume p).dq = k.dq := rfl
@[simp] theorem Core.resume_bq (k : Core) (p : Pfx) : (k.resume p).bq = k.bq := rfl
@[simp] theorem Core.resume_sbuf (k : Core) (p : Pfx) : (k.resume p).sbuf = k.sbuf := rfl
@[simp] theorem Core.resume_spawns (k : Core) (p : Pfx) : (k.resume p).spawns = k.spawns := rfl
@[simp] theorem Core.resume_msgs (k : Core) (p : Pfx) : (k.resume p).msgs = k.msgs := rfl
@[simp] theorem Core.resume_fenceRel (k : Core) (p : Pfx) : (k.resume p).fenceRel = k.fenceRel := rfl
@[simp] theorem Core.resume_fenceAcq (k : Core) (p : Pfx) : (k.resume p).fenceAcq = k.fenceAcq := rfl
@[simp] theorem Core.resume_fetchPc (k : Core) (p : Pfx) : (k.resume p).fetchPc = k.fetchPc := rfl
@[simp] theorem Core.resume_words (k : Core) (p : Pfx) : (k.resume p).words = k.words := rfl
@[simp] theorem Core.resume_copyWait (k : Core) (p : Pfx) : (k.resume p).copyWait = k.copyWait := rfl
@[simp] theorem Core.resume_link (k : Core) (p : Pfx) : (k.resume p).link = k.link := rfl
@[simp] theorem Core.resume_credit (k : Core) (p : Pfx) : (k.resume p).credit = k.credit := rfl
@[simp] theorem Core.resume_urgentRr (k : Core) (p : Pfx) : (k.resume p).urgentRr = k.urgentRr := rfl
@[simp] theorem Core.resume_rr (k : Core) (p : Pfx) : (k.resume p).rr = k.rr := rfl
@[simp] theorem Core.resume_quiesced (k : Core) (p : Pfx) : (k.resume p).quiesced = k.quiesced := rfl
@[simp] theorem Core.resume_preempt (k : Core) (p : Pfx) : (k.resume p).preempt = k.preempt := rfl
@[simp] theorem Core.resume_keptRecs (k : Core) (p : Pfx) : (k.resume p).keptRecs = k.keptRecs := rfl
@[simp] theorem Core.resume_keptEntries (k : Core) (p : Pfx) : (k.resume p).keptEntries = k.keptEntries := rfl
@[simp] theorem Core.resume_engine (k : Core) (p : Pfx) : (k.resume p).engine = k.engine := rfl
@[simp] theorem Core.resume_idleSince (k : Core) (p : Pfx) : (k.resume p).idleSince = k.idleSince := rfl
@[simp] theorem Core.resume_sliceStart (k : Core) (p : Pfx) : (k.resume p).sliceStart = k.sliceStart := rfl
@[simp] theorem Core.resume_prods (k : Core) (p : Pfx) : (k.resume p).prods = k.prods := rfl
@[simp] theorem Core.resume_bal (k : Core) (p : Pfx) : (k.resume p).bal = k.bal := rfl
@[simp] theorem Core.resume_mmam (k : Core) (p : Pfx) : (k.resume p).mmam = k.mmam := rfl
@[simp] theorem Core.resume_seqno (k : Core) (p : Pfx) : (k.resume p).seqno = k.seqno := rfl
@[simp] theorem Core.resume_faultHold (k : Core) (p : Pfx) : (k.resume p).faultHold = k.faultHold := rfl
@[simp] theorem Core.resume_sharers (k : Core) (p : Pfx) : (k.resume p).sharers = k.sharers := rfl

/-! ### Updates of an enclave's registers -/

@[simp] theorem Ctx.raise_wp (c : Ctx) (fl : Nat) : (c.raise fl).wp = c.wp := rfl
@[simp] theorem Ctx.raise_hbDef (c : Ctx) (fl : Nat) : (c.raise fl).hbDef = c.hbDef := rfl
@[simp] theorem Ctx.raise_sbm (c : Ctx) (fl : Nat) : (c.raise fl).sbm = c.sbm := rfl
@[simp] theorem Ctx.raise_sbcnt (c : Ctx) (fl : Nat) : (c.raise fl).sbcnt = c.sbcnt := rfl
@[simp] theorem Ctx.raise_kmc (c : Ctx) (fl : Nat) : (c.raise fl).kmc = c.kmc := rfl
@[simp] theorem Ctx.raise_smc (c : Ctx) (fl : Nat) : (c.raise fl).smc = c.smc := rfl
@[simp] theorem Ctx.raise_cwp (c : Ctx) (fl : Nat) : (c.raise fl).cwp = c.cwp := rfl
@[simp] theorem Ctx.raise_vqueue (c : Ctx) (fl : Nat) : (c.raise fl).vqueue = c.vqueue := rfl
@[simp] theorem Ctx.raise_vqHead (c : Ctx) (fl : Nat) : (c.raise fl).vqHead = c.vqHead := rfl
@[simp] theorem Ctx.raise_vqTail (c : Ctx) (fl : Nat) : (c.raise fl).vqTail = c.vqTail := rfl
@[simp] theorem Ctx.raise_budget (c : Ctx) (fl : Nat) : (c.raise fl).budget = c.budget := rfl
@[simp] theorem Ctx.raise_v (c : Ctx) (fl : Nat) : (c.raise fl).v = c.v := rfl
@[simp] theorem Ctx.raise_k (c : Ctx) (fl : Nat) : (c.raise fl).k = c.k := rfl
@[simp] theorem Ctx.raise_t (c : Ctx) (fl : Nat) : (c.raise fl).t = c.t := rfl
@[simp] theorem Ctx.raise_scale (c : Ctx) (fl : Nat) : (c.raise fl).scale = c.scale := rfl
@[simp] theorem Ctx.raise_tc (c : Ctx) (fl : Nat) : (c.raise fl).tc = c.tc := rfl
@[simp] theorem Ctx.raise_acc (c : Ctx) (fl : Nat) : (c.raise fl).acc = c.acc := rfl
@[simp] theorem Ctx.raise_bf (c : Ctx) (fl : Nat) : (c.raise fl).bf = c.bf := rfl
@[simp] theorem Ctx.raise_bg (c : Ctx) (fl : Nat) : (c.raise fl).bg = c.bg := rfl
@[simp] theorem Ctx.raise_bm (c : Ctx) (fl : Nat) : (c.raise fl).bm = c.bm := rfl
@[simp] theorem Ctx.raise_bn (c : Ctx) (fl : Nat) : (c.raise fl).bn = c.bn := rfl
@[simp] theorem Ctx.raise_bs (c : Ctx) (fl : Nat) : (c.raise fl).bs = c.bs := rfl
@[simp] theorem Ctx.raise_resid (c : Ctx) (fl : Nat) : (c.raise fl).resid = c.resid := rfl
@[simp] theorem Ctx.raise_fmt (c : Ctx) (fl : Nat) : (c.raise fl).fmt = c.fmt := rfl
@[simp] theorem Ctx.raise_q (c : Ctx) (fl : Nat) : (c.raise fl).q = c.q := rfl
@[simp] theorem Ctx.raise_deque (c : Ctx) (fl : Nat) : (c.raise fl).deque = c.deque := rfl
@[simp] theorem Ctx.raise_dspill (c : Ctx) (fl : Nat) : (c.raise fl).dspill = c.dspill := rfl
@[simp] theorem Ctx.raise_ring (c : Ctx) (fl : Nat) : (c.raise fl).ring = c.ring := rfl
@[simp] theorem Ctx.raise_slots (c : Ctx) (fl : Nat) : (c.raise fl).slots = c.slots := rfl
@[simp] theorem Ctx.setV_wp (c : Ctx) (r : Fin 16) (x : BitVec 1024) : (c.setV r x).wp = c.wp := rfl
@[simp] theorem Ctx.setV_hbDef (c : Ctx) (r : Fin 16) (x : BitVec 1024) : (c.setV r x).hbDef = c.hbDef := rfl
@[simp] theorem Ctx.setV_sbm (c : Ctx) (r : Fin 16) (x : BitVec 1024) : (c.setV r x).sbm = c.sbm := rfl
@[simp] theorem Ctx.setV_sbcnt (c : Ctx) (r : Fin 16) (x : BitVec 1024) : (c.setV r x).sbcnt = c.sbcnt := rfl
@[simp] theorem Ctx.setV_kmc (c : Ctx) (r : Fin 16) (x : BitVec 1024) : (c.setV r x).kmc = c.kmc := rfl
@[simp] theorem Ctx.setV_smc (c : Ctx) (r : Fin 16) (x : BitVec 1024) : (c.setV r x).smc = c.smc := rfl
@[simp] theorem Ctx.setV_cwp (c : Ctx) (r : Fin 16) (x : BitVec 1024) : (c.setV r x).cwp = c.cwp := rfl
@[simp] theorem Ctx.setV_vqueue (c : Ctx) (r : Fin 16) (x : BitVec 1024) : (c.setV r x).vqueue = c.vqueue := rfl
@[simp] theorem Ctx.setV_vqHead (c : Ctx) (r : Fin 16) (x : BitVec 1024) : (c.setV r x).vqHead = c.vqHead := rfl
@[simp] theorem Ctx.setV_vqTail (c : Ctx) (r : Fin 16) (x : BitVec 1024) : (c.setV r x).vqTail = c.vqTail := rfl
@[simp] theorem Ctx.setV_budget (c : Ctx) (r : Fin 16) (x : BitVec 1024) : (c.setV r x).budget = c.budget := rfl
@[simp] theorem Ctx.setV_vtype (c : Ctx) (r : Fin 16) (x : BitVec 1024) : (c.setV r x).vtype = c.vtype := rfl
@[simp] theorem Ctx.setV_k (c : Ctx) (r : Fin 16) (x : BitVec 1024) : (c.setV r x).k = c.k := rfl
@[simp] theorem Ctx.setV_t (c : Ctx) (r : Fin 16) (x : BitVec 1024) : (c.setV r x).t = c.t := rfl
@[simp] theorem Ctx.setV_scale (c : Ctx) (r : Fin 16) (x : BitVec 1024) : (c.setV r x).scale = c.scale := rfl
@[simp] theorem Ctx.setV_tc (c : Ctx) (r : Fin 16) (x : BitVec 1024) : (c.setV r x).tc = c.tc := rfl
@[simp] theorem Ctx.setV_acc (c : Ctx) (r : Fin 16) (x : BitVec 1024) : (c.setV r x).acc = c.acc := rfl
@[simp] theorem Ctx.setV_bf (c : Ctx) (r : Fin 16) (x : BitVec 1024) : (c.setV r x).bf = c.bf := rfl
@[simp] theorem Ctx.setV_bg (c : Ctx) (r : Fin 16) (x : BitVec 1024) : (c.setV r x).bg = c.bg := rfl
@[simp] theorem Ctx.setV_bm (c : Ctx) (r : Fin 16) (x : BitVec 1024) : (c.setV r x).bm = c.bm := rfl
@[simp] theorem Ctx.setV_bn (c : Ctx) (r : Fin 16) (x : BitVec 1024) : (c.setV r x).bn = c.bn := rfl
@[simp] theorem Ctx.setV_bs (c : Ctx) (r : Fin 16) (x : BitVec 1024) : (c.setV r x).bs = c.bs := rfl
@[simp] theorem Ctx.setV_resid (c : Ctx) (r : Fin 16) (x : BitVec 1024) : (c.setV r x).resid = c.resid := rfl
@[simp] theorem Ctx.setV_fmt (c : Ctx) (r : Fin 16) (x : BitVec 1024) : (c.setV r x).fmt = c.fmt := rfl
@[simp] theorem Ctx.setV_q (c : Ctx) (r : Fin 16) (x : BitVec 1024) : (c.setV r x).q = c.q := rfl
@[simp] theorem Ctx.setV_deque (c : Ctx) (r : Fin 16) (x : BitVec 1024) : (c.setV r x).deque = c.deque := rfl
@[simp] theorem Ctx.setV_dspill (c : Ctx) (r : Fin 16) (x : BitVec 1024) : (c.setV r x).dspill = c.dspill := rfl
@[simp] theorem Ctx.setV_ring (c : Ctx) (r : Fin 16) (x : BitVec 1024) : (c.setV r x).ring = c.ring := rfl
@[simp] theorem Ctx.setV_slots (c : Ctx) (r : Fin 16) (x : BitVec 1024) : (c.setV r x).slots = c.slots := rfl
@[simp] theorem Ctx.setK_wp (c : Ctx) (r : Fin 8) (x : BitVec 128) : (c.setK r x).wp = c.wp := rfl
@[simp] theorem Ctx.setK_hbDef (c : Ctx) (r : Fin 8) (x : BitVec 128) : (c.setK r x).hbDef = c.hbDef := rfl
@[simp] theorem Ctx.setK_sbm (c : Ctx) (r : Fin 8) (x : BitVec 128) : (c.setK r x).sbm = c.sbm := rfl
@[simp] theorem Ctx.setK_sbcnt (c : Ctx) (r : Fin 8) (x : BitVec 128) : (c.setK r x).sbcnt = c.sbcnt := rfl
@[simp] theorem Ctx.setK_kmc (c : Ctx) (r : Fin 8) (x : BitVec 128) : (c.setK r x).kmc = c.kmc := rfl
@[simp] theorem Ctx.setK_smc (c : Ctx) (r : Fin 8) (x : BitVec 128) : (c.setK r x).smc = c.smc := rfl
@[simp] theorem Ctx.setK_cwp (c : Ctx) (r : Fin 8) (x : BitVec 128) : (c.setK r x).cwp = c.cwp := rfl
@[simp] theorem Ctx.setK_vqueue (c : Ctx) (r : Fin 8) (x : BitVec 128) : (c.setK r x).vqueue = c.vqueue := rfl
@[simp] theorem Ctx.setK_vqHead (c : Ctx) (r : Fin 8) (x : BitVec 128) : (c.setK r x).vqHead = c.vqHead := rfl
@[simp] theorem Ctx.setK_vqTail (c : Ctx) (r : Fin 8) (x : BitVec 128) : (c.setK r x).vqTail = c.vqTail := rfl
@[simp] theorem Ctx.setK_budget (c : Ctx) (r : Fin 8) (x : BitVec 128) : (c.setK r x).budget = c.budget := rfl
@[simp] theorem Ctx.setK_vtype (c : Ctx) (r : Fin 8) (x : BitVec 128) : (c.setK r x).vtype = c.vtype := rfl
@[simp] theorem Ctx.setK_v (c : Ctx) (r : Fin 8) (x : BitVec 128) : (c.setK r x).v = c.v := rfl
@[simp] theorem Ctx.setK_t (c : Ctx) (r : Fin 8) (x : BitVec 128) : (c.setK r x).t = c.t := rfl
@[simp] theorem Ctx.setK_scale (c : Ctx) (r : Fin 8) (x : BitVec 128) : (c.setK r x).scale = c.scale := rfl
@[simp] theorem Ctx.setK_tc (c : Ctx) (r : Fin 8) (x : BitVec 128) : (c.setK r x).tc = c.tc := rfl
@[simp] theorem Ctx.setK_acc (c : Ctx) (r : Fin 8) (x : BitVec 128) : (c.setK r x).acc = c.acc := rfl
@[simp] theorem Ctx.setK_bf (c : Ctx) (r : Fin 8) (x : BitVec 128) : (c.setK r x).bf = c.bf := rfl
@[simp] theorem Ctx.setK_bg (c : Ctx) (r : Fin 8) (x : BitVec 128) : (c.setK r x).bg = c.bg := rfl
@[simp] theorem Ctx.setK_bm (c : Ctx) (r : Fin 8) (x : BitVec 128) : (c.setK r x).bm = c.bm := rfl
@[simp] theorem Ctx.setK_bn (c : Ctx) (r : Fin 8) (x : BitVec 128) : (c.setK r x).bn = c.bn := rfl
@[simp] theorem Ctx.setK_bs (c : Ctx) (r : Fin 8) (x : BitVec 128) : (c.setK r x).bs = c.bs := rfl
@[simp] theorem Ctx.setK_resid (c : Ctx) (r : Fin 8) (x : BitVec 128) : (c.setK r x).resid = c.resid := rfl
@[simp] theorem Ctx.setK_fmt (c : Ctx) (r : Fin 8) (x : BitVec 128) : (c.setK r x).fmt = c.fmt := rfl
@[simp] theorem Ctx.setK_q (c : Ctx) (r : Fin 8) (x : BitVec 128) : (c.setK r x).q = c.q := rfl
@[simp] theorem Ctx.setK_deque (c : Ctx) (r : Fin 8) (x : BitVec 128) : (c.setK r x).deque = c.deque := rfl
@[simp] theorem Ctx.setK_dspill (c : Ctx) (r : Fin 8) (x : BitVec 128) : (c.setK r x).dspill = c.dspill := rfl
@[simp] theorem Ctx.setK_ring (c : Ctx) (r : Fin 8) (x : BitVec 128) : (c.setK r x).ring = c.ring := rfl
@[simp] theorem Ctx.setK_slots (c : Ctx) (r : Fin 8) (x : BitVec 128) : (c.setK r x).slots = c.slots := rfl
@[simp] theorem Ctx.setTile_wp (c : Ctx) (r : Fin 8) (x : BitVec 32768) : (c.setTile r x).wp = c.wp := rfl
@[simp] theorem Ctx.setTile_hbDef (c : Ctx) (r : Fin 8) (x : BitVec 32768) : (c.setTile r x).hbDef = c.hbDef := rfl
@[simp] theorem Ctx.setTile_sbm (c : Ctx) (r : Fin 8) (x : BitVec 32768) : (c.setTile r x).sbm = c.sbm := rfl
@[simp] theorem Ctx.setTile_sbcnt (c : Ctx) (r : Fin 8) (x : BitVec 32768) : (c.setTile r x).sbcnt = c.sbcnt := rfl
@[simp] theorem Ctx.setTile_kmc (c : Ctx) (r : Fin 8) (x : BitVec 32768) : (c.setTile r x).kmc = c.kmc := rfl
@[simp] theorem Ctx.setTile_smc (c : Ctx) (r : Fin 8) (x : BitVec 32768) : (c.setTile r x).smc = c.smc := rfl
@[simp] theorem Ctx.setTile_cwp (c : Ctx) (r : Fin 8) (x : BitVec 32768) : (c.setTile r x).cwp = c.cwp := rfl
@[simp] theorem Ctx.setTile_vqueue (c : Ctx) (r : Fin 8) (x : BitVec 32768) : (c.setTile r x).vqueue = c.vqueue := rfl
@[simp] theorem Ctx.setTile_vqHead (c : Ctx) (r : Fin 8) (x : BitVec 32768) : (c.setTile r x).vqHead = c.vqHead := rfl
@[simp] theorem Ctx.setTile_vqTail (c : Ctx) (r : Fin 8) (x : BitVec 32768) : (c.setTile r x).vqTail = c.vqTail := rfl
@[simp] theorem Ctx.setTile_budget (c : Ctx) (r : Fin 8) (x : BitVec 32768) : (c.setTile r x).budget = c.budget := rfl
@[simp] theorem Ctx.setTile_vtype (c : Ctx) (r : Fin 8) (x : BitVec 32768) : (c.setTile r x).vtype = c.vtype := rfl
@[simp] theorem Ctx.setTile_v (c : Ctx) (r : Fin 8) (x : BitVec 32768) : (c.setTile r x).v = c.v := rfl
@[simp] theorem Ctx.setTile_k (c : Ctx) (r : Fin 8) (x : BitVec 32768) : (c.setTile r x).k = c.k := rfl
@[simp] theorem Ctx.setTile_scale (c : Ctx) (r : Fin 8) (x : BitVec 32768) : (c.setTile r x).scale = c.scale := rfl
@[simp] theorem Ctx.setTile_tc (c : Ctx) (r : Fin 8) (x : BitVec 32768) : (c.setTile r x).tc = c.tc := rfl
@[simp] theorem Ctx.setTile_acc (c : Ctx) (r : Fin 8) (x : BitVec 32768) : (c.setTile r x).acc = c.acc := rfl
@[simp] theorem Ctx.setTile_bf (c : Ctx) (r : Fin 8) (x : BitVec 32768) : (c.setTile r x).bf = c.bf := rfl
@[simp] theorem Ctx.setTile_bg (c : Ctx) (r : Fin 8) (x : BitVec 32768) : (c.setTile r x).bg = c.bg := rfl
@[simp] theorem Ctx.setTile_bm (c : Ctx) (r : Fin 8) (x : BitVec 32768) : (c.setTile r x).bm = c.bm := rfl
@[simp] theorem Ctx.setTile_bn (c : Ctx) (r : Fin 8) (x : BitVec 32768) : (c.setTile r x).bn = c.bn := rfl
@[simp] theorem Ctx.setTile_bs (c : Ctx) (r : Fin 8) (x : BitVec 32768) : (c.setTile r x).bs = c.bs := rfl
@[simp] theorem Ctx.setTile_resid (c : Ctx) (r : Fin 8) (x : BitVec 32768) : (c.setTile r x).resid = c.resid := rfl
@[simp] theorem Ctx.setTile_fmt (c : Ctx) (r : Fin 8) (x : BitVec 32768) : (c.setTile r x).fmt = c.fmt := rfl
@[simp] theorem Ctx.setTile_q (c : Ctx) (r : Fin 8) (x : BitVec 32768) : (c.setTile r x).q = c.q := rfl
@[simp] theorem Ctx.setTile_deque (c : Ctx) (r : Fin 8) (x : BitVec 32768) : (c.setTile r x).deque = c.deque := rfl
@[simp] theorem Ctx.setTile_dspill (c : Ctx) (r : Fin 8) (x : BitVec 32768) : (c.setTile r x).dspill = c.dspill := rfl
@[simp] theorem Ctx.setTile_ring (c : Ctx) (r : Fin 8) (x : BitVec 32768) : (c.setTile r x).ring = c.ring := rfl
@[simp] theorem Ctx.setTile_slots (c : Ctx) (r : Fin 8) (x : BitVec 32768) : (c.setTile r x).slots = c.slots := rfl
@[simp] theorem Ctx.setTc_wp (c : Ctx) (r : Fin 8) (x : Word) : (c.setTc r x).wp = c.wp := rfl
@[simp] theorem Ctx.setTc_hbDef (c : Ctx) (r : Fin 8) (x : Word) : (c.setTc r x).hbDef = c.hbDef := rfl
@[simp] theorem Ctx.setTc_sbm (c : Ctx) (r : Fin 8) (x : Word) : (c.setTc r x).sbm = c.sbm := rfl
@[simp] theorem Ctx.setTc_sbcnt (c : Ctx) (r : Fin 8) (x : Word) : (c.setTc r x).sbcnt = c.sbcnt := rfl
@[simp] theorem Ctx.setTc_kmc (c : Ctx) (r : Fin 8) (x : Word) : (c.setTc r x).kmc = c.kmc := rfl
@[simp] theorem Ctx.setTc_smc (c : Ctx) (r : Fin 8) (x : Word) : (c.setTc r x).smc = c.smc := rfl
@[simp] theorem Ctx.setTc_cwp (c : Ctx) (r : Fin 8) (x : Word) : (c.setTc r x).cwp = c.cwp := rfl
@[simp] theorem Ctx.setTc_vqueue (c : Ctx) (r : Fin 8) (x : Word) : (c.setTc r x).vqueue = c.vqueue := rfl
@[simp] theorem Ctx.setTc_vqHead (c : Ctx) (r : Fin 8) (x : Word) : (c.setTc r x).vqHead = c.vqHead := rfl
@[simp] theorem Ctx.setTc_vqTail (c : Ctx) (r : Fin 8) (x : Word) : (c.setTc r x).vqTail = c.vqTail := rfl
@[simp] theorem Ctx.setTc_budget (c : Ctx) (r : Fin 8) (x : Word) : (c.setTc r x).budget = c.budget := rfl
@[simp] theorem Ctx.setTc_vtype (c : Ctx) (r : Fin 8) (x : Word) : (c.setTc r x).vtype = c.vtype := rfl
@[simp] theorem Ctx.setTc_v (c : Ctx) (r : Fin 8) (x : Word) : (c.setTc r x).v = c.v := rfl
@[simp] theorem Ctx.setTc_k (c : Ctx) (r : Fin 8) (x : Word) : (c.setTc r x).k = c.k := rfl
@[simp] theorem Ctx.setTc_t (c : Ctx) (r : Fin 8) (x : Word) : (c.setTc r x).t = c.t := rfl
@[simp] theorem Ctx.setTc_scale (c : Ctx) (r : Fin 8) (x : Word) : (c.setTc r x).scale = c.scale := rfl
@[simp] theorem Ctx.setTc_acc (c : Ctx) (r : Fin 8) (x : Word) : (c.setTc r x).acc = c.acc := rfl
@[simp] theorem Ctx.setTc_bf (c : Ctx) (r : Fin 8) (x : Word) : (c.setTc r x).bf = c.bf := rfl
@[simp] theorem Ctx.setTc_bg (c : Ctx) (r : Fin 8) (x : Word) : (c.setTc r x).bg = c.bg := rfl
@[simp] theorem Ctx.setTc_bm (c : Ctx) (r : Fin 8) (x : Word) : (c.setTc r x).bm = c.bm := rfl
@[simp] theorem Ctx.setTc_bn (c : Ctx) (r : Fin 8) (x : Word) : (c.setTc r x).bn = c.bn := rfl
@[simp] theorem Ctx.setTc_bs (c : Ctx) (r : Fin 8) (x : Word) : (c.setTc r x).bs = c.bs := rfl
@[simp] theorem Ctx.setTc_resid (c : Ctx) (r : Fin 8) (x : Word) : (c.setTc r x).resid = c.resid := rfl
@[simp] theorem Ctx.setTc_fmt (c : Ctx) (r : Fin 8) (x : Word) : (c.setTc r x).fmt = c.fmt := rfl
@[simp] theorem Ctx.setTc_q (c : Ctx) (r : Fin 8) (x : Word) : (c.setTc r x).q = c.q := rfl
@[simp] theorem Ctx.setTc_deque (c : Ctx) (r : Fin 8) (x : Word) : (c.setTc r x).deque = c.deque := rfl
@[simp] theorem Ctx.setTc_dspill (c : Ctx) (r : Fin 8) (x : Word) : (c.setTc r x).dspill = c.dspill := rfl
@[simp] theorem Ctx.setTc_ring (c : Ctx) (r : Fin 8) (x : Word) : (c.setTc r x).ring = c.ring := rfl
@[simp] theorem Ctx.setTc_slots (c : Ctx) (r : Fin 8) (x : Word) : (c.setTc r x).slots = c.slots := rfl
@[simp] theorem Ctx.setScale_wp (c : Ctx) (r : Fin 8) (x : BitVec 4096) : (c.setScale r x).wp = c.wp := rfl
@[simp] theorem Ctx.setScale_hbDef (c : Ctx) (r : Fin 8) (x : BitVec 4096) : (c.setScale r x).hbDef = c.hbDef := rfl
@[simp] theorem Ctx.setScale_sbm (c : Ctx) (r : Fin 8) (x : BitVec 4096) : (c.setScale r x).sbm = c.sbm := rfl
@[simp] theorem Ctx.setScale_sbcnt (c : Ctx) (r : Fin 8) (x : BitVec 4096) : (c.setScale r x).sbcnt = c.sbcnt := rfl
@[simp] theorem Ctx.setScale_kmc (c : Ctx) (r : Fin 8) (x : BitVec 4096) : (c.setScale r x).kmc = c.kmc := rfl
@[simp] theorem Ctx.setScale_smc (c : Ctx) (r : Fin 8) (x : BitVec 4096) : (c.setScale r x).smc = c.smc := rfl
@[simp] theorem Ctx.setScale_cwp (c : Ctx) (r : Fin 8) (x : BitVec 4096) : (c.setScale r x).cwp = c.cwp := rfl
@[simp] theorem Ctx.setScale_vqueue (c : Ctx) (r : Fin 8) (x : BitVec 4096) : (c.setScale r x).vqueue = c.vqueue := rfl
@[simp] theorem Ctx.setScale_vqHead (c : Ctx) (r : Fin 8) (x : BitVec 4096) : (c.setScale r x).vqHead = c.vqHead := rfl
@[simp] theorem Ctx.setScale_vqTail (c : Ctx) (r : Fin 8) (x : BitVec 4096) : (c.setScale r x).vqTail = c.vqTail := rfl
@[simp] theorem Ctx.setScale_budget (c : Ctx) (r : Fin 8) (x : BitVec 4096) : (c.setScale r x).budget = c.budget := rfl
@[simp] theorem Ctx.setScale_vtype (c : Ctx) (r : Fin 8) (x : BitVec 4096) : (c.setScale r x).vtype = c.vtype := rfl
@[simp] theorem Ctx.setScale_v (c : Ctx) (r : Fin 8) (x : BitVec 4096) : (c.setScale r x).v = c.v := rfl
@[simp] theorem Ctx.setScale_k (c : Ctx) (r : Fin 8) (x : BitVec 4096) : (c.setScale r x).k = c.k := rfl
@[simp] theorem Ctx.setScale_t (c : Ctx) (r : Fin 8) (x : BitVec 4096) : (c.setScale r x).t = c.t := rfl
@[simp] theorem Ctx.setScale_tc (c : Ctx) (r : Fin 8) (x : BitVec 4096) : (c.setScale r x).tc = c.tc := rfl
@[simp] theorem Ctx.setScale_acc (c : Ctx) (r : Fin 8) (x : BitVec 4096) : (c.setScale r x).acc = c.acc := rfl
@[simp] theorem Ctx.setScale_bf (c : Ctx) (r : Fin 8) (x : BitVec 4096) : (c.setScale r x).bf = c.bf := rfl
@[simp] theorem Ctx.setScale_bg (c : Ctx) (r : Fin 8) (x : BitVec 4096) : (c.setScale r x).bg = c.bg := rfl
@[simp] theorem Ctx.setScale_bm (c : Ctx) (r : Fin 8) (x : BitVec 4096) : (c.setScale r x).bm = c.bm := rfl
@[simp] theorem Ctx.setScale_bn (c : Ctx) (r : Fin 8) (x : BitVec 4096) : (c.setScale r x).bn = c.bn := rfl
@[simp] theorem Ctx.setScale_bs (c : Ctx) (r : Fin 8) (x : BitVec 4096) : (c.setScale r x).bs = c.bs := rfl
@[simp] theorem Ctx.setScale_resid (c : Ctx) (r : Fin 8) (x : BitVec 4096) : (c.setScale r x).resid = c.resid := rfl
@[simp] theorem Ctx.setScale_fmt (c : Ctx) (r : Fin 8) (x : BitVec 4096) : (c.setScale r x).fmt = c.fmt := rfl
@[simp] theorem Ctx.setScale_q (c : Ctx) (r : Fin 8) (x : BitVec 4096) : (c.setScale r x).q = c.q := rfl
@[simp] theorem Ctx.setScale_deque (c : Ctx) (r : Fin 8) (x : BitVec 4096) : (c.setScale r x).deque = c.deque := rfl
@[simp] theorem Ctx.setScale_dspill (c : Ctx) (r : Fin 8) (x : BitVec 4096) : (c.setScale r x).dspill = c.dspill := rfl
@[simp] theorem Ctx.setScale_ring (c : Ctx) (r : Fin 8) (x : BitVec 4096) : (c.setScale r x).ring = c.ring := rfl
@[simp] theorem Ctx.setScale_slots (c : Ctx) (r : Fin 8) (x : BitVec 4096) : (c.setScale r x).slots = c.slots := rfl
@[simp] theorem Ctx.planReset_wp (c : Ctx) : (c.planReset).wp = c.wp := rfl
@[simp] theorem Ctx.planReset_hbDef (c : Ctx) : (c.planReset).hbDef = c.hbDef := rfl
@[simp] theorem Ctx.planReset_sbm (c : Ctx) : (c.planReset).sbm = c.sbm := rfl
@[simp] theorem Ctx.planReset_sbcnt (c : Ctx) : (c.planReset).sbcnt = c.sbcnt := rfl
@[simp] theorem Ctx.planReset_kmc (c : Ctx) : (c.planReset).kmc = c.kmc := rfl
@[simp] theorem Ctx.planReset_smc (c : Ctx) : (c.planReset).smc = c.smc := rfl
@[simp] theorem Ctx.planReset_cwp (c : Ctx) : (c.planReset).cwp = c.cwp := rfl
@[simp] theorem Ctx.planReset_vqueue (c : Ctx) : (c.planReset).vqueue = c.vqueue := rfl
@[simp] theorem Ctx.planReset_vqHead (c : Ctx) : (c.planReset).vqHead = c.vqHead := rfl
@[simp] theorem Ctx.planReset_vqTail (c : Ctx) : (c.planReset).vqTail = c.vqTail := rfl
@[simp] theorem Ctx.planReset_budget (c : Ctx) : (c.planReset).budget = c.budget := rfl
@[simp] theorem Ctx.planReset_vtype (c : Ctx) : (c.planReset).vtype = c.vtype := rfl
@[simp] theorem Ctx.planReset_v (c : Ctx) : (c.planReset).v = c.v := rfl
@[simp] theorem Ctx.planReset_k (c : Ctx) : (c.planReset).k = c.k := rfl
@[simp] theorem Ctx.planReset_t (c : Ctx) : (c.planReset).t = c.t := rfl
@[simp] theorem Ctx.planReset_scale (c : Ctx) : (c.planReset).scale = c.scale := rfl
@[simp] theorem Ctx.planReset_tc (c : Ctx) : (c.planReset).tc = c.tc := rfl
@[simp] theorem Ctx.planReset_acc (c : Ctx) : (c.planReset).acc = c.acc := rfl
@[simp] theorem Ctx.planReset_bf (c : Ctx) : (c.planReset).bf = c.bf := rfl
@[simp] theorem Ctx.planReset_bg (c : Ctx) : (c.planReset).bg = c.bg := rfl
@[simp] theorem Ctx.planReset_bm (c : Ctx) : (c.planReset).bm = c.bm := rfl
@[simp] theorem Ctx.planReset_bn (c : Ctx) : (c.planReset).bn = c.bn := rfl
@[simp] theorem Ctx.planReset_fmt (c : Ctx) : (c.planReset).fmt = c.fmt := rfl
@[simp] theorem Ctx.planReset_q (c : Ctx) : (c.planReset).q = c.q := rfl
@[simp] theorem Ctx.planReset_deque (c : Ctx) : (c.planReset).deque = c.deque := rfl
@[simp] theorem Ctx.planReset_dspill (c : Ctx) : (c.planReset).dspill = c.dspill := rfl
@[simp] theorem Ctx.planReset_ring (c : Ctx) : (c.planReset).ring = c.ring := rfl
@[simp] theorem Ctx.planReset_slots (c : Ctx) : (c.planReset).slots = c.slots := rfl

/-! ### Reading back -/

@[simp] theorem State.core_setCore (s : State) (c : Nat) (k : Core) : (s.setCore c k).core c = k := by
  simp [State.core, State.setCore, sget_sset_same]
theorem State.core_setCore_other (s : State) (c d : Nat) (k : Core) (h : d ≠ c) : (s.setCore c k).core d = s.core d := by
  simp [State.core, State.setCore, sget_sset_other _ _ _ _ _ h]
@[simp] theorem State.setCore_setCore (s : State) (c : Nat) (k l : Core) : (s.setCore c k).setCore c l = s.setCore c l := by
  simp [State.setCore, sset_sset]
@[simp] theorem State.me_setMe (s : State) (k : Core) : (s.setMe k).me = k := by
  simp [State.me, State.setMe]
@[simp] theorem State.setMe_setMe (s : State) (k l : Core) : (s.setMe k).setMe l = s.setMe l := by
  simp [State.setMe]
@[simp] theorem Core.cx_setCx (k : Core) (x : Ctx) : (k.setCx x).cx = x := by
  simp [Core.cx, Core.setCx, sget_sset_same]
@[simp] theorem Core.setCx_setCx (k : Core) (x y : Ctx) : (k.setCx x).setCx y = k.setCx y := by
  simp [Core.setCx, sset_sset]
@[simp] theorem Core.cxOf_setCxOf (k : Core) (e : Nat) (x : Ctx) : (k.setCxOf e x).cxOf e = x := by
  simp [Core.cxOf, Core.setCxOf, sget_sset_same]
@[simp] theorem State.cx_setCx (s : State) (x : Ctx) : (s.setCx x).cx = x := by
  simp [State.cx, State.setCx]
@[simp] theorem State.me_setCx (s : State) (x : Ctx) : (s.setCx x).me = s.me.setCx x := by
  simp [State.setCx]
@[simp] theorem State.part_setPart (s : State) (p : Nat) (x : Part) : (s.setPart p x).part p = x := by
  simp [State.part, State.setPart, sget_sset_same]
theorem State.part_setPart_other (s : State) (p q : Nat) (x : Part) (h : q ≠ p) : (s.setPart p x).part q = s.part q := by
  simp [State.part, State.setPart, sget_sset_other _ _ _ _ _ h]
@[simp] theorem State.bank_setBank (s : State) (b : Nat) (x : Bank) : (s.setBank b x).bank b = x := by
  simp [State.bank, State.setBank, sget_sset_same]
@[simp] theorem Core.getG_setG (k : Core) (d : Fin 16) (v : Word) : (k.setG d v).getG d = v := by
  simp [Core.getG, Core.setG]
theorem Core.getG_setG_other (k : Core) (d r : Fin 16) (v : Word) (h : r ≠ d) : (k.setG d v).getG r = k.getG r := by
  have : d.val ≠ r.val := fun e => h (Fin.ext e.symm)
  simp [Core.getG, Core.setG, Vector.getElem_set_ne, this]

@[simp] theorem State.core_setPart (s : State) (p : Nat) (x : Part) (c : Nat) : (s.setPart p x).core c = s.core c := rfl
@[simp] theorem State.core_setBank (s : State) (b : Nat) (x : Bank) (c : Nat) : (s.setBank b x).core c = s.core c := rfl
@[simp] theorem State.core_enqueue (s : State) (n : Nat) (i : Instr) (c : Nat) : (s.enqueue n i).core c = s.core c := rfl
@[simp] theorem State.core_storeCells (s : State) (cs : List (Nat × Byte)) (u c : Nat) : (s.storeCells cs u).core c = s.core c := rfl
@[simp] theorem State.core_bankCells (s : State) (cs : List (Nat × Byte)) (c : Nat) : (s.bankCells cs).core c = s.core c := rfl
@[simp] theorem State.core_lifeAdd (s : State) (r j n c : Nat) : (s.lifeAdd r j n).core c = s.core c := rfl
@[simp] theorem State.part_setCore (s : State) (c : Nat) (k : Core) (p : Nat) : (s.setCore c k).part p = s.part p := rfl
@[simp] theorem State.part_setMe (s : State) (k : Core) (p : Nat) : (s.setMe k).part p = s.part p := rfl
@[simp] theorem State.part_enqueue (s : State) (n : Nat) (i : Instr) (p : Nat) : (s.enqueue n i).part p = s.part p := rfl
@[simp] theorem State.me_enqueue (s : State) (n : Nat) (i : Instr) : (s.enqueue n i).me = s.me := rfl
@[simp] theorem State.me_setPart (s : State) (p : Nat) (x : Part) : (s.setPart p x).me = s.me := rfl
@[simp] theorem State.me_setBank (s : State) (b : Nat) (x : Bank) : (s.setBank b x).me = s.me := rfl
@[simp] theorem State.me_bankCells (s : State) (cs : List (Nat × Byte)) : (s.bankCells cs).me = s.me := rfl
@[simp] theorem State.me_storeCells (s : State) (cs : List (Nat × Byte)) (u : Nat) : (s.storeCells cs u).me = s.me := rfl
@[simp] theorem Core.cx_setG (k : Core) (d : Fin 16) (v : Word) : (k.setG d v).cx = k.cx := rfl
@[simp] theorem Core.cx_advance (k : Core) (p : Pfx) : (k.advance p).cx = k.cx := rfl
@[simp] theorem Core.cx_tick (k : Core) (n : Nat) : (k.tick n).cx = k.cx := rfl
@[simp] theorem Core.getG_advance (k : Core) (p : Pfx) (r : Fin 16) : (k.advance p).getG r = k.getG r := rfl
@[simp] theorem Core.getG_setCx (k : Core) (x : Ctx) (r : Fin 16) : (k.setCx x).getG r = k.getG r := rfl

/-- A core that is not the executing one is untouched by what is written to the executing one. -/
theorem State.core_setMe_other (s : State) (k : Core) (c : Nat) (h : c ≠ s.cur) : (s.setMe k).core c = s.core c :=
  s.core_setCore_other s.cur c k h

end Sys2Proof.Machine
end

