-- ==== Sys2Proof/Laws/Messages.lean ====
section
/-! SUPPORT. What the message engine's shared operations, and a versioned write, can do. -/

namespace Sys2Proof.Machine

/-- A message that enters its engine makes it one longer, unless it was resent from there (R117). -/
theorem keepIn_length (m : Msg) (due : Nat) (l : List KeptMsg) :
    (keepIn m due l).length = l.length + (if l.any (fun x => x.msg == m) then 0 else 1) := by
  unfold keepIn
  split
  · simp
  · next h =>
    have := congrArg List.length (List.takeWhile_append_dropWhile (p := fun x => !(sameTarget x.msg m && sentBefore m x.msg)) (l := l))
    simp only [List.length_append, List.length_cons, List.length_map] at this ⊢
    omega

/-- The engine holds no other messages than before and the one that bounced (R117). -/
theorem keepIn_mem {m : Msg} {due : Nat} {l : List KeptMsg} {y : KeptMsg} (h : y ∈ keepIn m due l) :
    y.msg = m ∨ ∃ x ∈ l, x.msg = y.msg := by
  unfold keepIn at h
  split at h
  · obtain ⟨x, hx, rfl⟩ := List.mem_map.1 h
    split
    · exact .inl rfl
    · refine .inr ⟨x, hx, ?_⟩; dsimp only; split <;> rfl
  · rcases List.mem_append.1 h with h | h
    · exact .inr ⟨y, List.takeWhile_subset _ h, rfl⟩
    · rcases List.mem_cons.1 h with rfl | h
      · exact .inl rfl
      · obtain ⟨x, hx, rfl⟩ := List.mem_map.1 h
        refine .inr ⟨x, (List.dropWhile_suffix _).subset hx, ?_⟩; dsimp only; split <;> rfl

/-- A bounce that an engine takes changes the core of that engine alone (R117). -/
theorem State.keepMsg_eq {s t : State} {m : Msg} (h : s.keepMsg m = some t) :
    t = s.setCore m.chan { s.core m.chan with engine := keepIn (unicastOf m) ((s.core m.chan).cyc + 512) (s.core m.chan).engine } := by
  unfold State.keepMsg at h
  dsimp only at h
  split at h
  · exact (Option.some.inj h).symm
  · cases h

/-- Bounces change cores and what is under way, and nothing else (R117). -/
theorem State.bounceAll_eq (s : State) (stay ms : List Msg) :
    s.bounceAll stay ms = { s with cores := (s.bounceAll stay ms).cores, flight := (s.bounceAll stay ms).flight } := by
  induction ms generalizing s stay with
  | nil => rfl
  | cons m ms ih =>
    unfold State.bounceAll
    split
    · next t h => rw [ih t, State.keepMsg_eq h]; rfl
    · exact ih s _

@[simp] theorem State.bounceAll_mem (s : State) (stay ms : List Msg) : (s.bounceAll stay ms).mem = s.mem := by
  rw [State.bounceAll_eq]

@[simp] theorem State.bounceAll_bmem (s : State) (stay ms : List Msg) : (s.bounceAll stay ms).bmem = s.bmem := by
  rw [State.bounceAll_eq]

/-- A versioned write leaves the core or joins the send buffer; memory stays as it is (R82, R128). -/
theorem State.vwWrite_next (s : State) (p : Pfx) (w : HeldVw) (i : Instr) : ∃ t, s.vwWrite p w i = .next t ∧ t.mem = s.mem ∧ t.bmem = s.bmem ∧
    t.flight = s.flight ++ (if s.me.staged then [] else [(s.cur, i)]) := by
  unfold State.vwWrite
  dsimp only
  split <;> refine ⟨_, rfl, rfl, rfl, ?_⟩
  · simp [State.setMe]
  · simp [State.setMe, State.enqueue]

end Sys2Proof.Machine
end

