-- ==== Sys2Proof/Laws/Ops.lean ====
section
/-! SUPPORT. What the shared operations can do: the end of a sequence, operands, events, the fault queue, and
taking a trap. -/

namespace Sys2Proof.Machine

/-! ### The end of a sequence -/

/-- A sequence that changes only the executing core's own state. -/
theorem State.finish_setMe (s : State) (p : Pfx) (k : Core) : (s.setMe k).finish p = .next (s.setMe (k.advance p)) := by
  simp [State.finish]

/-- A sequence that changes only the running enclave's state. -/
theorem State.finish_setCx (s : State) (p : Pfx) (x : Ctx) :
    (s.setCx x).finish p = .next (s.setMe ((s.me.setCx x).advance p)) := by
  simp [State.finish, State.setCx]

/-- What a register instruction answers when its source supplies a value and its result has a place. -/
theorem State.alu_next {s : State} {p : Pfx} {d last : Fin 16} {f : Word → Word} {y : Word} {k k' : Core}
    (hs : s.me.lastSource p last y k) (hd : k.resultTo p d (f y) k') :
    s.alu p d last f = .next (s.setMe (k'.advance p)) := by
  have h1 : s.me.src p last = .val y k := by
    rcases hs with ⟨h, rfl, rfl⟩ | ⟨h, n, q, hq, rfl⟩
    · simp [Core.src, h]
    · simp [Core.src, h, Core.popDq, hq]
  have h2 : k.dst p d (f y) = some k' := by
    rcases hd with ⟨h, rfl⟩ | ⟨h, hl, rfl⟩
    · simp [Core.dst, h]
    · simp [Core.dst, h, Nat.not_le.mpr hl]; rfl
  simp [State.alu, h1, h2, State.finish_setMe]

/-- Everything a register instruction can do: it completes, it waits a cycle, or it traps. -/
theorem State.alu_cases (s : State) (p : Pfx) (d last : Fin 16) (f : Word → Word) :
    (∃ y k k', s.me.lastSource p last y k ∧ k.resultTo p d (f y) k' ∧ s.alu p d last f = .next (s.setMe (k'.advance p))) ∨
    s.alu p d last f = .next (s.setMe (s.me.tick 1)) ∨ ∃ c, s.alu p d last f = s.trapMe c 0 := by
  have go : ∀ (y : Word) (k : Core), s.me.lastSource p last y k →
      (∃ y k k', s.me.lastSource p last y k ∧ k.resultTo p d (f y) k' ∧ s.alu p d last f = .next (s.setMe (k'.advance p))) ∨
      s.alu p d last f = .next (s.setMe (s.me.tick 1)) ∨ ∃ c, s.alu p d last f = s.trapMe c 0 := by
    intro y k hs
    by_cases hq : p.qs = .dstQ
    · by_cases hl : k.bq.length < 8
      · exact .inl ⟨y, k, _, hs, .inr ⟨hq, hl, rfl⟩, State.alu_next hs (.inr ⟨hq, hl, rfl⟩)⟩
      · have hl : 8 ≤ k.bq.length := Nat.not_lt.mp hl
        have h1 : s.me.src p last = .val y k := by
          rcases hs with ⟨h, rfl, rfl⟩ | ⟨h, n, q, hq', rfl⟩
          · simp [Core.src, h]
          · simp [Core.src, h, Core.popDq, hq']
        exact .inr (.inr ⟨Cause.qover, by simp [State.alu, h1, Core.dst, hq, hl]⟩)
    · exact .inl ⟨y, k, _, hs, .inl ⟨hq, rfl⟩, State.alu_next hs (.inl ⟨hq, rfl⟩)⟩
  by_cases hq : p.qs = .srcDq
  · rcases hd : s.me.dq with _ | ⟨⟨n, _ | y⟩, q⟩
    · exact .inr (.inr ⟨Cause.qunder, by simp [State.alu, Core.src, hq, Core.popDq, hd]⟩)
    · exact .inr (.inl (by simp [State.alu, Core.src, hq, Core.popDq, hd, State.waitCycle]))
    · exact go y _ (.inr ⟨hq, n, q, hd, rfl⟩)
  · exact go _ _ (.inl ⟨hq, rfl, rfl⟩)

/-! ### Operations that leave every core as it is -/

theorem State.event_cores (s : State) (cls : EventClass) (site part detail : Nat) :
    (s.event cls site part detail).cores = s.cores := by
  unfold State.event; dsimp only; split <;> rfl

theorem State.noteFull_cores (s : State) (p a : Nat) : (s.noteFull p a).cores = s.cores := by
  unfold State.noteFull; dsimp only; split
  · rfl
  · rw [State.event_cores]; rfl

theorem State.noteRoom_cores (s : State) (p a : Nat) : (s.noteRoom p a).cores = s.cores := rfl

theorem State.sendWake_cores {s t : State} {p enc cell : Nat} {va : Word} {r : Record} (h : s.sendWake p enc cell va r = some t) : t.cores = s.cores := by
  unfold State.sendWake at h
  split at h
  · injection h with h; subst h; rfl
  · cases h

theorem State.wakeAll_cores (s : State) (p key : Nat) (cell : Word) (is : List Nat) : (s.wakeAll p key cell is).cores = s.cores := by
  induction is generalizing s with
  | nil => rfl
  | cons i is ih =>
    unfold State.wakeAll
    split
    · exact ih s
    · split
      · rename_i s' h
        exact (ih _).trans ((rfl : _ = s'.cores).trans (State.sendWake_cores h))
      · exact ih _

theorem State.cellWrite_cores (s : State) (p cell : Nat) (va v : Word) (ver : Nat) : (s.cellWrite p cell va v ver).cores = s.cores := by
  unfold State.cellWrite; rw [State.wakeAll_cores]; rfl

/-- Using keys changes nothing but the keys' residency and the lifetime records. -/
theorem State.useEach_eq (s : State) (us : List Nat) :
    ∃ keys life, s.useEach us = { s with keys := keys, zen := { s.zen with life := life } } := by
  induction us generalizing s with
  | nil => exact ⟨s.keys, s.zen.life, rfl⟩
  | cons u us ih =>
    have key : ∃ keys life, s.useKey u = { s with keys := keys, zen := { s.zen with life := life } } := by
      unfold State.useKey
      split
      · exact ⟨s.keys, s.zen.life, rfl⟩
      · split
        · exact ⟨_, s.zen.life, rfl⟩
        · rename_i k _ _
          dsimp only
          have hr : ∀ t : State, ∃ keys, t.keyRoom.getD t = { t with keys := keys } := by
            intro t
            unfold State.keyRoom
            split
            · exact ⟨t.keys, rfl⟩
            · split
              · exact ⟨t.keys, rfl⟩
              · split
                · exact ⟨_, rfl⟩
                · exact ⟨t.keys, rfl⟩
          obtain ⟨ks, h⟩ := hr (s.lifeAdd 2085 0 1)
          rw [h]
          exact ⟨_, _, rfl⟩
    obtain ⟨ks, life, h⟩ := key
    obtain ⟨ks', life', h'⟩ := ih (s.useKey u)
    refine ⟨ks', life', ?_⟩
    show (s.useKey u).useEach us = _
    rw [h', h]

theorem State.useKeys_eq (s : State) (us : List Nat) :
    ∃ keys life, s.useKeys us = { s with keys := keys, zen := { s.zen with life := life } } :=
  State.useEach_eq { s with keys := touchKeys s.keys us } us

@[simp] theorem State.useKeys_cores (s : State) (us : List Nat) : (s.useKeys us).cores = s.cores := by
  obtain ⟨_, _, h⟩ := s.useKeys_eq us; rw [h]

@[simp] theorem State.useKeys_mem (s : State) (us : List Nat) : (s.useKeys us).mem = s.mem := by
  obtain ⟨_, _, h⟩ := s.useKeys_eq us; rw [h]

@[simp] theorem State.useKeys_bmem (s : State) (us : List Nat) : (s.useKeys us).bmem = s.bmem := by
  obtain ⟨_, _, h⟩ := s.useKeys_eq us; rw [h]

/-- Counting a control block that does not verify changes nothing but the lifetime records. -/
theorem State.countCtl_eq (s : State) (p a : Nat) :
    ∃ life, s.countCtl p a = { s with zen := { s.zen with life := life } } := by
  unfold State.countCtl
  dsimp only
  split
  · exact ⟨s.zen.life, rfl⟩
  · split <;> exact ⟨_, rfl⟩

@[simp] theorem State.countCtl_cores (s : State) (p a : Nat) : (s.countCtl p a).cores = s.cores := by
  obtain ⟨_, h⟩ := s.countCtl_eq p a; rw [h]

theorem State.writeFault_eq {s t : State} {p : Nat} {r : Record} (h : s.writeFault p r = some t) :
    ∃ ctl slot v, s.faultRoom p = some (ctl, slot, v) ∧
      ∃ us u, t = ((s.useKeys us).storeCells (cellsAt slot (leBytes 64 r.toNat)) u).cellWrite p ctl
        (BitVec.ofNat 64 (s.part p).fctl)
        (((s.useKeys us).storeCells (cellsAt slot (leBytes 64 r.toNat)) u).cellValue ctl + 1) ((v + 1) % 2 ^ 32) := by
  cases hr : s.faultRoom p with
  | none => simp [State.writeFault, hr] at h
  | some x =>
    obtain ⟨ctl, slot, v⟩ := x
    simp only [State.writeFault, hr, Option.some.injEq] at h
    exact ⟨ctl, slot, v, rfl, _, _, h.symm⟩

theorem State.writeFault_cores {s t : State} {p : Nat} {r : Record} (h : s.writeFault p r = some t) : t.cores = s.cores := by
  obtain ⟨ctl, slot, v, -, us, u, ht⟩ := State.writeFault_eq h
  rw [ht, State.cellWrite_cores, State.storeCells_cores, State.useKeys_cores]

theorem State.noteAll_cores (s : State) (p : Nat) (rs : List (Nat × Record)) : (s.noteAll p rs).cores = s.cores := by
  induction rs generalizing s with
  | nil => rfl
  | cons x rs ih => exact (ih _).trans (State.noteFull_cores _ _ _)

theorem State.flushList_cores (s : State) (p : Nat) (rs : List (Nat × Record)) : (s.flushList p rs).cores = s.cores := by
  induction rs generalizing s with
  | nil => rfl
  | cons x rs ih =>
    unfold State.flushList
    split
    · rename_i s' h
      exact (ih _).trans ((State.noteRoom_cores _ _ _).trans (State.writeFault_cores h))
    · exact (State.noteAll_cores _ _ _).trans (State.countCtl_cores s p x.1)

theorem State.flushKept_cores (s : State) (p : Nat) : (s.flushKept p).cores = s.cores := State.flushList_cores _ _ _

theorem State.homeWrite_cores (s : State) (p cell : Nat) (va v : Word) (ver : Nat) : (s.homeWrite p cell va v ver).cores = s.cores := by
  unfold State.homeWrite; rw [State.flushKept_cores, State.cellWrite_cores]

theorem State.core_of_cores {s t : State} (h : t.cores = s.cores) (c : Nat) : t.core c = s.core c := by
  unfold State.core; rw [h]

@[simp] theorem State.core_creditBack (s : State) (p : Nat) (q : Fin 4) (es : List Entry) (c : Nat) :
    (s.creditBack p q es).core c = s.core c := rfl

/-! ### Taking a trap (R130, R131) -/

/-- Reporting a trap writes the record or keeps it with the core, and changes nothing else of a core. -/
theorem State.reportTrap_core (s : State) (c p enc : Nat) (r : Record) :
    (s.reportTrap c p enc r).core c = s.core c ∨
    (s.reportTrap c p enc r).core c = { s.core c with keptRecs := (s.core c).keptRecs ++ [(enc, r)] } := by
  unfold State.reportTrap
  dsimp only
  split
  · split
    · rename_i s' h
      left
      rw [State.core_of_cores (State.flushKept_cores _ _) c, State.core_of_cores (State.noteRoom_cores _ _ _) c,
        State.core_of_cores (State.writeFault_cores h) c]
    · right
      rw [State.core_of_cores (State.noteFull_cores _ _ _), State.core_setCore,
        State.core_of_cores (State.countCtl_cores s p c)]
  · right; simp

theorem State.returnEntry_core (s : State) (c enc : Nat) (e : Entry) (o : Origin) :
    ∃ ctx kept, (s.returnEntry c enc e o).core c = { s.core c with ctx := ctx, keptEntries := kept } := by
  unfold State.returnEntry
  dsimp only
  split
  · exact ⟨_, _, by simp only [State.core_setCore]; rfl⟩
  · split
    · exact ⟨_, _, by simp only [State.core_creditBack, State.core_setCore]; rfl⟩
    · exact ⟨_, _, by rw [State.core_of_cores (State.event_cores _ _ _ _ _)]; simp only [State.core_setCore]; rfl⟩

@[simp] theorem State.core_taskTrapped (s : State) (p : Nat) (h : Handler) (c : Nat) : (s.taskTrapped p h).core c = s.core c := by
  unfold State.taskTrapped; split <;> rfl

/-- After a trap the core is idle with nothing of its handler left; only its enclaves' state, its kept records
and entries, and the message count can differ beyond that. -/
theorem State.trap_core (s : State) (c : Nat) (t : TrapInfo) :
    ((s.trap c t).core c).run = .idle ∧ ((s.trap c t).core c).h = Handler.none ∧ ((s.trap c t).core c).left = 0 ∧
    ((s.trap c t).core c).slot = none ∧ ((s.trap c t).core c).g = Vector.replicate 16 0 ∧
    ((s.trap c t).core c).dq = [] ∧ ((s.trap c t).core c).bq = [] ∧ ((s.trap c t).core c).sbuf = [] := by
  unfold State.trap
  dsimp only
  generalize hs0 : State.taskTrapped _ _ _ = s0
  generalize hk0 : Core.clearHandler _ = k0
  have hk : k0.run = .idle ∧ k0.h = Handler.none ∧ k0.left = 0 ∧ k0.slot = none ∧ k0.g = Vector.replicate 16 0 ∧
      k0.dq = [] ∧ k0.bq = [] ∧ k0.sbuf = [] := by
    subst hk0; exact ⟨rfl, rfl, rfl, rfl, rfl, rfl, rfl, rfl⟩
  rw [State.core_enqueue]
  obtain ⟨ctx, kept, h1⟩ := State.returnEntry_core (State.reportTrap (s0.setCore c { k0 with seqno := _ }) c _ _ _) c _ _ _
  rw [h1]
  rcases State.reportTrap_core (s0.setCore c { k0 with seqno := _ }) c _ _ _ with h2 | h2 <;> rw [h2] <;>
    simp only [State.core_setCore] <;> exact hk

/-- No handler number survives a trap: the numbers of handlers are above 0. -/
theorem State.trapMe_hid {s t : State} {c : Nat} {f : Word} (h : s.trapMe c f = .next t) (hid : s.me.h.hid ≠ 0) :
    (t.core s.cur).h.hid ≠ s.me.h.hid := by
  unfold State.trapMe at h
  injection h with h
  subst h
  rw [(State.trap_core s s.cur _).2.1]
  exact Ne.symm hid

end Sys2Proof.Machine
end

