-- ==== Sys2Proof/Laws/PerInstr.lean ====
section
/-! SUPPORT. For every instruction: what the encoder's base word looks like. -/

namespace Sys2Proof.Laws.BaseWord

/-- A base word stands on one of the pages 0 to 6, below the prefix major 15, without its stall count (R41, R42). -/
def Good (e : Enc) : Prop := e.page ≤ 6 ∧ e.base < 15 * 1024

/-- The words that the encoder gives an instruction. -/
def Statement (i : Instr) : Prop := ∀ e, i.enc = some e → Good e

theorem lo3_lt (r : Fin 16) : lo3 r < 8 := Nat.mod_lt _ (by decide)

theorem immLow_lt (v : Int) (w : Nat) : immLow v w < 2 ^ w := by
  have h : (0 : Int) < 2 ^ w := by positivity
  have h1 := Int.emod_nonneg v (Int.ne_of_gt h)
  have h2 := Int.emod_lt_of_pos v h
  unfold immLow
  zify
  rw [Int.toNat_of_nonneg h1]
  exact h2

theorem encFA_good {page major f : Nat} (d a b : Fin 16) (hp : page ≤ 6) (hm : major < 15) (hf : f < 2) :
    Good (encFA page major f d a b) := by
  have := lo3_lt d
  have := lo3_lt a
  have := lo3_lt b
  refine ⟨hp, ?_⟩
  simp only [encFA]
  omega

theorem encFB_good {page major fn : Nat} (d a : Fin 16) (hp : page ≤ 6) (hm : major < 15) (hf : fn < 16) :
    Good (encFB page major fn d a) := by
  have := lo3_lt d
  have := lo3_lt a
  refine ⟨hp, ?_⟩
  simp only [encFB]
  omega

theorem encFM_good {page major op : Nat} (p : Pfx) (d a : Fin 16) (loc : Bool) (off : Int) (hp : page ≤ 6) (hm : major < 15)
    (hf : op < 8) : Good (encFM page major op p d a loc off) := by
  have := lo3_lt d
  have := lo3_lt a
  have := Bool.toNat_le loc
  refine ⟨hp, ?_⟩
  simp only [encFM]
  omega

theorem encFD_good {fn : Nat} (p : Pfx) (d : Fin 16) (v : Int) (hf : fn < 8) : Good (encFD fn p d v) := by
  have := lo3_lt d
  have := immLow_lt v 4
  refine ⟨Nat.zero_le _, ?_⟩
  simp only [encFD]
  omega

theorem encFJ_good {c : Nat} (p : Pfx) (a : Fin 16) (v : Int) (hc : c < 4) : Good (encFJ c p a v) := by
  have := lo3_lt a
  have := immLow_lt v 5
  refine ⟨Nat.zero_le _, ?_⟩
  simp only [encFJ]
  omega

theorem encFK_good {op : Nat} (p : Pfx) (a : Fin 16) (v : Int) (ho : op < 8) : Good (encFK op p a v) := by
  have := lo3_lt a
  have := immLow_lt v 4
  refine ⟨Nat.zero_le _, ?_⟩
  simp only [encFK]
  omega

theorem encMisc_good {fn : Nat} (p : Pfx) (n : Nat) (hf : fn < 16) : Good (encMisc fn p n) := by
  have := Nat.mod_lt n (y := 8) (by decide)
  refine ⟨Nat.zero_le _, ?_⟩
  simp only [encMisc]
  omega

theorem encFX_good {op ta tb : Nat} (s : Fin 4) (ho : op < 4) (ha : ta < 8) (hb : tb < 8) : Good (encFX op s ta tb) := by
  have := s.isLt
  refine ⟨by simp [encFX], ?_⟩
  simp only [encFX]
  omega

theorem nop : ∀ x0, Statement (.nop x0) := by
  rintro x0 _ ⟨⟩
  exact ⟨by decide, by decide⟩
theorem stall : ∀ x0 x1, Statement (.stall x0 x1) := by rintro _ _ _ ⟨⟩; exact encMisc_good _ _ (by decide)
theorem cyc : ∀ x0 x1, Statement (.cyc x0 x1) := by rintro _ _ _ ⟨⟩; exact encFK_good _ _ _ (by decide)
theorem trap : ∀ x0 x1, Statement (.trap x0 x1) := by rintro _ _ _ ⟨⟩; exact encMisc_good _ _ (by decide)
theorem brk : ∀ x0 x1, Statement (.brk x0 x1) := by rintro _ _ _ ⟨⟩; exact encMisc_good _ _ (by decide)
theorem j : ∀ x0 x1, Statement (.j x0 x1) := by
  rintro x0 x1 _ ⟨⟩
  have := immLow_lt x1 7
  exact ⟨Nat.zero_le _, show 128 + immLow x1 7 < 15 * 1024 by omega⟩
theorem jl : ∀ x0 x1, Statement (.jl x0 x1) := by
  rintro x0 x1 _ ⟨⟩
  have := immLow_lt x1 7
  exact ⟨Nat.zero_le _, show 256 + immLow x1 7 < 15 * 1024 by omega⟩
theorem loop : ∀ x0 x1 x2, Statement (.loop x0 x1 x2) := by rintro _ _ _ _ ⟨⟩; exact encFK_good _ _ _ (by decide)
theorem lea : ∀ x0 x1 x2, Statement (.lea x0 x1 x2) := by rintro _ _ _ _ ⟨⟩; exact encFK_good _ _ _ (by decide)
theorem jr : ∀ x0 x1, Statement (.jr x0 x1) := by
  rintro x0 x1 _ ⟨⟩
  have := lo3_lt x1
  exact ⟨Nat.zero_le _, show 5 * 128 + lo3 x1 * 16 < 15 * 1024 by omega⟩
theorem jlr : ∀ x0 x1 x2, Statement (.jlr x0 x1 x2) := by
  rintro x0 x1 x2 _ ⟨⟩
  have := lo3_lt x1
  have := lo3_lt x2
  exact ⟨Nat.zero_le _, show 5 * 128 + lo3 x2 * 16 + lo3 x1 * 2 + 1 < 15 * 1024 by omega⟩
theorem rdc : ∀ x0 x1 x2, Statement (.rdc x0 x1 x2) := by rintro _ _ _ _ ⟨⟩; exact encFK_good _ _ _ (by decide)
theorem wrc : ∀ x0 x1 x2, Statement (.wrc x0 x1 x2) := by rintro _ _ _ _ ⟨⟩; exact encFK_good _ _ _ (by decide)
theorem add : ∀ x0 x1 x2 x3, Statement (.add x0 x1 x2 x3) := by rintro _ _ _ _ _ ⟨⟩; exact encFA_good _ _ _ (by decide) (by decide) (by decide)
theorem sub : ∀ x0 x1 x2 x3, Statement (.sub x0 x1 x2 x3) := by rintro _ _ _ _ _ ⟨⟩; exact encFA_good _ _ _ (by decide) (by decide) (by decide)
theorem and : ∀ x0 x1 x2 x3, Statement (.and x0 x1 x2 x3) := by rintro _ _ _ _ _ ⟨⟩; exact encFA_good _ _ _ (by decide) (by decide) (by decide)
theorem or : ∀ x0 x1 x2 x3, Statement (.or x0 x1 x2 x3) := by rintro _ _ _ _ _ ⟨⟩; exact encFA_good _ _ _ (by decide) (by decide) (by decide)
theorem xor : ∀ x0 x1 x2 x3, Statement (.xor x0 x1 x2 x3) := by rintro _ _ _ _ _ ⟨⟩; exact encFA_good _ _ _ (by decide) (by decide) (by decide)
theorem mul : ∀ x0 x1 x2 x3, Statement (.mul x0 x1 x2 x3) := by rintro _ _ _ _ _ ⟨⟩; exact encFA_good _ _ _ (by decide) (by decide) (by decide)
theorem sll : ∀ x0 x1 x2 x3, Statement (.sll x0 x1 x2 x3) := by rintro _ _ _ _ _ ⟨⟩; exact encFA_good _ _ _ (by decide) (by decide) (by decide)
theorem srl : ∀ x0 x1 x2 x3, Statement (.srl x0 x1 x2 x3) := by rintro _ _ _ _ _ ⟨⟩; exact encFA_good _ _ _ (by decide) (by decide) (by decide)
theorem slt : ∀ x0 x1 x2 x3, Statement (.slt x0 x1 x2 x3) := by rintro _ _ _ _ _ ⟨⟩; exact encFA_good _ _ _ (by decide) (by decide) (by decide)
theorem sltu : ∀ x0 x1 x2 x3, Statement (.sltu x0 x1 x2 x3) := by rintro _ _ _ _ _ ⟨⟩; exact encFA_good _ _ _ (by decide) (by decide) (by decide)
theorem sra : ∀ x0 x1 x2, Statement (.sra x0 x1 x2) := by rintro _ _ _ _ ⟨⟩; exact encFB_good _ _ (by decide) (by decide) (by decide)
theorem ror : ∀ x0 x1 x2, Statement (.ror x0 x1 x2) := by rintro _ _ _ _ ⟨⟩; exact encFB_good _ _ (by decide) (by decide) (by decide)
theorem mulh : ∀ x0 x1 x2, Statement (.mulh x0 x1 x2) := by rintro _ _ _ _ ⟨⟩; exact encFB_good _ _ (by decide) (by decide) (by decide)
theorem mulhu : ∀ x0 x1 x2, Statement (.mulhu x0 x1 x2) := by rintro _ _ _ _ ⟨⟩; exact encFB_good _ _ (by decide) (by decide) (by decide)
theorem div : ∀ x0 x1 x2, Statement (.div x0 x1 x2) := by rintro _ _ _ _ ⟨⟩; exact encFB_good _ _ (by decide) (by decide) (by decide)
theorem divu : ∀ x0 x1 x2, Statement (.divu x0 x1 x2) := by rintro _ _ _ _ ⟨⟩; exact encFB_good _ _ (by decide) (by decide) (by decide)
theorem rem : ∀ x0 x1 x2, Statement (.rem x0 x1 x2) := by rintro _ _ _ _ ⟨⟩; exact encFB_good _ _ (by decide) (by decide) (by decide)
theorem remu : ∀ x0 x1 x2, Statement (.remu x0 x1 x2) := by rintro _ _ _ _ ⟨⟩; exact encFB_good _ _ (by decide) (by decide) (by decide)
theorem min : ∀ x0 x1 x2, Statement (.min x0 x1 x2) := by rintro _ _ _ _ ⟨⟩; exact encFB_good _ _ (by decide) (by decide) (by decide)
theorem max : ∀ x0 x1 x2, Statement (.max x0 x1 x2) := by rintro _ _ _ _ ⟨⟩; exact encFB_good _ _ (by decide) (by decide) (by decide)
theorem minu : ∀ x0 x1 x2, Statement (.minu x0 x1 x2) := by rintro _ _ _ _ ⟨⟩; exact encFB_good _ _ (by decide) (by decide) (by decide)
theorem maxu : ∀ x0 x1 x2, Statement (.maxu x0 x1 x2) := by rintro _ _ _ _ ⟨⟩; exact encFB_good _ _ (by decide) (by decide) (by decide)
theorem seq : ∀ x0 x1 x2, Statement (.seq x0 x1 x2) := by rintro _ _ _ _ ⟨⟩; exact encFB_good _ _ (by decide) (by decide) (by decide)
theorem sne : ∀ x0 x1 x2, Statement (.sne x0 x1 x2) := by rintro _ _ _ _ ⟨⟩; exact encFB_good _ _ (by decide) (by decide) (by decide)
theorem andn : ∀ x0 x1 x2, Statement (.andn x0 x1 x2) := by rintro _ _ _ _ ⟨⟩; exact encFB_good _ _ (by decide) (by decide) (by decide)
theorem mov : ∀ x0 x1 x2, Statement (.mov x0 x1 x2) := by rintro _ _ _ _ ⟨⟩; exact encFB_good _ _ (by decide) (by decide) (by decide)
theorem neg : ∀ x0 x1 x2, Statement (.neg x0 x1 x2) := by rintro _ _ _ _ ⟨⟩; exact encFB_good _ _ (by decide) (by decide) (by decide)
theorem not : ∀ x0 x1 x2, Statement (.not x0 x1 x2) := by rintro _ _ _ _ ⟨⟩; exact encFB_good _ _ (by decide) (by decide) (by decide)
theorem clz : ∀ x0 x1 x2, Statement (.clz x0 x1 x2) := by rintro _ _ _ _ ⟨⟩; exact encFB_good _ _ (by decide) (by decide) (by decide)
theorem ctz : ∀ x0 x1 x2, Statement (.ctz x0 x1 x2) := by rintro _ _ _ _ ⟨⟩; exact encFB_good _ _ (by decide) (by decide) (by decide)
theorem popc : ∀ x0 x1 x2, Statement (.popc x0 x1 x2) := by rintro _ _ _ _ ⟨⟩; exact encFB_good _ _ (by decide) (by decide) (by decide)
theorem brev : ∀ x0 x1 x2, Statement (.brev x0 x1 x2) := by rintro _ _ _ _ ⟨⟩; exact encFB_good _ _ (by decide) (by decide) (by decide)
theorem bswap : ∀ x0 x1 x2, Statement (.bswap x0 x1 x2) := by rintro _ _ _ _ ⟨⟩; exact encFB_good _ _ (by decide) (by decide) (by decide)
theorem sextb : ∀ x0 x1 x2, Statement (.sextb x0 x1 x2) := by rintro _ _ _ _ ⟨⟩; exact encFB_good _ _ (by decide) (by decide) (by decide)
theorem sexth : ∀ x0 x1 x2, Statement (.sexth x0 x1 x2) := by rintro _ _ _ _ ⟨⟩; exact encFB_good _ _ (by decide) (by decide) (by decide)
theorem sextw : ∀ x0 x1 x2, Statement (.sextw x0 x1 x2) := by rintro _ _ _ _ ⟨⟩; exact encFB_good _ _ (by decide) (by decide) (by decide)
theorem zextb : ∀ x0 x1 x2, Statement (.zextb x0 x1 x2) := by rintro _ _ _ _ ⟨⟩; exact encFB_good _ _ (by decide) (by decide) (by decide)
theorem zexth : ∀ x0 x1 x2, Statement (.zexth x0 x1 x2) := by rintro _ _ _ _ ⟨⟩; exact encFB_good _ _ (by decide) (by decide) (by decide)
theorem zextw : ∀ x0 x1 x2, Statement (.zextw x0 x1 x2) := by rintro _ _ _ _ ⟨⟩; exact encFB_good _ _ (by decide) (by decide) (by decide)
theorem addi : ∀ x0 x1 x2 x3, Statement (.addi x0 x1 x2 x3) := by
  rintro x0 x1 x2 x3 _ ⟨⟩
  have := lo3_lt x1
  have := lo3_lt x2
  have := immLow_lt x3 4
  exact ⟨Nat.zero_le _, show 8 * 1024 + lo3 x1 * 128 + lo3 x2 * 16 + immLow x3 4 < 15 * 1024 by omega⟩
theorem andi : ∀ x0 x1 x2, Statement (.andi x0 x1 x2) := by rintro _ _ _ _ ⟨⟩; exact encFD_good _ _ _ (by decide)
theorem ori : ∀ x0 x1 x2, Statement (.ori x0 x1 x2) := by rintro _ _ _ _ ⟨⟩; exact encFD_good _ _ _ (by decide)
theorem xori : ∀ x0 x1 x2, Statement (.xori x0 x1 x2) := by rintro _ _ _ _ ⟨⟩; exact encFD_good _ _ _ (by decide)
theorem slli : ∀ x0 x1 x2, Statement (.slli x0 x1 x2) := by rintro _ _ _ _ ⟨⟩; exact encFD_good _ _ _ (by decide)
theorem srli : ∀ x0 x1 x2, Statement (.srli x0 x1 x2) := by rintro _ _ _ _ ⟨⟩; exact encFD_good _ _ _ (by decide)
theorem srai : ∀ x0 x1 x2, Statement (.srai x0 x1 x2) := by rintro _ _ _ _ ⟨⟩; exact encFD_good _ _ _ (by decide)
theorem slti : ∀ x0 x1 x2, Statement (.slti x0 x1 x2) := by rintro _ _ _ _ ⟨⟩; exact encFD_good _ _ _ (by decide)
theorem seqi : ∀ x0 x1 x2, Statement (.seqi x0 x1 x2) := by rintro _ _ _ _ ⟨⟩; exact encFD_good _ _ _ (by decide)
theorem li : ∀ x0 x1 x2, Statement (.li x0 x1 x2) := by
  rintro x0 x1 x2 _ ⟨⟩
  have := lo3_lt x1
  have := immLow_lt x2 7
  exact ⟨Nat.zero_le _, show 10 * 1024 + lo3 x1 * 128 + immLow x2 7 < 15 * 1024 by omega⟩
theorem ldb : ∀ x0 x1 x2 x3 x4, Statement (.ldb x0 x1 x2 x3 x4) := by rintro _ _ _ _ _ _ ⟨⟩; exact encFM_good _ _ _ _ _ (by decide) (by decide) (by decide)
theorem ldbu : ∀ x0 x1 x2 x3 x4, Statement (.ldbu x0 x1 x2 x3 x4) := by rintro _ _ _ _ _ _ ⟨⟩; exact encFM_good _ _ _ _ _ (by decide) (by decide) (by decide)
theorem ldh : ∀ x0 x1 x2 x3 x4, Statement (.ldh x0 x1 x2 x3 x4) := by rintro _ _ _ _ _ _ ⟨⟩; exact encFM_good _ _ _ _ _ (by decide) (by decide) (by decide)
theorem ldhu : ∀ x0 x1 x2 x3 x4, Statement (.ldhu x0 x1 x2 x3 x4) := by rintro _ _ _ _ _ _ ⟨⟩; exact encFM_good _ _ _ _ _ (by decide) (by decide) (by decide)
theorem ldw : ∀ x0 x1 x2 x3 x4, Statement (.ldw x0 x1 x2 x3 x4) := by rintro _ _ _ _ _ _ ⟨⟩; exact encFM_good _ _ _ _ _ (by decide) (by decide) (by decide)
theorem ldwu : ∀ x0 x1 x2 x3 x4, Statement (.ldwu x0 x1 x2 x3 x4) := by rintro _ _ _ _ _ _ ⟨⟩; exact encFM_good _ _ _ _ _ (by decide) (by decide) (by decide)
theorem ld : ∀ x0 x1 x2 x3 x4, Statement (.ld x0 x1 x2 x3 x4) := by rintro _ _ _ _ _ _ ⟨⟩; exact encFM_good _ _ _ _ _ (by decide) (by decide) (by decide)
theorem stb : ∀ x0 x1 x2 x3 x4, Statement (.stb x0 x1 x2 x3 x4) := by rintro _ _ _ _ _ _ ⟨⟩; exact encFM_good _ _ _ _ _ (by decide) (by decide) (by decide)
theorem sth : ∀ x0 x1 x2 x3 x4, Statement (.sth x0 x1 x2 x3 x4) := by rintro _ _ _ _ _ _ ⟨⟩; exact encFM_good _ _ _ _ _ (by decide) (by decide) (by decide)
theorem stw : ∀ x0 x1 x2 x3 x4, Statement (.stw x0 x1 x2 x3 x4) := by rintro _ _ _ _ _ _ ⟨⟩; exact encFM_good _ _ _ _ _ (by decide) (by decide) (by decide)
theorem st : ∀ x0 x1 x2 x3 x4, Statement (.st x0 x1 x2 x3 x4) := by rintro _ _ _ _ _ _ ⟨⟩; exact encFM_good _ _ _ _ _ (by decide) (by decide) (by decide)
theorem swp : ∀ x0 x1 x2, Statement (.swp x0 x1 x2) := by rintro _ _ _ _ ⟨⟩; exact encFB_good _ _ (by decide) (by decide) (by decide)
theorem cas : ∀ x0 x1 x2, Statement (.cas x0 x1 x2) := by rintro _ _ _ _ ⟨⟩; exact encFB_good _ _ (by decide) (by decide) (by decide)
theorem aadd : ∀ x0 x1 x2, Statement (.aadd x0 x1 x2) := by rintro _ _ _ _ ⟨⟩; exact encFB_good _ _ (by decide) (by decide) (by decide)
theorem aand : ∀ x0 x1 x2, Statement (.aand x0 x1 x2) := by rintro _ _ _ _ ⟨⟩; exact encFB_good _ _ (by decide) (by decide) (by decide)
theorem aor : ∀ x0 x1 x2, Statement (.aor x0 x1 x2) := by rintro _ _ _ _ ⟨⟩; exact encFB_good _ _ (by decide) (by decide) (by decide)
theorem axor : ∀ x0 x1 x2, Statement (.axor x0 x1 x2) := by rintro _ _ _ _ ⟨⟩; exact encFB_good _ _ (by decide) (by decide) (by decide)
theorem amin : ∀ x0 x1 x2, Statement (.amin x0 x1 x2) := by rintro _ _ _ _ ⟨⟩; exact encFB_good _ _ (by decide) (by decide) (by decide)
theorem amax : ∀ x0 x1 x2, Statement (.amax x0 x1 x2) := by rintro _ _ _ _ ⟨⟩; exact encFB_good _ _ (by decide) (by decide) (by decide)
theorem aminu : ∀ x0 x1 x2, Statement (.aminu x0 x1 x2) := by rintro _ _ _ _ ⟨⟩; exact encFB_good _ _ (by decide) (by decide) (by decide)
theorem amaxu : ∀ x0 x1 x2, Statement (.amaxu x0 x1 x2) := by rintro _ _ _ _ ⟨⟩; exact encFB_good _ _ (by decide) (by decide) (by decide)
theorem fence : ∀ x0, Statement (.fence x0) := by
  rintro x0 _ ⟨⟩
  exact ⟨by decide, by decide⟩
theorem bz : ∀ x0 x1 x2, Statement (.bz x0 x1 x2) := by rintro _ _ _ _ ⟨⟩; exact encFJ_good _ _ _ (by decide)
theorem bnz : ∀ x0 x1 x2, Statement (.bnz x0 x1 x2) := by rintro _ _ _ _ ⟨⟩; exact encFJ_good _ _ _ (by decide)
theorem bltz : ∀ x0 x1 x2, Statement (.bltz x0 x1 x2) := by rintro _ _ _ _ ⟨⟩; exact encFJ_good _ _ _ (by decide)
theorem bgez : ∀ x0 x1 x2, Statement (.bgez x0 x1 x2) := by rintro _ _ _ _ ⟨⟩; exact encFJ_good _ _ _ (by decide)
theorem vadd : ∀ x0 x1 x2 x3, Statement (.vadd x0 x1 x2 x3) := by rintro _ _ _ _ _ ⟨⟩; exact encFA_good _ _ _ (by decide) (by decide) (by decide)
theorem vsub : ∀ x0 x1 x2 x3, Statement (.vsub x0 x1 x2 x3) := by rintro _ _ _ _ _ ⟨⟩; exact encFA_good _ _ _ (by decide) (by decide) (by decide)
theorem vmul : ∀ x0 x1 x2 x3, Statement (.vmul x0 x1 x2 x3) := by rintro _ _ _ _ _ ⟨⟩; exact encFA_good _ _ _ (by decide) (by decide) (by decide)
theorem vfma : ∀ x0 x1 x2 x3, Statement (.vfma x0 x1 x2 x3) := by rintro _ _ _ _ _ ⟨⟩; exact encFA_good _ _ _ (by decide) (by decide) (by decide)
theorem vmin : ∀ x0 x1 x2 x3, Statement (.vmin x0 x1 x2 x3) := by rintro _ _ _ _ _ ⟨⟩; exact encFA_good _ _ _ (by decide) (by decide) (by decide)
theorem vmax : ∀ x0 x1 x2 x3, Statement (.vmax x0 x1 x2 x3) := by rintro _ _ _ _ _ ⟨⟩; exact encFA_good _ _ _ (by decide) (by decide) (by decide)
theorem vand : ∀ x0 x1 x2 x3, Statement (.vand x0 x1 x2 x3) := by rintro _ _ _ _ _ ⟨⟩; exact encFA_good _ _ _ (by decide) (by decide) (by decide)
theorem vor : ∀ x0 x1 x2 x3, Statement (.vor x0 x1 x2 x3) := by rintro _ _ _ _ _ ⟨⟩; exact encFA_good _ _ _ (by decide) (by decide) (by decide)
theorem vxor : ∀ x0 x1 x2 x3, Statement (.vxor x0 x1 x2 x3) := by rintro _ _ _ _ _ ⟨⟩; exact encFA_good _ _ _ (by decide) (by decide) (by decide)
theorem vsel : ∀ x0 x1 x2 x3, Statement (.vsel x0 x1 x2 x3) := by rintro _ _ _ _ _ ⟨⟩; exact encFA_good _ _ _ (by decide) (by decide) (by decide)
theorem vcmpeq : ∀ x0 x1 x2 x3, Statement (.vcmpeq x0 x1 x2 x3) := by rintro _ _ _ _ _ ⟨⟩; exact encFA_good _ _ _ (by decide) (by decide) (by decide)
theorem vcmplt : ∀ x0 x1 x2 x3, Statement (.vcmplt x0 x1 x2 x3) := by rintro _ _ _ _ _ ⟨⟩; exact encFA_good _ _ _ (by decide) (by decide) (by decide)
theorem vcmple : ∀ x0 x1 x2 x3, Statement (.vcmple x0 x1 x2 x3) := by rintro _ _ _ _ _ ⟨⟩; exact encFA_good _ _ _ (by decide) (by decide) (by decide)
theorem vcmpne : ∀ x0 x1 x2 x3, Statement (.vcmpne x0 x1 x2 x3) := by rintro _ _ _ _ _ ⟨⟩; exact encFA_good _ _ _ (by decide) (by decide) (by decide)
theorem vsll : ∀ x0 x1 x2, Statement (.vsll x0 x1 x2) := by rintro _ _ _ _ ⟨⟩; exact encFB_good _ _ (by decide) (by decide) (by decide)
theorem vsrl : ∀ x0 x1 x2, Statement (.vsrl x0 x1 x2) := by rintro _ _ _ _ ⟨⟩; exact encFB_good _ _ (by decide) (by decide) (by decide)
theorem vsra : ∀ x0 x1 x2, Statement (.vsra x0 x1 x2) := by rintro _ _ _ _ ⟨⟩; exact encFB_good _ _ (by decide) (by decide) (by decide)
theorem vandn : ∀ x0 x1 x2, Statement (.vandn x0 x1 x2) := by rintro _ _ _ _ ⟨⟩; exact encFB_good _ _ (by decide) (by decide) (by decide)
theorem vadds : ∀ x0 x1 x2, Statement (.vadds x0 x1 x2) := by rintro _ _ _ _ ⟨⟩; exact encFB_good _ _ (by decide) (by decide) (by decide)
theorem vsubs : ∀ x0 x1 x2, Statement (.vsubs x0 x1 x2) := by rintro _ _ _ _ ⟨⟩; exact encFB_good _ _ (by decide) (by decide) (by decide)
theorem vperm : ∀ x0 x1 x2, Statement (.vperm x0 x1 x2) := by rintro _ _ _ _ ⟨⟩; exact encFB_good _ _ (by decide) (by decide) (by decide)
theorem vsat : ∀ x0 x1 x2, Statement (.vsat x0 x1 x2) := by rintro _ _ _ _ ⟨⟩; exact encFB_good _ _ (by decide) (by decide) (by decide)
theorem vscan : ∀ x0 x1 x2, Statement (.vscan x0 x1 x2) := by rintro _ _ _ _ ⟨⟩; exact encFB_good _ _ (by decide) (by decide) (by decide)
theorem vrsum : ∀ x0 x1 x2, Statement (.vrsum x0 x1 x2) := by rintro _ _ _ _ ⟨⟩; exact encFB_good _ _ (by decide) (by decide) (by decide)
theorem vrmax : ∀ x0 x1 x2, Statement (.vrmax x0 x1 x2) := by rintro _ _ _ _ ⟨⟩; exact encFB_good _ _ (by decide) (by decide) (by decide)
theorem vrmin : ∀ x0 x1 x2, Statement (.vrmin x0 x1 x2) := by rintro _ _ _ _ ⟨⟩; exact encFB_good _ _ (by decide) (by decide) (by decide)
theorem vlse : ∀ x0 x1 x2, Statement (.vlse x0 x1 x2) := by rintro _ _ _ _ ⟨⟩; exact encFB_good _ _ (by decide) (by decide) (by decide)
theorem vbcast : ∀ x0 x1 x2, Statement (.vbcast x0 x1 x2) := by rintro _ _ _ _ ⟨⟩; exact encFB_good _ _ (by decide) (by decide) (by decide)
theorem vrot : ∀ x0 x1 x2, Statement (.vrot x0 x1 x2) := by rintro _ _ _ _ ⟨⟩; exact encFB_good _ _ (by decide) (by decide) (by decide)
theorem vabs : ∀ x0 x1 x2, Statement (.vabs x0 x1 x2) := by rintro _ _ _ _ ⟨⟩; exact encFB_good _ _ (by decide) (by decide) (by decide)
theorem vneg : ∀ x0 x1 x2, Statement (.vneg x0 x1 x2) := by rintro _ _ _ _ ⟨⟩; exact encFB_good _ _ (by decide) (by decide) (by decide)
theorem vnot : ∀ x0 x1 x2, Statement (.vnot x0 x1 x2) := by rintro _ _ _ _ ⟨⟩; exact encFB_good _ _ (by decide) (by decide) (by decide)
theorem vmov : ∀ x0 x1 x2, Statement (.vmov x0 x1 x2) := by rintro _ _ _ _ ⟨⟩; exact encFB_good _ _ (by decide) (by decide) (by decide)
theorem vexp2 : ∀ x0 x1 x2, Statement (.vexp2 x0 x1 x2) := by rintro _ _ _ _ ⟨⟩; exact encFB_good _ _ (by decide) (by decide) (by decide)
theorem vlog2 : ∀ x0 x1 x2, Statement (.vlog2 x0 x1 x2) := by rintro _ _ _ _ ⟨⟩; exact encFB_good _ _ (by decide) (by decide) (by decide)
theorem vrcp : ∀ x0 x1 x2, Statement (.vrcp x0 x1 x2) := by rintro _ _ _ _ ⟨⟩; exact encFB_good _ _ (by decide) (by decide) (by decide)
theorem vrsq : ∀ x0 x1 x2, Statement (.vrsq x0 x1 x2) := by rintro _ _ _ _ ⟨⟩; exact encFB_good _ _ (by decide) (by decide) (by decide)
theorem vsplat : ∀ x0 x1 x2, Statement (.vsplat x0 x1 x2) := by rintro _ _ _ _ ⟨⟩; exact encFB_good _ _ (by decide) (by decide) (by decide)
theorem vget : ∀ x0 x1 x2, Statement (.vget x0 x1 x2) := by rintro _ _ _ _ ⟨⟩; exact encFB_good _ _ (by decide) (by decide) (by decide)
theorem vcvt : ∀ x0 x1 x2, Statement (.vcvt x0 x1 x2) := by rintro _ _ _ _ ⟨⟩; exact encFB_good _ _ (by decide) (by decide) (by decide)
theorem vcvtr : ∀ x0 x1 x2 x3, Statement (.vcvtr x0 x1 x2 x3) := by rintro _ _ _ _ _ ⟨⟩; exact encFA_good _ _ _ (by decide) (by decide) (by decide)
theorem vqnt : ∀ x0 x1 x2 x3, Statement (.vqnt x0 x1 x2 x3) := by rintro _ _ _ _ _ ⟨⟩; exact encFA_good _ _ _ (by decide) (by decide) (by decide)
theorem vdq : ∀ x0 x1 x2 x3, Statement (.vdq x0 x1 x2 x3) := by rintro _ _ _ _ _ ⟨⟩; exact encFA_good _ _ _ (by decide) (by decide) (by decide)
theorem vld : ∀ x0 x1 x2 x3 x4, Statement (.vld x0 x1 x2 x3 x4) := by rintro _ _ _ _ _ _ ⟨⟩; exact encFM_good _ _ _ _ _ (by decide) (by decide) (by decide)
theorem vst : ∀ x0 x1 x2 x3 x4, Statement (.vst x0 x1 x2 x3 x4) := by rintro _ _ _ _ _ _ ⟨⟩; exact encFM_good _ _ _ _ _ (by decide) (by decide) (by decide)
theorem vgth : ∀ x0 x1 x2 x3, Statement (.vgth x0 x1 x2 x3) := by rintro _ _ _ _ _ ⟨⟩; exact encFA_good _ _ _ (by decide) (by decide) (by decide)
theorem vsct : ∀ x0 x1 x2 x3, Statement (.vsct x0 x1 x2 x3) := by rintro _ _ _ _ _ ⟨⟩; exact encFA_good _ _ _ (by decide) (by decide) (by decide)
theorem kand : ∀ x0 x1 x2 x3, Statement (.kand x0 x1 x2 x3) := by rintro _ _ _ _ _ ⟨⟩; exact encFA_good _ _ _ (by decide) (by decide) (by decide)
theorem kor : ∀ x0 x1 x2 x3, Statement (.kor x0 x1 x2 x3) := by rintro _ _ _ _ _ ⟨⟩; exact encFA_good _ _ _ (by decide) (by decide) (by decide)
theorem kxor : ∀ x0 x1 x2, Statement (.kxor x0 x1 x2) := by rintro _ _ _ _ ⟨⟩; exact encFB_good _ _ (by decide) (by decide) (by decide)
theorem knot : ∀ x0 x1 x2, Statement (.knot x0 x1 x2) := by rintro _ _ _ _ ⟨⟩; exact encFB_good _ _ (by decide) (by decide) (by decide)
theorem kmov : ∀ x0 x1 x2, Statement (.kmov x0 x1 x2) := by rintro _ _ _ _ ⟨⟩; exact encFB_good _ _ (by decide) (by decide) (by decide)
theorem kpop : ∀ x0 x1 x2, Statement (.kpop x0 x1 x2) := by rintro _ _ _ _ ⟨⟩; exact encFB_good _ _ (by decide) (by decide) (by decide)
theorem kfirst : ∀ x0 x1 x2, Statement (.kfirst x0 x1 x2) := by rintro _ _ _ _ ⟨⟩; exact encFB_good _ _ (by decide) (by decide) (by decide)
theorem kset : ∀ x0 x1, Statement (.kset x0 x1) := by rintro _ _ _ ⟨⟩; exact encFB_good _ _ (by decide) (by decide) (by decide)
theorem kclr : ∀ x0 x1, Statement (.kclr x0 x1) := by rintro _ _ _ ⟨⟩; exact encFB_good _ _ (by decide) (by decide) (by decide)
theorem tcfg : ∀ x0 x1 x2, Statement (.tcfg x0 x1 x2) := by rintro _ _ _ _ ⟨⟩; exact encFB_good _ _ (by decide) (by decide) (by decide)
theorem trdc : ∀ x0 x1 x2, Statement (.trdc x0 x1 x2) := by rintro _ _ _ _ ⟨⟩; exact encFB_good _ _ (by decide) (by decide) (by decide)
theorem tz : ∀ x0 x1, Statement (.tz x0 x1) := by rintro _ _ _ ⟨⟩; exact encFB_good _ _ (by decide) (by decide) (by decide)
theorem ttr : ∀ x0 x1 x2, Statement (.ttr x0 x1 x2) := by rintro _ _ _ _ ⟨⟩; exact encFB_good _ _ (by decide) (by decide) (by decide)
theorem tfill : ∀ x0 x1 x2, Statement (.tfill x0 x1 x2) := by rintro _ _ _ _ ⟨⟩; exact encFB_good _ _ (by decide) (by decide) (by decide)
theorem tqnt : ∀ x0 x1 x2, Statement (.tqnt x0 x1 x2) := by rintro _ _ _ _ ⟨⟩; exact encFB_good _ _ (by decide) (by decide) (by decide)
theorem acvt : ∀ x0 x1 x2, Statement (.acvt x0 x1 x2) := by rintro _ _ _ _ ⟨⟩; exact encFB_good _ _ (by decide) (by decide) (by decide)
theorem aclr : ∀ x0 x1, Statement (.aclr x0 x1) := by rintro _ _ _ ⟨⟩; exact encFB_good _ _ (by decide) (by decide) (by decide)
theorem tldl : ∀ x0 x1 x2 x3, Statement (.tldl x0 x1 x2 x3) := by rintro _ _ _ _ _ ⟨⟩; exact encFM_good _ _ _ _ _ (by decide) (by decide) (by decide)
theorem tstl : ∀ x0 x1 x2 x3, Statement (.tstl x0 x1 x2 x3) := by rintro _ _ _ _ _ ⟨⟩; exact encFM_good _ _ _ _ _ (by decide) (by decide) (by decide)
theorem aldl : ∀ x0 x1 x2 x3, Statement (.aldl x0 x1 x2 x3) := by rintro _ _ _ _ _ ⟨⟩; exact encFM_good _ _ _ _ _ (by decide) (by decide) (by decide)
theorem astl : ∀ x0 x1 x2 x3, Statement (.astl x0 x1 x2 x3) := by rintro _ _ _ _ _ ⟨⟩; exact encFM_good _ _ _ _ _ (by decide) (by decide) (by decide)
theorem mma : ∀ x0 x1 x2 x3, Statement (.mma x0 x1 x2 x3) := by rintro _ _ _ _ _ ⟨⟩; exact encFX_good _ (by decide) (Fin.isLt _) (Fin.isLt _)
theorem mmas : ∀ x0 x1 x2 x3, Statement (.mmas x0 x1 x2 x3) := by rintro _ _ _ _ _ ⟨⟩; exact encFX_good _ (by decide) (Fin.isLt _) (Fin.isLt _)
theorem mmab : ∀ x0 x1 x2 x3, Statement (.mmab x0 x1 x2 x3) := by rintro _ _ _ _ _ ⟨⟩; exact encFX_good _ (by decide) (Fin.isLt _) (Fin.isLt _)
theorem mmam : ∀ x0 x1 x2, Statement (.mmam x0 x1 x2) := by
  rintro x0 x1 x2 _ ⟨⟩
  exact encFX_good (op := 3) (tb := 0) x1 (by decide) (lo3_lt x2) (by decide)
theorem send : ∀ x0 x1 x2, Statement (.send x0 x1 x2) := by rintro _ _ _ _ ⟨⟩; exact encFB_good _ _ (by decide) (by decide) (by decide)
theorem sendm : ∀ x0 x1 x2, Statement (.sendm x0 x1 x2) := by rintro _ _ _ _ ⟨⟩; exact encFB_good _ _ (by decide) (by decide) (by decide)
theorem sendq : ∀ x0 x1, Statement (.sendq x0 x1) := by rintro _ _ _ ⟨⟩; exact encFB_good _ _ (by decide) (by decide) (by decide)
theorem spawn : ∀ x0 x1, Statement (.spawn x0 x1) := by rintro _ _ _ ⟨⟩; exact encFB_good _ _ (by decide) (by decide) (by decide)
theorem done : ∀ x0, Statement (.done x0) := by rintro _ _ ⟨⟩; exact encFB_good _ _ (by decide) (by decide) (by decide)
theorem yield : ∀ x0, Statement (.yield x0) := by rintro _ _ ⟨⟩; exact encFB_good _ _ (by decide) (by decide) (by decide)
theorem post : ∀ x0 x1 x2, Statement (.post x0 x1 x2) := by rintro _ _ _ _ ⟨⟩; exact encFB_good _ _ (by decide) (by decide) (by decide)
theorem xget : ∀ x0 x1 x2, Statement (.xget x0 x1 x2) := by rintro _ _ _ _ ⟨⟩; exact encFB_good _ _ (by decide) (by decide) (by decide)
theorem qcfg : ∀ x0 x1 x2, Statement (.qcfg x0 x1 x2) := by rintro _ _ _ _ ⟨⟩; exact encFB_good _ _ (by decide) (by decide) (by decide)
theorem qpop : ∀ x0 x1 x2, Statement (.qpop x0 x1 x2) := by rintro _ _ _ _ ⟨⟩; exact encFB_good _ _ (by decide) (by decide) (by decide)
theorem park : ∀ x0 x1 x2, Statement (.park x0 x1 x2) := by rintro _ _ _ _ ⟨⟩; exact encFB_good _ _ (by decide) (by decide) (by decide)
theorem vwld : ∀ x0 x1 x2 x3, Statement (.vwld x0 x1 x2 x3) := by rintro _ _ _ _ _ ⟨⟩; exact encFA_good _ _ _ (by decide) (by decide) (by decide)
theorem vwst : ∀ x0 x1 x2 x3, Statement (.vwst x0 x1 x2 x3) := by rintro _ _ _ _ _ ⟨⟩; exact encFA_good _ _ _ (by decide) (by decide) (by decide)
theorem vwinc : ∀ x0 x1 x2, Statement (.vwinc x0 x1 x2) := by rintro _ _ _ _ ⟨⟩; exact encFB_good _ _ (by decide) (by decide) (by decide)
theorem vwpk : ∀ x0 x1 x2, Statement (.vwpk x0 x1 x2) := by rintro _ _ _ _ ⟨⟩; exact encFB_good _ _ (by decide) (by decide) (by decide)
theorem vwrst : ∀ x0 x1, Statement (.vwrst x0 x1) := by rintro _ _ _ ⟨⟩; exact encFB_good _ _ (by decide) (by decide) (by decide)
theorem att : ∀ x0 x1, Statement (.att x0 x1) := by rintro _ _ _ ⟨⟩; exact encFB_good _ _ (by decide) (by decide) (by decide)
theorem det : ∀ x0 x1, Statement (.det x0 x1) := by rintro _ _ _ ⟨⟩; exact encFB_good _ _ (by decide) (by decide) (by decide)
theorem hand : ∀ x0 x1 x2, Statement (.hand x0 x1 x2) := by rintro _ _ _ _ ⟨⟩; exact encFB_good _ _ (by decide) (by decide) (by decide)
theorem bqry : ∀ x0 x1 x2, Statement (.bqry x0 x1 x2) := by rintro _ _ _ _ ⟨⟩; exact encFB_good _ _ (by decide) (by decide) (by decide)
theorem revoke : ∀ x0 x1, Statement (.revoke x0 x1) := by rintro _ _ _ ⟨⟩; exact encFB_good _ _ (by decide) (by decide) (by decide)
theorem bzero : ∀ x0 x1, Statement (.bzero x0 x1) := by rintro _ _ _ ⟨⟩; exact encFB_good _ _ (by decide) (by decide) (by decide)
theorem handx : ∀ x0 x1 x2 x3, Statement (.handx x0 x1 x2 x3) := by rintro _ _ _ _ _ ⟨⟩; exact encFA_good _ _ _ (by decide) (by decide) (by decide)
theorem cpy : ∀ x0 x1, Statement (.cpy x0 x1) := by rintro _ _ _ ⟨⟩; exact encFB_good _ _ (by decide) (by decide) (by decide)
theorem cpyw : ∀ x0 x1, Statement (.cpyw x0 x1) := by rintro _ _ _ ⟨⟩; exact encFB_good _ _ (by decide) (by decide) (by decide)
theorem cpym : ∀ x0 x1, Statement (.cpym x0 x1) := by rintro _ _ _ ⟨⟩; exact encFB_good _ _ (by decide) (by decide) (by decide)
theorem ccan : ∀ x0 x1, Statement (.ccan x0 x1) := by rintro _ _ _ ⟨⟩; exact encFB_good _ _ (by decide) (by decide) (by decide)
theorem cqset : ∀ x0 x1 x2, Statement (.cqset x0 x1 x2) := by rintro _ _ _ _ ⟨⟩; exact encFB_good _ _ (by decide) (by decide) (by decide)
theorem cpos : ∀ x0 x1 x2 x3, Statement (.cpos x0 x1 x2 x3) := by rintro _ _ _ _ _ ⟨⟩; exact encFB_good _ _ (by decide) (by decide) (by omega)
theorem cwait : ∀ x0 x1 x2, Statement (.cwait x0 x1 x2) := by rintro _ _ _ _ ⟨⟩; exact encFB_good _ _ (by decide) (by decide) (by omega)
theorem task : ∀ x0 x1, Statement (.task x0 x1) := by rintro _ _ _ ⟨⟩; exact encFB_good _ _ (by decide) (by decide) (by decide)
theorem ttag : ∀ x0 x1 x2, Statement (.ttag x0 x1 x2) := by rintro _ _ _ _ ⟨⟩; exact encFB_good _ _ (by decide) (by decide) (by decide)
theorem tshape : ∀ x0 x1 x2, Statement (.tshape x0 x1 x2) := by rintro _ _ _ _ ⟨⟩; exact encFB_good _ _ (by decide) (by decide) (by decide)
theorem tqry : ∀ x0 x1 x2, Statement (.tqry x0 x1 x2) := by rintro _ _ _ _ ⟨⟩; exact encFB_good _ _ (by decide) (by decide) (by decide)
theorem mtload : ∀ x0 x1, Statement (.mtload x0 x1) := by rintro _ _ _ ⟨⟩; exact encFB_good _ _ (by decide) (by decide) (by decide)
theorem pload : ∀ x0 x1 x2 x3, Statement (.pload x0 x1 x2 x3) := by rintro _ _ _ _ _ ⟨⟩; exact encFA_good _ _ _ (by decide) (by decide) (by decide)
theorem pdist : ∀ x0 x1 x2 x3, Statement (.pdist x0 x1 x2 x3) := by rintro _ _ _ _ _ ⟨⟩; exact encFA_good _ _ _ (by decide) (by decide) (by decide)
theorem psetm : ∀ x0 x1 x2, Statement (.psetm x0 x1 x2) := by rintro _ _ _ _ ⟨⟩; exact encFB_good _ _ (by decide) (by decide) (by decide)
theorem psets : ∀ x0 x1 x2, Statement (.psets x0 x1 x2) := by rintro _ _ _ _ ⟨⟩; exact encFB_good _ _ (by decide) (by decide) (by decide)
theorem bal : ∀ x0 x1, Statement (.bal x0 x1) := by rintro _ _ _ ⟨⟩; exact encFB_good _ _ (by decide) (by decide) (by decide)
theorem balx : ∀ x0 x1 x2, Statement (.balx x0 x1 x2) := by rintro _ _ _ _ ⟨⟩; exact encFB_good _ _ (by decide) (by decide) (by decide)
theorem pmat : ∀ x0 x1 x2, Statement (.pmat x0 x1 x2) := by rintro _ _ _ _ ⟨⟩; exact encFB_good _ _ (by decide) (by decide) (by decide)
theorem pstat : ∀ x0 x1, Statement (.pstat x0 x1) := by rintro _ _ _ ⟨⟩; exact encFB_good _ _ (by decide) (by decide) (by decide)
theorem pmovToBank : ∀ x0 x1 x2, Statement (.pmovToBank x0 x1 x2) := by rintro _ _ _ _ ⟨⟩; exact encFB_good _ _ (by decide) (by decide) (by decide)
theorem pmovFromBank : ∀ x0 x1 x2, Statement (.pmovFromBank x0 x1 x2) := by rintro _ _ _ _ ⟨⟩; exact encFB_good _ _ (by decide) (by decide) (by decide)
theorem mcall : ∀ x0 x1, Statement (.mcall x0 x1) := by
  rintro x0 x1 _ ⟨⟩
  have := lo3_lt x1
  exact ⟨Nat.le_refl 6, show lo3 x1 * 128 < 15 * 1024 by omega⟩
theorem clrst : ∀ x0, Statement (.clrst x0) := by
  rintro x0 _ ⟨⟩
  exact ⟨by decide, by decide⟩
theorem idle : ∀ x0, Statement (.idle x0) := by
  rintro x0 _ ⟨⟩
  exact ⟨by decide, by decide⟩
theorem wrcWp : ∀ x0 x1, Statement (.wrcWp x0 x1) := fun _ _ _ h => nomatch h
theorem wrcVtype : ∀ x0 x1, Statement (.wrcVtype x0 x1) := fun _ _ _ h => nomatch h
theorem wrcBs : ∀ x0 x1, Statement (.wrcBs x0 x1) := fun _ _ _ h => nomatch h
theorem wrcSmc : ∀ x0 x1, Statement (.wrcSmc x0 x1) := fun _ _ _ h => nomatch h
theorem wrcFmt : ∀ x0 x1 x2, Statement (.wrcFmt x0 x1 x2) := fun _ _ _ _ h => nomatch h
theorem rdcSbcnt : ∀ x0 x1, Statement (.rdcSbcnt x0 x1) := fun _ _ _ h => nomatch h
theorem rdcKmc : ∀ x0 x1, Statement (.rdcKmc x0 x1) := fun _ _ _ h => nomatch h
theorem fifoArrival : ∀ x0, Statement (.fifoArrival x0) := fun _ _ h => nomatch h
theorem rankedArrival : ∀ x0, Statement (.rankedArrival x0) := fun _ _ h => nomatch h
theorem messageAccepted : ∀ x0, Statement (.messageAccepted x0) := fun _ _ h => nomatch h
theorem multicastForward : ∀ x0 x1 x2, Statement (.multicastForward x0 x1 x2) := fun _ _ _ _ h => nomatch h
theorem linkValueArrival : ∀ x0, Statement (.linkValueArrival x0) := fun _ _ h => nomatch h
theorem linkCreditReturn : ∀ x0 x1, Statement (.linkCreditReturn x0 x1) := fun _ _ _ h => nomatch h
theorem vwHomeLoad : ∀ x0, Statement (.vwHomeLoad x0) := fun _ _ h => nomatch h
theorem vwHomePark : ∀ x0, Statement (.vwHomePark x0) := fun _ _ h => nomatch h
theorem vwHomeStore : ∀ x0, Statement (.vwHomeStore x0) := fun _ _ h => nomatch h
theorem vwHomeInc : ∀ x0, Statement (.vwHomeInc x0) := fun _ _ h => nomatch h
theorem vwHomePeek : ∀ x0, Statement (.vwHomePeek x0) := fun _ _ h => nomatch h
theorem vwHomeReset : ∀ x0, Statement (.vwHomeReset x0) := fun _ _ h => nomatch h
theorem vwReply : ∀ x0, Statement (.vwReply x0) := fun _ _ h => nomatch h
theorem handReservation : ∀ x0, Statement (.handReservation x0) := fun _ _ h => nomatch h
theorem handGrant : ∀ x0 x1, Statement (.handGrant x0 x1) := fun _ _ _ h => nomatch h
theorem bankAttach : ∀ x0, Statement (.bankAttach x0) := fun _ _ h => nomatch h
theorem bankReturnPool : ∀ x0, Statement (.bankReturnPool x0) := fun _ _ h => nomatch h
theorem bankRevoked : ∀ x0, Statement (.bankRevoked x0) := fun _ _ h => nomatch h
theorem scrubComplete : ∀ x0, Statement (.scrubComplete x0) := fun _ _ h => nomatch h
theorem bankPoison : ∀ x0 x1, Statement (.bankPoison x0 x1) := fun _ _ _ h => nomatch h
theorem copyCommand : ∀ x0, Statement (.copyCommand x0) := fun _ _ h => nomatch h
theorem cpymVersionReached : ∀ x0, Statement (.cpymVersionReached x0) := fun _ _ h => nomatch h
theorem asterTaskArrival : ∀ x0, Statement (.asterTaskArrival x0) := fun _ _ h => nomatch h
theorem asterStagingDone : ∀ x0, Statement (.asterStagingDone x0) := fun _ _ h => nomatch h
theorem asterRetirement : ∀ x0, Statement (.asterRetirement x0) := fun _ _ h => nomatch h
theorem illegalSequence : ∀ x0 x1 x2, Statement (.illegalSequence x0 x1 x2) := fun _ _ _ _ h => nomatch h
theorem fetchFault : ∀ x0 x1, Statement (.fetchFault x0 x1) := fun _ _ _ h => nomatch h
theorem accessPerformed : ∀ x0, Statement (.accessPerformed x0) := fun _ _ h => nomatch h
theorem mver : Statement (.mver) := fun _ h => nomatch h
theorem qheld : Statement (.qheld) := fun _ h => nomatch h
theorem fqset : Statement (.fqset) := fun _ h => nomatch h
theorem tqset : Statement (.tqset) := fun _ h => nomatch h
theorem maskset : Statement (.maskset) := fun _ h => nomatch h
theorem treeset : Statement (.treeset) := fun _ h => nomatch h
theorem cpool : Statement (.cpool) := fun _ h => nomatch h
theorem kimport : Statement (.kimport) := fun _ h => nomatch h
theorem krevoke : Statement (.krevoke) := fun _ h => nomatch h
theorem resume : Statement (.resume) := fun _ h => nomatch h
theorem kstate : Statement (.kstate) := fun _ h => nomatch h
theorem tctl : Statement (.tctl) := fun _ h => nomatch h
theorem ptmap : Statement (.ptmap) := fun _ h => nomatch h
theorem nextAction : Statement (.nextAction) := fun _ h => nomatch h
theorem steal : Statement (.steal) := fun _ h => nomatch h
theorem idleRetry : Statement (.idleRetry) := fun _ h => nomatch h
theorem headAging : Statement (.headAging) := fun _ h => nomatch h
theorem bounceResend : Statement (.bounceResend) := fun _ h => nomatch h
theorem sendRoomFreed : Statement (.sendRoomFreed) := fun _ h => nomatch h
theorem budgetExpiry : Statement (.budgetExpiry) := fun _ h => nomatch h
theorem faultRecordDeferred : Statement (.faultRecordDeferred) := fun _ h => nomatch h
theorem mmamStep : Statement (.mmamStep) := fun _ h => nomatch h
theorem balSweep : Statement (.balSweep) := fun _ h => nomatch h
theorem copyLine : Statement (.copyLine) := fun _ h => nomatch h
theorem copyBudgetWindow : Statement (.copyBudgetWindow) := fun _ h => nomatch h
theorem asterDependenceMet : Statement (.asterDependenceMet) := fun _ h => nomatch h
theorem methodTableInstall : Statement (.methodTableInstall) := fun _ h => nomatch h
theorem keyReload : Statement (.keyReload) := fun _ h => nomatch h
theorem directoryOverflow : Statement (.directoryOverflow) := fun _ h => nomatch h
theorem keyInvalidationComplete : Statement (.keyInvalidationComplete) := fun _ h => nomatch h
theorem sliceExpiry : Statement (.sliceExpiry) := fun _ h => nomatch h
theorem hostSubmit : Statement (.hostSubmit) := fun _ h => nomatch h
theorem getVersion : Statement (.getVersion) := fun _ h => nomatch h
theorem getCapabilities : Statement (.getCapabilities) := fun _ h => nomatch h
theorem negotiateAlgorithms : Statement (.negotiateAlgorithms) := fun _ h => nomatch h
theorem getDigests : Statement (.getDigests) := fun _ h => nomatch h
theorem getCertificate : Statement (.getCertificate) := fun _ h => nomatch h
theorem challenge : Statement (.challenge) := fun _ h => nomatch h
theorem getMeasurements : Statement (.getMeasurements) := fun _ h => nomatch h
theorem keyExchange : Statement (.keyExchange) := fun _ h => nomatch h
theorem finish : Statement (.finish) := fun _ h => nomatch h
theorem keyUpdate : Statement (.keyUpdate) := fun _ h => nomatch h
theorem heartbeat : Statement (.heartbeat) := fun _ h => nomatch h
theorem endSession : Statement (.endSession) := fun _ h => nomatch h
theorem unsupportedRequest : Statement (.unsupportedRequest) := fun _ h => nomatch h
theorem lockInterfaceRequest : Statement (.lockInterfaceRequest) := fun _ h => nomatch h
theorem startInterfaceRequest : Statement (.startInterfaceRequest) := fun _ h => nomatch h
theorem stopInterfaceRequest : Statement (.stopInterfaceRequest) := fun _ h => nomatch h
theorem getDeviceInterfaceReport : Statement (.getDeviceInterfaceReport) := fun _ h => nomatch h
theorem keyProg : Statement (.keyProg) := fun _ h => nomatch h
theorem keyActivate : Statement (.keyActivate) := fun _ h => nomatch h
theorem keyRetire : Statement (.keyRetire) := fun _ h => nomatch h
theorem keyRevoke : Statement (.keyRevoke) := fun _ h => nomatch h
theorem partCreate : Statement (.partCreate) := fun _ h => nomatch h
theorem partRebuild : Statement (.partRebuild) := fun _ h => nomatch h
theorem partDestroy : Statement (.partDestroy) := fun _ h => nomatch h
theorem bankRelease : Statement (.bankRelease) := fun _ h => nomatch h
theorem ideThresh : Statement (.ideThresh) := fun _ h => nomatch h
theorem lifetimeRead : Statement (.lifetimeRead) := fun _ h => nomatch h
theorem debugDisable : Statement (.debugDisable) := fun _ h => nomatch h
theorem debugEnable : Statement (.debugEnable) := fun _ h => nomatch h
theorem debugResume : Statement (.debugResume) := fun _ h => nomatch h
theorem debugReadRegister : Statement (.debugReadRegister) := fun _ h => nomatch h
theorem debugWriteRegister : Statement (.debugWriteRegister) := fun _ h => nomatch h
theorem measLog : Statement (.measLog) := fun _ h => nomatch h
theorem partResume : Statement (.partResume) := fun _ h => nomatch h
theorem imgLoad : Statement (.imgLoad) := fun _ h => nomatch h
theorem kSetGo : Statement (.kSetGo) := fun _ h => nomatch h
theorem ideRekeyDue : Statement (.ideRekeyDue) := fun _ h => nomatch h
theorem ideInsecure : Statement (.ideInsecure) := fun _ h => nomatch h
theorem atsInvalidation : Statement (.atsInvalidation) := fun _ h => nomatch h
theorem atsInvalidationComplete : Statement (.atsInvalidationComplete) := fun _ h => nomatch h
theorem evtailWrite : Statement (.evtailWrite) := fun _ h => nomatch h
theorem fatalCoreError : Statement (.fatalCoreError) := fun _ h => nomatch h
theorem correctedError : Statement (.correctedError) := fun _ h => nomatch h
theorem meshLinkFailure : Statement (.meshLinkFailure) := fun _ h => nomatch h
theorem thermalTrip : Statement (.thermalTrip) := fun _ h => nomatch h
theorem clockStretch : Statement (.clockStretch) := fun _ h => nomatch h
theorem powerOn : Statement (.powerOn) := fun _ h => nomatch h
theorem lifetimeFlush : Statement (.lifetimeFlush) := fun _ h => nomatch h
theorem powerDown : Statement (.powerDown) := fun _ h => nomatch h
theorem cirrusLinkBringup : Statement (.cirrusLinkBringup) := fun _ h => nomatch h
theorem lossOfPower : Statement (.lossOfPower) := fun _ h => nomatch h

end Sys2Proof.Laws.BaseWord
end

