-- ==== Sys2Proof/Laws/Vectors.lean ====
section
/-! SUPPORT. Elements of a register built from its codes, and what an element instruction leaves. -/

namespace Sys2Proof.Machine

theorem ofElems_fold (w : Nat) (xs : List Nat) (k : Nat) :
    xs.foldr (fun c acc => c % 2 ^ w + 2 ^ w * acc) 0 / 2 ^ (w * k) % 2 ^ w = xs.getD k 0 % 2 ^ w := by
  induction xs generalizing k with
  | nil => simp
  | cons x xs ih =>
    have hp : 0 < 2 ^ w := Nat.two_pow_pos w
    have hx : x % 2 ^ w < 2 ^ w := Nat.mod_lt _ hp
    cases k with
    | zero => simp [Nat.add_mul_mod_self_left]
    | succ k =>
      have e : 2 ^ (w * (k + 1)) = 2 ^ w * 2 ^ (w * k) := by rw [Nat.mul_succ, Nat.add_comm, Nat.pow_add]
      simp only [List.foldr_cons, List.getD_cons_succ, e, ← Nat.div_div_eq_div_mul]
      rw [Nat.add_mul_div_left _ _ hp, Nat.div_eq_of_lt hx, Nat.zero_add, ih]

theorem ofElems_lt (w : Nat) (xs : List Nat) :
    xs.foldr (fun c acc => c % 2 ^ w + 2 ^ w * acc) 0 < 2 ^ (w * xs.length) := by
  induction xs with
  | nil => simp
  | cons x xs ih =>
    have hp : 0 < 2 ^ w := Nat.two_pow_pos w
    have hx : x % 2 ^ w < 2 ^ w := Nat.mod_lt _ hp
    have e : 2 ^ (w * (xs.length + 1)) = 2 ^ w * 2 ^ (w * xs.length) := by rw [Nat.mul_succ, Nat.add_comm, Nat.pow_add]
    simp only [List.foldr_cons, List.length_cons, e]
    calc _ < 2 ^ w + 2 ^ w * xs.foldr (fun c acc => c % 2 ^ w + 2 ^ w * acc) 0 := by omega
      _ = 2 ^ w * (xs.foldr (fun c acc => c % 2 ^ w + 2 ^ w * acc) 0 + 1) := by ring
      _ ≤ _ := Nat.mul_le_mul_left _ ih

theorem ofElems_toNat (n w : Nat) (xs : List Nat) (h : w * xs.length ≤ n) :
    (ofElems n w xs).toNat = xs.foldr (fun c acc => c % 2 ^ w + 2 ^ w * acc) 0 := by
  simp only [ofElems, BitVec.toNat_ofNat]
  exact Nat.mod_eq_of_lt (lt_of_lt_of_le (ofElems_lt w xs) (Nat.pow_le_pow_right (by decide) h))

/-- Element k of a register built from codes. -/
theorem elemAt_ofElems (n w : Nat) (xs : List Nat) (k : Nat) (h : w * xs.length ≤ n) :
    elemAt (ofElems n w xs) w k = xs.getD k 0 % 2 ^ w := by
  rw [elemAt, ofElems_toNat n w xs h, ofElems_fold]

theorem elemAt_lt {n : Nat} (x : BitVec n) (w k : Nat) : elemAt x w k < 2 ^ w :=
  Nat.mod_lt _ (Nat.two_pow_pos w)

theorem bitOf_getLsbD {n : Nat} (x : BitVec n) (i : Nat) : bitOf x i = x.getLsbD i := by
  simp only [bitOf, BitVec.getLsbD, Nat.testBit_eq_decide_div_mod_eq]
  cases h : decide (x.toNat / 2 ^ i % 2 = 1) <;> simp_all

/-- The container widths that the format names give (R167). -/
theorem entryFmt_cw (v : Word) : (entryFmt v).cw = 4 ∨ (entryFmt v).cw = 8 := by
  unfold entryFmt
  dsimp only
  split <;> simp

theorem namedFmt_cw {fmts : Vector Word 16} {wc code : Nat} {f : Fmt} (h : namedFmt fmts wc code = some f) :
    f.cw = 4 ∨ f.cw = 8 ∨ f.cw = 16 ∨ f.cw = 32 ∨ f.cw = 64 := by
  unfold namedFmt at h
  split at h
  · unfold entryAt at h
    dsimp only at h
    split at h
    · cases h
    · split at h
      · cases h
      · cases h
        rcases entryFmt_cw fmts[Fin.ofNat 16 code] with h | h
        · exact .inl h
        · exact .inr (.inl h)
  · repeat' split at h
    all_goals first | (have h := Option.some.inj h; subst h; simp [bf16, fp16, fp32, int16, int32, int64]) | cases h

theorem elemType_cw {c : Ctx} {f : Fmt} (h : c.elemType = some f) : f.cw * (1024 / f.cw) = 1024 := by
  rcases namedFmt_cw h with h | h | h | h | h <;> simp [h]

theorem active_iff (s : State) (cw j : Nat) : s.cx.active cw j = true ↔ s.governed cw j := by
  simp only [Ctx.active, Ctx.men, Ctx.mreg, State.governed, bitOf_getLsbD]
  cases h : s.cx.vtype.getLsbD 4 <;> simp

theorem foldl_or_testBit (l : List (Nat × Nat)) (a b : Nat) :
    (l.foldl (fun acc r => acc ||| r.2) a).testBit b = true ↔
      a.testBit b = true ∨ ∃ r ∈ l, r.2.testBit b = true := by
  induction l generalizing a with
  | nil => simp
  | cons x l ih => simp [ih, Nat.testBit_or, or_assoc]

/-- What the element operation leaves (R188). -/
theorem elemOp_elements (s : State) (f : Fmt) (d : Fin 16) (g g' : Nat → Nat × Nat) (hcw : f.cw * (1024 / f.cw) = 1024)
    (hg : ∀ j, (g j).1 = (g' j).1 ∧ ∀ b, (g j).2.testBit b = (g' j).2.testBit b) :
    s.ElementsOf f d g' (s.cx.elemOp f (s.cx.vreg d) g).1 (s.cx.elemOp f (s.cx.vreg d) g).2 := by
  simp only [Ctx.elemOp]
  refine ⟨fun j hj => ?_, fun b => ?_⟩
  · rw [elemAt_ofElems _ _ _ _ (by simp [hcw])]
    have ha := active_iff s f.cw j
    refine ⟨fun h => ?_, fun h => ?_⟩
    · simp [hj, ha.mpr h, (hg j).1]
    · have h' : s.cx.active f.cw j = false := by
        cases h2 : s.cx.active f.cw j
        · rfl
        · exact absurd (ha.mp h2) h
      by_cases hz : bitOf s.cx.vtype 5 = true
      · simp [hj, h', Ctx.mz, hz]
      · simp [hj, h', Ctx.mz, hz, Ctx.vreg, Nat.mod_eq_of_lt (elemAt_lt _ _ _)]
  · rw [foldl_or_testBit]
    simp only [Nat.zero_testBit, Bool.false_eq_true, false_or, List.mem_map, List.mem_range]
    constructor
    · rintro ⟨r, ⟨j, hj, rfl⟩, hr⟩
      by_cases h : s.cx.active f.cw j = true
      · rw [if_pos h] at hr
        exact ⟨j, hj, (active_iff s f.cw j).mp h, by rw [← (hg j).2]; exact hr⟩
      · rw [if_neg h] at hr
        simp at hr
    · rintro ⟨j, hj, h, hr⟩
      refine ⟨g j, ⟨j, hj, by rw [if_pos ((active_iff s f.cw j).mpr h)]⟩, by rw [(hg j).2]; exact hr⟩

theorem code_eq (s : State) (f : Fmt) (r : Fin 16) (j : Nat) : codeAt f (s.cx.vreg r) j = s.vcode f r j := rfl

end Sys2Proof.Machine
end

