-- ==== Sys2Proof/Tests/Slice0.lean ====
section
/-! SUPPORT. Tests: ill-formed sequences that WellFormed refuses, one word for every row of the opcode
table that has one, written out from the row's pattern and fields, the witnesses of the statements'
hypotheses, and small steps. -/

namespace Sys2Proof.Tests

open Sys2Proof.Machine

set_option Elab.async false

/-! ### WellFormed: one ill-formed term for each check -/

theorem test_wf_stall : (Instr.nop { stall := 64, pxr := true }).wf = false := by decide
theorem test_wf_long_stall_without_pxr : (Instr.nop { stall := 4 }).wf = false := by decide
theorem test_wf_page_without_pxp : (Instr.vadd {} 1 2 3).wf = false := by decide
theorem test_wf_order_without_pxp : (Instr.ld { order := .acq } 1 2 false 0).wf = false := by decide
theorem test_wf_scope_without_pxp : (Instr.fence { scope := .die }).wf = false := by decide
theorem test_wf_high_register_without_pxr : (Instr.add {} 8 2 3).wf = false := by decide
theorem test_wf_queue_select_without_pxr : (Instr.add { qs := .srcDq } 1 2 0).wf = false := by decide
theorem test_wf_five_prefixes : (Instr.addi { pxp := true, pxr := true, npxi := 3 } 1 2 0).wf = false := by decide
theorem test_wf_modifiers : (Instr.ld { pxp := true, order := .rel } 1 2 false 0).wf = false ∧
    (Instr.add { pxp := true, order := .acq } 1 2 3).wf = false ∧
    (Instr.swp { pxp := true, scope := .die } 1 2).wf = false ∧
    (Instr.vwst { pxp := true, order := .rel } 1 2 3).wf = false ∧
    (Instr.ld { pxp := true, order := .acq } 1 2 true 0).wf = false := by decide
theorem test_wf_queue_select : (Instr.add { pxr := true, qs := .dstQ } 0 2 3).wf = false ∧
    (Instr.ld { pxr := true, qs := .srcDq } 1 2 false 0).wf = false ∧
    (Instr.nop { pxr := true, qs := .bqCond }).wf = false := by decide
theorem test_wf_replaced_field : (Instr.add { pxr := true, qs := .srcDq } 1 2 3).wf = false ∧
    (Instr.slt { pxr := true, qs := .dstQ } 1 2 3).wf = false := by decide
theorem test_wf_immediate_range : (Instr.addi {} 1 2 8).wf = false ∧ (Instr.j {} (-65)).wf = false ∧
    (Instr.addi { npxi := 1 } 1 2 2048).wf = false ∧ (Instr.ld {} 1 2 true 1).wf = false ∧
    (Instr.trap {} 8).wf = false := by decide
theorem test_wf_pxi_without_immediate : (Instr.add { npxi := 1 } 1 2 3).wf = false := by decide
theorem test_wf_shift_amount : (Instr.slli { npxi := 1 } 1 64).wf = false := by decide
theorem test_wf_control_register : (Instr.rdc {} 1 15).wf = false ∧ (Instr.rdc { npxi := 1 } 1 32).wf = false := by decide
theorem test_wf_register_pair : (Instr.cas {} 1 2).wf = false ∧ (Instr.vwpk { pxp := true } 3 2).wf = false := by decide

/-! ### Decoding: one word for every row, from its pattern and fields in the table -/

/-- The words decode to the instruction, all of them read. -/
def decodesTo (y : List HalfWord × Instr) : Bool := decodeWords y.1 == .ok y.2 y.1.length

def p : Pfx := { stall := 2 }
def x : Pfx := { stall := 2, pxp := true }

theorem test_decode_page0_a : (
    [([0x8001], .nop p), ([0x8052], .stall p 5), ([0x8063], .cyc p 6), ([0x8054], .trap p 5), ([0x8055], .brk p 5),
    ([0x80ed], .j p (-19)), ([0x816d], .jl p (-19)), ([0x81bd], .loop p 3 (-3)), ([0x826d], .lea p 6 (-3)),
    ([0x82b0], .jr p 3), ([0x82bd], .jlr p 6 3), ([0x8369], .rdc p 6 9), ([0x83b9], .wrc p 3 9),
    ([0x873a], .add p 6 3 5), ([0x873b], .sub p 6 3 5), ([0x8b3a], .and p 6 3 5), ([0x8b3b], .or p 6 3 5),
    ([0x8f3a], .xor p 6 3 5), ([0x8f3b], .mul p 6 3 5), ([0x933a], .sll p 6 3 5), ([0x933b], .srl p 6 3 5),
    ([0x973a], .slt p 6 3 5), ([0x973b], .sltu p 6 3 5), ([0x9b30], .sra p 6 3), ([0x9b31], .ror p 6 3),
    ([0x9b32], .mulh p 6 3), ([0x9b33], .mulhu p 6 3), ([0x9b34], .div p 6 3), ([0x9b35], .divu p 6 3),
    ([0x9b36], .rem p 6 3), ([0x9b37], .remu p 6 3), ([0x9b38], .min p 6 3), ([0x9b39], .max p 6 3),
    ([0x9b3a], .minu p 6 3), ([0x9b3b], .maxu p 6 3), ([0x9b3c], .seq p 6 3), ([0x9b3d], .sne p 6 3),
    ([0x9b3e], .andn p 6 3), ([0x9b3f], .mov p 6 3), ([0x9f30], .neg p 6 3)] :
      List (List HalfWord × Instr)).all decodesTo = true := by decide +kernel

theorem test_decode_page0_b : (
    [([0x9f31], .not p 6 3), ([0x9f32], .clz p 6 3), ([0x9f33], .ctz p 6 3), ([0x9f34], .popc p 6 3),
    ([0x9f35], .brev p 6 3), ([0x9f36], .bswap p 6 3), ([0x9f37], .sextb p 6 3), ([0x9f38], .sexth p 6 3),
    ([0x9f39], .sextw p 6 3), ([0x9f3a], .zextb p 6 3), ([0x9f3b], .zexth p 6 3), ([0x9f3c], .zextw p 6 3),
    ([0xa33d], .addi p 6 3 (-3)), ([0xa70d], .andi p 6 (-3)), ([0xa71d], .ori p 6 (-3)), ([0xa72d], .xori p 6 (-3)),
    ([0xa73b], .slli p 6 11), ([0xa74b], .srli p 6 11), ([0xa75b], .srai p 6 11), ([0xa76d], .slti p 6 (-3)),
    ([0xa77d], .seqi p 6 (-3)), ([0xab6d], .li p 6 (-19)), ([0xaf31], .ldb p 6 3 true 0),
    ([0xaf33], .ldbu p 6 3 true 0), ([0xaf35], .ldh p 6 3 true 0), ([0xaf37], .ldhu p 6 3 true 0),
    ([0xaf39], .ldw p 6 3 true 0), ([0xaf3b], .ldwu p 6 3 true 0), ([0xaf3d], .ld p 6 3 true 0),
    ([0xb331], .stb p 6 3 true 0), ([0xb333], .sth p 6 3 true 0), ([0xb335], .stw p 6 3 true 0),
    ([0xb337], .st p 6 3 true 0), ([0xb730], .swp p 6 3), ([0xb731], .cas p 6 3), ([0xb732], .aadd p 6 3),
    ([0xb733], .aand p 6 3), ([0xb734], .aor p 6 3), ([0xb735], .axor p 6 3), ([0xb736], .amin p 6 3)] :
      List (List HalfWord × Instr)).all decodesTo = true := by decide +kernel

theorem test_decode_page0_c : (
    [([0xb737], .amax p 6 3), ([0xb738], .aminu p 6 3), ([0xb739], .amaxu p 6 3), ([0xb40a], .fence p),
    ([0xb997], .bz p 3 (-9)), ([0xb9b7], .bnz p 3 (-9)), ([0xb9d7], .bltz p 3 (-9)), ([0xb9f7], .bgez p 3 (-9))] :
      List (List HalfWord × Instr)).all decodesTo = true := by decide +kernel

theorem test_decode_page1_a : (
    [([0xbc80, 0x833a], .vadd x 6 3 5), ([0xbc80, 0x833b], .vsub x 6 3 5), ([0xbc80, 0x873a], .vmul x 6 3 5),
    ([0xbc80, 0x873b], .vfma x 6 3 5), ([0xbc80, 0x8b3a], .vmin x 6 3 5), ([0xbc80, 0x8b3b], .vmax x 6 3 5),
    ([0xbc80, 0x8f3a], .vand x 6 3 5), ([0xbc80, 0x8f3b], .vor x 6 3 5), ([0xbc80, 0x933a], .vxor x 6 3 5),
    ([0xbc80, 0x933b], .vsel x 6 3 5), ([0xbc80, 0x973a], .vcmpeq x 6 3 5), ([0xbc80, 0x973b], .vcmplt x 6 3 5),
    ([0xbc80, 0x9b3a], .vcmple x 6 3 5), ([0xbc80, 0x9b3b], .vcmpne x 6 3 5), ([0xbc80, 0x9f30], .vsll x 6 3),
    ([0xbc80, 0x9f31], .vsrl x 6 3), ([0xbc80, 0x9f32], .vsra x 6 3), ([0xbc80, 0x9f33], .vandn x 6 3),
    ([0xbc80, 0x9f34], .vadds x 6 3), ([0xbc80, 0x9f35], .vsubs x 6 3), ([0xbc80, 0x9f36], .vperm x 6 3),
    ([0xbc80, 0x9f37], .vsat x 6 3), ([0xbc80, 0x9f38], .vscan x 6 3), ([0xbc80, 0x9f39], .vrsum x 6 3),
    ([0xbc80, 0x9f3a], .vrmax x 6 3), ([0xbc80, 0x9f3b], .vrmin x 6 3), ([0xbc80, 0x9f3c], .vlse x 6 3),
    ([0xbc80, 0x9f3d], .vbcast x 6 3), ([0xbc80, 0x9f3e], .vrot x 6 3), ([0xbc80, 0xa330], .vabs x 6 3),
    ([0xbc80, 0xa331], .vneg x 6 3), ([0xbc80, 0xa332], .vnot x 6 3), ([0xbc80, 0xa333], .vmov x 6 3),
    ([0xbc80, 0xa334], .vexp2 x 6 3), ([0xbc80, 0xa335], .vlog2 x 6 3), ([0xbc80, 0xa336], .vrcp x 6 3),
    ([0xbc80, 0xa337], .vrsq x 6 3), ([0xbc80, 0xa338], .vsplat x 6 3), ([0xbc80, 0xa339], .vget x 6 3),
    ([0xbc80, 0xa730], .vcvt x 6 3)] :
      List (List HalfWord × Instr)).all decodesTo = true := by decide +kernel

theorem test_decode_page1_b : (
    [([0xbc80, 0xa73b], .vcvtr x 6 3 5), ([0xbc80, 0xab3a], .vqnt x 6 3 5), ([0xbc80, 0xab3b], .vdq x 6 3 5),
    ([0xbc80, 0xaf31], .vld x 6 3 true 0), ([0xbc80, 0xaf33], .vst x 6 3 true 0), ([0xbc80, 0xb33a], .vgth x 6 3 5),
    ([0xbc80, 0xb33b], .vsct x 6 3 5), ([0xbc80, 0xb73a], .kand x 6 3 5), ([0xbc80, 0xb73b], .kor x 6 3 5),
    ([0xbc80, 0xbb30], .kxor x 6 3), ([0xbc80, 0xbb31], .knot x 6 3), ([0xbc80, 0xbb32], .kmov x 6 3),
    ([0xbc80, 0xbb33], .kpop x 6 3), ([0xbc80, 0xbb34], .kfirst x 6 3), ([0xbc80, 0xbb05], .kset x 6),
    ([0xbc80, 0xbb06], .kclr x 6)] :
      List (List HalfWord × Instr)).all decodesTo = true := by decide +kernel

theorem test_decode_page2 : (
    [([0xbd00, 0x8330], .tcfg x 6 3), ([0xbd00, 0x8331], .trdc x 6 3), ([0xbd00, 0x8302], .tz x 6),
    ([0xbd00, 0x8333], .ttr x 6 3), ([0xbd00, 0x8344], .tfill x 6 4), ([0xbd00, 0x8315], .tqnt x 6 1),
    ([0xbd00, 0x8316], .acvt x 6 1), ([0xbd00, 0x8107], .aclr x 2), ([0xbd00, 0x8731], .tldl x 6 3 0),
    ([0xbd00, 0x8733], .tstl x 6 3 0), ([0xbd00, 0x8535], .aldl x 2 3 0), ([0xbd00, 0x8537], .astl x 2 3 0),
    ([0xbd00, 0x8bac], .mma x 3 5 3), ([0xbd00, 0x8bad], .mmas x 3 5 3), ([0xbd00, 0x8bae], .mmab x 3 5 3),
    ([0xbd00, 0x8b63], .mmam x 3 3)] :
      List (List HalfWord × Instr)).all decodesTo = true := by decide +kernel

theorem test_decode_page3 : (
    [([0xbd80, 0x8330], .send x 6 3), ([0xbd80, 0x8331], .sendm x 6 3), ([0xbd80, 0x8302], .sendq x 6),
    ([0xbd80, 0x8303], .spawn x 6), ([0xbd80, 0x8004], .done x), ([0xbd80, 0x8005], .yield x),
    ([0xbd80, 0x8136], .post x 2 3), ([0xbd80, 0x8317], .xget x 6 1), ([0xbd80, 0x8138], .qcfg x 2 3),
    ([0xbd80, 0x8319], .qpop x 6 1), ([0xbd80, 0x833a], .park x 6 3), ([0xbd80, 0x873a], .vwld x 6 3 5),
    ([0xbd80, 0x873b], .vwst x 6 3 5), ([0xbd80, 0x8b30], .vwinc x 6 3), ([0xbd80, 0x8b31], .vwpk x 6 3),
    ([0xbd80, 0x8832], .vwrst x 3)] :
      List (List HalfWord × Instr)).all decodesTo = true := by decide +kernel

theorem test_decode_page4 : (
    [([0xbe00, 0x8300], .att x 6), ([0xbe00, 0x8301], .det x 6), ([0xbe00, 0x8332], .hand x 6 3),
    ([0xbe00, 0x8334], .bqry x 6 3), ([0xbe00, 0x8305], .revoke x 6), ([0xbe00, 0x8306], .bzero x 6),
    ([0xbe00, 0x873a], .handx x 6 3 5), ([0xbe00, 0x8b00], .cpy x 6), ([0xbe00, 0x8b01], .cpyw x 6),
    ([0xbe00, 0x8b02], .cpym x 6), ([0xbe00, 0x8b03], .ccan x 6), ([0xbe00, 0x8b34], .cqset x 6 3),
    ([0xbe00, 0x8f3c], .cpos x 6 3 3), ([0xbe00, 0x8c3d], .cwait x 3 3), ([0xbe00, 0x9300], .task x 6),
    ([0xbe00, 0x9331], .ttag x 6 3), ([0xbe00, 0x9332], .tshape x 6 3), ([0xbe00, 0x9333], .tqry x 6 3),
    ([0xbe00, 0x9304], .mtload x 6)] :
      List (List HalfWord × Instr)).all decodesTo = true := by decide +kernel

theorem test_decode_page5 : (
    [([0xbe80, 0x823a], .pload x 2 3 5), ([0xbe80, 0x834b], .pdist x 6 2 5), ([0xbe80, 0x8730], .psetm x 6 3),
    ([0xbe80, 0x8731], .psets x 6 3), ([0xbe80, 0x8602], .bal x 2), ([0xbe80, 0x8613], .balx x 2 true),
    ([0xbe80, 0x8744], .pmat x 6 2), ([0xbe80, 0x8705], .pstat x 6), ([0xbe80, 0x8736], .pmovToBank x 6 3),
    ([0xbe80, 0x8737], .pmovFromBank x 6 3)] :
      List (List HalfWord × Instr)).all decodesTo = true := by decide +kernel

theorem test_decode_page6 : (
    [([0xbf00, 0x8180], .mcall x 3), ([0xbf00, 0x8001], .clrst x), ([0xbf00, 0x8002], .idle x)] :
      List (List HalfWord × Instr)).all decodesTo = true := by decide +kernel
/-! ### Small states -/

/-- The value a next state has, for a check on one field. -/
def after {α : Type} (r : Res) (f : State → α) : Option α :=
  match r with
  | .next t => some (f t)
  | _ => none

theorem next_of_after {r : Res} {f : State → Bool} (h : after r f = some true) : ∃ t, r = .next t ∧ f t = true := by
  cases r with
  | next t => exact ⟨t, rfl, by simpa [after] using h⟩
  | fault _ => simp [after] at h
  | refused _ => simp [after] at h

/-- Slot 0 holds bank 5 with all rights, slot 1 bank 6 in transit, slot 2 bank 7 without rights, slot 3 bank 8 pinned,
slot 4 bank 9 with all rights; the others are empty. -/
def slots0 : SMap Word :=
  [(0, mkSlot 1 7 false 0 5), (1, mkSlot 2 7 false 0 6), (2, mkSlot 1 0 false 0 7), (3, mkSlot 1 7 true 0 8), (4, mkSlot 1 7 false 0 9)]

def cx0 : Ctx := { Ctx.reset with slots := slots0 }

/-- A core that runs handler 1, from 0x10000 on, with g0, g1, … as given. -/
def core0 (g : List Word) (x : Ctx) : Core :=
  { Core.reset with run := .running, part := 0, encs := 1, ctx := [(0, x)], left := 100, pc := 0x10000, cyc := 7
                    h := { Handler.none with hid := 1, src := 3, seq := 4 }, g := Vector.ofFn (fun i => g.getD i.val 0) }

/-- The page tables: virtual 0 is physical 0, 1 GiB a versioned page, 2 GiB host memory, 3 GiB read-only; each a
leaf of 1 GiB. -/
def mem0 : List Host.Cell :=
  [(0x100000, 0x01), (0x100001, 0x10), (0x100002, 0x10), (0x101000, 0x03), (0x101001, 0x07), (0x101008, 0x03), (0x101009, 0x0f),
   (0x10100b, 0x40), (0x101010, 0x03), (0x101011, 0x07), (0x101016, 0x08), (0x101018, 0x03), (0x101019, 0x01), (0x10101b, 0xc0)]

/-- The partition key, and a tenant key 5 of partition 0 in some state. -/
def pkey : Key := ⟨0, 0, .active, 0, 0, [], true, 0, 0⟩
def tkey (st : KeyState) : Key := ⟨5, 0, st, 0, 0, [], true, 0, 2⟩

def part0 : Part :=
  { Part.empty with encs := 1, supEnc := 0, w := 2, h := 1, tbl := 0x100000, tblLen := 0x100000, tblNext := 0x2000
                    members := [0, 1], key := 1, handlers := [(3, ⟨0x20000, none⟩)], iface := .run, slices := [100] }

/-- Cores 0 and 1 of partition 0: core 0 runs, core 1 is idle. -/
def mk (k : Core) : State :=
  { State.reset with
    cores := [(0, k), (1, { Core.reset with run := .idle, part := 0, lnum := 1, encs := 1, ctx := [(0, Ctx.reset)] })]
    parts := [(0, part0)], keys := [(1, pkey)], nextUid := 2, mem := mem0, zen := { Zenith.reset with ready := true } }

def st (g : List Word) : State := mk (core0 g cx0)

/-- The same outside the supervisor enclave. -/
def user (s : State) : State := s.setPart 0 { s.part 0 with supEnc := 1 }

/-- A record of HIDX 3 with the rest of its first doubleword, and its other doublewords. -/
def recd (low : Nat) (ds : List Word) : Record := ofDwords 512 (BitVec.ofNat 64 (3 * 2 ^ 52 + low) :: ds)

/-- An entry of core 0 that holds a record. -/
def ent (r : Record) : Entry := { record := r, queue := 0, src := 0, seq := 0, woken := false, arr := 0, wait := 0 }

/-- A held write of a versioned cell, not yet followed by another of its cell. -/
def heldVw (cell : Nat) (va v : Word) (ver : Option Nat) : HeldVw := { cell := cell, va := va, value := v, version := ver }

/-- The bytes of a record placed at a bank address. -/
def bankAt (a : Nat) (r : Record) : List Host.Cell := memCells (cellsAt a (leBytes 64 r.toNat)) []

/-- The check of a global access succeeds with this leaf and key generation. -/
def globalOk (s : State) (va : Word) (w : Want) (noVw : Bool) (key uid : Nat) : Bool :=
  match s.globalCheck va w noVw with
  | .ok l u => l.key == key && u == uid && (w != .write || l.r)
  | _ => false

theorem ok_of_globalOk {s va w n key uid} (h : globalOk s va w n key uid = true) :
    ∃ l, s.globalCheck va w n = .ok l uid ∧ l.key = key := by
  unfold globalOk at h
  split at h
  · next l u e =>
    simp only [Bool.and_eq_true, beq_iff_eq] at h
    exact ⟨l, by rw [e, h.1.2], h.1.1⟩
  · cases h

/-! ### Witnesses: encoding and steps -/

theorem witness_round_trip : ∀ i ∈ ([.addi { npxi := 4 } 7 0 (-(2 ^ 35)), .addi { npxi := 4 } 7 0 (2 ^ 35 - 1), .j {} (-64), .j {} 63,
    .slli { npxi := 1 } 7 63, .add { stall := 63, pxp := true, pxr := true, qs := .srcDq } 15 15 0,
    .ld { pxp := true, order := .acq, scope := .system } 7 7 false 0, .ld { pxr := true, qs := .dstQ, npxi := 1 } 0 15 true (-128),
    .bz { pxr := true, qs := .bqCond } 0 15, .fence { pxp := true, order := .ar, scope := .self }, .rdc { npxi := 1 } 7 31,
    .mmab { pxp := true } 3 7 7, .balx { pxp := true } 3 true, .vwpk { pxp := true, pxr := true } 14 15] : List Instr),
    i.enc.isSome = true ∧ i.wf = true := by decide +kernel

theorem witness_reserved_words :
    (bitsOf (0xffff : HalfWord) 13 10 = 15 ∧ bitsOf (0xffff : HalfWord) 15 14 = 3) ∧
    (bitsOf (0x0000 : HalfWord) 13 10 ≠ 15 ∧ rowOf 0 (0x0000 : HalfWord) = none) ∧
    (bitsOf (0xbf80 : HalfWord) 15 10 = 0b101111 ∧ bitsOf (0xbf80 : HalfWord) 9 7 = 7 ∧ bitsOf (0xbf80 : HalfWord) 1 0 = 0 ∧
      bitsOf (0x0001 : HalfWord) 13 10 ≠ 15) ∧
    (bitsOf (0x3d00 : HalfWord) 15 10 = 0b001111 ∧ bitsOf (0x3d00 : HalfWord) 9 8 ≠ 0) ∧
    (bitsOf (0x7c00 : HalfWord) 15 10 = 0b011111 ∧ bitOf (0x7c00 : HalfWord) 7 = false) ∧
    (encode (.j {} (-64)))[0]? = some 0x00c0 ∧ (encode (.j {} 63))[0]? = some 0x00bf := by decide +kernel

/-- Branches and jumps in a slot (BZ, J, JL, JR, LOOP), a fifth prefix, unused bits of PXP and PXR, of J and of a fixed
field, a modifier where none is accepted, and queue selects where none is accepted. -/
theorem witness_reserved_words_more :
    bitsOf (0xb800 : HalfWord) 13 10 = 14 ∧
    ([0x0080, 0x0100, 0x0180, 0x0280] : List HalfWord).all (fun w => bitsOf w 13 10 == 0 && ([1, 2, 3, 5] : List Nat).contains (bitsOf w 9 7)) = true ∧
    (bitsOf (0xbc00 : HalfWord) 15 10 = 0b101111 ∧ bitsOf (0xbc00 : HalfWord) 1 0 = 0 ∧ bitsOf (0x7c00 : HalfWord) 15 10 = 0b011111 ∧
      bitOf (0x7c00 : HalfWord) 7 = false ∧ bitsOf (0x3c01 : HalfWord) 15 8 = 0b00111100 ∧ bitsOf (0x3d01 : HalfWord) 15 8 = 0b00111101 ∧
      bitsOf (0x7c01 : HalfWord) 13 10 = 15 ∧ bitsOf (0x7c01 : HalfWord) 15 14 ≠ 3) ∧
    (bitsOf (0xbc01 : HalfWord) 15 10 = 0b101111 ∧ bitsOf (0xbc01 : HalfWord) 1 0 ≠ 0) ∧
    (bitsOf (0x7c80 : HalfWord) 15 10 = 0b011111 ∧ bitOf (0x7c80 : HalfWord) 7 = true) ∧
    (bitsOf (0x0011 : HalfWord) 13 7 = 0 ∧ bitsOf (0x0011 : HalfWord) 3 0 = 1 ∧ bitsOf (0x0011 : HalfWord) 6 4 ≠ 0) ∧
    (bitsOf (0x3481 : HalfWord) 13 10 = 13 ∧ bitsOf (0x3481 : HalfWord) 3 0 = 1 ∧ bitOf (0x3481 : HalfWord) 7 = true) ∧
    (bitsOf (0x7c01 : HalfWord) 15 10 = 0b011111 ∧ bitsOf (0x7c01 : HalfWord) 9 7 = 0 ∧ bitOf (0x7c01 : HalfWord) 0 = true ∧
      bitsOf (0x2000 : HalfWord) 13 10 = 8) ∧
    (bitsOf (0x3c04 : HalfWord) 15 8 = 0b00111100 ∧ 4 ≤ bitsOf (0x3c04 : HalfWord) 7 0 ∧ bitsOf (0x2430 : HalfWord) 13 10 = 9 ∧
      bitsOf (0x2430 : HalfWord) 6 4 = 3) ∧
    (bitsOf (0xbc04 : HalfWord) 15 10 = 0b101111 ∧ bitsOf (0xbc04 : HalfWord) 9 7 = 0 ∧ bitsOf (0xbc04 : HalfWord) 1 0 = 0 ∧
      bitsOf (0xbc04 : HalfWord) 6 2 ≠ 0 ∧ bitsOf (0x04a6 : HalfWord) 13 10 = 1) ∧
    (bitsOf (0xbc70 : HalfWord) 15 10 = 0b101111 ∧ bitsOf (0xbc70 : HalfWord) 6 4 = 7 ∧ bitsOf (0x3402 : HalfWord) 13 10 = 13 ∧
      bitsOf (0x3402 : HalfWord) 3 0 = 2) ∧
    (bitsOf (0x7f00 : HalfWord) 15 10 = 0b011111 ∧ bitOf (0x7f00 : HalfWord) 7 = false ∧ bitsOf (0x7f00 : HalfWord) 9 8 = 3 ∧
      bitsOf (0x04a6 : HalfWord) 13 10 = 1 ∧ bitsOf (0x2800 : HalfWord) 13 10 = 10) := by decide +kernel

/-- ADD g1, g2, g3 at 0x10000, scheduled. -/
def scheduled : State := { (st []) with mem := mem0.take 0 ++ (0x10000, 0xa6) :: (0x10001, 0x04) :: mem0, agenda := [.issue 0] }

theorem witness_step_issues : scheduled.memWf ∧ scheduled.zen.dead = false ∧ (scheduled.core 0).run = .running ∧
    (scheduled.core 0).left ≠ 0 ∧
    decode ({ scheduled with agenda := [], cur := 0 } : State).fetchHalf (scheduled.core 0).slot.isSome = .ok (.add {} 1 2 3) 1 ∧
    (({ scheduled with agenda := [], cur := 0 } : State).fetched 1).scoreboardWaits 0 (.add {} 1 2 3) = false ∧
    (scheduled.core 0).undersized (.add {} 1 2 3) = [] := by
  unfold State.memWf; decide +kernel

theorem witness_step_next : ∃ t, step scheduled = .next t ∧ (t.core 0).pc = 0x10002 := by
  obtain ⟨t, h, g⟩ := next_of_after (r := step scheduled) (f := fun t => (t.core 0).pc == 0x10002) (by decide +kernel)
  exact ⟨t, h, by simpa using g⟩

/-- A product under way in g2, read one cycle after. -/
def early (sbm : Word) : State :=
  mk { core0 [] { cx0 with sbm := sbm } with prods := [⟨.g 2, 4, 1, 0⟩] }

theorem witness_undersized : (early 2).me.undersized (.add {} 1 2 3) ≠ [] ∧
    (early 2).scoreboardWaits 0 (.add {} 1 2 3) = false ∧ bitsOf (early 2).cx.sbm 1 0 = 2 ∧
    (early 1).me.undersized (.add {} 1 2 3) ≠ [] ∧ (early 1).scoreboardWaits 0 (.add {} 1 2 3) = false ∧ bitsOf (early 1).cx.sbm 1 0 = 1 ∧
    after (exec (.add {} 1 2 3) (early 1)) (fun t =>
      (early 1).me.issuedFrom ((t.produced 0 (early 1).me (early 1).me (.add {} 1 2 3)).core 0)) = some true := by decide +kernel

/-! ### Witnesses: page 0 -/

/-- A register as last source and as destination, and dq and bq as they: one entry in dq, room for one in bq. -/
theorem witness_scalar_operands :
    (st [0, 0, 0, 5]).me.lastSource {} 3 5 (st [0, 0, 0, 5]).me ∧
    (st []).me.resultTo {} 1 9 ((st []).me.setG 1 9) ∧
    ({ (st []).me with dq := [(0, some 5)] } : Core).lastSource { pxr := true, qs := .srcDq } 0 5 { (st []).me with dq := [] } ∧
    ({ (st []).me with bq := List.replicate 7 true } : Core).resultTo { pxr := true, qs := .dstQ } 0 1
      { (st []).me with bq := List.replicate 7 true ++ [true] } := by
  refine ⟨.inl ?_, .inl ?_, .inr ⟨rfl, 0, [], ?_⟩, .inr ?_⟩ <;> decide +kernel

/-- The counts and reversals at 0, at 1 and at the highest bit. -/
theorem witness_counts : IsLeadingZeros 0 64 ∧ IsLeadingZeros 1 63 ∧ IsTrailingZeros 0 64 ∧ IsTrailingZeros (2 ^ 63) 63 ∧
    IsOnesCount (-1) 64 ∧ IsBitReverse 1 (2 ^ 63) ∧ IsByteReverse 1 (2 ^ 56) := by
  unfold IsLeadingZeros IsTrailingZeros IsOnesCount IsBitReverse IsByteReverse; decide +kernel

theorem witness_immediates : (-(2 ^ 63) : Int) ≤ -(2 ^ 63) ∧ (-(2 ^ 63) : Int) < 2 ^ 63 := by decide

theorem witness_queue_traps : (mk { core0 [] cx0 with dq := [(0, none)] }).me.dq = (0, none) :: [] ∧ (st []).me.dq = [] ∧
    (mk { core0 [] cx0 with bq := List.replicate 8 true }).me.bq.length = 8 := by decide +kernel

/-- A full dq, with a local address in bank 5 and a global one in the first page. -/
theorem witness_full_dq : let s := mk { core0 [0x40] cx0 with dq := List.replicate 16 (0, none) }
    s.me.dq.length = 16 ∧ (s.me.addr 0 0).toNat % 8 = 0 ∧ s.localCheck .read (s.me.addr 0 0) = .ok ∧
    globalOk s (s.me.addr 0 0) .read false 64 1 = true := by decide +kernel

/-- A branch condition from a register and from bq; an odd target. -/
theorem witness_branches : (st [0, 2]).me.condSource {} 1 2 (st [0, 2]).me ∧
    ({ (st []).me with bq := [false] } : Core).condSource { pxr := true, qs := .bqCond } 0 0 { (st []).me with bq := [] } ∧
    (st []).me.bq = [] ∧ ((st [0, 2]).me.getG 1).getLsbD 0 = false ∧ ((st [0, 3]).me.getG 1).getLsbD 0 = true := by
  refine ⟨.inl ?_, .inr ⟨rfl, false, [], ?_⟩, ?_⟩ <;> decide +kernel

theorem witness_scalar_frame : (Instr.add {} 1 2 3).scalarDest = some 1 ∧ (st []).me.h.hid ≠ 0 ∧
    after (exec (.add {} 1 2 3) (st [])) (fun t => (t.core 0).h.hid == (st []).me.h.hid) = some true := by decide +kernel

/-- Debug halt off and on, a budget that has run out and one that has not. -/
theorem witness_software_traps : ((st []).part 0).dbg.contains (st []).me.enc = false ∧
    (((st []).setPart 0 { part0 with dbg := [0] }).part 0).dbg.contains (st []).me.enc = true ∧
    (∀ r : Fin 16, ((st []).setPart 0 { part0 with dbg := [0] }).gPending 0 r = false) ∧
    (mk { core0 [] cx0 with left := 0 }).me.run = .running ∧ (mk { core0 [] cx0 with left := 0 }).me.left = 0 ∧
    (st []).me.left ≠ 0 := by decide +kernel

/-- A fault ring of 16 records with its control block; none; a strand from the deque and one from a queue. -/
def ringState (k : Core) : State := (mk k).setPart 0 { part0 with fbase := 0x2000, fcap := 16, fctl := 0x3000 }

theorem witness_trap_entry : (ringState (core0 [] cx0)).memWf ∧ ((ringState (core0 [] cx0)).core 0).mmam = none ∧
    ((ringState (core0 [] cx0)).core 0).bal = none ∧ ((ringState (core0 [] cx0)).core 0).keptRecs = [] ∧
    ((ringState (core0 [] cx0)).part 0).conts = [] ∧ ((ringState (core0 [] cx0)).part 0).kept = [] ∧ (ringState (core0 [] cx0)).faultRoom 0 = some (0x3000, 0x2000, 0) ∧
    (0x2000 + 64 ≤ 0x3000 ∨ 0x3000 + 32 ≤ 0x2000) ∧ (st []).faultRoom 0 = none ∧ ((st []).core 0).h.origin = .deque ∧
    ((st []).core 0).cx.deque.length < 32 := by
  unfold State.memWf; decide +kernel

theorem witness_trap_to_queue :
    let s := mk { core0 [] cx0 with h := { Handler.none with hid := 1, origin := .queue 2 } }
    (s.core 0).mmam = none ∧ (s.core 0).bal = none ∧ (s.core 0).h.origin = .queue 2 ∧ (s.core 0).h.woken = false ∧
    (s.core 0).cx.q[(2 : Fin 4)].mode = 0 ∧ (s.core 0).cx.q[(2 : Fin 4)].res.length < (s.core 0).cx.q[(2 : Fin 4)].cap := by decide +kernel

theorem witness_trap_record : (0xff : Nat) < 256 ∧ (st []).me.h.src < 2 ^ 11 ∧ (st []).me.h.seq < 2 ^ 32 ∧ (st []).me.left < 2 ^ 32 ∧
    ({ cause := 0xff, detail := 0xff } : TrapInfo).iaddr = none := by decide +kernel

theorem witness_control_reads : (1, BitVec.ofNat 64 (65536 + 100 * 2 ^ 32)) ∈
      [(0, (st []).cx.wp), (1, BitVec.ofNat 64 ((st []).cx.hbDef + (st []).me.left * 2 ^ 32))] ∧
    (st []).page1Pending 0 = false ∧ (st []).me.bal = none := by decide +kernel

/-- WP, a budget, SBM, BS, SMC and a format entry that are accepted, in the supervisor enclave. -/
theorem witness_control_writes : (st [0x1f0080]).privileged 0 = true ∧ 496 ≤ bitsOf ((st [0x1f0080]).me.getG 0) 20 12 ∧
    bitsOf ((st [1]).me.getG 0) 31 0 ≠ 0 ∧ bitsOf ((st [2]).me.getG 0) 1 0 ≠ 3 ∧
    ((st [0x3780000000100000]).me.getG 0).msb = false ∧ bitsOf ((st [0x3780000000100000]).me.getG 0) 31 20 ≠ 0 ∧
    (d32 (bitsOf ((st [0x3780000000100000]).me.getG 0) 63 32)).isNan = false ∧ bitsOf ((st [0x20000c]).me.getG 0) 21 16 ≤ 32 ∧
    bitOf ((st [0]).me.getG 0) 31 = false := by decide +kernel

/-- A workspace's bank attached at slot 496, WP at its first workspace and the write to its second, whose doubleword 3 is
poisoned or not; and a slot that is empty. -/
def wpState (poison : List Nat) : State :=
  { mk (core0 [0x1f0080] { cx0 with slots := slots0 ++ [(496, mkSlot 1 7 false 0 383)] }) with bpoison := poison }

theorem witness_workspaces : (wpState []).memWf ∧ 0x1f0080 = (wpState []).me.getG 0 &&& 0x1fff80 ∧
    bitsOf ((wpState []).cx.slot (0x1f0080 / 4096)) 33 32 = 1 ∧ bitsOf ((wpState []).cx.slot ((wpState []).cx.wp.toNat / 4096)) 33 32 = 1 ∧
    slotBank ((wpState []).cx.slot 496) * 4096 + (wpState []).cx.wp.toNat % 4096 + 128 ≤ slotBank ((wpState []).cx.slot 496) * 4096 + 0x80 ∧
    (∀ i, i < 16 → (wpState []).bpoison.contains ((383 * 4096 + 0x80) / 8 + i) = false) ∧
    ((wpState [383 * 512 + 19]).bpoison.contains ((383 * 4096 + 0x80) / 8 + 3) = true ∧
      ∀ j, j < 3 → (wpState [383 * 512 + 19]).bpoison.contains ((383 * 4096 + 0x80) / 8 + j) = false) ∧
    bitsOf ((st [0x1f0080]).cx.slot (0x1f0080 / 4096)) 33 32 ≠ 1 := by
  unfold State.memWf; decide +kernel

/-- The same without privilege, where the value is the one held; and a format entry that is well formed. -/
theorem witness_control_writes_user : (user (st [65536])).privileged 0 = false ∧
    bitsOf ((user (st [65536])).me.getG 0) 31 0 = (user (st [65536])).cx.hbDef ∧
    bitsOf ((st [0x200004]).me.getG 0) 3 2 = bitsOf (st [0x200004]).cx.smc 3 2 ∧
    (∃ w : Word, bitOf w 31 = true ∧ fmtBad 0 w = false) := by
  refine ⟨?_, ?_, ?_, 0x800401c2, ?_⟩ <;> decide +kernel

theorem witness_privilege : (user (st [0])).privileged 0 = false ∧ bitsOf ((user (st [1])).me.getG 0) 31 0 ≠ (user (st [1])).cx.hbDef ∧
    bitsOf ((user (st [0])).me.getG 0) 3 2 ≠ bitsOf (user (st [0])).cx.smc 3 2 ∧ ((user (st [12])).me.getG 0).toNat = 12 ∧
    13 ≤ ((st [13]).me.getG 0).toNat ∧ bitsOf ((st [3]).me.getG 0) 1 0 = 3 := by decide +kernel

/-! ### Witnesses: memory -/

/-- The last legal and the first illegal local address, an empty slot, one in transit, one without rights, a poisoned
doubleword, and the workspace's last doubleword. -/
theorem witness_local_checks :
    ((st [0x1f0078]).me.getG 0 + BitVec.ofInt 64 0).toNat % 8 = 0 ∧ (st []).localCheck .read 0x1f0078 = .ok ∧
    (st []).localCheck .write 0x1f0078 = .ok ∧ (2 : Nat) ^ 21 ≤ (0x200000 : Word).toNat ∧
    (496 * 4096 ≤ (0x1f0080 : Word).toNat ∧ (st []).cx.wp.toNat + 128 ≤ (0x1f0080 : Word).toNat) ∧
    bitsOf ((st []).cx.slot (0x1000 / 4096)) 33 32 = 2 ∧ bitsOf ((st []).cx.slot (0x1eff88 / 4096)) 33 32 = 0 ∧
    (bitsOf ((st []).cx.slot 2) 33 32 = 1 ∧ bitOf ((st []).cx.slot 2) 34 = false ∧ bitOf ((st []).cx.slot 2) 35 = false) ∧
    (let s := { st [] with bpoison := [5 * 512 + 511] }; bitOf (s.cx.slot 0) 34 = true ∧ s.bpoison.contains (slotBank (s.cx.slot 0) * 512 + 0xff8 % 4096 / 8) = true) ∧
    (bitOf ((st []).cx.slot 0) 34 = true ∧ bitOf ((st []).cx.slot 0) 35 = true ∧
      (st []).bpoison.contains (slotBank ((st []).cx.slot 0) * 512 + 0 % 4096 / 8) = false) := by decide +kernel

theorem witness_local_accesses : (.ld, 8, false) ∈ loadForms ∧ (.st, 8) ∈ storeForms ∧ (.swp, .swp) ∈ atomicForms ∧ (st [0xff8]).memWf ∧
    ((st [0xff8]).me.getG 0 + BitVec.ofInt 64 0).toNat % 8 = 0 ∧ (st [0xff8]).localCheck .read 0xff8 = .ok ∧
    (st [0xff8]).localCheck .write 0xff8 = .ok ∧ (st []).cx.wp.toNat % 8 = 0 ∧ 496 * 4096 ≤ (st []).cx.wp.toNat ∧
    (0xff8 : Word).toNat < 496 * 4096 ∧ (496 * 4096 ≤ (0x1f0000 : Word).toNat ∧ (st []).localCheck .write 0x1f0000 = .ok) ∧
    (mk { core0 [] cx0 with dq := List.replicate 15 (0, some 0) }).me.dq.length < 16 ∧
    (mk { core0 [] cx0 with dq := List.replicate 16 (0, some 0) }).me.dq.length = 16 := by
  refine ⟨by simp [loadForms], by simp [storeForms], by simp [atomicForms], ?_⟩
  unfold State.memWf; decide +kernel

/-- Staged mode with a number of held stores. -/
def staged (n : Nat) : State :=
  mk { core0 [0x8000] { cx0 with smc := 0x200005 } with sbuf := List.replicate n (.store false [(1, [(0x9000, 1)])]) }

/-- A global access at the last doubleword of a page and at the highest address of the tier, staged mode with room and without. -/
theorem witness_global_accesses : globalOk (st [0x8ff8]) 0x8ff8 .read false 0x8ff8 1 = true ∧
    globalOk (st [0x3ffffff8]) 0x3ffffff8 .write true 0x3ffffff8 1 = true ∧ (st []).atsBlocked (keysFrom 0x8ff8 8) = false ∧
    (st []).keyMissing [1] = none ∧ bitOf (st []).cx.smc 0 = false ∧
    (globalOk (staged 31) 0x8000 .write true 0x8000 1 = true ∧ bitOf (staged 31).cx.smc 0 = true ∧ (staged 31).me.sbuf.length < 32) ∧
    (globalOk (staged 32) 0x8000 .write true 0x8000 1 = true ∧ (staged 32).me.sbuf.length = 32) := by decide +kernel

/-- An atomic in the device's memory, and one in the host's. -/
theorem witness_atomics : globalOk (st [0x8000]) 0x8000 .rmw true 0x8000 1 = true ∧
    (st [0x8000]).me.sbuf.all (fun e => !e.overlaps 0x8000) = true ∧ tierOf 0x8000 ≠ 2 ∧
    globalOk (st [0x80000000]) 0x80000000 .rmw true (2 * 2 ^ 50) 1 = true ∧ tierOf (2 * 2 ^ 50) = 2 ∧
    (st []).atsBlocked (keysFrom (2 * 2 ^ 50) 8) = false ∧ ((st [0xc0000000]).me.getG 0).toNat % 8 = 0 ∧
    (match (st [0xc0000000]).translate 0 0xc0000000 .rmw with
      | .error c => c == 7
      | .ok _ => false) = true := by decide +kernel

/-- An access of core 0's handler. -/
def acc (hid : Nat) (keys : List Nat) (kind : AccessKind) : Access :=
  { core := 0, hid := hid, seqno := 9, part := 0, va := 0, keys := keys, uid := 1, order := .none, scope := .dflt, kind := kind
    served := none, stalled := false }

theorem witness_accesses_performed : ({ acc 1 [0x8000] (.load (.reg 3) 1 false [] []) with stalled := true } : Access).stalled = true ∧
    (acc 1 [] (.store [])).stalled = false ∧
    (∀ n ∈ [1, 2, 4, 8], (acc 1 (keysFrom 0x8000 n) (.load (.reg 3) n true [] [])).keys.length = n) ∧
    (acc 1 [] (.store [])).hid ≠ 0 ∧ ((st []).core 0).h.hid = 1 ∧ ((st []).core 0).h.hid ≠ 2 ∧
    ((mk { core0 [] cx0 with dq := [(8, none), (9, none), (10, some 1)] }).core 0).dq = [(8, none)] ++ (9, none) :: [(10, some 1)] ∧
    (∀ y ∈ [((8 : Nat), (none : Option Word))], y.1 ≠ 9) ∧ (st []).memWf ∧
    (acc 1 (keysFrom 0x8000 8) (.atomic .cas 0 1 3 [])).keys.head? = some 0x8000 := by
  unfold State.memWf; decide +kernel

/-- An earlier store that a release fence orders, an earlier load that both order; addresses that miss the alignment by one. -/
theorem witness_alignment_and_fence :
    (let s := State.enqueue (mk { core0 [] cx0 with fenceRel := 10 }) 0 (.accessPerformed (acc 1 [0x8000] (.store [(0x8000, 1)])));
      (∃ e ∈ s.flight, pendingOf s.cur false e.2 = true ∧ numberOf e.2 < s.me.fenceRel) ∧
      ∀ e ∈ s.flight, ¬ (pendingOf s.cur true e.2 = true ∧ numberOf e.2 < s.me.fenceAcq)) ∧
    (let s := State.enqueue (mk { core0 [] cx0 with fenceAcq := 10 }) 0 (.accessPerformed (acc 1 [0x8000] (.load (.reg 3) 1 false [] [])));
      ∃ e ∈ s.flight, pendingOf s.cur true e.2 = true ∧ numberOf e.2 < s.me.fenceAcq) ∧
    ((st [7]).me.getG 0 + BitVec.ofInt 64 0).toNat % 8 ≠ 0 ∧ ((st [8]).me.getG 0).toNat % 16 ≠ 0 ∧ ((st [32]).me.getG 0).toNat % 64 ≠ 0 := by
  decide +kernel

/-! ### Witnesses: page 1 -/

/-- FMT0 is int8, FMT1 a block-scaled E2M1 with E8M0 scales, FMT2 an unsigned 4-bit integer. -/
def fmts : Vector Word 16 := (((Vector.replicate 16 0).set 0 0x800401c2).set 1 0x8014044a).set 2 0x80040100

def i8 : Fmt := { sign := 1, exp := 0, man := 7, bias := 0, spec := 1, cw := 8 }

/-- A state with VTYPE, masks and vectors as given. -/
def vs (vtype : Word) (k0 : BitVec 128) (v : Nat → BitVec 1024) : State :=
  mk (core0 [] { cx0 with vtype := vtype, fmt := fmts, k := Vector.replicate 8 k0, v := Vector.ofFn (fun i => v i.val) })

/-- int8 elements under a mask of the first byte: the first element is active, the others are not. -/
theorem witness_vector_elements : (vs 0x10 1 0).cx.elemType = some i8 ∧ isIF i8 = true ∧ isI i8 = true ∧
    (vs 0x10 1 0).governed 8 0 ∧ ¬ (vs 0x10 1 0).governed 8 127 ∧ (vs 0x300 0 0).cx.elemType = none ∧
    (vs 0x100 0 0).cx.elemType = some (entryFmt 0x8014044a) ∧ isIF (entryFmt 0x8014044a) = false ∧
    (vs 0x2000 0 0).cx.elemType = some fp32 ∧ isF fp32 = true ∧ isWide fp32 = true ∧ 8 ≤ fp32.cw ∧ (vs 0x200 0 0).cx.elemType = some
      (entryFmt 0x80040100) ∧ isI (entryFmt 0x80040100) = true ∧ (entryFmt 0x80040100).cw = 4 := by
  unfold State.governed; decide +kernel

theorem witness_rounding : fp16 ∈ [bf16, fp16, fp32] ∧ (0 : Rat) ≤ maxF fp16 ∧ maxF fp16 ≤ maxF fp16 ∧ (0 : Rat) ≤ 0 ∧ (0 : Rat) ≤ maxF bf16 ∧
    ({ sign := 1, exp := 2, man := 1, bias := 1, spec := 1, cw := 4 } : Fmt) ∈ presetFloats ∧ fp16.spec = 0 ∧
    (presetFloats.any (fun f => f.spec == 1) && presetFloats.any (fun f => f.spec == 2)) = true := by
  decide +kernel

/-- A third and its lower neighbour in fp16; a half between 4 and 5, 200 and −200, in int8, and 3 in an unsigned format. -/
theorem witness_rounding_steps :
    ((1 / 3 : Rat) ≠ 0 ∧ pow2 (max (log2Floor (1 / 3)) (1 - (fp16.bias : Int)) - fp16.man) = (1 / 4096 : Rat) ∧
      (1365 : Nat) * (1 / 4096 : Rat) ≤ 1 / 3 ∧ (1 / 3 : Rat) < ((1365 : Nat) + 1) * (1 / 4096) ∧
      ((1365 : Nat) + 1) * (1 / 4096 : Rat) ≤ maxF fp16) ∧
    (i8.exp = 0 ∧ i8.sign ≤ 1 ∧ i8.sign < i8.width ∧ |(9 / 2 : Rat) * pow2 i8.bias - (4 : Nat)| ≤ 1 / 2 ∧ 4 % 2 = 0 ∧
      (4 : Nat) < 2 ^ (i8.width - i8.sign)) ∧
    (|(200 : Rat) * pow2 i8.bias - (200 : Nat)| ≤ 1 / 2 ∧ |(200 : Rat) * pow2 i8.bias - (200 : Nat)| ≠ 1 / 2 ∧ 2 ^ (i8.width - 1) < 200) ∧
    ((entryFmt 0x80040100).exp = 0 ∧ (entryFmt 0x80040100).sign = 0 ∧ 3 < 2 ^ ((entryFmt 0x80040100).width - (entryFmt 0x80040100).sign)) := by
  decide +kernel

/-- Blocks with an infinity, of zeros, with a largest number within E8M0's range, above it and below it; powers of two and
the ranges of the functions; fp32's 1 among negative infinities. -/
theorem witness_functions :
    (∃ x ∈ [Num.fin false 1, .inf false], x.isNan = true ∨ x.isInf = true) ∧ (∀ x ∈ [Num.fin false 0, .fin true 0], x.isZero = true) ∧
    workedFmt.scale = 1 ∧ Num.fin false 40 ∈ workedBlock ∧ (0 : Rat) < 40 ∧
    workedBlock.all (fun x => match x with
      | .fin _ b => decide (0 ≤ b ∧ b ≤ 40)
      | _ => false) = true ∧
    (-127 ≤ log2Floor 40 - log2Floor (maxF workedFmt) ∧ log2Floor 40 - log2Floor (maxF workedFmt) ≤ 127) ∧
    127 < log2Floor (2 ^ 140) - log2Floor (maxF workedFmt) ∧ log2Floor (1 / 2 ^ 140) - log2Floor (maxF workedFmt) < -127 ∧
    ((-149 : Int) ≤ -149 ∧ (127 : Int) < 128 ∧ (-126 : Int) ≤ 126) ∧ ((128 : Rat) ≤ 128 ∧ (151 : Rat) < 152 ∧ (0 : Rat) < 1) ∧
    (Num.nan ∈ [Num.inf false, .nan]) ∧ (Num.nan ∉ [Num.inf false]) ∧ decodeNum fp32 0x3f800000 = .fin false 1 := by
  decide +kernel

/-- No active element, one, and all of them. -/
theorem witness_reductions : (vs 0x10 0 0).ActiveCodes i8 2 [] ∧ (vs 0x10 1 (fun _ => 0x80)).ActiveCodes i8 2 [(0, 0x80)] ∧
    (vs 0x2000 0 0).ActiveCodes fp32 2 ((List.range 32).map (fun j => (j, 0))) := by
  refine ⟨⟨?_, ?_⟩, ⟨?_, ?_⟩, ⟨?_, ?_⟩⟩
  · intro j c; constructor
    · intro h; cases h
    · rintro ⟨h, g, -⟩
      have : ∀ j, j < 1024 / i8.cw → ¬ (vs 0x10 0 0).governed i8.cw j := by unfold State.governed; decide +kernel
      exact (this j h g).elim
  · decide
  · intro j c; constructor
    · intro h
      simp only [List.mem_singleton, Prod.mk.injEq] at h
      obtain ⟨rfl, rfl⟩ := h
      refine ⟨?_, ?_, ?_⟩
      · decide
      · unfold State.governed; decide +kernel
      · decide +kernel
    · rintro ⟨h, g, e⟩
      rw [e]
      have : ∀ j, j < 1024 / i8.cw → (vs 0x10 1 (fun _ => 0x80)).governed i8.cw j →
          (j, (vs 0x10 1 (fun _ => 0x80)).vcode i8 2 j) ∈ [(0, 0x80)] := by unfold State.governed; decide +kernel
      exact this j h g
  · decide
  · intro j c; constructor
    · intro h
      have : ∀ y ∈ (List.range 32).map (fun j => (j, 0)), y.1 < 1024 / fp32.cw ∧ (vs 0x2000 0 0).governed fp32.cw y.1 ∧
          y.2 = (vs 0x2000 0 0).vcode fp32 2 y.1 := by unfold State.governed; decide +kernel
      exact this _ h
    · rintro ⟨h, g, e⟩
      rw [e]
      have : ∀ j, j < 1024 / fp32.cw → (j, (vs 0x2000 0 0).vcode fp32 2 j) ∈ (List.range 32).map (fun j => (j, 0)) := by decide +kernel
      exact this j h
  · decide +kernel

theorem witness_compares : (.vcmpeq, fun x y => x = y, Num.Equal) ∈ compareForms := by simp [compareForms]

/-- KPOP and KFIRST of an empty mask, and of one with its highest bit alone; KSET with a nonzero a field. -/
theorem witness_masks : (0 : Word).toNat = ((List.range 128).filter (fun j => ((vs 0 0 0).cx.k[(0 : Fin 8)]).getLsbD j)).length ∧
    ((128 : Word).toNat ≤ 128 ∧ ∀ j, j < 128 → ((vs 0 0 0).cx.k[(0 : Fin 8)]).getLsbD j = false) ∧
    ((∀ j, j < 127 → ((vs 0 (2 ^ 127) 0).cx.k[(0 : Fin 8)]).getLsbD j = false) ∧ ((vs 0 (2 ^ 127) 0).cx.k[(0 : Fin 8)]).getLsbD 127 = true) ∧
    bitsOf (0x3815 : HalfWord) 13 10 = 14 ∧ bitsOf (0x3815 : HalfWord) 3 0 = 5 ∧ bitsOf (0x3815 : HalfWord) 6 4 ≠ 0 := by decide +kernel

/-- fp32 to int8 in the last of the four parts, and the first part that does not exist; fp32 to the scaled format, and back. -/
theorem witness_conversions : (vs 0x3200000 0 0).cx.srcType = some fp32 ∧ (vs 0x3200000 0 0).cx.elemType = some i8 ∧
    bitsOf (vs 0x3200000 0 0).cx.vtype 26 24 < max fp32.cw i8.cw / min fp32.cw i8.cw ∧
    max fp32.cw i8.cw / min fp32.cw i8.cw ≤ bitsOf (vs 0x4200000 0 0).cx.vtype 26 24 ∧ fp32.scale = 0 ∧ i8.scale = 0 ∧
    (vs 0x7200100 0 0).cx.elemType = some (entryFmt 0x8014044a) ∧ (entryFmt 0x8014044a).scale ≠ 0 ∧ (entryFmt 0x8014044a).along = 0 ∧
    bitsOf (vs 0x7200100 0 0).cx.vtype 26 24 < max 32 (entryFmt 0x8014044a).cw / min 32 (entryFmt 0x8014044a).cw ∧
    (vs 0x7012000 0 0).cx.srcType = some (entryFmt 0x8014044a) ∧ (vs 0x7012000 0 0).cx.elemType = some fp32 ∧
    (vs 0x300 0 0).cx.elemType = none ∧ 64 < 1024 / max i8.cw i8.cw := by decide +kernel

/-- 128 bytes at a local address that runs into slot 1, one lane active; at a global address that ends a page. -/
theorem witness_vector_memory :
    (let s := vs 0x10 1 0; (0xff8 : Word).toNat % 8 = 0 ∧
      (∀ i, i < 16 → s.wanted i → s.localCheck .read ((0xff8 : Word) + BitVec.ofNat 64 (8 * i)) = .ok) ∧
      (∀ i, i < 16 → s.wanted i → s.localCheck .write ((0xff8 : Word) + BitVec.ofNat 64 (8 * i)) = .ok)) ∧
    (let s := vs 0 0 0; s.wanted 1 ∧ s.localCheck .read (0x1eff80 + BitVec.ofNat 64 (8 * 0)) = .trap 9 0x1eff80 ∧
      (∀ i, i < 16 → s.localCheck .write (0x80 + BitVec.ofNat 64 (8 * i)) = .ok) ∧
      (∀ i j, i < j → j < 128 → s.me.bankByte (laneAddr 0x80 i) ≠ s.me.bankByte (laneAddr 0x80 j)) ∧
      (∀ i, i < 16 → globalOk s (0x8f80 + BitVec.ofNat 64 (8 * i)) .read false (0x8f80 + 8 * i) 1 = true) ∧
      (∀ i, i < 16 → globalOk s (0x8f80 + BitVec.ofNat 64 (8 * i)) .write true (0x8f80 + 8 * i) 1 = true) ∧
      (∀ j, j < 128 → s.laneReady (0x8f80 + j) 1) ∧
      (∃ c f, s.globalCheck (0xfffffffffffff000 + BitVec.ofNat 64 (8 * 0)) .read false = .trap c f) ∧
      (∃ c f, s.globalCheck (0xc0000000 + BitVec.ofNat 64 (8 * 0)) .write true = .trap c f)) := by
  have hk : ∀ j, j < 128 → (vs 0 0 0).laneReady (0x8f80 + j) 1 := by
    intro j hj
    refine ⟨by simp [vs, mk, Zenith.reset, State.reset], ?_⟩
    intro k hk
    have : sget? 1 (vs 0 0 0).keys = some pkey := by decide +kernel
    rw [this] at hk; cases hk; rfl
  refine ⟨?_, ?_⟩
  · unfold State.wanted State.governed; decide +kernel
  · refine ⟨?_, ?_, ?_, ?_, ?_, ?_, hk, ⟨6, 0xfffffffffffff000, ?_⟩, ⟨7, 0xc0000000, ?_⟩⟩
    · unfold State.wanted State.governed; decide +kernel
    · decide +kernel
    · decide +kernel
    · have h : ∀ j, j < 128 → ∀ i, i < j → (vs 0 0 0).me.bankByte (laneAddr 0x80 i) ≠ (vs 0 0 0).me.bankByte (laneAddr 0x80 j) := by
        decide +kernel
      exact fun i j hij hj => h j hj i hij
    · decide +kernel
    · decide +kernel
    · rfl
    · rfl

/-- Gather and scatter of fp32 elements at indices 0 and 1, the others masked off. -/
theorem witness_gather : let s := vs 0x2010 0x11 (fun _ => 2 ^ 32); s.cx.elemType = some fp32 ∧ 8 ≤ fp32.cw ∧
    (∀ i, i < 1024 / fp32.cw → s.governed fp32.cw i → ∃ key, key = 4 * i ∧
      (s.me.getG 2 + BitVec.ofInt 64 (signExtNat (s.vcode fp32 3 i) fp32.width * 4)).toNat % 4 = 0 ∧
      globalOk s (s.me.getG 2 + BitVec.ofInt 64 (signExtNat (s.vcode fp32 3 i) fp32.width * 4)) .read false key 1 = true ∧
      globalOk s (s.me.getG 2 + BitVec.ofInt 64 (signExtNat (s.vcode fp32 3 i) fp32.width * 4)) .write true key 1 = true) := by
  have h : ∀ i, i < 1024 / fp32.cw → (vs 0x2010 0x11 (fun _ => 2 ^ 32)).governed fp32.cw i →
      ((vs 0x2010 0x11 (fun _ => 2 ^ 32)).me.getG 2 + BitVec.ofInt 64 (signExtNat ((vs 0x2010 0x11 (fun _ => 2 ^ 32)).vcode fp32 3 i) fp32.width * 4)).toNat % 4 = 0 ∧
      globalOk (vs 0x2010 0x11 (fun _ => 2 ^ 32)) ((vs 0x2010 0x11 (fun _ => 2 ^ 32)).me.getG 2 + BitVec.ofInt 64 (signExtNat ((vs 0x2010 0x11 (fun _ => 2 ^ 32)).vcode fp32 3 i) fp32.width * 4)) .read false (4 * i) 1 = true ∧
      globalOk (vs 0x2010 0x11 (fun _ => 2 ^ 32)) ((vs 0x2010 0x11 (fun _ => 2 ^ 32)).me.getG 2 + BitVec.ofInt 64 (signExtNat ((vs 0x2010 0x11 (fun _ => 2 ^ 32)).vcode fp32 3 i) fp32.width * 4)) .write true (4 * i) 1 = true := by
    unfold State.governed; decide +kernel
  refine ⟨by decide +kernel, by decide, fun i hi hg => ⟨4 * i, rfl, h i hi hg⟩⟩

theorem witness_vector_performed : (∀ y ∈ [((0 : Nat), (0x8000 : Nat)), (127, 0x8fff)], y.1 < 128) ∧
    ([((0 : Nat), (0x8000 : Nat)), (127, 0x8fff)].map (·.1)).Nodup ∧ (st []).memWf ∧
    [((0x8000 : Nat), (1 : Byte)), (0x8001, 2)] = [] ++ (0x8000, 1) :: [(0x8001, 2)] ∧ (∀ y ∈ [((0x8001 : Nat), (2 : Byte))], y.1 ≠ 0x8000) := by
  unfold State.memWf; decide +kernel

/-! ### Witnesses: page 2 -/

/-- A tile control word. -/
def tcw (rows cols layout sparse code wc : Nat) : Word :=
  BitVec.ofNat 64 ((cols - 1) * 2 ^ 24 + (rows - 1) * 2 ^ 18 + wc * 2 ^ 16 + layout * 2 ^ 7 + sparse * 2 ^ 4 + code)

/-- A state with the control words of t0 and t1, the tile t0, VTYPE, and general registers. -/
def ts (a b : Word) (t0 : BitVec 32768) (vtype : Word) (g : List Word) : State :=
  mk (core0 g { cx0 with fmt := fmts, tc := ((Vector.replicate 8 0).set 0 a).set 1 b, t := (Vector.replicate 8 0).set 0 t0
                         vtype := vtype })

/-- The largest int8 tile and one column more, an undefined format, 16-bit tiles, a scaled one, sparse ones. -/
theorem witness_tiles :
    (ts (tcw 64 64 0 0 0 0) 0 0 0 []).goodTile (tcw 64 64 0 0 0 0) i8 ∧ ¬ (ts 0 0 0 0 []).goodTile (tcw 64 65 0 0 0 0) i8 ∧
    namedFmt (ts 0 0 0 0 []).cx.fmt (bitsOf (tcw 64 65 0 0 0 0) 17 16) (bitsOf (tcw 64 65 0 0 0 0) 3 0) = some i8 ∧
    namedFmt (ts 0 0 0 0 []).cx.fmt (bitsOf (tcw 1 1 0 0 3 0) 17 16) (bitsOf (tcw 1 1 0 0 3 0) 3 0) = none ∧
    (ts 0 0 0 0 []).goodTile (tcw 64 32 1 0 0 1) bf16 ∧ (ts 0 0 0 0 []).goodTile (tcw 64 128 0 0 1 0) (entryFmt 0x8014044a) ∧
    dense (tcw 64 64 0 0 0 0) ∧ ¬ dense (tcw 64 64 0 1 0 0) ∧ (ts 0 0 0 0 []).goodTile (tcw 64 64 0 1 0 0) i8 ∧ i8.cw = 8 ∧ i8.scale = 0 ∧
    (entryFmt 0x8014044a).scale ≠ 0 ∧ (entryFmt 0x8014044a).along = 0 ∧ (entryFmt 0x8814044a).along ≠ 0 ∧
    (ts 0 0 0 0 []).goodTile (tcw 1 1 0 0 0 1) bf16 ∧ bf16.cw ≠ 8 := by
  unfold State.goodTile dense; decide +kernel

/-- Control words that TCFG takes and one for each field that it refuses. -/
theorem witness_tcfg : [tcw 64 128 3 2 15 1, tcw 1 1 0 0 0 0].all (fun v => decide (bitsOf v 17 16 < 2 ∧ bitsOf v 11 10 = 0 ∧ bitsOf v 9 7 < 4 ∧
      bitsOf v 6 4 < 3 ∧ bitOf v 31 = false ∧ bitsOf v 15 12 = 0 ∧ (bitsOf v 63 32 ≠ 0 → bitsOf v 6 4 = 2))) = true ∧
    2 ≤ bitsOf (tcw 1 1 0 0 0 2) 17 16 ∧ bitsOf (0x400 : Word) 11 10 ≠ 0 ∧ 4 ≤ bitsOf (tcw 1 1 4 0 0 0) 9 7 ∧
    3 ≤ bitsOf (tcw 1 1 0 3 0 0) 6 4 ∧ bitOf (0x80000000 : Word) 31 = true ∧ bitsOf (0x1000 : Word) 15 12 ≠ 0 ∧
    bitsOf (0x100000000 : Word) 63 32 ≠ 0 ∧ bitsOf (0x100000000 : Word) 6 4 ≠ 2 := by decide +kernel

/-- The patterns of TFILL, each by the relation of row and column. -/
theorem witness_tfill : ∃ one : Nat → Nat → Prop, ∀ i k, one i k ↔ i < rowsOf (tcw 64 64 0 0 0 0) ∧ k < colsOf (tcw 64 64 0 0 0 0) ∧
    ((5 : Fin 6) = 1 ∨ ((5 : Fin 6) = 2 ∧ k = i) ∨ ((5 : Fin 6) = 3 ∧ k ≤ i) ∨ ((5 : Fin 6) = 4 ∧ i ≤ k) ∨ ((5 : Fin 6) = 5 ∧ k < i)) :=
  ⟨_, fun _ _ => Iff.rfl⟩

/-- A tile with its scale store, which takes two slots, and one without, at the end of slot 4's bank; the first doubleword refused. -/
def moveState (code : Nat) : State :=
  mk (core0 [0] { cx0 with fmt := fmts, tc := (Vector.replicate 8 0).set 0 (tcw 64 64 0 0 code 0)
                           slots := (List.range 8).map (fun i => (i, mkSlot 1 7 false 0 (5 + i))) })

theorem witness_tile_moves :
    (∀ i, i < 2048 → (moveState 0).localCheck .read (0 + BitVec.ofNat 64 (8 * i)) = .ok) ∧
    (∀ i, i < 2048 → (moveState 1).localCheck .write (0 + BitVec.ofNat 64 (8 * i)) = .ok) ∧
    (bitsOf (moveState 1).cx.tc[(0 : Fin 8)] 17 16 = 0 ∧
      bitOf (moveState 1).cx.fmt[Fin.ofNat 16 (bitsOf (moveState 1).cx.tc[(0 : Fin 8)] 3 0)] 31 = true ∧
      bitsOf (moveState 1).cx.fmt[Fin.ofNat 16 (bitsOf (moveState 1).cx.tc[(0 : Fin 8)] 3 0)] 21 20 ≠ 0) ∧
    (moveState 0).localCheck .write (0x8000 + BitVec.ofNat 64 (8 * 0)) = .trap 9 0x8000 ∧
    (moveState 0).localCheck .read (0x7000 + BitVec.ofNat 64 (8 * 511)) = .ok ∧
    (moveState 0).localCheck .read (0x7000 + BitVec.ofNat 64 (8 * 512)) = .trap 9 0x8000 := by decide +kernel

/-- No two bytes of a store fall on one, in the two slots that TSTL takes at most. -/
theorem witness_stores_local : (moveState 1).memWf ∧
    ∀ j, j < 4608 → (moveState 1).me.bankByte (0 + j) = 5 * 4096 + j := by
  refine ⟨by unfold State.memWf; decide +kernel, fun j hj => ?_⟩
  have h : ∀ a, a < 72 → ∀ b, b < 64 → (moveState 1).me.bankByte (0 + (64 * a + b)) = 5 * 4096 + (64 * a + b) := by decide +kernel
  have e : 64 * (j / 64) + j % 64 = j := Nat.div_add_mod j 64
  have := h (j / 64) (by omega) (j % 64) (by omega)
  rwa [e] at this

/-- Operands of the three products: dense, 2:4 with its metadata in order and out of it, block-masked; and two that do not fit. -/
theorem witness_products :
    productTags 0 (tcw 64 64 0 0 0 0) (tcw 64 64 1 0 0 0) i8 i8 ∧ productTags 1 (tcw 1 4 2 1 0 0) (tcw 1 4 3 0 0 0) i8 i8 ∧
    productTags 2 (tcw 1 64 0 2 0 0) (tcw 1 64 1 0 0 0) i8 i8 ∧ ¬ productTags 0 (tcw 64 64 1 0 0 0) (tcw 64 64 1 0 0 0) i8 i8 ∧
    ¬ productTags 0 (tcw 64 64 0 0 0 0) (tcw 64 63 1 0 0 0) i8 i8 ∧
    (ts (tcw 1 4 2 1 0 0) (tcw 1 4 3 0 0 0) 0 0 []).goodTile (tcw 1 4 2 1 0 0) i8 ∧
    (ts (tcw 1 4 2 1 0 0) (tcw 1 4 3 0 0 0) 0 0 []).goodTile (tcw 1 4 3 0 0 0) i8 ∧
    (ts (tcw 64 64 0 0 0 0) (tcw 64 64 1 0 0 0) 0 0 []).goodTile (tcw 64 64 1 0 0 0) i8 := by
  unfold productTags State.goodTile
  refine ⟨?_, ?_, ?_, ?_, ?_, ?_, ?_, ?_⟩ <;> decide +kernel

theorem witness_metadata : (ts (tcw 1 4 2 1 0 0) (tcw 1 4 3 0 0 0) (4 * 2 ^ 256) 0 []).goodMeta 0 ∧
    ¬ (ts (tcw 1 4 2 1 0 0) (tcw 1 4 3 0 0 0) 0 0 []).goodMeta 0 := by
  have hr : rowsOf (ts (tcw 1 4 2 1 0 0) (tcw 1 4 3 0 0 0) (4 * 2 ^ 256) 0 []).cx.tc[(0 : Fin 8)] = 1 := by decide +kernel
  have hc : colsOf (ts (tcw 1 4 2 1 0 0) (tcw 1 4 3 0 0 0) (4 * 2 ^ 256) 0 []).cx.tc[(0 : Fin 8)] / 4 = 1 := by decide +kernel
  refine ⟨fun i q hi hq => ?_, fun h => absurd (h 0 0 (by decide +kernel) (by decide +kernel)) (by decide +kernel)⟩
  obtain rfl : i = 0 := by omega
  obtain rfl : q = 0 := by omega
  decide +kernel

theorem witness_product_forms : ∀ op < 3, ∃ q ∈ productForms, q.2 = op := by
  intro op h
  have : op = 0 ∨ op = 1 ∨ op = 2 := by omega
  rcases this with rfl | rfl | rfl <;> simp [productForms]

/-- ACVT to 16-bit halves at PART 1 and 2, to 8 bits at PART 0 and 1 and past 64 columns. -/
theorem witness_conversions_of_accumulators :
    bitsOf (ts 0 0 0 0x1000000 []).cx.vtype 26 24 ≤ 1 ∧ 1 < bitsOf (ts 0 0 0 0x2000000 []).cx.vtype 26 24 ∧
    bitsOf (ts 0 0 0 0 []).cx.vtype 26 24 = 0 ∧ colsOf (tcw 64 64 0 0 0 0) ≤ 64 ∧ 64 < colsOf (tcw 64 65 0 0 1 0) ∧
    bitsOf (ts 0 0 0 0x1000000 []).cx.vtype 26 24 ≠ 0 ∧ columnish (tcw 1 1 1 0 0 0) ∧ ¬ columnish (tcw 1 1 2 0 0 0) := by
  unfold columnish; decide +kernel

/-- A descriptor of MMAM for t0 and t1, KN steps from step K0. -/
def mdescAt (base : Word) (k0 kn ta tb : Nat) (a b : Word) : Record :=
  ofDwords 512 [base, 0x1000, 0, a, b, BitVec.ofNat 64 (ta + tb * 16 + k0 * 2 ^ 16 + kn * 2 ^ 32), 0, 0]

def mdesc (k0 kn ta tb : Nat) (a b : Word) : Record := mdescAt 0 k0 kn ta tb a b

def mmamState (done : Nat) (r : Record) : State :=
  { mk { core0 [0x2000] { cx0 with fmt := fmts, slots := (List.range 4).map (fun i => (i, mkSlot 1 7 false 0 (5 + i))) } with
      run := .waiting (.mmam {})
      mmam := some ⟨0, r, 0x2000, 0, i8, i8, i8, i8, 0, done, none⟩ } with
    bmem := bankAt (7 * 4096) r }

theorem witness_mmam :
    let good := mdesc 0 1 0 1 (tcw 64 64 0 0 0 0) (tcw 64 64 1 0 0 0);
    mdescBad good = false ∧ mdescBad (mdesc 0 0 0 1 0 0) = true ∧ tcfgBad (dword good 3) = false ∧ tcfgBad (dword good 4) = false ∧
    tcfgBad (dword (mdesc 0 1 0 1 0x400 0) 3) = true ∧ bitsOf good 198 196 = 0 ∧ (0x2000 : Word).toNat % 64 = 0 ∧
    Fin.ofNat 8 (bitsOf good 326 324) = 1 ∧
    (∀ i, i < 8 → (mmamState 1 good).localCheck .read (0x2000 + BitVec.ofNat 64 (8 * i)) = .ok) ∧
    (∀ j, j < 64 → elemAt good 8 j = ((mmamState 1 good).localByte (0x2000 + j)).toNat) ∧
    (mmamState 1 good).me.run = .waiting (.mmam {}) ∧ bitsOf good 367 352 = 1 ∧ (0 : Nat) < bitsOf good 367 352 ∧
    (mmamState 1 good).localCheck .write (0x2000 + 56) = .ok ∧ ((0x2000 : Word) + 56).toNat / 4096 < 496 ∧
    (∀ j, j < 8 → (mmamState 1 good).me.inWorkspace (((0x2000 : Word) + 56).toNat + j) = false) ∧
    (∀ i, i < 512 → (mmamState 0 good).localCheck .read (0 + BitVec.ofNat 64 (8 * i)) = .ok ∧
      (mmamState 0 good).localCheck .read (0x1000 + BitVec.ofNat 64 (8 * i)) = .ok) ∧ mmTa good ≠ mmTb good ∧
    (mmamState 0 good).me.bal = none ∧ i8.cw ∈ [4, 8, 16] ∧ fetchWords i8 = 512 := by decide +kernel

/-- What a step fetches: tiles of zeros from slots 0 and 1. -/
theorem witness_mmam_fetch :
    let s := mmamState 0 (mdesc 0 1 0 1 (tcw 64 64 0 0 0 0) (tcw 64 64 1 0 0 0))
    s.fetchedTile i8 0 0 0 (s.cx.scale[(0 : Fin 8)]) ∧ s.fetchedTile i8 1 0x1000 0 (s.cx.scale[(1 : Fin 8)]) := by
  have h : ∀ a, a < 128 → ∀ b, b < 64 → (mmamState 0 (mdesc 0 1 0 1 (tcw 64 64 0 0 0 0) (tcw 64 64 1 0 0 0))).localByte (64 * a + b) = 0 := by
    decide +kernel
  have g : ∀ j, j < 8192 → (mmamState 0 (mdesc 0 1 0 1 (tcw 64 64 0 0 0 0) (tcw 64 64 1 0 0 0))).localByte j = 0 := fun j hj => by
    have := h (j / 64) (by omega) (j % 64) (by omega)
    rwa [Nat.div_add_mod] at this
  have z : ∀ j, elemAt (0 : BitVec 32768) 8 j = 0 := fun j => by simp [elemAt]
  refine ⟨⟨fun j hj => ?_, fun _ => rfl, fun hs => absurd rfl hs⟩, ⟨fun j hj => ?_, fun _ => rfl, fun hs => absurd rfl hs⟩⟩
  · rw [z, g _ (by omega)]; rfl
  · rw [z, g _ (by omega)]; rfl

/-- A fetch of A whose first doubleword lies in an empty slot, and the descriptor's slot, which may be written. -/
theorem witness_mmam_faults :
    let s := mmamState 0 (mdescAt 0x5000 0 1 0 1 (tcw 64 64 0 0 0 0) (tcw 64 64 1 0 0 0))
    s.localCheck .read (0x5000 + BitVec.ofNat 64 (8 * 0)) = .trap 9 0x5000 ∧ bitsOf (s.cx.slot ((0x2000 + 56) / 4096)) 33 32 = 1 ∧
    bitOf (s.cx.slot ((0x2000 + 56) / 4096)) 35 = true ∧ s.memWf := by
  unfold State.memWf; decide +kernel

/-! ### Witnesses: page 3 -/

/-- Record r at local 0x40 and in g0 to g7; g8 and g9 as given. -/
def msgState (r : Record) (a b : Word) (k : Core → Core) : State :=
  { mk (k (core0 ((List.range 8).map (fun i => dword r i) ++ [a, b, 0x40]) cx0)) with bmem := bankAt (5 * 4096 + 0x40) r }

theorem witness_sends :
    let r := recd 0 [7, 8];
    let s := msgState r 1 0 id;
    s.recordAt 0x40 r ∧ s.me.carries r ∧ s.goodHeader r ∧ s.knownHandler r ∧ s.liveCore 1 1 ∧ (s.me.getG 10) = 0x40 ∧ (s.me.getG 8).toNat = 1 ∧
    s.me.sbuf.length < 32 ∧ s.me.spawns ≠ bitsOf s.cx.smc 21 16 ∧ s.cx.deque.length + s.cx.dspill.length + s.me.spawns < 32 + (s.part 0).spill ∧
    ¬ s.goodHeader (recd (2 ^ 44) []) ∧ s.goodHeader (recd (2 ^ 48) []) ∧ ¬ s.goodHeader (recd (2 ^ 34) []) ∧ ¬ s.goodHeader (recd (2 ^ 38) []) ∧
    ¬ s.knownHandler (recd (2 ^ 52) []) ∧ sget? 0 (s.part 0).trees = none ∧
    (msgState r 1 0 (fun k => { k with sbuf := List.replicate 32 (.spawn r) })).me.sbuf.length = 32 ∧
    (msgState r 1 0 (fun k => { k with spawns := 32 })).me.spawns = bitsOf s.cx.smc 21 16 ∧ ((0x60 : Word)).toNat % 64 ≠ 0 := by
  have hl : ∀ j, j < 64 → elemAt (recd 0 [7, 8]) 8 j = ((msgState (recd 0 [7, 8]) 1 0 id).localByte (0x40 + j)).toNat := by decide +kernel
  refine ⟨⟨by decide, by decide +kernel, hl⟩, by unfold Core.carries; decide +kernel, ?_⟩
  unfold State.goodHeader State.knownHandler State.liveCore; decide +kernel

/-- No live core: past the partition, and a core that failed; a tree that is installed; a full deque. -/
theorem witness_sends_refused : (∀ c, ¬ (st []).liveCore 2 c) ∧
    sget? 255 (((st []).setPart 0 { part0 with trees := [(255, ⟨0, [(0, 0x3ff, true)]⟩)] }).part 0).trees ≠ none ∧
    32 + (((st []).setPart 0 { part0 with spill := 64 }).part 0).spill ≤
      (mk (core0 [] { cx0 with deque := List.replicate 32 (ent 0), dspill := List.replicate 64 (ent 0) })).cx.deque.length
        + 64 + 0 := by
  refine ⟨?_, by decide +kernel, by decide +kernel⟩
  intro c h
  have : ((st []).part (st []).me.part).members[2]? = none := by decide +kernel
  rw [State.liveCore, this] at h
  exact absurd h.1 (by simp)

/-- ORIG is set and no other bit. -/
theorem witness_orig : hasOrig (recd 0 [7]) (setOrig (recd 0 [7]) 1) 1 := by
  refine ⟨by decide +kernel, ?_⟩
  have h : ∀ j, j < 512 → (j < 24 ∨ 34 ≤ j) → (setOrig (recd 0 [7]) 1).getLsbD j = (recd 0 [7]).getLsbD j := by decide +kernel
  intro j hj
  by_cases hlt : j < 512
  · exact h j hlt hj
  · simp [BitVec.getLsbD_of_ge _ _ (Nat.le_of_not_lt hlt)]

/-- DONE with nothing held, with one entry of each kind, with a full message engine, with a queue that is not empty. -/
theorem witness_handler_ends :
    let s := st [];
    s.me.dq = [] ∧ s.me.bq = [] ∧ s.me.h.src ≠ 0x7fe ∧ s.me.bal = none ∧ s.me.sbuf = [] ∧ s.me.engine.length ≤ 64 ∧ s.privileged 0 = true ∧
    (mk { core0 [] cx0 with h := { Handler.none with hid := 1, src := 0x7fe } }).me.h.src = 0x7fe ∧
    (mk { core0 [] cx0 with bq := [true] }).me.bq ≠ [] ∧
    (let u := mk { core0 [] cx0 with engine := List.replicate 64 ⟨⟨0, 0, 0, 1, 0, 0, 0, 0, false, none, 0⟩, some 0, false⟩, sbuf := [.send 0 1] };
      64 < u.me.engine.length + u.me.bufferedMessages ∧
      u.heldBehindAccess 0 = false ∧ u.heldBlocked 0 = false) ∧
    (let u := mk { core0 [] cx0 with sbuf := [.store true [(1, [(0x8000, 1)])]] };
      u.me.sbuf = [.store true [(1, [(0x8000, 1)])]] ∧ u.heldBehindAccess 0 = false ∧ u.heldBlocked 0 = false) ∧
    (let u := mk { core0 [] cx0 with sbuf := [.send (recd 0 []) 1] };
      u.me.engine = [] ∧ (u.part u.me.part).members[1]? = some 1 ∧
      bitsOf (((u.core 1).cxOf u.me.enc).q[(Fin.ofNat 4 (bitsOf (recd 0 []) 47 46))]).cfg 1 0 = 0) ∧
    (mk { core0 [] cx0 with sbuf := [.spawn (recd 0 [])] }).cx.deque.length < 32 ∧
    (s.cx.q[(Fin.ofNat 4 (bitsOf (recd 0 []) 47 46))]).mode = 0 ∧ (s.cx.q[(Fin.ofNat 4 (bitsOf (recd 0 []) 47 46))]).res.length <
      bitsOf (s.cx.q[(Fin.ofNat 4 (bitsOf (recd 0 []) 47 46))]).cfg 8 4 := by decide +kernel

/-- A strand of Aster's, which the second task in Aster's list started. -/
def taskOf (entry : Nat) : Task :=
  { ref := { part := 0, tq := 0, entry := entry }, enc := 0, core := 0, seq := 0, conv := false, resolved := true, phase := .running, banks := []
    site := 0, hidx := 3, doneCells := [], shapes := [], regs := [], recs := [], sig := 0, copies := 0, failed := false }

theorem witness_aster_strand :
    let s := { mk { core0 [] cx0 with h := { Handler.none with hid := 1, src := 0x7fe, record := recd 0 [0, 0, 0, 0, 0, 0, 0x9000] } } with
      tasks := [taskOf 0x8000, taskOf 0x9000] };
    s.me.h.src = 0x7fe ∧ s.me.dq = [] ∧ s.me.bq = [] ∧ s.me.sbuf = [] ∧ s.me.bal = none ∧ s.me.engine.length ≤ 64 ∧
    s.tasks = [taskOf 0x8000] ++ taskOf 0x9000 :: [] ∧ (taskOf 0x9000).ref.part = s.me.part ∧
    (taskOf 0x9000).ref.entry = (dword s.me.h.record 7).toNat ∧
    (∀ x ∈ [taskOf 0x8000], x.ref.part ≠ s.me.part ∨ x.ref.entry ≠ (dword s.me.h.record 7).toNat) := by decide +kernel

/-- Queue configurations at the bounds of CAP and of q3's mode, and each one refused; an empty queue and one with an entry. -/
theorem witness_queues :
    [(0x10 : Word), 0x100, 0x12].all (fun v => decide (bitsOf v 63 9 = 0 ∧ bitsOf v 3 2 = 0 ∧ bitsOf v 1 0 ≠ 3 ∧ bitsOf v 8 4 ≠ 0 ∧
      bitsOf v 8 4 ≤ 16)) = true ∧
    bitsOf (0x200 : Word) 63 9 ≠ 0 ∧ bitsOf (0x14 : Word) 3 2 ≠ 0 ∧ bitsOf (0x13 : Word) 1 0 = 3 ∧ bitsOf (0 : Word) 8 4 = 0 ∧ 16 < bitsOf (0x110 : Word) 8 4 ∧
    bitsOf (0x11 : Word) 1 0 ≠ 0 ∧ (st []).cx.q[(0 : Fin 4)].res = [] ∧ (st []).cx.q[(0 : Fin 4)].spill = [] ∧ (0x40 : Word).toNat % 64 = 0 ∧
    (∀ i, i < 8 → (st []).localCheck .write (0x40 + BitVec.ofNat 64 (8 * i)) = .ok) ∧
    (∀ j, j < 64 → (st []).me.inWorkspace ((0x40 : Word).toNat + j) = false) ∧ (st []).me.keptEntries = [] ∧ (0 : Nat) ≠ 0x7ff ∧
    (mk (core0 [] { cx0 with q := (Vector.replicate 4 Queue.reset).set 0 { Queue.reset with res := [ent (recd 0 [])] } })).cx.q[(0 : Fin 4)].res
      = ent (recd 0 []) :: [] := by decide +kernel

/-- Links: no neighbour, one in the same enclave with and without the credit, a value that waits, one that has not come. -/
theorem witness_links :
    bitOf (st []).me.nbr (63 - 16 * 1) = false ∧
    (let s := mk { core0 [] cx0 with nbr := 2 ^ 47, link := (Vector.replicate 4 none).set 1 (some 9) };
      bitOf s.me.nbr (63 - 16 * 1) = true ∧ neighbour s.cur 1 = some 1 ∧ s.me.credit[(1 : Fin 4)] = true ∧ (s.core 1).enc = s.me.enc ∧
      s.me.link[(1 : Fin 4)] = some 9 ∧ s.holdsNeighbours 1 = false ∧ (s.core 1).live = true ∧ (s.core 1).part = (s.core 0).part) ∧
    (let s := mk { core0 [] cx0 with nbr := 2 ^ 47, credit := Vector.replicate 4 false };
      s.me.credit[(1 : Fin 4)] = false ∧ s.me.link[(1 : Fin 4)] = none ∧
      (s.setCore 1 { s.core 1 with run := .halted 1 }).holdsNeighbours 1 = true) ∧
    (((st []).setCore 1 { (st []).core 1 with enc := 1 }).core 1).enc ≠ 0 := by decide +kernel

/-- A message for q0 of core 1. -/
def msg0 (r : Record) : Msg := ⟨r, 0, 0, 1, 0, 0, 5, 0, false, none, 0⟩

/-- Core 1 with its q0 as given. -/
def qs (q : Queue) (ring : List Entry) (enc : Nat) : State :=
  (st []).setCore 1 { (st []).core 1 with enc := enc, ctx := [(0, { Ctx.reset with q := (Vector.replicate 4 Queue.reset).set 0 q, ring := ring })] }

/-- Resident with one place left, full with a sub-ring that has one place left and one that is full; ranked; coalescing;
switched out with a ring that has a place and one that has none. -/
theorem witness_arrivals :
    (qs Queue.reset [] 0).arrivesNow (msg0 0) ∧
    (let q : Queue := { Queue.reset with res := List.replicate 15 (ent 0) };
      bitsOf q.cfg 1 0 = 0 ∧ q.res.length < bitsOf q.cfg 8 4 ∧ (((qs q [] 0).core 1).cxOf 0).q[(0 : Fin 4)] = q) ∧
    (let q : Queue := { Queue.reset with res := List.replicate 16 (ent 0), spill := List.replicate 63 (ent 0) };
      bitsOf q.cfg 8 4 ≤ q.res.length ∧ (msg0 0).src ≠ 0x7ff ∧ (q.spill.filter (fun e => e.src != 0x7ff)).length < ((st []).part 0).spill) ∧
    (let q : Queue := { Queue.reset with res := List.replicate 16 (ent 0), spill := List.replicate 64 (ent 0) };
      ((st []).part 0).spill ≤ (q.spill.filter (fun e => e.src != 0x7ff)).length ∧ (msg0 0).chan < 1024) ∧
    bitsOf ({ Queue.reset with cfg := 0x101 } : Queue).cfg 1 0 = 1 ∧
    (let q : Queue := { Queue.reset with cfg := 0x12, res := [ent (recd (2 ^ 48 + 7) [])] };
      bitsOf q.cfg 1 0 = 2 ∧ (∃ x ∈ q.res, bitOf x.record 44 = false ∧ bitsOf x.record 23 0 = bitsOf (msg0 (recd 7 [])).record 23 0) ∧
      ∀ x ∈ q.res, bitOf x.record 44 = false → bitsOf x.record 23 0 = bitsOf (msg0 (recd 7 [])).record 23 0 →
        bitsOf (msg0 (recd 7 [])).record 51 48 < bitsOf x.record 51 48) ∧
    (((qs Queue.reset (List.replicate 63 (ent 0)) 1).core 1).enc ≠ 0 ∧ ((qs Queue.reset [] 1).core 1).live = true ∧
      ((((qs Queue.reset (List.replicate 63 (ent 0)) 1).core 1).cxOf 0).ring.filter (fun e => e.src != 0x7ff)).length < ((st []).part 0).ringCap) ∧
    ((st []).part 0).ringCap ≤ ((((qs Queue.reset (List.replicate 64 (ent 0)) 1).core 1).cxOf 0).ring.filter (fun e => e.src != 0x7ff)).length := by
  unfold State.arrivesNow; decide +kernel

/-- Entries of a ranked queue that have come at cycle numbers of their own, with a PRIO each. -/
def rankedEnt (prio arr : Nat) : Entry := { ent (recd (prio * 2 ^ 48 + 7) []) with arr := arr }

/-- A ranked queue of CAP 2 that is full, and an arrival ranked between its entries; under merging, an entry of the
arrival's key and PRIO, behind one of another key; a message behind another of its own way; a multicast with its place. -/
theorem witness_arrivals_ranked :
    (let q : Queue := { Queue.reset with cfg := 0x21, res := [rankedEnt 5 8, rankedEnt 1 9] };
      bitsOf q.cfg 1 0 = 1 ∧ bitsOf q.cfg 8 4 ≤ q.res.length ∧ bitOf (msg0 (recd (2 ^ 49) [])).record 44 = false ∧
      ((((qs q [] 0).core 1).seqno) :: q.res.map (·.arr)).Nodup ∧ (qs q [] 0).arrivesNow (msg0 (recd (2 ^ 49) []))) ∧
    (let q : Queue := { Queue.reset with cfg := 0x22, res := [{ ent (recd 6 []) with arr := 8 }, rankedEnt 1 9] };
      bitsOf q.cfg 1 0 = 2 ∧ q.res = [{ ent (recd 6 []) with arr := 8 }] ++ rankedEnt 1 9 :: [] ∧
      (∀ y ∈ [({ ent (recd 6 []) with arr := 8 } : Entry)], ¬ merges (msg0 (recd (2 ^ 48 + 7) [])) y) ∧
      merges (msg0 (recd (2 ^ 48 + 7) [])) (rankedEnt 1 9) ∧ (q.res.map (·.arr)).Nodup ∧
      bitsOf (rankedEnt 1 9).record 51 48 ≤ bitsOf (msg0 (recd (2 ^ 48 + 7) [])).record 51 48 ∧
      bitsOf (msg0 (recd 7 [])).record 51 48 < bitsOf (rankedEnt 1 9).record 51 48) ∧
    (let s := (st []).setCore 0 { (st []).core 0 with engine := [⟨msg0 1, some 9, false⟩] };
      (s.core 1).live = true ∧ (s.core 1).part = 0 ∧ (msg0 0).chan < 1024 ∧ (msg0 0).mcast = none ∧
      (s.core (msg0 0).chan).engine.map (fun y => (y.msg.site, y.msg.enc, y.msg.queue)) = [((msg0 0).site, (msg0 0).enc, (msg0 0).queue)] ∧
      (s.core (msg0 0).chan).engine.all (fun y => decide (y.msg ≠ msg0 0)) = true) ∧
    ((msg0 0).mcast = none ∧ ({ msg0 0 with mcast := some (0, 3) } : Msg).mcast ≠ none) := by
  unfold State.arrivesNow merges; decide +kernel

/-- A bounced message that is due and one that is not; one that is held back; a DONE that waits for room; a tree of two nodes. -/
theorem witness_message_engine :
    (let s := mk { core0 [] cx0 with engine := [⟨msg0 0, some 7, false⟩] };
      s.me.engine = { msg := msg0 0, due := some 7, sent := false } :: [] ∧ 7 ≤ s.me.cyc) ∧
    (mk { core0 [] cx0 with engine := [⟨msg0 0, some 8, false⟩] }).me.cyc < 8 ∧
    (let s := mk { core0 [] cx0 with engine := [⟨msg0 1, none, false⟩] };
      (s.core (msg0 0).chan).run ≠ .waiting .room ∧ (s.core (msg0 0).chan).engine = { msg := msg0 1, due := none, sent := false } :: [] ∧
      (msg0 1).site = (msg0 0).site ∧ (msg0 1).enc = (msg0 0).enc ∧ (msg0 1).queue = (msg0 0).queue) ∧
    (let s := mk { core0 [] cx0 with run := .waiting .room, engine := List.replicate 64 ⟨msg0 0, none, true⟩ };
      s.me.run = .waiting .room ∧ s.me.engine.length + s.me.bufferedMessages ≤ 64) ∧
    (let s := (st []).setPart 0 { part0 with trees := [(3, ⟨0, [(0, 0x3ff, false), (1, 0, true)]⟩)] };
      sget? 3 (s.part 0).trees = some ⟨0, [(0, 0x3ff, false), (1, 0, true)]⟩ ∧
      ([(0, 0x3ff, false), (1, 0, true)] : List (Nat × Nat × Bool))[1]? = some (1, 0, true)) := by decide +kernel

/-! ### Witnesses: versioned words and dispatch -/

/-- A cell's check succeeds with this key. -/
def cellOk (s : State) (va : Word) (w : Want) (cell : Nat) : Bool :=
  match s.vwCheck va w with
  | .ok l u => l.key == cell && !s.atsBlocked [cell] && (s.keyMissing [u]).isNone && s.macOk cell u
  | _ => false

theorem ready_of_cellOk {s va w cell} (h : cellOk s va w cell = true) : s.cellReady va w cell := by
  unfold cellOk at h
  split at h
  · next l u e =>
    simp only [Bool.and_eq_true, beq_iff_eq, Bool.not_eq_true', Option.isNone_iff_eq_none] at h
    exact ⟨l, u, e, h.1.1.1, h.1.1.2, h.1.2, h.2⟩
  · cases h

/-- g8 names a cell, g9 a version; the record in g0 to g7. -/
theorem witness_versioned_issue :
    let s := msgState (recd 0 [7]) 0x40000010 0xffffffff id;
    s.me.carries (recd 0 [7]) ∧ s.cellReady (s.me.getG 8) .read 0x40000010 ∧ s.cellReady (s.me.getG 8) .write 0x40000010 ∧
    (s.me.getG 9).toNat < 2 ^ 32 ∧ (2 : Nat) ^ 32 ≤ ((msgState (recd 0 [7]) 0x40000010 0x100000000 id).me.getG 9).toNat ∧
    bitOf s.cx.smc 0 = false ∧ s.me.mayEnd ∧ heldVws 0x40000010 s.me.sbuf = [] ∧
    heldVws 0x40000010 (msgState 0 0 0 (fun k => { k with sbuf := [.vw (heldVw 0x40000010 0x40000010 1 none)] })).me.sbuf ≠ [] ∧
    bitOf (staged 31).cx.smc 0 = true := by
  refine ⟨by unfold Core.carries; decide +kernel, ready_of_cellOk (by decide +kernel), ready_of_cellOk (by decide +kernel), ?_⟩
  unfold Core.mayEnd; decide +kernel

/-- A full buffer, a held write of the cell, an Aster strand that parks, and one whose queues are not empty, each at a cell. -/
theorem witness_versioned_refused :
    let s := msgState 0 0x40000010 0 (fun k => { k with ctx := [(0, { cx0 with smc := 0x200005 })]
                                                        sbuf := List.replicate 32 (.vw (heldVw 0x40000010 0x40000010 1 none)) });
    s.cellAt (s.me.getG 8) .read 0x40000010 ∧ s.cellAt (s.me.getG 8) .write 0x40000010 ∧ bitOf s.cx.smc 0 = true ∧ s.me.sbuf.length = 32 ∧
    heldVws 0x40000010 s.me.sbuf ≠ [] ∧
    (msgState 0 0x40000010 0 (fun k => { k with h := { k.h with src := 0x7fe } })).me.h.src = 0x7fe ∧
    (let u := msgState 0 0x40000010 0 (fun k => { k with bq := [true] }); u.me.h.src ≠ 0x7fe ∧ u.me.bq ≠ []) := by
  have h : ∀ {s : State} {va : Word} {w : Want}, s.cellReady va w 0x40000010 → s.cellAt va w 0x40000010 := fun ⟨l, u, e, k, _⟩ => ⟨l, u, e, k⟩
  refine ⟨h (ready_of_cellOk (by decide +kernel)), h (ready_of_cellOk (by decide +kernel)), ?_⟩
  decide +kernel

theorem witness_versioned_misuse : (st []).vwCheck 0x8000 .read = .trap 0x0a 0x8000 := rfl

/-- A request of core 0's handler about a cell. -/
def req (op : VwOp) : VwReq := ⟨0, 1, 0, 0, 0, 0x40000010, 0x40000010, .dflt, op, [], 0x10000⟩

/-- One parked strand on the cell, wanting version n. -/
def parked (n : Nat) : State :=
  { (st []).setPart 0 { part0 with conts := [(0, ⟨recd 0 [], n, .dflt, 0, 0, false, 0x40000010⟩)], poolN := 1 } with
    mem := memWrite 0x4000001c 1 mem0 }

theorem witness_homes :
    (req (.load 0 0 (recd 0 []))).held = [] ∧ 0 ≤ memNat (st []).mem (0x40000010 + 8) 4 ∧ memNat (st []).mem (0x40000010 + 8) 4 < 1 ∧
    (((st []).setPart 0 { part0 with poolN := 1 }).core 0).h.hid = 1 ∧ (1 : Nat) ≠ 0 ∧ (st []).me.mayEnd ∧
    sget? 0 (((st []).setPart 0 { part0 with poolN := 1 }).part 0).conts = none ∧ 0 < (((st []).setPart 0 { part0 with poolN := 1 }).part 0).poolN ∧
    ((∀ j, j < 1 → (sget? j ((parked 2).part 0).conts).isSome = true) ∧ sget? 1 ((parked 2).part 0).conts = none ∧ ((parked 2).part 0).poolN ≤ 1) ∧
    ((st []).core 0).live = true ∧ (st []).wakeSite 0 (recd 0 []) = some 0 ∧
    bitsOf ((((st []).core 0).cxOf 0).q[(3 : Fin 4)]).cfg 1 0 = 0 ∧ (st []).memWf ∧ (parked 2).memWf ∧
    memNat (parked 2).mem (0x40000010 + 12) 4 = 0 + 1 ∧ memNat (st []).mem (0x40000010 + 12) 4 = 0 ∧ (0 : Nat) < 2 ^ 31 ∧
    ((parked 2).part 0).conts = [(0, ⟨recd 0 [], 2, .dflt, 0, 0, false, 0x40000010⟩)] ∧ (1 : Nat) < 2 ∧ (parked 2).wakeSite 0 (recd 0 []) = some 0 ∧
    (2 : Nat) ^ 32 - 1 < 2 ^ 32 ∧ (mk { core0 [] cx0 with run := .waiting (.vw {}) }).me.run = .waiting (.vw {}) := by
  unfold State.memWf Core.mayEnd; decide +kernel

/-- A mask of a core that is not live, and no fault ring: the wake finds no place and its record is kept. -/
theorem witness_no_live_core :
    let r := recd (4 * 2 ^ 34) [];
    let s := { (parked 2).setPart 0 { (parked 2).part 0 with conts := [(0, ⟨r, 2, .dflt, 0, 0, false, 0x40000010⟩)] } with cur := 0 };
    s.wakeSite 0 (recd 0 []) = some 0 ∧ (s.part 0).kept = [] ∧ (s.part 0).fcap = 0 ∧ (s.core 0).live = true ∧
    (let u := s.setCore 0 { s.core 0 with run := .failed };
      (u.setCore 1 { u.core 1 with run := .failed }).wakeSite 0 (recd 0 []) = none) := by decide +kernel

/-- An idle core 0 with queues, deque and flags as given. -/
def idle (q : Vector Queue 4) (deque : List Entry) (f : Core → Core) : State :=
  mk (f { core0 [] { cx0 with q := q, deque := deque } with run := .idle, cyc := 5000 })

def qv (i : Fin 4) (es : List Entry) : Vector Queue 4 := (Vector.replicate 4 Queue.reset).set i { Queue.reset with res := es }

/-- An urgent head; a deque entry; heads of q0 to q2 of equal priority; q3 alone; nothing. -/
theorem witness_dispatch :
    (idle (qv 2 [ent (recd (15 * 2 ^ 48) [])]) [] id).chooses ∧ (idle (qv 2 [ent (recd (15 * 2 ^ 48) [])]) [] id).urgent 2 ∧
    (∀ j, j < 2 → ¬ (idle (qv 2 [ent (recd (15 * 2 ^ 48) [])]) [] id).urgent (Fin.ofNat 4 (0 + j))) ∧
    (let s := idle (Vector.replicate 4 Queue.reset) [ent (recd 0 []), ent (recd (2 ^ 44) [])] id;
      (∀ q, ¬ s.urgent q) ∧ s.cx.dspill ++ s.cx.deque = [] ++ ent (recd 0 []) :: [ent (recd (2 ^ 44) [])] ∧
      bitOf (ent (recd 0 [])).record 44 = false ∧ (∀ x ∈ [ent (recd (2 ^ 44) [])], bitOf x.record 44 = true) ∧
      s.handler s.me.part s.me.enc (bitsOf (recd 0 []) 63 52) = some ⟨0x20000, none⟩) ∧
    (let s := idle (((qv 1 [ent (recd (2 ^ 48) [])]).set 2 { Queue.reset with res := [ent (recd (2 ^ 48) [])] })) [] id;
      (∀ q, ¬ s.urgent q) ∧ (∀ x ∈ s.cx.dspill ++ s.cx.deque, bitOf x.record 44 = true) ∧ (1 : Fin 4) = Fin.ofNat 4 ((s.me.rr + 1) % 3) ∧ s.headReady 1 ∧
      (∀ j, j < 1 → s.headReady (Fin.ofNat 4 ((s.me.rr + j) % 3)) → s.headPrio (Fin.ofNat 4 ((s.me.rr + j) % 3)) < s.headPrio 1) ∧
      (∀ j, 1 < j → j < 3 → s.headReady (Fin.ofNat 4 ((s.me.rr + j) % 3)) → s.headPrio (Fin.ofNat 4 ((s.me.rr + j) % 3)) ≤ s.headPrio 1)) ∧
    (let s := idle (qv 3 [ent (recd 0 [])]) [] id; ¬ s.headReady 0 ∧ ¬ s.headReady 1 ∧ ¬ s.headReady 2 ∧ s.headReady 3) ∧
    ¬ (idle (Vector.replicate 4 Queue.reset) [] id).headReady 3 := by
  have hr : ∀ (s : State) (q : Fin 4), s.cx.q[q].res = [] → ¬ s.headReady q := by
    rintro s q h ⟨e, es, g, -⟩; rw [h] at g; cases g
  have hu : ∀ (s : State) (q : Fin 4), s.headPrio q ≠ 15 → ¬ s.urgent q := fun s q h g => h g.2
  refine ⟨by unfold State.chooses; decide +kernel, ⟨⟨_, _, rfl, by decide +kernel⟩, by decide +kernel⟩, ?_, ⟨?_, ?_⟩, ⟨?_, ?_, ?_, ?_, ?_, ?_⟩,
    ⟨hr _ _ (by decide +kernel), hr _ _ (by decide +kernel), hr _ _ (by decide +kernel), ⟨_, _, rfl, by decide +kernel⟩⟩, hr _ _ (by decide +kernel)⟩
  · intro j hj
    have : ∀ j, j < 2 → (idle (qv 2 [ent (recd (15 * 2 ^ 48) [])]) [] id).headPrio (Fin.ofNat 4 (0 + j)) ≠ 15 := by decide +kernel
    exact hu _ _ (this j hj)
  · have : ∀ q, (idle (Vector.replicate 4 Queue.reset) [ent (recd 0 []), ent (recd (2 ^ 44) [])] id).headPrio q ≠ 15 := by decide +kernel
    exact fun q => hu _ _ (this q)
  · decide +kernel
  · have : ∀ q, (idle (((qv 1 [ent (recd (2 ^ 48) [])]).set 2 { Queue.reset with res := [ent (recd (2 ^ 48) [])] })) [] id).headPrio q ≠ 15 := by decide +kernel
    exact fun q => hu _ _ (this q)
  · decide +kernel
  · decide +kernel
  · exact ⟨_, _, rfl, by decide +kernel⟩
  · intro j hj
    obtain rfl : j = 0 := by omega
    intro h; exact absurd h (hr _ _ (by decide +kernel))
  · intro j h1 h3
    obtain rfl : j = 2 := by omega
    intro _; decide +kernel

/-- A victim with two entries; none; an idle time of 1,024 cycles and one cycle less. -/
theorem witness_steal :
    (let s := (idle (Vector.replicate 4 Queue.reset) [] id).setCore 1 { (st []).core 1 with ctx := [(0, { Ctx.reset with deque := [ent (recd 0 []), ent (recd 1 [])] })] };
      s.victims 0 = 1 :: [] ∧ s.giveUp 1 s.me.enc = some (ent (recd 0 [])) ∧ 1 ≠ s.cur) ∧
    (let s := idle (Vector.replicate 4 Queue.reset) [] id; (∀ v ∈ s.victims 0, s.giveUp v s.me.enc = none) ∧ s.me.idleSince + 1024 ≤ s.me.cyc) ∧
    (idle (Vector.replicate 4 Queue.reset) [] (fun k => { k with idleSince := 3977 })).me.cyc < 3977 + 1024 ∧ (st []).me.run ≠ .idle := by
  decide +kernel

/-- A switch of enclaves, the end of a slice, kept records with room in the ring. -/
theorem witness_switches :
    (let s := idle (Vector.replicate 4 Queue.reset) [] (fun k => { k with preempt := true, encs := 2 });
      s.me.run = .idle ∧ (s.part s.me.part).rebuilding = false ∧ s.me.preempt = true ∧ 1 < s.me.encs ∧ s.page1Pending 0 = false ∧
      s.me.link = Vector.replicate 4 none ∧ (s.me.cxOf ((s.me.enc + 1) % s.me.encs)).ring = []) ∧
    (let s := mk { core0 [] cx0 with encs := 2, cyc := 100 };
      s.me.live = true ∧ s.me.sliceStart + (s.part s.me.part).slices.getD s.me.enc 0 ≤ s.me.cyc ∧ s.me.preempt = false) ∧
    (mk { core0 [] cx0 with encs := 2, cyc := 99 }).me.cyc < 0 + ((st []).part 0).slices.getD 0 0 ∧
    (let s := ringState { core0 [] cx0 with run := .idle, keptRecs := [(0, 5)] };
      s.me.keptRecs = [(0, 5)] ∧ (s.part s.me.part).zrecs = [] ∧ s.tasks = [] ∧ (s.part s.me.part).conts = [] ∧
      (s.part s.me.part).kept = [] ∧ s.memWf ∧ s.faultRoom s.me.part = some (0x3000, 0x2000, 0)) ∧
    (let s := ringState { core0 [] cx0 with run := .idle };
      let u := s.setPart 0 { s.part 0 with kept := [(2048, 5)] };
      u.me.keptRecs = [] ∧ (u.part u.me.part).kept = [(2048, 5)] ∧ u.faultRoom u.me.part = some (0x3000, 0x2000, 0)) := by
  unfold State.memWf; decide +kernel

/-! ### Witnesses: page 4 -/

/-- The last slot and the first address that is none; banks free, taken and with every right missing. -/
theorem witness_bank_instructions :
    slotAddr 0x1ef000 495 ∧ (0x1f0000 : Word).toNat = 496 * 4096 ∧ (0x1ff000 : Word).toNat = 511 * 4096 ∧
    ¬ (2 : Nat) ^ 21 ≤ (0x1ff000 : Word).toNat ∧ (2 : Nat) ^ 21 ≤ (0x200000 : Word).toNat ∧ (8 : Word).toNat % 4096 ≠ 0 ∧
    bitsOf ((st []).cx.slot 495) 33 32 = 0 ∧ bitsOf ((st []).cx.slot 0) 33 32 ≠ 0 ∧ bitsOf ((st []).cx.slot 1) 33 32 = 2 ∧
    ((st []).bank (0 * 512 + 0)).st = .free ∧ (0 : Nat) < 384 ∧ (st []).me.lnum < 1024 ∧ (st []).attachedAt 0 (mkSlot 1 7 false 0 5) ∧
    bitOf (mkSlot 1 7 false 0 5) 37 = false ∧ bitOf (mkSlot 1 7 true 0 8) 37 = true ∧ bitOf (mkSlot 1 0 false 0 7) 35 = false ∧
    bitOf (mkSlot 1 7 false 0 5) 35 = true ∧ bitOf (mkSlot 1 0 false 0 7) 36 = false ∧ bitOf (mkSlot 1 7 false 0 5) 36 = true ∧
    bitsOf (495 : Word) 8 0 < 496 ∧ 496 ≤ bitsOf (496 : Word) 8 0 ∧ bitsOf (0x30000 : Word) 18 16 &&& bitsOf (mkSlot 1 7 false 0 5) 36 34 = bitsOf (0x30000 : Word) 18 16 ∧
    bitsOf (0x10000 : Word) 18 16 &&& bitsOf (mkSlot 1 0 false 0 7) 36 34 ≠ bitsOf (0x10000 : Word) 18 16 := by
  unfold slotAddr State.attachedAt; decide +kernel

theorem witness_no_free_bank :
    let s := { st [] with banks := (List.range 384).map (fun i => (i, { st := .scrubbing, owner := 0 })) };
    (∀ i, i < 384 → (s.bank (s.cur * 512 + i)).st ≠ .free) ∧ bitsOf (s.cx.slot 495) 33 32 = 0 := by decide +kernel

theorem witness_hand_over :
    let s := { st [] with banks := [(5, { st := .attached 0 0 0, owner := 0 })] };
    s.inReach 5 1 = some 1 ∧ s.inReach 5 2 = none ∧ slotBank (mkSlot 1 7 false 0 5) = 5 ∧ s.attachedAt 0 (mkSlot 1 7 false 0 5) := by
  unfold State.attachedAt; decide +kernel

theorem witness_revoke :
    let s := { st [] with banks := [(383, { st := .frozen, owner := 0 }), (1, { st := .scrubbing, owner := 0 }), (2, { st := .attached 0 0 0, owner := 1 })] };
    s.privileged 0 = true ∧ (383 : Nat) < 2 ^ 19 ∧ 383 % 512 < 384 ∧ s.bankOwner 383 = s.me.part ∧ (s.bank 383).st = .frozen ∧
    s.bankOwner 1 = s.me.part ∧ (s.bank 1).st = .scrubbing ∧ s.bankOwner 2 ≠ s.me.part ∧ s.bankOwner 0 = s.me.part ∧ (s.bank 0).st ≠ .frozen ∧
    (s.bank 0).st ≠ .scrubbing ∧ (2 : Nat) ^ 19 ≤ 2 ^ 19 ∧ 384 ≤ 384 % 512 := by decide +kernel

/-- Bank 5 on its way from core 0 to slot 0 of core 1. -/
def hand0 : HandReq := ⟨0, 1, 0, 0, 0, 5, 1, 0, 7, 0⟩

theorem witness_bank_steps :
    (let s := st []; (s.core 1).live = true ∧ (s.core 1).part = 0 ∧ bitsOf (((s.core 1).cxOf 0).slot 0) 33 32 = 0 ∧ hand0.bank < 2 ^ 19 ∧ hand0.rights < 8) ∧
    ((st []).core 2).live = false ∧ ((st []).core 2).part ≠ 0 ∧
    (let s := mk { core0 [] cx0 with run := .waiting (.hand {}) }; (s.core 0).run = .waiting (.hand {}) ∧ (s.core 0).h.hid = hand0.hid ∧
      bitsOf (((s.core 0).cxOf 0).slot 0) 33 32 = 1 ∧ slotBank (((s.core 0).cxOf 0).slot 0) = hand0.bank) ∧
    (let s := { (st []).setCore 1 { (st []).core 1 with ctx := [(0, { Ctx.reset with slots := [(0, mkSlot 2 7 false 0 5)] })] } with
        banks := [(5, { st := .toReceiver 0 1 0 0, owner := 0 })] };
      (s.bank 5).st = .toReceiver 0 1 0 0 ∧ bitsOf (((s.core 1).cxOf 0).slot 0) 33 32 = 2 ∧ slotBank (((s.core 1).cxOf 0).slot 0) = 5) ∧
    (let s := { st [] with banks := [(5, { st := .toPool 0, owner := 0 }), (6, { st := .toPool 0, owner := 1 }), (7, { st := .scrubbing, owner := 0 })] };
      (s.bank 5).st = .toPool 0 ∧ (s.bank 5).owner = (s.core (5 / 512 % 1024)).part ∧ (s.bank 6).owner ≠ (s.core (6 / 512 % 1024)).part ∧
      (s.bank 7).st = .scrubbing ∧ (s.bank 8).st ≠ .scrubbing ∧ (s.bank 8).st ≠ .frozen ∧ s.memWf) ∧ (511 : Nat) < 512 := by
  unfold State.memWf; decide +kernel

/-- Copy descriptors: local 0x1000 bytes of slot 0 to global 0x8000; of slot 0 to slot 4; with a deadline; CPYM's. -/
def cdesc (src dst : Word) (len flags deadline : Nat) (vwa : Word) : Record :=
  ofDwords 512 [src, dst, BitVec.ofNat 64 (len + flags * 2 ^ 32), 0, BitVec.ofNat 64 deadline, vwa, 0, 0]

def copyState (r : Record) (a : Word) : State := { mk (core0 [0x40, a] cx0) with bmem := bankAt (5 * 4096 + 0x40) r }

theorem record_of_copy (r : Record) (h : ∀ j, j < 64 → elemAt r 8 j = ((copyState r 0).localByte (0x40 + j)).toNat) :
    (copyState r 0).recordAt 0x40 r :=
  ⟨by decide, fun i hi => by
    have hw : (copyState r 0).localCheck .read (0x40 + BitVec.ofNat 64 (8 * i)) = (st []).localCheck .read (0x40 + BitVec.ofNat 64 (8 * i)) := rfl
    rw [hw]
    exact (by decide +kernel : ∀ i, i < 8 → (st []).localCheck .read (0x40 + BitVec.ofNat 64 (8 * i)) = .ok) i hi, h⟩

theorem range_of {s : State} {w a loc n l} (h : (match s.checkRange w a loc n with | .ok m => decide (m = l) | .error _ => false) = true) :
    s.checkRange w a loc n = .ok l := by
  split at h
  · next m e => rw [e, of_decide_eq_true h]
  · cases h

theorem cell_of {s : State} {va w} (h : (match s.vwCheck va w with | .ok _ _ => true | _ => false) = true) : s.cellBad va w = none := by
  unfold State.cellBad
  split at h
  · next e => rw [e]
  · cases h

theorem witness_copies :
    (copyState (cdesc 0 0x8000 0x1000 4 0 0) 0).copyGood 0x40 0 (cdesc 0 0x8000 0x1000 4 0 0) [5] [] ∧
    (copyState (cdesc 0 0x4000 64 12 1 0) 0).copyGood 0x40 1 (cdesc 0 0x4000 64 12 1 0) [5] [9] ∧
    (copyState (cdesc 0x8000 0 64 8 0 0x40000010) 0).copyGood 0x40 2 (cdesc 0x8000 0 64 8 0 0x40000010) [] [5] ∧
    (st []).me.copyWait = none ∧ bitsOf (st []).cx.cwp[(0 : Fin 4)] 34 32 ≠ 0 ∧ (st []).pendingAccess 0 false = false := by
  refine ⟨⟨by decide +kernel, record_of_copy _ (by decide +kernel), by decide +kernel, range_of (by decide +kernel), range_of (by decide +kernel),
      fun h => absurd (by decide +kernel) h, fun h => absurd h (by decide)⟩,
    ⟨by decide +kernel, record_of_copy _ (by decide +kernel), by decide +kernel, range_of (by decide +kernel), range_of (by decide +kernel),
      fun h => absurd (by decide +kernel) h, fun h => absurd h (by decide)⟩,
    ⟨by decide +kernel, record_of_copy _ (by decide +kernel), by decide +kernel, range_of (by decide +kernel), range_of (by decide +kernel),
      fun h => absurd (by decide +kernel) h, fun _ => cell_of (by decide +kernel)⟩, ?_⟩
  decide +kernel

/-- A core whose checked copy waits for a channel in progress, and one whose earlier store is still on its way. -/
theorem witness_copies_wait :
    let cmd : CopyCmd := ⟨0, 0, 0, 0, 0, 0, cdesc 0 0x4000 64 12 0 0, [5], [9], 0⟩;
    let s := mk { core0 [0x40] { cx0 with cwp := Vector.replicate 4 0 } with copyWait := some cmd };
    s.me.copyWait = some cmd ∧ bitsOf s.cx.cwp[(0 : Fin 4)] 34 32 = 0 ∧
    (State.enqueue (st []) 0 (.accessPerformed (acc 1 [0x8000] (.store [(0x8000, 1)])))).pendingAccess 0 false = true := by decide +kernel

/-- Descriptors out of bounds; CCAN, CQSET, CPOS and CWAIT at their bounds; a channel that ended short and one in progress. -/
theorem witness_copy_operands :
    bitsOf (cdesc 0 0 0 0 0 0) 159 128 = 0 ∧ bitsOf (cdesc 0 0 65 0 0 0) 159 128 % 64 ≠ 0 ∧ 0x1000000 < bitsOf (cdesc 0 0 0x1000040 0 0 0) 159 128 ∧
    bitsOf (cdesc 0 0 64 16 0 0) 191 164 ≠ 0 ∧ bitsOf (cdesc 1 0 64 0 0 0) 63 0 % 64 ≠ 0 ∧ bitsOf (cdesc 0 0 64 0 1 0) 287 256 ≠ 0 ∧
    bitsOf (cdesc 0 0 64 0 0 0) 287 256 = 0 ∧ bitOf (cdesc 0 0 64 4 0 0) 162 = true ∧ bitOf (cdesc 0 0 64 0 0 0) 163 = false ∧
    bitsOf (4 : Word) 47 2 ≠ 0 ∧ bitsOf (0x7000000000003 : Word) 47 2 = 0 ∧ 3 < (4 : Word).toNat ∧ (3 : Word).toNat ≤ 3 ∧ 2048 < (2049 : Word).toNat ∧
    (2048 : Word).toNat ≤ 2048 ∧ (2048 : Word) ≠ 0 ∧ (0 : Word).toNat ≤ bitsOf (st []).cx.cwp[(0 : Fin 4)] 24 0 ∧
    bitsOf (st []).cx.cwp[(0 : Fin 4)] 24 0 < (1 : Word).toNat ∧ bitsOf (st []).cx.cwp[(0 : Fin 4)] 34 32 ≠ 0 ∧
    bitsOf (mk (core0 [] { cx0 with cwp := Vector.replicate 4 0 })).cx.cwp[(0 : Fin 4)] 34 32 = 0 := by decide +kernel

/-- The command of a copy of core 0 in channel 0, and cluster 0's engine with copies in its service. -/
def ccmd (desc : Record) : CopyCmd := ⟨0, 0, 0, 0, 1, 0, desc, [5], [9], 0⟩
def serving (cs : List Copy) : State := { st [] with nimbus := [(0, { Nimbus.reset with copies := cs })] }
def copyOf (desc : Record) : Copy := ⟨ccmd desc, 0, none, 0, true, 0, [], none⟩

/-- A translation that succeeds with a key under a key generation, or fails with a cause. -/
def lineOk (s : State) (va : Nat) (w : Want) (key uid : Nat) : Bool :=
  match s.translate 0 va w with
  | .ok (l, u) => l.key == key && u == uid
  | .error _ => false

theorem line_of {s va w key uid} (h : lineOk s va w key uid = true) : ∃ l, s.translate 0 va w = .ok (l, uid) ∧ l.key = key := by
  unfold lineOk at h
  split at h
  · next l u e =>
    simp only [Bool.and_eq_true, beq_iff_eq] at h
    exact ⟨l, by rw [e, h.2], h.1⟩
  · cases h

theorem fault_of {s : State} {va w c} (h : (match s.translate 0 va w with | .error e => e == c | .ok _ => false) = true) :
    s.translate 0 va w = .error c := by
  split at h
  · next e => rw [e, of_decide_eq_true h]
  · cases h

theorem served_of {s : State} {cl key uid} (h : (!s.zen.ats.contains (key / 4096) && !s.ownedElsewhere cl (key / 64) && (s.keyMissing [uid]).isNone) = true) :
    s.lineServed cl key uid := by
  simp only [Bool.and_eq_true, Bool.not_eq_true', Option.isNone_iff_eq_none] at h
  exact ⟨h.1.1, h.1.2, h.2⟩

/-- A line between two banks of a copy of one line and of two; from global memory to global memory. -/
theorem witness_lines :
    (∀ lines ∈ [1, 2], ∀ c, c = copyOf (cdesc 0 0x4000 (64 * lines) 12 0 0) → (serving [c]).servesOnly 0 { Nimbus.reset with copies := [c] } c ∧
      ∃ bs, (serving [c]).readsLine 0 c bs false ∧ (serving [c]).writableLine 0 c none) ∧
    (let c := copyOf (cdesc 0x8000 0x9000 64 0 0 0);
      (serving [c]).servesOnly 0 { Nimbus.reset with copies := [c] } c ∧
      ∃ bs bad, (serving [c]).readsLine 0 c bs bad ∧ (serving [c]).writableLine 0 c (some (0x9000, 1))) := by
  have q : ∀ src dst len fl, src.toNat % 64 = 0 → dst.toNat % 64 = 0 →
      cdSrc (cdesc src dst len fl 0 0) = src → cdDst (cdesc src dst len fl 0 0) = dst →
      sget 0 (copyOf (cdesc src dst len fl 0 0)).key [] < (serving [copyOf (cdesc src dst len fl 0 0)]).budgetOf 0 (copyOf (cdesc src dst len fl 0 0)) →
      cdCw (cdesc src dst len fl 0 0) = 0 →
      (serving [copyOf (cdesc src dst len fl 0 0)]).servesOnly 0 { Nimbus.reset with copies := [copyOf (cdesc src dst len fl 0 0)] }
        (copyOf (cdesc src dst len fl 0 0)) := by
    intro src dst len fl h1 h2 h3 h4 h5 h6
    refine ⟨rfl, rfl, Nat.zero_lt_two, Nat.zero_lt_succ 1023, rfl, rfl, rfl, rfl, h5, ⟨by rfl, by rfl, by rfl, ⟨by rfl, by rfl⟩, ?_, ?_⟩,
      fun _ h => absurd h6 h⟩
    · show (cdSrc _).toNat % 64 = 0
      rw [show (copyOf (cdesc src dst len fl 0 0)).cmd.desc = cdesc src dst len fl 0 0 from rfl, h3, h1]
    · show (cdDst _).toNat % 64 = 0
      rw [show (copyOf (cdesc src dst len fl 0 0)).cmd.desc = cdesc src dst len fl 0 0 from rfl, h4, h2]
  refine ⟨?_, ?_⟩
  · intro lines hl c hc
    subst hc
    have h : lines = 1 ∨ lines = 2 := by simpa using hl
    rcases h with rfl | rfl
    · have z : ∀ j, j < 8 → copyByte (cdSrc (copyOf (cdesc 0 0x4000 (64 * 1) 12 0 0)).cmd.desc) (copyOf (cdesc 0 0x4000 (64 * 1) 12 0 0)).cmd.sbanks (copyOf (cdesc 0 0x4000 (64 * 1) 12 0 0)).next / 8 + j ∉
          (serving [(copyOf (cdesc 0 0x4000 (64 * 1) 12 0 0))]).bpoison := by decide +kernel
      exact ⟨q 0 0x4000 (64 * 1) 12 (by decide +kernel) (by decide +kernel) (by decide +kernel) (by decide +kernel) (by decide +kernel) (by decide +kernel),
        fun j => memRead (serving [(copyOf (cdesc 0 0x4000 (64 * 1) 12 0 0))]).bmem (copyByte (cdSrc (copyOf (cdesc 0 0x4000 (64 * 1) 12 0 0)).cmd.desc) (copyOf (cdesc 0 0x4000 (64 * 1) 12 0 0)).cmd.sbanks (copyOf (cdesc 0 0x4000 (64 * 1) 12 0 0)).next + j),
        .inl ⟨by decide +kernel, rfl, z, fun _ _ => rfl⟩, .inl ⟨by decide +kernel, rfl⟩⟩
    · have z : ∀ j, j < 8 → copyByte (cdSrc (copyOf (cdesc 0 0x4000 (64 * 2) 12 0 0)).cmd.desc) (copyOf (cdesc 0 0x4000 (64 * 2) 12 0 0)).cmd.sbanks (copyOf (cdesc 0 0x4000 (64 * 2) 12 0 0)).next / 8 + j ∉
          (serving [(copyOf (cdesc 0 0x4000 (64 * 2) 12 0 0))]).bpoison := by decide +kernel
      exact ⟨q 0 0x4000 (64 * 2) 12 (by decide +kernel) (by decide +kernel) (by decide +kernel) (by decide +kernel) (by decide +kernel) (by decide +kernel),
        fun j => memRead (serving [(copyOf (cdesc 0 0x4000 (64 * 2) 12 0 0))]).bmem (copyByte (cdSrc (copyOf (cdesc 0 0x4000 (64 * 2) 12 0 0)).cmd.desc) (copyOf (cdesc 0 0x4000 (64 * 2) 12 0 0)).cmd.sbanks (copyOf (cdesc 0 0x4000 (64 * 2) 12 0 0)).next + j),
        .inl ⟨by decide +kernel, rfl, z, fun _ _ => rfl⟩, .inl ⟨by decide +kernel, rfl⟩⟩
  · obtain ⟨l, hl, hk⟩ := line_of (s := serving [copyOf (cdesc 0x8000 0x9000 64 0 0 0)]) (va := (cdSrc (copyOf (cdesc 0x8000 0x9000 64 0 0 0)).cmd.desc).toNat + 64 * (copyOf (cdesc 0x8000 0x9000 64 0 0 0)).next) (w := .read) (key := 0x8000) (uid := 1) (by decide +kernel)
    obtain ⟨m, hm, hn⟩ := line_of (s := serving [copyOf (cdesc 0x8000 0x9000 64 0 0 0)]) (va := (cdDst (copyOf (cdesc 0x8000 0x9000 64 0 0 0)).cmd.desc).toNat + 64 * (copyOf (cdesc 0x8000 0x9000 64 0 0 0)).next) (w := .write) (key := 0x9000) (uid := 1) (by decide +kernel)
    refine ⟨q _ _ _ _ (by decide +kernel) (by decide +kernel) (by decide +kernel) (by decide +kernel) (by decide +kernel) (by decide +kernel), _, _,
      .inr ⟨by decide +kernel, l, 1, hl, by rw [hk]; decide +kernel, by rw [hk]; exact served_of (by decide +kernel), rfl, fun _ _ => rfl⟩,
      .inr ⟨by decide +kernel, m, 1, hm, by rw [hn]; decide +kernel, by rw [hn]; exact served_of (by decide +kernel), by rw [hn]⟩⟩

/-- A poisoned source doubleword, a source that does not translate; a completion cell that does. -/
theorem witness_line_faults :
    (let c := copyOf (cdesc 0 0x4000 64 12 0 0);
      let s := { serving [c] with bpoison := [5 * 512 + 7] };
      cdSl c.cmd.desc = true ∧ (∃ j, j < 8 ∧ copyByte (cdSrc c.cmd.desc) c.cmd.sbanks c.next / 8 + j ∈ s.bpoison) ∧ s.lineFree 0 c = true) ∧
    (let c := copyOf (cdesc 0xfffffffffffff000 0x4000 64 8 0 0);
      cdSl c.cmd.desc = false ∧ (serving [c]).translate 0 ((cdSrc c.cmd.desc).toNat + 64 * c.next) .read = .error 6 ∧ (serving [c]).lineFree 0 c = true) ∧
    cdCw (ofDwords 512 [0, 0x4000, 64, 0x40000010, 0, 0, 0, 0]) ≠ 0 ∧ (st []).physOf 0 0x40000010 = some 0x40000010 := by
  refine ⟨⟨by decide +kernel, ⟨7, by decide, by decide +kernel⟩, by decide +kernel⟩,
    ⟨by decide +kernel, fault_of (by decide +kernel), by decide +kernel⟩, by decide +kernel, by decide +kernel⟩

/-- Copies that are told to stop, and that are late at their next line. -/
theorem witness_copies_stop :
    (let c := { copyOf (cdesc 0 0x4000 64 12 0 0) with cmd := { ccmd (cdesc 0 0x4000 64 12 0 0) with stop := 4 } };
      c.cmd.stop ≠ 0 ∧ (sget Nimbus.reset 0 (serving [c]).nimbus).moved < 2 ∧
      (sget Nimbus.reset 0 (serving [c]).nimbus).cyc < (sget Nimbus.reset 0 (serving [c]).nimbus).window + 1024) ∧
    (let c := { copyOf (cdesc 0 0x4000 64 12 0 0) with due := some 0 };
      c.due = some 0 ∧ 0 ≤ (sget Nimbus.reset 0 (serving [c]).nimbus).cyc ∧ c.next < cdLen c.cmd.desc / 64) := by decide +kernel

/-- Two copies of one group from one global line to lines of banks 9 and 10, in channels of their own. -/
theorem witness_combined :
    let c := copyOf (cdesc 0x8000 0x4000 128 8 0 0);
    let c' : Copy := { c with arrival := 1, cmd := { ccmd (cdesc 0x8000 0x4000 128 9 0 0) with ch := 1, dbanks := [10] } };
    c.arrival < c'.arrival ∧ c.group = c'.group ∧ c.next = c'.next ∧ c.key ≠ c'.key ∧ c.cmd.part = c'.cmd.part ∧
    cdSrc c.cmd.desc = cdSrc c'.cmd.desc ∧ (c.cmd.core, c.cmd.enc, c.cmd.ch % 4) ≠ (c'.cmd.core, c'.cmd.enc, c'.cmd.ch % 4) ∧
    copyByte (cdDst c.cmd.desc) c.cmd.dbanks c.next / 64 ≠ copyByte (cdDst c'.cmd.desc) c'.cmd.dbanks c.next / 64 ∧
    [c, c'].all (fun x => decide (x.cmd.stop = 0 ∧ x.due = none ∧ x.ready = true ∧ x.staging = none ∧ cdSl x.cmd.desc = false ∧
      cdDl x.cmd.desc = true ∧ (x.next + 1) * 64 ≠ cdLen x.cmd.desc ∧ (cdSrc x.cmd.desc).toNat % 64 = 0 ∧ (cdDst x.cmd.desc).toNat % 64 = 0) &&
      decide (sget 0 x.key [] < (serving [c, c']).budgetOf 0 x)) = true ∧
    lineOk (serving [c, c']) (0x8000 + 64 * 0) .read 0x8000 1 = true := by decide +kernel

/-- A command in time, one that is too late, one that is cancelled, and a core that has left; an engine at rest and at the end of
its window; a version that has come. -/
theorem witness_commands :
    (let r := ccmd (cdesc 0 0x4000 64 12 1 0);
      let s := mk (core0 [] { cx0 with vqueue := Vector.replicate 4 (some r.desc) });
      (s.core r.core).part = r.part ∧ r.form ≠ 2 ∧ ((s.core r.core).cxOf r.enc).vqueue[Fin.ofNat 4 r.ch] = some r.desc ∧ r.stop = 0 ∧
      cdLen r.desc / 64 * 1024 ≤ cdDeadline r.desc * ((s.core r.core).cxOf r.enc).budget[Fin.ofNat 4 r.ch] ∧
      (∀ x ∈ (sget Nimbus.reset (clusterOf r.core) s.nimbus).copies, x.arrival ≠ (sget Nimbus.reset (clusterOf r.core) s.nimbus).arrivals)) ∧
    cdDeadline (cdesc 0 0x4000 256 12 1 0) * 2048 < cdLen (cdesc 0 0x4000 256 12 1 0) / 64 * 1024 ∧
    ({ ccmd 0 with stop := 2 } : CopyCmd).stop ≠ 0 ∧ ((st []).core 0).part ≠ 1 ∧ (sget Nimbus.reset 0 (st []).nimbus).copies = [] ∧
    (0 : Nat) + 1024 ≤ ({ Nimbus.reset with cyc := 1024 } : Nimbus).cyc ∧
    (let c := { copyOf (cdesc 0x8000 0 64 8 0 0x40000010) with ready := false, cmd := { ccmd (cdesc 0x8000 0 64 8 0 0x40000010) with form := 2 } };
      c.cmd.form = 2 ∧ c.ready = false ∧ (serving [c]).physOf 0 (cdVwa c.cmd.desc).toNat = some 0x40000010 ∧
      cdVer c.cmd.desc ≤ memNat (serving [c]).mem (0x40000010 + 8) 4) ∧
    memNat (st []).mem (0x40000010 + 8) 4 < cdVer (ofDwords 512 [0x8000, 0, 64, 0, 0, 0x40000010, 1, 0]) := by decide +kernel
/-! ### Witnesses: plans, tasks, the monitor -/

/-- A plan of one row and two columns in pair 0, a cost tile of int8 in t2, vectors in slot 0. -/
def planState (g : List Word) (tag : Word) : State :=
  mk (core0 g { cx0 with fmt := fmts, tc := (((Vector.replicate 8 0).set 0 (BitVec.ofNat 64 (31 * 2 ^ 24 + 0x10401))).set 1
    (BitVec.ofNat 64 (2 ^ 24 + 0x10401))).set 2 tag })

theorem witness_plans :
    let s := planState [0x3f800000, 0x100, 0x200] (tcw 1 2 0 0 0 0);
    s.me.bal = none ∧ bitsOf (s.me.getG 0) 63 32 = 0 ∧ decodeNum fp32 (s.me.getG 0).toNat = .fin false 1 ∧ s.cx.planDims 0 = some (1, 2) ∧
    s.cx.planDims 1 = none ∧ dense (tcw 1 2 0 0 0 0) ∧ colsOf (tcw 1 2 0 0 0 0) ≤ 64 ∧ rowsOf (tcw 1 2 0 0 0 0) = 1 ∧
    ¬ dense (tcw 1 2 0 1 0 0) ∧ ¬ (bitsOf (tcw 1 2 1 0 0 0) 9 7 = 0 ∨ bitsOf (tcw 1 2 1 0 0 0) 9 7 = 2) ∧ 64 < colsOf (tcw 1 65 0 0 1 0) ∧
    colsOf (tcw 1 3 0 0 0 0) ≠ 2 ∧ bitsOf s.cx.vtype 26 24 = 0 ∧ i8.cw ≠ 16 ∧ i8.scale = 0 ∧ (0x100 : Word).toNat % 64 = 0 ∧
    (∀ i, i < 32 → s.localCheck .read (0x100 + BitVec.ofNat 64 (8 * i)) = .ok ∧ s.localCheck .read (0x200 + BitVec.ofNat 64 (8 * i)) = .ok ∧
      s.localCheck .write (0x100 + BitVec.ofNat 64 (8 * i)) = .ok) ∧ (0x120 : Word).toNat % 64 ≠ 0 ∧ bitsOf (0x100000000 : Word) 63 32 ≠ 0 := by
  unfold dense; decide +kernel

theorem witness_plan_tile : (planState [] (tcw 1 2 0 0 0 0)).goodTile (planState [] (tcw 1 2 0 0 0 0)).cx.tc[(2 : Fin 8)] i8 := by
  unfold State.goodTile; decide +kernel

theorem witness_eps_zero : ∀ e, decodeNum fp32 (0 : Word).toNat = .fin false e → e = 0 := by
  intro e h
  have : decodeNum fp32 (0 : Word).toNat = .fin false 0 := by decide +kernel
  rw [this] at h; cases h; rfl

theorem witness_sweeps :
    let r : BalRun := ⟨0, true, 1, 2, [[0, 0]], 4095, 0, .row⟩;
    let s := mk { core0 [] cx0 with bal := some r };
    s.me.bal = some r ∧ r.m ≤ 64 ∧ r.n ≤ 64 ∧ r.kernel = (List.range r.m).map (fun i => (List.range r.n).map ((fun _ _ => 0) i)) ∧
    bitsOf s.cx.bs 11 0 ≠ r.limit ∧ bitsOf s.cx.bs 11 0 < 4095 ∧ bitsOf (mk (core0 [] { cx0 with bs := 0xfff })).cx.bs 11 0 = r.limit ∧
    ({ r with full := false, phase := .col } : BalRun).phase = .col ∧ (decodeNum fp32 r.tol).isNan = false := by decide +kernel

/-- A BAL of one row and one column, with this kernel and this marginal of its row; what a sweep leaves of BS and of the run. -/
def sweepOf (ker marg : Nat) : Option (Nat × Bool) :=
  after (exec .balSweep (mk { core0 [] { cx0 with bm := BitVec.ofNat 2048 marg } with bal := some ⟨0, true, 1, 1, [[ker]], 7, 0, .row⟩ }))
    (fun t => (bitsOf (t.core 0).cx.bs 17 16, (t.core 0).bal.isSome))

/-- A sweep that converges, one that goes on and one that meets a NaN (R264). -/
theorem witness_sweep_ends : sweepOf 0 0 = some (1, false) ∧ sweepOf 0 0x3f800000 = some (0, true) ∧ sweepOf 0x7e00 0 = some (3, false) := by
  decide +kernel

/-- A task record of one operand whose shape record is at 0x40. -/
def trec : BitVec 1024 := ofDwords 1024 [0x10000, 0, 0x40, 0, 0, 0, 0, 0, 0, 0, 0, 0, 0, 0, 0, 0]

/-- Queue 0 of 16 entries at 0x10000 in cluster 0; its first status word has a STATE. -/
def taskState (st_ : Byte) : State :=
  { (mk (core0 [0x40, 0x10000] cx0)).setPart 0 { part0 with tqs := [(0, ⟨0, 0, 15, 3, 16, 0x10000, 0, 7⟩)] } with
    mem := memWrite 0x10080 st_ mem0, bmem := memCells (cellsAt (5 * 4096 + 0x40) (leBytes 128 trec.toNat)) [] }

theorem witness_task :
    let s := taskState 4;
    s.taskAt 0x40 trec ∧ goodTask trec ∧ ¬ goodTask 0 ∧ s.taskCells trec ∧
    sget? (bitsOf trec 15 10) (s.part s.me.part).tqs = some ⟨0, 0, 15, 3, 16, 0x10000, 0, 7⟩ ∧ 0x10000 = 0x10000 + 256 * (0 % 16) ∧
    (State.enqueue s 0 (.accessPerformed (acc 1 [] (.store [])))).pendingAccess 0 false = true ∧
    s.entryFree 0 0x10000 ∧ (taskState 7).entryFree 0 0x10000 ∧ ¬ (taskState 3).entryFree 0 0x10000 ∧ s.pendingAccess 0 false = false ∧
    0x10000 < 2 ^ 56 ∧ sget? 0 (((st []).part 0).tqs) = none ∧ s.vaFree 0 0x10000 256 = true ∧ s.physFor 0 0x10000 .write = some 0x10000 ∧ s.memWf ∧
    (s.me.getG 1).toNat = 0x10000 + 256 * 0 ∧ (0x60 : Word).toNat % 64 ≠ 0 := by
  have hb : ∀ j, j < 128 → elemAt trec 8 j = ((taskState 4).localByte (0x40 + j)).toNat := by decide +kernel
  refine ⟨⟨by decide, by decide +kernel, by decide +kernel, hb⟩, by unfold goodTask; decide +kernel, by unfold goodTask; decide +kernel,
    ⟨fun h => absurd h (by decide +kernel), fun h => absurd h (by decide +kernel), fun h => absurd h (by decide +kernel),
      fun h => absurd h (by decide +kernel)⟩, ?_⟩
  unfold State.entryFree State.memWf; decide +kernel

/-- Tags and shape records that are good and that are not; MTLOAD's table at 0x20000, bad as it stands and good with its version. -/
theorem witness_shapes :
    goodTag 0x5af 1 ∧ ¬ goodTag 0x800 0 ∧ ¬ goodTag 0 2 ∧ bitsOf (0x40000 : Word) 63 18 ≠ 0 ∧ bitsOf (0x105af : Word) 63 18 = 0 ∧
    bitOf (ofDwords 512 [0, 0, 0, 0, 0, 0, 0, BitVec.ofNat 64 (2 ^ 31 + 0x800)]) 479 = true ∧
    ¬ goodTag (bitsOf (ofDwords 512 [0, 0, 0, 0, 0, 0, 0, BitVec.ofNat 64 (2 ^ 31 + 0x800)]) 463 448) 0 ∧
    bitsOf (0 : Record) 479 472 = 0 ∧ bitOf (ofDwords 512 [0, 0, 0, 0, 0, 0, 0, 0x80000000]) (472 + 7) = true ∧
    globalOk (st [0x9000]) (0x9000 + 56) .write true 0x9038 1 = true ∧
    (st []).tableBad 0 0x20000 = true ∧ ({ st [] with mem := memCells [(0x20000, 1), (0x20008, 0x40), (0x20009, 2)] mem0 } : State).tableBad 0 0x20000 = false ∧
    bitsOf ((st []).tblWord 0 0x20000 0) 15 0 ≠ 1 ∧ (0x20000 : Word).toNat % 4096 = 0 ∧ (0x20040 : Word).toNat % 4096 ≠ 0 := by
  unfold goodTag; decide +kernel

/-- MTLOAD of that table in a state that sends nothing: its two ends, a line that does not verify, an access pending, a line held. -/
theorem witness_table_load :
    let s : State := { st [0, 0x20000] with mem := memCells [(0x20000, 1), (0x20008, 0x40), (0x20009, 2)] mem0 };
    let v := s.ownView s.me.sbuf;
    let bad : State := { s with seals := [(0x20040 / 64, .never)] };
    v.tableBad 0 0x20000 = false ∧ bitsOf (v.tblWord 0 0x20000 0) 26 16 = 0 ∧ s.pendingAccess 0 false = false ∧ s.vaFree 0 0x20000 0x240 = true ∧
    s.keyMissing (s.uidsOf 0 0x20000 0x240) = none ∧ v.badLineAt 0 0x20000 0x240 = none ∧
    (bad.ownView bad.me.sbuf).badLineAt 0 0x20000 0x240 = some 0x20040 ∧
    ({ s with zen := { s.zen with ats := [0x20] } } : State).vaFree 0 0x20000 0x240 = false ∧
    (State.enqueue s 0 (.accessPerformed (acc 1 [] (.store [])))).pendingAccess 0 false = true := by decide +kernel

theorem witness_table_pages : ∀ i, 4096 * i < 0x240 + 8 * 0 → ∃ l, (st []).translate 0 (0x20000 + 4096 * i) .read = .ok l := by
  intro i h
  obtain rfl : i = 0 := by omega
  exact ⟨_, rfl⟩

def tref : TaskRef := ⟨0, 0, 0x10000⟩
def task0 (ph : TaskPhase) : Task := ⟨tref, 0, 0, 7, false, false, ph, [], 1, 3, [], [0x40, 0, 0, 0], [], [], 0, 0, false⟩
def withTask (t : Task) : State := { taskState 1 with tasks := [t] }

/-- The same with the task's record in its ring entry, and a shape record at 0x40. -/
def withRec (ds sh : List Word) (t : Task) : State :=
  { withTask t with mem := memCells (cellsAt 0x10000 (leBytes 128 (ofDwords 1024 ds).toNat) ++ cellsAt 0x40 (leBytes 64 (ofDwords 512 sh).toNat)) (withTask t).mem }

/-- A record of one operand that waits for version 5 of a cell; of one operand with one bank at slot 5. -/
def waitRec (a : Word) : List Word := [0x1010000, 0, 0x40, 0, 0, 0, a, 5]
def bankRec : List Word := [0x10000, 0, 0x40, 0, 0, 0, 0, 0, 0, 0, 0, 0x10050]

theorem witness_task_arrival :
    (withTask (task0 .coming)).task tref = some (task0 .coming) ∧ (task0 .coming).ref = tref ∧
    (withTask (task0 .coming)).queueOf tref = some ⟨0, 0, 15, 3, 16, 0x10000, 0, 7⟩ ∧
    (let s := withRec (waitRec 0x40000040) [] (task0 .coming);
      trWaits (s.entryRec 0 0x10000) = [(0x40000040, 5)] ∧ (s.leaf 0 0x40000040).map (·.vw) = some true ∧
      s.physOf 0 0x40000040 = some 0x40000040 ∧ memNat s.mem (0x40000040 + 8) 4 < 5) ∧
    (let s := withRec (waitRec 0x9000) [] (task0 .coming);
      trWaits (s.entryRec 0 0x10000) = [(0x9000, 5)] ∧ (s.leaf 0 0x9000).map (·.vw) = some false ∧ (s.part 0).fcap = 0 ∧ (s.part 0).kept = []) ∧
    (task0 .waiting).phase ≠ .coming := by decide +kernel

theorem witness_task_key : (withTask (task0 .staging)).taskWord 0 0x10000 0x10080 ∧ (withTask (task0 .staging)).memWf ∧
    (withTask (task0 .staging)).quietRing 0 := by
  unfold State.taskWord State.memWf State.quietRing; decide +kernel

/-- Core 1 with bank 517 at slot 5, pinned. -/
def pinnedAt5 (s : State) : State :=
  s.setCore 1 ((s.core 1).setCxOf 0 { (s.core 1).cxOf 0 with slots := [(5, mkSlot 1 3 true 1 517)] })

theorem witness_task_retirement :
    (task0 .staging).copies = 0 ∧ (task0 .staging).failed = false ∧ ({ task0 .staging with failed := true } : Task).copies = 0 ∧
    (15 : Nat) < 16 ∧ (3 : Nat) < 4 ∧ (task0 .running).banks = [] ∧ (task0 .running).doneCells = [] ∧ (task0 .trapped).phase = .trapped ∧
    bitsOf ((withTask (task0 .running)).entryRec 0 0x10000) 27 26 = 0 ∧
    (let x := { task0 .running with banks := [517] };
      let s := pinnedAt5 (withRec bankRec [] x);
      s.task tref = some x ∧ bitsOf (s.entryRec 0 0x10000) 27 26 = 0 ∧ bitsOf (s.entryRec 0 0x10000) 716 708 = 5 ∧
      bitsOf (((s.core x.site).cxOf x.enc).slot 5) 33 32 = 1 ∧ slotBank (((s.core x.site).cxOf x.enc).slot 5) = 517) ∧
    (let s := withTask { task0 .running with doneCells := [0x40000010] };
      s.physOf 0 0x40000010 = some 0x40000010 ∧ (s.part 0).conts = [] ∧ (s.part 0).kept = [] ∧ bitsOf (s.entryRec 0 0x10000) 27 26 = 0) := by
  decide +kernel

theorem witness_task_none :
    (withTask (task0 .finished)).tasks.all (fun x => decide (x.phase ≠ .placing ∧ (x.phase = .waiting → x.regs ≠ []))) = true ∧
    (withTask { task0 .waiting with regs := [(0x40000040, 5)] }).tasks.all (fun x => decide (x.phase ≠ .placing ∧ (x.phase = .waiting → x.regs ≠ []))) = true := by
  decide +kernel

/-- Both cores of the partition have failed. -/
def failedCores (s : State) : State :=
  (s.setCore 0 { s.core 0 with run := .failed }).setCore 1 { s.core 1 with run := .failed }

def queue0 : TaskQueue := ⟨0, 0, 15, 3, 16, 0x10000, 0, 7⟩

theorem witness_task_placing :
    (let s := withRec bankRec [] (task0 .placing);
      s.nextTask 0 = some (task0 .placing) ∧ s.queueOf tref = some queue0 ∧ s.task tref = some (task0 .placing) ∧ queue0.cluster = clusterOf s.cur ∧
      bitsOf (s.entryRec 0 0x10000) 726 720 = 1 ∧ s.choosePlace (task0 .placing) (s.entryRec 0 0x10000) queue0 = some 0 ∧ (s.core 0).lnum < 1024) ∧
    (let s := failedCores (withRec bankRec [] (task0 .placing));
      s.nextTask 0 = some (task0 .placing) ∧ s.choosePlace (task0 .placing) (s.entryRec 0 0x10000) queue0 = none) := by decide +kernel

/-- The record at 0x40 as Aster reads it. -/
theorem shapeRead_of {s : State} {a : Nat} {sh : Record} {l : Leaf} {uid : Nat} (h : s.translate 0 a .read = .ok (l, uid))
    (h2 : (a % 64 == 0 && keyExists l.key && s.macOk l.key uid &&
      (List.range 64).all (fun j => elemAt sh 8 j == (memRead s.mem (l.key + j)).toNat)) = true) : s.shapeRead 0 a sh := by
  simp only [Bool.and_eq_true, beq_iff_eq, List.all_eq_true, List.mem_range] at h2
  exact ⟨h2.1.1.1, l, uid, h, h2.1.1.2, h2.1.2, fun j hj => h2.2 j hj⟩

/-- A translated address, as a check that evaluates. -/
def leafIs (s : State) (a key : Nat) : Bool :=
  match s.translate 0 a .read with
  | .ok (l, uid) => l.key == key && uid == 1
  | _ => false

theorem leaf_of {s : State} {a key : Nat} (h : leafIs s a key = true) : ∃ l, s.translate 0 a .read = .ok (l, 1) ∧ l.key = key := by
  unfold leafIs at h
  split at h
  · next l u e =>
    simp only [Bool.and_eq_true, beq_iff_eq] at h
    exact ⟨l, by rw [e, h.2], h.1⟩
  · cases h

theorem shapeRead_at {s : State} {a : Nat} {sh : Record} (h : leafIs s a a = true)
    (h2 : (a % 64 == 0 && keyExists a && s.macOk a 1 && (List.range 64).all (fun j => elemAt sh 8 j == (memRead s.mem (a + j)).toNat)) = true) :
    s.shapeRead 0 a sh := by
  obtain ⟨l, e, k⟩ := leaf_of h
  exact shapeRead_of e (k.symm ▸ h2)

/-- A shape record of tag 0 with an alternate address, and one with a reserved tag. -/
def sh0 : List Word := [0, 0, 0, 0, 0, 0, 0x80, 0]
def shBad : List Word := [0, 0, 0, 0, 0, 0, 0, 0x800]

theorem witness_shape_unfit :
    (withRec bankRec shBad (task0 .waiting)).shapeUnfit 0 0x40 ∧ (withRec bankRec shBad (task0 .waiting)).nextTask 0 = some (task0 .waiting) ∧
    (0 : Nat) < bitsOf ((withRec bankRec shBad (task0 .waiting)).entryRec 0 0x10000) 18 16 ∧ (task0 .waiting).shapes.getD 0 0 = 0x40 ∧
    (withTask (task0 .waiting)).shapeUnfit 0 (2 ^ 60) := by
  refine ⟨.inr (.inr ⟨ofDwords 512 shBad, shapeRead_at (by decide +kernel) (by decide +kernel), ?_⟩), by decide +kernel, by decide +kernel, rfl,
    .inl ⟨_, rfl⟩⟩
  unfold goodShape goodTag; decide +kernel

/-- A method table at 0x20000: operator 0 of one operand of code 0 converts it by operator 1 to tag 1, whose code is 1; operator 0
of code 1 is method 7, operator 1 of codes 0 and 1 is method 9, and operator 2 of code 0 is method 8, which wants a bank. -/
def chainTable : List Host.Cell :=
  cellsAt 0x20000 (leBytes 8 (1 + 3 * 2 ^ 16 + 6 * 2 ^ 32)) ++ cellsAt 0x20008 (leBytes 8 0x1000) ++ cellsAt 0x20040 [0x10, 0x0f] ++
  cellsAt 0x20240 (leBytes 8 (2 ^ 63 + 2 ^ 34)) ++ cellsAt 0x20248 (leBytes 8 (2 ^ 63 + 2 ^ 34 + 2 ^ 32 + 2)) ++
  cellsAt 0x20250 (leBytes 8 (2 ^ 63 + 5)) ++
  cellsAt 0x21000 (leBytes 8 (2 + 2 ^ 34) ++ leBytes 8 1 ++ leBytes 8 (1 + 7 * 2 ^ 4) ++ leBytes 8 0 ++ leBytes 8 0 ++ leBytes 8 0 ++
    leBytes 8 0 ++ leBytes 8 0 ++ leBytes 8 (1 + 9 * 2 ^ 4) ++ leBytes 8 0 ++ leBytes 8 (1 + 8 * 2 ^ 4 + 2 ^ 16) ++ leBytes 8 0)

/-- The table installed at the Aster of cluster 0. -/
def tabled (ds sh : List Word) (t : Task) : State :=
  let s := withRec ds sh t
  { s.setPart 0 { s.part 0 with mtab := [(0, 0x20000)] } with mem := memCells chainTable s.mem }

/-- A lookup, as plain data. -/
def lookupIs (x : Lookup × Nat) : Nat × Nat × Nat :=
  match x.1 with
  | .miss => (0, 0, 0)
  | .method h m => (1, h, m)
  | .conv i via t _ => (2, i * 1024 + via, t)

def record0 (op : Nat) : List Word := [BitVec.ofNat 64 (0x10000 + op), 0, 0x40, 0, 0, 0, 0, 0, 0, 0, 0, 0]
def noTable : State := withRec (record0 0) sh0 (task0 .waiting)
def chained (op : Nat) : State := tabled (record0 op) sh0 (task0 .waiting)

theorem witness_shapes_good : noTable.shapesGood (task0 .waiting) (noTable.entryRec 0 0x10000) [ofDwords 512 sh0] ∧
    (chained 0).shapesGood (task0 .waiting) ((chained 0).entryRec 0 0x10000) [ofDwords 512 sh0] := by
  have hg : goodShape (ofDwords 512 sh0) := by unfold goodShape goodTag; decide +kernel
  have hs : ∀ s : State, s = noTable ∨ s = chained 0 → s.shapesGood (task0 .waiting) (s.entryRec 0 0x10000) [ofDwords 512 sh0] := by
    intro s h
    refine ⟨rfl, by rcases h with rfl | rfl <;> decide +kernel, by rcases h with rfl | rfl <;> decide +kernel, ?_⟩
    intro i hi
    have h1 : bitsOf (s.entryRec 0 0x10000) 18 16 = 1 := by rcases h with rfl | rfl <;> decide +kernel
    obtain rfl : i = 0 := by omega
    refine ⟨?_, hg⟩
    rcases h with rfl | rfl
    · exact shapeRead_at (s := noTable) (a := 0x40) (sh := ofDwords 512 sh0) (by decide +kernel) (by decide +kernel)
    · exact shapeRead_at (s := chained 0) (a := 0x40) (sh := ofDwords 512 sh0) (by decide +kernel) (by decide +kernel)
  exact ⟨hs _ (.inl rfl), hs _ (.inr rfl)⟩

theorem witness_task_resolution :
    noTable.nextTask 0 = some (task0 .waiting) ∧ sget? 0 (noTable.part 0).mtab = none ∧
    lookupIs (noTable.resolve 0 none 0 [ofDwords 512 sh0]) = (0, 0, 0) ∧ (task0 .waiting).conv = false ∧ (task0 .waiting).resolved = false ∧
    ({ task0 .waiting with resolved := true } : Task).resolved = true ∧
    (let s := chained 0;
      let u := targetShape (ofDwords 512 sh0) 1 0;
      s.nextTask 0 = some (task0 .waiting) ∧ sget? 0 (s.part 0).mtab = some 0x20000 ∧
      lookupIs (s.resolve 0 (some 0x20000) 0 [ofDwords 512 sh0]) = (2, 1, 1) ∧ dword (ofDwords 512 sh0) 6 ≠ 0 ∧ dword (0 : Record) 6 = 0 ∧
      bitsOf (s.entryRec 0 0x10000) 18 16 = 1 ∧ (bitsOf (s.entryRec 0 0x10000) 23 20).testBit 0 = false ∧
      lookupIs (s.resolve 0 (some 0x20000) 1 [ofDwords 512 sh0, u]) = (1, 9, 0) ∧ lookupIs (s.resolve 0 (some 0x20000) 0 [u]) = (1, 7, 0) ∧
      (State.tailFree { s with mem := memWrite 0x10080 4 s.mem } 0 queue0 1) = true ∧
      ({ queue0 with tail := 1 } : TaskQueue).entry 1 ≠ 0x10000) ∧
    (let s := chained 2;
      lookupIs (s.resolve 0 (some 0x20000) 2 [ofDwords 512 sh0]) = (1, 8, 1) ∧ bitsOf (s.entryRec 0 0x10000) 726 720 = 0) ∧
    (let s := tabled ([0x10002] ++ bankRec.drop 1) sh0 (task0 .waiting);
      lookupIs (s.resolve 0 (some 0x20000) 2 [ofDwords 512 sh0]) = (1, 8, 1) ∧ bitsOf (s.entryRec 0 0x10000) 726 720 = 1 ∧
      s.choosePlace (task0 .waiting) (s.entryRec 0 0x10000) queue0 = some 0 ∧ (failedCores s).choosePlace (task0 .waiting) (s.entryRec 0 0x10000) queue0 = none ∧
      ((stagedShapes (s.entryRec 0 0x10000) [ofDwords 512 sh0]).map shapeSpan).foldl (· + ·) 0 = 0) := by decide +kernel

/-- A method table at 0x20000 of one operator with one operand and one method. -/
def table : State :=
  { st [] with mem := memCells (cellsAt 0x20000 (leBytes 8 (1 + 2 ^ 16 + 2 ^ 32)) ++ cellsAt 0x20008 (leBytes 8 0x1000) ++
      cellsAt 0x20240 (leBytes 8 (2 ^ 63)) ++ cellsAt 0x21000 (leBytes 8 0x31)) mem0 }

theorem witness_resolve :
    (0 : Nat) < bitsOf (table.tblWord 0 0x20000 0) 26 16 ∧ bitOf (table.tblWord 0 0x20000 (0x240 + 8 * 0)) 63 = true ∧
    bitsOf (table.tblWord 0 0x20000 (0x240 + 8 * 0)) 33 32 + 1 = [(0 : Record)].length ∧ table.operandCode 0 0x20000 0 ≠ 15 ∧
    table.operandCode 0 0x20000 0 < 2 ^ bitsOf (table.tblWord 0 0x20000 (0x240 + 8 * 0)) 36 34 ∧ 0 < bitsOf (table.tblWord 0 0x20000 0) 63 32 ∧
    bitsOf (table.tblWord 0 ((0x20000 : Nat)) ((table.tblWord 0 0x20000 8).toNat + 16 * 0)) 1 0 = 1 ∧ bitsOf (table.tblWord 0 0x20000 0) 26 16 ≤ 1 ∧
    bitOf (table.tblWord 0 0x20000 (0x240 + 8 * 1)) 63 = false ∧
    bitsOf ((chained 0).tblWord 0 0x20000 (0x240 + 8 * 1)) 33 32 + 1 ≠ [(0 : Record)].length ∧
    (chained 0).operandCode 0 0x20000 (targetShape (0 : Record) 2 0) = 15 ∧
    2 ^ bitsOf ((chained 0).tblWord 0 0x20000 (0x240 + 8 * 2)) 36 34 ≤ (chained 0).operandCode 0 0x20000 (targetShape (0 : Record) 1 0) ∧
    bitsOf ((chained 0).tblWord 0 0x20000 0) 63 32 = 6 := by decide +kernel

theorem witness_table_install :
    let s := (taskState 4).setMe { core0 [] cx0 with run := .waiting (.mtload {} 0x20000 [0]) };
    s.mtWaiter 0 = some (0, s.core 0) ∧ (s.core 0).run = .waiting (.mtload {} 0x20000 [0]) ∧ (st []).mtWaiter 0 = none := by decide +kernel

/-- An MCALL that waits for service n, with g8 to g11. -/
def call (n : Nat) (g : List Word) (f : State → State) : State :=
  f (mk { core0 (List.replicate 8 0 ++ g) { cx0 with deque := [ent (recd (2 ^ 44) [])], q := qv 1 [ent (recd (2 ^ 44) [])] } with
    run := .waiting (.mcall {} n g) })

theorem witness_services : (3, Instr.tqset) ∈ services ∧ ((st [12]).me.getG 0).toNat = 12 ∧ (st [12]).privileged 0 = true ∧
    (st []).pendingAccess 0 false = false ∧
    (State.enqueue (st []) 0 (.accessPerformed (acc 1 [] (.store [])))).pendingAccess 0 false = true ∧
    (st []).me.run = .running ∧ (call 3 [1] id).me.run = .waiting (.mcall {} 3 [1]) := by
  refine ⟨by simp [services], ?_⟩; decide +kernel

/-- Identifier 5 of partition 0 in the states that the services tell apart. -/
def keyed (n : Nat) (g : List Word) (k : KeyState) : State := call n g (fun s => { s with keys := (2, tkey k) :: s.keys, nextUid := 3 })

theorem witness_key_services :
    (keyed 10 [5] .active).tenantKey 0 5 = some (2, tkey .active) ∧ (keyed 10 [6] .active).tenantKey 0 6 = none ∧
    (keyed 8 [5] .active).me.run = .waiting (.mcall {} 8 [5]) ∧ (keyed 8 [4095] .active).me.arg 0 = 4095 ∧
    sget? 2 (keyed 8 [5] .retiring).keys = some (tkey .retiring) ∧ (tkey .provisioned).st = .provisioned ∧ (tkey .revoked).st = .revoked ∧
    (st []).siteOf 0 1 = some 1 ∧ (st []).siteOf 0 2 = none ∧ ((st []).core 1).quiesced = false := by decide +kernel

theorem witness_key_waiters : ∀ c, ((keyed 8 [5] .active).core c).run ≠ .waiting (.key 2) := by
  intro c
  rcases Nat.lt_or_ge c 2 with h | h
  · exact (by decide +kernel : ∀ c, c < 2 → ((keyed 8 [5] .active).core c).run ≠ .waiting (.key 2)) c h
  · have : (keyed 8 [5] .active).core c = Core.reset := by
      have h0 : (0 : Nat) ≠ c := by omega
      have h1 : (1 : Nat) ≠ c := by omega
      simp [keyed, call, mk, State.core, sget, h0, h1]
    rw [this]; decide

/-- KIMPORT's regions: the source under key 0, the destination under key 5 (virtual 4 GiB). -/
def importing : State :=
  call 7 [0x8000, 0x100000000, 64, 5] (fun s => { s with
    keys := (2, tkey .active) :: s.keys, nextUid := 3, mem := memCells (cellsAt 0x101020 (leBytes 8 (0x703 + 0x100000000 + 5 * 2 ^ 52))) s.mem })

theorem witness_import :
    importing.tenantKey 0 5 = some (2, tkey .active) ∧ importing.regionUnder 0 0x8000 (64 + 32) 0 .read = true ∧
    importing.regionUnder 0 0x100000000 64 5 .write = true ∧ (importing.readVa 0 0x8000 (64 + 32)).isSome = true ∧
    importing.pageUnder 0 0x100000000 5 .write = some (0x100000000, 2) ∧ importing.memWf ∧ importing.regionUnder 0 0x100000000 96 0 .read = false ∧
    (2 : Nat) ^ 20 + 64 > 2 ^ 20 ∧ (4095 : Nat) < 4096 ∧ importing.macFails 0 0x8000 (64 + 32) = false ∧
    importing.macFails 0 0x8000 (128 + 32) = false ∧ importing.regionUnder 0 0x8000 (128 + 32) 0 .read = true ∧
    importing.regionUnder 0 0x100000000 128 5 .write = true ∧ (importing.readVa 0 0x8000 (128 + 32)).isSome = true ∧
    importing.pageUnder 0 (0x100000000 + 64) 5 .write = some (0x100000040, 2) ∧ (128 : Nat) % 64 = 0 := by
  unfold State.memWf; decide +kernel

theorem witness_qheld :
    let s := call 1 [0, 1, 1] id;
    bitsOf (s.me.arg 1) 63 7 = 0 ∧ bitOf (s.me.arg 1) 2 = false ∧ bitsOf (s.me.arg 1) 6 4 < (s.core 0).encs ∧ (s.me.arg 2).toNat ≤ 1 ∧
    bitOf (s.me.arg 1) 3 = false ∧ bitsOf (s.me.arg 1) 1 0 = 1 ∧ ((s.core 0).cxOf 0).q[(1 : Fin 4)].res = ent (recd (2 ^ 44) []) :: [] ∧
    bitOf (ent (recd (2 ^ 44) [])).record 44 = true ∧ ((s.core 0).cxOf 0).q[(1 : Fin 4)].spill = [] ∧ (s.core 0).keptEntries = [] ∧
    ((s.core 0).cxOf 0).q[(0 : Fin 4)].res = [] ∧ bitOf (8 : Word) 3 = true ∧ bitsOf (8 : Word) 1 0 = 0 ∧ bitOf (4 : Word) 2 = true ∧
    ¬ (∀ e ∈ ((s.core 0).cxOf 0).allDeque, bitOf e.record 44 = false) ∧ ((s.core 1).cxOf 0).allDeque = [] := by decide +kernel

/-- A deque whose held entry lies below one that is not held, and a ranked queue with a held head. -/
theorem witness_qheld_more :
    (let held := { ent (recd (2 ^ 44) []) with arr := 1 };
      let free := { ent (recd 0 []) with arr := 2 };
      let s := (call 1 [0, 8, 1] id).setMe { (call 1 [0, 8, 1] id).me.setCx { cx0 with deque := [held, free] } with run := .waiting (.mcall {} 1 [0, 8, 1]) };
      s.me.run = .waiting (.mcall {} 1 [0, 8, 1]) ∧ s.siteOf 0 0 = some 0 ∧ bitOf (s.me.arg 1) 3 = true ∧ bitsOf (s.me.arg 1) 1 0 = 0 ∧
      ((s.core 0).cxOf 0).dspill ++ ((s.core 0).cxOf 0).deque = [] ++ held :: [free] ∧ bitOf held.record 44 = true ∧ bitOf free.record 44 = false ∧
      ((([] : List Entry) ++ held :: [free]).map (·.arr)).Nodup) ∧
    (let e := ent (recd (2 ^ 44) []);
      let s := (call 1 [0, 1, 0] id).setMe ((call 1 [0, 1, 0] id).me.setCx
        { cx0 with q := (Vector.replicate 4 Queue.reset).set 1 { Queue.reset with cfg := 1, res := [e] } });
      s.me.run = .waiting (.mcall {} 1 [0, 1, 0]) ∧ ((s.core 0).cxOf 0).q[(1 : Fin 4)].res = [e] ∧ bitsOf (((s.core 0).cxOf 0).q[(1 : Fin 4)]).cfg 1 0 ≠ 0 ∧
      bitsOf (((call 1 [0, 1, 0] id).core 0).cxOf 0).q[(1 : Fin 4)].cfg 1 0 = 0 ∧ s.me.arg 2 = 0) := by decide +kernel

theorem witness_clrst : (st []).privileged 0 = true ∧ (st []).page1Pending 0 = false ∧ (st []).me.bal = none ∧
    (State.enqueue (st []) 0 (.accessPerformed (acc 1 [] (.vload 0 0 [] 0xff [] [])))).page1Pending 0 = true := by decide +kernel

/-- Each installing service with operands it takes, at the bounds of their ranges, and with one it refuses. -/
theorem witness_installs :
    (let s := call 2 [0x2000, 16, 0x40000000] id;
      s.me.run = .waiting (.mcall {} 2 [0x2000, 16, 0x40000000]) ∧ 0x2000 % 64 = 0 ∧ 16 ≤ 16 ∧ 16 = 2 ^ 4 ∧ s.pagesOk 0 0x2000 (64 * 16) false = true ∧
      s.pagesOk 0 0x40000000 32 true = true ∧ s.ringUsed 0 = false ∧ s.cellUsed 0 0x40000000 = false ∧ s.cellUsed 0 (0x40000000 + 16) = false ∧
      s.physOf 0 0x40000000 = some 0x40000000 ∧ s.physFor 0 0x40000000 .write = some 0x40000000 ∧ s.pagesOk 0 0x2000 32 true = false) ∧
    (call 2 [] (fun s => { s with mem := memWrite 0x4000001c 1 s.mem })).cellUsed 0 (0x40000000 + 16) = true ∧
    (call 2 [] (fun s => { s.setPart 0 { part0 with fcap := 16, fbase := 0x2000, fctl := 0x40000000 } with mem := memWrite 0x40000008 1 s.mem })).ringUsed 0 = true ∧
    (call 4 [1, 0x9000] (fun s => { s with seals := [(0x9000 / 64, .never)] })).macFails 0 0x9000 128 = true ∧
    (call 4 [1, 0x9000] id).macFails 0 0x9000 128 = false ∧ (call 5 [255, 0x9000] id).macFails 0 0x9000 8200 = false ∧
    (call 2 [] (fun s => { s with mem := memWrite 0x4000000c 1 s.mem })).cellUsed 0 0x40000000 = true ∧
    (let s := call 3 [63, 0x4200000, 0x40001000] id;
      s.me.run = .waiting (.mcall {} 3 [63, 0x4200000, 0x40001000]) ∧ (63 : Nat) < 64 ∧ bitsOf (0x4200000 : Word) 7 6 = 0 ∧ bitsOf (0x4200000 : Word) 15 14 = 0 ∧
      bitsOf (0x4200000 : Word) 23 22 = 0 ∧ bitsOf (0x4200000 : Word) 63 28 = 0 ∧ bitsOf (0x4200000 : Word) 21 20 ≤ 2 ∧ bitsOf (0x4200000 : Word) 27 24 = 4 ∧
      0x40001000 % 256 = 0 ∧ (∃ c ∈ (s.part 0).members, clusterOf c = bitsOf (0x4200000 : Word) 5 0) ∧ s.pagesOk 0 0x40001000 (256 * 2 ^ 4) true = true) ∧
    (sget? 0 ((taskState 3).part 0).tqs).isSome = true ∧
    (let s := call 4 [63, 0x9000] (fun s => { s with mem := memWrite 0x9000 3 s.mem });
      ∃ bs, s.readVa 0 0x9000 128 = some bs ∧ ∀ j, 2 ≤ j → j < 1024 → (BitVec.ofNat 1024 (leNat bs)).getLsbD j = false) ∧
    (call 4 [] id).readVa 0 0x100000000000000 128 = none ∧
    (let s := call 6 [0x9000, 64] id; s.me.run = .waiting (.mcall {} 6 [0x9000, 64]) ∧ 0x9000 % 128 = 0 ∧ s.pagesOk 0 0x9000 (128 * 64) false = true ∧ (s.part 0).conts = []) := by
  refine ⟨by decide +kernel, by decide +kernel, by decide +kernel, by decide +kernel, by decide +kernel, by decide +kernel, by decide +kernel,
    by decide +kernel, by decide +kernel, ⟨3 :: List.replicate 127 0, by decide +kernel, ?_⟩, by decide +kernel, by decide +kernel⟩
  intro j h2 h
  have : ∀ j, j < 1024 → 2 ≤ j → (BitVec.ofNat 1024 (leNat (3 :: List.replicate 127 0))).getLsbD j = false := by decide +kernel
  exact this j h h2

/-- A tree of a root and one leaf, as TREESET reads it. -/
def treeing : State :=
  call 5 [255, 0x9000] (fun s => { s with mem := memCells (cellsAt 0x9000 (leBytes 8 2 ++ leBytes 8 (0x3ff * 2 ^ 10) ++ leBytes 8 (1 + 2 ^ 20))) s.mem })

theorem witness_treeset : treeing.goodTree 0 0 [(0, 0x3ff, false), (1, 0, true)] ∧ treeing.readVa 0 0x9000 8 = some (leBytes 8 2) ∧
    treeing.readVa 0 (0x9000 + 8) (8 * 2) = some (leBytes 8 (0x3ff * 2 ^ 10) ++ leBytes 8 (1 + 2 ^ 20)) ∧ treeing.me.run = .waiting (.mcall {} 5 [255, 0x9000]) ∧
    (∃ es, treeing.readVa 0 (0x9010 + 8) (8 * 1) = some es ∧ treeing.treeBad 0 (BitVec.ofNat 64 1) (wordsOf es 1) = true) := by
  refine ⟨⟨⟨false, _, rfl⟩, by decide, by decide, ?_, ⟨(1, 0, true), by decide, rfl⟩⟩, by decide +kernel, by decide +kernel, by decide +kernel,
    ⟨(treeing.readVa 0 (0x9010 + 8) (8 * 1)).getD [], by decide +kernel, by decide +kernel⟩⟩
  intro i x h
  have hs : ∀ n, n < 2 → treeing.siteOf 0 n = some n := by decide +kernel
  match i, h with
  | 0, h => cases h; exact ⟨by decide, by decide, fun h => absurd rfl h, 0, hs 0 (by decide)⟩
  | 1, h => cases h; exact ⟨by decide, by decide, fun _ => by decide, 1, hs 1 (by decide)⟩
  | n + 2, h => simp at h

/-- A task of the ring at 0x40010000, in a versioned page, and TCTL called for it. -/
def controlled (ph : TaskPhase) (f : State → State) : State :=
  f { ((mk { core0 [] cx0 with run := .waiting (.mcall {} 11 [0x40010000, 1]) }).setPart 0 { part0 with tqs := [(0, ⟨0, 0, 15, 3, 16, 0x40010000, 0, 7⟩)] }) with
    mem := memWrite 0x40010080 1 mem0, tasks := [{ task0 ph with ref := ⟨0, 0, 0x40010000⟩ }] }

/-- A held task, one whose entry does not verify, one whose page takes no write (its key is retiring: here it is not mapped). -/
theorem witness_tctl :
    let s := controlled .held id;
    s.me.run = .waiting (.mcall {} 11 [0x40010000, 1]) ∧ (0, ⟨0, 0, 15, 3, 16, 0x40010000, 0, 7⟩) ∈ (s.part 0).tqs ∧ (0 : Nat) < 16 ∧ (s.me.arg 1).toNat ≤ 1 ∧
    s.tasks.find? (fun y => y.ref.part == 0 && y.ref.entry == 0x40010000) = some { task0 .held with ref := ⟨0, 0, 0x40010000⟩ } ∧
    s.convTasks { task0 .held with ref := ⟨0, 0, 0x40010000⟩ } = [] ∧ (task0 .held).banks = [] ∧ (task0 .running).phase = .running ∧
    (task0 .finished).phase = .finished ∧ s.taskWord 0 0x40010000 0x40010080 ∧ s.macFails 0 0x40010000 256 = false ∧ s.pagesOk 0 0x40010000 256 true = true ∧
    (controlled .held (fun s => { s with seals := [(0x40010080 / 64, .never)] })).macFails 0 0x40010000 256 = true ∧
    (controlled .held (fun s => { s with mem := memWrite 0x101009 0x05 s.mem })).pagesOk 0 0x40010000 256 true = false ∧
    (controlled .held (fun s => { s with mem := memWrite 0x101009 0x05 s.mem })).macFails 0 0x40010000 256 = false ∧
    s.physOf 0 (0x40010000 + 128) = some 0x40010080 ∧ (taskState 1).tasks = [] := by
  unfold State.taskWord; decide +kernel

/-- A failing new control block and a failing old one; a failing status word of the queue to replace; a path whose leaf entry fails. -/
theorem witness_failing_lines :
    (call 2 [0x2000, 16, 0x40000000] (fun s => { s with seals := [(0x40000000 / 64, .never)] })).macFails 0 0x40000000 32 = true ∧
    (let s := call 2 [0x2000, 16, 0x40000000] (fun s => { s.setPart 0 { part0 with fcap := 16, fbase := 0x2000, fctl := 0x40001000 } with
        seals := [(0x40001000 / 64, .never)] });
      s.macFails 0 0x40000000 32 = false ∧ (s.part 0).fcap ≠ 0 ∧ s.macFails 0 (s.part 0).fctl 32 = true) ∧
    (let s := { taskState 4 with seals := [(0x10080 / 64, .never)] };
      sget? 0 (s.part 0).tqs = some queue0 ∧ 0 < queue0.cap ∧ s.macFails 0 (queue0.base + 256 * 0 + 128) 8 = true) ∧
    (∀ j, j < queue0.cap → (taskState 3).macFails 0 (queue0.base + 256 * j + 128) 8 = false) ∧
    State.macOk { st [] with seals := [(0x101000 / 64, .never)] } (entryPlace 2 0x101000 0) 1 = false := by decide +kernel

theorem witness_ptmap :
    let s := call 12 [0x40000000, 0, 2] id;
    s.me.run = .waiting (.mcall {} 12 [0x40000000, 0, 2]) ∧ (0x40000000 : Nat) < 2 ^ 56 ∧ 0x40000000 % 2 ^ 30 = 0 ∧ memNat s.mem (0x100000 + 8 * (0x40000000 / 2 ^ 39 % 2 ^ 17)) 8 % 4 = 1 ∧
    memNat s.mem (0x100000 + 8 * (2 ^ 39 / 2 ^ 39 % 2 ^ 17)) 8 % 2 = 0 ∧
    (call 12 [] (fun s => s.setPart 0 { part0 with exts := [(0, 2 ^ 31)], tbl := 0, tblLen := 0 })).leafBad 0 0x40000703 2 = false ∧
    bitsOf (1 : Word) 1 0 ≠ 3 ∧ (3 : Nat) > 2 ∧ (0x1000 : Nat) % 2 ^ 30 ≠ 0 := by decide +kernel

/-! ### Witnesses: the host and the device -/

/-- A request of requester 9 that waits at the device; sessions 0 of interface 0 and 1 of partition 0's are set up. -/
def asking (r : HostReq) (f : State → State) : State :=
  f { st [] with zen := { Zenith.reset with
    ready := true, vendorId := 0x1234, inbox := [.req r], measured := [9], spdm := [(0, 3), (1, 3)]
    sessions := [(0, ⟨0, 9, true, 0, 0⟩), (1, ⟨1, 9, true, 0, 0⟩)] } }

def spdm (code : Nat) (b : List Byte) : HostReq := ⟨0, some 0, 9, .spdm code b⟩
def tdisp (code : Nat) : HostReq := ⟨1, none, 9, .tdisp code⟩
def vendor (iface : Nat) (b : List Byte) : HostReq := ⟨iface, some iface, 9, .vendor 3 0x1234 b⟩

theorem witness_spdm :
    (asking (spdm 0x84 []) id).spdmAsks (spdm 0x84 []) [] 0x84 [] ∧ (asking (spdm 0x84 []) id).spdmStage 0 = 3 ∧
    (asking (spdm 0xe1 []) id).spdmStage 0 ≠ 1 ∧ (asking (spdm 0xe1 []) (·.setStage 0 1)).spdmStage 0 = 1 ∧
    (asking (spdm 0xe3 []) (·.setStage 0 2)).spdmStage 0 = 2 ∧ (asking (spdm 0x81 []) (·.setStage 0 2)).spdmStage 0 ≠ 3 ∧
    field [1] 0 1 ≤ 1 ∧ 1 < field [2] 0 1 ∧ field [0, 0xff] 1 1 ≠ 0 ∧ field [0, 0xff] 0 1 % 2 = 0 ∧ field [1, 5] 0 1 % 2 = 1 ∧
    (∀ m, m < 2 → (sget? m (asking (spdm 0xe4 []) id).zen.sessions).isSome = true) ∧ sget? 2 (asking (spdm 0xe4 []) id).zen.sessions = none ∧
    (2 : Nat) < 8 ∧ (8 : Nat) ≤ 8 ∧ (asking (spdm 0xe5 []) id).inSessionOf (spdm 0xe5 []) 0 ⟨0, 9, true, 0, 0⟩ ∧ field [3] 0 1 ≤ 3 ∧ 1 ≤ field [1] 0 1 ∧
    3 < field [4] 0 1 ∧ ({ spdm 0xe8 [] with sess := none } : HostReq).sess = none ∧ requestInstr (spdm 0x85 []) = .unsupportedRequest ∧
    requestInstr (tdisp 0x88) = .unsupportedRequest ∧ requestInstr (vendor 0 [0x30, 0]) = .unsupportedRequest ∧
    (vendor 0 [0x30, 0]).msg = .vendor 3 (asking (vendor 0 [0x30, 0]) id).zen.vendorId [0x30, 0] ∧ (4 : Nat) ≠ 3 ∧
    (0x1235 : Nat) ≠ (asking ⟨0, some 0, 9, .vendor 3 0x1235 [1, 0]⟩ id).zen.vendorId ∧
    (asking ⟨0, some 0, 9, .vendor 4 0x1234 [1, 0]⟩ id).oldest ⟨0, some 0, 9, .vendor 4 0x1234 [1, 0]⟩ [] ∧
    (let s := asking (spdm 0x84 []) (fun s => { s with zen := { s.zen with ready := false } }); s.zen.inbox = .req (spdm 0x84 []) :: [] ∧ s.zen.ready = false) := by
  unfold State.spdmAsks State.oldest State.inSessionOf; decide +kernel

theorem witness_measurements : (asking (spdm 0xe0 [0, 0xff]) id).blocks 0 0xff ≠ [] ∧ (asking (spdm 0xe0 [0, 0x10]) id).blocks 0 0x10 = [] := by
  refine ⟨fun h => ?_, by decide +kernel⟩
  have : ((asking (spdm 0xe0 [0, 0xff]) id).blocks 0 0xff).length ≠ 0 := by decide +kernel
  exact this (by rw [h]; rfl)

theorem witness_tdisp :
    (let s := asking (tdisp 0x83) (fun s => s.setPart 0 { part0 with iface := .unlocked });
      s.oldest (tdisp 0x83) [] ∧ (tdisp 0x83).iface ≠ 0 ∧ (sget? 0 s.parts).map (·.iface) = some .unlocked ∧ sget? (0 + 1) s.zen.streams = none ∧ (0 : Nat) < 63 ∧
      (s.parts.filter (fun x => x.2.iface == .locked || x.2.iface == .run)).length < 63) ∧
    (let s := asking (tdisp 0x86) (fun s => s.setPart 0 { part0 with iface := .locked, lockedBy := some 9 });
      (sget? 0 s.parts).map (fun x => (x.iface, x.lockedBy)) = some (.locked, some 9)) ∧
    (some 8 : Option Nat) ≠ some 9 ∧ (sget? 0 (st []).parts).map (·.iface) = some .run ∧ ({ tdisp 0x83 with iface := 0 } : HostReq).iface = 0 ∧
    sget? (2 - 1) (st []).parts = none := by
  unfold State.oldest; decide +kernel

/-- A vendor-defined payload: its code, zero flags, and the rest. -/
def pay (code len : Nat) (b : List Byte) : List Byte := (leBytes 2 code ++ [0, 0] ++ b ++ List.replicate len 0).take len

def ask (iface code len : Nat) (b : List Byte) (f : State → State) : State := asking (vendor iface (pay code len b)) f

theorem asks_intro {iface code len b f} (hz : (ask iface code len b f).zen.inbox = [.req (vendor iface (pay code len b))])
    (hr : (ask iface code len b f).zen.ready = true) (hc : field (pay code len b) 0 2 = code) (hl : (pay code len b).length = len)
    (hf : field (pay code len b) 2 2 = 0) (hv : (ask iface code len b f).zen.vendorId = 0x1234) :
    (ask iface code len b f).vendorAsks (vendor iface (pay code len b)) [] code len (pay code len b) :=
  ⟨⟨hz, hr⟩, by rw [hv]; rfl, hc, hl, hf⟩

theorem witness_requests : ∀ y ∈ ([(0x12, 5), (0x11, 136), (0x18, 5), (0x13, 8), (0x14, 7), (0x15, 10), (0x17, 10), (0x10, 320)] : List (Nat × Nat)),
    (ask 0 y.1 y.2 [] id).vendorAsks (vendor 0 (pay y.1 y.2 [])) [] y.1 y.2 (pay y.1 y.2 []) := by
  intro y hy
  have h : ∀ y ∈ ([(0x12, 5), (0x11, 136), (0x18, 5), (0x13, 8), (0x14, 7), (0x15, 10), (0x17, 10), (0x10, 320)] : List (Nat × Nat)),
      field (pay y.1 y.2 []) 0 2 = y.1 ∧ (pay y.1 y.2 []).length = y.2 ∧ field (pay y.1 y.2 []) 2 2 = 0 := by decide +kernel
  exact asks_intro rfl rfl (h y hy).1 (h y hy).2.1 (h y hy).2.2 rfl

theorem witness_channels : (ask 0 0x12 5 [] id).onManagement (vendor 0 (pay 0x12 5 [])) ∧
    ¬ (ask 1 0x12 5 [] id).onManagement (vendor 1 (pay 0x12 5 [])) ∧ (ask 1 2 8 [0, 0, 5, 0] id).onPartition (vendor 1 (pay 2 8 [0, 0, 5, 0])) 0 ∧
    (pay 0x12 5 []).length ≠ 6 ∧ field [0, 0, 1, 0] 2 2 ≠ 0 := by
  refine ⟨⟨rfl, 0, ⟨0, 9, true, 0, 0⟩, ⟨rfl, rfl, rfl, rfl⟩, rfl⟩, fun h => absurd h.1 (by decide), ⟨rfl, 1, ⟨1, 9, true, 0, 0⟩, ⟨rfl, rfl, rfl, rfl⟩, rfl⟩,
    by decide, by decide⟩

/-- The payload of PART_CREATE for a rectangle of two sites with one enclave and 2 MiB of memory, supervisor number n. -/
def create (n : Nat) : List Byte :=
  [7, 0, 1, 0, 0, 0, 2, 1] ++ leBytes 2 n ++ leBytes 2 64 ++ leBytes 2 64 ++ [0, 0] ++ leBytes 4 1024 ++ List.replicate 24 0 ++ [1] ++
    List.replicate 7 0 ++ leBytes 8 (2 ^ 50) ++ leBytes 8 0x200000 ++ List.replicate 240 0 ++ leBytes 8 0x100000

def bare (n : Nat) : State :=
  ask 0 0x10 320 (create n) (fun s => { s with parts := [], cores := [(0, { Core.reset with run := .idle }), (1, { Core.reset with run := .idle })] })

/-- The rectangle's memory lies in LPDDR6, so that it meets no region of HBM4E. -/
theorem witness_create_fields : createBad (pay 0x10 320 (create 1)) = false := by
  have he : extents (pay 0x10 320 (create 1)) = [(2 ^ 50, 0x200000)] := by decide +kernel
  have ho : (extents (pay 0x10 320 (create 1))).any (overlap blobRegion) = false := by
    rw [he]
    have : Config.blobBase % (2 ^ 39 - 2 ^ 19) < 2 ^ 39 := by omega
    simp only [List.any_cons, List.any_nil, overlap, blobRegion, Bool.or_false, decide_eq_false_iff_not]
    omega
  unfold createBad
  simp only [ho]
  decide +kernel

theorem witness_create :
    field (pay 0x10 320 (create 1)) 12 2 = 1 ∧
    (rectSites 0 0 2 1).filter (fun c => ((bare 1).core c).live) = [0, 1] ∧ 1 < [0, 1].length ∧ [0, 1].length ≤ field (pay 0x10 320 (create 2)) 12 2 ∧
    sget? 7 (bare 1).parts = none ∧ (∀ c ∈ [0, 1], ((bare 1).core c).part = 256 ∧ (bare 1).fieldHeld c = false ∧ (bare 1).fieldScrubs c = false ∧
      16 * field (pay 0x10 320 (create 1)) 6 1 ≤ ((bare 1).freeField c).length) ∧ (bare 1).parts = [] ∧
    2 ^ 20 ≤ field (pay 0x10 320 (create 1)) 312 8 ∧ (bare 1).storeHasRoom ∧ ((ask 0 0x10 320 (create 1) id).core 0).part ≠ 256 ∧ (bare 1).memWf := by
  unfold State.storeHasRoom State.memWf; decide +kernel

theorem witness_partition_requests :
    (sget? 0 (ask 0 0x11 136 [] id).parts).isSome = true ∧ (ask 0 0x11 136 [] id).rebuildWaits 0 = true ∧
    (ask 0 0x11 136 [] (fun s => s.setCore 0 { s.core 0 with run := .idle, h := Handler.none })).rebuildWaits 0 = false ∧ ((st []).part 0).members.Nodup ∧
    sget? 200 (st []).parts = none ∧ ((ask 0 0x13 8 [5] (·.setBank 5 { st := .frozen, owner := 0 })).bank 5).st = .frozen ∧ (5 : Nat) % 512 < 384 ∧
    ((ask 0 0x13 8 [5] id).bank 5).st ≠ .frozen ∧ field (pay 0x14 7 [63, 2, 48]) 6 1 = 48 ∧ ((st []).sub 63 2).count < 2 ^ 48 ∧
    field (pay 0x15 10 [22, 8, 0, 0, 16, 0]) 4 4 + field (pay 0x15 10 [22, 8, 0, 0, 16, 0]) 8 2 = 2086 ∧ field (pay 0x17 10 [0, 0, 0, 0, 32, 0]) 8 2 = 32 ∧
    (st []).quiescent 0 = false ∧ (ask 0 0x19 4112 [] (fun s => s.setCore 0 { Core.reset with run := .idle, part := 0, quiesced := true } |>.setCore 1
      { Core.reset with run := .idle, part := 0, quiesced := true })).quiescent 0 = true ∧
    (let s := (st []).setPart 0 { part0 with exts := [(0, 2 ^ 31)] };
      s.vaFree 0 0x8000 4096 = true ∧ (s.leaf 0 0x8000).map (·.key) = some 0x8000 ∧ (s.part 0).exts = [(0, 2 ^ 31)]) := by decide +kernel

/-- An image page at 512 GiB, whose tables are there. -/
theorem witness_image_page :
    let s := { (st []).setPart 0 { part0 with exts := [(0, 2 ^ 31)] } with
      mem := memCells (cellsAt 0x100008 (leBytes 8 0x102001) ++ cellsAt 0x102000 (leBytes 8 0x103001) ++ cellsAt 0x103000 (leBytes 8 0x104001)) mem0 };
    (match s.mapLeaf 0 0x8000000000 0 (imageLeaf 0 0x400000) with
      | .ok u => Memory.wf u.mem && Memory.wf u.bmem && decide (u.physOf 0 0x8000000000 = some 0x400000)
      | .error _ => false) = true := by decide +kernel

/-- Keys in every state, with the identifier and the session that the requests name. -/
def withKey (st_ : KeyState) (code len : Nat) (b : List Byte) : State :=
  ask 1 code len b (fun s => { s with keys := (2, { tkey st_ with sess := 1 }) :: s.keys, nextUid := 3 })

theorem witness_keys :
    (ask 1 1 168 [] id).ifaceRun 0 = true ∧ 9 ∈ (ask 1 1 168 [] id).zen.measured ∧ ((ask 1 1 168 [] id).part 0).dbg = [] ∧
    (ask 1 1 168 [] id).storeHasRoom ∧ (ask 1 1 168 [] id).idUsed 1 = false ∧ (withKey .active 1 168 [0, 0, 5, 0]).idUsed 5 = true ∧
    (withKey .provisioned 2 8 [0, 0, 5, 0]).tenantKey 0 5 = some (2, { tkey .provisioned with sess := 1 }) ∧
    (vendor 1 (pay 2 8 [])).sess = some ({ tkey .provisioned with sess := 1 } : Key).sess ∧ (vendor 1 (pay 2 8 [])).sess ≠ some (tkey .provisioned).sess ∧
    (tkey .provisioned).m4 = ((withKey .provisioned 2 8 []).part 0).block4 ∧ (tkey .provisioned).m5 = ((withKey .provisioned 2 8 []).part 0).block5 ∧
    ({ tkey .provisioned with m4 := 1 } : Key).m4 ≠ ((withKey .provisioned 2 8 []).part 0).block4 ∧ (tkey .active).st = .active ∧ (tkey .retiring).st ≠ .active ∧
    sget? 2 (withKey .active 4 8 []).keys = some { tkey .active with sess := 1 } := by
  unfold State.storeHasRoom; decide +kernel

theorem witness_debugger :
    debugAsks (pay 0x16 20 [0, 0, 4, 0, 1, 0]) 0 0 4 1 ∧ (sget? 0 (st []).parts).isSome = true ∧ (0 : Nat) < ((st []).part 0).encs ∧
    (∃ x ∈ (withKey .active 0x16 20 []).keys, x.2.part = 0 ∧ x.2.ident ≠ 0 ∧ (x.2.st = .provisioned ∨ x.2.st = .active ∨ x.2.st = .retiring)) ∧
    (∀ x ∈ (ask 0 0x16 20 [] id).keys, x.2.part = 0 → x.2.ident ≠ 0 → x.2.st = .revoked ∨ x.2.st = .empty) ∧
    (let s := (st []).setCore 1 { (st []).core 1 with run := .halted 1 }; s.haltedAt 0 0 1 1) ∧ (∀ m, ¬ (st []).haltedAt 0 0 1 m) ∧
    field (pay 0x16 20 [0, 0, 3, 0, 1, 0, 0, 15]) 11 1 = 15 ∧ field (pay 0x16 20 [0, 0, 3, 0, 1, 0, 0, 15]) 10 1 = 0 := by
  refine ⟨by unfold debugAsks; decide +kernel, by decide +kernel, by decide +kernel, by decide +kernel, by decide +kernel,
    ⟨by decide +kernel, by decide +kernel, 1, by decide +kernel⟩, ?_, by decide +kernel, by decide +kernel⟩
  rintro m ⟨h, -, cost, g⟩
  have : (st []).siteOf 0 1 = some 1 := by decide +kernel
  rw [this] at h; cases h
  have : ((st []).core 1).run = .idle := by decide +kernel
  rw [this] at g; cases g

theorem witness_key_store :
    (let s := { mk { core0 [] cx0 with run := .waiting (.key 1) } with keys := [(1, { pkey with resident := false })] };
      s.me.run = .waiting (.key 1) ∧ sget? 1 s.keys = some { pkey with resident := false } ∧ (s.keys.filter (fun x => x.2.resident)).length < 256) ∧
    sget? 1 (st []).keys = some pkey ∧ pkey.resident = true ∧ (∀ x ∈ (st []).keys, x.2.st ≠ .revoked) ∧
    (withKey .revoked 4 8 []).keys.find? (fun x => x.2.st == .revoked) = some (2, { tkey .revoked with sess := 1 }) ∧
    (acc 1 [0x5000] (.store [(0x5000, 1)])).kind = .store [(0x5000, 1)] ∧ (acc 1 [0x5000] (.vstore [(0x5000, 1)])).kind = .vstore [(0x5000, 1)] := by
  decide +kernel

/-- Inputs of each kind; host submissions at their bounds. -/
def input (x : HostIn) (f : State → State) : State := f { st [] with zen := { Zenith.reset with ready := true, inbox := [x] } }

theorem witness_inputs :
    (let w : HostWrite := ⟨0, 0x3fc0, leBytes 64 (recd 0 []).toNat⟩; let s := input (.write w) id;
      s.inboxHas (.write w) [] ∧ (sget? w.part s.parts).map (·.iface) = some .run ∧ w.bytes.length = 64 ∧ w.off % 64 = 0 ∧ w.off < 0x4000 ∧
      part0.credits[Fin.ofNat 4 (w.off / 4096)] ≠ 0 ∧ s.siteOf w.part part0.sup = some 0 ∧
      s.recordBad w.part part0.supEnc (BitVec.ofNat 512 (leNat w.bytes)) = none) ∧
    (input (.write ⟨0, 0, []⟩) id).postedByHost = false ∧
    (input (.write ⟨0, 0, []⟩) (fun s => { s with zen := { s.zen with posted := [(true, 0x5000, [])] } })).postedByHost = true ∧
    (input (.corrected (.cirrus 11)) id).inboxHas (.corrected (.cirrus 11)) [] ∧
    (0x4000 : Nat) ≥ 0x4000 ∧ ({ part0 with credits := Vector.replicate 4 0 } : Part).credits[(0 : Fin 4)] = 0 ∧ part0.iface ≠ .unlocked ∧
    (input (.evtail 3) (fun s => { s with zen := { s.zen with evHead := 3, evTail := 3 } })).zen.evTail ≤ 3 ∧
    (input (.evtail 4) (fun s => { s with zen := { s.zen with evHead := 3, evTail := 3 } })).zen.evHead < 4 ∧
    (input (.cirrus 11) id).inboxHas (.cirrus 11) [] ∧ (input (.corrected (.bank 383)) id).inboxHas (.corrected (.bank 383)) [] ∧
    (input (.stretch 17 1024) id).inboxHas (.stretch 17 1024) [] ∧ 1 ≤ 1024 ∧ (17 : Nat) < 18 := by
  unfold State.inboxHas; decide +kernel

theorem witness_device :
    (let s := input (.ats 5) (fun s => { s with zen := { s.zen with ats := [5] } }); s.zen.ats = 5 :: [] ∧ s.pageBusy 5 = false) ∧
    (State.enqueue (st []) 0 (.accessPerformed (acc 1 [5 * 4096] (.store [(5 * 4096, 1)])))).pageBusy 5 = true ∧
    (let z := { Zenith.reset with subs := [(4, ⟨2 ^ 32, 32, false, [], 0⟩)], streams := [(1, 1)] };
      z.subs = [(4, ⟨2 ^ 32, 32, false, [], 0⟩)] ∧ (2 : Nat) ^ 32 ≤ 2 ^ 32 ∧ sget? (4 / 4) z.streams = some 1 ∧ 4 / 4 ∉ z.insecure) ∧
    sget? (1 - 1) (st []).parts = some part0 ∧ (st []).me.live = true ∧ (mk Core.reset).me.live = false ∧
    ({ Zenith.reset with cyc := 2 ^ 36 } : Zenith).flushed + 2 ^ 36 ≤ ({ Zenith.reset with cyc := 2 ^ 36 } : Zenith).cyc ∧
    (st []).zen.cyc < (st []).zen.flushed + 2 ^ 36 ∧ ({ Zenith.reset with life := [(64, 1)] } : Zenith).life = [(64, 1)] ∧
    (st []).zen.dead = false ∧ (17 : Nat) < 18 := by decide +kernel

/-! ### Single steps, with results from the spec's tables or worked by hand from them -/

/-- Register d of the executing core after an instruction. -/
def gAfter (i : Instr) (s : State) (d : Fin 16) : Option Word := after (exec i s) (fun t => t.me.g[d])

/-- Table 5.6: sums wrap; the example of Table 5.5 (6 × 7); a signed and an unsigned comparison differ. -/
theorem test_arithmetic : gAfter (.add {} 1 2 3) (st [0, 0, -1, 2]) 1 = some 1 ∧ gAfter (.sub {} 1 2 3) (st [0, 0, 0, 1]) 1 = some (-1) ∧
    gAfter (.mul {} 5 4 9) (st [0, 0, 0, 0, 6, 0, 0, 0, 0, 7]) 5 = some 42 ∧
    gAfter (.slt {} 1 2 3) (st [0, 0, -1, 0]) 1 = some 1 ∧ gAfter (.sltu {} 1 2 3) (st [0, 0, -1, 0]) 1 = some 0 := by decide +kernel

/-- A source that is also the destination, and a shift by 64, which takes y[5:0] (Tables 5.6 and 5.7). -/
theorem test_shifts : gAfter (.sll {} 2 2 3) (st [0, 0, 5, 64]) 2 = some 5 ∧ gAfter (.sra {} 2 3) (st [0, 0, 2 ^ 63, 4]) 2 = some 0xf800000000000000 ∧
    gAfter (.ror {} 2 3) (st [0, 0, 1, 1]) 2 = some (2 ^ 63) ∧ gAfter (.mulh {} 2 3) (st [0, 0, -1, 1]) 2 = some (-1) ∧
    gAfter (.mulhu {} 2 3) (st [0, 0, -1, 2]) 2 = some 1 := by decide +kernel

/-- DivRem of R100 at its corners. -/
theorem test_division : gAfter (.div {} 2 3) (st [0, 0, 9, 0]) 2 = some (-1) ∧ gAfter (.rem {} 2 3) (st [0, 0, 9, 0]) 2 = some 9 ∧
    gAfter (.div {} 2 3) (st [0, 0, 2 ^ 63, -1]) 2 = some (2 ^ 63) ∧ gAfter (.rem {} 2 3) (st [0, 0, 2 ^ 63, -1]) 2 = some 0 ∧
    gAfter (.divu {} 2 3) (st [0, 0, -1, 2]) 2 = some 0x7fffffffffffffff := by decide +kernel

/-- Table 5.8. -/
theorem test_unary : gAfter (.clz {} 1 2) (st [0, 0, 0]) 1 = some 64 ∧ gAfter (.popc {} 1 2) (st [0, 0, -1]) 1 = some 64 ∧
    gAfter (.bswap {} 1 2) (st [0, 0, 0x0102]) 1 = some 0x0201000000000000 ∧ gAfter (.sextb {} 1 2) (st [0, 0, 0x180]) 1 = some (-128) ∧
    gAfter (.zexth {} 1 2) (st [0, 0, -1]) 1 = some 0xffff := by decide +kernel

/-- Table 5.9: SEQI against the sign-extended immediate. -/
theorem test_immediates : gAfter (.seqi {} 1 (-1)) (st [0, -1]) 1 = some 1 ∧ gAfter (.slti {} 1 (-1)) (st [0, -2]) 1 = some 1 ∧
    gAfter (.li {} 1 (-64)) (st []) 1 = some (-64) ∧ gAfter (.andi {} 1 (-2)) (st [0, 7]) 1 = some 6 := by decide +kernel

/-- Bank 5 at slot 0: bytes 0x80, 0xff, then zeros. -/
def banked (g : List Word) : State := { st g with bmem := [(5 * 4096, 0x80), (5 * 4096 + 1, 0xff)] }

/-- Table 5.10: extension, little-endian order, the misaligned access of R104. -/
theorem test_local : gAfter (.ldb {} 1 2 true 0) (banked [0, 0, 0]) 1 = some (-128) ∧ gAfter (.ldhu {} 1 2 true 0) (banked [0, 0, 0]) 1 = some 0xff80 ∧
    after (exec (.sth {} 1 2 true 0) (banked [0, 0x1234, 2])) (fun t => (memRead t.bmem (5 * 4096 + 2), memRead t.bmem (5 * 4096 + 3), memRead t.bmem (5 * 4096 + 1)))
      = some (0x34, 0x12, 0xff) ∧
    after (exec (.ldw {} 1 2 true 0) (banked [0, 0, 2])) (fun t => (t.me.keptRecs.map (fun r => (bitsOf r.2 7 0, dword r.2 3)), t.me.run))
      = some ([(5, 2)], .idle) := by decide +kernel

/-- R87: a local store to the workspace writes the register that lies there. -/
theorem test_workspace : after (exec (.st {} 1 2 true 0) (st [0, 77, 0x1f0028])) (fun t => t.me.g[5]) = some 77 := by decide +kernel

/-- R51 and R108: the delay slot comes first, the link is the address after it; LOOP entered with 0 leaves all ones. -/
theorem test_control : after (exec (.jl {} 40) (st [])) (fun t => (t.me.pc, t.me.slot, t.me.g[15])) = some (0x10002, some (0x10000, some 0x10050), 0x10004) ∧
    after (exec (.loop {} 3 (-6)) (st [])) (fun t => (t.me.g[3], t.me.slot)) = some (-1, some (0x10000, some 0xfff4)) ∧
    after (exec (.bz {} 2 4) (st [0, 0, 1])) (fun t => t.me.slot) = some (some (0x10000, none)) ∧
    after (exec (.nop {}) (mk { core0 [] cx0 with slot := some (0x0fffe, some 0x20000) })) (fun t => (t.me.pc, t.me.slot)) = some (0x20000, none) := by
  decide +kernel

/-- R92 and R93: HB reads LEFT above DEF; R92: a write of 0 to DEF traps CRVAL, a write of KMC CRPROT. -/
theorem test_control_registers : gAfter (.rdc {} 1 1) (st []) 1 = some 0x0000006400010000 ∧
    after (exec (.wrc {} 1 1) (st [])) (fun t => t.me.keptRecs.map (fun r => bitsOf r.2 7 0)) = some [4] ∧
    after (exec (.wrc {} 1 7) (st [])) (fun t => t.me.keptRecs.map (fun r => bitsOf r.2 7 0)) = some [3] := by decide +kernel

/-- R109, R132: a trap's record has its code, cause, address, sender and sequence number. -/
theorem test_trap_record : after (exec (.trap {} 5) (st [])) (fun t => t.me.keptRecs.map (fun r => (dword r.2 0, dword r.2 1, dword r.2 2)))
    = some [(0x0000000500000012, 0x0000000300000004, 0x10000)] := by decide +kernel

/-- R114: a capacity of 0 traps CRVAL; a ranked queue of 4 is accepted. -/
theorem test_qcfg : after (exec (.qcfg { pxp := true } 1 2) (st [])) (fun t => t.me.keptRecs.map (fun r => bitsOf r.2 7 0)) = some [4] ∧
    after (exec (.qcfg { pxp := true } 1 2) (st [0, 0, 0x41])) (fun t => t.me.cx.q[(1 : Fin 4)].cfg) = some 0x41 := by decide +kernel

/-- R223: on a channel never used CPOS gives 1 for position 0 only; CWAIT traps CSHORT (0x5a) beyond it. -/
theorem test_unused_channel : gAfter (.cpos { pxp := true } 1 2 3) (st []) 1 = some 1 ∧ gAfter (.cpos { pxp := true } 1 2 3) (st [0, 0, 1]) 1 = some 0 ∧
    after (exec (.cwait { pxp := true } 2 3) (st [0, 0, 1])) (fun t => t.me.keptRecs.map (fun r => bitsOf r.2 7 0)) = some [0x5a] := by decide +kernel

/-- Table 8.5 and R144 to R149: DET of a pinned bank, ATT of a slot in use, ATT of the lowest free bank. -/
theorem test_banks : after (exec (.det { pxp := true } 2) (st [0, 0, 0x3000])) (fun t => t.me.keptRecs.map (fun r => bitsOf r.2 7 0)) = some [0x44] ∧
    after (exec (.att { pxp := true } 2) (st [])) (fun t => t.me.keptRecs.map (fun r => bitsOf r.2 7 0)) = some [0x41] ∧
    after (exec (.att { pxp := true } 2) (st [0, 0, 0x8000])) (fun t => (slotBank (t.me.cx.slot 8), slotState (t.me.cx.slot 8), slotRights (t.me.cx.slot 8)))
      = some (0, 1, 7) := by decide +kernel

/-- R198: the masks as 128 bits. -/
theorem test_masks : after (exec (.knot { pxp := true } 1 2) (st [])) (fun t => t.me.cx.k[(1 : Fin 8)]) = some (BitVec.allOnes 128) ∧
    gAfter (.kfirst { pxp := true } 1 2) (st []) 1 = some 128 := by decide +kernel

/-- R31 and R26: a deque entry is dispatched with its record in g0 to g7 and zeros above. -/
theorem test_dispatch : after (exec .nextAction (mk { core0 [] { cx0 with deque := [{ ent (recd 0 [11, 12]) with arr := 1 }] } with run := .idle }))
    (fun t => (t.me.run, t.me.pc, t.me.g[1], t.me.g[8], t.me.left)) = some (.running, 0x20000, 11, 0, 65536) := by decide +kernel

/-- R83, R309: the host writes memory, and a line in error fails its MAC from then on. -/
theorem test_outside : after (State.turn (st []) (.outside true 1 [(0x5000, 9)])) (fun t => (memRead t.mem 0x5000, t.macOk 0x5000 1)) = some (9, true) ∧
    after (State.turn (st []) (.badLine 0x5000)) (fun t => t.macOk 0x5010 1) = some false := by decide +kernel

/-! ### Witnesses: queues' bounds, translation, failed lines -/

theorem witness_bounds : State.reset.Bounded ∧ (st []).Bounded ∧ after (step (st [])) (fun _ => true) = some true := by
  refine ⟨fun _ h => (nomatch h), ?_, by decide +kernel⟩
  intro x hx
  have h : (st []).cores.all (fun x => decide (x.2.sbuf.length ≤ 32 ∧ x.2.bq.length ≤ 8 ∧ x.2.dq.length ≤ 16) &&
      x.2.ctx.all (fun y => decide (y.2.deque.length ≤ 32))) = true := by decide +kernel
  have := List.all_eq_true.mp h x hx
  simp only [Bool.and_eq_true, decide_eq_true_eq, List.all_eq_true] at this
  exact ⟨this.1.1, this.1.2.1, this.1.2.2, this.2⟩

/-- More page tables: at 4 GiB a leaf of 2 MiB, at 4 GiB + 2 MiB a page and a non-leaf in the lowest level, at 5 GiB no entry; in
the top level a leaf, and a non-leaf with an attribute. -/
def deep : State :=
  { st [] with mem := memCells (cellsAt 0x100008 (leBytes 8 3) ++ cellsAt 0x100010 (leBytes 8 0x101081) ++
      cellsAt 0x101020 (leBytes 8 0x102001) ++ cellsAt 0x102000 (leBytes 8 0x200703) ++ cellsAt 0x102008 (leBytes 8 0x103001) ++
      cellsAt 0x103000 (leBytes 8 0x5703) ++ cellsAt 0x103008 (leBytes 8 0x104001)) mem0 }

theorem walks_down {va lvl tbl : Nat} {r : Except Nat Leaf}
    (h : (deep.macOk (entryPlace (lvl + 1) tbl va) 1 && natBits (deep.entryAt (lvl + 1) tbl va) 0 0 == 1 &&
      natBits (deep.entryAt (lvl + 1) tbl va) 11 2 == 0 && natBits (deep.entryAt (lvl + 1) tbl va) 1 1 == 0 &&
      natBits (deep.entryAt (lvl + 1) tbl va) 63 50 == 0) = true)
    (hw : deep.Walks 1 va lvl (tierOf tbl * 2 ^ 50 + natBits (deep.entryAt (lvl + 1) tbl va) 49 12 * 4096) r) :
    deep.Walks 1 va (lvl + 1) tbl r := by
  simp only [Bool.and_eq_true, beq_iff_eq] at h
  exact .next lvl tbl h.1.1.1.1 h.1.1.1.2 h.1.1.2 h.1.2 h.2 r hw

theorem at_table {va lvl tbl tbl' : Nat} {r : Except Nat Leaf} (h : tbl' = tbl) (hw : deep.Walks 1 va lvl tbl r) :
    deep.Walks 1 va lvl tbl' r := h ▸ hw

theorem leaf_at {va lvl tbl key : Nat} (h : (decide (lvl < 3) && deep.macOk (entryPlace lvl tbl va) 1 &&
      natBits (deep.entryAt lvl tbl va) 0 0 == 1 && natBits (deep.entryAt lvl tbl va) 6 2 == 0 && natBits (deep.entryAt lvl tbl va) 1 1 == 1 &&
      natBits (deep.entryAt lvl tbl va) 51 50 * 2 ^ 50 +
        natBits (deep.entryAt lvl tbl va) 49 12 / 2 ^ (9 * lvl) * 2 ^ (12 + 9 * lvl) + va % 2 ^ (12 + 9 * lvl) == key) = true) :
    ∃ l, l.key = key ∧ deep.Walks 1 va lvl tbl (.ok l) := by
  simp only [Bool.and_eq_true, beq_iff_eq, decide_eq_true_eq] at h
  exact ⟨_, h.2, .leaf lvl tbl h.1.1.1.1.1 h.1.1.1.1.2 h.1.1.1.2 h.1.1.2 h.1.2 _ rfl⟩

/-- A leaf at level 2, 1 and 0, at the last byte of each; each fault of a walk. -/
theorem witness_walks :
    (∃ l, l.key = 0x3fffffff ∧ deep.Walks 1 0x3fffffff 3 0x100000 (.ok l)) ∧
    (∃ l, l.key = 0x3fffff ∧ deep.Walks 1 0x1001fffff 3 0x100000 (.ok l)) ∧
    (∃ l, l.key = 0x5fff ∧ deep.Walks 1 0x100200fff 3 0x100000 (.ok l)) ∧
    deep.Walks 1 0x140000000 3 0x100000 (.error 6) ∧ deep.Walks 1 (2 ^ 39) 3 0x100000 (.error 6) ∧
    deep.Walks 1 (2 ^ 40) 3 0x100000 (.error 6) ∧ deep.Walks 1 0x100201000 3 0x100000 (.error 6) ∧
    State.Walks { deep with seals := [(0x100000 / 64, .never)] } 1 0 3 0x100000 (.error 0x71) := by
  refine ⟨?_, ?_, ?_, ?_, ?_, ?_, ?_, ?_⟩
  · obtain ⟨l, k, h⟩ := leaf_at (va := 0x3fffffff) (lvl := 2) (tbl := 0x101000) (key := 0x3fffffff) (by decide +kernel)
    exact ⟨l, k, walks_down (by decide +kernel) (at_table (by decide +kernel) h)⟩
  · obtain ⟨l, k, h⟩ := leaf_at (va := 0x1001fffff) (lvl := 1) (tbl := 0x102000) (key := 0x3fffff) (by decide +kernel)
    exact ⟨l, k, walks_down (by decide +kernel) (at_table (tbl := 0x101000) (by decide +kernel) (walks_down (by decide +kernel) (at_table (by decide +kernel) h)))⟩
  · obtain ⟨l, k, h⟩ := leaf_at (va := 0x100200fff) (lvl := 0) (tbl := 0x103000) (key := 0x5fff) (by decide +kernel)
    exact ⟨l, k, walks_down (by decide +kernel) (at_table (tbl := 0x101000) (by decide +kernel) (walks_down (by decide +kernel)
      (at_table (tbl := 0x102000) (by decide +kernel) (walks_down (by decide +kernel) (at_table (by decide +kernel) h)))))⟩
  · exact walks_down (by decide +kernel) (at_table (tbl := 0x101000) (by decide +kernel) (.invalid 2 0x101000 (by decide +kernel) (by decide +kernel)))
  · exact .topLeaf 0x100000 (by decide +kernel) (by decide +kernel)
  · exact .attributes 3 0x100000 (by decide +kernel) (by decide +kernel) (by decide +kernel)
  · exact walks_down (by decide +kernel) (at_table (tbl := 0x101000) (by decide +kernel) (walks_down (by decide +kernel)
      (at_table (tbl := 0x102000) (by decide +kernel) (walks_down (by decide +kernel)
      (at_table (tbl := 0x103000) (by decide +kernel) (.bottom 0x103000 (by decide +kernel) (by decide +kernel)))))))
  · exact .unsealed 3 0x100000 (by decide +kernel)

/-- A tenant key in a state, no key of an identifier, the partition key; a right that is missing. -/
theorem witness_leaf_keys (k : KeyState) (h : k ≠ .empty) :
    State.namesKey { st [] with keys := [(1, pkey), (2, tkey k)] } 0 5 2 (tkey k) ∧ (st []).noKey 0 5 ∧ (st []).namesKey 0 0 1 pkey ∧
    State.noKey { st [] with keys := [] } 0 0 ∧
    (⟨0, 0, false, true, false, true⟩ : Leaf).lacks .write ∧ (⟨0, 0, false, true, false, true⟩ : Leaf).lacks .rmw ∧
    ¬ (⟨0, 0, false, true, false, true⟩ : Leaf).lacks .read ∧ (⟨0, 0, false, false, true, true⟩ : Leaf).lacks .exec := by
  refine ⟨.inr ⟨by decide, rfl, rfl, h, [(1, pkey)], [], rfl, ?_⟩, ⟨by decide, ?_⟩, .inl ⟨rfl, rfl, by decide +kernel⟩, ⟨fun _ => rfl, by decide⟩,
    rfl, .inr rfl, Bool.noConfusion, rfl⟩
  · intro x hx
    obtain rfl : x = (1, pkey) := by simpa using hx
    exact fun g => absurd g.1 (by decide)
  · intro _ x hx
    obtain rfl : x = (1, pkey) := by simpa [st, mk] using hx
    exact fun g => absurd g.1 (by decide)

/-- An access that does not translate, a store to a versioned page, a line that does not verify; a dq with one place; a store
past slot 495 outside the strand's own workspace. -/
theorem witness_global_refused :
    (match (st []).translate 0 0x8000000000 .read with | .error c => c | .ok _ => 0) = 6 ∧
    (match (st []).translate 0 0x40000000 .write with | .error _ => false | .ok (l, _) => l.vw) = true ∧
    (match (st []).translate 0 0x9000 .write with
      | .error _ => false
      | .ok (l, u) => !l.vw && keyExists l.key && u == 1 && !State.macOk { st [] with seals := [(0x9000 / 64, .never)] } l.key u) = true ∧
    (List.replicate 15 ((0 : Nat), (none : Option Word))).length < 16 ∧
    496 * 4096 ≤ (0x1f0000 + 128 : Word).toNat ∧ cx0.wp.toNat + 128 ≤ (0x1f0000 + 128 : Word).toNat := by decide +kernel

/-- The line of an access does not verify any more: its handler runs; it has ended. -/
theorem witness_access_fails :
    let s : State := { st [] with seals := [(0x8000 / 64, .never)] };
    s.accessFails (acc 1 [0x8000] (.store [(0x8000, 1)])) = true ∧ s.accessFails (acc 1 [0x8000] (.vload 0 0 [] 0xff [] [])) = true ∧
    (s.core 0).h.hid = (acc 1 [0x8000] (.store [(0x8000, 1)])).hid ∧ (s.core 0).h.hid ≠ (acc 2 [0x8000] (.store [(0x8000, 1)])).hid ∧
    s.accessFails (acc 1 [0x9000] (.store [(0x9000, 1)])) = false ∧ (∀ a ∈ (acc 1 [0x9000] (.store [])).keys, s.macOk a 1 = true) := by
  decide +kernel

/-- A copy that is not aligned; an MMAM that read its accumulator too early; a plan of Iris that runs. -/
theorem witness_waits : (st []).me.copyWait = none ∧ ((st [0x41]).me.getG 0).toNat % 64 ≠ 0 ∧
    (⟨0, 0, 0x2000, 0, i8, i8, i8, i8, 0, 0, some 7⟩ : MmamRun).base.getD 3 = 7 ∧
    (mk { core0 [] cx0 with bal := some ⟨0, true, 1, 2, [[0, 0]], 4095, 0, .row⟩ }).me.bal ≠ none := by decide +kernel

/-! ### Witnesses: homes, banks, dispatch -/

/-- Two strands parked on the cell of a partition with a fault ring, in both orders; the same with a ring that has room and none. -/
def parkedTwo (a b next : Nat) : State :=
  { (ringState (core0 [] cx0)).setPart 0 { (ringState (core0 [] cx0)).part 0 with
      poolN := 2
      conts := [(0, ⟨recd 0 [], a, .dflt, 0, next, false, 0x40000010⟩), (1, ⟨recd 1 [], b, .dflt, 0, (if next = 2 then 0 else 1), false, 0x40000010⟩)] } with
    mem := memWrite 0x4000001c (BitVec.ofNat 8 (if next = 2 then 1 else 2)) mem0 }

theorem witness_two_parked :
    (parkedTwo 2 5 2).memWf ∧ ((parkedTwo 2 5 2).part 0).kept = [] ∧ memNat (parkedTwo 2 5 2).mem (0x40000010 + 12) 4 = 0 + 1 ∧
    ((parkedTwo 2 5 2).part 0).conts = [(0, ⟨recd 0 [], 2, .dflt, 0, 1 + 1, false, 0x40000010⟩), (1, ⟨recd 1 [], 5, .dflt, 0, 0, false, 0x40000010⟩)] ∧
    (parkedTwo 2 5 2).wakeSite 0 (recd 0 []) = some 0 ∧ (parkedTwo 2 5 2).wakeSite 0 (recd 1 []) = some 0 ∧
    memNat (parkedTwo 5 2 0).mem (0x40000010 + 12) 4 = 1 + 1 ∧
    ((parkedTwo 5 2 0).part 0).conts = [(0, ⟨recd 0 [], 5, .dflt, 0, 0, false, 0x40000010⟩), (1, ⟨recd 1 [], 2, .dflt, 0, 0 + 1, false, 0x40000010⟩)] ∧
    bitsOf ((((parkedTwo 2 5 2).core 0).cxOf 0).q[(3 : Fin 4)]).cfg 1 0 = 0 ∧ (2 : Nat) < 5 := by
  unfold State.memWf; decide +kernel

/-- A wake without a live core where the fault ring has room, and where it is full. -/
theorem witness_nolive_ring :
    (let s := failedCores { (ringState (core0 [] cx0)).setPart 0 { (ringState (core0 [] cx0)).part 0 with
        poolN := 1
        conts := [(0, ⟨recd 0 [], 2, .dflt, 0, 0, false, 0x40000010⟩)] } with mem := memWrite 0x4000001c 1 mem0 };
      let u := s.cellWrite 0 0x40000010 0x40000010 9 2;
      s.wakeSite 0 (recd 0 []) = none ∧ (s.part 0).kept = [] ∧ u.faultRoom 0 = some (0x3000, 0x2000, 0) ∧ memNat u.mem (0x3000 + 12) 4 = 0 ∧
      (0x2000 + 64 ≤ 0x3000 ∨ 0x3000 + 16 ≤ 0x2000)) ∧
    (let s := failedCores { (ringState (core0 [] cx0)).setPart 0 { (ringState (core0 [] cx0)).part 0 with
        poolN := 1
        conts := [(0, ⟨recd 0 [], 2, .dflt, 0, 0, false, 0x40000010⟩)] } with mem := memWrite 0x3008 16 (memWrite 0x4000001c 1 mem0) };
      (s.cellWrite 0 0x40000010 0x40000010 9 2).faultRoom 0 = none) := by decide +kernel

/-- A park behind a held write that reaches its version, and a peek of a held write, followed by another of its cell or not. -/
theorem witness_held_park :
    let w := heldVw 0x40000010 0x40000010 9 (some 7);
    let r : VwReq := { req (.park 3 (recd 0 [])) with held := [w] };
    let s := (mk { core0 [] cx0 with run := .waiting (.vw {}), sbuf := [.vw w] }).setPart 0 { part0 with poolN := 1 };
    r.op = .park 3 (recd 0 []) ∧ r.held = [w] ∧ (s.core r.core).sbuf = [.vw w] ∧ Core.mayEnd { s.core r.core with sbuf := [] } ∧ w.cell = r.cell ∧
    w.va = r.va ∧ w.version = some 7 ∧ s.lineDead r.cell = false ∧ s.keyMissing [s.uidAt r.part r.va.toNat] = none ∧ s.memWf ∧
    (s.core r.core).h.hid = r.hid ∧ r.hid ≠ 0 ∧ (s.core r.core).live = true ∧ (s.core r.core).part = r.part ∧ (s.part r.part).kept = [] ∧
    (s.part r.part).conts = [] ∧ s.wakeSite r.part (recd 0 []) = some 0 ∧
    bitsOf (((s.core 0).cxOf r.enc).q[(3 : Fin 4)]).cfg 1 0 = 0 ∧ w.more = (0, 0) ∧ w.past = false ∧ ({ w with past := true } : HeldVw).past = true := by
  unfold State.memWf Core.mayEnd; decide +kernel

/-- A cell whose line fails, with its handler running and without. -/
theorem witness_dead_cell :
    let s := { st [] with seals := [(0x40000010 / 64, .never)] };
    s.lineDead (req .reset).cell = true ∧ (s.core 0).runs (req .reset).hid = true ∧ (s.core 0).runs ({ req .reset with hid := 2 } : VwReq).hid = false ∧
    (req .reset).op = .reset := by decide +kernel

/-- An idle core whose retry is due, with nothing to take. -/
theorem witness_idle_retry : (idle (Vector.replicate 4 Queue.reset) [] id).me.run = .idle ∧
    (idle (Vector.replicate 4 Queue.reset) [] id).me.idleSince + 1024 ≤ (idle (Vector.replicate 4 Queue.reset) [] id).me.cyc ∧
    (idle (Vector.replicate 4 Queue.reset) [] id).chooses ∧
    (∀ x ∈ (idle (Vector.replicate 4 Queue.reset) [] id).cx.dspill ++ (idle (Vector.replicate 4 Queue.reset) [] id).cx.deque, bitOf x.record 44 = true) ∧
    ∀ q, ¬ (idle (Vector.replicate 4 Queue.reset) [] id).headReady q := by
  refine ⟨by decide +kernel, by decide +kernel, by unfold State.chooses; decide +kernel, by decide +kernel, ?_⟩
  rintro q ⟨e, es, h, -⟩
  have : ∀ q : Fin 4, (idle (Vector.replicate 4 Queue.reset) [] id).cx.q[q].res = [] := by decide +kernel
  rw [this q] at h; cases h

/-- A revocation that reaches its bank, with a core that waits for it and without; a bank of another partition; a frozen one. -/
theorem witness_revocations :
    (let s := { mk { core0 [] cx0 with run := .waiting (.revoke {} 5) } with
        banks := [(5, { st := .attached 0 0 0, owner := 0 }), (6, { st := .attached 0 0 0, owner := 1 }), (7, { st := .frozen, owner := 0 })] };
      s.bankOwner 5 = 0 ∧ (s.bank 5).st ≠ .frozen ∧ (s.bank 5).st ≠ .scrubbing ∧ (s.core 0).run = .waiting (.revoke {} 5) ∧ (s.core 0).part = 0 ∧
      s.bankOwner 6 ≠ 0 ∧ s.bankOwner 7 = 0 ∧ (s.bank 7).st = .frozen ∧ s.cores.filter (fun x => x.2.revokes 0 7) = []) ∧
    (let s := mk { core0 [] cx0 with run := .waiting (.revoke {} 7) };
      (s.cores.filter (fun x => x.2.revokes 0 7)).map (·.1) = [0]) := by decide +kernel

/-! ### Witnesses: tasks, the monitor, Zenith -/

theorem witness_quiet_ring : (ringState (core0 [] cx0)).quietRing 0 ∧ (chained 0).quietRing 0 ∧ (withTask (task0 .waiting)).quietRing 0 ∧
    (chained 0).tailFree 0 queue0 1 = false ∧
    (bitsOf ((withRec bankRec sh0 (task0 .waiting)).entryRec 0 0x10000) 726 720) * 4096 < [4096, 1].foldl (· + ·) 0 := by
  unfold State.quietRing; decide +kernel

theorem witness_table_pending :
    (State.enqueue (st [0, 0x20000]) 0 (.accessPerformed (acc 1 [] (.store [])))).pendingAccess 0 false = true ∧
    ∃ l, (st [0, 0x20000]).translate 0 0x20000 .read = .ok l := ⟨by decide +kernel, _, rfl⟩

theorem leads_down {s : State} {va up tbl next lvl t : Nat}
    (h : (s.macOk (entryPlace (up + 1) tbl va) 1 && s.entryAt (up + 1) tbl va % 4 == 1 &&
      tierOf tbl * 2 ^ 50 + natBits (s.entryAt (up + 1) tbl va) 49 12 * 4096 == next) = true)
    (hn : s.LeadsTo 1 va up next lvl t) : s.LeadsTo 1 va (up + 1) tbl lvl t := by
  simp only [Bool.and_eq_true, beq_iff_eq] at h
  exact .down up tbl lvl t h.1.1 h.1.2 (h.2 ▸ hn)

/-- PTMAP's tables: the one of a leaf at level 2, 1 and 0; an entry that is empty, a leaf or does not verify on the way; room for
the missing tables, and none. -/
theorem witness_table_paths :
    deep.LeadsTo 1 0x140000000 3 0x100000 2 0x101000 ∧ deep.LeadsTo 1 0x100400000 3 0x100000 1 0x102000 ∧
    deep.LeadsTo 1 0x100202000 3 0x100000 0 0x103000 ∧ deep.entryAt 2 0x101000 0x140000000 % 2 = 0 ∧
    deep.entryAt 3 0x100000 (2 ^ 39) % 4 = 3 ∧ deep.entryAt 2 0x101000 0 % 4 = 3 ∧ (deep.part 0).key = 1 ∧ (deep.part 0).tbl = 0x100000 ∧
    State.macOk { deep with seals := [(0x100000 / 64, .never)] } (entryPlace 3 0x100000 0) 1 = false ∧
    (deep.part 0).tblNext + 4096 * (2 - 0) ≤ (deep.part 0).tblLen ∧
    entryPlace 2 0x101000 0x140000000 + 8 ≤ 0x100000 + (deep.part 0).tblNext ∧
    (deep.setPart 0 { deep.part 0 with tblNext := 0xff000 } |>.part 0).tblLen < 0xff000 + 4096 * (2 - 0) ∧ deep.leafBad 0 0x3 2 = true ∧
    (deep.setPart 0 { deep.part 0 with exts := [(0, 2 ^ 31)] }).leafBad 0 0x40000703 2 = false ∧
    (deep.setPart 0 { deep.part 0 with exts := [(0, 2 ^ 31)] }).leafBad 0 0x40200703 1 = false ∧
    (deep.setPart 0 { deep.part 0 with exts := [(0, 2 ^ 31)] }).leafBad 0 0x40005703 0 = false := by
  refine ⟨leads_down (next := 0x101000) (by decide +kernel) (.here _ _),
    leads_down (next := 0x101000) (by decide +kernel) (leads_down (next := 0x102000) (by decide +kernel) (.here _ _)),
    leads_down (next := 0x101000) (by decide +kernel) (leads_down (next := 0x102000) (by decide +kernel)
      (leads_down (next := 0x103000) (by decide +kernel) (.here _ _))), ?_⟩
  decide +kernel

/-- An image page whose partition key is at hand, with its tables there, and one whose table line does not verify. -/
theorem witness_image_keys :
    let s := { (st []).setPart 0 { part0 with exts := [(0, 2 ^ 31)] } with
      mem := memCells (cellsAt 0x100008 (leBytes 8 0x102001) ++ cellsAt 0x102000 (leBytes 8 0x103001) ++ cellsAt 0x103000 (leBytes 8 0x104001)) mem0 };
    s.keyLoads 1 = true ∧ State.macOk { s with seals := [(0x100000 / 64, .never)] } (entryPlace (2 + 1) 0x100000 0x8000000000) 1 = false ∧
    (match (s.useKey 1).mapLeaf 0 0x8000000000 0 (imageLeaf 0 0x400000) with
      | .ok u => Memory.wf u.mem && Memory.wf u.bmem
      | .error _ => false) = true := by decide +kernel

/-- A host's write past the four queue pages, of a strand's size and alignment. -/
theorem witness_past_queues : (0x4000 : Nat) % 64 = 0 ∧ (List.replicate 64 (0 : Byte)).length = 64 ∧ (part0).iface = .run := by decide +kernel

/-! ### Steps -/

/-- R296: a strand's write past the arrival pages is ignored. -/
theorem test_past_queues : after (exec .hostSubmit (input (.write ⟨0, 0x4000, List.replicate 64 0⟩) id))
    (fun t => ((t.part 0).hdrop, t.zen.inbox.length)) = some (0, 0) := by decide +kernel

/-- R269: DONE waits at issue for a plan that runs. R65, R70: what FENCE orders stays ordered when the handler ends. -/
theorem test_done_and_plan : after (exec (.done {}) (mk { core0 [] cx0 with bal := some ⟨0, true, 1, 2, [[0, 0]], 4095, 0, .row⟩, dq := [(0, none)] }))
      (fun t => (t.me.run, t.me.cyc, t.me.bal.isSome)) = some (.running, 8, true) ∧
    after (exec (.done {}) (mk { core0 [] cx0 with fenceAcq := 10 })) (fun t => (t.me.run, t.me.fenceAcq)) = some (.idle, 10) := by decide +kernel

/-- R82: the strand's held writes of the cell reach the home before its park: VWST of version 5, VWST of version 2, VWLD for 3. -/
theorem test_park_after_held :
    let held : List HeldVw := [heldVw 0x40000010 0x40000010 9 (some 5), heldVw 0x40000010 0x40000010 9 (some 2)]
    after (exec (.vwHomePark { req (.park 3 (recd 0 [])) with held := held })
      ((mk { core0 [] cx0 with run := .waiting (.vw {}), sbuf := held.map .vw }).setPart 0 { part0 with poolN := 1 }))
      (fun t => (memNat t.mem (0x40000010 + 8) 4, (t.part 0).conts.length)) = some (2, 1) := by decide +kernel

/-! ### Witnesses: keys and lines that a handler's end and a request meet -/

/-- A held store whose key is resident, and one whose key was evicted and must be loaded. -/
theorem witness_held_store :
    (let s := mk { core0 [] cx0 with sbuf := [.store true [(1, [(0x8000, 1)])]] };
      s.me.sbuf = [.store true [(1, [(0x8000, 1)])]] ∧ s.keyMissing [1] = none ∧ s.me.engine.length ≤ 64 ∧
      (∀ x ∈ [((0x8000 : Nat), (1 : Byte))], s.lineDead x.1 = false) ∧ s.heldBehindAccess 0 = false ∧ s.heldBlocked 0 = false) ∧
    (let s := { mk { core0 [] cx0 with sbuf := [.store true [(2, [(0x8000, 1)])]] } with
        keys := [(1, pkey), (2, { tkey .active with resident := false })], nextUid := 3 };
      s.me.sbuf = [.store true [(2, [(0x8000, 1)])]] ∧ s.keyMissing [2] = some 2 ∧ s.me.engine.length ≤ 64 ∧ s.heldBehindAccess 0 = false ∧
      s.heldBlocked 0 = false) := by decide +kernel

/-- Message number n of core 0 for q0 of core 1. -/
def msgNo (n : Nat) : Msg := { msg0 (recd 0 []) with seq := n }

/-- Y was bounced, R is under way, X was kept after it: R is kept before X. -/
theorem witness_held_back :
    let y : KeptMsg := ⟨msgNo 4, some 9, false⟩; let x : KeptMsg := ⟨msgNo 6, none, false⟩; let m := msgNo 5;
    let s := (st []).setCore 0 { (st []).core 0 with engine := [y, x] };
    (s.core m.site).live = true ∧ (s.core m.site).part = m.part ∧ m.chan < 1024 ∧ m.mcast = none ∧ (s.core m.chan).engine = [y] ++ [x] ∧
    (∃ z ∈ [y], holdsBack z.msg m) ∧ (∀ z ∈ [y] ++ [x], z.msg ≠ m) ∧ ([y] ++ [x]).length < 64 ∧ (∀ z ∈ [y], ¬ holdsBack m z.msg) ∧
    (∀ z ∈ [x].head?, holdsBack m z.msg) ∧ x.sent = false := by
  unfold holdsBack; decide +kernel

/-- A request whose cell's line holds what it should. -/
theorem witness_live_cell : (st []).lineDead (req .reset).cell = false ∧ ((st []).core (req .reset).core).live = true := by decide +kernel

/-- The entry of a task whose status word fails; one under invalidation; one whose key is at hand. -/
theorem witness_task_tail :
    (taskState 4).keyMissing ((taskState 4).uidsOf 0 0x10000 256) = none ∧ (taskState 4).lineFails 0 (0x10000 + 128) = false ∧
    ({ taskState 4 with seals := [(0x10080 / 64, .never)] } : State).lineFails 0 (0x10000 + 128) = true ∧
    ({ taskState 4 with zen := { (taskState 4).zen with ats := [0x10] } } : State).vaFree 0 0x10000 256 = false ∧
    (State.enqueue (taskState 4) 0 (.accessPerformed (acc 1 [] (.store [])))).pendingAccess 0 false = true ∧ 1 ≤ queue0.cap := by decide +kernel

/-! ### Witnesses: copies of two partitions, atomics on a host page -/

/-- Copies of core 0, in flight and in service, one of its partition and one of the partition that it left. -/
theorem witness_cancel :
    let c := ccmd (cdesc 0 0x4000 64 12 0 0);
    let s := { serving [copyOf (cdesc 0 0x4000 64 12 0 0), { copyOf (cdesc 0 0x4000 64 12 0 0) with cmd := { c with part := 1 }, arrival := 1 }] with
      flight := [(3, Instr.copyCommand c), (3, Instr.copyCommand { c with part := 1 })] };
    (3, Instr.copyCommand c) ∈ s.flight ∧ c.part = s.me.part ∧ c.core = s.cur ∧ c.enc = s.me.enc ∧ c.ch = bitsOf (0x1000000000000 : Word) 1 0 ∧
    c.gen = bitsOf (0x1000000000000 : Word) 63 48 ∧ c.stop = 0 ∧ bitsOf (0x1000000000000 : Word) 47 2 = 0 ∧
    (3, Instr.copyCommand { c with part := 1 }) ∈ s.flight ∧ ({ c with part := 1 } : CopyCmd).part ≠ s.me.part ∧
    (0, sget Nimbus.reset 0 s.nimbus) ∈ s.nimbus ∧ copyOf (cdesc 0 0x4000 64 12 0 0) ∈ (sget Nimbus.reset 0 s.nimbus).copies ∧
    (copyOf (cdesc 0 0x4000 64 12 0 0)).staging = none ∧
    { copyOf (cdesc 0 0x4000 64 12 0 0) with cmd := { c with part := 1 }, arrival := 1 } ∈ (sget Nimbus.reset 0 s.nimbus).copies := by
  decide +kernel

/-- Sources that fail with a walk's MAC and under a revoked key: the causes that a copy's status tells as PAGE and PROT. -/
theorem witness_copy_causes :
    let c := copyOf (cdesc 0x8000 0x4000 64 8 0 0);
    let s := { serving [c] with seals := [(0x101000 / 64, .never)] };
    let u := { serving [c] with keys := [(1, pkey), (2, tkey .revoked)], mem := memWrite 0x101006 0x50 mem0 };
    cdSl c.cmd.desc = false ∧ s.translate 0 ((cdSrc c.cmd.desc).toNat + 64 * c.next) .read = .error 0x71 ∧ s.lineFree 0 c = true ∧
    u.translate 0 ((cdSrc c.cmd.desc).toNat + 64 * c.next) .read = .error 0x0c ∧ u.lineFree 0 c = true := by
  refine ⟨by decide +kernel, fault_of (by decide +kernel), by decide +kernel, fault_of (by decide +kernel), by decide +kernel⟩

/-- A doubleword of a host page, which the host's key reads and writes; the host answers one way or the other. -/
theorem witness_host_atomics :
    globalOk (st [0x80000000]) 0x80000000 .rmw true (2 * 2 ^ 50) 1 = true ∧ tierOf (2 * 2 ^ 50) = 2 ∧ (0x80000000 : Word).toNat % 8 = 0 ∧
    (st [0x80000000]).atsBlocked (keysFrom (2 * 2 ^ 50) 8) = false ∧ (st [0x80000000]).keyMissing [1] = none ∧
    (Config.hostRefusesAtomic 0 = true ∨ Config.hostRefusesAtomic 0 = false) :=
  ⟨by decide +kernel, by decide +kernel, by decide +kernel, by decide +kernel, by decide +kernel, by cases Config.hostRefusesAtomic 0 <;> simp⟩

/-! ### Witnesses: tiles and plans -/

/-- A tile whose blocks run along columns (format 3 of fp4 elements). -/
def colFmts : Vector Word 16 := fmts.set 3 0x8814044a

/-- TQNT along columns: a tile of the format with ALONG set, at the bounds of PART and COLS. -/
theorem witness_quantise_columns :
    let s := mk (core0 [] { cx0 with fmt := colFmts, tc := (Vector.replicate 8 0).set 0 (tcw 64 64 1 0 3 0) });
    let f := entryFmt 0x8814044a;
    s.goodTile s.cx.tc[(0 : Fin 8)] f ∧ dense s.cx.tc[(0 : Fin 8)] ∧ f.scale ≠ 0 ∧ f.along ≠ 0 ∧ f.cw ≠ 16 ∧ bitsOf s.cx.vtype 26 24 = 0 ∧
    colsOf s.cx.tc[(0 : Fin 8)] ≤ 64 ∧ bitsOf s.cx.tc[(0 : Fin 8)] 9 7 < 4 ∧ columnish s.cx.tc[(0 : Fin 8)] := by
  unfold State.goodTile dense columnish; decide +kernel

/-- MMAM's descriptors with good control registers: a format that no code names, for A and for B; a shape out of bounds; tags that
do not fit; a plan-class A. -/
theorem witness_mmam_tags :
    let s := mmamState 0 0;
    let a := tcw 64 64 0 0 0 0; let b := tcw 64 64 1 0 0 0;
    [mdesc 0 1 0 1 a b, mdesc 0 1 0 1 (tcw 1 1 0 0 3 0) b, mdesc 0 1 0 1 a (tcw 1 1 1 0 3 0), mdesc 0 1 0 1 a (tcw 64 65 1 0 0 0),
      mdesc 0 1 0 1 a a].all (fun r => decide (mdescBad r = false ∧ tcfgBad (dword r 3) = false ∧ tcfgBad (dword r 4) = false ∧
        bitsOf r 198 196 = 0)) = true ∧
    namedFmt s.cx.fmt (bitsOf (tcw 1 1 0 0 3 0) 17 16) (bitsOf (tcw 1 1 0 0 3 0) 3 0) = none ∧
    s.goodTile a i8 ∧ s.goodTile b i8 ∧ ¬ s.goodTile (tcw 64 65 1 0 0 0) i8 ∧
    namedFmt s.cx.fmt (bitsOf (tcw 64 65 1 0 0 0) 17 16) (bitsOf (tcw 64 65 1 0 0 0) 3 0) = some i8 ∧
    ¬ productTags 0 a a i8 i8 ∧ productTags 0 a b i8 i8 ∧
    mdescBad (mdesc 0 1 0 1 0x10401 b) = false ∧ bitsOf (dword (mdesc 0 1 0 1 0x10401 b) 3) 11 10 ≠ 0 ∧
    tcfgBad (dword (mdesc 0 1 0 1 0x10401 b) 3) = true := by
  unfold State.goodTile productTags; decide +kernel

/-- A plan of one row and two columns, a control word of t2 and a value of VTYPE. -/
def halves (tag v : Word) : State :=
  mk (core0 [] { cx0 with fmt := fmts, vtype := v, tc := (((Vector.replicate 8 0).set 0 (BitVec.ofNat 64 (31 * 2 ^ 24 + 0x10401))).set 1
    (BitVec.ofNat 64 (2 ^ 24 + 0x10401))).set 2 tag })

/-- PMAT to bf16 at PART 0, 1 and 2, along rows and along columns. -/
theorem witness_plan_halves :
    (halves (tcw 1 2 0 0 0 1) 0x1000000).goodTile (tcw 1 2 0 0 0 1) bf16 ∧ dense (tcw 1 2 0 0 0 1) ∧ bf16.scale = 0 ∧ bf16.cw = 16 ∧
    bitsOf (tcw 1 2 0 0 0 1) 9 7 < 4 ∧ (halves (tcw 1 2 0 0 0 1) 0x1000000).cx.tc[(2 : Fin 8)] = tcw 1 2 0 0 0 1 ∧
    bitsOf (halves 0 0).cx.vtype 26 24 ≤ 1 ∧ bitsOf (halves 0 0x1000000).cx.vtype 26 24 ≤ 1 ∧ 1 < bitsOf (halves 0 0x2000000).cx.vtype 26 24 ∧
    (halves 0 0x1000000).cx.planDims 0 = some (1, 2) ∧ (halves 0 0x1000000).me.bal = none ∧
    (halves (tcw 2 1 1 0 0 1) 0).goodTile (tcw 2 1 1 0 0 1) bf16 ∧ columnish (tcw 2 1 1 0 0 1) ∧ dense (tcw 2 1 1 0 0 1) ∧
    ¬ columnish (tcw 1 2 0 0 0 1) := by
  unfold State.goodTile dense columnish
  refine ⟨?_, ?_, ?_, ?_, ?_, ?_, ?_, ?_, ?_, ?_, ?_, ?_, ?_, ?_, ?_⟩ <;> decide +kernel

/-! ### Witnesses: stealing -/

/-- A thief with one victim in reach, which gives its oldest entry; with one that has a single entry, which gives nothing. -/
def thief (es : List Entry) : State :=
  (idle (Vector.replicate 4 Queue.reset) [] id).setCore 1 { (st []).core 1 with ctx := [(0, { Ctx.reset with deque := es })] }

theorem witness_steal_order :
    let s := thief [ent (recd 0 []), ent (recd 1 [])];
    ((s.part s.me.part).members.drop (s.me.lnum + 1) ++ (s.part s.me.part).members.take s.me.lnum).filter s.mayProbe = [1] ∧ s.chooses ∧
    s.gives 1 (ent (recd 0 [])) ∧ (1 : Nat) ≠ s.cur ∧ s.handler s.me.part s.me.enc (bitsOf (ent (recd 0 [])).record 63 52) = some ⟨0x20000, none⟩ ∧
    (∀ x, ¬ (thief [ent (recd 0 [])]).gives 1 x) := by
  refine ⟨by decide +kernel, by unfold State.chooses; decide +kernel, ⟨by decide +kernel, [], [ent (recd 1 [])], by decide +kernel, by decide +kernel,
    by decide +kernel, fun _ h => absurd h (by simp), ent (recd 1 []), by simp, by decide +kernel⟩, by decide +kernel, by decide +kernel, ?_⟩
  rintro x ⟨-, before, after, h, -, -, -, y, hy, -⟩
  have hl : ((thief [ent (recd 0 [])]).core 1).cx.dspill ++ ((thief [ent (recd 0 [])]).core 1).cx.deque = [ent (recd 0 [])] := by decide +kernel
  rw [hl] at h
  have hn := congrArg List.length h
  simp only [List.length_append, List.length_cons, List.length_nil] at hn
  have : before = [] ∧ after = [] := ⟨List.eq_nil_of_length_eq_zero (by omega), List.eq_nil_of_length_eq_zero (by omega)⟩
  rw [this.1, this.2] at hy
  simp at hy

/-! ### Witnesses: the host's requests -/

/-- Sixty-three interfaces that are locked, and one that asks to be. -/
theorem witness_sixty_three_locked :
    let s := asking (tdisp 0x83) (fun s => { s with
      parts := (0, { part0 with iface := .unlocked }) :: (List.range 63).map (fun i => (i + 1, { Part.empty with iface := .locked })) });
    s.oldest (tdisp 0x83) [] ∧ (sget? 0 s.parts).map (·.iface) = some .unlocked ∧ (tdisp 0x83).msg = .tdisp 0x83 ∧ (tdisp 0x83).iface ≠ 0 ∧
    63 ≤ (s.parts.filter (fun x => x.2.iface == .locked || x.2.iface == .run)).length := by
  unfold State.oldest; decide +kernel

/-- PART_DESTROY of a partition with an attached bank, free banks of a member's field, a frozen bank and an active key. -/
theorem witness_destroy :
    let s := ask 0 0x12 5 [] (fun s => { s with
      banks := [(5, { st := .attached 0 0 0, owner := 0 }), (6, { st := .frozen, owner := 0 })], keys := [(1, pkey), (2, tkey .active)] });
    (sget? 0 s.parts).isSome = true ∧ (s.bank 5).owner = 0 ∧ (s.bank 5).st ≠ .free ∧ (s.bank 5).st ≠ .frozen ∧ (s.bank 5).st ≠ .scrubbing ∧
    (s.bank 6).st = .frozen ∧ 7 / 512 ∈ (s.part 0).members ∧ (7 : Nat) % 512 < 384 ∧ (s.bank 7).st = .free ∧
    sget? 2 s.keys = some (tkey .active) ∧ (tkey .active).part = 0 ∧ field (pay 0x12 5 []) 4 1 = 0 := by decide +kernel

/-- PART_REBUILD where both cores rest, one strand is parked, a task runs and a core that stays holds a bank. -/
theorem witness_rebuild :
    let s := ask 0 0x11 136 [] (fun s => { s.setCore 0 { s.core 0 with run := .idle, h := Handler.none } with
      tasks := [task0 .running], banks := [(5, { st := .attached 0 0 0, owner := 0 })] } |>.setPart 0 { part0 with
        poolN := 1, conts := [(0, ⟨recd 0 [], 2, .dflt, 0, 0, false, 0x40000010⟩)] });
    s.rebuildWaits 0 = false ∧ (s.part 0).members.Nodup ∧ field (pay 0x11 136 []) 5 3 = 0 ∧ s.memWf ∧ s.physOf 0 0x40000010 = some 0x40000010 ∧
    (s.part 0).conts = [(0, ⟨recd 0 [], 2, .dflt, 0, 0, false, 0x40000010⟩)] ∧ s.tasks = [task0 .running] ∧
    (s.bank 5).st = .attached 0 0 0 ∧ (0 : Nat) ∈ (s.part 0).members ∧ (s.core 0).live = true ∧
    field (pay 0x11 136 []) (8 + 0 / 8) 1 / 2 ^ (0 % 8) % 2 = 0 := by
  unfold State.memWf; decide +kernel

/-- KEY_PROG's refusals: an interface that does not run, a requester who asked for no measurements, an enclave under the
debugger; a store without an identifier and without room. -/
theorem witness_prog_refusals :
    (ask 1 1 168 [] (fun s => s.setPart 0 { part0 with iface := .locked })).ifaceRun 0 = false ∧
    (9 : Nat) ∉ (ask 1 1 168 [] (fun s => { s with zen := { s.zen with measured := [] } })).zen.measured ∧
    ((ask 1 1 168 [] (fun s => s.setPart 0 { part0 with dbg := [0] })).part 0).dbg ≠ [] ∧
    ¬ (ask 1 1 168 [] (fun s => { s with
      keys := (List.range 192).map (fun i => (i + 1, { tkey .provisioned with ident := i + 1 })) })).storeHasRoom := by
  unfold State.storeHasRoom; decide +kernel

/-- A key store with all 256 entries resident, and a key that waits to be loaded; one of them was used least recently. -/
def fullStore (busy : List (Nat × Instr)) (n : Nat) : State :=
  { mk { core0 [] cx0 with run := .waiting (.key 999) } with
    keys := (999, { tkey .active with resident := false }) :: (List.range 256).map (fun i =>
      (i + 1, { tkey (if i < n then .active else .provisioned) with ident := i + 6, used := i + 1 }))
    flight := busy, nextUid := 1000 }

theorem witness_full_store :
    (fullStore [] 64).me.run = .waiting (.key 999) ∧ sget? 999 (fullStore [] 64).keys = some { tkey .active with resident := false } ∧
    256 ≤ ((fullStore [] 64).keys.filter (fun x => x.2.resident)).length ∧
    (fullStore [] 64).leastUsed 1 { tkey .active with ident := 6, used := 1 } := by
  refine ⟨by decide +kernel, by decide +kernel, by decide +kernel, by decide +kernel, by decide +kernel, by decide +kernel, by decide +kernel, ?_⟩
  intro w kw h
  have : ∀ x ∈ (fullStore [] 64).keys, x.1 ≠ 1 → x.2.resident = true → 1 < x.2.used := by decide +kernel
  exact fun hw hr _ _ => this (w, kw) h hw hr

/-- The same with no entry that may be evicted. -/
theorem witness_no_victim : 256 ≤ ((fullStore [] 0).keys.filter (fun x => x.2.resident)).length ∧
    ∀ w kw, (w, kw) ∈ (fullStore [] 0).keys → kw.resident = true → kw.st = .active ∨ kw.st = .retiring → (fullStore [] 0).keyBusy w = true := by
  refine ⟨by decide +kernel, fun w kw h => ?_⟩
  have : ∀ x ∈ (fullStore [] 0).keys, x.2.resident = true → ¬ (x.2.st = .active ∨ x.2.st = .retiring) := by decide +kernel
  exact fun hr hs => absurd hs (this (w, kw) h hr)

/-- The debugger's payloads that read a control register: SBCNT, KMC, FMT0 and FMT15; the selectors that name none. -/
theorem witness_debug_reads :
    [3, 7, 16, 31].all (fun n => decide (field (pay 0x16 20 [0, 0, 3, 0, 1, 0, 1, BitVec.ofNat 8 n]) 11 1 = n ∧
      field (pay 0x16 20 [0, 0, 3, 0, 1, 0, 1, BitVec.ofNat 8 n]) 10 1 = 1)) = true ∧
    debugAsks (pay 0x16 20 [0, 0, 3, 0, 1, 0, 1, 3]) 0 0 3 1 ∧ field (pay 0x16 20 [0, 0, 3, 0, 1, 0, 1, 15]) 11 1 = 15 ∧
    31 < field (pay 0x16 20 [0, 0, 3, 0, 1, 0, 1, 32]) 11 1 ∧ 1 < field (pay 0x16 20 [0, 0, 3, 0, 1, 0, 2, 0]) 10 1 ∧
    field (pay 0x16 20 [0, 0, 4, 0, 1, 0, 1, 0]) 10 1 ≠ 0 ∧ 15 < field (pay 0x16 20 [0, 0, 4, 0, 1, 0, 0, 16]) 11 1 := by
  unfold debugAsks; decide +kernel

/-! ### Witnesses: a host record that is refused -/

/-- Reserved bits, HLD and a mask that is not set; a handler that is not installed; a ring with room, a full one and records kept. -/
theorem witness_refused_record :
    (st []).refusesRecord 0 0 (recd (2 ^ 34) []) 0x17 ∧ (st []).refusesRecord 0 0 (recd (2 ^ 44) []) 0x17 ∧
    (st []).refusesRecord 0 0 (recd (2 ^ 38) []) 0x17 ∧ (st []).refusesRecord 0 0 (recd (2 ^ 52 * 4) []) 0x16 ∧
    (let w : HostWrite := ⟨0, 0, leBytes 64 (recd (2 ^ 34) []).toNat⟩;
      let s := (input (.write w) id).setPart 0 { part0 with fbase := 0x2000, fcap := 16, fctl := 0x3000 };
      (BitVec.ofNat 512 (leNat w.bytes) : Record) = recd (2 ^ 34) [] ∧ (s.part 0).zrecs = [] ∧ (s.part 0).kept = [] ∧ (s.part 0).conts = [] ∧ s.tasks = [] ∧ s.memWf ∧
      s.faultRoom 0 = some (0x3000, 0x2000, 0) ∧ 0x2000 + 64 ≤ 0x3000 ∧ s.siteOf 0 (s.part 0).sup = some 0 ∧ (s.part 0).credits[(0 : Fin 4)] ≠ 0) ∧
    (st []).faultRoom 0 = none ∧ ({ part0 with zrecs := List.replicate 16 0 } : Part).zrecs.length = 16 := by
  refine ⟨.inl (by decide +kernel), .inl (by decide +kernel), .inl ⟨rfl, .inr (.inr (by decide +kernel))⟩, .inr (by decide +kernel), ?_⟩
  unfold State.memWf; decide +kernel

/-! ### Steps -/

/-- R97, R95: every stepping meets revision 1 of the latency table. -/
theorem test_latency_revision : 1 ≤ latRev := Nat.le_max_left ..

/-- R251, R119: TSHAPE with SEL 0 takes an entry of the send buffer in staged mode, and traps SNDFULL (0x1b) when none is left. -/
theorem test_tshape_staged :
    let s (n : Nat) := mk { core0 [0x9000, 0x40] { cx0 with smc := 0x200005 } with sbuf := List.replicate n (.spawn 0) };
    after (exec (.tshape {} 0 1) (s 31)) (fun t => (t.me.sbuf.length, t.me.pc)) = some (32, 0x10002) ∧
    after (exec (.tshape {} 0 1) (s 32)) (fun t => t.me.keptRecs.map (fun r => bitsOf r.2 7 0)) = some [0x1b] := by decide +kernel

/-- R309: a PARK that reaches its home after its core failed leaves the core failed. -/
theorem test_failed_core_parks : after (exec (.vwHomePark (req (.park 3 (recd 0 []))))
      ((mk { core0 [] cx0 with run := .failed }).setPart 0 { part0 with poolN := 1 }))
    (fun t => ((t.core 0).run, (t.core 0).sbuf.length)) = some (.failed, 0) := by decide +kernel

/-- R82: a VWST that leaves while another of its cell is held leaves the held one in the send buffer. -/
theorem test_held_write_stays : after (exec (.vwst {} 0 1 2)
      (mk { core0 [7, 0x40000010, 2] cx0 with sbuf := [.vw (heldVw 0x40000010 0x40000010 9 (some 5))] }))
    (fun t => (t.me.sbuf.length, t.flight.length)) = some (1, 1) := by decide +kernel

/-- R117: of three messages of one way, the first bounced, the second under way and the third kept, the second is kept before the third. -/
theorem test_bounce_order : after (exec (.fifoArrival (msgNo 5))
      ((st []).setCore 0 { (st []).core 0 with engine := [⟨msgNo 4, some 9, false⟩, ⟨msgNo 6, none, false⟩] }))
    (fun t => (t.core 0).engine.map (fun x => x.msg.seq)) = some [4, 5, 6] := by decide +kernel

/-- R227: CCAN stops a copy of its own partition's core and none of another partition's. -/
theorem test_cancel : after (exec (.ccan {} 0) { mk (core0 [0x1000000000000] cx0) with
      flight := [(3, Instr.copyCommand (ccmd 0)), (3, Instr.copyCommand { ccmd 0 with part := 1 })] })
    (fun t => t.flight.map (fun x => match x.2 with | .copyCommand c => c.stop | _ => 9)) = some [2, 0] := by decide +kernel

/-- R290: DONE waits for the key under which a held store goes out. -/
theorem test_done_waits_for_key : after (exec (.done {}) { mk { core0 [] cx0 with sbuf := [.store true [(2, [(0x8000, 1)])]] } with
      keys := [(1, pkey), (2, { tkey .active with resident := false })], nextUid := 3 })
    (fun t => (t.me.run, memRead t.mem 0x8000)) = some (.waiting (.key 2), 0) := by decide +kernel
end Sys2Proof.Tests
end

section
/-! PROOF. Every step keeps both memories in canonical form (log 1).

The model changes a memory by five operations only: `storeCells` and `bankCells` write bytes, `zeroBank`, `zeroRange`
and `off` drop listed bytes; each keeps the form (Laws/Memory). What remains is that everything else is composed of them.
So each operation of the state has one lemma, in the order of the definitions: from `s.memWf` its outcome has the form
again. The lemmas are `simp` rules with that one hypothesis, so that a proof only lists the branches of its definition, and
`simp` walks back through the operations of a branch to `s`. Where a branch depends on an answer (an optional state, a
verdict, a service), the lemma about the answer is cited by name. -/

namespace Sys2Proof.Machine

variable {s : State}

/-! ### Outcomes -/

@[simp] theorem Res.memWf_next {t : State} : Res.memWf (.next t) ↔ t.memWf :=
  ⟨fun h => h t rfl, fun h _ e => by cases e; exact h⟩

theorem State.memWf.outcome {t : State} (h : t.memWf) : Res.memWf (.next t) := Res.memWf_next.2 h

@[simp] theorem Res.memWf_fault (x : Fault) : Res.memWf (.fault x) := fun _ e => by cases e

@[simp] theorem Res.memWf_ite {c : Prop} [Decidable c] {a b : Res} :
    Res.memWf (if c then a else b) ↔ (c → a.memWf) ∧ (¬c → b.memWf) := by
  split <;> simp [*]

@[simp] theorem State.memWf_ite {c : Prop} [Decidable c] {t u : State} :
    State.memWf (if c then t else u) ↔ (c → t.memWf) ∧ (¬c → u.memWf) := by
  split <;> simp [*]

/-- The form speaks of the two memories alone. -/
@[simp] theorem State.memWf_mk {cores parts banks mem bmem seals bpoison keys nextUid tasks nimbus zen out flight agenda cur free} :
    State.memWf ⟨cores, parts, banks, mem, bmem, seals, bpoison, keys, nextUid, tasks, nimbus, zen, out, flight, agenda, cur, free⟩ ↔
      Memory.wf mem = true ∧ Memory.wf bmem = true := Iff.rfl

@[simp] theorem State.wf_mem (h : s.memWf) : Memory.wf s.mem = true := h.1
@[simp] theorem State.wf_bmem (h : s.memWf) : Memory.wf s.bmem = true := h.2

/-- A loop over a list keeps the form when its body does. -/
theorem State.foldl_wf {α : Type} {f : State → α → State} (hf : ∀ t x, t.memWf → (f t x).memWf) (l : List α)
    (h : s.memWf) : (l.foldl f s).memWf := by
  induction l generalizing s with
  | nil => exact h
  | cons x l ih => exact ih (hf s x h)

/-- The state of an optional answer has the form when the state of the other case has. -/
theorem State.getD_wf {o : Option State} (ho : ∀ t, o = some t → t.memWf) (h : s.memWf) : (o.getD s).memWf := by
  cases o with
  | none => exact h
  | some t => exact ho t rfl

/-! ### The five operations -/

@[simp] theorem State.memWf.storeCells {cs u} (h : s.memWf) : (s.storeCells cs u).memWf := s.storeCells_wf cs u h
@[simp] theorem State.memWf.storeParts {ps} (h : s.memWf) : (s.storeParts ps).memWf := s.storeParts_wf ps h
@[simp] theorem State.memWf.bankCells {cs} (h : s.memWf) : (s.bankCells cs).memWf := s.bankCells_wf cs h
@[simp] theorem State.memWf.zeroBank {b} (h : s.memWf) : (s.zeroBank b).memWf := s.zeroBank_wf b h
@[simp] theorem State.memWf.zeroRange {lo n} (h : s.memWf) : (s.zeroRange lo n).memWf := s.zeroRange_wf lo n h
@[simp] theorem State.memWf.off (h : s.memWf) : s.off.memWf := State.off_wf h

/-! ### Sites (R19) and the state's parts -/

@[simp] theorem State.memWf.setCore {c k} (h : s.memWf) : (s.setCore c k).memWf := h

@[simp] theorem State.memWf.setMe {k} (h : s.memWf) : (s.setMe k).memWf := h

@[simp] theorem State.memWf.setCx {c} (h : s.memWf) : (s.setCx c).memWf := h

@[simp] theorem State.memWf.setPart {p x} (h : s.memWf) : (s.setPart p x).memWf := h

@[simp] theorem State.memWf.setBank {b x} (h : s.memWf) : (s.setBank b x).memWf := h

@[simp] theorem State.memWf.enqueue {site i} (h : s.memWf) : (s.enqueue site i).memWf := h

/-! ### Translation and sealing (R282 to R286) -/

theorem State.memWf.physWrite {p va bs t} (h : s.memWf) (e : s.physWrite p va bs = some t) : t.memWf := by
  unfold State.physWrite at e
  split at e <;> cases e
  exact h.storeCells

/-! ### Strand headers (R112) and arrival queues (R114 to R116) -/

@[simp] theorem State.memWf.creditBack {p q es} (h : s.memWf) : (s.creditBack p q es).memWf := h

/-! ### Events and messages -/

@[simp] theorem State.memWf.event {cls site part detail} (h : s.memWf) : (s.event cls site part detail).memWf := by
  simp [State.event, h]

@[simp] theorem State.memWf.lifeAdd {r j n} (h : s.memWf) : (s.lifeAdd r j n).memWf := h

/-! ### Resident keys (R39, R290) -/

theorem State.memWf.keyRoom {t} (h : s.memWf) (e : s.keyRoom = some t) : t.memWf := by
  unfold State.keyRoom at e
  repeat' split at e
  all_goals cases e
  all_goals exact h

@[simp] theorem State.memWf.useEach {us} (h : s.memWf) : (s.useEach us).memWf := by
  obtain ⟨_, _, e⟩ := s.useEach_eq us
  rw [e]
  exact h

@[simp] theorem State.memWf.useKey {u} (h : s.memWf) : (s.useKey u).memWf := h.useEach (us := [u])

@[simp] theorem State.memWf.useKeys {us} (h : s.memWf) : (s.useKeys us).memWf := by
  obtain ⟨_, _, e⟩ := s.useKeys_eq us
  rw [e]
  exact h

/-! ### Messages on their way -/

@[simp] theorem State.memWf.sendFrom {c m} (h : s.memWf) : (s.sendFrom c m).memWf := by
  simp [State.sendFrom, h]

/-! ### Versioned cells at their home (R74, R125 to R129) -/

@[simp] theorem State.memWf.setCell {p cell va v ver head} (h : s.memWf) : (s.setCell p cell va v ver head).memWf := by
  simp [State.setCell, h]

theorem State.memWf.sendWake {p enc cell va r t} (h : s.memWf) (e : s.sendWake p enc cell va r = some t) : t.memWf := by
  unfold State.sendWake at e
  split at e <;> cases e
  exact h

@[simp] theorem State.memWf.keepRecord {p agent r} (h : s.memWf) : (s.keepRecord p agent r).memWf := h

@[simp] theorem State.memWf.oweNolive {p cell c} (h : s.memWf) : (s.oweNolive p cell c).memWf := h

@[simp] theorem State.memWf.wakeAll {p key cell is} (h : s.memWf) : (s.wakeAll p key cell is).memWf := by
  induction is generalizing s with
  | nil => exact h
  | cons i is ih =>
    unfold State.wakeAll
    split
    · exact ih h
    · split
      · next e =>
        have sent := h.sendWake e
        exact ih sent
      · exact ih h

@[simp] theorem State.memWf.noteVersion {cell ver} (h : s.memWf) : (s.noteVersion cell ver).memWf := h

@[simp] theorem State.memWf.cellWrite {p cell va v ver} (h : s.memWf) : (s.cellWrite p cell va v ver).memWf := by
  unfold State.cellWrite
  exact State.memWf.wakeAll (State.memWf.setPart (State.memWf.setCell (State.memWf.noteVersion h)))

/-! ### The fault queue (R131) and trap records (R132) -/

theorem State.memWf.writeFault {p r t} (h : s.memWf) (e : s.writeFault p r = some t) : t.memWf := by
  obtain ⟨ctl, slot, v, -, us, u, written⟩ := State.writeFault_eq e
  rw [written]
  exact h.useKeys.storeCells.cellWrite

@[simp] theorem State.memWf.countCtl {p agent} (h : s.memWf) : (s.countCtl p agent).memWf := by
  simp [State.countCtl, h]

@[simp] theorem State.memWf.noteFull {p agent} (h : s.memWf) : (s.noteFull p agent).memWf := by
  simp [State.noteFull, h]

@[simp] theorem State.memWf.noteRoom {p agent} (h : s.memWf) : (s.noteRoom p agent).memWf := h

@[simp] theorem State.memWf.noteAll {p rs} (h : s.memWf) : (s.noteAll p rs).memWf := by
  induction rs generalizing s with
  | nil => exact h
  | cons x rs ih => exact ih h.noteFull

@[simp] theorem State.memWf.flushList {p rs} (h : s.memWf) : (s.flushList p rs).memWf := by
  induction rs generalizing s with
  | nil => exact h
  | cons x rs ih =>
    unfold State.flushList
    split
    · next e =>
      have written := h.writeFault e
      exact ih written
    · exact State.memWf.noteAll h.countCtl

@[simp] theorem State.memWf.flushKept {p} (h : s.memWf) : (s.flushKept p).memWf := by
  simp [State.flushKept, h]

@[simp] theorem State.memWf.reportRecord {p agent r} (h : s.memWf) : (s.reportRecord p agent r).memWf := by
  simp [State.reportRecord, h]

@[simp] theorem State.memWf.homeWrite {p cell va v ver} (h : s.memWf) : (s.homeWrite p cell va v ver).memWf := by
  simp [State.homeWrite, h]

/-! ### Local memory (R87, R104, R139, R151, R156) -/

@[simp] theorem State.memWf.localWrite {cells} (h : s.memWf) : (s.localWrite cells).memWf := by
  simp [State.localWrite, h]

/-! ### The end of a sequence -/

@[simp] theorem State.memWf.finish {p} (h : s.memWf) : (s.finish p).memWf := by
  simp [State.finish, h]

@[simp] theorem State.memWf.waitCycle (h : s.memWf) : (s.waitCycle).memWf := by
  simp [State.waitCycle, h]

@[simp] theorem State.memWf.waitLink {dir} (h : s.memWf) : (s.waitLink dir).memWf := by
  unfold State.waitLink
  split <;> simp [h]

@[simp] theorem State.memWf.waitFor {w} (h : s.memWf) : (s.waitFor w).memWf := by
  simp [State.waitFor, h]

/-! ### Taking a trap (R130 to R132) and ending a handler (R35) -/

@[simp] theorem State.memWf.returnEntry {c enc e origin} (h : s.memWf) : (s.returnEntry c enc e origin).memWf := by
  unfold State.returnEntry
  dsimp only
  split
  · exact h.setCore
  · split
    · exact h.setCore.creditBack
    · exact h.setCore.event

@[simp] theorem State.memWf.reportTrap {c p enc r} (h : s.memWf) : (s.reportTrap c p enc r).memWf := by
  unfold State.reportTrap
  dsimp only
  split
  · split
    · next e =>
      have written := h.writeFault e
      exact State.memWf.flushKept written
    · exact State.memWf.noteFull h.countCtl
  · exact h

@[simp] theorem State.memWf.stopMmam {c} (h : s.memWf) : (s.stopMmam c).memWf := by
  unfold State.stopMmam
  dsimp only
  split <;> simp [h]

@[simp] theorem State.memWf.taskTrapped {p e} (h : s.memWf) : (s.taskTrapped p e).memWf := by
  simp [State.taskTrapped, h]

@[simp] theorem State.memWf.dropStalled {c} (h : s.memWf) : (s.dropStalled c).memWf := h

@[simp] theorem State.memWf.trap {c t} (h : s.memWf) : (s.trap c t).memWf := by
  have counted : (if t.cause = Cause.sealmac then s.lifeAdd (1 + c) 3 1
      else if t.cause = Cause.bankecc then s.lifeAdd (1 + c) 4 1 else s).memWf := by simp [h]
  have stopped := State.memWf.stopMmam (c := c) (s := State.dropStalled _ c) counted
  exact State.memWf.returnEntry (State.memWf.reportTrap (State.memWf.taskTrapped stopped))

@[simp] theorem State.memWf.trapMe {cause faddr} (h : s.memWf) : (s.trapMe cause faddr).memWf := by
  simp [State.trapMe, h]

@[simp] theorem State.memWf.pushSpawn {c r} (h : s.memWf) : (s.pushSpawn c r).memWf := h

@[simp] theorem State.memWf.newMsg {c r site} (h : s.memWf) : (s.newMsg c r site).1.memWf := h

@[simp] theorem State.memWf.heldVw {p w} (h : s.memWf) : (s.heldVw p w).memWf := by
  unfold State.heldVw
  split <;> simp [h]

@[simp] theorem State.memWf.countDead {c keys} (h : s.memWf) : (s.countDead c keys).memWf := by
  simp [State.countDead, h]

@[simp] theorem State.memWf.releaseStore {c ps} (h : s.memWf) : (s.releaseStore c ps).memWf :=
  State.memWf.storeParts h.countDead

@[simp] theorem State.memWf.releaseVw {c w} (h : s.memWf) : (s.releaseVw c w).memWf := by
  simp [State.releaseVw, h]

@[simp] theorem State.memWf.release {c es} (h : s.memWf) : (s.release c es).memWf := by
  induction es generalizing s with
  | nil => exact h
  | cons e es ih =>
    unfold State.release
    refine ih ?_
    cases e with
    | store rel ps => exact h.releaseStore
    | vw w => exact h.releaseVw
    | spawn r => exact h
    | send r n => exact State.memWf.sendFrom h
    | sendm r tree => exact h

@[simp] theorem State.memWf.endHandler {c} (h : s.memWf) : (s.endHandler c).memWf := by
  unfold State.endHandler
  dsimp only
  refine State.memWf.enqueue ?_
  split
  · split
    · exact h.release.setCore.enqueue
    · exact h.release.setCore
  · exact h.release.setCore

/-! ### Register operands -/

@[simp] theorem State.memWf.alu {p d last f} (h : s.memWf) : (s.alu p d last f).memWf := by
  unfold State.alu
  repeat' split
  all_goals simp [h]

/-! ### Global accesses -/

@[simp] theorem State.memWf.keyMiss {x uid} (h : s.memWf) : (s.keyMiss x uid).memWf := by
  unfold State.keyMiss
  refine State.memWf.waitFor (State.memWf.enqueue ?_)
  split
  · exact h
  · exact h.setMe.lifeAdd.enqueue

@[simp] theorem State.memWf.issueAccess {p k x uids} (h : s.memWf) : (s.issueAccess p k x uids).memWf := by
  unfold State.issueAccess
  split
  · exact h.waitCycle
  · split
    · exact h.keyMiss
    · exact State.memWf.finish (State.memWf.enqueue (State.memWf.setMe h))

@[simp] theorem State.memWf.holdStore {p parts} (h : s.memWf) : (s.holdStore p parts).memWf := by
  simp [State.holdStore, h]

@[simp] theorem State.memWf.enqueueStores {p va kind ps} (h : s.memWf) : (s.enqueueStores p va kind ps).memWf := by
  induction ps generalizing s with
  | nil => exact h
  | cons x ps ih => exact ih h

@[simp] theorem State.memWf.globalStore {p va parts kind} (h : s.memWf) : (s.globalStore p va parts kind).memWf := by
  unfold State.globalStore
  dsimp only
  split
  · exact h.trapMe
  · split
    · exact h.waitCycle
    · split
      · exact h.keyMiss
      · split
        · exact State.memWf.holdStore h
        · exact State.memWf.finish (State.memWf.enqueueStores h)

@[simp] theorem State.memWf.giveG {c hid d v} (h : s.memWf) : (s.giveG c hid d v).memWf := by
  simp [State.giveG, h]

@[simp] theorem State.memWf.giveDq {c hid seqno v} (h : s.memWf) : (s.giveDq c hid seqno v).memWf := by
  simp [State.giveDq, h]

@[simp] theorem State.memWf.serveFill {x} (h : s.memWf) : (s.serveFill x).memWf := h

@[simp] theorem State.memWf.lateMac {c hid va pc} (h : s.memWf) : (s.lateMac c hid va pc).memWf := by
  simp [State.lateMac, h]

@[simp] theorem State.memWf.badAccess {x} (h : s.memWf) : (s.badAccess x).memWf := by
  simp [State.badAccess, h]

@[simp] theorem execAccessPerformed_wf {x} (h : s.memWf) : (execAccessPerformed x s).memWf := by
  unfold execAccessPerformed
  dsimp only
  split
  · exact State.memWf.outcome h
  · split
    · exact h.badAccess.outcome
    · split
      · split
        · exact State.memWf.outcome h.giveG
        · exact State.memWf.outcome h.giveDq
      · exact State.memWf.outcome h
      · exact h.storeCells.outcome
      · exact h.storeCells.outcome
      · refine (State.memWf.giveG ?_).outcome
        split
        · exact h.storeParts.storeCells
        · exact h.storeParts

/-! ### Banks -/

@[simp] theorem State.memWf.setSlotOf {c enc n e} (h : s.memWf) : (s.setSlotOf c enc n e).memWf := h

@[simp] theorem State.memWf.attach {c enc n bank} (h : s.memWf) : (s.attach c enc n bank).memWf := h

@[simp] theorem State.memWf.detach {c enc n} (h : s.memWf) : (s.detach c enc n).memWf := h

@[simp] theorem execAtt_wf {p d} (h : s.memWf) : (execAtt p d s).memWf := by
  unfold execAtt
  dsimp only
  repeat' split
  all_goals simp [h]

@[simp] theorem execDet_wf {p d} (h : s.memWf) : (execDet p d s).memWf := by
  unfold execDet
  dsimp only
  split <;> simp [h]

@[simp] theorem execBqry_wf {p d a} (h : s.memWf) : (execBqry p d a s).memWf := by
  unfold execBqry
  split <;> simp [h]

@[simp] theorem execBzero_wf {p d} (h : s.memWf) : (execBzero p d s).memWf := by
  unfold execBzero
  dsimp only
  split <;> simp [h]

@[simp] theorem State.memWf.hand {p d a x} (h : s.memWf) : (s.hand p d a x).memWf := by
  unfold State.hand
  dsimp only
  repeat' split
  all_goals simp [h]

@[simp] theorem execHandReservation_wf {r} (h : s.memWf) : (execHandReservation r s).memWf := by
  simp [execHandReservation, h]

@[simp] theorem State.memWf.unreserve {r} (h : s.memWf) : (s.unreserve r).memWf := by
  simp [State.unreserve, h]

@[simp] theorem execHandGrant_wf {r ok} (h : s.memWf) : (execHandGrant r ok s).memWf := by
  unfold execHandGrant
  dsimp only
  split
  · split
    · simp [h]
    · split
      · exact h.trap.outcome
      · split
        · exact h.setSlotOf.setBank.setCore.enqueue.outcome
        · exact h.unreserve.trap.outcome
  · simp [h]

@[simp] theorem execBankAttach_wf {r} (h : s.memWf) : (execBankAttach r s).memWf := by
  simp [execBankAttach, h]

@[simp] theorem State.memWf.scrub {b} (h : s.memWf) : (s.scrub b).memWf := h

@[simp] theorem execBankReturnPool_wf {b} (h : s.memWf) : (execBankReturnPool b s).memWf := by
  unfold execBankReturnPool
  split <;> simp [h]

@[simp] theorem execScrubComplete_wf {b} (h : s.memWf) : (execScrubComplete b s).memWf := by
  simp [execScrubComplete, h]

@[simp] theorem execRevoke_wf {p d} (h : s.memWf) : (execRevoke p d s).memWf := by
  unfold execRevoke
  dsimp only
  repeat' split
  all_goals simp [h]

@[simp] theorem State.memWf.dropBank {b} (h : s.memWf) : (s.dropBank b).memWf := h

@[simp] theorem State.memWf.stopBankCopies {b} (h : s.memWf) : (s.stopBankCopies b).memWf := h

@[simp] theorem State.memWf.dropRevokes {part b} (h : s.memWf) : (s.dropRevokes part b).memWf := h

@[simp] theorem State.memWf.revokeAccepted {part b} (h : s.memWf) : (s.revokeAccepted part b).memWf := h

@[simp] theorem State.memWf.revokeRefused {part b cause} (h : s.memWf) : (s.revokeRefused part b cause).memWf :=
  State.foldl_wf (fun _ _ ht => ht.trap) _ h

@[simp] theorem State.memWf.revokeBank {b} (h : s.memWf) : (s.revokeBank b).memWf := by
  unfold State.revokeBank
  split
  · exact h
  · exact h
  · exact h.dropBank.stopBankCopies.scrub

@[simp] theorem execBankRevoked_wf {r} (h : s.memWf) : (execBankRevoked r s).memWf := by
  simp [execBankRevoked, h]

@[simp] theorem execBankPoison_wf {b off} (h : s.memWf) : (execBankPoison b off s).memWf := by
  simp [execBankPoison, h]

/-! ### Messages -/

@[simp] theorem State.memWf.buffer {p e spawn r own} (h : s.memWf) : (s.buffer p e spawn r own).memWf := by
  unfold State.buffer
  dsimp only
  repeat' split
  all_goals simp [h]

@[simp] theorem State.memWf.bufferLocal {p la e spawn own} (h : s.memWf) : (s.bufferLocal p la e spawn own).memWf := by
  unfold State.bufferLocal
  split <;> simp [h]

@[simp] theorem State.memWf.stays {m} (h : s.memWf) : (s.stays m).memWf := h

theorem State.memWf.keepMsg {m t} (h : s.memWf) (e : s.keepMsg m = some t) : t.memWf := by
  rw [State.keepMsg_eq e]
  exact h

@[simp] theorem State.memWf.bounce {m} (h : s.memWf) : (s.bounce m).memWf :=
  State.getD_wf (fun _ e => h.keepMsg e) h

@[simp] theorem State.memWf.bounceAll {stay ms} (h : s.memWf) : (s.bounceAll stay ms).memWf := by
  rw [State.bounceAll_eq]
  exact h

@[simp] theorem State.memWf.accepted {m} (h : s.memWf) : (s.accepted m).memWf := by
  simp [State.accepted, h]

@[simp] theorem State.memWf.wakeIdle {c} (h : s.memWf) : (s.wakeIdle c).memWf := by
  simp [State.wakeIdle, h]

theorem State.memWf.arriveQueue {c enc q e t} (h : s.memWf) (eq : s.arriveQueue c enc q e = some t) : t.memWf := by
  unfold State.arriveQueue at eq
  dsimp only at eq
  split at eq
  · split at eq <;> cases eq
    exact h
  · cases eq
    exact h

@[simp] theorem State.memWf.rewake {m} (h : s.memWf) : (s.rewake m).memWf := by
  unfold State.rewake
  split <;> simp [h]

@[simp] theorem State.memWf.arrive {m} (h : s.memWf) : (s.arrive m).memWf := by
  unfold State.arrive
  dsimp only
  split
  · simp [h]
  · split
    · exact h.bounce
    · split
      · split
        · next e => exact State.memWf.wakeIdle (State.memWf.accepted (h.arriveQueue e))
        · exact h.bounce
      · simp [h]

@[simp] theorem State.memWf.resend {c m} (h : s.memWf) : (s.resend c m).memWf := h

@[simp] theorem execBounceResend_wf (h : s.memWf) : (execBounceResend s).memWf := by
  unfold execBounceResend
  dsimp only
  split <;> simp [h]

@[simp] theorem execMessageAccepted_wf {m} (h : s.memWf) : (execMessageAccepted m s).memWf := by
  unfold execMessageAccepted
  dsimp only
  split <;> simp [h]

@[simp] theorem execSendRoomFreed_wf (h : s.memWf) : (execSendRoomFreed s).memWf := by
  simp [execSendRoomFreed, h]

@[simp] theorem State.memWf.stampCopy {m} (h : s.memWf) : (s.stampCopy m).1.memWf := h

@[simp] theorem State.memWf.enqueueOwn {m} (h : s.memWf) : (s.enqueueOwn m).memWf := h

@[simp] theorem execMulticastForward_wf {m tree node} (h : s.memWf) : (execMulticastForward m tree node s).memWf := by
  unfold execMulticastForward
  split
  next t m' e =>
  have ht : t.memWf := by
    split at e <;> cases e <;> exact h
  dsimp only
  split
  · exact ht.outcome
  · split
    · exact ht.outcome
    · refine State.memWf.outcome (State.foldl_wf (fun _ _ hu => ?_) _ ?_)
      · exact hu
      · simp [ht]

@[simp] theorem State.memWf.unstall (h : s.memWf) : (s.unstall).memWf := h

/-- What waits for the keys of the held stores keeps the form when what follows does. -/
theorem State.memWf.withHeldKeys {p f} (h : s.memWf) (hf : ∀ t, t.memWf → (f t).memWf) : (s.withHeldKeys p f).memWf := by
  unfold State.withHeldKeys
  split
  · exact hf s h
  · split
    · exact h.keyMiss
    · exact hf _ h

/-- The end of a strand (DONE, YIELD, IDLE) keeps the form when what it does to the strand does. -/
theorem State.memWf.endingWith {p mayTask f} (h : s.memWf) (hf : ∀ t, t.memWf → (f t).memWf) :
    (s.endingWith p mayTask f).memWf := by
  unfold State.endingWith
  dsimp only
  split
  · exact h.waitCycle
  · split
    · exact h.trapMe
    · split
      · exact h.waitCycle
      · split
        · exact h.waitFor
        · exact h.withHeldKeys fun _ ht => State.memWf.outcome (hf _ ht)

@[simp] theorem execDone_wf {p} (h : s.memWf) : (execDone p s).memWf := by
  unfold execDone
  exact h.endingWith fun _ ht => ht.endHandler

@[simp] theorem State.memWf.yieldMsg {enc r} (h : s.memWf) : (s.yieldMsg enc r).memWf :=
  State.memWf.arrive (s := (s.newMsg s.cur r s.cur).1) h

@[simp] theorem execYield_wf {p} (h : s.memWf) : (execYield p s).memWf := by
  unfold execYield
  exact h.endingWith fun _ ht => ht.endHandler.yieldMsg

@[simp] theorem execQcfg_wf {p q a} (h : s.memWf) : (execQcfg p q a s).memWf := by
  simp [execQcfg, h]

@[simp] theorem State.memWf.placeEntries {c es} (h : s.memWf) : (s.placeEntries c es).memWf := by
  induction es generalizing s with
  | nil => exact h
  | cons x es ih =>
    unfold State.placeEntries
    refine ih ?_
    split <;> exact h

@[simp] theorem State.memWf.placeKept {c} (h : s.memWf) : (s.placeKept c).memWf := by
  simp [State.placeKept, h]

@[simp] theorem State.memWf.popQueue {c enc q} (h : s.memWf) : (s.popQueue c enc q).memWf := by
  unfold State.popQueue
  exact h.setCore.creditBack.placeKept

@[simp] theorem execQpop_wf {p d q} (h : s.memWf) : (execQpop p d q s).memWf := by
  unfold execQpop
  dsimp only
  split
  · exact h.waitCycle
  · exact h.trapMe
  · split
    · exact h.localWrite.finish
    · exact h.popQueue.localWrite.finish

@[simp] theorem execPost_wf {p dir a} (h : s.memWf) : (execPost p dir a s).memWf := by
  unfold execPost
  dsimp only
  split
  · exact h.trapMe
  · split
    · exact h.waitLink
    · exact h.setMe.enqueue.finish

@[simp] theorem execXget_wf {p d dir} (h : s.memWf) : (execXget p d dir s).memWf := by
  unfold execXget
  dsimp only
  split
  · exact h.waitLink
  · split
    · exact h.setMe.enqueue.finish
    · exact h.setMe.finish

@[simp] theorem execLinkValueArrival_wf {l} (h : s.memWf) : (execLinkValueArrival l s).memWf := by
  simp [execLinkValueArrival, h]

/-! ### Versioned words -/

/-- The issue of a versioned word's instruction keeps the form when the instruction does, its checks passed. -/
theorem State.memWf.vwIssue {p va want pre f} (h : s.memWf) (hf : ∀ cell t, t.memWf → (f cell t).memWf) :
    (s.vwIssue p va want pre f).memWf := by
  unfold State.vwIssue
  split
  · exact h.trapMe
  · exact Res.memWf_fault _
  · split
    · exact h.trapMe
    · split
      · exact h.waitCycle
      · split
        · exact h.keyMiss
        · split
          · exact h.trapMe
          · exact hf _ _ h

@[simp] theorem State.memWf.vwWait {p i} (h : s.memWf) : (s.vwWait p i).memWf := by
  unfold State.vwWait
  exact h.setMe.enqueue.waitFor

@[simp] theorem State.memWf.vwWrite {p w i} (h : s.memWf) : (s.vwWrite p w i).memWf := by
  unfold State.vwWrite
  dsimp only
  split
  · exact h.setMe.finish
  · exact h.setMe.enqueue.finish

@[simp] theorem execVwld_wf {p d a b} (h : s.memWf) : (execVwld p d a b s).memWf := by
  unfold execVwld
  exact h.vwIssue fun _ _ ht => ht.vwWait

@[simp] theorem execVwst_wf {p d a b} (h : s.memWf) : (execVwst p d a b s).memWf := by
  unfold execVwst
  exact h.vwIssue fun _ _ ht => ht.vwWrite

@[simp] theorem execVwinc_wf {p d a} (h : s.memWf) : (execVwinc p d a s).memWf := by
  unfold execVwinc
  exact h.vwIssue fun _ _ ht => ht.vwWrite

@[simp] theorem execVwpk_wf {p d a} (h : s.memWf) : (execVwpk p d a s).memWf := by
  unfold execVwpk
  exact h.vwIssue fun _ _ ht => ht.vwWait

@[simp] theorem execVwrst_wf {p a} (h : s.memWf) : (execVwrst p a s).memWf := by
  unfold execVwrst
  exact h.vwIssue fun _ _ ht => ht.vwWait

@[simp] theorem execPark_wf {p d a} (h : s.memWf) : (execPark p d a s).memWf := by
  unfold execPark
  dsimp only
  split
  · exact h.waitCycle
  · refine h.vwIssue fun cell t ht => ?_
    split
    · exact ht.waitCycle
    · split
      · exact ht.waitFor
      · exact ht.withHeldKeys fun _ hu => hu.vwWait

@[simp] theorem State.memWf.vwAnswer {r x} (h : s.memWf) : (s.vwAnswer r x).memWf := h

@[simp] theorem State.memWf.listCont {r n rec i} (h : s.memWf) : (s.listCont r n rec i).memWf := by
  simp [State.listCont, h]

@[simp] theorem State.memWf.useHeld {c} (h : s.memWf) : (s.useHeld c).memWf := by
  unfold State.useHeld
  dsimp only
  split <;> simp [h]

@[simp] theorem State.memWf.parkAt {r n rec} (h : s.memWf) : (s.parkAt r n rec).memWf := by
  have used : (s.useHeld r.core).memWf := h.useHeld
  unfold State.parkAt
  dsimp only
  split
  · split
    · next e => exact used.endHandler.sendWake e
    · exact used.endHandler.reportRecord
  · split
    · exact used.vwAnswer
    · exact used.endHandler.listCont

@[simp] theorem State.memWf.deadCell {r waits} (h : s.memWf) : (s.deadCell r waits).memWf := by
  simp [State.deadCell, h]

@[simp] theorem execVwHomeLoad_wf {r} (h : s.memWf) : (execVwHomeLoad r s).memWf := by
  unfold execVwHomeLoad
  dsimp only
  repeat' split
  all_goals simp [h]

@[simp] theorem execVwHomePark_wf {r} (h : s.memWf) : (execVwHomePark r s).memWf := by
  unfold execVwHomePark
  split <;> simp [h]

@[simp] theorem execVwHomeStore_wf {r} (h : s.memWf) : (execVwHomeStore r s).memWf := by
  unfold execVwHomeStore
  split <;> simp [h]

@[simp] theorem execVwHomeInc_wf {r} (h : s.memWf) : (execVwHomeInc r s).memWf := by
  unfold execVwHomeInc
  split <;> simp [h]

@[simp] theorem execVwHomePeek_wf {r} (h : s.memWf) : (execVwHomePeek r s).memWf := by
  unfold execVwHomePeek
  split <;> simp [h]

@[simp] theorem execVwHomeReset_wf {r} (h : s.memWf) : (execVwHomeReset r s).memWf := by
  unfold execVwHomeReset
  split <;> simp [h]

@[simp] theorem execVwReply_wf {r} (h : s.memWf) : (execVwReply r s).memWf := by
  unfold execVwReply
  dsimp only
  repeat' split
  all_goals simp [h]

/-! ### Copies -/

@[simp] theorem State.memWf.issueCopy {p cmd} (h : s.memWf) : (s.issueCopy p cmd).memWf := by
  unfold State.issueCopy
  dsimp only
  split
  · exact h.setMe.waitCycle
  · exact h.setMe.enqueue.finish

/-- A completion cell that may not be written leaves a trap or a wait. -/
theorem State.memWf.cellBad {va want r} (h : s.memWf) (e : s.cellBad va want = some r) : r.memWf := by
  unfold State.cellBad at e
  repeat' split at e
  all_goals cases e
  all_goals simp [h]

@[simp] theorem State.memWf.copyChecks {p form da} (h : s.memWf) : (s.copyChecks p form da).memWf := by
  unfold State.copyChecks
  dsimp only
  split
  · exact h.trapMe
  · split
    · exact h.waitCycle
    · exact h.trapMe
    · split
      · exact h.trapMe
      · split
        · exact h.waitCycle
        · exact h.trapMe
        · exact h.waitCycle
        · split
          · exact h.waitCycle
          · exact h.trapMe
          · exact h.waitCycle
          · split
            · next e =>
              split at e
              · cases e
              · exact h.cellBad e
            · split
              · next e =>
                split at e
                · exact h.cellBad e
                · cases e
              · exact h.issueCopy

@[simp] theorem State.memWf.copyIssue {p form d} (h : s.memWf) : (s.copyIssue p form d).memWf := by
  unfold State.copyIssue
  split <;> simp [h]

@[simp] theorem execCcan_wf {p d} (h : s.memWf) : (execCcan p d s).memWf := by
  simp [execCcan, h]

@[simp] theorem State.memWf.setNim {cl n} (h : s.memWf) : (s.setNim cl n).memWf := h

@[simp] theorem execCqset_wf {p d a} (h : s.memWf) : (execCqset p d a s).memWf := by
  unfold execCqset
  dsimp only
  split
  · exact h.trapMe
  · exact h.setNim.setCx.finish

@[simp] theorem execCwait_wf {p a ch} (h : s.memWf) : (execCwait p a ch s).memWf := by
  simp [execCwait, h]

@[simp] theorem State.memWf.setCwp {c st off} (h : s.memWf) : (s.setCwp c st off).memWf := by
  simp [State.setCwp, h]

@[simp] theorem State.memWf.badLine {cl bad} (h : s.memWf) : (s.badLine cl bad).memWf := by
  simp [State.badLine, h]

@[simp] theorem State.memWf.completionWrite {cl p va v} (h : s.memWf) : (s.completionWrite cl p va v).memWf := by
  unfold State.completionWrite
  repeat' split
  all_goals simp [h]

@[simp] theorem State.memWf.stagingEnded {t st} (h : s.memWf) : (s.stagingEnded t st).memWf := by
  unfold State.stagingEnded
  dsimp only
  split <;> simp [h]

@[simp] theorem State.memWf.endCopy {cl c st cause} (h : s.memWf) : (s.endCopy cl c st cause).memWf := by
  unfold State.endCopy
  dsimp only
  split
  · exact h.setNim.setCwp.stagingEnded
  · split
    · exact h.setNim.setCwp
    · exact h.setNim.setCwp.completionWrite

@[simp] theorem State.memWf.endStopped {cl cs} (h : s.memWf) : (s.endStopped cl cs).memWf := by
  induction cs generalizing s with
  | nil => exact h
  | cons c cs ih =>
    unfold State.endStopped
    refine ih ?_
    split
    · split
      · exact h.endCopy
      · exact h
    · exact h

@[simp] theorem State.memWf.kickNimbus {cl} (h : s.memWf) : (s.kickNimbus cl).memWf := by
  simp [State.kickNimbus, h]

@[simp] theorem State.memWf.acceptCopy {cl r staging} (h : s.memWf) : (s.acceptCopy cl r staging).memWf := by
  simp [State.acceptCopy, h]

@[simp] theorem State.memWf.takeEntry {r} (h : s.memWf) : (s.takeEntry r).1.memWf := h

@[simp] theorem execCopyCommand_wf {r} (h : s.memWf) : (execCopyCommand r s).memWf := by
  unfold execCopyCommand
  split
  · exact h.outcome
  · exact (State.memWf.acceptCopy (s := (s.takeEntry r).1) h).outcome

@[simp] theorem execCpymVersionReached_wf {r} (h : s.memWf) : (execCpymVersionReached r s).memWf := by
  unfold execCpymVersionReached
  dsimp only
  split <;> simp [h]

/-- A destination line that is written leaves the form (R230). -/
theorem State.memWf.destLine {r k bs bad t line} (h : s.memWf) (e : s.destLine r k bs bad = .written t line) : t.memWf := by
  unfold State.destLine at e
  dsimp only at e
  split at e
  · cases e
    simp [h]
  · split at e
    · cases e
    · split at e <;> cases e
      split
      · simp [h.useKey]
      · exact h.useKey.storeCells

@[simp] theorem State.memWf.lineMoved {cl e c line} (h : s.memWf) : (s.lineMoved cl e c line).memWf := by
  simp [State.lineMoved, h]

@[simp] theorem State.memWf.badDrain {cl cause} (h : s.memWf) : (s.badDrain cl cause).memWf := by
  simp [State.badDrain, h]

@[simp] theorem State.memWf.moveTo {cl e bs bad cs} (h : s.memWf) : (s.moveTo cl e bs bad cs).memWf := by
  induction cs generalizing s with
  | nil => exact h.outcome
  | cons c cs ih =>
    unfold State.moveTo
    split
    · next e => exact ih (h.destLine e).lineMoved
    · exact ih h.badDrain.endCopy
    · exact Res.memWf_fault _

@[simp] theorem State.memWf.endAll {cl st cause cs} (h : s.memWf) : (s.endAll cl st cause cs).memWf := by
  induction cs generalizing s with
  | nil => exact h
  | cons c cs ih => exact ih h.endCopy

@[simp] theorem State.memWf.copyLine {cl} (h : s.memWf) : (s.copyLine cl).memWf := by
  have ended : ((s.setNim cl (s.nim cl).turn).endStopped cl ((s.setNim cl (s.nim cl).turn).nim cl).copies).memWf :=
    State.memWf.endStopped h.setNim
  unfold State.copyLine
  dsimp only
  split
  · simp [ended]
  · split
    · exact Res.memWf_fault _
    · exact ended.setNim.badDrain.endAll.kickNimbus.outcome
    · next bs bad uid _ =>
      have moved : ∀ t : State, t.memWf → ∀ e ms, Res.memWf ((t.badLine cl bad).moveTo cl e bs bad ms) :=
        fun t ht e ms => ht.badLine.moveTo
      split
      · next u e =>
        have lined := moved _ ?_ _ _ _ e
        · simp [lined]
        · split
          · exact ended.setNim.useKey
          · exact ended.setNim
      · refine moved _ ?_ _ _
        split
        · exact ended.setNim.useKey
        · exact ended.setNim

@[simp] theorem execCopyBudgetWindow_wf (h : s.memWf) : (execCopyBudgetWindow s).memWf := by
  simp [execCopyBudgetWindow, h]

/-! ### Tasks -/

@[simp] theorem State.memWf.put {p va bs} (h : s.memWf) : (s.put p va bs).memWf :=
  State.getD_wf (fun _ e => h.physWrite e) h

@[simp] theorem State.memWf.setStatus {p entry st} (h : s.memWf) : (s.setStatus p entry st).memWf := by
  simp [State.setStatus, h]

@[simp] theorem State.memWf.setTaskState {p entry st} (h : s.memWf) : (s.setTaskState p entry st).memWf := by
  simp [State.setTaskState, h]

@[simp] theorem State.memWf.setTask {t} (h : s.memWf) : (s.setTask t).memWf := h

@[simp] theorem State.memWf.addTask {t} (h : s.memWf) : (s.addTask t).memWf := h

@[simp] theorem State.memWf.writeEntry {p entry tr status dest} (h : s.memWf) : (s.writeEntry p entry tr status dest).memWf := by
  simp [State.writeEntry, h]

@[simp] theorem State.memWf.submitTask {tr q} (h : s.memWf) : (s.submitTask tr q).1.memWf := by
  unfold State.submitTask
  dsimp only
  exact h.setPart.writeEntry.addTask.enqueue

/-- The read of a task's record keeps the form when what follows the read does. -/
theorem State.memWf.readTail {p e f} (h : s.memWf) (hf : ∀ t, t.memWf → (f t).memWf) : (s.readTail p e f).memWf := by
  have touched : ({ s.unstall with keys := touchKeys s.keys (s.uidsOf s.me.part e 256) } : State).memWf :=
    State.memWf_of_eq h rfl rfl
  simp only [State.readTail]
  split
  · exact h.waitCycle
  · split
    · exact h.keyMiss
    · split
      · exact touched.trapMe
      · exact hf _ touched

@[simp] theorem execTask_wf {p d} (h : s.memWf) : (execTask p d s).memWf := by
  unfold execTask
  dsimp only
  split
  · exact h.trapMe
  · split
    · exact h.waitCycle
    · exact h.trapMe
    · split
      · exact h.waitCycle
      · exact h.trapMe
      · split
        · exact h.trapMe
        · split
          · exact h.trapMe
          · split
            · exact h.trapMe
            · refine h.readTail fun t ht => ?_
              split
              · exact ht.trapMe
              · split
                · exact ht.waitCycle
                · exact ht.submitTask.localWrite.finish

theorem State.memWf.recordPage {ra fa go} (h : s.memWf) (hg : ∀ l u, (go l u).memWf) : (s.recordPage ra fa go).memWf := by
  unfold State.recordPage
  split
  · exact h.trapMe
  · exact Res.memWf_fault _
  · exact hg _ _

@[simp] theorem execTtag_wf {p d a} (h : s.memWf) : (execTtag p d a s).memWf := by
  unfold execTtag
  dsimp only
  split
  · exact h.trapMe
  · split
    · exact h.trapMe
    · exact h.recordPage fun _ _ => h.globalStore

@[simp] theorem execTshape_wf {p d a} (h : s.memWf) : (execTshape p d a s).memWf := by
  unfold execTshape
  dsimp only
  split
  · exact h.trapMe
  · split
    · exact h.trapMe
    · split
      · exact h.waitCycle
      · exact h.trapMe
      · split
        · exact h.trapMe
        · exact h.recordPage fun _ _ => h.globalStore

@[simp] theorem execTqry_wf {p d a} (h : s.memWf) : (execTqry p d a s).memWf := by
  unfold execTqry
  dsimp only
  repeat' split
  all_goals simp [h]

@[simp] theorem State.memWf.asterTouch {p cl spans} (h : s.memWf) : (s.asterTouch p cl spans).memWf := by
  simp [State.asterTouch, h]

@[simp] theorem State.memWf.tellAsters {cls} (h : s.memWf) : (s.tellAsters cls).memWf := by
  induction cls generalizing s with
  | nil => exact h
  | cons c cls ih => exact ih h

@[simp] theorem State.memWf.mtloadRead {p a n} (h : s.memWf) : (s.mtloadRead p a n).memWf := by
  unfold State.mtloadRead
  dsimp only
  split
  · exact h.waitCycle
  · split
    · exact h.keyMiss
    · split
      · exact State.memWf.trapMe h
      · split
        · exact State.memWf.trapMe h
        · split
          · exact State.memWf.finish h
          · exact State.memWf.waitFor (State.memWf.tellAsters h)

@[simp] theorem execMtload_wf {p d} (h : s.memWf) : (execMtload p d s).memWf := by
  unfold execMtload
  dsimp only
  repeat' split
  all_goals simp [h]

@[simp] theorem execMethodTableInstall_wf (h : s.memWf) : (execMethodTableInstall s).memWf := by
  unfold execMethodTableInstall
  dsimp only
  repeat' split
  all_goals simp [h]

@[simp] theorem State.memWf.holdTask {t tr cause op sig} (h : s.memWf) : (s.holdTask t tr cause op sig).memWf := by
  unfold State.holdTask
  exact h.setTaskState.setTask.reportRecord

@[simp] theorem State.memWf.attachFootprint {c enc slot bs} (h : s.memWf) : (s.attachFootprint c enc slot bs).memWf := by
  induction bs generalizing s slot with
  | nil => exact h
  | cons b bs ih => exact ih h

@[simp] theorem State.memWf.stage {t c slot off banks shs} (h : s.memWf) : (s.stage t c slot off banks shs).memWf := by
  induction shs generalizing s off with
  | nil => exact h
  | cons sh shs ih =>
    unfold State.stage
    dsimp only
    split
    · exact ih h
    · exact ih h.acceptCopy

@[simp] theorem State.memWf.place {t tr q} (h : s.memWf) : (s.place t tr q).memWf := by
  unfold State.place
  dsimp only
  split
  · refine State.memWf.setTask ?_
    split
    · exact h
    · exact h.setStatus
  · split
    · exact h.attachFootprint.setStatus.setTask.enqueue
    · exact h.attachFootprint.setStatus.setTask.stage

@[simp] theorem State.memWf.kickAster {cl} (h : s.memWf) : (s.kickAster cl).memWf := by
  simp [State.kickAster, h]

@[simp] theorem State.memWf.register {t q} (h : s.memWf) : (s.register t q).memWf := by
  simp [State.register, h]

@[simp] theorem State.memWf.insertConv {t orig c} (h : s.memWf) : (s.insertConv t orig c).memWf := by
  unfold State.insertConv
  split
  · exact h
  · exact State.memWf.register (State.memWf.writeEntry (State.memWf.useKeys h))

@[simp] theorem State.memWf.insertConvs {t orig cs} (h : s.memWf) : (s.insertConvs t orig cs).1.memWf := by
  induction cs generalizing s with
  | nil => exact h
  | cons c cs ih => exact ih h.insertConv

@[simp] theorem State.memWf.insertAll {t tr cs sig} (h : s.memWf) : (s.insertAll t tr cs sig).memWf := by
  unfold State.insertAll
  split
  · exact h
  · dsimp only
    split
    · exact h.asterTouch.holdTask
    · exact h.asterTouch.insertConvs.put.setTaskState

@[simp] theorem State.memWf.handleTask {t q} (h : s.memWf) : (s.handleTask t q).memWf := by
  unfold State.handleTask
  dsimp only
  split
  · exact h.asterTouch.holdTask
  · split
    · exact h.asterTouch.holdTask
    · exact h.asterTouch.insertAll
    · split
      · exact h.asterTouch.setStatus.holdTask
      · exact h.asterTouch.place

@[simp] theorem execAsterTaskArrival_wf {r} (h : s.memWf) : (execAsterTaskArrival r s).memWf := by
  unfold execAsterTaskArrival
  split <;> simp [h]

@[simp] theorem execAsterDependenceMet_wf (h : s.memWf) : (execAsterDependenceMet s).memWf := by
  unfold execAsterDependenceMet
  dsimp only
  split
  · exact h.outcome
  · split
    · exact h.outcome
    · refine (State.memWf.kickAster ?_).outcome
      split
      · exact h.asterTouch.place
      · exact h.handleTask

@[simp] theorem execAsterStagingDone_wf {r} (h : s.memWf) : (execAsterStagingDone r s).memWf := by
  unfold execAsterStagingDone
  dsimp only
  split
  · split
    · exact h.outcome
    · split
      · exact h.asterTouch.holdTask.outcome
      · exact h.asterTouch.setTask.setTaskState.enqueue.outcome
  · exact h.outcome

@[simp] theorem State.memWf.dropFootprint {c enc slot bs} (h : s.memWf) : (s.dropFootprint c enc slot bs).memWf := by
  induction bs generalizing s slot with
  | nil => exact h
  | cons b bs ih =>
    unfold State.dropFootprint
    refine ih ?_
    simp [h]

@[simp] theorem State.memWf.bump {p as} (h : s.memWf) : (s.bump p as).memWf := by
  induction as generalizing s with
  | nil => exact h
  | cons a as ih =>
    unfold State.bump
    refine ih ?_
    split
    · exact h.homeWrite
    · exact h

@[simp] theorem State.memWf.replace {cl} (h : s.memWf) : (s.replace cl).memWf := by
  simp [State.replace, h]

@[simp] theorem execAsterRetirement_wf {r} (h : s.memWf) : (execAsterRetirement r s).memWf := by
  unfold execAsterRetirement
  dsimp only
  split
  · split
    · exact h.outcome
    · exact h.asterTouch.dropFootprint.bump.setTask.setTaskState.replace.outcome
  · exact h.outcome

/-! ### Control flow and control registers -/

@[simp] theorem State.memWf.condBranch {p a e f} (h : s.memWf) : (s.condBranch p a e f).memWf := by
  unfold State.condBranch
  split <;> simp [h]

@[simp] theorem execJr_wf {p a} (h : s.memWf) : (execJr p a s).memWf := by
  simp [execJr, h]

@[simp] theorem execJlr_wf {p d a} (h : s.memWf) : (execJlr p d a s).memWf := by
  simp [execJlr, h]

@[simp] theorem execBrk_wf {p n} (h : s.memWf) : (execBrk p n s).memWf := by
  simp [execBrk, h]

@[simp] theorem State.memWf.rdc {p d cr} (h : s.memWf) : (s.rdc p d cr).memWf := by
  simp [State.rdc, h]

@[simp] theorem State.memWf.saveWs (h : s.memWf) : (s.saveWs).memWf := by
  unfold State.saveWs
  split <;> simp [h]

/-- The state that a control-register write leaves, when it leaves one. -/
def CrWrite.memWf : CrWrite → Prop
  | .all t => t.memWf
  | _ => True

/-! The checks of a register other than WP give a register's value or a refusal, never a state. -/

theorem Core.wrcHb_wf (k : Core) (priv : Bool) (v : Word) : (k.wrcHb priv v).memWf := by
  unfold Core.wrcHb
  dsimp only
  repeat' split
  all_goals trivial

theorem Core.wrcSbm_wf (k : Core) (v : Word) : (k.wrcSbm v).memWf := by
  unfold Core.wrcSbm
  split <;> trivial

theorem Core.wrcSmc_wf (k : Core) (priv : Bool) (v : Word) : (k.wrcSmc priv v).memWf := by
  unfold Core.wrcSmc
  repeat' split
  all_goals trivial

theorem Core.wrcBs_wf (k : Core) (v : Word) : (k.wrcBs v).memWf := by
  unfold Core.wrcBs
  split <;> trivial

theorem Core.wrcFmt_wf (k : Core) (i : Fin 16) (v : Word) : (k.wrcFmt i v).memWf := by
  unfold Core.wrcFmt
  split <;> trivial

theorem State.memWf.wrcWp {v} (h : s.memWf) : (s.wrcWp v).memWf := by
  unfold State.wrcWp
  dsimp only
  split
  · trivial
  · split
    · trivial
    · split
      · trivial
      · exact h.saveWs.setMe

theorem State.memWf.crWrite {cr v} (h : s.memWf) : (s.crWrite cr v).memWf := by
  unfold State.crWrite
  dsimp only
  split
  · split
    · exact h.wrcWp
    · trivial
  · split
    · exact s.me.wrcHb_wf _ v
    · split
      · exact s.me.wrcSbm_wf v
      · split
        · trivial
        · split
          · trivial
          · split
            · exact s.me.wrcBs_wf v
            · split
              · exact s.me.wrcSmc_wf _ v
              · split
                · trivial
                · split
                  · exact s.me.wrcFmt_wf _ v
                  · trivial

@[simp] theorem State.memWf.wrc {p a cr} (h : s.memWf) : (s.wrc p a cr).memWf := by
  have written := h.crWrite (cr := cr) (v := s.me.getG a)
  unfold State.wrc
  split
  · exact h.waitCycle
  · split
    · exact h.trapMe
    · exact h.trapMe
    · exact State.memWf.finish h
    · next e => rw [e] at written; exact State.memWf.finish written

/-! ### Dispatch -/

@[simp] theorem State.memWf.dispatch {c e o} (h : s.memWf) : (s.dispatch c e o).memWf := by
  unfold State.dispatch
  dsimp only
  split
  · exact h.setCore
  · exact h.taskTrapped.reportTrap.enqueue

@[simp] theorem State.memWf.takeHead {c q} (h : s.memWf) : (s.takeHead c q).memWf := by
  unfold State.takeHead
  dsimp only
  split <;> simp [h]

@[simp] theorem State.memWf.choose {c} (h : s.memWf) : (s.choose c).memWf := by
  unfold State.choose
  dsimp only
  repeat' split
  all_goals simp [h]

@[simp] theorem State.memWf.clearLinks {c} (h : s.memWf) : (s.clearLinks c).memWf := by
  unfold State.clearLinks
  refine State.foldl_wf (fun t i ht => ?_) _ h
  dsimp only
  repeat' split
  all_goals exact ht

@[simp] theorem State.memWf.drainRing {c enc back es} (h : s.memWf) : (s.drainRing c enc back es).memWf := by
  induction es generalizing s back with
  | nil => exact h.bounceAll
  | cons e es ih =>
    unfold State.drainRing
    dsimp only
    split
    · next t eq =>
      split at eq
      · cases eq
      · exact ih (h.arriveQueue eq)
    · exact ih h

@[simp] theorem State.memWf.switchTo {c enc} (h : s.memWf) : (s.switchTo c enc).memWf := by
  unfold State.switchTo
  exact State.memWf.drainRing (State.memWf.setCore h.clearLinks)

@[simp] theorem State.memWf.next {c} (h : s.memWf) : (s.next c).memWf := by
  simp [State.next, h]

@[simp] theorem execIdleRetry_wf (h : s.memWf) : (execIdleRetry s).memWf := by
  simp [execIdleRetry, h]

@[simp] theorem State.memWf.steal {c} (h : s.memWf) : (s.steal c).memWf := by
  unfold State.steal
  split <;> simp [h]

@[simp] theorem execSteal_wf (h : s.memWf) : (execSteal s).memWf := by
  simp [execSteal, h]

@[simp] theorem execSliceExpiry_wf (h : s.memWf) : (execSliceExpiry s).memWf := by
  simp [execSliceExpiry, h]

@[simp] theorem execBudgetExpiry_wf (h : s.memWf) : (execBudgetExpiry s).memWf := by
  simp [execBudgetExpiry, h]

@[simp] theorem State.memWf.flushCore {c p rs} (h : s.memWf) : (s.flushCore c p rs).memWf := by
  induction rs generalizing s with
  | nil => exact h.wakeIdle
  | cons x rs ih =>
    unfold State.flushCore
    split
    · next e =>
      have written := h.writeFault e
      exact ih written
    · exact State.memWf.noteFull h.countCtl

@[simp] theorem State.memWf.flushZenith {p rs} (h : s.memWf) : (s.flushZenith p rs).memWf := by
  induction rs generalizing s with
  | nil => exact h
  | cons x rs ih =>
    unfold State.flushZenith
    split
    · next e =>
      have written := h.writeFault e
      exact ih written
    · exact State.memWf.noteFull h.countCtl

@[simp] theorem execFaultRecordDeferred_wf (h : s.memWf) : (execFaultRecordDeferred s).memWf := by
  have flushed : (if s.me.keptRecs.isEmpty then s else s.flushCore s.cur s.me.part s.me.keptRecs).memWf := by simp [h]
  exact flushed.flushZenith.flushKept.outcome

/-! ### Monitor calls -/

@[simp] theorem execMcall_wf {p a} (h : s.memWf) : (execMcall p a s).memWf := by
  unfold execMcall
  dsimp only
  split <;> simp [h]

/-- The state that a service leaves, when it does not answer with a status. -/
def okMemWf {α : Type} : Except Nat (State × α) → Prop
  | .ok r => r.1.memWf
  | .error _ => True

@[simp] theorem okMemWf_ok {α : Type} {t : State} {a : α} : okMemWf (.ok (t, a)) ↔ t.memWf := Iff.rfl
@[simp] theorem okMemWf_error {α : Type} {n : Nat} : okMemWf (.error n : Except Nat (State × α)) := trivial

/-- Zenith's answer to a call keeps the form when the service does. -/
theorem State.memWf.serve {n} {f : Service} (h : s.memWf) (hf : ∀ t k, t.memWf → okMemWf (f t k)) : (s.serve n f).memWf := by
  unfold State.serve
  split
  · split
    · exact h.outcome
    · have served := hf _ (s.useKeys s.serviceUids).me (h.useKeys (us := s.serviceUids))
      dsimp only
      split
      · exact State.memWf.outcome h.useKeys
      · next e => rw [e] at served; exact State.memWf.outcome served
  · exact h.outcome

@[simp] theorem execMver_wf (h : s.memWf) : (execMver s).memWf := by
  unfold execMver
  exact h.serve fun _ _ ht => ht

@[simp] theorem State.memWf.setCxAt {c enc x} (h : s.memWf) : (s.setCxAt c enc x).memWf := h

theorem State.memWf.heldHead {c enc q discard t} (h : s.memWf) (e : s.heldHead c enc q discard = some t) : t.memWf := by
  unfold State.heldHead at e
  dsimp only at e
  split at e
  · split at e
    · cases e
    · split at e <;> cases e
      · exact h.popQueue
      · exact h
  · cases e

theorem State.memWf.heldDeque {c enc discard t} (h : s.memWf) (e : s.heldDeque c enc discard = some t) : t.memWf := by
  unfold State.heldDeque at e
  dsimp only at e
  split at e <;> cases e
  exact h

@[simp] theorem execQheld_wf (h : s.memWf) : (execQheld s).memWf := by
  refine h.serve fun t k ht => ?_
  dsimp only
  split
  · trivial
  · split
    · trivial
    · split
      · trivial
      · next e =>
        refine State.memWf.wakeIdle ?_
        split at e
        · exact ht.heldDeque e
        · exact ht.heldHead e

theorem State.memWf.serveRead {n spans} {f : Service} (h : s.memWf) (hf : ∀ t k, t.memWf → okMemWf (f t k)) :
    (s.serveRead n spans f).memWf := by
  unfold State.serveRead
  split
  · split
    · exact State.memWf.serve h hf
    · exact h.serve hf
  · exact h.serve hf

@[simp] theorem execFqset_wf (h : s.memWf) : (execFqset s).memWf := by
  unfold execFqset
  refine h.serveRead fun t k ht => ?_
  dsimp only
  split
  · trivial
  · split
    · trivial
    · exact ht.put.setPart

@[simp] theorem State.memWf.formatRing {p base n} (h : s.memWf) : (s.formatRing p base n).memWf := by
  induction n generalizing s with
  | zero => exact h
  | succ n ih => exact ih h.put

@[simp] theorem execTqset_wf (h : s.memWf) : (execTqset s).memWf := by
  unfold execTqset
  refine h.serveRead fun t k ht => ?_
  dsimp only
  split
  · trivial
  · split
    all_goals split
    · trivial
    · exact State.memWf.setPart ht.formatRing
    · trivial
    · exact State.memWf.setPart ht.formatRing

@[simp] theorem execMaskset_wf (h : s.memWf) : (execMaskset s).memWf := by
  unfold execMaskset
  refine h.serveRead fun t k ht => ?_
  dsimp only
  split
  · trivial
  · split
    · trivial
    · split
      · trivial
      · exact ht.setPart

@[simp] theorem execTreeset_wf (h : s.memWf) : (execTreeset s).memWf := by
  unfold execTreeset
  refine h.serveRead fun t k ht => ?_
  dsimp only
  split
  · trivial
  · split
    · trivial
    · split
      · trivial
      · split
        · trivial
        · split
          · trivial
          · exact ht.setPart

@[simp] theorem execCpool_wf (h : s.memWf) : (execCpool s).memWf := by
  unfold execCpool
  refine h.serve fun t k ht => ?_
  dsimp only
  split
  · trivial
  · split
    · trivial
    · exact ht.setPart

@[simp] theorem State.memWf.trapStalled {uid cs} (h : s.memWf) : (s.trapStalled uid cs).memWf := by
  induction cs generalizing s with
  | nil => exact h
  | cons c cs ih =>
    unfold State.trapStalled
    refine ih ?_
    simp [h]

@[simp] theorem State.memWf.revokeKey {uid} (h : s.memWf) : (s.revokeKey uid).memWf := by
  unfold State.revokeKey
  split
  · exact h
  · exact State.memWf.enqueue (State.memWf.trapStalled h)

@[simp] theorem State.memWf.writeLines {p va kid bs n} (h : s.memWf) : (s.writeLines p va kid bs n).memWf := by
  induction n generalizing s va bs with
  | zero => exact h
  | succ n ih =>
    unfold State.writeLines
    refine ih ?_
    split
    · exact h.storeCells
    · exact h

@[simp] theorem execKimport_wf (h : s.memWf) : (execKimport s).memWf := by
  unfold execKimport
  refine h.serveRead fun t k ht => ?_
  dsimp only
  split
  · trivial
  · split
    · trivial
    · split
      · trivial
      · split
        · trivial
        · split
          · trivial
          · split
            · trivial
            · exact ht.writeLines

@[simp] theorem execKrevoke_wf (h : s.memWf) : (execKrevoke s).memWf := by
  unfold execKrevoke
  refine h.serve fun t k ht => ?_
  dsimp only
  split
  · trivial
  · split
    · trivial
    · split
      · exact ht.revokeKey
      · trivial

@[simp] theorem execKstate_wf (h : s.memWf) : (execKstate s).memWf := by
  unfold execKstate
  exact h.serve fun _ _ ht => ht

@[simp] theorem execResume_wf (h : s.memWf) : (execResume s).memWf := by
  unfold execResume
  refine h.serve fun t k ht => ?_
  dsimp only
  split
  · trivial
  · split
    · trivial
    · exact ht.setCore.wakeIdle

@[simp] theorem State.memWf.discardStrand {c enc entry} (h : s.memWf) : (s.discardStrand c enc entry).memWf := by
  unfold State.discardStrand
  exact h.setCore.placeKept.wakeIdle

@[simp] theorem State.memWf.dropStaging {r} (h : s.memWf) : (s.dropStaging r).memWf := h

@[simp] theorem State.memWf.clearTask {t} (h : s.memWf) : (s.clearTask t).memWf := by
  unfold State.clearTask
  dsimp only
  split
  · exact h.dropStaging.dropFootprint.discardStrand
  · exact h.dropStaging.dropFootprint

@[simp] theorem State.memWf.cancelConv {t} (h : s.memWf) : (s.cancelConv t).memWf := by
  unfold State.cancelConv
  exact h.clearTask.setTask.setTaskState

@[simp] theorem State.memWf.cancelConvs {ts} (h : s.memWf) : (s.cancelConvs ts).memWf := by
  induction ts generalizing s with
  | nil => exact h
  | cons t ts ih => exact ih h.cancelConv

@[simp] theorem State.memWf.resubmit {t} (h : s.memWf) : (s.resubmit t).memWf := by
  unfold State.resubmit
  exact h.put.setTask.setTaskState.enqueue

@[simp] theorem execTctl_wf (h : s.memWf) : (execTctl s).memWf := by
  unfold execTctl
  refine h.serveRead fun t k ht => ?_
  dsimp only
  split
  · trivial
  · split
    · trivial
    · split
      · exact ht.clearTask.cancelConvs.resubmit
      · exact ht.clearTask.cancelConvs.setTask.setTaskState

@[simp] theorem State.memWf.putEntry {p key e} (h : s.memWf) : (s.putEntry p key e).memWf := by
  simp [State.putEntry, h]

theorem State.memWf.tableAt {p va lvl make up tbl} (h : s.memWf) : okMemWf (s.tableAt p va lvl make up tbl) := by
  induction up generalizing s tbl with
  | zero => trivial
  | succ up ih =>
    unfold State.tableAt
    split
    · exact h
    · extract_lets idx at_ e pt new taken zeroed
      split
      · trivial
      · split
        · split
          · trivial
          · exact ih h
        · split
          · exact h
          · split
            · trivial
            · exact ih h.setPart.storeCells.putEntry

theorem State.memWf.mapLeaf {p va lvl e t} (h : s.memWf) (eq : s.mapLeaf p va lvl e = .ok t) : t.memWf := by
  have walked := h.tableAt (p := p) (va := va) (lvl := lvl) (make := e != 0) (up := 4) (tbl := (s.part p).tbl)
  unfold State.mapLeaf at eq
  split at eq
  · cases eq
  · next e => cases eq; rw [e] at walked; exact walked
  · next e =>
    rw [e] at walked
    dsimp only at eq
    split at eq <;> cases eq
    exact State.memWf.putEntry walked

@[simp] theorem State.memWf.countPath (h : s.memWf) : (s.countPath).memWf := by
  unfold State.countPath
  dsimp only
  split <;> simp [h]

@[simp] theorem execPtmap_wf (h : s.memWf) : (execPtmap s).memWf := by
  unfold execPtmap
  refine h.countPath.serve fun t k ht => ?_
  split
  · trivial
  · split
    · trivial
    · next e => exact ht.mapLeaf e

@[simp] theorem execClrst_wf {p} (h : s.memWf) : (execClrst p s).memWf := by
  unfold execClrst
  split
  · exact h.trapMe
  · split
    · exact h.waitCycle
    · exact h.setCx.clearLinks.finish

@[simp] theorem execIdle_wf {p} (h : s.memWf) : (execIdle p s).memWf := by
  unfold execIdle
  split
  · exact h.trapMe
  · exact h.endingWith fun _ ht => ht.endHandler

/-! ### Requests to Zenith -/

@[simp] theorem State.memWf.reply {x} (h : s.memWf) : (s.reply x).memWf := h

@[simp] theorem State.memWf.spdmError {r code} (h : s.memWf) : (s.spdmError r code).memWf := h

@[simp] theorem State.memWf.tdispError {r code detail} (h : s.memWf) : (s.tdispError r code detail).memWf := h

/-- The state that serving a request leaves. -/
def Served.memWf : Served → Prop
  | .done t | .wait t => t.memWf

/-- A request to Zenith keeps the form when serving it does. -/
theorem State.memWf.request {i f} (h : s.memWf) (hf : ∀ t r man, t.memWf → (f t r man).memWf) : (s.request i f).memWf := by
  unfold State.request
  split
  · exact h.outcome
  · split
    · exact h.outcome
    · next xs _ _ r man _ =>
      split
      · exact h.outcome
      · dsimp only
        split
        · exact State.memWf.outcome (State.memWf.spdmError h)
        · have served := hf { s with zen := { s.zen with inbox := xs } } r man h
          split <;> next e => rw [e] at served; exact State.memWf.outcome served

theorem State.memWf.spdm {i f} (h : s.memWf) (hf : ∀ t r b, t.memWf → (f t r b).memWf) : (s.spdm i f).memWf := by
  refine h.request fun t r _ ht => ?_
  simp only [Served.memWf]
  split
  · exact hf _ _ _ ht
  · exact ht

@[simp] theorem State.memWf.setStage {iface n} (h : s.memWf) : (s.setStage iface n).memWf := h

@[simp] theorem execGetVersion_wf (h : s.memWf) : (execGetVersion s).memWf := by
  unfold execGetVersion
  exact h.spdm fun _ _ _ ht => ht

@[simp] theorem execGetCapabilities_wf (h : s.memWf) : (execGetCapabilities s).memWf := by
  unfold execGetCapabilities
  refine h.spdm fun t r b ht => ?_
  split <;> exact ht

@[simp] theorem execNegotiateAlgorithms_wf (h : s.memWf) : (execNegotiateAlgorithms s).memWf := by
  unfold execNegotiateAlgorithms
  refine h.spdm fun t r b ht => ?_
  split <;> exact ht

theorem State.memWf.negotiated {i f} (h : s.memWf) (hf : ∀ t r b, t.memWf → (f t r b).memWf) : (s.negotiated i f).memWf := by
  refine h.spdm fun t r b ht => ?_
  simp [ht, hf]

@[simp] theorem execGetDigests_wf (h : s.memWf) : (execGetDigests s).memWf := by
  unfold execGetDigests
  exact h.negotiated fun _ _ _ ht => ht

@[simp] theorem execGetCertificate_wf (h : s.memWf) : (execGetCertificate s).memWf := by
  unfold execGetCertificate
  refine h.negotiated fun t r b ht => ?_
  dsimp only
  split <;> exact ht

@[simp] theorem execChallenge_wf (h : s.memWf) : (execChallenge s).memWf := by
  unfold execChallenge
  refine h.negotiated fun t r b ht => ?_
  dsimp only
  split <;> exact ht

@[simp] theorem execGetMeasurements_wf (h : s.memWf) : (execGetMeasurements s).memWf := by
  unfold execGetMeasurements
  refine h.negotiated fun t r b ht => ?_
  dsimp only
  split
  · exact ht
  · split
    · exact ht
    · refine State.memWf.reply ?_
      split <;> exact ht

@[simp] theorem execKeyExchange_wf (h : s.memWf) : (execKeyExchange s).memWf := by
  unfold execKeyExchange
  refine h.negotiated fun t r b ht => ?_
  split <;> exact ht

@[simp] theorem State.memWf.closeSession {n} (h : s.memWf) : (s.closeSession n).memWf := h

@[simp] theorem execFinish_wf (h : s.memWf) : (execFinish s).memWf := by
  unfold execFinish
  refine h.spdm fun t r b ht => ?_
  split
  · exact ht
  · split
    · exact ht
    · split <;> exact ht

theorem State.memWf.secured {i f} (h : s.memWf) (hf : ∀ t r b n x, t.memWf → (f t r b n x).memWf) : (s.secured i f).memWf := by
  refine h.spdm fun t r b ht => ?_
  split <;> simp [ht, hf]

@[simp] theorem execKeyUpdate_wf (h : s.memWf) : (execKeyUpdate s).memWf := by
  unfold execKeyUpdate
  refine h.secured fun t r b n x ht => ?_
  dsimp only
  split <;> exact ht

@[simp] theorem execHeartbeat_wf (h : s.memWf) : (execHeartbeat s).memWf := by
  unfold execHeartbeat
  exact h.secured fun _ _ _ _ _ ht => ht

@[simp] theorem execEndSession_wf (h : s.memWf) : (execEndSession s).memWf := by
  unfold execEndSession
  exact h.secured fun _ _ _ _ _ ht => ht

@[simp] theorem execUnsupportedRequest_wf (h : s.memWf) : (execUnsupportedRequest s).memWf := by
  unfold execUnsupportedRequest
  refine h.request fun t r _ ht => ?_
  dsimp only [Served.memWf]
  split
  · exact ht
  · exact ht
  · split <;> exact ht

theorem State.memWf.tdisp {i f} (h : s.memWf) (hf : ∀ t r n pt, t.memWf → (f t r n pt).memWf) : (s.tdisp i f).memWf := by
  refine h.request fun t r _ ht => ?_
  dsimp only [Served.memWf]
  repeat' split
  all_goals simp [ht, hf]

@[simp] theorem State.memWf.resetStream {st} (h : s.memWf) : (s.resetStream st).memWf := h

@[simp] theorem execLockInterfaceRequest_wf (h : s.memWf) : (execLockInterfaceRequest s).memWf := by
  unfold execLockInterfaceRequest
  refine h.tdisp fun t r p pt ht => ?_
  split
  · exact ht
  · split
    · exact ht
    · split <;> exact ht

@[simp] theorem execStartInterfaceRequest_wf (h : s.memWf) : (execStartInterfaceRequest s).memWf := by
  unfold execStartInterfaceRequest
  refine h.tdisp fun t r p pt ht => ?_
  split
  · exact ht
  · split <;> exact ht

@[simp] theorem State.memWf.freeStreams {iface} (h : s.memWf) : (s.freeStreams iface).memWf := h

@[simp] theorem execStopInterfaceRequest_wf (h : s.memWf) : (execStopInterfaceRequest s).memWf := by
  unfold execStopInterfaceRequest
  exact h.tdisp fun _ _ _ _ ht => ht

@[simp] theorem execGetDeviceInterfaceReport_wf (h : s.memWf) : (execGetDeviceInterfaceReport s).memWf := by
  unfold execGetDeviceInterfaceReport
  refine h.tdisp fun t r p pt ht => ?_
  split <;> exact ht

/-- The state that a vendor-defined request leaves, when it does not leave the one before it. -/
def Verdict.memWf : Verdict → Prop
  | .ok t _ | .fail t _ | .wait t => t.memWf
  | .refuse _ => True

@[simp] theorem Verdict.memWf_ok {t : State} {res} : (Verdict.ok t res).memWf ↔ t.memWf := Iff.rfl
@[simp] theorem Verdict.memWf_fail {t : State} {st} : (Verdict.fail t st).memWf ↔ t.memWf := Iff.rfl
@[simp] theorem Verdict.memWf_wait {t : State} : (Verdict.wait t).memWf ↔ t.memWf := Iff.rfl
@[simp] theorem Verdict.memWf_refuse {st} : (Verdict.refuse st).memWf := trivial

/-- A vendor-defined request keeps the form when the verdict on every request it judges does. -/
theorem State.memWf.vendor {i len bad chan f} (h : s.memWf) (hf : ∀ t r b man, t.memWf → (f t r b man).memWf) :
    (s.vendor i len bad chan f).memWf := by
  refine h.request fun t r man ht => ?_
  dsimp only
  split
  · next std vid b _ =>
    have judged := hf t r b man ht
    split
    · exact ht
    · split
      · exact ht
      · split
        · exact ht
        · split
          · next e => rw [e] at judged; exact judged
          · exact ht
          · next e => rw [e] at judged; exact judged
          · next e => rw [e] at judged; exact judged
  · exact ht

@[simp] theorem State.memWf.addKey {k} (h : s.memWf) : (s.addKey k).memWf := h

@[simp] theorem execKeyReload_wf (h : s.memWf) : (execKeyReload s).memWf := by
  unfold execKeyReload
  split
  · split
    · exact h.setMe.outcome
    · split
      · exact h.setMe.outcome
      · split
        · exact h.enqueue.outcome
        · next e =>
          have roomy := h.keyRoom e
          exact State.memWf.outcome (State.memWf.setMe roomy)
  · exact h.outcome

@[simp] theorem execKeyInvalidationComplete_wf (h : s.memWf) : (execKeyInvalidationComplete s).memWf := by
  unfold execKeyInvalidationComplete
  split <;> simp [h]

theorem State.memWf.keyProg {r b} (h : s.memWf) : (s.keyProg r b).memWf := by
  unfold State.keyProg
  dsimp only
  split
  · trivial
  · split
    · trivial
    · split
      · trivial
      · split
        · trivial
        · split
          · exact h
          · next e =>
            have roomy := h.keyRoom e
            exact State.memWf.addKey roomy

@[simp] theorem execKeyProg_wf (h : s.memWf) : (execKeyProg s).memWf := by
  unfold execKeyProg
  exact h.vendor fun _ _ _ _ ht => ht.keyProg

theorem State.keyRequest_wf {b f} (hf : ∀ uid k, (f uid k).memWf) : (s.keyRequest b f).memWf := by
  unfold State.keyRequest
  dsimp only
  split
  · trivial
  · split
    · trivial
    · exact hf _ _

@[simp] theorem State.memWf.setKeySt {uid k st} (h : s.memWf) : (s.setKeySt uid k st).memWf := h

@[simp] theorem execKeyActivate_wf (h : s.memWf) : (execKeyActivate s).memWf := by
  unfold execKeyActivate
  refine h.vendor fun t r b _ ht => State.keyRequest_wf fun uid k => ?_
  dsimp only
  split
  · trivial
  · split
    · trivial
    · exact ht

@[simp] theorem execKeyRetire_wf (h : s.memWf) : (execKeyRetire s).memWf := by
  unfold execKeyRetire
  refine h.vendor fun t r b _ ht => State.keyRequest_wf fun uid k => ?_
  split
  · trivial
  · exact ht

@[simp] theorem execKeyRevoke_wf (h : s.memWf) : (execKeyRevoke s).memWf := by
  unfold execKeyRevoke
  refine h.vendor fun t r b _ ht => State.keyRequest_wf fun uid k => ?_
  split
  · exact ht
  · split
    · exact ht.revokeKey
    · trivial

theorem State.memWf.debugCtl {i bad f} (h : s.memWf) (hf : ∀ t b p e, t.memWf → (f t b p e).memWf) :
    (s.debugCtl i bad f).memWf := by
  unfold State.debugCtl
  refine h.vendor fun t _ b _ ht => ?_
  dsimp only
  split
  · trivial
  · split
    · trivial
    · exact hf _ _ _ _ ht

@[simp] theorem State.memWf.resumeHalted {e cs} (h : s.memWf) : (s.resumeHalted e cs).memWf := by
  induction cs generalizing s with
  | nil => exact h
  | cons c cs ih =>
    unfold State.resumeHalted
    refine ih ?_
    simp [h]

@[simp] theorem execDebugDisable_wf (h : s.memWf) : (execDebugDisable s).memWf := by
  unfold execDebugDisable
  exact h.debugCtl fun _ _ _ _ ht => ht.resumeHalted

@[simp] theorem execDebugEnable_wf (h : s.memWf) : (execDebugEnable s).memWf := by
  unfold execDebugEnable
  refine h.debugCtl fun t b p e ht => ?_
  dsimp only
  split
  · trivial
  · exact ht

@[simp] theorem execDebugResume_wf (h : s.memWf) : (execDebugResume s).memWf := by
  unfold execDebugResume
  refine h.debugCtl fun t b p e ht => ?_
  split
  · trivial
  · exact ht

@[simp] theorem execDebugReadRegister_wf (h : s.memWf) : (execDebugReadRegister s).memWf := by
  unfold execDebugReadRegister
  refine h.debugCtl fun t b p e ht => ?_
  split
  · trivial
  · dsimp only
    split <;> exact ht

@[simp] theorem execDebugWriteRegister_wf (h : s.memWf) : (execDebugWriteRegister s).memWf := by
  unfold execDebugWriteRegister
  refine h.debugCtl fun t b p e ht => ?_
  split
  · trivial
  · exact ht

/-! ### Partitions -/

@[simp] theorem State.memWf.attachWorkspaces {c xs} (h : s.memWf) : (s.attachWorkspaces c xs).memWf := by
  induction xs generalizing s with
  | nil => exact h
  | cons x xs ih =>
    unfold State.attachWorkspaces
    split
    · exact ih h.attach
    · exact h

@[simp] theorem State.memWf.join {p encs members c lnum} (h : s.memWf) : (s.join p encs members c lnum).memWf := by
  simp [State.join, h]

@[simp] theorem State.memWf.joinAll {p encs members cs} (h : s.memWf) : (s.joinAll p encs members cs).memWf := by
  induction cs generalizing s with
  | nil => exact h
  | cons c cs ih => exact ih h.join

theorem State.memWf.partCreate {b} (h : s.memWf) : (s.partCreate b).memWf := by
  unfold State.partCreate
  dsimp only
  split
  · trivial
  · split
    · trivial
    · split
      · trivial
      · split
        · trivial
        · split
          · exact h
          · split
            · exact h
            · next e =>
              have roomy := h.keyRoom e
              exact State.memWf.joinAll (State.memWf.zeroRange (State.memWf.setPart (State.memWf.addKey roomy)))

@[simp] theorem execPartCreate_wf (h : s.memWf) : (execPartCreate s).memWf := by
  unfold execPartCreate
  exact h.vendor fun _ _ _ _ ht => ht.partCreate

@[simp] theorem State.memWf.scrubField {c} (h : s.memWf) : (s.scrubField c).memWf := h

@[simp] theorem State.memWf.revokeHeld {c} (h : s.memWf) : (s.revokeHeld c).memWf :=
  State.foldl_wf (fun _ _ ht => ht.revokeBank) _ h

@[simp] theorem State.memWf.leave {c} (h : s.memWf) : (s.leave c).memWf := by
  unfold State.leave
  exact h.revokeHeld.clearLinks.scrubField.setCore

@[simp] theorem State.memWf.leaveAll {cs} (h : s.memWf) : (s.leaveAll cs).memWf := by
  induction cs generalizing s with
  | nil => exact h
  | cons c cs ih => exact ih h.leave

@[simp] theorem State.memWf.revokeKeys {p tenant} (h : s.memWf) : (s.revokeKeys p tenant).memWf :=
  State.foldl_wf (fun _ _ ht => ht.revokeKey) _ h

@[simp] theorem State.memWf.revokeBanks {p} (h : s.memWf) : (s.revokeBanks p).memWf :=
  State.foldl_wf (fun _ _ ht => ht.revokeBank) _ h

@[simp] theorem State.memWf.partDestroy {p} (h : s.memWf) : (s.partDestroy p).memWf := by
  have left : ((State.revokeBanks { s with flight := s.flight.filter (fun x => instrPart x.2 != some p) } p).leaveAll
      (s.part p).members).memWf := State.memWf.leaveAll (State.memWf.revokeBanks h)
  exact State.memWf.revokeKeys left

@[simp] theorem execPartDestroy_wf (h : s.memWf) : (execPartDestroy s).memWf := by
  unfold execPartDestroy
  refine h.vendor fun t _ b _ ht => ?_
  dsimp only
  split
  · trivial
  · exact ht.partDestroy

@[simp] theorem State.memWf.restay {p members c lnum} (h : s.memWf) : (s.restay p members c lnum).memWf := h

@[simp] theorem State.memWf.restayAll {p members cs} (h : s.memWf) : (s.restayAll p members cs).memWf := by
  induction cs generalizing s with
  | nil => exact h
  | cons c cs ih => exact ih h.restay

@[simp] theorem State.memWf.dropConts {p} (h : s.memWf) : (s.dropConts p).memWf := by
  unfold State.dropConts
  refine State.memWf.setPart (State.foldl_wf (fun t x ht => ?_) _ h)
  dsimp only
  split
  · split
    · exact ht
    · exact ht.setCell
  · exact ht

@[simp] theorem State.memWf.rebuild {p out} (h : s.memWf) : (s.rebuild p out).memWf := by
  have dropped : (State.dropConts { s with flight := s.flight.filter (survives p) } p).memWf := State.memWf.dropConts h
  unfold State.rebuild
  exact State.memWf.restayAll (State.memWf.setPart (State.memWf.leaveAll dropped))

@[simp] theorem execPartRebuild_wf (h : s.memWf) : (execPartRebuild s).memWf := by
  unfold execPartRebuild
  refine h.vendor fun t _ b _ ht => ?_
  dsimp only
  split
  · trivial
  · split
    · exact ht
    · exact ht.rebuild

@[simp] theorem State.memWf.resumeAll {cs} (h : s.memWf) : (s.resumeAll cs).memWf := by
  induction cs generalizing s with
  | nil => exact h
  | cons c cs ih =>
    unfold State.resumeAll
    refine ih ?_
    split
    · exact h.setCore.wakeIdle
    · exact h

@[simp] theorem execPartResume_wf (h : s.memWf) : (execPartResume s).memWf := by
  unfold execPartResume
  refine h.vendor fun t _ b _ ht => ?_
  dsimp only
  split
  · trivial
  · exact ht.resumeAll

theorem State.memWf.imagePage {p va t key} (h : s.memWf) (e : s.imagePage p va = some (t, key)) : t.memWf := by
  unfold State.imagePage at e
  dsimp only at e
  split at e
  · cases e
    exact h
  · split at e <;> cases e
    exact h

@[simp] theorem State.memWf.extendBlock5 {p} (h : s.memWf) : (s.extendBlock5 p).memWf := by
  simp [State.extendBlock5, h]

@[simp] theorem State.memWf.install {p m} (h : s.memWf) : (s.install p m).memWf := by
  unfold State.install
  refine State.foldl_wf (fun t x ht => ?_) _ (State.foldl_wf (fun _ _ hu => ?_) _ h)
  · dsimp only
    split
    · exact ht
    · split
      · exact ht
      · split
        · exact ht.attach
        · exact ht
  · exact hu

theorem State.memWf.imgLoad {b man} (h : s.memWf) : (s.imgLoad b man).memWf := by
  unfold State.imgLoad
  dsimp only
  split
  · trivial
  · split
    · exact h
    · split
      · exact h
      · split
        · trivial
        · next e =>
          have paged := h.useKey.imagePage e
          split
          · trivial
          · next e =>
            have mapped := paged.mapLeaf e
            split
            · simp [mapped]
            · simp only [Verdict.memWf_ok]
              split
              · exact mapped.storeCells.setPart.extendBlock5.install
              · exact mapped.storeCells.setPart.extendBlock5

@[simp] theorem execImgLoad_wf (h : s.memWf) : (execImgLoad s).memWf := by
  unfold execImgLoad
  exact h.vendor fun _ _ _ _ ht => ht.imgLoad

@[simp] theorem execBankRelease_wf (h : s.memWf) : (execBankRelease s).memWf := by
  unfold execBankRelease
  refine h.vendor fun t _ b _ ht => ?_
  dsimp only
  split
  · exact ht
  · trivial

@[simp] theorem execMeasLog_wf (h : s.memWf) : (execMeasLog s).memWf := by
  unfold execMeasLog
  refine h.vendor fun t _ b _ ht => ?_
  dsimp only
  split
  · trivial
  · exact ht

@[simp] theorem State.memWf.hostDrop {p} (h : s.memWf) : (s.hostDrop p).memWf := h

@[simp] theorem State.memWf.reportHost {p r} (h : s.memWf) : (s.reportHost p r).memWf := by
  unfold State.reportHost
  dsimp only
  split
  · split
    · next e =>
      have written := h.writeFault e
      exact State.memWf.flushKept written
    · refine State.memWf.noteFull ?_
      split
      · exact h.countCtl
      · exact h.countCtl
  · split <;> exact h

@[simp] theorem State.memWf.hostStrand {p q r} (h : s.memWf) : (s.hostStrand p q r).memWf := by
  unfold State.hostStrand
  dsimp only
  split
  · exact h
  · split
    · exact h
    · split
      · exact h.reportHost
      · exact h

@[simp] theorem State.memWf.hostWrite {w} (h : s.memWf) : (s.hostWrite w).memWf := by
  simp [State.hostWrite, h]

@[simp] theorem execHostSubmit_wf (h : s.memWf) : (execHostSubmit s).memWf := by
  unfold execHostSubmit
  split <;> simp [h]

/-! ### The device -/

@[simp] theorem State.memWf.fatalDevice {site} (h : s.memWf) : (s.fatalDevice site).memWf := by
  unfold State.fatalDevice
  exact State.memWf.event h

@[simp] theorem State.memWf.freeze {b} (h : s.memWf) : (s.freeze b).memWf := h

@[simp] theorem State.memWf.fatalCore {c} (h : s.memWf) : (s.fatalCore c).memWf := by
  unfold State.fatalCore
  dsimp only
  split
  · exact h
  · refine State.memWf.lifeAdd (State.memWf.event ?_)
    exact State.foldl_wf (fun _ _ ht => ht.freeze) _ h

@[simp] theorem execDirectoryOverflow_wf (h : s.memWf) : (execDirectoryOverflow s).memWf := by
  simp [execDirectoryOverflow, h]

@[simp] theorem State.memWf.corrected {k} (h : s.memWf) : (s.corrected k).memWf := by
  unfold State.corrected
  split <;> simp [h]

@[simp] theorem execCorrectedError_wf (h : s.memWf) : (execCorrectedError s).memWf := by
  unfold execCorrectedError
  split <;> simp [h]

@[simp] theorem execClockStretch_wf (h : s.memWf) : (execClockStretch s).memWf := by
  unfold execClockStretch
  split <;> simp [h]

@[simp] theorem State.memWf.sense {die temp droop} (h : s.memWf) : (s.sense die temp droop).memWf := by
  simp [State.sense, h]

@[simp] theorem execEvtailWrite_wf (h : s.memWf) : (execEvtailWrite s).memWf := by
  unfold execEvtailWrite
  split <;> simp [h]

@[simp] theorem execLifetimeRead_wf (h : s.memWf) : (execLifetimeRead s).memWf := by
  unfold execLifetimeRead
  exact h.vendor fun _ _ _ _ ht => ht

@[simp] theorem State.memWf.flushLife (h : s.memWf) : (s.flushLife).memWf := h

@[simp] theorem execLifetimeFlush_wf (h : s.memWf) : (execLifetimeFlush s).memWf := by
  simp [execLifetimeFlush, h]

@[simp] theorem State.memWf.reportTests {cs} (h : s.memWf) : (s.reportTests cs).memWf := by
  induction cs generalizing s with
  | nil => exact h
  | cons c cs ih => exact ih h.event.lifeAdd

@[simp] theorem State.memWf.boot {map} (h : s.memWf) : (s.boot map).memWf := h

@[simp] theorem State.memWf.powerOn (h : s.memWf) : s.powerOn.memWf := by
  unfold State.powerOn
  extract_lets n off started map bad failed tested
  have off_wf : started.memWf := h.off
  have tested_wf : tested.memWf := State.memWf.reportTests (cs := bad) (State.memWf_of_eq off_wf rfl rfl)
  split
  · exact off_wf.fatalDevice
  · split
    · exact tested_wf.fatalDevice
    · exact tested_wf.boot

@[simp] theorem State.memWf.setSub {stream sub x} (h : s.memWf) : (s.setSub stream sub x).memWf := h

@[simp] theorem State.memWf.checkSub {stream sub} (h : s.memWf) : (s.checkSub stream sub).memWf := by
  simp [State.checkSub, h]

@[simp] theorem State.memWf.tlps {stream sub n} (h : s.memWf) : (s.tlps stream sub n).memWf := by
  simp [State.tlps, h]

@[simp] theorem execIdeThresh_wf (h : s.memWf) : (execIdeThresh s).memWf := by
  unfold execIdeThresh
  exact h.vendor fun _ _ _ _ ht => ht.setSub.checkSub

@[simp] theorem State.memWf.ideKey {stream sub set key} (h : s.memWf) : (s.ideKey stream sub set key).memWf := h

@[simp] theorem execKSetGo_wf (h : s.memWf) : (execKSetGo s).memWf := by
  unfold execKSetGo
  split <;> simp [h]

@[simp] theorem execIdeRekeyDue_wf (h : s.memWf) : (execIdeRekeyDue s).memWf := by
  unfold execIdeRekeyDue
  split <;> simp [h]

@[simp] theorem State.memWf.ifaceError {iface} (h : s.memWf) : (s.ifaceError iface).memWf := by
  simp [State.ifaceError, h]

@[simp] theorem execIdeInsecure_wf (h : s.memWf) : (execIdeInsecure s).memWf := by
  unfold execIdeInsecure
  dsimp only
  repeat' split
  all_goals simp [h]

@[simp] theorem execAtsInvalidation_wf (h : s.memWf) : (execAtsInvalidation s).memWf := by
  unfold execAtsInvalidation
  split <;> simp [h]

@[simp] theorem execAtsInvalidationComplete_wf (h : s.memWf) : (execAtsInvalidationComplete s).memWf := by
  unfold execAtsInvalidationComplete
  split <;> simp [h]

@[simp] theorem execCirrusLinkBringup_wf (h : s.memWf) : (execCirrusLinkBringup s).memWf := by
  unfold execCirrusLinkBringup
  split <;> simp [h]

/-! ### Vectors -/

@[simp] theorem State.memWf.elemInstr {p cls d g} (h : s.memWf) : (s.elemInstr p cls d g).memWf := by
  unfold State.elemInstr
  dsimp only
  split <;> simp [h]

@[simp] theorem State.memWf.vec3 {p cls d a b g} (h : s.memWf) : (s.vec3 p cls d a b g).memWf := by
  simp [State.vec3, h]

@[simp] theorem State.memWf.vec2 {p cls d a g} (h : s.memWf) : (s.vec2 p cls d a g).memWf := by
  simp [State.vec2, h]

@[simp] theorem execVsel_wf {p d a b} (h : s.memWf) : (execVsel p d a b s).memWf := by
  unfold execVsel
  dsimp only
  split <;> simp [h]

@[simp] theorem State.memWf.vfun {p d a g} (h : s.memWf) : (s.vfun p d a g).memWf := by
  simp [State.vfun, h]

@[simp] theorem State.memWf.vcmp {p d a b ri rf} (h : s.memWf) : (s.vcmp p d a b ri rf).memWf := by
  unfold State.vcmp
  dsimp only
  split <;> simp [h]

@[simp] theorem State.memWf.vmove {p d a ix} (h : s.memWf) : (s.vmove p d a ix).memWf := by
  simp [State.vmove, h]

@[simp] theorem execVget_wf {p d a} (h : s.memWf) : (execVget p d a s).memWf := by
  unfold execVget
  dsimp only
  split <;> simp [h]

@[simp] theorem State.memWf.reduce {p cls d a g} (h : s.memWf) : (s.reduce p cls d a g).memWf := by
  unfold State.reduce
  dsimp only
  split <;> simp [h]

@[simp] theorem execVscan_wf {p d a} (h : s.memWf) : (execVscan p d a s).memWf := by
  unfold execVscan
  dsimp only
  split <;> simp [h]

@[simp] theorem State.memWf.convert {p d a limit rb} (h : s.memWf) : (s.convert p d a limit rb).memWf := by
  unfold State.convert
  dsimp only
  repeat' split
  all_goals simp [h]

@[simp] theorem execVqnt_wf {p d a b} (h : s.memWf) : (execVqnt p d a b s).memWf := by
  unfold execVqnt
  dsimp only
  repeat' split
  all_goals simp [h]

@[simp] theorem execVdq_wf {p d a b} (h : s.memWf) : (execVdq p d a b s).memWf := by
  unfold execVdq
  dsimp only
  repeat' split
  all_goals simp [h]

@[simp] theorem State.memWf.setMask {p d x} (h : s.memWf) : (s.setMask p d x).memWf := by
  simp [State.setMask, h]

/-! ### Tiles -/

@[simp] theorem execTcfg_wf {p d a} (h : s.memWf) : (execTcfg p d a s).memWf := by
  simp [execTcfg, h]

@[simp] theorem execTfill_wf {p d pat} (h : s.memWf) : (execTfill p d pat s).memWf := by
  unfold execTfill
  dsimp only
  split <;> simp [h]

@[simp] theorem execTtr_wf {p d a} (h : s.memWf) : (execTtr p d a s).memWf := by
  unfold execTtr
  dsimp only
  split <;> simp [h]

theorem State.memWf.fromAcc {d scaled go} (h : s.memWf) (hg : ∀ f off, (go f off).memWf) : (s.fromAcc d scaled go).memWf := by
  unfold State.fromAcc
  dsimp only
  split
  · exact h.trapMe
  · split
    · exact h.trapMe
    · split
      · exact h.trapMe
      · exact hg _ _

@[simp] theorem execAcvt_wf {p d a} (h : s.memWf) : (execAcvt p d a s).memWf := by
  unfold execAcvt
  exact h.fromAcc fun _ _ => h.setCx.finish

@[simp] theorem execTqnt_wf {p d a} (h : s.memWf) : (execTqnt p d a s).memWf := by
  unfold execTqnt
  exact h.fromAcc fun _ _ => h.setCx.finish

theorem State.memWf.bankMove {addr check go} (h : s.memWf) (hg : go.memWf) : (s.bankMove addr check go).memWf := by
  unfold State.bankMove
  split
  · exact h.trapMe
  · split
    · exact h.waitCycle
    · exact h.trapMe
    · exact hg

@[simp] theorem execTldl_wf {p d a off} (h : s.memWf) : (execTldl p d a off s).memWf := by
  unfold execTldl
  exact h.bankMove h.setCx.finish

@[simp] theorem execTstl_wf {p d a off} (h : s.memWf) : (execTstl p d a off s).memWf := by
  unfold execTstl
  exact h.bankMove h.localWrite.finish

@[simp] theorem execAldl_wf {p d a off} (h : s.memWf) : (execAldl p d a off s).memWf := by
  unfold execAldl
  exact h.bankMove h.setCx.finish

@[simp] theorem execAstl_wf {p d a off} (h : s.memWf) : (execAstl p d a off s).memWf := by
  unfold execAstl
  exact h.bankMove h.localWrite.finish

@[simp] theorem State.memWf.mma {p op s_ ta tb} (h : s.memWf) : (s.mma p op s_ ta tb).memWf := by
  unfold State.mma
  dsimp only
  split <;> simp [h]

@[simp] theorem execMmam_wf {p c a} (h : s.memWf) : (execMmam p c a s).memWf := by
  unfold execMmam
  refine h.bankMove ?_
  dsimp only
  split
  · exact h.trapMe
  · split
    · exact h.waitCycle
    · split
      · exact h.trapMe
      · split
        · exact h.trapMe
        · exact h.setCx.setMe.enqueue.waitFor

@[simp] theorem State.memWf.mmamFault {cause faddr} (h : s.memWf) : (s.mmamFault cause faddr).memWf := by
  simp [State.mmamFault, h]

@[simp] theorem State.memWf.mmamEnd {p m} (h : s.memWf) : (s.mmamEnd p m).memWf := by
  unfold State.mmamEnd
  split <;> simp [h]

@[simp] theorem State.memWf.mmamStep {m pa pb} (h : s.memWf) : (s.mmamStep m pa pb).memWf := by
  unfold State.mmamStep
  dsimp only
  split
  · exact h.trap
  · exact h.setCx.setMe.enqueue

@[simp] theorem execMmamStep_wf (h : s.memWf) : (execMmamStep s).memWf := by
  unfold execMmamStep
  dsimp only
  repeat' split
  all_goals simp [h]

/-! ### Plans -/

theorem State.memWf.page5 {go} (h : s.memWf) (hg : go.memWf) : (s.page5 go).memWf := by
  unfold State.page5
  split
  · exact h.waitCycle
  · exact hg

@[simp] theorem execPload_wf {p pair c b} (h : s.memWf) : (execPload p pair c b s).memWf := by
  unfold execPload
  refine h.page5 ?_
  split
  · exact h.trapMe
  · dsimp only
    split
    · exact h.trapMe
    · exact h.setCx.finish

@[simp] theorem State.memWf.twoVectors {p d a f} (h : s.memWf) : (s.twoVectors p d a f).memWf := by
  unfold State.twoVectors
  exact h.page5 (h.bankMove (h.bankMove h.setCx.finish))

@[simp] theorem execPmovToBank_wf {p d x} (h : s.memWf) : (execPmovToBank p d x s).memWf := by
  unfold execPmovToBank
  exact h.page5 (h.bankMove h.localWrite.finish)

@[simp] theorem execPmovFromBank_wf {p x a} (h : s.memWf) : (execPmovFromBank p x a s).memWf := by
  unfold execPmovFromBank
  exact h.page5 (h.bankMove h.setCx.finish)

@[simp] theorem State.memWf.startBal {p pair full phase} (h : s.memWf) : (s.startBal p pair full phase).memWf := by
  unfold State.startBal
  refine h.page5 ?_
  dsimp only
  split
  · exact h.trapMe
  · exact h.setMe.enqueue.finish

@[simp] theorem execBalSweep_wf (h : s.memWf) : (execBalSweep s).memWf := by
  unfold execBalSweep
  dsimp only
  split <;> simp [h]

@[simp] theorem execPstat_wf {p d} (h : s.memWf) : (execPstat p d s).memWf := by
  unfold execPstat
  exact h.page5 h.setMe.finish

@[simp] theorem execPmat_wf {p d pair} (h : s.memWf) : (execPmat p d pair s).memWf := by
  unfold execPmat
  refine h.page5 ?_
  dsimp only
  split
  · exact h.trapMe
  · split
    · exact h.trapMe
    · split
      · exact h.trapMe
      · split
        · exact h.trapMe
        · exact h.setCx.finish

@[simp] theorem execPdist_wf {p d pair c} (h : s.memWf) : (execPdist p d pair c s).memWf := by
  unfold execPdist
  refine h.page5 ?_
  dsimp only
  split
  · exact h.trapMe
  · split
    · exact h.trapMe
    · split
      · exact h.trapMe
      · exact h.setCx.setMe.finish

/-! ### Memory instructions -/

@[simp] theorem State.memWf.load {p d a loc off n sgn} (h : s.memWf) : (s.load p d a loc off n sgn).memWf := by
  unfold State.load
  dsimp only
  repeat' split
  all_goals simp [h]

@[simp] theorem State.memWf.store {p d a loc off n} (h : s.memWf) : (s.store p d a loc off n).memWf := by
  unfold State.store
  dsimp only
  repeat' split
  all_goals simp [h]

@[simp] theorem State.memWf.atomic {p op d a} (h : s.memWf) : (s.atomic p op d a).memWf := by
  unfold State.atomic
  dsimp only
  repeat' split
  all_goals simp [h]

/-! ### Vector accesses -/

@[simp] theorem State.memWf.vloadGlobal {p d va bs base mask} (h : s.memWf) : (s.vloadGlobal p d va bs base mask).memWf := by
  simp [State.vloadGlobal, h]

@[simp] theorem execVld_wf {p d a loc off} (h : s.memWf) : (execVld p d a loc off s).memWf := by
  unfold execVld
  dsimp only
  repeat' split
  all_goals simp [h]

@[simp] theorem execVst_wf {p d a loc off} (h : s.memWf) : (execVst p d a loc off s).memWf := by
  unfold execVst
  dsimp only
  repeat' split
  all_goals simp [h]

theorem State.memWf.gatherScatter {want a b go} (h : s.memWf) (hg : ∀ f bs, (go f bs).memWf) :
    (s.gatherScatter want a b go).memWf := by
  unfold State.gatherScatter
  dsimp only
  split
  · exact h.trapMe
  · split
    · exact h.trapMe
    · split
      · exact h.trapMe
      · exact Res.memWf_fault _
      · exact h.waitCycle
      · exact hg _ _

@[simp] theorem execVgth_wf {p d a b} (h : s.memWf) : (execVgth p d a b s).memWf := by
  unfold execVgth
  exact h.gatherScatter fun _ _ => h.vloadGlobal

@[simp] theorem execVsct_wf {p d a b} (h : s.memWf) : (execVsct p d a b s).memWf := by
  unfold execVsct
  exact h.gatherScatter fun _ _ => h.globalStore

/-! ### Instructions -/

/-- Every instruction, step and event keeps the form: those named here are one shared operation of the state, and each of the
others has its lemma above. -/
theorem exec_wf (i : Instr) (h : s.memWf) : Res.memWf (exec i s) := by
  cases i
  all_goals simp [exec, h,
    execNop, execCyc, execLea, execLi, execFence, execKpop, execKfirst, execTrdc, execTz, execAclr, execCpos,
    execStall, execJ, execJl, execLoop, execTrap, execIllegalSequence, execRdc, execRdcSbcnt, execRdcKmc, execWrc,
    execWrcWp, execWrcVtype, execWrcBs, execWrcSmc, execWrcFmt, execAdd, execSub, execAnd, execOr, execXor, execMul,
    execSll, execSrl, execSlt, execSltu, execSra, execRor, execMulh, execMulhu, execDiv, execDivu, execRem,
    execRemu, execMin, execMax, execMinu, execMaxu, execSeq, execSne, execAndn, execMov, execNeg, execNot, execClz,
    execCtz, execPopc, execBrev, execBswap, execSextb, execSexth, execSextw, execZextb, execZexth, execZextw,
    execAddi, execAndi, execOri, execXori, execSlli, execSrli, execSrai, execSlti, execSeqi, execLdb, execLdbu,
    execLdh, execLdhu, execLdw, execLdwu, execLd, execStb, execSth, execStw, execSt, execSwp, execCas, execAadd,
    execAand, execAor, execAxor, execAmin, execAmax, execAminu, execAmaxu, execBz, execBnz, execBltz, execBgez,
    execVadd, execVsub, execVmul, execVmin, execVmax, execVand, execVor, execVxor, execVabs, execVneg, execVnot,
    execVmov, execVfma, execVsplat, execVcmpeq, execVcmplt, execVcmple, execVcmpne, execVsll, execVsrl, execVsra,
    execVandn, execVadds, execVsubs, execVsat, execVperm, execVbcast, execVrot, execVrsum, execVrmax, execVrmin,
    execVlse, execVexp2, execVlog2, execVrcp, execVrsq, execVcvt, execVcvtr, execKand, execKor, execKxor, execKnot,
    execKmov, execKset, execKclr, execMma, execMmas, execMmab, execSend, execSendm, execSpawn, execSendq, execHand,
    execHandx, execCpy, execCpyw, execCpym, execPsetm, execPsets, execBal, execBalx, execFifoArrival,
    execRankedArrival, execLinkCreditReturn, execFetchFault, execNextAction, execHeadAging, execCopyLine,
    execFatalCoreError, execMeshLinkFailure, execThermalTrip, execPowerOn, execPowerDown, execLossOfPower]

/-! ### What is under way -/

theorem State.memWf.takeFlight {k t i pre} (h : s.memWf) (e : s.takeFlight k = some (t, i, pre)) : t.memWf := by
  unfold State.takeFlight at e
  split at e <;> cases e
  exact h

/-! ### Issue -/

@[simp] theorem State.memWf.fetched {n} (h : s.memWf) : (s.fetched n).memWf := h

@[simp] theorem State.memWf.fetchFailed {j} (h : s.memWf) : (s.fetchFailed j).memWf := by
  unfold State.fetchFailed
  dsimp only
  split
  · exact h.fetched.outcome
  · exact h.fetched.waitCycle
  · exact Res.memWf_fault _
  · exact h.fetched.keyMiss
  · split
    · exact exec_wf _ h.fetched
    · exact exec_wf _ h.fetched

@[simp] theorem State.memWf.produced {c old found i} (h : s.memWf) : (s.produced c old found i).memWf := by
  simp [State.produced, h]

@[simp] theorem State.memWf.runInstr {i} (h : s.memWf) : (s.runInstr i).memWf := by
  have ran := exec_wf i h
  unfold State.runInstr
  split
  · next t e => exact State.memWf.outcome (State.memWf.produced (ran t e))
  · exact ran

@[simp] theorem State.memWf.runCounted {i} (h : s.memWf) : (s.runCounted i).memWf := by
  have ran := h.runInstr (i := i)
  unfold State.runCounted
  split
  · next t e =>
    have ht := ran t e
    simp [ht]
  · exact ran

@[simp] theorem State.memWf.stale {xs} (h : s.memWf) : (s.stale xs).memWf := by
  induction xs generalizing s with
  | nil => exact h
  | cons x xs ih =>
    unfold State.stale
    refine ih ?_
    simp [h]

@[simp] theorem State.memWf.runStale {i us} (h : s.memWf) : (s.runStale i us).memWf := by
  have ran := exec_wf i (h.stale (xs := us))
  unfold State.runStale
  dsimp only
  split
  · next t e => exact State.memWf.outcome (State.memWf.produced (State.memWf.setCore (ran t e)))
  · exact ran

@[simp] theorem State.memWf.issueInstr {i} (h : s.memWf) : (s.issueInstr i).memWf := by
  simp [State.issueInstr, h]

@[simp] theorem State.memWf.issueDecoded {r} (h : s.memWf) : (s.issueDecoded r).memWf := by
  cases r with
  | ok i n => exact h.fetched.issueInstr
  | illegal d inPlace => exact exec_wf (.illegalSequence d none inPlace) h
  | fetchFail j => exact h.fetchFailed

@[simp] theorem State.memWf.fetchOne {c} (h : s.memWf) : (s.fetchOne c).memWf := by
  unfold State.fetchOne
  dsimp only
  repeat' split
  all_goals simp [h]

@[simp] theorem State.memWf.issue {c} (h : s.memWf) : (s.issue c).memWf := by
  have here : ({ s with cur := c } : State).memWf := h
  unfold State.issue
  dsimp only
  split
  · exact here.outcome
  · split
    · exact exec_wf _ here
    · exact here.issueDecoded

/-! ### Turns -/

@[simp] theorem State.memWf.passCore {c n} (h : s.memWf) : (s.passCore c n).memWf := by
  unfold State.passCore
  dsimp only
  split <;> simp [h]

@[simp] theorem State.memWf.passTurn {c n} (h : s.memWf) : (s.passTurn c n).memWf := by
  have passed : ({ s.passCore c n with cur := c } : State).memWf := h.passCore
  unfold State.passTurn
  dsimp only
  split
  · split
    · exact exec_wf _ passed
    · exact passed.outcome
  · exact passed.outcome

@[simp] theorem State.memWf.passNimbus {cl n} (h : s.memWf) : (s.passNimbus cl n).memWf := h

@[simp] theorem State.memWf.passZenith {n} (h : s.memWf) : (s.passZenith n).memWf := h

@[simp] theorem State.memWf.passRest (h : s.memWf) : s.passRest.memWf := by
  unfold State.passRest
  refine State.foldl_wf (fun t x ht => ?_) _ h
  split
  · exact ht
  · exact ht.passCore

@[simp] theorem State.memWf.flightTurn {k} (h : s.memWf) : (s.flightTurn k).memWf := by
  unfold State.flightTurn
  split
  · next e =>
    have taken := h.takeFlight e
    split
    · exact exec_wf _ taken
    · exact h.outcome
  · exact h.outcome

@[simp] theorem State.memWf.drainPosted {hostWaits ws} (h : s.memWf) : (s.drainPosted hostWaits ws).memWf := by
  induction ws generalizing s hostWaits with
  | nil => exact h
  | cons w ws ih =>
    unfold State.drainPosted
    split
    · exact ih h.storeCells
    · exact ih h

@[simp] theorem State.memWf.drain (h : s.memWf) : (s.drain).memWf := by
  simp [State.drain, h]

@[simp] theorem State.memWf.outsideWrite {host uid cells} (h : s.memWf) : (s.outsideWrite host uid cells).memWf := by
  simp [State.outsideWrite, h]

@[simp] theorem State.memWf.senseTurn {die temp droop} (h : s.memWf) : (s.senseTurn die temp droop).memWf := by
  unfold State.senseTurn
  extract_lets t z u
  have stretched : u.memWf := by
    simp only [u]
    split
    · exact h.sense
    · exact h.sense
  split
  · exact exec_wf _ stretched
  · exact stretched.outcome

@[simp] theorem State.memWf.poisonLine {key} (h : s.memWf) : (s.poisonLine key).memWf := h

@[simp] theorem State.memWf.turn {x} (h : s.memWf) : (s.turn x).memWf := by
  cases x with
  | event site i =>
    unfold State.turn
    dsimp only
    split
    · exact exec_wf _ h
    · exact h.outcome
  | passZenith n => exact State.memWf.outcome h
  | pass site n => exact h.passTurn
  | passNimbus cl n => exact State.memWf.outcome h
  | issue c =>
    unfold State.turn
    dsimp only
    split
    · exact h.outcome
    · exact h.issue
  | fetch c =>
    unfold State.turn
    simp [h]
  | flight k => exact h.flightTurn
  | arrive x => exact State.memWf.outcome h
  | tlps stream sub n => exact State.memWf.outcome h.tlps
  | ideKey stream sub set key => exact State.memWf.outcome h
  | sense die temp droop => exact h.senseTurn
  | outside host uid cells => exact State.memWf.outcome h.outsideWrite
  | badLine key => exact State.memWf.outcome h

@[simp] theorem State.memWf.issueTurn {c} (h : s.memWf) : (s.issueTurn c).memWf := by
  simp [State.issueTurn, h]

@[simp] theorem State.memWf.idleTurn (h : s.memWf) : s.idleTurn.memWf := by
  unfold State.idleTurn
  split
  · exact h.drain.outcome
  · split
    · exact exec_wf _ h
    · cases s.firstReady with
      | some k => exact h.flightTurn
      | none =>
        cases s.due with
        | some x => exact exec_wf _ h
        | none =>
          generalize (if s.zen.dead then none else s.nextRunning) = c
          cases c with
          | some c => exact h.issueTurn
          | none => exact h.passRest.outcome

/-! ### A step -/

theorem step_wf (h : s.memWf) : Res.memWf (step s) := by
  unfold step
  split
  · exact State.memWf.turn h
  · exact h.idleTurn

end Sys2Proof.Machine

/-- Settles O6: a step is a turn, and a turn is an instruction's meaning and operations of the state, which all keep the form. -/
theorem stepKeepsMemoryForm : Obligations.StepKeepsMemoryForm :=
  fun _ t h e => Sys2Proof.Machine.step_wf h t e
end

section
/-! PROOF. O55 fails: a DONE cell whose line does not verify is not bumped. -/

namespace Sys2Proof.Machine

/-- The ring entry of the task below, and its DONE cell. -/
def deadDoneRef : TaskRef := { part := 0, tq := 0, entry := 0x20000 }
def deadDoneCell : Nat := 0x10000

/-- A running task of queue 0 with one DONE cell and without banks. -/
def deadDoneTask : Task :=
  { ref := deadDoneRef, enc := 0, core := 0, seq := 0, conv := false, resolved := true, phase := .running, banks := [], site := 0
    hidx := 0, doneCells := [deadDoneCell], shapes := [], regs := [], recs := [], sig := 0, copies := 0, failed := false }

/-- The task's queue, homed in cluster 0. -/
def deadDoneQueue : TaskQueue := { cluster := 0, mask := 0, prio := 0, target := 0, cap := 16, base := 0x20000, tail := 1, seq := 1 }

/-- Partition 0: the first GiB is one versioned page of its own memory, and the line of the DONE cell has an error beyond its
code (R309). -/
def deadDoneState : State :=
  { State.reset with
    parts := [(0, { Part.empty with key := 1, tbl := 0, tqs := [(0, deadDoneQueue)] })]
    keys := [(1, ⟨0, 0, .active, 0, 0, [], true, 0, 0⟩)]
    mem := [(0, 0x01), (1, 0x10), (0x1000, 0x03), (0x1001, 0x0f)]
    seals := [(deadDoneCell / 64, .never)], tasks := [deadDoneTask] }

/-- At retirement the cell keeps its value (log 98). -/
theorem deadDone_retires : ∀ t, exec (.asterRetirement deadDoneRef) deadDoneState = .next t → memRead t.mem deadDoneCell = 0 := by
  intro t h
  have key : (match exec (.asterRetirement deadDoneRef) deadDoneState with
    | .next u => memRead u.mem deadDoneCell
    | _ => 1) = 0 := by decide +kernel
  rw [h] at key
  exact key

/-- A write of the home would make the value 1. -/
theorem deadDone_homeWrite :
    memRead ((deadDoneState.homeWrite 0 deadDoneCell (BitVec.ofNat 64 deadDoneCell) (deadDoneState.cellValue deadDoneCell + 1)
      ((deadDoneState.cellVersion deadDoneCell + 1) % 2 ^ 32)).setTaskState 0 deadDoneRef.entry 4).mem deadDoneCell = 1 := by
  decide +kernel

end Sys2Proof.Machine

open Sys2Proof.Machine in
/-- Refutes O55: the clause on a DONE cell asks only that the cell translates; where its line does not verify, retirement
leaves the cell out (R309, log 98). -/
theorem not_tasksServed : ¬ Obligations.TasksServed := by
  rintro ⟨served, -⟩
  have retires := served deadDoneState deadDoneRef deadDoneTask deadDoneQueue _ (by decide +kernel) rfl (by decide +kernel) rfl
  obtain ⟨-, -, -, -, -, -, -, -, bumped⟩ := retires
  obtain ⟨t, u, ht, -, hmem, hu, -⟩ := bumped deadDoneCell deadDoneCell (.inl rfl) rfl rfl (by decide +kernel)
    (by unfold State.memWf; decide +kernel) (by decide +kernel) rfl rfl
  have h1 := deadDone_retires t ht
  rw [hmem, hu] at h1
  exact absurd (deadDone_homeWrite.symm.trans h1) (by decide)
end

section
/-! PROOF. Facts on bits, records and memory that the statements about engines, strands and the monitor share. -/

namespace Sys2Proof.Machine

/-! ### Fields of a value -/

theorem bitsOf_testBit {w : Nat} (x : BitVec w) (hi lo i : Nat) :
    (bitsOf x hi lo).testBit i = (decide (i < hi + 1 - lo) && x.getLsbD (lo + i)) := by
  simp [bitsOf, BitVec.getLsbD, Nat.testBit_mod_two_pow, Nat.testBit_div_two_pow, Nat.add_comm]

/-- A field depends on its own bits alone. -/
theorem bitsOf_congr {w v : Nat} {x : BitVec w} {y : BitVec v} {hi lo : Nat}
    (h : ∀ j, lo ≤ j → j ≤ hi → x.getLsbD j = y.getLsbD j) : bitsOf x hi lo = bitsOf y hi lo := by
  refine Nat.eq_of_testBit_eq fun i => ?_
  rw [bitsOf_testBit, bitsOf_testBit]
  by_cases hi' : i < hi + 1 - lo
  · rw [h (lo + i) (by omega) (by omega)]
  · simp [hi']

/-- A number whose bits from lo on, n of them, are replaced. -/
theorem testBit_replace (a v lo n j : Nat) :
    (a - a / 2 ^ lo % 2 ^ n * 2 ^ lo + v % 2 ^ n * 2 ^ lo).testBit j =
      if lo ≤ j ∧ j < lo + n then v.testBit (j - lo) else a.testBit j := by
  have hlow : a % 2 ^ lo < 2 ^ lo := Nat.mod_lt _ (Nat.two_pow_pos lo)
  have hfield : ∀ b, b % 2 ^ n < 2 ^ n := fun b => Nat.mod_lt _ (Nat.two_pow_pos n)
  have hsplit : a = 2 ^ lo * (2 ^ n * (a / 2 ^ lo / 2 ^ n) + a / 2 ^ lo % 2 ^ n) + a % 2 ^ lo := by
    rw [Nat.div_add_mod, Nat.div_add_mod]
  have hnew : a - a / 2 ^ lo % 2 ^ n * 2 ^ lo + v % 2 ^ n * 2 ^ lo =
      2 ^ lo * (2 ^ n * (a / 2 ^ lo / 2 ^ n) + v % 2 ^ n) + a % 2 ^ lo := by
    have e : a = 2 ^ lo * (2 ^ n * (a / 2 ^ lo / 2 ^ n)) + a / 2 ^ lo % 2 ^ n * 2 ^ lo + a % 2 ^ lo := by
      conv_lhs => rw [hsplit]
      ring
    have e' : 2 ^ lo * (2 ^ n * (a / 2 ^ lo / 2 ^ n) + v % 2 ^ n) =
        2 ^ lo * (2 ^ n * (a / 2 ^ lo / 2 ^ n)) + v % 2 ^ n * 2 ^ lo := by ring
    omega
  rw [hnew]
  conv_rhs => rw [hsplit]
  simp only [Nat.testBit_two_pow_mul_add _ hlow, Nat.testBit_two_pow_mul_add _ (hfield _), Nat.testBit_mod_two_pow]
  by_cases h1 : j < lo
  · simp [h1]
  · by_cases h2 : j - lo < n
    · have : lo ≤ j ∧ j < lo + n := by omega
      simp [h1, h2, this]
    · have : ¬ (lo ≤ j ∧ j < lo + n) := by omega
      simp [h1, h2, this]

/-- The bits of a value with a field replaced. -/
theorem getLsbD_putBits {w : Nat} (x : BitVec w) (hi lo v j : Nat) :
    (putBits x hi lo v).getLsbD j = if lo ≤ j ∧ j ≤ hi then decide (j < w) && v.testBit (j - lo) else x.getLsbD j := by
  simp only [putBits, BitVec.getLsbD_ofNat, testBit_replace]
  by_cases h : lo ≤ j ∧ j ≤ hi
  · rw [if_pos (by omega), if_pos h]
  · rw [if_neg (by omega), if_neg h]
    by_cases hj : j < w
    · simp [hj, BitVec.getLsbD]
    · simp [hj, BitVec.getLsbD_of_ge x j (Nat.not_lt.mp hj)]

theorem setHeld_bit (r : Record) (b : Bool) (j : Nat) (h : j ≠ 44) : (setHeld r b).getLsbD j = r.getLsbD j := by
  rw [setHeld, getLsbD_putBits, if_neg (by omega)]

theorem setHeld_held (r : Record) (b : Bool) : bitOf (setHeld r b) 44 = b := by
  rw [bitOf_getLsbD, setHeld, getLsbD_putBits, if_pos (by omega)]
  cases b <;> rfl

@[simp] theorem setHeld_prio (r : Record) (b : Bool) : hPrio (setHeld r b) = hPrio r :=
  bitsOf_congr fun j _ _ => setHeld_bit r b j (by omega)

theorem setOrig_bit (r : Record) (n j : Nat) (h : j < 24 ∨ 34 ≤ j) : (setOrig r n).getLsbD j = r.getLsbD j := by
  rw [setOrig, getLsbD_putBits, if_neg (by omega)]

@[simp] theorem setOrig_que (r : Record) (n : Nat) : hQue (setOrig r n) = hQue r := by
  rw [hQue, bitsOf_congr fun j _ _ => setOrig_bit r n j (by omega), hQue]

/-- R121: ORIG is the field in which a record and its sent copy differ. -/
theorem hasOrig.eq {r r' : Record} {n : Nat} (h : hasOrig r r' n) : r' = setOrig r n := by
  obtain ⟨horig, hrest⟩ := h
  refine BitVec.eq_of_getLsbD_eq fun j hj => ?_
  by_cases hf : 24 ≤ j ∧ j ≤ 33
  · have hbit := congrArg (fun x => Nat.testBit x (j - 24)) horig
    rw [show (1024 : Nat) = 2 ^ 10 from rfl] at hbit
    simp only [bitsOf_testBit, Nat.testBit_mod_two_pow] at hbit
    have e : 24 + (j - 24) = j := by omega
    have l : j - 24 < 10 := by omega
    simp only [e, l, decide_true, Bool.true_and] at hbit
    rw [setOrig, getLsbD_putBits, if_pos hf, hbit]
    simp [hj]
  · rw [setOrig_bit r n j (by omega), hrest j (by omega)]

/-! ### Doublewords of a record -/

theorem dword_eq_elemAt {w : Nat} (r : BitVec w) (k : Nat) : dword r k = BitVec.ofNat 64 (elemAt r 64 k) := by
  apply BitVec.eq_of_toNat_eq
  simp [dword, elemAt]

theorem ofDwords_eq_ofElems (w : Nat) (ds : List Word) : ofDwords w ds = ofElems w 64 (ds.map (·.toNat)) := by
  have h : ∀ d : Word, d.toNat % 18446744073709551616 = d.toNat := fun d => Nat.mod_eq_of_lt d.isLt
  simp [ofDwords, ofElems, List.foldr_map, h]

/-- A record's doublewords are those that it was built from. -/
theorem dword_ofDwords (w : Nat) (ds : List Word) (k : Nat) (h : 64 * ds.length ≤ w) : dword (ofDwords w ds) k = ds.getD k 0 := by
  rw [dword_eq_elemAt, ofDwords_eq_ofElems, elemAt_ofElems _ _ _ _ (by simpa using h)]
  apply BitVec.eq_of_toNat_eq
  by_cases hk : k < ds.length
  · simpa [hk] using (ds[k]).isLt
  · simp [Nat.not_lt.mp hk]

theorem getLsbD_dword {w : Nat} (r : BitVec w) (k i : Nat) : (dword r k).getLsbD i = (decide (i < 64) && r.getLsbD (64 * k + i)) := by
  rw [dword, BitVec.getLsbD_ofNat, Nat.testBit_div_two_pow, Nat.add_comm, BitVec.getLsbD]

/-- A record is made of its doublewords. -/
theorem record_ext {r r' : Record} (h : ∀ k, k < 8 → dword r k = dword r' k) : r = r' := by
  refine BitVec.eq_of_getLsbD_eq fun j hj => ?_
  have hk := congrArg (fun x => BitVec.getLsbD x (j % 64)) (h (j / 64) (by omega))
  have e : 64 * (j / 64) + j % 64 = j := Nat.div_add_mod j 64
  simpa only [getLsbD_dword, e, Nat.mod_lt j (show 64 > 0 by decide), decide_true, Bool.true_and] using hk

/-- The record that the general registers g0 to g7 carry. -/
theorem Core.carries.eq {k : Core} {r : Record} (h : k.carries r) : r = k.carried := by
  refine record_ext fun i hi => ?_
  rw [h ⟨i, hi⟩, Core.carried, dword_ofDwords _ _ _ (by simp)]
  simp [Core.getG, List.getD_eq_getElem?_getD, hi]

/-! ### Little-endian bytes -/

@[simp] theorem leBytes_length (n x : Nat) : (leBytes n x).length = n := by
  induction n generalizing x with
  | zero => rfl
  | succ n ih => simp [leBytes, ih]

theorem leNat_leBytes (n x : Nat) : leNat (leBytes n x) = x % 256 ^ n := by
  induction n generalizing x with
  | zero => simp [leBytes, leNat, Nat.mod_one]
  | succ n ih =>
    rw [leBytes, leNat, ih, Nat.pow_succ, Nat.mul_comm (256 ^ n) 256, Nat.mod_mul]
    simp

/-! ### Numbers in memory -/

theorem memBytes_eq (m : List Host.Cell) (a n : Nat) : memBytes m a n = (List.range n).map (fun j => memRead m (a + j)) := by
  induction n generalizing a with
  | zero => rfl
  | succ n ih =>
    rw [memBytes, ih, List.range_succ_eq_map]
    simp [Function.comp_def, Nat.add_right_comm, Nat.add_assoc]

/-- A number in memory depends on its own bytes alone. -/
theorem memNat_congr {m m' : List Host.Cell} {a n : Nat} (h : ∀ j, j < n → memRead m (a + j) = memRead m' (a + j)) :
    memNat m a n = memNat m' a n := by
  rw [memNat, memNat, memBytes_eq, memBytes_eq]
  exact congrArg leNat (List.map_congr_left fun j hj => h j (List.mem_range.1 hj))

/-- Consecutive bytes written, read back as a number. -/
theorem memNat_written {m : List Host.Cell} (hm : Memory.wf m = true) (a : Nat) (before bs after : List Byte) :
    memNat (memCells (cellsAt a (before ++ bs ++ after)) m) (a + before.length) bs.length = leNat bs := by
  rw [memNat, memBytes_eq]
  congr 1
  refine List.ext_getElem (by simp) fun j _ hj => ?_
  have hr := memRead_cellsAt a (before ++ bs ++ after) hm (a + before.length + j)
  have e : a + before.length + j - a = before.length + j := by omega
  rw [if_pos (by simp; omega), e] at hr
  rw [List.getElem_map, List.getElem_range, hr]
  simp [List.getD_eq_getElem?_getD, List.getElem?_append, hj]

/-- Bytes outside those written read as before. -/
theorem memRead_outside {m : List Host.Cell} (hm : Memory.wf m = true) {a x : Nat} {bs : List Byte}
    (h : x < a ∨ a + bs.length ≤ x) : memRead (memCells (cellsAt a bs) m) x = memRead m x := by
  rw [memRead_cellsAt a bs hm, if_neg (by omega)]

theorem memNat_outside {m : List Host.Cell} (hm : Memory.wf m = true) {a b n : Nat} {bs : List Byte}
    (h : b + n ≤ a ∨ a + bs.length ≤ b) : memNat (memCells (cellsAt a bs) m) b n = memNat m b n :=
  memNat_congr fun j hj => memRead_outside hm (by omega)

/-! ### A versioned cell in memory (R125) -/

/-- A cell that was written holds what was written, and every other byte is as before. -/
theorem State.setCell_cellIs {s : State} (h : s.memWf) (p cell : Nat) (va v : Word) (ver head : Nat) :
    (s.setCell p cell va v ver head).cellIs s cell v ver head := by
  have hv := memNat_written h.1 cell [] (leBytes 8 v.toNat) (leBytes 4 ver ++ leBytes 4 head)
  have hn := memNat_written h.1 cell (leBytes 8 v.toNat) (leBytes 4 ver) (leBytes 4 head)
  have hh := memNat_written h.1 cell (leBytes 8 v.toNat ++ leBytes 4 ver) (leBytes 4 head) []
  simp only [leNat_leBytes, leBytes_length, List.length_append, List.length_nil, Nat.add_zero, List.nil_append, List.append_nil,
    ← List.append_assoc] at hv hn hh
  refine ⟨hv.trans ?_, hn, hh, fun a ha => memRead_outside h.1 (by simpa using by omega)⟩
  exact Nat.mod_eq_of_lt (v.isLt.trans_eq (by norm_num))

/-- What `cellIs` says depends on memory alone. -/
theorem State.cellIs_of_mem {t u s : State} {cell : Nat} {v : Word} {ver head : Nat} (h : u.cellIs s cell v ver head)
    (hm : t.mem = u.mem) : t.cellIs s cell v ver head := by
  unfold State.cellIs at h ⊢
  rw [hm]; exact h

end Sys2Proof.Machine
end

section
/-! PROOF. Facts on arrival queues, deques and the dispatch of a strand (R26, R31, R115 to R118). -/

namespace Sys2Proof.Machine

/-! ### Arrival queues -/

/-- What a change of the resident entries can do: they are set, with the head wait of the old head settled (R31). -/
theorem Queue.setRes_res (q : Queue) (res : List Entry) (cyc : Nat) :
    (q.setRes res cyc).res = res ∨ ∃ e es e' es' w, q.res = e :: es ∧ res = e' :: es' ∧ e.arr ≠ e'.arr ∧ w = q.headWait cyc ∧
      (q.setRes res cyc).res = res.map (fun x => if x.arr = e.arr then { x with wait := w } else x) := by
  unfold Queue.setRes
  split
  · exact .inl rfl
  · next e es e' es' h =>
    split
    · exact .inl rfl
    · next hne => exact .inr ⟨e, es, e', es', _, h, rfl, hne, rfl, rfl⟩
  · exact .inl rfl

/-- Setting the resident entries keeps their records. -/
@[simp] theorem Queue.setRes_records (q : Queue) (res : List Entry) (cyc : Nat) :
    (q.setRes res cyc).res.map (·.record) = res.map (·.record) := by
  rcases q.setRes_res res cyc with h | ⟨e, _, _, _, w, _, _, _, _, h⟩
  · rw [h]
  · rw [h, List.map_map]
    exact List.map_congr_left fun x _ => by dsimp only [Function.comp]; split <;> rfl

/-- An unchanged head keeps the entries as they are set. -/
theorem Queue.setRes_sameHead (q : Queue) (res : List Entry) (cyc : Nat)
    (h : ∀ e es e' es', q.res = e :: es → res = e' :: es' → e.arr = e'.arr) : (q.setRes res cyc).res = res := by
  rcases q.setRes_res res cyc with h' | ⟨e, es, e', es', _, h1, h2, hne, _, _⟩
  · exact h'
  · exact absurd (h e es e' es' h1 h2) hne

/-- An entry behind the others leaves them as they are. -/
@[simp] theorem Queue.setRes_append (q : Queue) (e : Entry) (cyc : Nat) : (q.setRes (q.res ++ [e]) cyc).res = q.res ++ [e] := by
  refine q.setRes_sameHead _ cyc fun a as b bs h1 h2 => ?_
  rw [h1, List.cons_append] at h2
  exact congrArg Entry.arr (List.cons.inj h2).1

@[simp] theorem Queue.setRes_spill (q : Queue) (res : List Entry) (cyc : Nat) : (q.setRes res cyc).spill = q.spill := by
  unfold Queue.setRes
  split
  · rfl
  · split <;> rfl
  · rfl

@[simp] theorem Queue.setRes_cfg (q : Queue) (res : List Entry) (cyc : Nat) : (q.setRes res cyc).cfg = q.cfg := by
  unfold Queue.setRes
  split
  · rfl
  · split <;> rfl
  · rfl

/-- The head leaves a queue without spilled entries. -/
theorem Queue.pop_records {q : Queue} {e : Entry} {es : List Entry} (cyc : Nat) (hr : q.res = e :: es) (hs : q.spill = []) :
    (q.pop cyc).res.map (·.record) = es.map (·.record) := by
  simp [Queue.pop, hr, hs]

/-! ### The deque (R118) -/

/-- Refilling the resident deque moves an entry and changes no order. -/
@[simp] theorem Ctx.refill_allDeque (c : Ctx) : c.refill.dspill ++ c.refill.deque = c.dspill ++ c.deque := by
  unfold Ctx.refill
  split
  · next hd =>
    split
    · rfl
    · next e rest hr =>
      have h : c.dspill = rest.reverse ++ [e] := by simpa using congrArg List.reverse hr
      simp [h, List.isEmpty_iff.1 hd]
  · rfl

/-- Removing an entry removes those of its place in arrival order. -/
@[simp] theorem Ctx.dropDeque_allDeque (c : Ctx) (arr : Nat) :
    (c.dropDeque arr).dspill ++ (c.dropDeque arr).deque = (c.dspill ++ c.deque).filter (fun x => x.arr != arr) := by
  unfold Ctx.dropDeque
  simp

@[simp] theorem Ctx.refill_hbDef (c : Ctx) : c.refill.hbDef = c.hbDef := by
  unfold Ctx.refill
  split
  · split <;> rfl
  · rfl

@[simp] theorem Ctx.dropDeque_hbDef (c : Ctx) (arr : Nat) : (c.dropDeque arr).hbDef = c.hbDef := by
  simp [Ctx.dropDeque]

/-- A pushed entry is the newest. -/
@[simp] theorem Ctx.pushDeque_allDeque (c : Ctx) (e : Entry) :
    (c.pushDeque e).dspill ++ (c.pushDeque e).deque = c.dspill ++ c.deque ++ [e] := by
  unfold Ctx.pushDeque
  split
  · simp
  · split
    · next h _ hd => simp [hd] at h
    · next o es hd => simp [hd]

/-! ### Reading enclaves and handlers back -/

@[simp] theorem Core.cxOf_enc (k : Core) : k.cxOf k.enc = k.cx := rfl

@[simp] theorem State.handler_setCore (s : State) (c : Nat) (k : Core) (p e i : Nat) :
    (s.setCore c k).handler p e i = s.handler p e i := rfl
@[simp] theorem State.handler_setMe (s : State) (k : Core) (p e i : Nat) : (s.setMe k).handler p e i = s.handler p e i := rfl

@[simp] theorem State.handler_creditBack (s : State) (p : Nat) (q : Fin 4) (es : List Entry) (p' e i : Nat) :
    (s.creditBack p q es).handler p' e i = s.handler p' e i := by
  by_cases h : p' = p
  · subst h; simp [State.handler, State.creditBack]
  · simp only [State.handler, State.creditBack, State.part_setPart_other _ _ _ _ h]

@[simp] theorem State.creditBack_mem (s : State) (p : Nat) (q : Fin 4) (es : List Entry) : (s.creditBack p q es).mem = s.mem := rfl
@[simp] theorem State.creditBack_bmem (s : State) (p : Nat) (q : Fin 4) (es : List Entry) : (s.creditBack p q es).bmem = s.bmem := rfl
@[simp] theorem State.creditBack_flight (s : State) (p : Nat) (q : Fin 4) (es : List Entry) : (s.creditBack p q es).flight = s.flight := rfl
@[simp] theorem State.creditBack_cur (s : State) (p : Nat) (q : Fin 4) (es : List Entry) : (s.creditBack p q es).cur = s.cur := rfl
@[simp] theorem State.creditBack_cores (s : State) (p : Nat) (q : Fin 4) (es : List Entry) : (s.creditBack p q es).cores = s.cores := rfl

/-- A queue's head leaves a core that keeps no entry: the queue is popped and a host's credit returns. -/
theorem State.popQueue_eq {s : State} {c : Nat} (enc : Nat) (q : Fin 4) (hk : (s.core c).keptEntries = []) :
    s.popQueue c enc q =
      (s.setCore c ((s.core c).setCxOf enc { (s.core c).cxOf enc with
        q := ((s.core c).cxOf enc).q.set q ((((s.core c).cxOf enc).q[q]).pop (s.core c).cyc) })).creditBack (s.core c).part q
          ((((s.core c).cxOf enc).q[q]).res.take 1) := by
  unfold State.popQueue State.placeKept
  simp only [State.core_creditBack, State.core_setCore, Core.setCxOf_keptEntries, hk, State.placeEntries]
  simp [State.creditBack, State.setCore, State.setPart, State.part, sset_sset, Core.setCxOf, hk]

/-! ### Dispatch (R26) -/

/-- The core that starts the strand of an entry under its handler-table entry. -/
def Core.dispatched (k : Core) (e : Entry) (o : Origin) (he : HandlerEntry) : Core :=
  { k with
    run := .running
    h := { hid := k.seqno + 1, record := e.record, src := e.src, seq := e.seq, woken := e.woken, origin := o, start := k.cyc
           arr := e.arr }
    left := he.budget.getD k.cx.hbDef, pc := he.addr, slot := none
    g := Vector.ofFn (fun (i : Fin 16) => if i.val < 8 then dword e.record i.val else 0)
    dq := [], bq := [], sbuf := [], spawns := 0, prods := [], seqno := k.seqno + 1 }

theorem State.dispatch_known {s : State} {c : Nat} {e : Entry} {he : HandlerEntry} (o : Origin)
    (h : s.handler (s.core c).part (s.core c).enc (hIdx e.record) = some he) :
    s.dispatch c e o = s.setCore c ((s.core c).dispatched e o he) := by
  unfold State.dispatch
  simp only [h]
  rfl

theorem Core.dispatched_started (k : Core) (e : Entry) (o : Origin) (he : HandlerEntry) :
    (k.dispatched e o he).started e he k.cx.hbDef := by
  refine ⟨rfl, rfl, rfl, rfl, rfl, rfl, fun i => ?_, rfl, rfl, rfl, rfl, rfl⟩
  simp [Core.dispatched, Core.getG]

@[simp] theorem Core.dispatched_ctx (k : Core) (e : Entry) (o : Origin) (he : HandlerEntry) : (k.dispatched e o he).ctx = k.ctx := rfl
@[simp] theorem Core.dispatched_enc (k : Core) (e : Entry) (o : Origin) (he : HandlerEntry) : (k.dispatched e o he).enc = k.enc := rfl
@[simp] theorem Core.dispatched_cx (k : Core) (e : Entry) (o : Origin) (he : HandlerEntry) : (k.dispatched e o he).cx = k.cx := rfl

/-- The executing core takes the head of a queue. -/
theorem State.takeHead_takes {s : State} (q : Fin 4) (hk : s.me.keptEntries = []) : (s.takeHead s.cur q).takes s q := by
  intro e es he hres hspill hh
  have hq : (s.core s.cur).cx.q[q].res = e :: es := hres
  have hpop := s.popQueue_eq s.me.enc q hk
  have hcore : (s.popQueue s.cur s.me.enc q).core s.cur = s.me.setCxOf s.me.enc { s.cx with q := s.cx.q.set q (s.cx.q[q].pop s.me.cyc) } := by
    rw [hpop]; simp; rfl
  have hstart : s.takeHead s.cur q = (s.popQueue s.cur s.me.enc q).setCore s.cur
      (((s.popQueue s.cur s.me.enc q).core s.cur).dispatched e (.queue q) he) := by
    unfold State.takeHead
    simp only [hq]
    refine State.dispatch_known _ ?_
    rw [show s.core s.cur = s.me from rfl, hcore]
    simpa [hpop, hIdx] using hh
  have hcx : ((s.popQueue s.cur s.me.enc q).core s.cur).cx = { s.cx with q := s.cx.q.set q (s.cx.q[q].pop s.me.cyc) } := by
    rw [hcore]; exact Core.cxOf_setCxOf _ _ _
  rw [hstart]
  refine ⟨?_, ?_, ?_, ?_, ?_⟩
  · have := Core.dispatched_started ((s.popQueue s.cur s.me.enc q).core s.cur) e (.queue q) he
    rw [hcx] at this
    rwa [State.core_setCore]
  · rw [State.core_setCore, Core.dispatched_cx, hcx]
    simpa using Queue.pop_records s.me.cyc hres hspill
  all_goals simp [hpop]

/-- What a head's taking says of a state holds before a change of the core's pointers too. -/
theorem State.takes_of_setMe {s t : State} {k : Core} {q : Fin 4} (hctx : k.ctx = s.me.ctx) (henc : k.enc = s.me.enc)
    (hpart : k.part = s.me.part) (h : t.takes (s.setMe k) q) : t.takes s q := by
  have hcx : (s.setMe k).cx = s.cx := by simp [State.cx, Core.cx, hctx, henc]
  unfold State.takes at h ⊢
  simpa [hcx, henc, hpart] using h

end Sys2Proof.Machine
end

section
/-! PROOF. What a translation and the fault ring's room depend on (R131, R282, R283, R290). -/

namespace Sys2Proof.Machine

/-! ### Translation -/

/-- A key without what its use changes. -/
def Key.bare (k : Key) : Key := { k with resident := false, used := 0 }

/-- The keys without what their use changes. -/
def bareKeys (keys : SMap Key) : SMap Key := keys.map (fun x => (x.1, x.2.bare))

/-- Two states that translate alike: one memory, one set of seals and of tables, and keys that differ in their use alone. -/
structure State.Alike (t s : State) : Prop where
  mem : t.mem = s.mem
  seals : t.seals = s.seals
  keys : bareKeys t.keys = bareKeys s.keys
  tbl : ∀ q, (t.part q).tbl = (s.part q).tbl
  key : ∀ q, (t.part q).key = (s.part q).key

theorem sget?_bareKeys (keys : SMap Key) (u : Nat) : sget? u (bareKeys keys) = (sget? u keys).map Key.bare := by
  induction keys with
  | nil => rfl
  | cons x xs ih =>
    obtain ⟨a, k⟩ := x
    simp only [bareKeys, List.map_cons, sget?] at ih ⊢
    split
    · rfl
    · exact ih

theorem find?_bareKeys (keys : SMap Key) (f : Nat → Key → Bool) (hf : ∀ u k, f u k.bare = f u k) :
    (bareKeys keys).find? (fun x => f x.1 x.2) = (keys.find? (fun x => f x.1 x.2)).map (fun x => (x.1, x.2.bare)) := by
  simp [bareKeys, List.find?_map, hf]

namespace State.Alike
variable {t s : State}

theorem macOk (h : t.Alike s) (key uid : Nat) : t.macOk key uid = s.macOk key uid := by
  simp only [State.macOk, State.sealOf, h.seals]

theorem walk (h : t.Alike s) (uid lvl tbl va : Nat) : t.walk uid lvl tbl va = s.walk uid lvl tbl va := by
  induction lvl generalizing tbl with
  | zero => rfl
  | succ lvl ih => simp only [State.walk, h.macOk, h.mem, ih]

theorem walkAt (h : t.Alike s) (p va : Nat) : t.walkAt p va = s.walkAt p va := by
  simp only [State.walkAt, h.walk, h.tbl, h.key]

theorem leaf (h : t.Alike s) (p va : Nat) : t.leaf p va = s.leaf p va := by
  simp only [State.leaf, h.walkAt]

/-- The key generation that a leaf names is the same one, but for its use. -/
theorem keyOf (h : t.Alike s) (p kid : Nat) :
    (t.keyOf p kid).map (fun x => (x.1, x.2.bare)) = (s.keyOf p kid).map (fun x => (x.1, x.2.bare)) := by
  unfold State.keyOf
  split
  · have hg := congrArg (sget? (s.part p).key) h.keys
    rw [sget?_bareKeys, sget?_bareKeys] at hg
    rw [h.key]
    revert hg
    cases sget? (s.part p).key t.keys <;> cases sget? (s.part p).key s.keys <;> intro hg <;> simp_all
  · have hf := congrArg (List.find? (fun x => x.2.ident == kid && x.2.part == p && x.2.st != .empty)) h.keys
    rwa [find?_bareKeys _ (fun _ k => k.ident == kid && k.part == p && k.st != .empty) (fun _ _ => rfl),
      find?_bareKeys _ (fun _ k => k.ident == kid && k.part == p && k.st != .empty) (fun _ _ => rfl)] at hf

/-- What two lookups have in common, when they find the same key but for its use. -/
theorem keyOf_cases (h : t.Alike s) (p kid : Nat) : (t.keyOf p kid = none ∧ s.keyOf p kid = none) ∨
    ∃ u k k', t.keyOf p kid = some (u, k) ∧ s.keyOf p kid = some (u, k') ∧ k.st = k'.st := by
  have hk := h.keyOf p kid
  cases ht : t.keyOf p kid with
  | none =>
    rw [ht] at hk
    exact .inl ⟨rfl, by simpa using hk.symm⟩
  | some x =>
    rw [ht] at hk
    obtain ⟨y, hs, hy⟩ := Option.map_eq_some_iff.1 hk.symm
    obtain ⟨h1, h2⟩ := Prod.mk.inj hy
    exact .inr ⟨x.1, x.2, y.2, rfl, by rw [hs, ← h1], (congrArg Key.st h2).symm⟩

theorem keyCheck (h : t.Alike s) (p : Nat) (l : Leaf) (want : Want) : t.keyCheck p l want = s.keyCheck p l want := by
  unfold State.keyCheck
  rcases h.keyOf_cases p l.kid with ⟨h1, h2⟩ | ⟨u, k, k', h1, h2, hst⟩
  · rw [h1, h2]
  · simp only [h1, h2, hst]

theorem physFor (h : t.Alike s) (p va : Nat) (want : Want) : t.physFor p va want = s.physFor p va want := by
  simp only [State.physFor, h.leaf, h.keyCheck]

theorem physOf (h : t.Alike s) (p va : Nat) : t.physOf p va = s.physOf p va := h.physFor p va .read

theorem translate (h : t.Alike s) (p va : Nat) (want : Want) : t.translate p va want = s.translate p va want := by
  simp only [State.translate, h.walkAt, h.keyCheck]

theorem uidAt (h : t.Alike s) (p va : Nat) : t.uidAt p va = s.uidAt p va := by
  unfold State.uidAt
  rw [h.leaf]
  split
  · next l _ =>
    rcases h.keyOf_cases p l.kid with ⟨h1, h2⟩ | ⟨u, k, k', h1, h2, -⟩
    · rw [h1, h2, h.key]
    · rw [h1, h2]
  · exact h.key p

theorem spanUids (h : t.Alike s) (p : Nat) (spans : List (Nat × Nat)) : t.spanUids p spans = s.spanUids p spans := by
  simp only [State.spanUids, h.physOf, h.uidAt]

end State.Alike

/-! ### The fault ring's room -/

/-- The records that agents keep have no part in a translation. -/
theorem State.alike_setPart_kept (s : State) (p : Nat) (kept : List (Nat × Record)) :
    (s.setPart p { s.part p with kept := kept }).Alike s := by
  refine ⟨rfl, rfl, rfl, fun q => ?_, fun q => ?_⟩ <;> by_cases h : q = p
  · subst h; simp
  · rw [State.part_setPart_other _ _ _ _ h]
  · subst h; simp
  · rw [State.part_setPart_other _ _ _ _ h]

/-- The records that agents keep have no part in the ring's room. -/
theorem State.faultRoom_setPart_kept (s : State) (p : Nat) (kept : List (Nat × Record)) :
    (s.setPart p { s.part p with kept := kept }).faultRoom p = s.faultRoom p := by
  have h := s.alike_setPart_kept p kept
  have hfree : ∀ va n, (s.setPart p { s.part p with kept := kept }).vaFree p va n = s.vaFree p va n := fun va n => by
    simp only [State.vaFree, State.keyHeld, h.physOf]; rfl
  have hload : ∀ us, (s.setPart p { s.part p with kept := kept }).keysLoad us = s.keysLoad us := fun _ => rfl
  have hspans : (s.setPart p { s.part p with kept := kept }).faultSpans p = s.faultSpans p := by
    simp only [State.faultSpans, State.part_setPart, h.physFor]; rfl
  have hheld : (s.setPart p { s.part p with kept := kept }).faultHeld p = s.faultHeld p := by
    simp only [State.faultHeld, State.part_setPart, hfree, hload, hspans, h.spanUids]
  simp only [State.faultRoom, State.part_setPart, hheld, h.physFor, h.macOk, h.uidAt]
  rfl

/-! ### Writing a record (R131) -/

/-- A list of continuations from an entry on is empty when it starts nowhere, or the pool is empty. -/
theorem contChain_nil {conts : SMap Cont} {n head : Nat} (h : conts = [] ∨ head = 0) : contChain conts n head = [] := by
  cases n with
  | zero => rfl
  | succ n =>
    rcases h with rfl | rfl
    · simp [contChain, sget?]
    · rfl

/-- A write of a cell on which nothing waits. -/
theorem State.cellWrite_unwatched {s : State} {p cell : Nat} (va v : Word) (ver : Nat)
    (h : (s.part p).conts = [] ∨ memNat s.mem (cell + 12) 4 = 0) :
    s.cellWrite p cell va v ver =
      ((s.noteVersion cell ver).setCell p cell va v ver 0).setPart p (s.part p) := by
  unfold State.cellWrite
  have hc : contChain ((s.noteVersion cell ver).part p).conts (((s.noteVersion cell ver).part p).conts.length + 1)
      ((s.noteVersion cell ver).cellHead cell) = [] := contChain_nil h
  simp only [hc]
  rfl

/-- Using keys leaves the partitions, the executing core and what is under way as they are. -/
@[simp] theorem State.useKeys_part (s : State) (us : List Nat) (p : Nat) : (s.useKeys us).part p = s.part p := by
  obtain ⟨_, _, h⟩ := s.useKeys_eq us; rw [h]; rfl
@[simp] theorem State.useKeys_flight (s : State) (us : List Nat) : (s.useKeys us).flight = s.flight := by
  obtain ⟨_, _, h⟩ := s.useKeys_eq us; rw [h]
@[simp] theorem State.useKeys_cur (s : State) (us : List Nat) : (s.useKeys us).cur = s.cur := by
  obtain ⟨_, _, h⟩ := s.useKeys_eq us; rw [h]

@[simp] theorem State.setCell_cores (s : State) (p cell : Nat) (va v : Word) (ver head : Nat) :
    (s.setCell p cell va v ver head).cores = s.cores := rfl
@[simp] theorem State.setCell_flight (s : State) (p cell : Nat) (va v : Word) (ver head : Nat) :
    (s.setCell p cell va v ver head).flight = s.flight := rfl
@[simp] theorem State.setCell_bmem (s : State) (p cell : Nat) (va v : Word) (ver head : Nat) :
    (s.setCell p cell va v ver head).bmem = s.bmem := rfl
@[simp] theorem State.setCell_cur (s : State) (p cell : Nat) (va v : Word) (ver head : Nat) :
    (s.setCell p cell va v ver head).cur = s.cur := rfl
@[simp] theorem State.setCell_part (s : State) (p cell : Nat) (va v : Word) (ver head q : Nat) :
    (s.setCell p cell va v ver head).part q = s.part q := rfl

/-- The record in its slot, and the record cell counted on. -/
def State.withRecord (s : State) (p ctl slot ver uid : Nat) (va : Word) (bs : List Byte) : State :=
  (s.storeCells (cellsAt slot bs) uid).cellWrite p ctl va ((s.storeCells (cellsAt slot bs) uid).cellValue ctl + 1) ver

/-- A record written to a slot apart from the control block, which nothing waits on. -/
theorem State.withRecord_spec {s : State} {p ctl slot ver : Nat} (uid : Nat) (va : Word) {bs : List Byte} (hlen : bs.length = 64)
    (hc : (s.part p).conts = [] ∨ memNat s.mem (ctl + 12) 4 = 0) (hw : s.memWf) (hd : slot + 64 ≤ ctl ∨ ctl + 16 ≤ slot) :
    (s.withRecord p ctl slot ver uid va bs).cores = s.cores ∧ (s.withRecord p ctl slot ver uid va bs).flight = s.flight ∧
    (s.withRecord p ctl slot ver uid va bs).cur = s.cur ∧ (s.withRecord p ctl slot ver uid va bs).part p = s.part p ∧
    memNat (s.withRecord p ctl slot ver uid va bs).mem slot 64 = leNat bs ∧
    memNat (s.withRecord p ctl slot ver uid va bs).mem ctl 8 = (memNat s.mem ctl 8 + 1) % 2 ^ 64 ∧
    memNat (s.withRecord p ctl slot ver uid va bs).mem (ctl + 8) 4 = ver % 2 ^ 32 := by
  unfold State.withRecord
  have hmem : (s.storeCells (cellsAt slot bs) uid).mem = memCells (cellsAt slot bs) s.mem := rfl
  have hwf := State.storeCells_wf (cellsAt slot bs) uid hw
  have hpart : (s.storeCells (cellsAt slot bs) uid).part p = s.part p := rfl
  have hcores : (s.storeCells (cellsAt slot bs) uid).cores = s.cores := rfl
  have hflight : (s.storeCells (cellsAt slot bs) uid).flight = s.flight := rfl
  have hcur : (s.storeCells (cellsAt slot bs) uid).cur = s.cur := rfl
  generalize s.storeCells (cellsAt slot bs) uid = s' at *
  have hat : ∀ b n, slot + 64 ≤ b ∨ b + n ≤ slot → memNat s'.mem b n = memNat s.mem b n := fun b n h => by
    rw [hmem]; exact memNat_outside hw.1 (by omega)
  have hval : s'.cellValue ctl = BitVec.ofNat 64 (memNat s.mem ctl 8) := congrArg (BitVec.ofNat 64) (hat ctl 8 (by omega))
  rw [State.cellWrite_unwatched va _ ver (by rw [hpart, hat (ctl + 12) 4 (by omega)]; exact hc)]
  obtain ⟨hvalue, hversion, -, hframe⟩ := State.setCell_cellIs (s := s'.noteVersion ctl ver) hwf p ctl va (s'.cellValue ctl + 1) ver 0
  have hframe' : memNat ((s'.noteVersion ctl ver).setCell p ctl va (s'.cellValue ctl + 1) ver 0).mem slot 64 = memNat s'.mem slot 64 :=
    memNat_congr fun j hj => hframe (slot + j) (by omega)
  have hslot := memNat_written hw.1 slot [] bs []
  simp only [List.nil_append, List.append_nil, List.length_nil, Nat.add_zero, hlen] at hslot
  rw [State.setPart_mem, State.setPart_cores, State.setPart_flight, State.setPart_cur, State.part_setPart, hframe', hvalue, hversion, hval,
    hmem, hslot, hpart]
  have hnext : (BitVec.ofNat 64 (memNat s.mem ctl 8) + 1 : Word).toNat = (memNat s.mem ctl 8 + 1) % 2 ^ 64 := by
    rw [BitVec.toNat_add, BitVec.toNat_ofNat]
    exact Nat.mod_add_mod _ _ _
  rw [State.setCell_cores, State.setCell_flight, State.setCell_cur]
  exact ⟨hcores, hflight, hcur, rfl, rfl, hnext, rfl⟩

/-- The bytes of n bytes' bits make up the number again. -/
theorem leNat_leBytes_bits {n : Nat} (x : BitVec (8 * n)) : leNat (leBytes n x.toNat) = x.toNat := by
  rw [leNat_leBytes]
  exact Nat.mod_eq_of_lt (x.isLt.trans_eq (Nat.pow_mul 2 8 n))

/-- A record written where the ring has room: the slot, the record cell's value and version. -/
theorem State.writeFault_room {s : State} {p ctl slot v : Nat} (r : Record) (hroom : s.faultRoom p = some (ctl, slot, v))
    (hc : (s.part p).conts = [] ∨ memNat s.mem (ctl + 12) 4 = 0) (hw : s.memWf) (hd : slot + 64 ≤ ctl ∨ ctl + 16 ≤ slot) :
    ∃ t, s.writeFault p r = some t ∧ t.cores = s.cores ∧ t.flight = s.flight ∧ t.cur = s.cur ∧ t.part p = s.part p ∧
      memNat t.mem slot 64 = r.toNat ∧ memNat t.mem ctl 8 = (memNat s.mem ctl 8 + 1) % 2 ^ 64 ∧
      memNat t.mem (ctl + 8) 4 = (v + 1) % 2 ^ 32 := by
  have hwrite : ∃ uid, s.writeFault p r = some ((s.useKeys (s.spanUids p (s.faultSpans p))).withRecord p ctl slot
      ((v + 1) % 2 ^ 32) uid (BitVec.ofNat 64 (s.part p).fctl) (leBytes 64 r.toNat)) := by
    unfold State.writeFault
    simp only [hroom]
    exact ⟨_, rfl⟩
  obtain ⟨uid, hwrite⟩ := hwrite
  refine ⟨_, hwrite, ?_⟩
  generalize s.spanUids p (s.faultSpans p) = us
  obtain ⟨hcores, hflight, hcur, hpart, hslot, hvalue, hversion⟩ := (s.useKeys us).withRecord_spec (ver := (v + 1) % 2 ^ 32) uid
    (BitVec.ofNat 64 (s.part p).fctl) (leBytes_length 64 r.toNat) (by simpa using hc) (State.memWf_of_eq hw (by simp) (by simp)) hd
  exact ⟨hcores.trans (s.useKeys_cores us), hflight.trans (s.useKeys_flight us), hcur.trans (s.useKeys_cur us),
    hpart.trans (s.useKeys_part us p), hslot.trans (leNat_leBytes_bits (n := 64) r), by rw [hvalue, s.useKeys_mem us], hversion.trans (Nat.mod_mod _ _)⟩

end Sys2Proof.Machine
end

section
/-! PROOF. O47: the choice of the next strand, stealing, aging, slices and kept records. -/

namespace Sys2Proof.Machine

/-! ### Lists -/

/-- The first element for which a search finds something, by its place. -/
theorem findSome?_of_getElem? {α β : Type} {l : List α} {f : α → Option β} {i : Nat} {a : α} {b : β} (ha : l[i]? = some a)
    (hb : f a = some b) (hbefore : ∀ j x, j < i → l[j]? = some x → f x = none) : l.findSome? f = some b := by
  obtain ⟨hi, rfl⟩ := List.getElem?_eq_some_iff.1 ha
  refine List.findSome?_eq_some_iff.2 ⟨l.take i, l[i], l.drop (i + 1), by simp, hb, fun x hx => ?_⟩
  obtain ⟨j, hj, rfl⟩ := List.mem_take_iff_getElem.1 hx
  exact hbefore j _ (by omega) (List.getElem?_eq_getElem (by omega))

/-- A list of which every element but one does not count, filtered. -/
theorem find?_of_split {α : Type} {l before after : List α} {p : α → Bool} {a : α} (hl : l = before ++ a :: after) (ha : p a = true)
    (hbefore : ∀ x ∈ before, p x = false) : l.find? p = some a :=
  List.find?_eq_some_iff_append.2 ⟨ha, before, after, hl, fun x hx => by simp [hbefore x hx]⟩

/-! ### The heads of the queues -/

theorem State.headReady_iff (s : State) (q : Fin 4) : s.headReady q ↔ s.me.cx.q[q].ready = true := by
  unfold State.headReady Queue.ready
  show (∃ e es, s.me.cx.q[q].res = e :: es ∧ _) ↔ _
  cases h : s.me.cx.q[q].res with
  | nil => simp
  | cons e es => simp [hHeld]

theorem State.headPrio_eq (s : State) (q : Fin 4) : s.headPrio q = s.me.cx.q[q].effPrio s.me.cyc := by
  unfold State.headPrio Queue.effPrio Queue.headWait
  show (match s.me.cx.q[q].res with | [] => _ | e :: _ => _) = _
  cases h : s.me.cx.q[q].res with
  | nil => rfl
  | cons e es => rfl

theorem State.urgent_iff (s : State) (q : Fin 4) :
    s.urgent q ↔ (s.me.cx.q[q].ready && s.me.cx.q[q].effPrio s.me.cyc == 15) = true := by
  simp [State.urgent, State.headReady_iff, State.headPrio_eq]

/-- The first urgent head from the rotating pointer on. -/
theorem State.urgentHead_eq {s : State} {i : Nat} {q : Fin 4} (hi : i < 4) (hq : q = Fin.ofNat 4 (s.me.urgentRr + i)) (hu : s.urgent q)
    (hbefore : ∀ j, j < i → ¬ s.urgent (Fin.ofNat 4 (s.me.urgentRr + j))) : s.me.urgentHead = some q := by
  subst hq
  refine findSome?_of_getElem? (i := i) (a := i) (by simp [hi]) (if_pos ((s.urgent_iff _).1 hu)) fun j x hj hx => ?_
  obtain rfl : j = x := by simpa [show j < 4 by omega] using hx
  exact if_neg (mt (s.urgent_iff _).2 (hbefore j hj))

theorem State.urgentHead_none {s : State} (h : ∀ q, ¬ s.urgent q) : s.me.urgentHead = none :=
  List.findSome?_eq_none_iff.2 fun _ _ => if_neg (mt (s.urgent_iff _).2 (h _))

/-! ### The best head of q0 to q2 -/

/-- The queue that the rotating pointer names at place i. -/
def Core.ranked (k : Core) (i : Nat) : Fin 4 := Fin.ofNat 4 ((k.rr + i) % 3)

/-- One comparison in the search for the best head. -/
def Core.better (k : Core) (best : Option (Fin 4)) (i : Nat) : Option (Fin 4) :=
  if !k.cx.q[k.ranked i].ready then best
  else match best with
    | none => some (k.ranked i)
    | some b => if k.cx.q[b].effPrio k.cyc < k.cx.q[k.ranked i].effPrio k.cyc then some (k.ranked i) else best

theorem Core.bestHead_eq (k : Core) : k.bestHead = (List.range 3).foldl k.better none := rfl

/-- Heads that are not ready, or not of a higher priority, leave the best one as it is. -/
theorem Core.better_keeps {k : Core} {b : Fin 4} (is : List Nat) (h : ∀ i ∈ is, k.cx.q[k.ranked i].ready = true →
    k.cx.q[k.ranked i].effPrio k.cyc ≤ k.cx.q[b].effPrio k.cyc) : is.foldl k.better (some b) = some b := by
  induction is with
  | nil => rfl
  | cons i is ih =>
    have hstep : k.better (some b) i = some b := by
      unfold Core.better
      split
      · rfl
      · next hr => exact if_neg (Nat.not_lt.2 (h i (by simp) (by simpa using hr)))
    rw [List.foldl_cons, hstep]
    exact ih fun j hj => h j (List.mem_cons_of_mem i hj)

/-- No best head stays none while no head is ready. -/
theorem Core.better_none {k : Core} (is : List Nat) (h : ∀ i ∈ is, k.cx.q[k.ranked i].ready = false) :
    is.foldl k.better none = none := by
  induction is with
  | nil => rfl
  | cons i is ih =>
    have hstep : k.better none i = none := if_pos (by rw [h i (by simp)]; rfl)
    rw [List.foldl_cons, hstep]
    exact ih fun j hj => h j (List.mem_cons_of_mem i hj)

/-- Heads below a priority leave a best head below it, or none. -/
theorem Core.better_below {k : Core} {n : Nat} (is : List Nat) {best : Option (Fin 4)}
    (hb : ∀ b, best = some b → k.cx.q[b].effPrio k.cyc < n)
    (h : ∀ i ∈ is, k.cx.q[k.ranked i].ready = true → k.cx.q[k.ranked i].effPrio k.cyc < n) :
    ∀ b, is.foldl k.better best = some b → k.cx.q[b].effPrio k.cyc < n := by
  induction is generalizing best with
  | nil => exact hb
  | cons i is ih =>
    refine ih (fun b hstep => ?_) fun j hj => h j (List.mem_cons_of_mem i hj)
    have hi := h i (by simp)
    unfold Core.better at hstep
    split at hstep
    · exact hb b hstep
    · next hr =>
      split at hstep
      · obtain rfl := Option.some.inj hstep
        exact hi (by simpa using hr)
      · split at hstep
        · obtain rfl := Option.some.inj hstep
          exact hi (by simpa using hr)
        · exact hb b hstep

/-- The best head: those before it lie below it, those after it do not lie above it. -/
theorem Core.better_finds {k : Core} {before after : List Nat} {i : Nat} (hr : k.cx.q[k.ranked i].ready = true)
    (hbefore : ∀ j ∈ before, k.cx.q[k.ranked j].ready = true → k.cx.q[k.ranked j].effPrio k.cyc < k.cx.q[k.ranked i].effPrio k.cyc)
    (hafter : ∀ j ∈ after, k.cx.q[k.ranked j].ready = true → k.cx.q[k.ranked j].effPrio k.cyc ≤ k.cx.q[k.ranked i].effPrio k.cyc) :
    (before ++ i :: after).foldl k.better none = some (k.ranked i) := by
  have hlow := Core.better_below before (best := none) (by simp) hbefore
  rw [List.foldl_append, List.foldl_cons]
  have hstep : k.better (before.foldl k.better none) i = some (k.ranked i) := by
    unfold Core.better
    rw [if_neg (by rw [hr]; decide)]
    split
    · rfl
    · next b hb => rw [if_pos (hlow b hb)]
  rw [hstep]
  exact Core.better_keeps after hafter

theorem State.bestHead_eq {s : State} {i : Nat} {q : Fin 4} (hi : i < 3) (hq : q = Fin.ofNat 4 ((s.me.rr + i) % 3)) (hr : s.headReady q)
    (hbefore : ∀ j, j < i → s.headReady (Fin.ofNat 4 ((s.me.rr + j) % 3)) → s.headPrio (Fin.ofNat 4 ((s.me.rr + j) % 3)) < s.headPrio q)
    (hafter : ∀ j, i < j → j < 3 → s.headReady (Fin.ofNat 4 ((s.me.rr + j) % 3)) →
      s.headPrio (Fin.ofNat 4 ((s.me.rr + j) % 3)) ≤ s.headPrio q) : s.me.bestHead = some q := by
  subst hq
  simp only [State.headReady_iff, State.headPrio_eq] at hr hbefore hafter
  have hsplit : List.range 3 = List.range i ++ i :: (List.range (2 - i)).map (· + (i + 1)) := by
    interval_cases i <;> rfl
  rw [Core.bestHead_eq, hsplit]
  refine Core.better_finds hr (fun j hj => hbefore j (List.mem_range.1 hj)) fun j hj => ?_
  obtain ⟨m, hm, rfl⟩ := List.mem_map.1 hj
  have := List.mem_range.1 hm
  exact hafter (m + (i + 1)) (by omega) (by omega)

theorem State.bestHead_none {s : State} (h0 : ¬ s.headReady 0) (h1 : ¬ s.headReady 1) (h2 : ¬ s.headReady 2) : s.me.bestHead = none := by
  rw [Core.bestHead_eq]
  refine Core.better_none _ fun i _ => ?_
  have hall : ∀ n, n < 3 → ¬ s.headReady (Fin.ofNat 4 n) := fun n hn => by interval_cases n <;> assumption
  simpa [State.headReady_iff, Core.ranked] using hall ((s.me.rr + i) % 3) (Nat.mod_lt _ (by decide))

/-! ### The choice -/

theorem unheld_iff (e : Entry) : unheld e = true ↔ bitOf e.record 44 = false := by simp [unheld, hHeld]

theorem State.next_busy {s : State} {c : Nat} (h : (s.core c).run ≠ .idle) : s.next c = s := by
  unfold State.next; simp [h]

theorem State.next_chooses {s : State} (h : s.chooses) : s.next s.cur = s.choose s.cur := by
  obtain ⟨hrun, hreb, hpre, hqui, hrecs, hents⟩ := h
  have hblocked : s.me.blockedFor s.me.enc = false := by simp [Core.blockedFor, hrecs, hents]
  unfold State.next
  simp [show s.core s.cur = s.me from rfl, hrun, hreb, hpre, hqui, hblocked]

/-- A choice that finds no strand probes for one (R31 step 5). -/
theorem State.choose_steals {s : State} (hu : s.me.urgentHead = none) (hd : ∀ x ∈ s.cx.dspill ++ s.cx.deque, bitOf x.record 44 = true)
    (hb : s.me.bestHead = none) (h3 : ¬ s.headReady 3) : s.choose s.cur = s.enqueue s.cur .steal := by
  have hdeque : s.me.cx.allDeque.reverse.find? unheld = none :=
    List.find?_eq_none.2 fun x hx => by simpa [unheld, hHeld] using hd x (List.mem_reverse.1 hx)
  unfold State.choose
  simp only [show s.core s.cur = s.me from rfl, hu, hdeque, hb]
  exact if_neg (mt (s.headReady_iff 3).2 h3)

/-- The newest deque entry that is not held is dispatched (R31 step 2). -/
theorem State.choose_deque {s : State} {before after : List Entry} {e : Entry} {he : HandlerEntry} (hu : s.me.urgentHead = none)
    (hd : s.cx.dspill ++ s.cx.deque = before ++ e :: after) (hheld : bitOf e.record 44 = false)
    (hafter : ∀ x ∈ after, bitOf x.record 44 = true) (hh : s.handler s.me.part s.me.enc (bitsOf e.record 63 52) = some he) :
    s.choose s.cur = s.setMe ((s.me.setCx (s.me.cx.dropDeque e.arr)).dispatched e .deque he) := by
  have hdeque : s.me.cx.allDeque.reverse.find? unheld = some e := by
    refine find?_of_split (before := after.reverse) (after := before.reverse) ?_ ((unheld_iff e).2 hheld) fun x hx => ?_
    · rw [show s.me.cx.allDeque = before ++ e :: after from hd]; simp
    · simp [unheld, hHeld, hafter x (List.mem_reverse.1 hx)]
  unfold State.choose
  simp only [show s.core s.cur = s.me from rfl, hu, hdeque]
  rw [State.dispatch_known .deque (by rw [State.core_setCore]; exact hh), State.core_setCore, State.setCore_setCore]
  rfl

/-- The best head of q0 to q2 is taken (R31 step 3). -/
theorem State.choose_best {s : State} {q : Fin 4} (hu : s.me.urgentHead = none) (hd : ∀ x ∈ s.cx.dspill ++ s.cx.deque, bitOf x.record 44 = true)
    (hb : s.me.bestHead = some q) : s.choose s.cur = (s.setMe { s.me with rr := (q.val + 1) % 3 }).takeHead s.cur q := by
  have hdeque : s.me.cx.allDeque.reverse.find? unheld = none :=
    List.find?_eq_none.2 fun x hx => by simpa [unheld, hHeld] using hd x (List.mem_reverse.1 hx)
  unfold State.choose
  simp only [show s.core s.cur = s.me from rfl, hu, hdeque, hb]
  rfl

/-- The head of q3 is taken (R31 step 4). -/
theorem State.choose_last {s : State} (hu : s.me.urgentHead = none) (hd : ∀ x ∈ s.cx.dspill ++ s.cx.deque, bitOf x.record 44 = true)
    (hb : s.me.bestHead = none) (h3 : s.headReady 3) : s.choose s.cur = s.takeHead s.cur 3 := by
  have hdeque : s.me.cx.allDeque.reverse.find? unheld = none :=
    List.find?_eq_none.2 fun x hx => by simpa [unheld, hHeld] using hd x (List.mem_reverse.1 hx)
  unfold State.choose
  simp only [show s.core s.cur = s.me from rfl, hu, hdeque, hb]
  exact if_pos ((s.headReady_iff 3).1 h3)

/-- The urgent head is taken (R31 step 1). -/
theorem State.choose_urgent {s : State} {q : Fin 4} (hu : s.me.urgentHead = some q) :
    s.choose s.cur = (s.setMe { s.me with urgentRr := (q.val + 1) % 4 }).takeHead s.cur q := by
  unfold State.choose
  simp only [show s.core s.cur = s.me from rfl, hu]
  rfl

end Sys2Proof.Machine
end

section
/-! PROOF. O47: stealing, enclave switches, aging, slices and kept records, and the statement. -/

namespace Sys2Proof.Machine

/-! ### Stealing (R32) -/

theorem sameDomain_eq (dom a b : Nat) : sameDomain dom a b = (match dom with
    | 0 => false
    | 1 => clusterOf a == clusterOf b
    | 2 => dieOf a == dieOf b
    | _ => true) := by
  match dom with
  | 0 | 1 | 2 => rfl
  | n + 3 => simp [sameDomain]

theorem State.victims_eq (s : State) : s.victims s.cur =
    (((s.part s.me.part).members.drop (s.me.lnum + 1) ++ (s.part s.me.part).members.take s.me.lnum).filter s.mayProbe).take 8 := by
  unfold State.victims
  simp only [show s.core s.cur = s.me from rfl, sameDomain_eq]
  rfl

/-- A list holds two elements that count when one in its middle does and another does. -/
theorem two_le_filter_split {α : Type} {p : α → Bool} {before after : List α} {a : α} (ha : p a = true) :
    2 ≤ ((before ++ a :: after).filter p).length ↔ ∃ x ∈ before ++ after, p x = true := by
  have hlen : ((before ++ a :: after).filter p).length = ((before ++ after).filter p).length + 1 := by
    simp only [List.filter_append, List.filter_cons_of_pos ha, List.length_append, List.length_cons]
    omega
  rw [hlen, show (2 : Nat) = 1 + 1 from rfl, Nat.add_le_add_iff_right, Nat.one_le_iff_ne_zero, ne_eq, List.length_eq_zero_iff,
    List.filter_eq_nil_iff]
  push Not
  rfl

/-- What a victim of the thief's enclave gives up. -/
theorem State.gives_iff (s : State) (v : Nat) (e : Entry) : s.gives v e ↔ s.giveUp v s.me.enc = some e := by
  have hns : ∀ x : Entry, (unheld x && !hNs x.record) = true ↔ bitOf x.record 44 = false ∧ bitOf x.record 45 = false := fun x => by
    simp [unheld, hHeld, hNs]
  unfold State.gives State.giveUp
  constructor
  · rintro ⟨henc, before, after, hall, h44, h45, hbefore, x, hx, hx44⟩
    have htwo := (two_le_filter_split (before := before) (after := after) ((unheld_iff e).2 h44)).2 ⟨x, hx, (unheld_iff x).2 hx44⟩
    have hall' : (s.core v).cx.allDeque = before ++ e :: after := hall
    have hcond : (decide ((s.core v).enc = s.me.enc) && decide (2 ≤ ((s.core v).cx.allDeque.filter unheld).length)) = true := by
      rw [hall']; exact Bool.and_eq_true_iff.2 ⟨decide_eq_true henc, decide_eq_true htwo⟩
    dsimp only
    rw [if_pos hcond]
    refine find?_of_split hall' ((hns e).2 ⟨h44, h45⟩) fun y hy => ?_
    have := hbefore y hy
    simp only [unheld, hHeld, hNs]
    rcases this with h | h <;> simp [h]
  · intro h
    dsimp only at h
    split at h
    case isFalse => cases h
    case isTrue hcond =>
      simp only [Bool.and_eq_true, decide_eq_true_eq] at hcond
      obtain ⟨hp, before, after, hall, hbefore⟩ := List.find?_eq_some_iff_append.1 h
      obtain ⟨h44, h45⟩ := (hns e).1 hp
      obtain ⟨x, hx, hxu⟩ := (two_le_filter_split (before := before) (after := after) ((unheld_iff e).2 h44)).1 (hall ▸ hcond.2)
      refine ⟨hcond.1, before, after, hall, h44, h45, fun y hy => ?_, x, hx, (unheld_iff x).1 hxu⟩
      have := hbefore y hy
      rw [Bool.not_eq_true', ← Bool.not_eq_true, hns y] at this
      cases h1 : bitOf y.record 44 <;> cases h2 : bitOf y.record 45 <;> simp_all

theorem State.giveUp_none {s : State} {v : Nat} (h : ∀ x, ¬ s.gives v x) : s.giveUp v s.me.enc = none :=
  Option.eq_none_iff_forall_ne_some.2 fun x hx => h x ((s.gives_iff v x).2 hx)

/-- The thief steals from the first of the first eight victims that gives an entry up. -/
theorem State.stealFrom_eq {s : State} {order : List Nat} {i v : Nat} {e : Entry}
    (ho : order = ((s.part s.me.part).members.drop (s.me.lnum + 1) ++ (s.part s.me.part).members.take s.me.lnum).filter s.mayProbe)
    (hi : i < 8) (hv : order[i]? = some v) (hg : s.gives v e) (hbefore : ∀ j w, j < i → order[j]? = some w → ∀ x, ¬ s.gives w x) :
    s.stealFrom s.cur = some (v, e) := by
  unfold State.stealFrom
  rw [State.victims_eq, ← ho]
  refine findSome?_of_getElem? (i := i) (a := v) (by rw [List.getElem?_take_of_lt hi, hv])
    (by rw [show (s.core s.cur).enc = s.me.enc from rfl, (s.gives_iff v e).1 hg]; rfl) fun j w hj hw => ?_
  rw [List.getElem?_take_of_lt (by omega)] at hw
  rw [show (s.core s.cur).enc = s.me.enc from rfl, State.giveUp_none (hbefore j w hj hw)]
  rfl

theorem State.stealFrom_none {s : State} {order : List Nat}
    (ho : order = ((s.part s.me.part).members.drop (s.me.lnum + 1) ++ (s.part s.me.part).members.take s.me.lnum).filter s.mayProbe)
    (h : ∀ (i v : Nat) x, i < 8 → order[i]? = some v → ¬ s.gives v x) : s.stealFrom s.cur = none := by
  unfold State.stealFrom
  rw [State.victims_eq, ← ho]
  refine List.findSome?_eq_none_iff.2 fun v hv => ?_
  obtain ⟨i, hi, rfl⟩ := List.mem_take_iff_getElem.1 hv
  rw [show (s.core s.cur).enc = s.me.enc from rfl,
    State.giveUp_none fun x => h i _ x (by omega) (List.getElem?_eq_getElem (by omega))]
  rfl

/-- A choosing core's probes. -/
theorem State.exec_steal {s : State} (h : s.chooses) : exec .steal s = .next (s.steal s.cur) := by
  obtain ⟨hrun, hreb, hpre, hqui, hrecs, hents⟩ := h
  show execSteal s = _
  simp [execSteal, Core.blockedFor, hrun, hreb, hpre, hqui, hrecs, hents]

/-- What stealing an entry does. -/
theorem State.steal_eq {s : State} {v : Nat} {e : Entry} {he : HandlerEntry} (hs : s.stealFrom s.cur = some (v, e)) (hv : v ≠ s.cur)
    (hh : s.handler s.me.part s.me.enc (bitsOf e.record 63 52) = some he) :
    s.steal s.cur = (s.setCore v ((s.core v).setCx ((s.core v).cx.dropDeque e.arr))).setCore s.cur (s.me.dispatched e .stolen he) := by
  have hme : ∀ k, (s.setCore v k).core s.cur = s.me := fun k => State.core_setCore_other _ _ _ _ (Ne.symm hv)
  unfold State.steal
  simp only [hs]
  rw [State.dispatch_known .stolen (by rw [hme]; exact hh), hme]

/-! ### Enclave switches, aging and slices -/

theorem Core.noLinks (k : Core) (h : k.link = Vector.replicate 4 none) (d : Fin 4) : k.link[d].isSome = false := by
  simp [h]

/-- Clearing links that hold nothing changes nothing (R124). -/
theorem State.clearLinks_empty {s : State} {c : Nat} (h : (s.core c).link = Vector.replicate 4 none) :
    s.clearLinks c = s.setCore c (s.core c) := by
  have hk : ({ s.core c with link := Vector.replicate 4 none } : Core) = s.core c := by rw [← h]
  unfold State.clearLinks
  simp only [Core.noLinks _ h, hk]
  generalize s.setCore c (s.core c) = t
  generalize List.range 4 = is
  induction is with
  | nil => rfl
  | cons i is ih => exact ih

theorem Queue.settle_nil {q : Queue} {cyc : Nat} (h : q.res = []) : q.settle cyc = q := by simp [Queue.settle, h]

theorem Queue.settle_cons {q : Queue} {cyc : Nat} {e : Entry} {es : List Entry} (h : q.res = e :: es) :
    q.settle cyc = { q with since := cyc, res := { e with
      wait := if bitOf e.record 44 then 0 else e.wait + (cyc - q.since) } :: es } := by
  simp only [Queue.settle, Queue.headWait, h]
  rfl

/-- A core that may have work chooses its next action when it is idle. -/
theorem State.wakeIdle_eq (s : State) (c : Nat) : s.wakeIdle c = { s with flight := s.wokenFlight c } := by
  unfold State.wakeIdle State.wokenFlight State.enqueue
  split
  · rfl
  · simp

/-! ### Kept records (R131) -/

/-- With no record kept, the agents write none. -/
theorem State.flushKept_nil {s : State} {p : Nat} (h : (s.part p).kept = []) : s.flushKept p = s.setPart p (s.part p) := by
  unfold State.flushKept
  simp only [h, State.flushList]
  rw [← h]

/-- The one record that a home or an Aster keeps is written when the ring has room. -/
theorem State.flushKept_one {s : State} {p a ctl slot v : Nat} {r : Record} (hk : (s.part p).kept = [(a, r)])
    (hroom : s.faultRoom p = some (ctl, slot, v)) (hc : (s.part p).conts = [] ∨ memNat s.mem (ctl + 12) 4 = 0) (hw : s.memWf)
    (hd : slot + 64 ≤ ctl ∨ ctl + 16 ≤ slot) :
    (s.flushKept p).cores = s.cores ∧ (s.flushKept p).flight = s.flight ∧ ((s.flushKept p).part p).kept = [] ∧
      ((s.flushKept p).part p).conts = (s.part p).conts ∧
      memNat (s.flushKept p).mem slot 64 = r.toNat ∧ memNat (s.flushKept p).mem ctl 8 = (memNat s.mem ctl 8 + 1) % 2 ^ 64 ∧
      memNat (s.flushKept p).mem (ctl + 8) 4 = (v + 1) % 2 ^ 32 := by
  have hroom' : (s.setPart p { s.part p with kept := [] }).faultRoom p = some (ctl, slot, v) := by
    rw [State.faultRoom_setPart_kept, hroom]
  obtain ⟨t, ht, hcores, hflight, -, hpart, hslot, hvalue, hversion⟩ :=
    State.writeFault_room r hroom' (by simpa using hc) (State.memWf_of_eq hw rfl rfl) hd
  have hflush : s.flushKept p = t.noteRoom p a := by
    unfold State.flushKept
    simp only [hk, State.flushList, ht]
  rw [hflush]
  refine ⟨hcores, hflight, ?_, ?_, hslot, hvalue, hversion⟩ <;> simp [State.noteRoom, hpart]

/-- The one record that the core keeps is written when the ring has room. -/
theorem State.flushCore_one {s : State} {p enc ctl slot v : Nat} {r : Record} (hroom : s.faultRoom p = some (ctl, slot, v))
    (hc : (s.part p).conts = []) (hw : s.memWf) (hd : slot + 64 ≤ ctl ∨ ctl + 16 ≤ slot) :
    let t := s.flushCore s.cur p [(enc, r)]
    (t.core s.cur).keptRecs = [] ∧ t.cur = s.cur ∧ (t.part p).zrecs = (s.part p).zrecs ∧ (t.part p).kept = (s.part p).kept ∧
      t.flight = s.wokenFlight s.cur ∧ memNat t.mem slot 64 = r.toNat ∧ memNat t.mem ctl 8 = (memNat s.mem ctl 8 + 1) % 2 ^ 64 ∧
      memNat t.mem (ctl + 8) 4 = (v + 1) % 2 ^ 32 := by
  obtain ⟨t, ht, hcores, hflight, hcur, hpart, hslot, hvalue, hversion⟩ := State.writeFault_room r hroom (.inl hc) hw hd
  have hcore : t.core s.cur = s.core s.cur := by rw [State.core, hcores]; rfl
  simp only [State.flushCore, ht, State.wakeIdle_eq]
  refine ⟨?_, hcur, ?_, ?_, ?_, hslot, hvalue, hversion⟩
  · simp [State.noteRoom, State.core, State.setPart, State.setCore, sget_sset_same]
  · simp [State.noteRoom, State.part, State.setPart, State.setCore, sget_sset_same]; exact congrArg Part.zrecs hpart
  · simp [State.noteRoom, State.part, State.setPart, State.setCore, sget_sset_same]; exact congrArg Part.kept hpart
  · simp [State.wokenFlight, State.noteRoom, State.core, State.setPart, State.setCore, sget_sset_same, hflight]
    rw [show (sget Core.reset s.cur t.cores) = s.core s.cur from hcore]; rfl

end Sys2Proof.Machine
end

section
/-! PROOF. O47: the clauses of the statement. -/

namespace Sys2Proof.Machine

theorem State.exec_nextAction {s : State} (h : s.chooses) : exec .nextAction s = .next (s.choose s.cur) :=
  congrArg Host.Outcome.next (State.next_chooses h)

theorem State.exec_idleRetry {s : State} (hr : s.me.run = .idle) (hi : s.me.idleSince + 1024 ≤ s.me.cyc) :
    exec .idleRetry s = exec .nextAction (s.setMe { s.me with idleSince := s.me.cyc }) := by
  show execIdleRetry s = _
  unfold execIdleRetry
  simp only [hr, hi]
  rfl

/-- Waiting longer changes nothing of what a choice depends on. -/
theorem State.chooses_idleSince {s : State} (n : Nat) (h : s.chooses) : (s.setMe { s.me with idleSince := n }).chooses := by
  simpa [State.chooses] using h

theorem State.headReady_idleSince (s : State) (n : Nat) (q : Fin 4) :
    (s.setMe { s.me with idleSince := n }).headReady q ↔ s.headReady q := by
  simp [State.headReady_iff]; rfl

/-- A choice without a strand to choose. -/
theorem State.choose_nothing {s : State} (hd : ∀ x ∈ s.cx.dspill ++ s.cx.deque, bitOf x.record 44 = true) (hq : ∀ q, ¬ s.headReady q) :
    s.choose s.cur = s.enqueue s.cur .steal :=
  State.choose_steals (State.urgentHead_none fun q hu => hq q hu.1) hd (State.bestHead_none (hq 0) (hq 1) (hq 2)) (hq 3)

/-- The retry of an idle core. -/
theorem State.idleRetry_chooses {s u : State} (hr : s.me.run = .idle) (hi : s.me.idleSince + 1024 ≤ s.me.cyc)
    (hu : u = s.setMe { s.me with idleSince := s.me.cyc }) : ∃ t, exec .idleRetry s = .next t ∧ exec .nextAction u = .next t ∧
      (s.chooses → (∀ x ∈ s.cx.dspill ++ s.cx.deque, bitOf x.record 44 = true) → (∀ q, ¬ s.headReady q) →
        t = u.enqueue s.cur .steal) := by
  subst hu
  refine ⟨_, State.exec_idleRetry hr hi, rfl, fun hc hd hq => ?_⟩
  rw [State.next_chooses (State.chooses_idleSince _ hc), State.choose_nothing _ fun q => mt (s.headReady_idleSince _ q).1 (hq q)]
  · rfl
  · simpa [State.cx, Core.cx] using hd

/-- What a dispatched deque entry leaves behind. -/
theorem State.choose_deque_spec {s : State} {before after : List Entry} {e : Entry} {he : HandlerEntry} (hu : s.me.urgentHead = none)
    (hd : s.cx.dspill ++ s.cx.deque = before ++ e :: after) (hheld : bitOf e.record 44 = false)
    (hafter : ∀ x ∈ after, bitOf x.record 44 = true) (hh : s.handler s.me.part s.me.enc (bitsOf e.record 63 52) = some he) :
    ((s.choose s.cur).core s.cur).started e he s.cx.hbDef ∧ (s.choose s.cur).mem = s.mem ∧ (s.choose s.cur).flight = s.flight ∧
      ((s.choose s.cur).core s.cur).cx.dspill ++ ((s.choose s.cur).core s.cur).cx.deque =
        (s.cx.dspill ++ s.cx.deque).filter (fun x => x.arr != e.arr) := by
  have hstart := Core.dispatched_started (s.me.setCx (s.me.cx.dropDeque e.arr)) e .deque he
  rw [Core.cx_setCx, Ctx.dropDeque_hbDef] at hstart
  rw [State.choose_deque hu hd hheld hafter hh, State.setMe, State.core_setCore]
  refine ⟨hstart, rfl, rfl, ?_⟩
  rw [Core.dispatched_cx, Core.cx_setCx, Ctx.dropDeque_allDeque]
  rfl

/-- Taking a head leaves the core's pointers as they are, where the head's handler is known. -/
theorem State.takeHead_rr {s : State} {q : Fin 4} {e : Entry} {es : List Entry} {he : HandlerEntry} (hk : s.me.keptEntries = [])
    (hres : s.cx.q[q].res = e :: es) (hh : s.handler s.me.part s.me.enc (bitsOf e.record 63 52) = some he) :
    ((s.takeHead s.cur q).core s.cur).rr = s.me.rr := by
  have hq : (s.core s.cur).cx.q[q].res = e :: es := hres
  have hpop := s.popQueue_eq s.me.enc q hk
  unfold State.takeHead
  simp only [hq]
  rw [State.dispatch_known (he := he) (.queue q) (by
    rw [show s.core s.cur = s.me from rfl, hpop]; simpa [hIdx, State.me] using hh), show s.core s.cur = s.me from rfl, hpop]
  simp [Core.dispatched, State.me]

/-- The best head of q0 to q2 is taken, and the pointer moves past it. -/
theorem State.choose_best_spec {s : State} {q : Fin 4} (hc : s.chooses) (hu : s.me.urgentHead = none)
    (hd : ∀ x ∈ s.cx.dspill ++ s.cx.deque, bitOf x.record 44 = true) (hb : s.me.bestHead = some q) :
    (s.choose s.cur).takes s q ∧ (∀ e es he, s.cx.q[q].res = e :: es →
      s.handler s.me.part s.me.enc (bitsOf e.record 63 52) = some he → ((s.choose s.cur).core s.cur).rr = (q.val + 1) % 3) := by
  obtain ⟨-, -, -, -, -, hk⟩ := hc
  have hk' : (s.setMe { s.me with rr := (q.val + 1) % 3 }).me.keptEntries = [] := by simpa using hk
  rw [State.choose_best hu hd hb]
  refine ⟨State.takes_of_setMe (k := { s.me with rr := (q.val + 1) % 3 }) rfl rfl rfl (State.takeHead_takes q hk'), fun e es he hres hh => ?_⟩
  have hrr := State.takeHead_rr (s := s.setMe { s.me with rr := (q.val + 1) % 3 }) (q := q) (e := e) (es := es) (he := he) hk'
    (by simpa [State.cx, Core.cx] using hres) (by simpa using hh)
  rw [State.me_setMe] at hrr
  exact hrr

/-- What stealing an entry leaves behind. -/
theorem State.steal_spec {s : State} {v : Nat} {e : Entry} {he : HandlerEntry} (hs : s.stealFrom s.cur = some (v, e)) (hv : v ≠ s.cur)
    (hh : s.handler s.me.part s.me.enc (bitsOf e.record 63 52) = some he) :
    ((s.steal s.cur).core s.cur).started e he s.cx.hbDef ∧ (s.steal s.cur).mem = s.mem ∧
      ((s.steal s.cur).core v).cx.dspill ++ ((s.steal s.cur).core v).cx.deque =
        ((s.core v).cx.dspill ++ (s.core v).cx.deque).filter (fun x => x.arr != e.arr) := by
  rw [State.steal_eq hs hv hh, State.core_setCore]
  refine ⟨Core.dispatched_started s.me e .stolen he, rfl, ?_⟩
  rw [State.core_setCore_other _ _ _ _ hv, State.core_setCore, Core.cx_setCx, Ctx.dropDeque_allDeque]

theorem State.steal_fails {s : State} (hs : s.stealFrom s.cur = none) :
    s.steal s.cur = s.setMe { s.me with idleSince := s.me.cyc } := by
  unfold State.steal
  simp only [hs]
  rfl

/-- The switch to the next enclave. -/
theorem State.next_switches {s : State} (hr : s.me.run = .idle) (hreb : (s.part s.me.part).rebuilding = false) (hp : s.me.preempt = true)
    (he : 1 < s.me.encs) (hpend : s.page1Pending s.cur = false) (hl : s.me.link = Vector.replicate 4 none)
    (hring : (s.me.cxOf ((s.me.enc + 1) % s.me.encs)).ring = []) : ∃ t, exec .nextAction s = .next t ∧
    (t.core s.cur).enc = (s.me.enc + 1) % s.me.encs ∧ (t.core s.cur).preempt = false ∧ (t.core s.cur).sliceStart = s.me.cyc ∧
    t.flight = s.flight ++ [(s.cur, .nextAction)] := by
  have hnext : s.next s.cur = (s.switchTo s.cur ((s.me.enc + 1) % s.me.encs)).enqueue s.cur .nextAction := by
    unfold State.next
    simp [show s.core s.cur = s.me from rfl, hr, hreb, hp, he, hpend]
  refine ⟨_, congrArg Host.Outcome.next hnext, ?_⟩
  unfold State.switchTo
  simp only [State.clearLinks_empty hl, State.core_setCore, show s.core s.cur = s.me from rfl, hring]
  simp [State.drainRing, State.bounceAll, State.enqueue, State.core, State.setCore, sget_sset_same]

/-- Aging brings the head waits up to the core's counter. -/
theorem State.headAging_spec (s : State) : ∃ w : Vector Queue 4, exec .headAging s = .next (s.setCx { s.cx with q := w }) ∧ ∀ q : Fin 4,
    (s.cx.q[q].res = [] → w[q] = s.cx.q[q]) ∧
    (∀ e es, s.cx.q[q].res = e :: es → w[q] = { s.cx.q[q] with since := s.me.cyc, res := { e with
      wait := if bitOf e.record 44 then 0 else e.wait + (s.me.cyc - s.cx.q[q].since) } :: es }) := by
  refine ⟨s.cx.q.map (fun q => q.settle s.me.cyc), rfl, fun q => ?_⟩
  have hq : (s.cx.q.map (fun q => q.settle s.me.cyc))[q] = s.cx.q[q].settle s.me.cyc := by simp
  rw [hq]
  exact ⟨Queue.settle_nil, fun e es => Queue.settle_cons⟩

/-- The end of a slice. -/
theorem State.sliceExpiry_spec (s : State) :
    (s.me.live = true → 1 < s.me.encs → s.me.sliceStart + (s.part s.me.part).slices.getD s.me.enc 0 ≤ s.me.cyc → s.me.preempt = false →
      exec .sliceExpiry s = .next { s.setMe { s.me with preempt := true } with flight := s.wokenFlight s.cur }) ∧
    (s.me.encs ≤ 1 ∨ s.me.preempt = true ∨ s.me.cyc < s.me.sliceStart + (s.part s.me.part).slices.getD s.me.enc 0 →
      exec .sliceExpiry s = .next s) := by
  refine ⟨fun hl he hc hp => ?_, fun h => ?_⟩
  · show execSliceExpiry s = _
    have hwoken : (s.setMe { s.me with preempt := true }).wokenFlight s.cur = s.wokenFlight s.cur := by
      simp [State.wokenFlight, State.setMe]; rfl
    rw [← hwoken]
    simp only [execSliceExpiry, hl, he, hc, hp, decide_true, Bool.and_true, Bool.not_false, if_true]
    exact congrArg Host.Outcome.next (State.wakeIdle_eq _ _)
  · refine if_neg fun hall => ?_
    simp only [Bool.and_eq_true, decide_eq_true_eq, Bool.not_eq_true'] at hall
    obtain ⟨⟨⟨-, h1⟩, h2⟩, h3⟩ := hall
    rcases h with h | h | h
    · omega
    · simp [h] at h3
    · omega

theorem State.flushZenith_nil (s : State) (p : Nat) : s.flushZenith p [] = s := rfl

/-- The record that the core keeps is written. -/
theorem State.deferred_core {s : State} {enc ctl slot v : Nat} {r : Record} (hr : s.me.keptRecs = [(enc, r)])
    (hz : (s.part s.me.part).zrecs = []) (hc : (s.part s.me.part).conts = []) (hk : (s.part s.me.part).kept = []) (hw : s.memWf)
    (hroom : s.faultRoom s.me.part = some (ctl, slot, v)) (hd : slot + 64 ≤ ctl ∨ ctl + 16 ≤ slot) : ∃ t,
    exec .faultRecordDeferred s = .next t ∧ (t.core s.cur).keptRecs = [] ∧ memNat t.mem slot 64 = r.toNat ∧
    memNat t.mem ctl 8 = (memNat s.mem ctl 8 + 1) % 2 ^ 64 ∧ memNat t.mem (ctl + 8) 4 = (v + 1) % 2 ^ 32 ∧
    t.flight = s.wokenFlight s.cur := by
  obtain ⟨hrecs, hcur, hzen, hkept, hflight, hslot, hvalue, hversion⟩ := State.flushCore_one (enc := enc) (r := r) hroom hc hw hd
  have hrun : exec .faultRecordDeferred s = .next ((s.flushCore s.cur s.me.part [(enc, r)]).flushKept s.me.part) := by
    show execFaultRecordDeferred s = _
    unfold execFaultRecordDeferred
    simp only [hr, List.isEmpty_cons, Bool.false_eq_true, if_false, hzen, hz, State.flushZenith_nil]
  rw [State.flushKept_nil (hkept.trans hk)] at hrun
  exact ⟨_, hrun, hrecs, hslot, hvalue, hversion, hflight⟩

/-- The record that a home or an Aster keeps is written. -/
theorem State.deferred_agent {s : State} {a ctl slot v : Nat} {r : Record} (hr : s.me.keptRecs = [])
    (hz : (s.part s.me.part).zrecs = []) (hc : (s.part s.me.part).conts = []) (hk : (s.part s.me.part).kept = [(a, r)]) (hw : s.memWf)
    (hroom : s.faultRoom s.me.part = some (ctl, slot, v)) (hd : slot + 64 ≤ ctl ∨ ctl + 16 ≤ slot) : ∃ t,
    exec .faultRecordDeferred s = .next t ∧ t.cores = s.cores ∧ (t.part s.me.part).kept = [] ∧ memNat t.mem slot 64 = r.toNat ∧
    memNat t.mem ctl 8 = (memNat s.mem ctl 8 + 1) % 2 ^ 64 ∧ memNat t.mem (ctl + 8) 4 = (v + 1) % 2 ^ 32 ∧ t.flight = s.flight := by
  have hrun : exec .faultRecordDeferred s = .next (s.flushKept s.me.part) := by
    show execFaultRecordDeferred s = _
    unfold execFaultRecordDeferred
    simp only [hr, List.isEmpty_nil, if_true, hz, State.flushZenith_nil]
  obtain ⟨hcores, hflight, hkept, -, hslot, hvalue, hversion⟩ := State.flushKept_one hk hroom (.inl hc) hw hd
  exact ⟨_, hrun, hcores, hkept, hslot, hvalue, hversion, hflight⟩

/-- The choices of a core that may choose. -/
theorem State.urgent_taken {s : State} (hc : s.chooses) {i : Nat} {q : Fin 4} (hi : i < 4) (hq : q = Fin.ofNat 4 (s.me.urgentRr + i))
    (hu : s.urgent q) (hbefore : ∀ j, j < i → ¬ s.urgent (Fin.ofNat 4 (s.me.urgentRr + j))) :
    ∃ t, exec .nextAction s = .next t ∧ t.takes s q := by
  refine ⟨_, State.exec_nextAction hc, ?_⟩
  rw [State.choose_urgent (State.urgentHead_eq hi hq hu hbefore)]
  obtain ⟨-, -, -, -, -, hk⟩ := hc
  exact State.takes_of_setMe (k := { s.me with urgentRr := (q.val + 1) % 4 }) rfl rfl rfl (State.takeHead_takes q (by simpa using hk))

end Sys2Proof.Machine

/-- Settles O47: the choice is followed through the steps of R31 in their order; the search for the best head keeps the best one
so far, a victim gives an entry up just when `giveUp` finds it, and a kept record is written into the ring's room. -/
theorem strandsDispatched : Obligations.StrandsDispatched := by
  open Sys2Proof.Machine in
  unfold Obligations.StrandsDispatched
  refine ⟨fun s hr => ⟨?_, ?_, ?_⟩, fun s u hr hi hu => State.idleRetry_chooses hr hi hu, fun s hc => ⟨?_, fun hu => ⟨?_, ?_⟩, ?_, ?_, ?_⟩,
    ?_, State.headAging_spec, State.sliceExpiry_spec, ?_, ?_⟩
  · exact congrArg Host.Outcome.next (State.next_busy hr)
  · exact if_neg (by simp [hr])
  · exact if_pos (by simp [hr])
  · exact fun i q hi hq hu hb => State.urgent_taken hc hi hq hu hb
  · exact fun before e after he hd hheld hafter hh =>
      ⟨_, State.exec_nextAction hc, State.choose_deque_spec (State.urgentHead_none hu) hd hheld hafter hh⟩
  · refine fun hd => ⟨fun i q hi hq hr hb ha => ⟨_, State.exec_nextAction hc, State.choose_best_spec hc (State.urgentHead_none hu) hd
      (State.bestHead_eq hi hq hr hb ha)⟩, fun h0 h1 h2 => ⟨fun h3 => ⟨_, State.exec_nextAction hc, ?_⟩, fun h3 => ?_⟩⟩
    · rw [State.choose_last (State.urgentHead_none hu) hd (State.bestHead_none h0 h1 h2) h3]
      obtain ⟨-, -, -, -, -, hkept⟩ := hc
      exact State.takeHead_takes 3 hkept
    · rw [State.exec_nextAction hc, State.choose_steals (State.urgentHead_none hu) hd (State.bestHead_none h0 h1 h2) h3]
  · refine fun order ho => ⟨fun i v e he hi hv hg hb hne hh => ⟨_, State.exec_steal hc,
      State.steal_spec (State.stealFrom_eq ho hi hv hg hb) hne hh⟩, fun hn => ?_⟩
    rw [State.exec_steal hc, State.steal_fails (State.stealFrom_none ho hn)]
  · obtain ⟨hidle, -⟩ := hc
    exact State.exec_idleRetry hidle
  · exact fun hi => if_neg (by simp [Nat.not_le.2 hi])
  · exact fun s hr hreb hp he hpend hl hring => State.next_switches hr hreb hp he hpend hl hring
  · exact fun s enc ctl slot v r hr hz _ hc hk hw hroom hd => State.deferred_core hr hz hc hk hw hroom hd
  · exact fun s a ctl slot v r hr hz _ hc hk hw hroom hd => State.deferred_agent hr hz hc hk hw hroom hd
end

section
/-! PROOF. What an arrival does (R33, R115, R116, R117). -/

namespace Sys2Proof.Machine

/-! ### Ranked insertion (R116) -/

/-- An entry is inserted at its place in the ranking. -/
theorem rankInsert_split (e : Entry) (es : List Entry) : ∃ before after, es = before ++ after ∧ rankInsert e es = before ++ e :: after ∧
    ranked (hPrio e.record) e.arr before after := by
  induction es with
  | nil => exact ⟨[], [], rfl, rfl, by simp [ranked]⟩
  | cons x xs ih =>
    obtain ⟨before, after, hes, hins, hbefore, hafter⟩ := ih
    unfold rankInsert
    split
    · next hheld =>
      refine ⟨x :: before, after, by rw [hes]; rfl, by rw [hins]; rfl, fun y hy => ?_, hafter⟩
      rcases List.mem_cons.1 hy with rfl | hy
      · exact .inl hheld
      · exact hbefore y hy
    · next hheld =>
      split
      · next hlow =>
        refine ⟨[], x :: xs, rfl, rfl, by simp, fun y ys hy => ?_⟩
        obtain ⟨rfl, -⟩ := List.cons.inj hy
        refine ⟨by simpa [hHeld] using hheld, ?_⟩
        simp only [Bool.or_eq_true, Bool.and_eq_true, decide_eq_true_eq] at hlow
        exact hlow.imp id fun h => ⟨h.1.symm, h.2⟩
      · next hlow =>
        refine ⟨x :: before, after, by rw [hes]; rfl, by rw [hins]; rfl, fun y hy => ?_, hafter⟩
        rcases List.mem_cons.1 hy with rfl | hy
        · simp only [Bool.or_eq_true, Bool.and_eq_true, decide_eq_true_eq, not_or, not_and, Nat.not_lt] at hlow
          rcases Nat.lt_or_eq_of_le hlow.1 with h | h
          · exact .inr (.inl h)
          · exact .inr (.inr ⟨h, hlow.2 h.symm⟩)
        · exact hbefore y hy

/-- Entries of different arrivals: removing one of them by its arrival leaves the others. -/
theorem filter_arr_split {l1 l2 : List Entry} {x : Entry} (h : ((l1 ++ x :: l2).map (·.arr)).Nodup) :
    (l1 ++ x :: l2).filter (fun y => y.arr != x.arr) = l1 ++ l2 := by
  simp only [List.map_append, List.map_cons, List.nodup_append, List.nodup_cons, List.mem_map, List.mem_cons] at h
  obtain ⟨-, ⟨hx2, -⟩, hx1⟩ := h
  rw [List.filter_append, List.filter_cons_of_neg (by simp)]
  congr 1
  · exact List.filter_eq_self.2 fun y hy => by simpa using hx1 y.arr ⟨y, hy, rfl⟩ x.arr (.inl rfl)
  · exact List.filter_eq_self.2 fun y hy => by simpa using fun h => hx2 ⟨y, hy, h⟩

/-- The lowest-ranked entry that is not held is dropped. -/
theorem dropLowest_split {es l1 l2 : List Entry} {x : Entry} (hes : es = l1 ++ x :: l2) (hx : bitOf x.record 44 = false)
    (hheld : ∀ y ∈ l2, bitOf y.record 44 = true) (hn : (es.map (·.arr)).Nodup) : dropLowest es = (l1 ++ l2, [x]) := by
  have hfind : es.reverse.find? (fun e => !hHeld e.record) = some x :=
    find?_of_split (before := l2.reverse) (after := l1.reverse) (by rw [hes]; simp) (by simp [hHeld, hx])
      fun y hy => by simp [hHeld, hheld y (List.mem_reverse.1 hy)]
  unfold dropLowest
  rw [hfind]
  subst hes
  simp only [filter_arr_split hn]

/-- Of entries of which one is not held, one is dropped. -/
theorem dropLowest_one {es : List Entry} {e : Entry} (he : e ∈ es) (hh : bitOf e.record 44 = false) : (dropLowest es).2.length = 1 := by
  unfold dropLowest
  split
  · rfl
  · next h =>
    have := List.find?_eq_none.1 h e (by simpa using he)
    simp [hHeld, hh] at this

/-! ### The queue after a ranked arrival -/

/-- An arrival that merges with no entry takes its place. -/
theorem Queue.arriveRanked_insert {q : Queue} {e : Entry} (cyc : Nat)
    (hm : bitsOf q.cfg 1 0 = 1 ∨ (bitsOf q.cfg 1 0 = 2 ∧ ∀ x ∈ q.res, ¬ (bitOf x.record 44 = false ∧ hKey x.record = hKey e.record))) :
    q.arriveRanked e cyc = if q.cap < (rankInsert e q.res).length then
      (q.setRes (dropLowest (rankInsert e q.res)).1 cyc, (dropLowest (rankInsert e q.res)).2)
    else (q.setRes (rankInsert e q.res) cyc, []) := by
  have hnone : q.res.find? (fun x => q.mode == 2 && !hHeld x.record && hKey x.record == hKey e.record) = none := by
    refine List.find?_eq_none.2 fun x hx hc => ?_
    simp only [Queue.mode, hHeld, Bool.and_eq_true, beq_iff_eq, Bool.not_eq_true'] at hc
    obtain ⟨⟨hmode, hheld⟩, hkey⟩ := hc
    rcases hm with hm | ⟨-, hm⟩
    · omega
    · exact hm x hx ⟨hheld, hkey⟩
  unfold Queue.arriveRanked
  rw [hnone]

/-- The entry with which an arrival merges. -/
theorem Queue.find_merging {q : Queue} {e x : Entry} {l1 l2 : List Entry} (hmode : bitsOf q.cfg 1 0 = 2) (hres : q.res = l1 ++ x :: l2)
    (h1 : ∀ y ∈ l1, ¬ (bitOf y.record 44 = false ∧ hKey y.record = hKey e.record)) (hx : bitOf x.record 44 = false)
    (hk : hKey x.record = hKey e.record) :
    q.res.find? (fun y => q.mode == 2 && !hHeld y.record && hKey y.record == hKey e.record) = some x := by
  refine find?_of_split hres (by simp [Queue.mode, hmode, hHeld, hx, hk]) fun y hy => ?_
  have := h1 y hy
  simp only [Queue.mode, hmode, hHeld, Bool.and_eq_false_iff, beq_eq_false_iff_ne, ne_eq, Bool.not_eq_false']
  by_cases h : bitOf y.record 44 = true
  · exact .inl (.inr h)
  · exact .inr fun hkey => this ⟨by simpa using h, hkey⟩

/-- An arrival of a lower priority gives way to the entry of its key. -/
theorem Queue.arriveRanked_loses {q : Queue} {e x : Entry} {l1 l2 : List Entry} (cyc : Nat) (hmode : bitsOf q.cfg 1 0 = 2)
    (hres : q.res = l1 ++ x :: l2) (h1 : ∀ y ∈ l1, ¬ (bitOf y.record 44 = false ∧ hKey y.record = hKey e.record))
    (hx : bitOf x.record 44 = false) (hk : hKey x.record = hKey e.record) (hp : hPrio e.record < hPrio x.record) :
    q.arriveRanked e cyc = (q, [e]) := by
  unfold Queue.arriveRanked
  rw [Queue.find_merging hmode hres h1 hx hk]
  exact if_neg (Nat.not_le.2 hp)

/-- The arrival that takes the place of the entry of its key: with its arrival time and its head wait. -/
def Queue.merged (q : Queue) (e x : Entry) (cyc : Nat) : Entry :=
  { e with arr := x.arr, wait := if q.res.head?.map (·.arr) = some x.arr then q.headWait cyc else x.wait }

/-- An arrival of at least the priority takes the place of the entry of its key. -/
theorem Queue.arriveRanked_wins {q : Queue} {e x : Entry} {l1 l2 : List Entry} (cyc : Nat) (hmode : bitsOf q.cfg 1 0 = 2)
    (hres : q.res = l1 ++ x :: l2) (h1 : ∀ y ∈ l1, ¬ (bitOf y.record 44 = false ∧ hKey y.record = hKey e.record))
    (hx : bitOf x.record 44 = false) (hk : hKey x.record = hKey e.record) (hp : hPrio x.record ≤ hPrio e.record)
    (hn : (q.res.map (·.arr)).Nodup) :
    (q.arriveRanked e cyc).1.res = (q.setRes (rankInsert (q.merged e x cyc) (l1 ++ l2)) cyc).res ∧ (q.arriveRanked e cyc).2 = [x] := by
  have hfilter : q.res.filter (fun y => y.arr != x.arr) = l1 ++ l2 := by
    rw [hres] at hn ⊢; exact filter_arr_split hn
  unfold Queue.arriveRanked
  rw [Queue.find_merging hmode hres h1 hx hk]
  simp only [hp, if_true, hfilter]
  exact ⟨rfl, trivial⟩

/-- The wait that the merged arrival takes over. -/
theorem Queue.merged_wait {q : Queue} {x : Entry} (e : Entry) {l1 l2 : List Entry} (cyc : Nat) (hres : q.res = l1 ++ x :: l2)
    (hx : bitOf x.record 44 = false) (hn : (q.res.map (·.arr)).Nodup) :
    (q.merged e x cyc).wait = if l1 = [] then x.wait + (cyc - q.since) else x.wait := by
  unfold Queue.merged Queue.headWait
  cases l1 with
  | nil => simp [hres, hHeld, hx]
  | cons y ys =>
    have hne : y.arr ≠ x.arr := by
      simp only [hres, List.cons_append, List.map_cons, List.nodup_cons, List.mem_map] at hn
      exact fun h => hn.1 ⟨x, by simp, h.symm⟩
    simp [hres, hne]

/-- Settling the old head's wait leaves the merged arrival as it is. -/
theorem Queue.setRes_merged (q : Queue) (e x : Entry) (before after : List Entry) (cyc : Nat) :
    (q.setRes (before ++ q.merged e x cyc :: after) cyc).res[before.length]? = some (q.merged e x cyc) := by
  have hat : (before ++ q.merged e x cyc :: after)[before.length]? = some (q.merged e x cyc) := by simp
  rcases q.setRes_res (before ++ q.merged e x cyc :: after) cyc with h | ⟨h0, hs, -, -, w, hhead, -, -, hw, h⟩
  · rw [h, hat]
  · rw [h, List.getElem?_map, hat, Option.map_some]
    congr 1
    split
    · next harr =>
      have hx : x.arr = h0.arr := harr
      simp [Queue.merged, hhead, hx, hw]
    · rfl

end Sys2Proof.Machine
end

section
/-! PROOF. O44: arrivals of messages, at the level of the state. -/

namespace Sys2Proof.Machine

/-! ### What an arrival depends on -/

theorem State.arrivesNow.heldBehind {s : State} {m : Msg} (h : m.chan < 1024 → (s.core m.chan).engine = []) : s.heldBehind m = false := by
  unfold State.heldBehind
  by_cases hc : m.chan < 1024
  · simp [h hc]
  · simp [hc]

/-- A message that no engine keeps is accepted without further ado (R117). -/
theorem State.accepted_unkept {s : State} {m : Msg} (h : m.chan < 1024 → (s.core m.chan).engine = []) : s.accepted m = s := by
  unfold State.accepted
  by_cases hc : m.chan < 1024
  · simp [h hc]
  · simp [hc]

/-- An arrival changes no message engine. -/
theorem State.engine_setCxOf {s : State} {c d enc n : Nat} {x : Ctx} :
    ((s.setCore c ({ s.core c with seqno := n }.setCxOf enc x)).core d).engine = (s.core d).engine := by
  by_cases h : d = c
  · subst h; simp
  · rw [State.core_setCore_other _ _ _ _ h]

/-- A message whose engine is empty goes back to it, and is due 512 cycles later (R117). -/
theorem State.bounce_empty {s : State} {m : Msg} (hc : m.chan < 1024) (h : (s.core m.chan).engine = []) :
    s.bounce m = s.setCore m.chan { s.core m.chan with
      engine := [{ msg := { m with mcast := none }, due := some ((s.core m.chan).cyc + 512), sent := false }] } := by
  unfold State.bounce State.keepMsg State.engineFull
  simp only [h, hc]
  rfl

/-- A message for the running enclave of a live core goes to its queue. -/
theorem State.arrive_now {s : State} {m : Msg} (h : s.arrivesNow m) : s.arrive m =
    match s.arriveQueue m.site m.enc m.queue (entryOf m (s.core m.site).seqno) with
    | some t => (t.accepted m).wakeIdle m.site
    | none => s.bounce m := by
  obtain ⟨hlive, hpart, henc, hengine⟩ := h
  unfold State.arrive
  simp only [hlive, hpart, henc, State.arrivesNow.heldBehind hengine, Bool.not_true, Bool.false_or, ne_eq, not_true_eq_false,
    decide_false, Bool.false_eq_true, if_false, if_true] <;> rfl

theorem entryOf_isOf (m : Msg) (arr : Nat) : (entryOf m arr).isOf m := ⟨rfl, rfl, rfl, rfl, rfl⟩

theorem isHost_other {m : Msg} (h : m.src ≠ 0x7ff) (arr : Nat) : isHost (entryOf m arr) = false := by
  simp [isHost, entryOf, h]

/-! ### FIFO arrivals (R115) -/

/-- The site with a queue of an enclave replaced, at an arrival. -/
def State.withQueue (s : State) (m : Msg) (q : Queue) : State :=
  s.setCore m.site ({ s.core m.site with seqno := (s.core m.site).seqno + 1 }.setCxOf m.enc
    { (s.core m.site).cxOf m.enc with q := ((s.core m.site).cxOf m.enc).q.set m.queue q })

theorem State.withQueue_queue (s : State) (m : Msg) (q : Queue) : (((s.withQueue m q).core m.site).cxOf m.enc).q[m.queue] = q := by
  simp [State.withQueue]

theorem State.withQueue_engine (s : State) (m : Msg) (q : Queue) (c : Nat) : ((s.withQueue m q).core c).engine = (s.core c).engine :=
  State.engine_setCxOf

theorem State.withQueue_woken (s : State) (m : Msg) (q : Queue) : (s.withQueue m q).wokenFlight m.site = s.wokenFlight m.site := by
  simp [State.wokenFlight, State.withQueue]

/-- A FIFO arrival that finds a place (R115). -/
theorem State.arrive_fifo {s : State} {m : Msg} (h : s.arrivesNow m) {q' : Queue}
    (hmode : bitsOf (((s.core m.site).cxOf m.enc).q[m.queue]).cfg 1 0 = 0)
    (hq : (((s.core m.site).cxOf m.enc).q[m.queue]).arriveFifo (entryOf m (s.core m.site).seqno) (s.part m.part).spill
      (s.core m.site).cyc = some q') :
    s.arrive m = { s.withQueue m q' with flight := s.wokenFlight m.site } := by
  obtain ⟨-, hpart, -, hengine⟩ := id h
  rw [← hpart] at hq
  have harr : s.arriveQueue m.site m.enc m.queue (entryOf m (s.core m.site).seqno) = some (s.withQueue m q') := by
    unfold State.arriveQueue
    simp only [show (((s.core m.site).cxOf m.enc).q[m.queue]).mode = 0 from hmode, if_true, hq]
    rfl
  have hacc : (s.withQueue m q').accepted m = s.withQueue m q' :=
    State.accepted_unkept fun hc => (s.withQueue_engine m q' _).trans (hengine hc)
  rw [State.arrive_now h, harr]
  simp only [hacc, State.wakeIdle_eq, State.withQueue_woken]

/-- A FIFO arrival that finds none bounces (R115). -/
theorem State.arrive_fifo_full {s : State} {m : Msg} (h : s.arrivesNow m)
    (hmode : bitsOf (((s.core m.site).cxOf m.enc).q[m.queue]).cfg 1 0 = 0)
    (hq : (((s.core m.site).cxOf m.enc).q[m.queue]).arriveFifo (entryOf m (s.core m.site).seqno) (s.part m.part).spill
      (s.core m.site).cyc = none) : s.arrive m = s.bounce m := by
  obtain ⟨-, hpart, -, -⟩ := id h
  rw [← hpart] at hq
  have harr : s.arriveQueue m.site m.enc m.queue (entryOf m (s.core m.site).seqno) = none := by
    unfold State.arriveQueue
    simp only [show (((s.core m.site).cxOf m.enc).q[m.queue]).mode = 0 from hmode, if_true, hq]
  rw [State.arrive_now h, harr]

/-- The place a FIFO queue gives an arrival. -/
theorem Queue.arriveFifo_resident {q : Queue} {e : Entry} {cap cyc : Nat} (h : q.res.length < bitsOf q.cfg 8 4) :
    q.arriveFifo e cap cyc = some (q.setRes (q.res ++ [e]) cyc) := if_pos h

theorem Queue.arriveFifo_spilled {q : Queue} {e : Entry} {cap cyc : Nat} (h : bitsOf q.cfg 8 4 ≤ q.res.length)
    (hs : (ordinary q.spill).length < cap) : q.arriveFifo e cap cyc = some { q with spill := q.spill ++ [e] } := by
  unfold Queue.arriveFifo
  rw [if_neg (Nat.not_lt.2 (show q.cap ≤ q.res.length from h)), if_pos]
  exact Bool.or_eq_true_iff.2 (.inr (decide_eq_true hs))

theorem Queue.arriveFifo_bounced {q : Queue} {e : Entry} {cap cyc : Nat} (h : bitsOf q.cfg 8 4 ≤ q.res.length)
    (hs : cap ≤ (ordinary q.spill).length) (he : isHost e = false) : q.arriveFifo e cap cyc = none := by
  unfold Queue.arriveFifo
  rw [if_neg (Nat.not_lt.2 (show q.cap ≤ q.res.length from h)), if_neg]
  rw [he, Bool.false_or, decide_eq_true_eq]
  exact Nat.not_lt.2 hs

/-! ### Ranked arrivals (R116) -/

/-- The state after a ranked arrival, whose discarded entries give back what they hold of the host. -/
def State.withRanked (s : State) (m : Msg) (q : Queue × List Entry) : State :=
  (s.setCore m.site ({ s.core m.site with seqno := (s.core m.site).seqno + 1 }.setCxOf m.enc
    { (s.core m.site).cxOf m.enc with
        q := ((s.core m.site).cxOf m.enc).q.set m.queue q.1
        smc := dropsMore ((s.core m.site).cxOf m.enc).smc q.2.length })).creditBack m.part m.queue q.2

theorem State.arrive_ranked {s : State} {m : Msg} (h : s.arrivesNow m)
    (hmode : bitsOf (((s.core m.site).cxOf m.enc).q[m.queue]).cfg 1 0 ≠ 0) :
    s.arrive m = { s.withRanked m ((((s.core m.site).cxOf m.enc).q[m.queue]).arriveRanked (entryOf m (s.core m.site).seqno)
      (s.core m.site).cyc) with flight := s.wokenFlight m.site } := by
  obtain ⟨-, hpart, -, hengine⟩ := id h
  generalize hq : (((s.core m.site).cxOf m.enc).q[m.queue]).arriveRanked (entryOf m (s.core m.site).seqno) (s.core m.site).cyc = q
  have harr : s.arriveQueue m.site m.enc m.queue (entryOf m (s.core m.site).seqno) = some (s.withRanked m q) := by
    unfold State.arriveQueue State.withRanked
    rw [if_neg (show ¬ (((s.core m.site).cxOf m.enc).q[m.queue]).mode = 0 from hmode), hq, ← hpart]
    rfl
  have hacc : (s.withRanked m q).accepted m = s.withRanked m q :=
    State.accepted_unkept fun hc => State.engine_setCxOf.trans (hengine hc)
  have hwoken : (s.withRanked m q).wokenFlight m.site = s.wokenFlight m.site := by
    simp [State.wokenFlight, State.withRanked]
  rw [State.arrive_now h, harr]
  simp only [hacc, State.wakeIdle_eq, hwoken]

theorem State.withRanked_queue (s : State) (m : Msg) (q : Queue × List Entry) :
    (((s.withRanked m q).core m.site).cxOf m.enc).q[m.queue] = q.1 := by
  simp [State.withRanked]

theorem State.withRanked_smc (s : State) (m : Msg) (q : Queue × List Entry) :
    (((s.withRanked m q).core m.site).cxOf m.enc).smc = dropsMore ((s.core m.site).cxOf m.enc).smc q.2.length := by
  simp [State.withRanked]

/-- What a ranked queue makes of an arrival that merges with none of its entries. -/
theorem Queue.arriveRanked_place {q : Queue} {e : Entry} (cyc : Nat)
    (hm : bitsOf q.cfg 1 0 = 1 ∨ (bitsOf q.cfg 1 0 = 2 ∧ ∀ x ∈ q.res, ¬ (bitOf x.record 44 = false ∧ hKey x.record = hKey e.record))) :
    ∃ before after, q.res = before ++ after ∧ ranked (hPrio e.record) e.arr before after ∧
      (q.res.length < bitsOf q.cfg 8 4 → (q.arriveRanked e cyc).1.res.map (·.record) =
        before.map (·.record) ++ e.record :: after.map (·.record) ∧ (q.arriveRanked e cyc).2.length = 0) ∧
      (bitsOf q.cfg 8 4 ≤ q.res.length → bitOf e.record 44 = false → (e.arr :: q.res.map (·.arr)).Nodup →
        (q.arriveRanked e cyc).2.length = 1 ∧
        ∀ l1 x l2, before ++ e :: after = l1 ++ x :: l2 → bitOf x.record 44 = false → (∀ y ∈ l2, bitOf y.record 44 = true) →
          (q.arriveRanked e cyc).1.res.map (·.record) = (l1 ++ l2).map (·.record)) := by
  obtain ⟨before, after, hres, hins, hrank⟩ := rankInsert_split e q.res
  have hlen : (rankInsert e q.res).length = q.res.length + 1 := by rw [hins, hres]; simp; omega
  have hcap : q.cap = bitsOf q.cfg 8 4 := rfl
  rw [Queue.arriveRanked_insert cyc hm]
  refine ⟨before, after, hres, hrank, fun hroom => ?_, fun hfull hheld hn => ?_⟩
  · rw [if_neg (by omega), Queue.setRes_records, hins]
    simp
  · rw [if_pos (by omega)]
    refine ⟨dropLowest_one (e := e) (by simp [hins]) hheld, fun l1 x l2 hsplit hx hl2 => ?_⟩
    have hnodup : ((rankInsert e q.res).map (·.arr)).Nodup := by
      refine (List.Perm.nodup_iff ?_).1 hn
      rw [hins, hres]
      simpa using (List.perm_middle (l₁ := before.map (·.arr)) (l₂ := after.map (·.arr)) (a := e.arr)).symm
    rw [dropLowest_split (hins.trans hsplit) hx hl2 hnodup, Queue.setRes_records]

end Sys2Proof.Machine
end

section
/-! PROOF. O44: the clauses on arrivals, on the message engine and on multicasts, and the statement. -/

namespace Sys2Proof.Machine

/-! ### Arrivals at ranked queues -/

/-- A ranked arrival that merges with no entry. -/
theorem State.rankedArrival_place {s : State} {m : Msg} (h : s.arrivesNow m) {q : Queue} (hq : q = ((s.core m.site).cxOf m.enc).q[m.queue])
    (hm : bitsOf q.cfg 1 0 = 1 ∨ (bitsOf q.cfg 1 0 = 2 ∧ ∀ x ∈ q.res, ¬ merges m x)) :
    ∃ (t : State) (e : Entry) (before after : List Entry), exec (.rankedArrival m) s = .next t ∧ e.isOf m ∧ q.res = before ++ after ∧
      t.flight = s.wokenFlight m.site ∧ ranked (bitsOf m.record 51 48) (s.core m.site).seqno before after ∧
      (q.res.length < bitsOf q.cfg 8 4 → (((t.core m.site).cxOf m.enc).q[m.queue]).res.map (·.record) =
        before.map (·.record) ++ m.record :: after.map (·.record) ∧
        ((t.core m.site).cxOf m.enc).smc = dropsMore ((s.core m.site).cxOf m.enc).smc 0) ∧
      (bitsOf q.cfg 8 4 ≤ q.res.length → bitOf m.record 44 = false → ((s.core m.site).seqno :: q.res.map (·.arr)).Nodup →
        ((t.core m.site).cxOf m.enc).smc = dropsMore ((s.core m.site).cxOf m.enc).smc 1 ∧
        ∀ l1 x l2, before ++ e :: after = l1 ++ x :: l2 → bitOf x.record 44 = false → (∀ y ∈ l2, bitOf y.record 44 = true) →
          (((t.core m.site).cxOf m.enc).q[m.queue]).res.map (·.record) = (l1 ++ l2).map (·.record)) := by
  have harr := State.arrive_ranked h (by rw [← hq]; rcases hm with hm | ⟨hm, -⟩ <;> simp [hm])
  rw [← hq] at harr
  obtain ⟨before, after, hres, hrank, hroom, hfull⟩ :=
    Queue.arriveRanked_place (q := q) (e := entryOf m (s.core m.site).seqno) (s.core m.site).cyc hm
  refine ⟨_, entryOf m (s.core m.site).seqno, before, after, congrArg Host.Outcome.next harr, entryOf_isOf _ _, hres, rfl, hrank,
    fun hlt => ?_, fun hle hheld hn => ?_⟩
  · obtain ⟨hrecs, hdrops⟩ := hroom hlt
    exact ⟨(congrArg (fun x : Queue => x.res.map (·.record)) (s.withRanked_queue m _)).trans hrecs,
      (s.withRanked_smc m _).trans (by rw [hdrops])⟩
  · obtain ⟨hdrops, hrecs⟩ := hfull hle hheld hn
    exact ⟨(s.withRanked_smc m _).trans (by rw [hdrops]), fun l1 x l2 hsplit hx hl2 =>
      (congrArg (fun x : Queue => x.res.map (·.record)) (s.withRanked_queue m _)).trans (hrecs l1 x l2 hsplit hx hl2)⟩

/-- A ranked arrival that merges with an entry of a higher priority. -/
theorem State.rankedArrival_loses {s : State} {m : Msg} (h : s.arrivesNow m) {q : Queue} (hq : q = ((s.core m.site).cxOf m.enc).q[m.queue])
    (hmode : bitsOf q.cfg 1 0 = 2) {l1 l2 : List Entry} {x : Entry} (hres : q.res = l1 ++ x :: l2) (h1 : ∀ y ∈ l1, ¬ merges m y)
    (hx : merges m x) (hp : bitsOf m.record 51 48 < bitsOf x.record 51 48) : ∃ t, exec (.rankedArrival m) s = .next t ∧
        ((t.core m.site).cxOf m.enc).q[m.queue] = q ∧
        ((t.core m.site).cxOf m.enc).smc = dropsMore ((s.core m.site).cxOf m.enc).smc 1 := by
  have harr := State.arrive_ranked h (by rw [← hq]; simp [hmode])
  obtain ⟨hheld, hkey⟩ := hx
  rw [← hq, Queue.arriveRanked_loses (e := entryOf m (s.core m.site).seqno) _ hmode hres h1 hheld hkey hp] at harr
  exact ⟨_, congrArg Host.Outcome.next harr, s.withRanked_queue m _, s.withRanked_smc m _⟩

/-- A ranked arrival that takes the place of the entry of its key. -/
theorem State.rankedArrival_wins {s : State} {m : Msg} (h : s.arrivesNow m) {q : Queue} (hq : q = ((s.core m.site).cxOf m.enc).q[m.queue])
    (hmode : bitsOf q.cfg 1 0 = 2) {l1 l2 : List Entry} {x : Entry} (hres : q.res = l1 ++ x :: l2) (h1 : ∀ y ∈ l1, ¬ merges m y)
    (hx : merges m x) (hn : (q.res.map (·.arr)).Nodup) (hp : bitsOf x.record 51 48 ≤ bitsOf m.record 51 48) :
    ∃ (t : State) (e : Entry) (before after : List Entry),
        exec (.rankedArrival m) s = .next t ∧ l1 ++ l2 = before ++ after ∧ ranked (bitsOf m.record 51 48) x.arr before after ∧
        e.record = m.record ∧ e.arr = x.arr ∧ e.wait = (if l1 = [] then x.wait + ((s.core m.site).cyc - q.since) else x.wait) ∧
        (((t.core m.site).cxOf m.enc).q[m.queue]).res[before.length]? = some e ∧
        (((t.core m.site).cxOf m.enc).q[m.queue]).res.map (·.record) = (before ++ e :: after).map (·.record) ∧
        ((t.core m.site).cxOf m.enc).smc = dropsMore ((s.core m.site).cxOf m.enc).smc 1 ∧ t.flight = s.wokenFlight m.site := by
  have harr := State.arrive_ranked h (by rw [← hq]; simp [hmode])
  rw [← hq] at harr
  obtain ⟨hheld, hkey⟩ := hx
  obtain ⟨hqueue, hdrops⟩ := Queue.arriveRanked_wins (e := entryOf m (s.core m.site).seqno) (s.core m.site).cyc hmode hres h1 hheld hkey hp hn
  obtain ⟨before, after, hsplit, hins, hrank⟩ :=
    rankInsert_split (q.merged (entryOf m (s.core m.site).seqno) x (s.core m.site).cyc) (l1 ++ l2)
  rw [hins] at hqueue
  refine ⟨_, q.merged (entryOf m (s.core m.site).seqno) x (s.core m.site).cyc, before, after, congrArg Host.Outcome.next harr, hsplit, hrank,
    rfl, rfl, Queue.merged_wait _ _ hres hheld hn, ?_, ?_, (s.withRanked_smc m _).trans (by rw [hdrops]; rfl), rfl⟩
  · refine (congrArg (fun x : Queue => x.res[before.length]?) (s.withRanked_queue m _)).trans ?_
    rw [hqueue]
    exact Queue.setRes_merged _ _ _ _ _ _
  · refine (congrArg (fun x : Queue => x.res.map (·.record)) (s.withRanked_queue m _)).trans ?_
    rw [hqueue, Queue.setRes_records]

/-! ### Arrivals at the ring of an enclave that is switched out (R276) -/

/-- The ring of a switched-out enclave keeps an arrival. -/
def State.withRing (s : State) (m : Msg) (e : Entry) : State :=
  s.setCore m.site ({ s.core m.site with seqno := (s.core m.site).seqno + 1 }.setCxOf m.enc
    { (s.core m.site).cxOf m.enc with ring := ((s.core m.site).cxOf m.enc).ring ++ [e] })

theorem State.arrive_ring {s : State} {m : Msg} (hlive : (s.core m.site).live = true) (hpart : (s.core m.site).part = m.part)
    (henc : (s.core m.site).enc ≠ m.enc) (hengine : m.chan < 1024 → (s.core m.chan).engine = []) (hsrc : m.src ≠ 0x7ff) :
    s.arrive m = if (ordinary ((s.core m.site).cxOf m.enc).ring).length < (s.part m.part).ringCap then
      s.withRing m (entryOf m (s.core m.site).seqno) else s.bounce m := by
  have hkept : (s.withRing m (entryOf m (s.core m.site).seqno)).accepted m = s.withRing m (entryOf m (s.core m.site).seqno) :=
    State.accepted_unkept fun hc => State.engine_setCxOf.trans (hengine hc)
  unfold State.arrive
  simp only [hlive, hpart, Ne.symm henc, State.arrivesNow.heldBehind hengine, Bool.not_true, Bool.false_or, ne_eq, not_true_eq_false,
    decide_false, Bool.false_eq_true, if_false, isHost_other hsrc, decide_eq_true_eq]
  refine if_congr Iff.rfl ?_ rfl
  rw [← hkept]
  rfl

/-! ### The message engine (R117) -/

theorem holdsBack_iff (a b : Msg) : holdsBack a b ↔ (sameTarget a b && sentBefore a b) = true := by
  simp [holdsBack, sameTarget, sentBefore, and_assoc]

theorem sameTarget_symm (a b : Msg) : sameTarget a b = sameTarget b a := by
  simp [sameTarget, Bool.beq_comm]

/-- A message of the engine behind m: it waits for m, unless it is on its way already. -/
def KeptMsg.behind (m : Msg) (x : KeptMsg) : KeptMsg :=
  if (sameTarget x.msg m && sentBefore m x.msg) && !x.sent then { x with due := none } else x

/-- A message that an earlier one holds back enters the engine before the later ones. -/
theorem keepIn_behind {m : Msg} {due : Nat} {l1 l2 : List KeptMsg} (hearlier : ∃ x ∈ l1, holdsBack x.msg m)
    (hnew : ∀ y ∈ l1 ++ l2, y.msg ≠ m) (h1 : ∀ y ∈ l1, ¬ holdsBack m y.msg) (h2 : ∀ y ∈ l2.head?, holdsBack m y.msg) :
    keepIn m due (l1 ++ l2) = l1 ++ { msg := m, due := none, sent := false } :: l2.map (KeptMsg.behind m) := by
  have hlater : ∀ y : KeptMsg, (sameTarget y.msg m && sentBefore m y.msg) = true ↔ holdsBack m y.msg := fun y => by
    rw [holdsBack_iff, sameTarget_symm]
  have hany : (l1 ++ l2).any (fun x => sameTarget x.msg m && sentBefore x.msg m) = true := by
    obtain ⟨x, hx, hb⟩ := hearlier
    exact List.any_eq_true.2 ⟨x, List.mem_append_left _ hx, (holdsBack_iff _ _).1 hb⟩
  have hknown : (l1 ++ l2).any (fun x => x.msg == m) = false :=
    List.any_eq_false.2 fun y hy => by simpa using hnew y hy
  have hall : ∀ y ∈ l1, (!(sameTarget y.msg m && sentBefore m y.msg)) = true := fun y hy => by
    rw [Bool.not_eq_true', ← Bool.not_eq_true, hlater]; exact h1 y hy
  unfold keepIn
  simp only [hany, hknown, if_true, Bool.false_eq_true, if_false]
  rw [List.takeWhile_append_of_pos hall, List.dropWhile_append_of_pos hall]
  cases l2 with
  | nil => simp
  | cons y ys =>
    have hy : (!(sameTarget y.msg m && sentBefore m y.msg)) = false := by
      rw [Bool.not_eq_false', hlater]; exact h2 y (by simp)
    rw [List.takeWhile_cons_of_neg (by simp [hy]), List.dropWhile_cons_of_neg (by simp [hy]), List.append_nil]
    rfl

/-- An arrival behind an earlier message of its own sender goes to the engine (R117). -/
theorem State.arrive_behind {s : State} {m : Msg} {l1 l2 : List KeptMsg} (hlive : (s.core m.site).live = true)
    (hpart : (s.core m.site).part = m.part) (hchan : m.chan < 1024) (hm : m.mcast = none) (he : (s.core m.chan).engine = l1 ++ l2)
    (hearlier : ∃ x ∈ l1, holdsBack x.msg m) (hnew : ∀ y ∈ l1 ++ l2, y.msg ≠ m) (hlen : (l1 ++ l2).length < 64)
    (h1 : ∀ y ∈ l1, ¬ holdsBack m y.msg) (h2 : ∀ y ∈ l2.head?, holdsBack m y.msg) :
    s.arrive m = s.setCore m.chan { s.core m.chan with
      engine := l1 ++ { msg := m, due := none, sent := false } :: l2.map (KeptMsg.behind m) } := by
  have hheld : s.heldBehind m = true := by
    obtain ⟨x, hx, hb⟩ := hearlier
    unfold State.heldBehind
    rw [he, decide_eq_true hchan, Bool.true_and]
    exact List.any_eq_true.2 ⟨x, List.mem_append_left _ hx, (holdsBack_iff _ _).1 hb⟩
  have huni : unicastOf m = m := by unfold unicastOf; rw [← hm]
  have hfull : s.engineFull m = false := by
    unfold State.engineFull
    rw [he]
    exact Bool.and_eq_false_iff.2 (.inl (decide_eq_false (Nat.not_le.2 hlen)))
  unfold State.arrive State.bounce State.keepMsg
  simp only [hlive, hpart, hheld, hfull, hchan, huni, he, Bool.not_true, Bool.false_or, ne_eq, not_true_eq_false,
    decide_false, Bool.false_eq_true, if_false, if_true, decide_true, Bool.not_false, Bool.true_and, Option.getD_some,
    keepIn_behind hearlier hnew h1 h2]

/-- Sending one message of the engine marks that one alone. -/
theorem resend_map {m : Msg} {d : Option Nat} {b : Bool} {rest : List KeptMsg} (h : ∀ x ∈ rest, x.msg ≠ m) :
    (({ msg := m, due := d, sent := b } : KeptMsg) :: rest).map (fun x => if x.msg = m then { x with due := none, sent := true } else x) =
      { msg := m, due := none, sent := true } :: rest := by
  rw [List.map_cons, if_pos rfl]
  congr 1
  exact (List.map_congr_left fun x hx => if_neg (h x hx)).trans (List.map_id rest)

/-- A message that is due is sent again (R117). -/
theorem State.bounceResend_due {s : State} {m : Msg} {due : Nat} {rest : List KeptMsg}
    (he : s.me.engine = { msg := m, due := some due, sent := false } :: rest) (hnew : ∀ x ∈ rest, x.msg ≠ m) (hlive : s.me.live = true)
    (hdue : due ≤ s.me.cyc) : exec .bounceResend s = .next ((s.setMe { s.me with
      engine := { msg := m, due := none, sent := true } :: rest }).enqueue m.site (s.arrivalOf m)) := by
  show execBounceResend s = _
  unfold execBounceResend
  simp only [he, List.find?_cons, hlive, hdue, decide_true, Bool.not_false, Bool.and_true]
  unfold State.resend
  simp only [show s.core s.cur = s.me from rfl, he, resend_map hnew]
  rfl

theorem State.bounceResend_early {s : State} {m : Msg} {due : Nat} (he : s.me.engine = [{ msg := m, due := some due, sent := false }])
    (hdue : s.me.cyc < due) : exec .bounceResend s = .next s := by
  show execBounceResend s = _
  unfold execBounceResend
  simp [he, Nat.not_le.2 hdue]

/-- The acceptance of a message sends the next one held back behind it (R117). -/
theorem State.messageAccepted_sends {s : State} {m x : Msg} {rest : List KeptMsg} (hr : (s.core m.chan).run ≠ .waiting .room)
    (he : (s.core m.chan).engine = { msg := x, due := none, sent := false } :: rest) (hnew : ∀ y ∈ rest, y.msg ≠ x)
    (hsite : x.site = m.site) (henc : x.enc = m.enc) (hqueue : x.queue = m.queue) :
    exec (.messageAccepted m) s = .next ((s.setCore m.chan { s.core m.chan with
        engine := { msg := x, due := none, sent := true } :: rest }).enqueue x.site (s.arrivalOf x)) := by
  show execMessageAccepted m s = _
  unfold execMessageAccepted
  simp only [hr, if_false, he, List.find?_cons, show sameTarget x m = true by simp [sameTarget, hsite, henc, hqueue]]
  unfold State.resend
  simp only [he, resend_map hnew]
  rfl

/-- The acceptance of a message that holds no other back. -/
theorem State.messageAccepted_last {s : State} {m : Msg}
    (h : ∀ y ∈ (s.core m.chan).engine, y.msg.site ≠ m.site ∨ y.msg.enc ≠ m.enc ∨ y.msg.queue ≠ m.queue) :
    exec (.messageAccepted m) s = .next (if (s.core m.chan).run = .waiting .room then s.enqueue m.chan .sendRoomFreed else s) := by
  have hnone : (s.core m.chan).engine.find? (fun x => sameTarget x.msg m) = none := by
    refine List.find?_eq_none.2 fun y hy hs => ?_
    simp only [sameTarget, Bool.and_eq_true, beq_iff_eq] at hs
    obtain ⟨⟨h1, h2⟩, h3⟩ := hs
    rcases h y hy with h | h | h <;> contradiction
  show execMessageAccepted m s = _
  unfold execMessageAccepted
  simp only [hnone]

/-! ### Multicast (R307) -/

/-- Forwarding to children appends to what is under way. -/
theorem State.foldl_enqueue {α : Type} (cs : List α) (s : State) (f : α → Nat × Instr) :
    cs.foldl (fun s c => s.enqueue (f c).1 (f c).2) s = { s with flight := s.flight ++ cs.map f } := by
  induction cs generalizing s with
  | nil => simp
  | cons c cs ih => rw [List.foldl_cons, ih]; simp [State.enqueue]

/-- The children of a node. -/
theorem mem_treeChildren {nodes : List (Nat × Nat × Bool)} {node i n : Nat} :
    (i, n) ∈ treeChildren nodes node ↔ i ≠ 0 ∧ ∃ l, nodes[i]? = some (n, node, l) := by
  simp only [treeChildren, List.mem_filterMap, List.mem_zipIdx_iff_getElem?]
  constructor
  · rintro ⟨⟨e, j⟩, hget, hsome⟩
    dsimp only at hget hsome
    split at hsome
    case isFalse => cases hsome
    case isTrue hc =>
      simp only [ne_eq, Bool.and_eq_true, decide_eq_true_eq] at hc
      simp only [Option.some.injEq, Prod.mk.injEq] at hsome
      obtain ⟨rfl, rfl⟩ := hsome
      refine ⟨by simpa using hc.1, e.2.2, ?_⟩
      rw [hget, ← hc.2]
  · rintro ⟨hi, l, hget⟩
    exact ⟨((n, node, l), i), hget, by simp [hi]⟩

/-- The root's own copy is under way with everything that was. -/
theorem State.mem_enqueueOwn (s : State) (m : Msg) (x : Nat × Instr) :
    x ∈ (s.enqueueOwn m).flight ↔ x ∈ s.flight ∨ x = (m.site, s.arrivalOf m) := by
  have hsplit : x ∈ s.flight ↔ x ∈ s.flight.takeWhile (fun e => !sentAfter m e) ∨ x ∈ s.flight.dropWhile (fun e => !sentAfter m e) := by
    conv_lhs => rw [← List.takeWhile_append_dropWhile (p := fun e => !sentAfter m e) (l := s.flight)]
    exact List.mem_append
  simp only [State.enqueueOwn, List.mem_append, List.mem_cons, hsplit]
  tauto

/-- The node's own copy, when it is a leaf. -/
def State.leafCopy (s : State) (copy : Msg) (leaf : Bool) (node : Nat) : State :=
  if !leaf then s else if node = 0 then s.enqueueOwn copy else s.enqueue copy.site (s.arrivalOf copy)

theorem State.leafCopy_eq (s : State) (copy : Msg) (leaf : Bool) (node : Nat) :
    s.leafCopy copy leaf node = { s with flight := (s.leafCopy copy leaf node).flight } := by
  unfold State.leafCopy
  split
  · rfl
  · split <;> rfl

theorem State.mem_leafCopy (s : State) (copy : Msg) (leaf : Bool) (node : Nat) (x : Nat × Instr) :
    x ∈ (s.leafCopy copy leaf node).flight ↔ x ∈ s.flight ∨ (leaf = true ∧ x = (copy.site, s.arrivalOf copy)) := by
  unfold State.leafCopy
  cases leaf
  · simp
  · simp only [Bool.not_true, Bool.false_eq_true, if_false, true_and]
    split
    · exact s.mem_enqueueOwn copy x
    · simp [State.enqueue]

theorem State.stampCopy_eq (s : State) (m : Msg) :
    s.stampCopy m = (s.setMe { s.me with seqno := s.me.seqno + 1 }, { m with mcast := some (s.cur, s.me.seqno) }) := rfl

/-- The copies that a node sends on. -/
theorem State.multicast_eq {s u : State} {m c : Msg} {tree node n par : Nat} {leaf : Bool} {tr : Tree}
    (ht : sget? tree (s.part m.part).trees = some tr) (hn : tr.nodes[node]? = some (n, par, leaf))
    (hc : (m.mcast = none ∧ c = { m with mcast := some (s.cur, s.me.seqno) } ∧ u = s.setMe { s.me with seqno := s.me.seqno + 1 }) ∨
      (m.mcast ≠ none ∧ c = m ∧ u = s)) :
    exec (.multicastForward m tree node) s = .next ((treeChildren tr.nodes node).foldl (fun s x =>
      s.enqueue (((u.part m.part).members[x.2]?).getD 1024) (.multicastForward c tree x.1))
      (u.leafCopy { c with site := ((u.part m.part).members[n]?).getD 1024 } leaf node)) := by
  show execMulticastForward m tree node s = _
  unfold execMulticastForward
  rcases hc with ⟨hm, rfl, rfl⟩ | ⟨hm, rfl, rfl⟩
  · rw [if_pos (by simp [hm])]
    simp only [State.stampCopy_eq, show ∀ k, (s.setMe k).part m.part = s.part m.part from fun _ => rfl, ht, hn]
    rfl
  · rw [if_neg (by simpa using hm)]
    simp only [ht, hn]
    rfl

/-- The executing core's change leaves the contexts of every core as they are, where it leaves its own. -/
theorem State.ctx_setMe {s : State} {k : Core} (h : k.ctx = s.me.ctx) (c : Nat) : ((s.setMe k).core c).ctx = (s.core c).ctx := by
  by_cases hc : c = s.cur
  · subst hc
    rw [State.setMe, State.core_setCore]
    exact h
  · rw [State.setMe, State.core_setCore_other _ _ _ _ hc]

theorem State.arrivalOf_setMe {s : State} {k : Core} (h : k.ctx = s.me.ctx) (m : Msg) : (s.setMe k).arrivalOf m = s.arrivalOf m := by
  unfold State.arrivalOf Core.cxOf
  rw [State.ctx_setMe h]

theorem State.multicast_spec {s u : State} {m c : Msg} {tree node n par : Nat} {leaf : Bool} {tr : Tree}
    (ht : sget? tree (s.part m.part).trees = some tr) (hn : tr.nodes[node]? = some (n, par, leaf))
    (hc : (m.mcast = none ∧ c = { m with mcast := some (s.cur, s.me.seqno) } ∧ u = s.setMe { s.me with seqno := s.me.seqno + 1 }) ∨
      (m.mcast ≠ none ∧ c = m ∧ u = s)) : ∃ t, exec (.multicastForward m tree node) s = .next t ∧
    t = { u with flight := t.flight } ∧
    ∀ x, x ∈ t.flight ↔ x ∈ s.flight ∨
      (leaf = true ∧ ∃ site, site = ((s.part m.part).members[n]?).getD 1024 ∧ x = (site, s.arrivalOf { c with site := site })) ∨
      (∃ (i n' : Nat) (l' : Bool), i ≠ 0 ∧ tr.nodes[i]? = some (n', node, l') ∧
        x = (((s.part m.part).members[n']?).getD 1024, .multicastForward c tree i)) := by
  refine ⟨_, State.multicast_eq ht hn hc, ?_⟩
  have hu : u.flight = s.flight ∧ (∀ p, u.part p = s.part p) ∧ ∀ k, u.arrivalOf k = s.arrivalOf k := by
    rcases hc with ⟨-, -, rfl⟩ | ⟨-, -, rfl⟩
    · exact ⟨rfl, fun _ => rfl, State.arrivalOf_setMe rfl⟩
    · exact ⟨rfl, fun _ => rfl, fun _ => rfl⟩
  obtain ⟨hflight, hpart, harrival⟩ := hu
  rw [State.foldl_enqueue (f := fun x : Nat × Nat => (((u.part m.part).members[x.2]?).getD 1024, Instr.multicastForward c tree x.1))]
  refine ⟨by rw [State.leafCopy_eq], fun x => ?_⟩
  simp only [List.mem_append, State.mem_leafCopy, List.mem_map, hflight, hpart, harrival, or_assoc]
  refine or_congr Iff.rfl (or_congr ?_ ?_)
  · exact and_congr Iff.rfl ⟨fun h => ⟨_, rfl, h⟩, fun ⟨_, hs, h⟩ => hs ▸ h⟩
  · constructor
    · rintro ⟨⟨i, n'⟩, hmem, rfl⟩
      obtain ⟨hi, l, hget⟩ := mem_treeChildren.1 hmem
      exact ⟨i, n', l, hi, hget, rfl⟩
    · rintro ⟨i, n', l, hi, hget, rfl⟩
      exact ⟨(i, n'), mem_treeChildren.2 ⟨hi, l, hget⟩, rfl⟩

/-! ### The statement -/

/-- What a FIFO queue does with an arrival. -/
theorem State.fifoArrival_spec {s : State} {m : Msg} (h : s.arrivesNow m) {q : Queue} (hq : q = ((s.core m.site).cxOf m.enc).q[m.queue])
    (hmode : bitsOf q.cfg 1 0 = 0) :
    (q.res.length < bitsOf q.cfg 8 4 → ∃ (t : State) (e : Entry), exec (.fifoArrival m) s = .next t ∧ e.isOf m ∧
      (((t.core m.site).cxOf m.enc).q[m.queue]).res = q.res ++ [e] ∧ (((t.core m.site).cxOf m.enc).q[m.queue]).spill = q.spill ∧
      t.flight = s.wokenFlight m.site ∧ t.mem = s.mem ∧ t.bmem = s.bmem) ∧
    (bitsOf q.cfg 8 4 ≤ q.res.length → m.src ≠ 0x7ff →
      ((ordinary q.spill).length < (s.part m.part).spill → ∃ (t : State) (e : Entry), exec (.fifoArrival m) s = .next t ∧ e.isOf m ∧
        (((t.core m.site).cxOf m.enc).q[m.queue]).res = q.res ∧ (((t.core m.site).cxOf m.enc).q[m.queue]).spill = q.spill ++ [e] ∧
        t.flight = s.wokenFlight m.site) ∧
      ((s.part m.part).spill ≤ (ordinary q.spill).length → m.chan < 1024 →
        exec (.fifoArrival m) s = .next (s.setCore m.chan { s.core m.chan with
          engine := [{ msg := { m with mcast := none }, due := some ((s.core m.chan).cyc + 512), sent := false }] }))) := by
  subst hq
  refine ⟨fun hlt => ?_, fun hle hsrc => ⟨fun hs => ?_, fun hs hc => ?_⟩⟩
  · have harr := State.arrive_fifo h hmode (Queue.arriveFifo_resident hlt)
    refine ⟨_, entryOf m (s.core m.site).seqno, congrArg Host.Outcome.next harr, entryOf_isOf _ _, ?_, ?_, rfl, rfl, rfl⟩
    · exact (congrArg Queue.res (s.withQueue_queue m _)).trans (Queue.setRes_append _ _ _)
    · exact (congrArg Queue.spill (s.withQueue_queue m _)).trans (Queue.setRes_spill _ _ _)
  · have harr := State.arrive_fifo h hmode (Queue.arriveFifo_spilled hle hs)
    exact ⟨_, entryOf m (s.core m.site).seqno, congrArg Host.Outcome.next harr, entryOf_isOf _ _,
      
      (congrArg Queue.res (s.withQueue_queue m _)).trans rfl, (congrArg Queue.spill (s.withQueue_queue m _)).trans rfl, rfl⟩
  · have harr := State.arrive_fifo_full h hmode (Queue.arriveFifo_bounced hle hs (isHost_other hsrc _))
    obtain ⟨-, -, -, hengine⟩ := h
    exact congrArg Host.Outcome.next (harr.trans (State.bounce_empty hc (hengine hc)))

/-- A handler that waits for room goes on when there is some. -/
theorem State.sendRoomFreed_spec (s : State) :
    (s.me.run = .waiting .room → s.me.engine.length + s.me.bufferedMessages ≤ 64 →
      exec .sendRoomFreed s = .next (s.setMe { s.me with run := .running })) ∧
    (s.me.run ≠ .waiting .room → exec .sendRoomFreed s = .next s) := by
  refine ⟨fun hr hroom => if_pos ?_, fun hr => if_neg (by simp [hr])⟩
  exact Bool.and_eq_true_iff.2 ⟨decide_eq_true hr, decide_eq_true hroom⟩

end Sys2Proof.Machine

open Sys2Proof.Machine in
/-- Settles O44: an arrival for the running enclave changes its queue as `arriveFifo` and `arriveRanked` say, whose cases are
taken apart one by one; the engine's list and the tree's copies are followed as lists. -/
theorem messagesArrive : Obligations.MessagesArrive := by
  unfold Obligations.MessagesArrive
  refine ⟨fun s m h q hq => ⟨fun hmode => ?_, fun hmode => ?_, fun hm => State.rankedArrival_place h hq hm,
    fun hmode l1 l2 x hres h1 hx hn => ⟨State.rankedArrival_loses h hq hmode hres h1 hx, State.rankedArrival_wins h hq hmode hres h1 hx hn⟩⟩,
    fun s m hlive hpart henc hengine hsrc => ⟨fun hroom => ?_, fun hfull hc => ?_⟩, ?_, ?_, ?_, State.sendRoomFreed_spec, ?_⟩
  · exact (State.fifoArrival_spec h hq hmode).1
  · exact (State.fifoArrival_spec h hq hmode).2
  · have harr := (State.arrive_ring hlive hpart henc hengine hsrc).trans (if_pos hroom)
    refine ⟨_, entryOf m (s.core m.site).seqno, congrArg Host.Outcome.next harr, congrArg Host.Outcome.next harr, entryOf_isOf _ _, ?_, rfl⟩
    simp [State.withRing]
  · exact congrArg Host.Outcome.next (((State.arrive_ring hlive hpart henc hengine hsrc).trans (if_neg (Nat.not_lt.2 hfull))).trans
      (State.bounce_empty hc (hengine hc)))
  · intro s m l1 l2 hlive hpart hc hm he hearlier hnew hlen h1 h2
    refine ⟨l2.map (KeptMsg.behind m), congrArg Host.Outcome.next (State.arrive_behind hlive hpart hc hm he hearlier hnew hlen h1 h2),
      List.length_map _, fun i y z hy hz => ?_⟩
    obtain rfl : KeptMsg.behind m y = z := by simpa [hy] using hz
    have hlater : (sameTarget y.msg m && sentBefore m y.msg) = true ↔ holdsBack m y.msg := by rw [holdsBack_iff, sameTarget_symm]
    refine ⟨fun hb hs => if_pos (by rw [hlater.2 hb, hs]; rfl), fun h => if_neg fun hcond => ?_⟩
    obtain ⟨hl, hs⟩ := Bool.and_eq_true_iff.1 hcond
    rcases h with h | h
    · exact h (hlater.1 hl)
    · simp [h] at hs
  · exact fun s m due rest he hnew hlive => ⟨State.bounceResend_due he hnew hlive, fun hlt hr => State.bounceResend_early (he.trans (congrArg _ hr)) hlt⟩
  · exact fun s m x rest => ⟨State.messageAccepted_sends, fun h => ⟨fun hr => (State.messageAccepted_last h).trans (by rw [if_pos hr]),
      fun hr => (State.messageAccepted_last h).trans (by rw [if_neg hr])⟩⟩
  · exact fun s u m c tree node n par leaf tr ht hn hc => State.multicast_spec ht hn hc
end

section
/-! PROOF. O42: how DONE, YIELD and IDLE end a handler. -/

namespace Sys2Proof.Machine

/-! ### The end of a handler, step by step (R90, R122, R269) -/

section
variable {s : State} {p : Pfx} {mayTask : Bool} {f : State → State}

/-- A handler end waits for a plan of Iris that runs (R269). -/
theorem State.endingWith_bal (h : s.me.bal ≠ none) : s.endingWith p mayTask f = .next (s.setMe (s.me.tick 1)) :=
  if_pos (Option.isSome_iff_ne_none.2 h)

/-- A handler end that is refused. -/
theorem State.endingWith_traps {c : Nat} (h : s.me.bal = none) (ht : s.me.endTrap mayTask = some c) :
    s.endingWith p mayTask f = .next (s.trap s.cur { cause := c }) := by
  unfold State.endingWith
  simp only [h, ht, Option.isSome_none, Bool.false_eq_true, if_false]
  rfl

/-- A handler that may end: it has no plan of Iris, nothing in its queues, and no task's strand that it must not end. -/
def Core.freeToEnd (k : Core) (mayTask : Bool) : Prop := k.bal = none ∧ k.dq = [] ∧ k.bq = [] ∧ (mayTask = true ∨ k.h.src ≠ 0x7fe)

theorem Core.freeToEnd.endTrap {k : Core} (h : k.freeToEnd mayTask) : k.endTrap mayTask = none := by
  obtain ⟨-, hdq, hbq, hsrc⟩ := h
  rcases hsrc with h | h <;> simp [Core.endTrap, hdq, hbq, h]

/-- A handler end waits for room in the message engine (R117). -/
theorem State.endingWith_noRoom (h : s.me.freeToEnd mayTask) (hroom : 64 < s.me.engine.length + s.me.bufferedMessages)
    (hacc : s.heldBehindAccess s.cur = false) (hblk : s.heldBlocked s.cur = false) :
    s.endingWith p mayTask f = .next (s.setMe { s.me.tick 1 with run := .waiting .room }) := by
  obtain ⟨hbal, -⟩ := id h
  have hroom' : s.me.engineRoom 0 = false := decide_eq_false (Nat.not_le.2 hroom)
  have hwaits : s.endWaits s.cur = false := by
    unfold State.endWaits
    rw [show s.core s.cur = s.me from rfl, hbal, hacc, hblk]; rfl
  unfold State.endingWith
  simp only [hbal, h.endTrap, hwaits, hroom', Option.isSome_none, Bool.false_eq_true, if_false, Bool.not_false, if_true]
  rfl

/-- A handler end that neither waits nor is refused needs the keys of what it holds. -/
theorem State.endingWith_goes (h : s.me.freeToEnd mayTask) (hroom : s.me.engine.length + s.me.bufferedMessages ≤ 64)
    (hacc : s.heldBehindAccess s.cur = false) (hblk : s.heldBlocked s.cur = false) :
    s.endingWith p mayTask f = s.withHeldKeys p (fun t => .next (f (t.setMe (t.me.tick (1 + p.stall))))) := by
  obtain ⟨hbal, -⟩ := id h
  have hroom' : s.me.engineRoom 0 = true := decide_eq_true hroom
  have hwaits : s.endWaits s.cur = false := by
    unfold State.endWaits
    rw [show s.core s.cur = s.me from rfl, hbal, hacc, hblk]; rfl
  unfold State.endingWith
  simp only [hbal, h.endTrap, hwaits, hroom', Option.isSome_none, Bool.false_eq_true, if_false, Bool.not_true]

/-- A buffer entry that is no held write. -/
def SendEntry.holdsNothing : SendEntry → Bool
  | .store _ _ | .vw _ => false
  | _ => true

/-- A handler whose buffer holds no write ends at once. -/
theorem State.endingWith_unheld (h : s.me.freeToEnd mayTask) (hroom : s.me.engine.length + s.me.bufferedMessages ≤ 64)
    (hs : ∀ e ∈ s.me.sbuf, e.holdsNothing = true) : s.endingWith p mayTask f = .next (f (s.setMe (s.me.tick (1 + p.stall)))) := by
  have hacc : s.heldBehindAccess s.cur = false := by
    unfold State.heldBehindAccess
    rw [Bool.and_eq_false_iff]
    refine .inl (List.any_eq_false.2 fun e he => ?_)
    have := hs e he
    cases e <;> simp_all [SendEntry.holdsNothing]
  have hblk : s.heldBlocked s.cur = false := by
    refine List.any_eq_false.2 fun e he => ?_
    have := hs e he
    cases e <;> simp_all [SendEntry.holdsNothing, entryCells]
  have huids : s.heldUids s.cur = [] := by
    unfold State.heldUids
    rw [List.flatMap_eq_nil_iff.2 fun e he => ?_]
    · rfl
    · have := hs e he
      cases e <;> simp_all [SendEntry.holdsNothing]
  rw [State.endingWith_goes h hroom hacc hblk]
  unfold State.withHeldKeys
  rw [huids]
  rfl

end

/-- The end of a handler that is no method strand. -/
theorem State.endHandler_plain {s : State} {c : Nat} (h : (s.core c).h.src ≠ 0x7fe) : s.endHandler c =
    ((s.release c (s.core c).sbuf).setCore c ((s.release c (s.core c).sbuf).core c).clearHandler).enqueue c .nextAction := by
  unfold State.endHandler
  simp only [if_neg h]

/-- The core that its handler leaves behind, some cycles later. -/
theorem Core.clearHandler_tick (k : Core) (n : Nat) : (k.tick n).clearHandler = k.ended n := rfl

/-- A handler with an empty buffer has ended. -/
theorem State.endHandler_empty {s : State} (n : Nat) (h : s.me.h.src ≠ 0x7fe) (hs : s.me.sbuf = []) :
    (s.setMe (s.me.tick n)).endHandler s.cur = (s.setMe (s.me.ended n)).enqueue s.cur .nextAction := by
  rw [State.endHandler_plain (by rw [State.setMe, State.core_setCore]; exact h), State.setMe, State.core_setCore, Core.tick_sbuf, hs]
  simp only [State.release, State.core_setCore, State.setCore_setCore]
  rfl

/-! ### What leaves with the buffer (R35, R82, R119) -/

theorem lineDead_line (s : State) (a : Nat) : s.lineDead (a / 64 * 64) = s.lineDead a := by
  have h1 : tierOf (a / 64 * 64) = tierOf a := by unfold tierOf; omega
  have h2 : s.sealOf (a / 64 * 64) = s.sealOf a := by
    unfold State.sealOf; rw [Nat.mul_div_cancel _ (by decide)]
  unfold State.lineDead
  rw [h1, h2]

/-- Bytes on lines without an error lose none (R309). -/
theorem State.deadLines_nil {s : State} {keys : List Nat} (h : ∀ a ∈ keys, s.lineDead a = false) : s.deadLines keys = [] := by
  refine List.filter_eq_nil_iff.2 fun l hl => ?_
  obtain ⟨a, ha, rfl⟩ := List.mem_map.1 (List.mem_dedup.1 hl)
  rw [lineDead_line, h a ha]
  exact Bool.false_ne_true

/-- A held store of one page is written under its key. -/
theorem State.release_store {s : State} {c uid : Nat} {cells : List (Nat × Byte)} (rel : Bool) (h : ∀ x ∈ cells, s.lineDead x.1 = false) :
    s.release c [.store rel [(uid, cells)]] = ({ s with keys := touchKeys s.keys [uid] } : State).storeCells cells uid := by
  have hdead : s.deadLines ((partCells [(uid, cells)]).map (·.1)) = [] := State.deadLines_nil fun a ha => by
    obtain ⟨x, hx, rfl⟩ := List.mem_map.1 ha
    exact h x (by simpa [partCells] using hx)
  simp only [State.release, State.releaseStore, State.countDead, hdead, List.isEmpty_nil, if_true]
  rfl

theorem State.storeCells_setMe (s : State) (k : Core) (cells : List (Nat × Byte)) (uid : Nat) :
    (s.setMe k).storeCells cells uid = (s.storeCells cells uid).setMe k := rfl

/-- DONE writes a held store of one page whose key is resident. -/
theorem State.done_store {s : State} {p : Pfx} {rel : Bool} {uid : Nat} {cells : List (Nat × Byte)} (h : s.me.freeToEnd true)
    (hsrc : s.me.h.src ≠ 0x7fe) (hs : s.me.sbuf = [.store rel [(uid, cells)]]) (hroom : s.me.engine.length ≤ 64)
    (hacc : s.heldBehindAccess s.cur = false) (hblk : s.heldBlocked s.cur = false) (hkey : s.keyMissing [uid] = none)
    (hdead : ∀ x ∈ cells, s.lineDead x.1 = false) : exec (.done p) s =
      .next ((((s.keysAtHand [uid]).storeCells cells uid).setMe (s.me.ended (1 + p.stall))).enqueue s.cur .nextAction) := by
  have huids : s.heldUids s.cur = [uid] := by
    unfold State.heldUids
    rw [show s.core s.cur = s.me from rfl, hs]; rfl
  have hend : (s.unstall.setMe (s.unstall.me.tick (1 + p.stall))).endHandler s.cur =
      (((s.keysAtHand [uid]).storeCells cells uid).setMe (s.me.ended (1 + p.stall))).enqueue s.cur .nextAction := by
    have hcore : (s.unstall.setMe (s.unstall.me.tick (1 + p.stall))).core s.cur = s.me.tick (1 + p.stall) := State.core_setCore _ _ _
    have hrel : (s.unstall.setMe (s.unstall.me.tick (1 + p.stall))).release s.cur [.store rel [(uid, cells)]] =
        ((s.keysAtHand [uid]).storeCells cells uid).setMe (s.me.tick (1 + p.stall)) := by
      rw [State.release_store (s := s.unstall.setMe (s.unstall.me.tick (1 + p.stall))) rel (fun x hx => hdead x hx), ← State.storeCells_setMe]
      rfl
    have hcore' : (((s.keysAtHand [uid]).storeCells cells uid).setMe (s.me.tick (1 + p.stall))).core s.cur = s.me.tick (1 + p.stall) :=
      State.core_setCore _ _ _
    rw [State.endHandler_plain (by rw [hcore]; exact hsrc), hcore, Core.tick_sbuf, hs, hrel, hcore', Core.clearHandler_tick]
    exact congrArg (fun t : State => t.enqueue s.cur .nextAction) (State.setCore_setCore _ _ _ _)
  have hgo := State.endingWith_goes (p := p) (f := fun s => s.endHandler s.cur) h (by simpa [Core.bufferedMessages, hs] using hroom) hacc hblk
  refine hgo.trans ?_
  unfold State.withHeldKeys
  rw [huids, hkey]
  exact congrArg Host.Outcome.next hend

/-- DONE with a held store whose key is away waits for it (R39, R290). -/
theorem State.done_keyMiss {s : State} {p : Pfx} {rel : Bool} {uid : Nat} {cells : List (Nat × Byte)} (h : s.me.freeToEnd true)
    (hs : s.me.sbuf = [.store rel [(uid, cells)]]) (hroom : s.me.engine.length ≤ 64)
    (hacc : s.heldBehindAccess s.cur = false) (hblk : s.heldBlocked s.cur = false) (hkey : s.keyMissing [uid] = some uid) :
    ∃ t, exec (.done p) s = .next t ∧ t.me.run = .waiting (.key uid) ∧ t.me.h = s.me.h ∧ t.me.sbuf = s.me.sbuf ∧ t.mem = s.mem := by
  have huids : s.heldUids s.cur = [uid] := by
    unfold State.heldUids
    rw [show s.core s.cur = s.me from rfl, hs]; rfl
  have hgo := State.endingWith_goes (p := p) (f := fun s => s.endHandler s.cur) h (by simpa [Core.bufferedMessages, hs] using hroom) hacc hblk
  have hmiss : exec (.done p) s = s.keyMiss (s.newAccess p 0 [] uid (.store [])) uid := by
    refine hgo.trans ?_
    unfold State.withHeldKeys
    rw [huids, hkey]
    rfl
  refine ⟨_, hmiss, ?_⟩
  split
  · rw [State.me_setMe]; exact ⟨rfl, rfl, rfl, rfl⟩
  · rw [State.me_setMe]
    have hme : ((s.setMe (s.me.setCx s.me.cx.countMiss)).lifeAdd 2085 0 1).me = s.me.setCx s.me.cx.countMiss :=
      State.me_setMe s (s.me.setCx s.me.cx.countMiss)
    have hh := congrArg Core.h hme
    have hsbuf := congrArg Core.sbuf hme
    exact ⟨rfl, hh, hsbuf, rfl⟩

end Sys2Proof.Machine
end

section
/-! PROOF. O42: messages, spawned strands, YIELD and IDLE, and the statement. -/

namespace Sys2Proof.Machine

/-! ### A message and a spawned strand leave (R118, R119) -/

/-- The message that a buffered record becomes. -/
def Core.message (k : Core) (c : Nat) (r : Record) (site : Nat) : Msg :=
  { record := r, part := k.part, enc := k.enc, site := site, queue := hQue r, src := k.lnum, seq := k.msgs, chan := c, woken := false }

/-- A message for a FIFO queue leaves an empty engine. -/
theorem State.release_send {s : State} {r : Record} {n c : Nat} (he : s.me.engine = []) (hm : (s.part s.me.part).members[n]? = some c)
    (hmode : bitsOf (((s.core c).cxOf s.me.enc).q[hQue r]).cfg 1 0 = 0) :
    s.release s.cur [.send r n] = (s.setMe { s.me with msgs := (s.me.msgs + 1) % 2 ^ 32 }).enqueue c (.fifoArrival (s.me.message s.cur r c)) := by
  have harrival : (s.setMe { s.me with msgs := (s.me.msgs + 1) % 2 ^ 32 }).arrivalOf (s.me.message s.cur r c) =
      .fifoArrival (s.me.message s.cur r c) := by
    exact (State.arrivalOf_setMe (s := s) (by rfl) _).trans (if_pos hmode)
  have hmsg : s.newMsg s.cur r (((s.part (s.core s.cur).part).members[n]?).getD 0) =
      (s.setMe { s.me with msgs := (s.me.msgs + 1) % 2 ^ 32 }, s.me.message s.cur r c) := by
    rw [show s.core s.cur = s.me from rfl, hm]; rfl
  have hengine : ((s.setMe { s.me with msgs := (s.me.msgs + 1) % 2 ^ 32 }).core s.cur).engine = [] := by
    rw [State.setMe, State.core_setCore]; exact he
  simp only [State.release, hmsg, State.sendFrom, hengine, List.any_nil, Bool.false_eq_true, if_false, harrival]
  rfl

/-- The entry that a spawned strand becomes. -/
def Core.spawned (k : Core) (r : Record) : Entry :=
  { record := r, queue := hQue r, src := k.lnum, seq := k.msgs, woken := false, arr := k.seqno, wait := 0 }

theorem State.release_spawn (s : State) (r : Record) : s.release s.cur [.spawn r] =
    s.setMe { s.me.setCx (s.me.cx.pushDeque (s.me.spawned r)) with msgs := (s.me.msgs + 1) % 2 ^ 32, seqno := s.me.seqno + 1 } := rfl

theorem Ctx.pushDeque_room {c : Ctx} {e : Entry} (h : c.deque.length < 32) : (c.pushDeque e).deque = c.deque ++ [e] := by
  unfold Ctx.pushDeque
  rw [if_pos h]

theorem State.withQueue_run (s : State) (m : Msg) (q : Queue) : ((s.withQueue m q).core m.site).run = (s.core m.site).run := by
  simp [State.withQueue]

/-- A FIFO arrival that becomes resident, and what it leaves as it was. -/
theorem State.arrive_resident {s : State} {m : Msg} (h : s.arrivesNow m) (hmode : (((s.core m.site).cxOf m.enc).q[m.queue]).mode = 0)
    (hplace : (((s.core m.site).cxOf m.enc).q[m.queue]).res.length < bitsOf (((s.core m.site).cxOf m.enc).q[m.queue]).cfg 8 4) :
    ∃ e : Entry, e.isOf m ∧ (((s.arrive m).core m.site).cxOf m.enc).q[m.queue].res =
      (((s.core m.site).cxOf m.enc).q[m.queue]).res ++ [e] ∧ ((s.arrive m).core m.site).run = (s.core m.site).run ∧
      (s.arrive m).flight = s.wokenFlight m.site ∧ (s.arrive m).mem = s.mem := by
  rw [State.arrive_fifo h hmode (Queue.arriveFifo_resident hplace)]
  refine ⟨entryOf m (s.core m.site).seqno, entryOf_isOf _ _, ?_, s.withQueue_run m _, rfl, rfl⟩
  exact (congrArg Queue.res (s.withQueue_queue m _)).trans (Queue.setRes_append _ _ _)

/-! ### DONE -/

section
variable {s : State} {p : Pfx}

theorem State.done_empty (h : s.me.freeToEnd true) (hsrc : s.me.h.src ≠ 0x7fe) (hs : s.me.sbuf = []) (hroom : s.me.engine.length ≤ 64) :
    exec (.done p) s = .next ((s.setMe (s.me.ended (1 + p.stall))).enqueue s.cur .nextAction) :=
  (State.endingWith_unheld (p := p) (f := fun s => s.endHandler s.cur) h (by simpa [Core.bufferedMessages, hs] using hroom)
    (by simp [hs])).trans (congrArg Host.Outcome.next (State.endHandler_empty _ hsrc hs))

theorem State.done_send (h : s.me.freeToEnd true) (hsrc : s.me.h.src ≠ 0x7fe) {r : Record} {n c : Nat} (hs : s.me.sbuf = [.send r n])
    (he : s.me.engine = []) (hm : (s.part s.me.part).members[n]? = some c)
    (hmode : bitsOf (((s.core c).cxOf s.me.enc).q[hQue r]).cfg 1 0 = 0) :
    exec (.done p) s = .next (((s.setMe { s.me.ended (1 + p.stall) with msgs := (s.me.msgs + 1) % 2 ^ 32 }).enqueue c
      (.fifoArrival (s.me.message s.cur r c))).enqueue s.cur .nextAction) := by
  refine (State.endingWith_unheld (p := p) (f := fun s => s.endHandler s.cur) h (by simp [Core.bufferedMessages, hs, he])
    (by simp [hs, SendEntry.holdsNothing])).trans (congrArg Host.Outcome.next ?_)
  have hme : (s.setMe (s.me.tick (1 + p.stall))).me = s.me.tick (1 + p.stall) := State.me_setMe _ _
  have hcore : (s.setMe (s.me.tick (1 + p.stall))).core s.cur = s.me.tick (1 + p.stall) := hme
  have hctx : ((s.setMe (s.me.tick (1 + p.stall))).core c).ctx = (s.core c).ctx := State.ctx_setMe (s := s) (by rfl) c
  have hrel := State.release_send (s := s.setMe (s.me.tick (1 + p.stall))) (r := r) (n := n) (c := c) (by rw [hme]; exact he)
    (by rw [hme]; exact hm) (by rw [hme]; unfold Core.cxOf; rw [hctx]; exact hmode)
  rw [hme] at hrel
  show (s.setMe (s.me.tick (1 + p.stall))).endHandler s.cur = _
  rw [State.endHandler_plain (by rw [hcore]; exact hsrc), hcore, Core.tick_sbuf, hs]
  change (s.setMe (s.me.tick (1 + p.stall))).release s.cur [.send r n] = _ at hrel
  rw [hrel, State.setMe_setMe]
  have hlast : ((s.setMe { s.me.tick (1 + p.stall) with msgs := (s.me.msgs + 1) % 2 ^ 32 }).enqueue c
      (.fifoArrival ((s.me.tick (1 + p.stall)).message s.cur r c))).core s.cur =
      { s.me.tick (1 + p.stall) with msgs := (s.me.msgs + 1) % 2 ^ 32 } := State.core_setCore _ _ _
  refine congrArg (fun t : State => t.enqueue s.cur .nextAction) ?_
  refine (congrArg (fun k : Core => State.setCore _ s.cur k.clearHandler) hlast).trans ?_
  exact congrArg (fun t : State => t.enqueue c (.fifoArrival (s.me.message s.cur r c))) (State.setCore_setCore s s.cur _ _)

theorem State.done_spawn (h : s.me.freeToEnd true) (hsrc : s.me.h.src ≠ 0x7fe) {r : Record} (hs : s.me.sbuf = [.spawn r])
    (hroom : s.me.engine.length ≤ 64) (hd : s.cx.deque.length < 32) : ∃ (t : State) (e : Entry), exec (.done p) s = .next t ∧
      e.record = r ∧ (t.core s.cur).cx.deque = s.cx.deque ++ [e] ∧ (t.core s.cur).run = .idle ∧ t.mem = s.mem ∧
      t.flight = s.flight ++ [(s.cur, .nextAction)] := by
  have hgo := State.endingWith_unheld (p := p) (f := fun s => s.endHandler s.cur) h (by simpa [Core.bufferedMessages, hs] using hroom)
    (by simp [hs, SendEntry.holdsNothing])
  have hcore : (s.setMe (s.me.tick (1 + p.stall))).core s.cur = s.me.tick (1 + p.stall) := State.core_setCore _ _ _
  have hrel := State.release_spawn (s.setMe (s.me.tick (1 + p.stall))) r
  rw [State.setMe_setMe, State.me_setMe] at hrel
  change (s.setMe (s.me.tick (1 + p.stall))).release s.cur [.spawn r] = _ at hrel
  refine ⟨_, s.me.spawned r, hgo, rfl, ?_⟩
  rw [show (s.setMe (s.me.tick (1 + p.stall))).cur = s.cur from rfl, State.endHandler_plain (by rw [hcore]; exact hsrc), hcore,
    Core.tick_sbuf, hs, hrel]
  refine ⟨?_, ?_, rfl, rfl⟩
  · refine (congrArg (fun k : Core => k.cx.deque) (State.core_setCore _ s.cur _)).trans ?_
    rw [State.setMe, State.core_setCore]
    have hcx := congrArg Ctx.deque (Core.cx_setCx (s.me.tick (1 + p.stall))
      ((s.me.tick (1 + p.stall)).cx.pushDeque ((s.me.tick (1 + p.stall)).spawned r)))
    exact hcx.trans (Ctx.pushDeque_room hd)
  · exact congrArg Core.run (State.core_setCore _ s.cur _)

theorem State.done_method (h : s.me.freeToEnd true) (hsrc : s.me.h.src = 0x7fe) (hs : s.me.sbuf = []) (hroom : s.me.engine.length ≤ 64)
    {before after : List Task} {tk : Task} (ht : s.tasks = before ++ tk :: after) (hpart : tk.ref.part = s.me.part)
    (hentry : tk.ref.entry = (dword s.me.h.record 7).toNat)
    (hbefore : ∀ x ∈ before, x.ref.part ≠ s.me.part ∨ x.ref.entry ≠ (dword s.me.h.record 7).toNat) :
    exec (.done p) s = .next (((s.setMe (s.me.ended (1 + p.stall))).enqueue s.cur (.asterRetirement tk.ref)).enqueue s.cur .nextAction) := by
  refine (State.endingWith_unheld (p := p) (f := fun s => s.endHandler s.cur) h (by simpa [Core.bufferedMessages, hs] using hroom)
    (by simp [hs])).trans (congrArg Host.Outcome.next ?_)
  have hcore : (s.setMe (s.me.tick (1 + p.stall))).core s.cur = s.me.tick (1 + p.stall) := State.core_setCore _ _ _
  have hfind : s.tasks.find? (fun t => t.ref.part == s.me.part && t.ref.entry == (dword s.me.h.record 7).toNat) = some tk := by
    refine find?_of_split ht (by simp [hpart, hentry]) fun x hx => ?_
    rcases hbefore x hx with h | h <;> simp [h]
  show (s.setMe (s.me.tick (1 + p.stall))).endHandler s.cur = _
  unfold State.endHandler
  simp only [hcore, Core.tick_sbuf, hs, State.release, Core.clearHandler_tick, Core.tick_h, hsrc, if_true, Core.tick_part]
  rw [show ((s.setMe (s.me.tick (1 + p.stall))).setCore s.cur (s.me.ended (1 + p.stall))).tasks = s.tasks from rfl, hfind]
  exact congrArg (fun t : State => (t.enqueue s.cur (.asterRetirement tk.ref)).enqueue s.cur .nextAction) (State.setCore_setCore _ _ _ _)

/-! ### IDLE and YIELD -/

theorem State.exec_done (s : State) (p : Pfx) : exec (.done p) s = s.endingWith p true (fun t => t.endHandler t.cur) := rfl

theorem State.exec_yield (s : State) (p : Pfx) : exec (.yield p) s =
    s.endingWith p false (fun t => (t.endHandler t.cur).yieldMsg s.me.enc (setOrig s.me.carried s.me.lnum)) := rfl

theorem State.idle_privileged (h : s.privileged s.cur = true) : exec (.idle p) s = s.endingWith p false (fun s =>
    (s.endHandler s.cur).setMe { (s.endHandler s.cur).me with quiesced := true }) := by
  show execIdle p s = _
  unfold execIdle
  simp only [h, Bool.not_true, Bool.false_eq_true, if_false]

theorem State.idle_empty (hp : s.privileged s.cur = true) (h : s.me.freeToEnd false) (hsrc : s.me.h.src ≠ 0x7fe) (hs : s.me.sbuf = [])
    (hroom : s.me.engine.length ≤ 64) :
    exec (.idle p) s = .next ((s.setMe { s.me.ended (1 + p.stall) with quiesced := true }).enqueue s.cur .nextAction) := by
  rw [State.idle_privileged hp, State.endingWith_unheld h (by simpa [Core.bufferedMessages, hs] using hroom) (by simp [hs]),
    show (s.setMe (s.me.tick (1 + p.stall))).cur = s.cur from rfl, State.endHandler_empty _ hsrc hs]
  have hme : ((s.setMe (s.me.ended (1 + p.stall))).enqueue s.cur .nextAction).me = s.me.ended (1 + p.stall) :=
    State.me_setMe s (s.me.ended (1 + p.stall))
  rw [hme]
  exact congrArg (fun t : State => Host.Outcome.next (t.enqueue s.cur .nextAction)) (State.setCore_setCore _ _ _ _)

/-- The state in which the strand that YIELD places arrives: the handler has ended, n cycles later, and the strand has the
message identifier. -/
def State.yielded (s : State) (n : Nat) : State :=
  (s.setMe { s.me.ended n with msgs := (s.me.msgs + 1) % 2 ^ 32 }).enqueue s.cur .nextAction

theorem State.yielded_core (s : State) (n : Nat) :
    (s.yielded n).core s.cur = { s.me.ended n with msgs := (s.me.msgs + 1) % 2 ^ 32 } :=
  State.core_setCore s s.cur { s.me.ended n with msgs := (s.me.msgs + 1) % 2 ^ 32 }

/-- YIELD with an empty buffer: the carried strand arrives. -/
theorem State.yield_arrives (h : s.me.freeToEnd false) (hsrc : s.me.h.src ≠ 0x7fe) (hs : s.me.sbuf = []) (hroom : s.me.engine.length ≤ 64) :
    exec (.yield p) s = .next ((s.yielded (1 + p.stall)).arrive (s.me.message s.cur (setOrig s.me.carried s.me.lnum) s.cur)) := by
  have hgo := State.endingWith_unheld (p := p) (f := fun t => (t.endHandler t.cur).yieldMsg s.me.enc (setOrig s.me.carried s.me.lnum)) h
    (by simpa [Core.bufferedMessages, hs] using hroom) (by simp [hs])
  have hcore : ((s.setMe (s.me.ended (1 + p.stall))).enqueue s.cur .nextAction).core s.cur = s.me.ended (1 + p.stall) :=
    State.core_setCore _ _ _
  refine hgo.trans (congrArg Host.Outcome.next ?_)
  refine (congrArg (fun t : State => t.yieldMsg s.me.enc (setOrig s.me.carried s.me.lnum)) (State.endHandler_empty _ hsrc hs)).trans ?_
  unfold State.yieldMsg State.newMsg
  rw [show ((s.setMe (s.me.ended (1 + p.stall))).enqueue s.cur .nextAction).cur = s.cur from rfl, hcore]
  exact congrArg (fun t : State => (t.enqueue s.cur .nextAction).arrive (s.me.message s.cur (setOrig s.me.carried s.me.lnum) s.cur))
    (State.setCore_setCore _ _ _ _)

/-- The strand that YIELD places finds its core ready for it. -/
theorem State.yielded_arrivesNow (s : State) (n : Nat) (r : Record) (he : s.me.engine = []) :
    (s.yielded n).arrivesNow (s.me.message s.cur r s.cur) := by
  have hcore := s.yielded_core n
  refine ⟨?_, ?_, ?_, fun _ => ?_⟩
  · exact (congrArg Core.live hcore).trans rfl
  · exact (congrArg Core.part hcore).trans rfl
  · exact (congrArg Core.enc hcore).trans rfl
  · exact (congrArg Core.engine hcore).trans he

theorem State.yield_empty (h : s.me.freeToEnd false) (hsrc : s.me.h.src ≠ 0x7fe) (hs : s.me.sbuf = []) (he : s.me.engine = [])
    {r : Record} (hr : r = setOrig s.me.carried s.me.lnum) {q : Fin 4} (hque : hQue r = q) (hmode : (s.cx.q[q]).mode = 0)
    (hplace : (s.cx.q[q]).res.length < bitsOf (s.cx.q[q]).cfg 8 4) :
    ∃ (t : State) (e : Entry), exec (.yield p) s = .next t ∧
            e.record = r ∧ e.src = s.me.lnum ∧ e.seq = s.me.msgs ∧ (t.core s.cur).run = .idle ∧
            ((t.core s.cur).cxOf s.me.enc).q[q].res = (s.cx.q[q]).res ++ [e] ∧
            t.flight = s.flight ++ [(s.cur, .nextAction), (s.cur, .nextAction)] ∧ t.mem = s.mem := by
  subst hque
  have hcore := s.yielded_core (1 + p.stall)
  have hrun : ((s.yielded (1 + p.stall)).core s.cur).run = .idle := congrArg Core.run hcore
  have hq : (((s.yielded (1 + p.stall)).core s.cur).cxOf s.me.enc).q[hQue r] = s.cx.q[hQue r] := by rw [hcore]; rfl
  obtain ⟨e, hof, hres, hidle, hflight, hmem⟩ := State.arrive_resident (s.yielded_arrivesNow (1 + p.stall) r he)
    ((congrArg Queue.mode hq).trans hmode) (by
      show (((s.yielded (1 + p.stall)).core s.cur).cxOf s.me.enc).q[hQue r].res.length <
        bitsOf (((s.yielded (1 + p.stall)).core s.cur).cxOf s.me.enc).q[hQue r].cfg 8 4
      rw [hq]; exact hplace)
  obtain ⟨hrec, hsrc', hseq, -, -⟩ := hof
  refine ⟨_, e, (hr ▸ State.yield_arrives h hsrc hs (by simp [he])), hrec, hsrc', hseq, hidle.trans hrun, ?_, ?_, hmem⟩
  · exact hres.trans (congrArg (fun x : Queue => x.res ++ [e]) hq)
  · refine hflight.trans ?_
    show (s.yielded (1 + p.stall)).wokenFlight s.cur = _
    unfold State.wokenFlight
    rw [if_pos hrun]
    exact List.append_assoc _ _ _

end

end Sys2Proof.Machine

open Sys2Proof.Machine in
/-- Settles O42: a handler end waits or is refused as `endingWith` says; one that goes on lets its buffer leave entry by entry,
frees its workspace and lets the core choose its next action. -/
theorem handlerEnds : Obligations.HandlerEnds := by
  intro s p
  have hends : ∀ {k : Core}, k.dq = [] → k.bq = [] → k.h.src ≠ 0x7fe → k.bal = none → ∀ b, k.freeToEnd b :=
    fun hdq hbq hsrc hbal b => ⟨hbal, hdq, hbq, .inr hsrc⟩
  refine ⟨fun hbal => ⟨(s.exec_done p).trans (State.endingWith_bal hbal), (s.exec_yield p).trans (State.endingWith_bal hbal), fun hp => ?_⟩,
    fun hbal hsrc => ?_, fun hbal hq => ?_,
    fun hdq hbq hsrc hbal => ⟨fun hroom hacc hblk => (s.exec_done p).trans <| State.endingWith_noRoom (hends hdq hbq hsrc hbal _) hroom hacc hblk,
      fun k hk => ?_⟩, fun before after tk hsrc hdq hbq hs hbal hroom ht hpart hentry hbefore =>
        State.done_method ⟨hbal, hdq, hbq, .inl rfl⟩ hsrc hs hroom ht hpart hentry hbefore⟩
  · rw [State.idle_privileged hp, State.endingWith_bal hbal]
  · have htrap : s.me.endTrap false = some 0x1f := by simp [Core.endTrap, hsrc, Cause.taskend]
    exact ⟨(s.exec_yield p).trans (State.endingWith_traps hbal htrap), fun hp => (State.idle_privileged hp).trans (State.endingWith_traps hbal htrap)⟩
  · have hresid : (!s.me.dq.isEmpty || !s.me.bq.isEmpty) = true := by
      rcases hq with h | h <;> simp [h]
    have htrue : s.me.endTrap true = some 0x0f := by simp [Core.endTrap, hresid, Cause.qresid]
    have hfalse : s.me.h.src ≠ 0x7fe → s.me.endTrap false = some 0x0f := fun h => by simp [Core.endTrap, h, hresid, Cause.qresid]
    exact ⟨(s.exec_done p).trans (State.endingWith_traps hbal htrue), fun hsrc => ⟨(s.exec_yield p).trans (State.endingWith_traps hbal (hfalse hsrc)),
      fun hp => (State.idle_privileged hp).trans (State.endingWith_traps hbal (hfalse hsrc))⟩⟩
  · subst hk
    have hfree := hends hdq hbq hsrc hbal
    refine ⟨fun hs hroom => ⟨State.done_empty (hfree _) hsrc hs hroom, fun hp => State.idle_empty hp (hfree _) hsrc hs hroom,
        fun r r' hr hr' he hmode hplace => ?_⟩,
      fun rel uid cells hs hroom hacc hblk => ⟨fun hkey hdead => State.done_store (hfree _) hsrc hs hroom hacc hblk hkey hdead,
        fun hkey => State.done_keyMiss (hfree _) hs hroom hacc hblk hkey⟩,
      fun r n c hs he hm hmode => State.done_send (hfree _) hsrc hs he hm hmode,
      fun r hs hd hroom => State.done_spawn (hfree _) hsrc hs hroom hd⟩
    have hrec : r' = setOrig s.me.carried s.me.lnum := by rw [hr'.eq, hr.eq]
    have hque : hQue r' = Fin.ofNat 4 (Sys2Proof.bitsOf r 47 46) := by rw [hr'.eq, setOrig_que]; rfl
    exact State.yield_empty (hfree _) hsrc hs he hrec hque hmode hplace
end

section
/-! PROOF. The homes of versioned cells: pool entries, wakes and writes (R28, R74, R125 to R129). -/

namespace Sys2Proof.Machine

/-! ### Pool entries (R125) -/

theorem sget?_sdel_same {α : Type} (k : Nat) (m : SMap α) : sget? k (sdel k m) = none := by
  induction m with
  | nil => rfl
  | cons x m ih =>
    obtain ⟨j, y⟩ := x
    unfold sdel
    split
    · exact ih
    · next h => simpa [sget?, h] using ih

theorem sget?_sdel_other {α : Type} {k j : Nat} (m : SMap α) (h : j ≠ k) : sget? j (sdel k m) = sget? j m := by
  induction m with
  | nil => rfl
  | cons x m ih =>
    obtain ⟨i, y⟩ := x
    unfold sdel
    split
    · next hi => rw [ih, sget?, if_neg (by omega)]
    · simp only [sget?, ih]

theorem mem_keys_of_sget? {α : Type} {k : Nat} {m : SMap α} (h : (sget? k m).isSome = true) : k ∈ m.map (·.1) := by
  induction m with
  | nil => cases h
  | cons x m ih =>
    obtain ⟨j, y⟩ := x
    simp only [sget?] at h
    split at h
    · next hj => simp [hj]
    · exact List.mem_cons_of_mem _ (ih h)

/-- A pool that holds the first i entries holds at least i. -/
theorem length_le_of_used {α : Type} {i : Nat} {m : SMap α} (h : ∀ j, j < i → (sget? j m).isSome = true) : i ≤ m.length := by
  have hsub : List.range i ⊆ m.map (·.1) := fun j hj => mem_keys_of_sget? (h j (List.mem_range.1 hj))
  simpa using (List.subperm_of_subset List.nodup_range hsub).length_le

theorem freeCont_eq {conts : SMap Cont} {i : Nat} (h : ∀ j, j < i → (sget? j conts).isSome = true) (hi : sget? i conts = none) (n j : Nat)
    (hj : j ≤ i) (hn : i ≤ j + n) : freeCont conts n j = i := by
  induction n generalizing j with
  | zero => exact Nat.le_antisymm hj hn
  | succ n ih =>
    unfold freeCont
    by_cases hji : j = i
    · subst hji; simp [hi]
    · rw [if_neg (by simpa [Option.isSome_iff_ne_none] using h j (by omega))]
      exact ih (j + 1) (by omega) (by omega)

/-- The lowest free entry of the pool, or none (log 16). -/
theorem Part.freeCont_eq {pt : Part} {i : Nat} (h : ∀ j, j < i → (sget? j pt.conts).isSome = true) (hi : sget? i pt.conts = none) :
    pt.freeCont = if i < pt.poolN then some i else none := by
  have hlen := length_le_of_used h
  unfold Part.freeCont
  rw [Machine.freeCont_eq h hi (pt.conts.length + 1) 0 (Nat.zero_le i) (by omega)]

/-! ### Wakes (R28) -/

/-- Two states in which a wake of partition p takes the same way. -/
structure State.WakesAlike (t s : State) (p : Nat) : Prop where
  masks : (t.part p).masks = (s.part p).masks
  members : (t.part p).members = (s.part p).members
  live : ∀ c, (t.core c).live = (s.core c).live
  ctx : ∀ c, (t.core c).ctx = (s.core c).ctx

namespace State.WakesAlike
variable {t s : State} {p : Nat}

theorem of_cores (hc : t.cores = s.cores) (hm : (t.part p).masks = (s.part p).masks) (hn : (t.part p).members = (s.part p).members) :
    t.WakesAlike s p := by
  refine ⟨hm, hn, fun c => ?_, fun c => ?_⟩ <;> rw [State.core, State.core, hc]

theorem trans {u : State} (h : u.WakesAlike t p) (h' : t.WakesAlike s p) : u.WakesAlike s p :=
  ⟨h.masks.trans h'.masks, h.members.trans h'.members, fun c => (h.live c).trans (h'.live c), fun c => (h.ctx c).trans (h'.ctx c)⟩

theorem wakeSite (h : t.WakesAlike s p) (r : Record) : t.wakeSite p r = s.wakeSite p r := by
  simp only [State.wakeSite, State.mask, State.siteOf, State.lowestLive, h.masks, h.members, h.live] <;> rfl

end State.WakesAlike

/-- A wake for a FIFO queue on its way. -/
theorem State.sendWake_alike {t s : State} {p enc cell site : Nat} {va : Word} {rc : Record} (h : t.WakesAlike s p)
    (hsite : s.wakeSite p rc = some site) (hmode : bitsOf (((s.core site).cxOf enc).q[(3 : Fin 4)]).cfg 1 0 = 0) :
    t.sendWake p enc cell va rc = some (t.enqueue site (.fifoArrival (wakeMsg rc p enc site cell va))) := by
  have harrival : t.arrivalOf (wakeMsg rc p enc site cell va) = .fifoArrival (wakeMsg rc p enc site cell va) := by
    refine if_pos ?_
    unfold Core.cxOf
    rw [show (wakeMsg rc p enc site cell va).site = site from rfl, h.ctx site]
    exact hmode
  unfold State.sendWake
  rw [h.wakeSite, hsite]
  exact congrArg (fun i => some (t.enqueue site i)) harrival

theorem State.sendWake_nolive {t s : State} {p : Nat} (enc cell : Nat) (va : Word) {rc : Record} (h : t.WakesAlike s p)
    (hsite : s.wakeSite p rc = none) : t.sendWake p enc cell va rc = none := by
  unfold State.sendWake
  rw [h.wakeSite, hsite]

/-- The record that a home reports says what R28 asks. -/
theorem noliveRecord_is (p : Nat) (c : Cont) : isNolive p c.enc c.record c.cell (noliveRecord p c) := by
  have hd : ∀ k, dword (noliveRecord p c) k = _ := fun k => dword_ofDwords 512 _ k (Nat.le_refl 512)
  have hcore : p * 2 ^ 32 + hOrig c.record * 2 ^ 20 + c.enc * 2 ^ 61 = c.enc * 2 ^ 61 + p * 2 ^ 32 + bitsOf c.record 33 24 * 2 ^ 20 := by
    unfold hOrig; omega
  refine ⟨hd 0, hd 1, hd 2, hd 3, (hd 4).trans (congrArg (BitVec.ofNat 64) hcore), hd 5, hd 6, hd 7⟩

/-! ### A record reported without room in the ring (R131) -/

theorem State.noteFull_keeps (s : State) (p a : Nat) : (s.noteFull p a).cores = s.cores ∧ (s.noteFull p a).flight = s.flight ∧
    (s.noteFull p a).mem = s.mem ∧ ((s.noteFull p a).part p).kept = (s.part p).kept ∧ ((s.noteFull p a).part p).conts = (s.part p).conts := by
  unfold State.noteFull
  dsimp only
  split
  · exact ⟨rfl, rfl, rfl, rfl, rfl⟩
  · have hevent : ∀ t : State, ∀ cls site d, (t.event cls site p d).parts = t.parts ∧ (t.event cls site p d).cores = t.cores ∧
        (t.event cls site p d).flight = t.flight ∧ (t.event cls site p d).mem = t.mem := fun t cls site d => by
      unfold State.event; dsimp only; split <;> exact ⟨rfl, rfl, rfl, rfl⟩
    obtain ⟨hparts, hcores, hflight, hmem⟩ := hevent (s.setPart p { s.part p with spells := a :: (s.part p).spells }) .ringFull (agentSite a) 0
    have hpart : ∀ x : State, x.parts = (s.setPart p { s.part p with spells := a :: (s.part p).spells }).parts →
        x.part p = { s.part p with spells := a :: (s.part p).spells } := fun x hx => by
      rw [State.part, hx]; exact State.part_setPart _ _ _
    rw [hpart _ hparts]
    exact ⟨hcores, hflight, hmem, rfl, rfl⟩

/-- The one record that an agent keeps stays with it while the ring has no room. -/
theorem State.flushKept_full {s : State} {p a : Nat} {r : Record} (hk : (s.part p).kept = [(a, r)]) (hroom : s.faultRoom p = none) :
    (s.flushKept p).cores = s.cores ∧ (s.flushKept p).flight = s.flight ∧ (s.flushKept p).mem = s.mem ∧
      ((s.flushKept p).part p).kept = [(a, r)] ∧ ((s.flushKept p).part p).conts = (s.part p).conts := by
  have hwrite : (s.setPart p { s.part p with kept := [] }).writeFault p r = none := by
    unfold State.writeFault
    rw [State.faultRoom_setPart_kept, hroom]
  obtain ⟨life, hcount⟩ := (s.setPart p { s.part p with kept := [] }).countCtl_eq p a
  generalize hu : (s.setPart p { s.part p with kept := [] }).countCtl p a = u at hcount
  have hpart : u.part p = { s.part p with kept := [] } := by rw [hcount]; exact State.part_setPart s p _
  have hflush : s.flushKept p = (u.setPart p { s.part p with kept := [(a, r)] }).noteFull p a := by
    unfold State.flushKept
    simp only [hk, State.flushList, hwrite, hu, hpart]
    rfl
  obtain ⟨hcores, hflight, hmem, hkept, hconts⟩ := (u.setPart p { s.part p with kept := [(a, r)] }).noteFull_keeps p a
  rw [State.part_setPart] at hkept hconts
  rw [hflush]
  exact ⟨hcores.trans (by rw [hcount]; rfl), hflight.trans (by rw [hcount]; rfl), hmem.trans (by rw [hcount]; rfl), hkept, hconts⟩

end Sys2Proof.Machine
end

section
/-! PROOF. What a write of a versioned cell does at its home (R74, R128). -/

namespace Sys2Proof.Machine

/-- The home with a cell written and its list of continuations renewed, before the wakes leave. -/
def State.written (s : State) (p cell : Nat) (va v : Word) (ver head : Nat) (conts : SMap Cont) : State :=
  ((s.noteVersion cell ver).setCell p cell va v ver head).setPart p { s.part p with conts := conts }

section
variable {s : State} {p cell : Nat} {va v : Word} {ver head : Nat} {conts : SMap Cont}

theorem State.written_cellIs (h : s.memWf) : (s.written p cell va v ver head conts).cellIs s cell v ver head :=
  State.cellIs_of_mem (State.setCell_cellIs (s := s.noteVersion cell ver) h p cell va v ver head) (State.setPart_mem _ _ _)

@[simp] theorem State.written_part : (s.written p cell va v ver head conts).part p = { s.part p with conts := conts } := State.part_setPart _ _ _
@[simp] theorem State.written_cores : (s.written p cell va v ver head conts).cores = s.cores :=
  (State.setPart_cores _ _ _).trans (State.setCell_cores _ _ _ _ _ _ _)
@[simp] theorem State.written_flight : (s.written p cell va v ver head conts).flight = s.flight :=
  (State.setPart_flight _ _ _).trans (State.setCell_flight _ _ _ _ _ _ _)
theorem State.written_bmem : (s.written p cell va v ver head conts).bmem = s.bmem :=
  (State.setPart_bmem _ _ _).trans (State.setCell_bmem _ _ _ _ _ _ _)

theorem State.written_wakesAlike : (s.written p cell va v ver head conts).WakesAlike s p :=
  .of_cores State.written_cores ((congrArg Part.masks State.written_part).trans rfl)
    ((congrArg Part.members State.written_part).trans rfl)

theorem State.written_wf (h : s.memWf) : (s.written p cell va v ver head conts).memWf :=
  State.storeCells_wf (s := s.noteVersion cell ver) _ (s.uidAt p va.toNat) h

end

/-- A continuation of the pool whose version is reached. -/
def reachedIn (conts : SMap Cont) (ver i : Nat) : Bool := match sget? i conts with
  | some c => decide (c.n ≤ ver)
  | none => false

/-- A write of a cell, by the list of its continuations. -/
theorem State.cellWrite_list {s : State} {p cell : Nat} (va v : Word) {ver head : Nat} {is : List Nat} {conts : SMap Cont}
    (hlist : contChain (s.part p).conts ((s.part p).conts.length + 1) (memNat s.mem (cell + 12) 4) = is)
    (hrest : relink (s.part p).conts (is.filter (fun i => !(is.filter (reachedIn (s.part p).conts ver)).contains i)) = (conts, head)) :
    s.cellWrite p cell va v ver =
      (s.written p cell va v ver head conts).wakeAll p cell va (is.filter (reachedIn (s.part p).conts ver)) := by
  have hwrite : s.cellWrite p cell va v ver =
      (s.written p cell va v ver (relink (s.part p).conts (is.filter (fun i => !(is.filter (reachedIn (s.part p).conts ver)).contains i))).2
        (relink (s.part p).conts (is.filter (fun i => !(is.filter (reachedIn (s.part p).conts ver)).contains i))).1).wakeAll p cell va
          (is.filter (reachedIn (s.part p).conts ver)) := by
    rw [← hlist]; rfl
  rw [hwrite, hrest]

/-! ### Wakes of reached continuations (R28) -/

/-- The home after a wake for a continuation has left. -/
def State.woken (s : State) (p cell : Nat) (va : Word) (i site : Nat) (c : Cont) : State :=
  (s.enqueue site (.fifoArrival (wakeMsg c.record p c.enc site cell va))).setPart p { s.part p with conts := sdel i (s.part p).conts }

@[simp] theorem State.woken_part (s : State) (p cell : Nat) (va : Word) (i site : Nat) (c : Cont) :
    (s.woken p cell va i site c).part p = { s.part p with conts := sdel i (s.part p).conts } := State.part_setPart _ _ _

theorem State.woken_wakesAlike (s : State) (p cell : Nat) (va : Word) (i site : Nat) (c : Cont) :
    (s.woken p cell va i site c).WakesAlike s p :=
  .of_cores rfl ((congrArg Part.masks (State.woken_part _ _ _ _ _ _ _)).trans rfl)
    ((congrArg Part.members (State.woken_part _ _ _ _ _ _ _)).trans rfl)

/-- A reached continuation with a live core leaves the pool, and its wake leaves the home. -/
theorem State.wakeAll_alive {t s : State} {p cell i site : Nat} {va : Word} {c : Cont} (is : List Nat) (h : t.WakesAlike s p)
    (hc : sget? i (t.part p).conts = some c) (hsite : s.wakeSite p c.record = some site)
    (hmode : bitsOf (((s.core site).cxOf c.enc).q[(3 : Fin 4)]).cfg 1 0 = 0) :
    t.wakeAll p cell va (i :: is) = (t.woken p cell va i site c).wakeAll p cell va is := by
  rw [State.wakeAll]
  simp only [hc, State.sendWake_alike h hsite hmode]
  rfl

/-- A reached continuation without a live core stays in the pool, and its home owes the record. -/
theorem State.wakeAll_nolive {t s : State} {p cell i : Nat} {va : Word} {c : Cont} (is : List Nat) (h : t.WakesAlike s p)
    (hc : sget? i (t.part p).conts = some c) (hsite : s.wakeSite p c.record = none) :
    t.wakeAll p cell va (i :: is) =
      ((t.setPart p { t.part p with conts := (sset i { c with pending := true, cell := va, next := 0 } (t.part p).conts) }).oweNolive p cell
        { c with pending := true, cell := va, next := 0 }).wakeAll p cell va is := by
  rw [State.wakeAll]
  simp only [hc, State.sendWake_nolive _ _ _ h hsite]

/-! ### One continuation -/

section
variable {s : State} {p cell e : Nat} {c : Cont} (va v : Word) {ver : Nat}

theorem contChain_one (hn : c.next = 0) : contChain [(e, c)] 2 (e + 1) = [e] := by
  simp [contChain, sget?, hn]

/-- A continuation whose version is not reached stays in the list. -/
theorem State.cellWrite_waits (hp : (s.part p).conts = [(e, c)]) (hh : memNat s.mem (cell + 12) 4 = e + 1) (hn : c.next = 0)
    (hv : ver < c.n) : s.cellWrite p cell va v ver = s.written p cell va v ver (e + 1) [(e, c)] := by
  have hc : ({ c with next := 0 } : Cont) = c := by rw [← hn]
  rw [State.cellWrite_list va v (is := [e]) (head := e + 1) (conts := [(e, c)]) (by rw [hp, hh]; exact contChain_one hn)
    (by simp [hp, reachedIn, sget?, Nat.not_le.2 hv, relink, sset, hc])]
  simp [hp, reachedIn, sget?, Nat.not_le.2 hv, State.wakeAll]

/-- A continuation whose version is reached and whose core is live is woken. -/
theorem State.cellWrite_wakes (hp : (s.part p).conts = [(e, c)]) (hh : memNat s.mem (cell + 12) 4 = e + 1) (hn : c.next = 0)
    (hv : c.n ≤ ver) {site : Nat} (hsite : s.wakeSite p c.record = some site)
    (hmode : bitsOf (((s.core site).cxOf c.enc).q[(3 : Fin 4)]).cfg 1 0 = 0) :
    s.cellWrite p cell va v ver = (s.written p cell va v ver 0 [(e, c)]).woken p cell va e site c := by
  rw [State.cellWrite_list va v (is := [e]) (head := 0) (conts := [(e, c)]) (by rw [hp, hh]; exact contChain_one hn)
    (by simp [hp, reachedIn, sget?, hv, relink])]
  rw [show [e].filter (reachedIn (s.part p).conts ver) = [e] by simp [hp, reachedIn, sget?, hv],
    State.wakeAll_alive [] State.written_wakesAlike (by simp [sget?]) hsite hmode]
  rfl

/-- The home that owes the record of a reached continuation without a live core. -/
def State.owing (s : State) (p cell e : Nat) (va v : Word) (ver : Nat) (c : Cont) : State :=
  ((s.written p cell va v ver 0 [(e, c)]).setPart p { s.part p with conts := [(e, { c with pending := true, cell := va })] }).oweNolive p cell
    { c with pending := true, cell := va }

theorem State.cellWrite_nolive (hp : (s.part p).conts = [(e, c)]) (hh : memNat s.mem (cell + 12) 4 = e + 1) (hn : c.next = 0)
    (hv : c.n ≤ ver) (hsite : s.wakeSite p c.record = none) : s.cellWrite p cell va v ver = s.owing p cell e va v ver c := by
  have hc : ({ c with pending := true, cell := va, next := 0 } : Cont) = { c with pending := true, cell := va } := by rw [← hn]
  rw [State.cellWrite_list va v (is := [e]) (head := 0) (conts := [(e, c)]) (by rw [hp, hh]; exact contChain_one hn)
    (by simp [hp, reachedIn, sget?, hv, relink])]
  rw [show [e].filter (reachedIn (s.part p).conts ver) = [e] by simp [hp, reachedIn, sget?, hv],
    State.wakeAll_nolive [] State.written_wakesAlike (c := c) (by simp [sget?]) hsite, hc]
  simp only [State.written_part, sset, if_true]
  rfl

/-- What the home that owes the record holds. -/
theorem State.owing_part : (s.owing p cell e va v ver c).part p = { s.part p with
    conts := [(e, { c with pending := true, cell := va })]
    kept := (s.part p).kept ++ [(2048 + homeSite cell, noliveRecord p { c with pending := true, cell := va })] } := by
  unfold State.owing State.oweNolive State.keepRecord
  simp

theorem State.owing_keeps : (s.owing p cell e va v ver c).mem = (s.written p cell va v ver 0 [(e, c)]).mem ∧
    (s.owing p cell e va v ver c).bmem = s.bmem ∧ (s.owing p cell e va v ver c).cores = s.cores ∧
    (s.owing p cell e va v ver c).flight = s.flight := by
  unfold State.owing State.oweNolive State.keepRecord
  simp only [State.setPart_mem, State.setPart_bmem, State.setPart_cores, State.setPart_flight, State.written_bmem, State.written_cores,
    State.written_flight, and_self]

theorem State.owing_wf (h : s.memWf) : (s.owing p cell e va v ver c).memWf := by
  have hw := State.written_wf (p := p) (cell := cell) (va := va) (v := v) (ver := ver) (head := 0) (conts := [(e, c)]) h
  obtain ⟨hmem, hbmem, -, -⟩ := State.owing_keeps (s := s) (p := p) (cell := cell) (e := e) (c := c) (ver := ver) va v
  exact State.memWf_of_eq hw hmem (hbmem.trans State.written_bmem.symm)

end

end Sys2Proof.Machine
end

section
/-! PROOF. A write of a versioned cell on which two strands wait (R74, R128). -/

namespace Sys2Proof.Machine

theorem State.written_mem (s : State) (p cell : Nat) (va v : Word) (ver head : Nat) (conts conts' : SMap Cont) :
    (s.written p cell va v ver head conts).mem = (s.written p cell va v ver head conts').mem :=
  (State.setPart_mem _ _ _).trans (State.setPart_mem _ _ _).symm

theorem State.woken_keeps (s : State) (p cell : Nat) (va : Word) (i site : Nat) (c : Cont) :
    (s.woken p cell va i site c).cores = s.cores ∧ (s.woken p cell va i site c).mem = s.mem ∧ (s.woken p cell va i site c).bmem = s.bmem ∧
    (s.woken p cell va i site c).flight = s.flight ++ [(site, .fifoArrival (wakeMsg c.record p c.enc site cell va))] := by
  unfold State.woken State.enqueue
  simp only [State.setPart_cores, State.setPart_mem, State.setPart_bmem, State.setPart_flight, and_self]

/-! ### Two continuations -/

/-- Two continuations of a cell, x at the head of its list and y behind it. -/
structure TwoConts (conts : SMap Cont) (x y : Nat × Cont) : Prop where
  length : conts.length = 2
  head : sget? x.1 conts = some x.2
  last : sget? y.1 conts = some y.2
  ne : x.1 ≠ y.1
  next : x.2.next = y.1 + 1
  stop : y.2.next = 0

namespace TwoConts
variable {conts : SMap Cont} {x y : Nat × Cont} (h : TwoConts conts x y)
include h

theorem chain : contChain conts (conts.length + 1) (x.1 + 1) = [x.1, y.1] := by
  simp [h.length, contChain, h.head, h.last, h.next, h.stop]

theorem reached_head (n : Nat) : reachedIn conts n x.1 = decide (x.2.n ≤ n) := by simp [reachedIn, h.head]
theorem reached_last (n : Nat) : reachedIn conts n y.1 = decide (y.2.n ≤ n) := by simp [reachedIn, h.last]

theorem relink_both : relink conts [x.1, y.1] =
    (sset x.1 { x.2 with next := y.1 + 1 } (sset y.1 { y.2 with next := 0 } conts), x.1 + 1) := by
  simp [relink, h.last, sget?_sset_other _ _ _ _ h.ne, h.head]

theorem relink_head : relink conts [x.1] = (sset x.1 { x.2 with next := 0 } conts, x.1 + 1) := by simp [relink, h.head]
theorem relink_last : relink conts [y.1] = (sset y.1 { y.2 with next := 0 } conts, y.1 + 1) := by simp [relink, h.last]

end TwoConts

section
variable {s : State} {p cell : Nat} {x y : Nat × Cont} (va v : Word) {n sx sy : Nat}

/-- What a write does to a cell on which two strands wait: the list keeps those whose version is not reached, and the others
are woken, the newest first. -/
theorem State.cellWrite_two (h : TwoConts (s.part p).conts x y) (hh : memNat s.mem (cell + 12) 4 = x.1 + 1)
    (hsx : s.wakeSite p x.2.record = some sx) (hsy : s.wakeSite p y.2.record = some sy)
    (hmx : bitsOf (((s.core sx).cxOf x.2.enc).q[(3 : Fin 4)]).cfg 1 0 = 0)
    (hmy : bitsOf (((s.core sy).cxOf y.2.enc).q[(3 : Fin 4)]).cfg 1 0 = 0) :
    (s.cellWrite p cell va v n).cores = s.cores ∧
    (s.cellWrite p cell va v n).mem = (s.written p cell va v n (if n < x.2.n then x.1 + 1 else if n < y.2.n then y.1 + 1 else 0) []).mem ∧
    (s.cellWrite p cell va v n).flight = s.flight ++
      (if n < x.2.n then [] else [(sx, .fifoArrival (wakeMsg x.2.record p x.2.enc sx cell va))]) ++
      (if n < y.2.n then [] else [(sy, .fifoArrival (wakeMsg y.2.record p y.2.enc sy cell va))]) ∧
    ((s.cellWrite p cell va v n).part p).kept = (s.part p).kept ∧
    sget? x.1 ((s.cellWrite p cell va v n).part p).conts =
      (if n < x.2.n then some { x.2 with next := if n < y.2.n then y.1 + 1 else 0 } else none) ∧
    sget? y.1 ((s.cellWrite p cell va v n).part p).conts = (if n < y.2.n then some y.2 else none) := by
  have hlist := h.chain
  rw [← hh] at hlist
  have hy0 : ({ y.2 with next := 0 } : Cont) = y.2 := by rw [← h.stop]
  by_cases hx : n < x.2.n <;> by_cases hy : n < y.2.n
  · have hrel : [x.1, y.1].filter (reachedIn (s.part p).conts n) = [] := by
      simp [h.reached_head, h.reached_last, hx, hy]
    have hrest : [x.1, y.1].filter (fun i => !([x.1, y.1].filter (reachedIn (s.part p).conts n)).contains i) = [x.1, y.1] := by
      rw [hrel]; rfl
    rw [State.cellWrite_list va v hlist ((congrArg (relink _) hrest).trans h.relink_both), hrel]
    simp only [State.wakeAll, hx, hy, if_true, State.written_cores, State.written_flight, State.written_part, List.append_nil]
    refine ⟨trivial, s.written_mem p cell va v n (x.1 + 1) _ [], trivial, trivial, sget?_sset_same _ _ _, ?_⟩
    rw [sget?_sset_other _ _ _ _ h.ne.symm, sget?_sset_same, hy0]
  · have hrel : [x.1, y.1].filter (reachedIn (s.part p).conts n) = [y.1] := by
      simp [h.reached_head, h.reached_last, hx, Nat.not_lt.1 hy]
    have hrest : [x.1, y.1].filter (fun i => !([x.1, y.1].filter (reachedIn (s.part p).conts n)).contains i) = [x.1] := by
      rw [hrel]; simp [h.ne]
    rw [State.cellWrite_list va v hlist ((congrArg (relink _) hrest).trans h.relink_head), hrel,
      State.wakeAll_alive [] State.written_wakesAlike (c := y.2) (by simp [sget?_sset_other _ _ _ _ h.ne.symm, h.last]) hsy hmy]
    obtain ⟨hcores, hmem, -, hflight⟩ := (s.written p cell va v n (x.1 + 1) (sset x.1 { x.2 with next := 0 } (s.part p).conts)).woken_keeps
      p cell va y.1 sy y.2
    simp only [State.wakeAll, hx, hy, if_true, if_false, hcores, hmem, hflight, State.written_cores, State.written_flight, State.woken_part,
      State.written_part, List.append_nil]
    exact ⟨trivial, s.written_mem p cell va v n (x.1 + 1) _ [], trivial, trivial,
      (sget?_sdel_other _ h.ne).trans (sget?_sset_same _ _ _), sget?_sdel_same _ _⟩
  · have hrel : [x.1, y.1].filter (reachedIn (s.part p).conts n) = [x.1] := by
      simp [h.reached_head, h.reached_last, hy, Nat.not_lt.1 hx]
    have hrest : [x.1, y.1].filter (fun i => !([x.1, y.1].filter (reachedIn (s.part p).conts n)).contains i) = [y.1] := by
      rw [hrel]; simp [h.ne.symm]
    rw [State.cellWrite_list va v hlist ((congrArg (relink _) hrest).trans h.relink_last), hrel,
      State.wakeAll_alive [] State.written_wakesAlike (c := x.2) (by simp [sget?_sset_other _ _ _ _ h.ne, h.head]) hsx hmx]
    obtain ⟨hcores, hmem, -, hflight⟩ := (s.written p cell va v n (y.1 + 1) (sset y.1 { y.2 with next := 0 } (s.part p).conts)).woken_keeps
      p cell va x.1 sx x.2
    simp only [State.wakeAll, hx, hy, if_true, if_false, hcores, hmem, hflight, State.written_cores, State.written_flight, State.woken_part,
      State.written_part, List.append_nil]
    exact ⟨trivial, s.written_mem p cell va v n (y.1 + 1) _ [], trivial, trivial, sget?_sdel_same _ _,
      ((sget?_sdel_other _ h.ne.symm).trans (sget?_sset_same _ _ _)).trans (by rw [hy0])⟩
  · have hrel : [x.1, y.1].filter (reachedIn (s.part p).conts n) = [x.1, y.1] := by
      simp [h.reached_head, h.reached_last, Nat.not_lt.1 hx, Nat.not_lt.1 hy]
    have hrest : [x.1, y.1].filter (fun i => !([x.1, y.1].filter (reachedIn (s.part p).conts n)).contains i) = [] := by
      rw [hrel]; simp
    rw [State.cellWrite_list va v hlist ((congrArg (relink _) hrest).trans rfl), hrel,
      State.wakeAll_alive [y.1] State.written_wakesAlike (c := x.2) (by simp [h.head]) hsx hmx,
      State.wakeAll_alive [] ((State.woken_wakesAlike _ _ _ _ _ _ _).trans State.written_wakesAlike) (c := y.2)
        (by simp [sget?_sdel_other _ h.ne.symm, h.last]) hsy hmy]
    obtain ⟨hcores, hmem, -, hflight⟩ := (s.written p cell va v n 0 (s.part p).conts).woken_keeps p cell va x.1 sx x.2
    obtain ⟨hcores', hmem', -, hflight'⟩ := ((s.written p cell va v n 0 (s.part p).conts).woken p cell va x.1 sx x.2).woken_keeps
      p cell va y.1 sy y.2
    simp only [State.wakeAll, hx, hy, if_false, hcores, hcores', hmem, hmem', hflight, hflight', State.written_cores, State.written_flight,
      State.woken_part, State.written_part]
    exact ⟨trivial, s.written_mem p cell va v n 0 _ [], trivial, trivial, (sget?_sdel_other _ h.ne).trans (sget?_sdel_same _ _),
      sget?_sdel_same _ _⟩

end

end Sys2Proof.Machine
end

section
/-! PROOF. O46: requests at the homes of versioned cells. -/

namespace Sys2Proof.Machine

/-- What a cell holds, against a state of the same memory. -/
theorem State.cellIs_base {t u s : State} {cell ver head : Nat} {v : Word} (h : t.cellIs u cell v ver head) (hm : u.mem = s.mem) :
    t.cellIs s cell v ver head := by
  unfold State.cellIs at h ⊢
  rw [← hm]; exact h

theorem Core.runs_of {k : Core} {hid : Nat} (hl : k.live = true) (hh : k.h.hid = hid) (hn : hid ≠ 0) : k.runs hid = true := by
  simp [Core.runs, hl, hh, hn]

/-! ### The end of the handler that parks (R126) -/

/-- The state when the handler of core c, whose buffer has left, has ended. -/
def State.cleared (s : State) (c : Nat) : State := (s.setCore c (s.core c).clearHandler).enqueue c .nextAction

section
variable {s t : State} {c : Nat}

theorem State.cleared_endedAt (h : t.cores = s.cores) : (t.cleared c).endedAt s c := by
  have hcore : (t.cleared c).core c = (s.core c).clearHandler := by
    rw [show s.core c = t.core c by rw [State.core, State.core, h]]
    exact State.core_setCore t c _
  unfold State.endedAt
  rw [hcore]
  exact ⟨rfl, rfl, rfl, rfl⟩

theorem State.endedAt_of_cores {u : State} (h : t.endedAt s c) (hu : u.cores = t.cores) : u.endedAt s c := by
  unfold State.endedAt at h ⊢
  rwa [show u.core c = t.core c by rw [State.core, State.core, hu]]

/-- A wake takes the same way after the handler has ended. -/
theorem State.cleared_wakesAlike {p : Nat} (h : t.cores = s.cores) (hm : (t.part p).masks = (s.part p).masks)
    (hn : (t.part p).members = (s.part p).members) (hl : (s.core c).live = true) : (t.cleared c).WakesAlike s p := by
  have hcore : ∀ d, t.core d = s.core d := fun d => by rw [State.core, State.core, h]
  refine ⟨hm, hn, fun d => ?_, fun d => ?_⟩ <;> by_cases hd : d = c
  · subst hd
    exact (congrArg Core.live (State.core_setCore t d _)).trans (Eq.trans rfl hl.symm)
  · exact congrArg Core.live ((State.core_setCore_other t c d _ hd).trans (hcore d))
  · subst hd
    exact (congrArg Core.ctx (State.core_setCore t d ((t.core d).clearHandler))).trans
      (Eq.trans (show (t.core d).clearHandler.ctx = (t.core d).ctx from rfl) (congrArg Core.ctx (hcore d)))
  · exact congrArg Core.ctx ((State.core_setCore_other t c d _ hd).trans (hcore d))

theorem State.endHandler_cleared (h : (s.core c).h.src ≠ 0x7fe) : s.endHandler c = (s.release c (s.core c).sbuf).cleared c :=
  State.endHandler_plain h

/-- A handler that may end leaves its core idle, and nothing else changes. -/
theorem State.endHandler_mayEnd (h : (s.core c).mayEnd) : s.endHandler c = s.cleared c := by
  obtain ⟨hsrc, -, -, hs, -, -⟩ := h
  rw [State.endHandler_cleared hsrc, hs]
  rfl

/-- The keys of held writes that are resident are at hand (R290). -/
theorem State.useHeld_ready (h : s.keyMissing (s.heldUids c) = none) : s.useHeld c = s := by
  unfold State.useHeld
  simp only [h]

theorem State.heldUids_empty (h : (s.core c).sbuf = []) : s.heldUids c = [] := by
  unfold State.heldUids
  rw [h]
  rfl

theorem State.useHeld_empty (h : (s.core c).sbuf = []) : s.useHeld c = s :=
  State.useHeld_ready (by rw [State.heldUids_empty h]; rfl)

end

/-! ### Parking (R125 to R127) -/

section
variable {s : State} {r : VwReq} {n i : Nat} {rc : Record}

theorem State.parkAt_reached (hu : s.useHeld r.core = s) (hn : n ≤ (applyHeld r.held (s.cellValue r.cell, s.cellVersion r.cell)).2)
    {site : Nat} {u : State} (he : s.endHandler r.core = u) (hw : u.WakesAlike s r.part) (hsite : s.wakeSite r.part rc = some site)
    (hmode : bitsOf (((s.core site).cxOf r.enc).q[(3 : Fin 4)]).cfg 1 0 = 0) :
    s.parkAt r n rc = u.enqueue site (.fifoArrival (wakeMsg rc r.part r.enc site r.cell r.va)) := by
  unfold State.parkAt
  simp only [hu, hn, if_true, he, State.sendWake_alike hw hsite hmode]

theorem State.parkAt_nolive (hu : s.useHeld r.core = s) (hn : n ≤ (applyHeld r.held (s.cellValue r.cell, s.cellVersion r.cell)).2)
    {u : State} (he : s.endHandler r.core = u) (hw : u.WakesAlike s r.part) (hsite : s.wakeSite r.part rc = none) :
    s.parkAt r n rc = u.reportRecord r.part (2048 + homeSite r.cell) (noliveRecord r.part
        { record := rc, n := n, scope := r.scope, enc := r.enc, next := 0, pending := true, cell := r.va }) := by
  unfold State.parkAt
  simp only [hu, hn, if_true, he, State.sendWake_nolive _ _ _ hw hsite]

/-- The lowest free pool entry goes to a strand that parks. -/
theorem State.parkAt_lists (hu : s.useHeld r.core = s) (hn : (applyHeld r.held (s.cellValue r.cell, s.cellVersion r.cell)).2 < n)
    (hused : ∀ j, j < i → (sget? j (s.part r.part).conts).isSome = true) (hfree : sget? i (s.part r.part).conts = none)
    (hi : i < (s.part r.part).poolN) : s.parkAt r n rc = (s.endHandler r.core).listCont r n rc i := by
  unfold State.parkAt
  simp only [hu, if_neg (Nat.not_le.2 hn), Part.freeCont_eq hused hfree, if_pos hi]

theorem State.parkAt_full (hu : s.useHeld r.core = s) (hn : (applyHeld r.held (s.cellValue r.cell, s.cellVersion r.cell)).2 < n)
    (hused : ∀ j, j < i → (sget? j (s.part r.part).conts).isSome = true) (hfree : sget? i (s.part r.part).conts = none)
    (hi : (s.part r.part).poolN ≤ i) : s.parkAt r n rc = s.enqueue r.core (.vwReply
        { core := r.core, hid := r.hid, result := .trap 0x1e r.va }) := by
  unfold State.parkAt
  simp only [hu, if_neg (Nat.not_le.2 hn), Part.freeCont_eq hused hfree, if_neg (Nat.not_lt.2 hi)]
  rfl

/-- The home whose pool has a strand listed, before the cell names it. -/
def State.listed (u : State) (r : VwReq) (n : Nat) (rc : Record) (i : Nat) : State := u.setPart r.part { u.part r.part with
  conts := sset i ⟨rc, n, r.scope, r.enc, memNat u.mem (r.cell + 12) 4, false, r.va⟩ (u.part r.part).conts }

theorem State.listCont_eq (u : State) (r : VwReq) (n : Nat) (rc : Record) (i : Nat) : u.listCont r n rc i =
    (u.listed r n rc i).setCell r.part r.cell r.va (BitVec.ofNat 64 (memNat u.mem r.cell 8)) (memNat u.mem (r.cell + 8) 4) (i + 1) := rfl

/-- What listing a continuation does. -/
theorem State.listCont_spec (u : State) (r : VwReq) (n : Nat) (rc : Record) (i : Nat) (h : u.memWf) :
    (u.listCont r n rc i).cores = u.cores ∧ (u.listCont r n rc i).flight = u.flight ∧
    (u.listCont r n rc i).cellIs u r.cell (BitVec.ofNat 64 (memNat u.mem r.cell 8)) (memNat u.mem (r.cell + 8) 4) (i + 1) ∧
    sget? i ((u.listCont r n rc i).part r.part).conts = some ⟨rc, n, r.scope, r.enc, memNat u.mem (r.cell + 12) 4, false, r.va⟩ := by
  have hpart : ((u.listed r n rc i).part r.part).conts =
      sset i ⟨rc, n, r.scope, r.enc, memNat u.mem (r.cell + 12) 4, false, r.va⟩ (u.part r.part).conts :=
    congrArg Part.conts (State.part_setPart u r.part _)
  rw [State.listCont_eq, State.setCell_cores, State.setCell_flight, State.setCell_part, hpart]
  exact ⟨State.setPart_cores _ _ _, State.setPart_flight _ _ _,
    State.cellIs_base (State.setCell_cellIs (s := u.listed r n rc i) h r.part r.cell r.va _ _ _) (State.setPart_mem _ _ _), sget?_sset_same _ _ _⟩

/-- A strand that may park ends its handler and is listed. -/
theorem State.parkAt_spec (hm : (s.core r.core).mayEnd) (hr : r.held = []) (hn : memNat s.mem (r.cell + 8) 4 < n)
    (hused : ∀ j, j < i → (sget? j (s.part r.part).conts).isSome = true) (hfree : sget? i (s.part r.part).conts = none)
    (hi : i < (s.part r.part).poolN) (hw : s.memWf) : (s.parkAt r n rc).endedAt s r.core ∧
        (s.parkAt r n rc).flight = s.flight ++ [(r.core, .nextAction)] ∧
        (s.parkAt r n rc).cellIs s r.cell (BitVec.ofNat 64 (memNat s.mem r.cell 8)) (memNat s.mem (r.cell + 8) 4) (i + 1) ∧
        sget? i ((s.parkAt r n rc).part r.part).conts = some ⟨rc, n, r.scope, r.enc, memNat s.mem (r.cell + 12) 4, false, r.va⟩ := by
  obtain ⟨-, -, -, hs, -, -⟩ := id hm
  rw [State.parkAt_lists (State.useHeld_empty hs) (by rw [hr]; exact hn) hused hfree hi, State.endHandler_mayEnd hm]
  obtain ⟨hcores, hflight, hcell, hcont⟩ := (s.cleared r.core).listCont_spec r n rc i hw
  exact ⟨State.endedAt_of_cores (State.cleared_endedAt rfl) hcores, hflight, State.cellIs_base hcell rfl, hcont⟩

/-! ### VWLD and PARK -/

theorem State.seenCell_empty (hr : r.held = []) :
    s.seenCell r = (BitVec.ofNat 64 (memNat s.mem r.cell 8), memNat s.mem (r.cell + 8) 4) := by
  unfold State.seenCell
  rw [hr]
  rfl

theorem State.load_reached {d : Fin 16} (ho : r.op = .load d n rc) (hr : r.held = []) (hd : s.lineDead r.cell = false)
    (hn : n ≤ memNat s.mem (r.cell + 8) 4) : exec (.vwHomeLoad r) s = .next (s.enqueue r.core (.vwReply
      { core := r.core, hid := r.hid, result := .value d (BitVec.ofNat 64 (memNat s.mem r.cell 8)) })) := by
  show execVwHomeLoad r s = _
  unfold execVwHomeLoad
  simp only [ho, State.seenCell_empty hr, hd, Bool.false_eq_true, if_false, hn, if_true]
  rfl

/-- A load whose version is not reached parks the strand. -/
theorem State.load_parks {d : Fin 16} (ho : r.op = .load d n rc) (hr : r.held = []) (hd : s.lineDead r.cell = false)
    (hn : memNat s.mem (r.cell + 8) 4 < n) (hruns : (s.core r.core).runs r.hid = true) (hm : (s.core r.core).mayEnd) :
    exec (.vwHomeLoad r) s = .next (s.parkAt r n rc) := by
  obtain ⟨hsrc, hdq, hbq, hs, hbal, heng⟩ := hm
  have htrap : (s.core r.core).endTrap false = none := by simp [Core.endTrap, hdq, hbq, hsrc]
  have hwaits : s.endWaits r.core = false := by
    simp [State.endWaits, State.heldBehindAccess, State.heldBlocked, hs, hbal]
  have hroom : (s.core r.core).engineRoom 0 = true := by simpa [Core.engineRoom, hs, sbufMessages] using heng
  show execVwHomeLoad r s = _
  unfold execVwHomeLoad
  simp only [ho, State.seenCell_empty hr, hd, Bool.false_eq_true, if_false, if_neg (Nat.not_le.2 hn), hruns, Bool.not_true, hbal,
    Option.isSome_none, htrap, hwaits, hroom, Bool.or_self]

theorem State.park_runs (ho : r.op = .park n rc) (hd : s.lineDead r.cell = false) (hruns : (s.core r.core).runs r.hid = true) :
    exec (.vwHomePark r) s = .next (s.parkAt r n rc) := by
  show execVwHomePark r s = _
  unfold execVwHomePark
  simp only [ho, hd, Bool.false_eq_true, if_false, hruns, if_true]

/-- A PARK whose version is reached wakes its strand at once. -/
theorem State.parkAt_wakes_spec (hm : (s.core r.core).mayEnd) (hl : (s.core r.core).live = true) (hr : r.held = [])
    (hn : n ≤ memNat s.mem (r.cell + 8) 4) {site : Nat} (hsite : s.wakeSite r.part rc = some site)
    (hmode : bitsOf (((s.core site).cxOf r.enc).q[(3 : Fin 4)]).cfg 1 0 = 0) :
    (s.parkAt r n rc).endedAt s r.core ∧ (s.parkAt r n rc).mem = s.mem ∧ (s.parkAt r n rc).flight = s.flight ++ [(r.core, .nextAction),
      (site, .fifoArrival (wakeMsg rc r.part r.enc site r.cell r.va))] := by
  obtain ⟨-, -, -, hs, -, -⟩ := id hm
  rw [State.parkAt_reached (State.useHeld_empty hs) (by rw [hr]; exact hn) (State.endHandler_mayEnd hm)
    (State.cleared_wakesAlike rfl rfl rfl hl) hsite hmode]
  exact ⟨State.endedAt_of_cores (State.cleared_endedAt rfl) rfl, rfl, List.append_assoc _ _ _⟩

/-- A PARK whose version is reached and whose mask holds no live core reports NOLIVE, and takes no pool entry (log 71). -/
theorem State.parkAt_nolive_spec (hm : (s.core r.core).mayEnd) (hl : (s.core r.core).live = true) (hr : r.held = [])
    (hn : n ≤ memNat s.mem (r.cell + 8) 4) (hsite : s.wakeSite r.part rc = none) (hk : (s.part r.part).kept = [])
    (hcap : (s.part r.part).fcap = 0) : (s.parkAt r n rc).endedAt s r.core ∧ (s.parkAt r n rc).mem = s.mem ∧
      ((s.parkAt r n rc).part r.part).conts = (s.part r.part).conts ∧ ((s.parkAt r n rc).part r.part).kept =
        [(2048 + homeSite r.cell, noliveRecord r.part
          { record := rc, n := n, scope := r.scope, enc := r.enc, next := 0, pending := true, cell := r.va })] := by
  obtain ⟨-, -, -, hs, -, -⟩ := id hm
  rw [State.parkAt_nolive (State.useHeld_empty hs) (by rw [hr]; exact hn) (State.endHandler_mayEnd hm)
    (State.cleared_wakesAlike rfl rfl rfl hl) hsite]
  generalize noliveRecord r.part { record := rc, n := n, scope := r.scope, enc := r.enc, next := 0, pending := true, cell := r.va } = rec
  have hpart : ((s.cleared r.core).keepRecord r.part (2048 + homeSite r.cell) rec).part r.part =
      { s.part r.part with kept := [(2048 + homeSite r.cell, rec)] } := by
    rw [State.keepRecord, State.part_setPart, show (s.cleared r.core).part r.part = s.part r.part from rfl, hk]
    rfl
  have hroom : ((s.cleared r.core).keepRecord r.part (2048 + homeSite r.cell) rec).faultRoom r.part = none := by
    unfold State.faultRoom
    rw [hpart]
    exact if_pos (by simp [hcap])
  obtain ⟨hcores, -, hmem, hkept, hconts⟩ := State.flushKept_full (congrArg Part.kept hpart) hroom
  exact ⟨State.endedAt_of_cores (State.cleared_endedAt rfl) hcores, hmem, hconts.trans ((congrArg Part.conts hpart).trans rfl), hkept⟩

end

end Sys2Proof.Machine
end

section
/-! PROOF. O46: writes, peeks and resets at the homes of versioned cells. -/

namespace Sys2Proof.Machine

/-! ### A write without a record to report (R128) -/

/-- With no record kept, none leaves. -/
theorem State.flushKept_keeps {s : State} {p : Nat} (h : (s.part p).kept = []) : (s.flushKept p).cores = s.cores ∧
    (s.flushKept p).flight = s.flight ∧ (s.flushKept p).mem = s.mem ∧ (s.flushKept p).bmem = s.bmem ∧ (s.flushKept p).part p = s.part p := by
  rw [State.flushKept_nil h]
  exact ⟨State.setPart_cores _ _ _, State.setPart_flight _ _ _, State.setPart_mem _ _ _, State.setPart_bmem _ _ _, State.part_setPart _ _ _⟩

section
variable {s : State} {p cell e : Nat} {va v : Word} {n : Nat} {c : Cont}

/-- A home without continuations writes the cell. -/
theorem State.cellWrite_written (h : (s.part p).conts = []) : s.cellWrite p cell va v n = s.written p cell va v n 0 [] := by
  rw [State.cellWrite_list va v (is := []) (head := 0) (conts := []) (contChain_nil (.inl h)) (by rw [h]; rfl)]
  rfl

theorem State.homeWrite_written (hk : (s.part p).kept = []) (h : (s.part p).conts = []) (hw : s.memWf) :
    (s.homeWrite p cell va v n).cores = s.cores ∧ (s.homeWrite p cell va v n).bmem = s.bmem ∧
    (s.homeWrite p cell va v n).flight = s.flight ∧ (s.homeWrite p cell va v n).cellIs s cell v n 0 ∧
    (s.homeWrite p cell va v n).part p = s.part p := by
  have hpart : (s.written p cell va v n 0 []).part p = s.part p := by rw [State.written_part, ← h]
  obtain ⟨hcores, hflight, hmem, hbmem, hpart'⟩ := State.flushKept_keeps (s := s.written p cell va v n 0 []) (p := p) (by rw [hpart, hk])
  unfold State.homeWrite
  rw [State.cellWrite_written h]
  exact ⟨hcores.trans State.written_cores, hbmem.trans State.written_bmem, hflight.trans State.written_flight,
    State.cellIs_of_mem (State.written_cellIs hw) hmem, hpart'.trans hpart⟩

theorem State.homeWrite_waits (hk : (s.part p).kept = []) (hp : (s.part p).conts = [(e, c)]) (hh : memNat s.mem (cell + 12) 4 = e + 1)
    (hn : c.next = 0) (hv : n < c.n) (hw : s.memWf) : (s.homeWrite p cell va v n).flight = s.flight ∧
      (s.homeWrite p cell va v n).cellIs s cell v n (e + 1) ∧ ((s.homeWrite p cell va v n).part p).conts = [(e, c)] := by
  obtain ⟨-, hflight, hmem, -, hpart⟩ := State.flushKept_keeps (s := s.written p cell va v n (e + 1) [(e, c)]) (p := p)
    (by rw [State.written_part, hk])
  unfold State.homeWrite
  rw [State.cellWrite_waits va v hp hh hn hv]
  exact ⟨hflight.trans State.written_flight, State.cellIs_of_mem (State.written_cellIs hw) hmem, by rw [hpart, State.written_part]⟩

theorem State.homeWrite_wakes (hk : (s.part p).kept = []) (hp : (s.part p).conts = [(e, c)]) (hh : memNat s.mem (cell + 12) 4 = e + 1)
    (hn : c.next = 0) (hv : c.n ≤ n) (hw : s.memWf) {site : Nat} (hsite : s.wakeSite p c.record = some site)
    (hmode : bitsOf (((s.core site).cxOf c.enc).q[(3 : Fin 4)]).cfg 1 0 = 0) :
    (s.homeWrite p cell va v n).cellIs s cell v n 0 ∧ ((s.homeWrite p cell va v n).part p).conts = [] ∧
      (s.homeWrite p cell va v n).cores = s.cores ∧
      (s.homeWrite p cell va v n).flight = s.flight ++ [(site, .fifoArrival (wakeMsg c.record p c.enc site cell va))] := by
  obtain ⟨hcores, hmem, -, hflight⟩ := (s.written p cell va v n 0 [(e, c)]).woken_keeps p cell va e site c
  obtain ⟨hcores', hflight', hmem', -, hpart⟩ := State.flushKept_keeps (s := (s.written p cell va v n 0 [(e, c)]).woken p cell va e site c)
    (p := p) (by simp [hk])
  unfold State.homeWrite
  rw [State.cellWrite_wakes va v hp hh hn hv hsite hmode]
  refine ⟨State.cellIs_of_mem (State.written_cellIs hw) (hmem'.trans hmem), ?_, (hcores'.trans hcores).trans State.written_cores,
    (hflight'.trans hflight).trans (by rw [State.written_flight])⟩
  rw [hpart, State.woken_part, State.written_part]
  simp [sdel]

end

/-! ### A write that reports NOLIVE (R28, R131) -/

section
variable {s : State} {p cell e : Nat} {va v : Word} {n : Nat} {c : Cont}

theorem State.owing_kept (hk : (s.part p).kept = []) : ((s.owing p cell e va v n c).part p).kept =
    [(2048 + homeSite cell, noliveRecord p { c with pending := true, cell := va })] := by
  rw [State.owing_part, hk]
  rfl

theorem State.faultRoom_none {u : State} (h : (u.part p).fcap = 0) : u.faultRoom p = none := by
  unfold State.faultRoom
  exact if_pos (by simp [h])

/-- A ring without room leaves the record with the home. -/
theorem State.homeWrite_owes (hk : (s.part p).kept = []) (hu : s.cellWrite p cell va v n = s.owing p cell e va v n c)
    (hroom : (s.owing p cell e va v n c).faultRoom p = none) :
    (s.homeWrite p cell va v n).mem = (s.owing p cell e va v n c).mem ∧ (s.homeWrite p cell va v n).cores = s.cores ∧
    (s.homeWrite p cell va v n).flight = s.flight ∧
    ((s.homeWrite p cell va v n).part p).conts = [(e, { c with pending := true, cell := va })] ∧
    ((s.homeWrite p cell va v n).part p).kept =
      [(2048 + homeSite cell, noliveRecord p { c with pending := true, cell := va })] := by
  obtain ⟨hcores, hflight, hmem, hkept, hconts⟩ := State.flushKept_full (State.owing_kept hk) hroom
  obtain ⟨-, -, hcores', hflight'⟩ := State.owing_keeps (s := s) (p := p) (cell := cell) (e := e) (c := c) (ver := n) va v
  unfold State.homeWrite
  rw [hu]
  exact ⟨hmem, hcores.trans hcores', hflight.trans hflight', hconts.trans (by rw [State.owing_part]), hkept⟩

/-- A ring with room takes the record. -/
theorem State.homeWrite_reports (hk : (s.part p).kept = []) (hu : s.cellWrite p cell va v n = s.owing p cell e va v n c) (hw : s.memWf)
    {ctl slot w : Nat} (hroom : (s.owing p cell e va v n c).faultRoom p = some (ctl, slot, w))
    (hctl : memNat (s.owing p cell e va v n c).mem (ctl + 12) 4 = 0) (hd : slot + 64 ≤ ctl ∨ ctl + 16 ≤ slot) :
    (s.homeWrite p cell va v n).cores = s.cores ∧ (s.homeWrite p cell va v n).flight = s.flight ∧
    ((s.homeWrite p cell va v n).part p).kept = [] ∧
    ((s.homeWrite p cell va v n).part p).conts = [(e, { c with pending := true, cell := va })] ∧
    memNat (s.homeWrite p cell va v n).mem slot 64 = (noliveRecord p { c with pending := true, cell := va }).toNat ∧
    memNat (s.homeWrite p cell va v n).mem ctl 8 = (memNat (s.owing p cell e va v n c).mem ctl 8 + 1) % 2 ^ 64 ∧
    memNat (s.homeWrite p cell va v n).mem (ctl + 8) 4 = (w + 1) % 2 ^ 32 := by
  obtain ⟨hcores, hflight, hkept, hconts, hmem⟩ := State.flushKept_one (State.owing_kept hk) hroom (.inr hctl) (State.owing_wf va v hw) hd
  obtain ⟨-, -, hcores', hflight'⟩ := State.owing_keeps (s := s) (p := p) (cell := cell) (e := e) (c := c) (ver := n) va v
  unfold State.homeWrite
  rw [hu]
  exact ⟨hcores.trans hcores', hflight.trans hflight', hkept, hconts.trans (by rw [State.owing_part]), hmem⟩

theorem State.owing_cellIs (hw : s.memWf) : (s.owing p cell e va v n c).cellIs s cell v n 0 := by
  obtain ⟨hmem, -, -, -⟩ := State.owing_keeps (s := s) (p := p) (cell := cell) (e := e) (c := c) (ver := n) va v
  exact State.cellIs_of_mem (State.written_cellIs hw) hmem

end

/-! ### Two continuations (R128) -/

section
variable {s : State} {p cell : Nat} {va v : Word} {n : Nat}

/-- A pool of two entries, either of which heads the cell's list. -/
theorem TwoConts.of_pool {conts : SMap Cont} {x y : Nat × Cont} {e e' : Nat} {c c' : Cont} (he : e < e') (hp : conts = [(e, c), (e', c')])
    (hxy : (x = (e, c) ∧ y = (e', c')) ∨ (x = (e', c') ∧ y = (e, c))) (hnext : x.2.next = y.1 + 1) (hstop : y.2.next = 0) :
    TwoConts conts x y := by
  have hne : e' ≠ e := by omega
  subst hp
  obtain ⟨rfl, rfl⟩ | ⟨rfl, rfl⟩ := hxy
  · exact ⟨rfl, by simp [sget?], by simp [sget?, hne.symm], hne.symm, hnext, hstop⟩
  · exact ⟨rfl, by simp [sget?, hne.symm], by simp [sget?], hne, hnext, hstop⟩

theorem State.homeWrite_two {x y : Nat × Cont} {sx sy : Nat} (hk : (s.part p).kept = []) (h : TwoConts (s.part p).conts x y)
    (hh : memNat s.mem (cell + 12) 4 = x.1 + 1) (hsx : s.wakeSite p x.2.record = some sx) (hsy : s.wakeSite p y.2.record = some sy)
    (hmx : bitsOf (((s.core sx).cxOf x.2.enc).q[(3 : Fin 4)]).cfg 1 0 = 0)
    (hmy : bitsOf (((s.core sy).cxOf y.2.enc).q[(3 : Fin 4)]).cfg 1 0 = 0) (hw : s.memWf) :
    (s.homeWrite p cell va v n).cores = s.cores ∧
    (s.homeWrite p cell va v n).cellIs s cell v n (if n < x.2.n then x.1 + 1 else if n < y.2.n then y.1 + 1 else 0) ∧
    (s.homeWrite p cell va v n).flight = s.flight ++
      (if n < x.2.n then [] else [(sx, .fifoArrival (wakeMsg x.2.record p x.2.enc sx cell va))]) ++
      (if n < y.2.n then [] else [(sy, .fifoArrival (wakeMsg y.2.record p y.2.enc sy cell va))]) ∧
    sget? x.1 ((s.homeWrite p cell va v n).part p).conts =
      (if n < x.2.n then some { x.2 with next := if n < y.2.n then y.1 + 1 else 0 } else none) ∧
    sget? y.1 ((s.homeWrite p cell va v n).part p).conts = (if n < y.2.n then some y.2 else none) := by
  obtain ⟨hcores, hmem, hflight, hkept, hx, hy⟩ := State.cellWrite_two va v (n := n) h hh hsx hsy hmx hmy
  obtain ⟨hcores', hflight', hmem', -, hpart⟩ := State.flushKept_keeps (hkept.trans hk)
  unfold State.homeWrite
  rw [hpart]
  exact ⟨hcores'.trans hcores, State.cellIs_of_mem (State.written_cellIs hw) (hmem'.trans hmem), hflight'.trans hflight, hx, hy⟩

end

/-! ### The requests -/

/-- A store or an increment whose line is intact writes the cell. -/
theorem exec_vwWrite {s : State} {r : VwReq} {v : Word} {n : Nat} {i : Instr} (h : (r.op = .store v n ∧ i = .vwHomeStore r) ∨
      (∃ u, r.op = .inc u ∧ i = .vwHomeInc r ∧ v = BitVec.ofNat 64 (memNat s.mem r.cell 8) + u ∧
        n = (memNat s.mem (r.cell + 8) 4 + 1) % 2 ^ 32)) (hd : s.lineDead r.cell = false) :
    exec i s = .next (s.homeWrite r.part r.cell r.va v n) := by
  obtain ⟨ho, rfl⟩ | ⟨u, ho, rfl, rfl, rfl⟩ := h
  · show execVwHomeStore r s = _
    unfold execVwHomeStore
    simp only [ho, hd, Bool.false_eq_true, if_false]
  · show execVwHomeInc r s = _
    unfold execVwHomeInc
    simp only [ho, hd, Bool.false_eq_true, if_false]
    rfl

theorem exec_peek {s : State} {r : VwReq} {d : Fin 16} (ho : r.op = .peek d) (hd : s.lineDead r.cell = false) {v : Word} {n : Nat}
    (hseen : s.seenCell r = (v, n)) : exec (.vwHomePeek r) s = .next (s.enqueue r.core (.vwReply
      { core := r.core, hid := r.hid, result := .pair d v n })) := by
  show execVwHomePeek r s = _
  unfold execVwHomePeek
  simp only [ho, hseen, hd, Bool.false_eq_true, if_false]
  rfl

/-- What the strand sees of a cell that one write of its own holds. -/
theorem State.seenCell_held {s : State} {r : VwReq} {w : HeldVw} {m : Nat} (hr : r.held = [w]) (hv : w.version = some m) (hm : m < 2 ^ 32)
    (hp : w.past = false) (hmore : w.more = (0, 0)) : s.seenCell r = (w.value, m) := by
  simp [State.seenCell, hr, ownHeld, applyHeld, hp, hv, hmore]
  exact hm

/-- A held write that a later one left behind is not seen. -/
theorem State.seenCell_past {s : State} {r : VwReq} {w : HeldVw} (hr : r.held = [w]) (hp : w.past = true) :
    s.seenCell r = (BitVec.ofNat 64 (memNat s.mem r.cell 8), memNat s.mem (r.cell + 8) 4) := by
  simp only [State.seenCell, hr, ownHeld, applyHeld, hp, List.filter, Bool.not_true, List.map]
  rfl

theorem exec_reset_refused {s : State} {r : VwReq} (ho : r.op = .reset) (hd : s.lineDead r.cell = false)
    (hh : memNat s.mem (r.cell + 12) 4 ≠ 0) : exec (.vwHomeReset r) s = .next (s.enqueue r.core (.vwReply
      { core := r.core, hid := r.hid, result := .trap 0x0a r.va })) := by
  show execVwHomeReset r s = _
  unfold execVwHomeReset
  simp only [ho, hd, Bool.false_eq_true, if_false]
  exact if_pos hh

theorem exec_reset_clears {s : State} {r : VwReq} (ho : r.op = .reset) (hd : s.lineDead r.cell = false)
    (hh : memNat s.mem (r.cell + 12) 4 = 0) (hw : s.memWf) : ∃ t, exec (.vwHomeReset r) s = .next t ∧ t.cores = s.cores ∧
      t.cellIs s r.cell (BitVec.ofNat 64 (memNat s.mem r.cell 8)) 0 0 ∧
      t.flight = s.flight ++ [(r.core, .vwReply { core := r.core, hid := r.hid, result := .done })] := by
  have hexec : exec (.vwHomeReset r) s = .next ((s.setCell r.part r.cell r.va (s.cellValue r.cell) 0 0).vwAnswer r .done) := by
    show execVwHomeReset r s = _
    unfold execVwHomeReset
    simp only [ho, hd, Bool.false_eq_true, if_false]
    exact if_neg (not_not.2 hh)
  refine ⟨_, hexec, ?_⟩
  have hcores := s.setCell_cores r.part r.cell r.va (s.cellValue r.cell) 0 0
  have hflight := s.setCell_flight r.part r.cell r.va (s.cellValue r.cell) 0 0
  have hcell := State.setCell_cellIs hw r.part r.cell r.va (s.cellValue r.cell) 0 0
  generalize s.setCell r.part r.cell r.va (s.cellValue r.cell) 0 0 = u at hcores hflight hcell ⊢
  exact ⟨hcores, State.cellIs_of_mem hcell rfl, congrArg (· ++ _) hflight⟩

/-! ### A line beyond its code (R309, log 82) -/

theorem State.deadCell_late {s : State} {r : VwReq} (hr : (s.core r.core).runs r.hid = true) :
    s.deadCell r false = s.trap r.core { cause := 0x71, faddr := r.va, iaddr := some r.pc, noSlot := true } := by
  simp [State.deadCell, State.lateMac, hr, Cause.sealmac]

theorem State.deadCell_answers {s : State} {r : VwReq} (hr : (s.core r.core).runs r.hid = true) :
    s.deadCell r true = s.enqueue r.core (.vwReply { core := r.core, hid := r.hid, result := .trap 0x71 r.va }) := by
  simp [State.deadCell, hr, State.vwAnswer, Cause.sealmac]

theorem State.deadCell_counts {s : State} {r : VwReq} (waits : Bool) (hr : (s.core r.core).runs r.hid = false) :
    s.deadCell r waits = s.lifeAdd (1 + r.core) 3 1 := by
  simp [State.deadCell, State.lateMac, hr]

theorem State.lifeAdd_counted (s : State) (r j n : Nat) : (s.lifeAdd r j n).counted s r j n := by
  unfold State.counted State.lifeAdd
  exact sget_sset_same _ _ _ _

section
variable {s : State} {r : VwReq} {i : Instr}

theorem exec_deadWrite (hd : s.lineDead r.cell = true)
    (h : (∃ v n, r.op = .store v n ∧ i = .vwHomeStore r) ∨ (∃ v, r.op = .inc v ∧ i = .vwHomeInc r)) :
    exec i s = .next (s.deadCell r false) := by
  obtain ⟨v, n, ho, rfl⟩ | ⟨v, ho, rfl⟩ := h
  · show execVwHomeStore r s = _
    simp only [execVwHomeStore, ho, hd, if_true]
  · show execVwHomeInc r s = _
    simp only [execVwHomeInc, ho, hd, if_true]

theorem exec_deadAnswer (hd : s.lineDead r.cell = true) (h : (∃ d n rc, r.op = .load d n rc ∧ i = .vwHomeLoad r) ∨
    (∃ n rc, r.op = .park n rc ∧ i = .vwHomePark r) ∨ (∃ d, r.op = .peek d ∧ i = .vwHomePeek r) ∨ (r.op = .reset ∧ i = .vwHomeReset r)) :
    exec i s = .next (s.deadCell r true) := by
  obtain ⟨d, n, rc, ho, rfl⟩ | ⟨n, rc, ho, rfl⟩ | ⟨d, ho, rfl⟩ | ⟨ho, rfl⟩ := h
  · show execVwHomeLoad r s = _
    simp only [execVwHomeLoad, ho, hd, if_true]
  · show execVwHomePark r s = _
    simp only [execVwHomePark, ho, hd, if_true]
  · show execVwHomePeek r s = _
    simp only [execVwHomePeek, ho, hd, if_true]
  · show execVwHomeReset r s = _
    simp only [execVwHomeReset, ho, hd, if_true]

theorem exec_deadCounts (hr : (s.core r.core).runs r.hid = false) (h : ∃ b, exec i s = .next (s.deadCell r b)) :
    ∃ t, exec i s = .next t ∧ t.mem = s.mem ∧ t.seals = s.seals ∧ t.cores = s.cores ∧ t.counted s (1 + r.core) 3 1 := by
  obtain ⟨b, h⟩ := h
  rw [State.deadCell_counts b hr] at h
  exact ⟨_, h, rfl, rfl, rfl, s.lifeAdd_counted _ _ _⟩

end

/-! ### The answer -/

theorem exec_vwReply {s : State} {c hid : Nat} {p : Pfx} (hrun : (s.core c).run = .waiting (.vw p)) (hh : (s.core c).h.hid = hid)
    (hn : hid ≠ 0) (x : VwResult) : exec (.vwReply { core := c, hid := hid, result := x }) s = (match x with
      | .value d v => .next (s.setCore c (((s.core c).setG d v).resume p))
      | .pair d v n => .next (s.setCore c ((((s.core c).setG d v).setG (d + 1) (BitVec.ofNat 64 n)).resume p))
      | .done => .next (s.setCore c ((s.core c).resume p))
      | .trap f v => .next (s.trap c { cause := f, faddr := v })) := by
  have hruns : (s.core c).runs hid = true := Core.runs_of (by simp [Core.live, hrun]) hh hn
  show execVwReply _ s = _
  unfold execVwReply
  cases x <;> simp only [hrun, hruns, Bool.not_true, Bool.false_eq_true, if_false]

/-! ### A strand that parks with a held write of the cell (R82) -/

section
variable {s : State} {r : VwReq} {w : HeldVw} {m n : Nat} {rc : Record}

theorem State.useHeld_one (hs : (s.core r.core).sbuf = [.vw w]) (hva : w.va = r.va) (hpart : (s.core r.core).part = r.part)
    (hkey : s.keyMissing [s.uidAt r.part r.va.toNat] = none) : s.useHeld r.core = s := by
  refine State.useHeld_ready ?_
  rw [← hkey]
  unfold State.heldUids
  simp [hs, hva, hpart]

/-- The state whose held write of the cell has left. -/
def State.heldLeft (s : State) (r : VwReq) (w : HeldVw) (m : Nat) : State :=
  { s with keys := touchKeys s.keys [s.uidAt r.part r.va.toNat] }.homeWrite r.part r.cell r.va w.value m

theorem State.release_vw (hcell : w.cell = r.cell) (hva : w.va = r.va) (hv : w.version = some m) (hd : s.lineDead r.cell = false)
    (hpart : (s.core r.core).part = r.part) : s.release r.core [.vw w] = s.heldLeft r w m := by
  show s.releaseVw r.core w = _
  unfold State.releaseVw State.heldVw
  simp only [hcell, hd, hv, hva, hpart, Bool.false_eq_true, if_false]
  rfl

theorem State.heldLeft_spec (hk : (s.part r.part).kept = []) (hc : (s.part r.part).conts = []) (hw : s.memWf) :
    (s.heldLeft r w m).cores = s.cores ∧ (s.heldLeft r w m).flight = s.flight ∧ (s.heldLeft r w m).cellIs s r.cell w.value m 0 ∧
      (s.heldLeft r w m).part r.part = s.part r.part := by
  obtain ⟨hcores, -, hflight, hcell, hpart⟩ := State.homeWrite_written (cell := r.cell) (va := r.va) (v := w.value) (n := m)
    (s := { s with keys := touchKeys s.keys [s.uidAt r.part r.va.toNat] }) (p := r.part) hk hc hw
  exact ⟨hcores, hflight, State.cellIs_base hcell rfl, hpart⟩

/-- The held write is performed, and reaches the version for which the strand parks. -/
theorem State.parkAt_held_spec (hr : r.held = [w]) (hs : (s.core r.core).sbuf = [.vw w]) (hsrc : (s.core r.core).h.src ≠ 0x7fe)
    (hcell : w.cell = r.cell) (hva : w.va = r.va) (hv : w.version = some m) (hn : n ≤ m) (hd : s.lineDead r.cell = false)
    (hkey : s.keyMissing [s.uidAt r.part r.va.toNat] = none) (hw : s.memWf) (hl : (s.core r.core).live = true)
    (hpart : (s.core r.core).part = r.part) (hk : (s.part r.part).kept = []) (hc : (s.part r.part).conts = []) {site : Nat}
    (hsite : s.wakeSite r.part rc = some site) (hmode : bitsOf (((s.core site).cxOf r.enc).q[(3 : Fin 4)]).cfg 1 0 = 0) :
    (s.parkAt r n rc).endedAt s r.core ∧ (s.parkAt r n rc).cellIs s r.cell w.value m 0 ∧ (s.parkAt r n rc).flight =
      s.flight ++ [(r.core, .nextAction), (site, .fifoArrival (wakeMsg rc r.part r.enc site r.cell r.va))] := by
  obtain ⟨hcores, hflight, his, hleft⟩ := State.heldLeft_spec (w := w) (m := m) hk hc hw
  have hend : s.endHandler r.core = (s.heldLeft r w m).cleared r.core := by
    rw [State.endHandler_cleared hsrc, hs, State.release_vw hcell hva hv hd hpart]
  rw [State.parkAt_reached (State.useHeld_one hs hva hpart hkey) (by simpa [hr, applyHeld, hv] using hn) hend
    (State.cleared_wakesAlike hcores (congrArg Part.masks hleft) (congrArg Part.members hleft) hl) hsite hmode]
  generalize s.heldLeft r w m = u at hcores hflight his ⊢
  refine ⟨State.endedAt_of_cores (State.cleared_endedAt hcores) rfl, State.cellIs_of_mem his rfl, ?_⟩
  show (u.flight ++ [_]) ++ [_] = _
  rw [hflight, List.append_assoc]
  rfl

end

end Sys2Proof.Machine
end

section
/-! PROOF. O46, its clauses in the order of the statement. -/

namespace Sys2Proof.Machine

section
variable {s : State} {r : VwReq} {i : Instr} {v : Word} {n : Nat}

/-- A reached continuation without a live core, by the room of the fault ring. -/
theorem exec_vwWrite_nolive (hexec : exec i s = .next (s.homeWrite r.part r.cell r.va v n)) (hw : s.memWf) (hk : (s.part r.part).kept = [])
    {e : Nat} {c : Cont} (hp : (s.part r.part).conts = [(e, c)]) (hh : memNat s.mem (r.cell + 12) 4 = e + 1) (hnext : c.next = 0)
    (hv : c.n ≤ n) (hsite : s.wakeSite r.part c.record = none) {u : State} (hu : u = s.cellWrite r.part r.cell r.va v n) :
    (u.faultRoom r.part = none → ∃ t rec, exec i s = .next t ∧ t.mem = u.mem ∧ t.cores = s.cores ∧ t.flight = s.flight ∧
      isNolive r.part c.enc c.record r.va rec ∧
      (t.part r.part).kept = [(2048 + Config.homeSlice (r.cell / 64) % 1024, rec)]) ∧
    (∀ ctl slot w, u.faultRoom r.part = some (ctl, slot, w) → memNat u.mem (ctl + 12) 4 = 0 →
      slot + 64 ≤ ctl ∨ ctl + 16 ≤ slot → ∃ t rec, exec i s = .next t ∧ t.cores = s.cores ∧ t.flight = s.flight ∧
      isNolive r.part c.enc c.record r.va rec ∧ (t.part r.part).kept = [] ∧
      (t.part r.part).conts = [(e, { c with pending := true, cell := r.va })] ∧ memNat t.mem slot 64 = rec.toNat ∧
      memNat t.mem ctl 8 = (memNat u.mem ctl 8 + 1) % 2 ^ 64 ∧ memNat t.mem (ctl + 8) 4 = (w + 1) % 2 ^ 32) := by
  have howing := State.cellWrite_nolive r.va v hp hh hnext hv hsite
  rw [howing] at hu
  subst hu
  have hrec := noliveRecord_is r.part { c with pending := true, cell := r.va }
  constructor
  · intro hroom
    obtain ⟨hmem, hcores, hflight, -, hkept⟩ := State.homeWrite_owes hk howing hroom
    exact ⟨_, _, hexec, hmem, hcores, hflight, hrec, hkept⟩
  · intro ctl slot w hroom hctl hd
    obtain ⟨hcores, hflight, hkept, hconts, hslot, hvalue, hversion⟩ := State.homeWrite_reports hk howing hw hroom hctl hd
    exact ⟨_, _, hexec, hcores, hflight, hrec, hkept, hconts, hslot, hvalue, hversion⟩

theorem exec_vwWrite_unset (hexec : exec i s = .next (s.homeWrite r.part r.cell r.va v n)) (hw : s.memWf) (hk : (s.part r.part).kept = [])
    {e : Nat} {c : Cont} (hp : (s.part r.part).conts = [(e, c)]) (hh : memNat s.mem (r.cell + 12) 4 = e + 1) (hnext : c.next = 0)
    (hv : c.n ≤ n) (hsite : s.wakeSite r.part c.record = none) (hcap : (s.part r.part).fcap = 0) : ∃ t rec, exec i s = .next t ∧
      t.cellIs s r.cell v n 0 ∧ (t.part r.part).conts = [(e, { c with pending := true, cell := r.va })] ∧ t.cores = s.cores ∧
      t.flight = s.flight ∧ isNolive r.part c.enc c.record r.va rec ∧
      (t.part r.part).kept = [(2048 + Config.homeSlice (r.cell / 64) % 1024, rec)] := by
  obtain ⟨hmem, hcores, hflight, hconts, hkept⟩ := State.homeWrite_owes hk (State.cellWrite_nolive r.va v hp hh hnext hv hsite)
    (State.faultRoom_none (by rw [State.owing_part]; exact hcap))
  exact ⟨_, _, hexec, State.cellIs_of_mem (State.owing_cellIs hw) hmem, hconts, hcores, hflight,
    noliveRecord_is r.part { c with pending := true, cell := r.va }, hkept⟩

end

end Sys2Proof.Machine

open Sys2Proof.Machine in
/-- Settles O46: each request by the lemmas about its cell's list; a write is the written home followed by the wakes of its
list and the reports of its kept records. -/
theorem versionedHomes : Obligations.VersionedHomes := by
  unfold Obligations.VersionedHomes
  refine ⟨?load, ?park, ?write, ?held, ?peekHeld, ?dead, ?peek, ?reset, ?reply⟩
  case load =>
    rintro s r d n rc v ver ho hr hd rfl rfl
    refine ⟨fun hn => State.load_reached ho hr hd hn, fun hn hh hid hl hm i hused hfree => ⟨fun hi hw => ?_, fun hi => ?_⟩⟩
    · exact ⟨_, State.load_parks ho hr hd hn (Core.runs_of hl hh hid) hm, State.parkAt_spec hm hr hn hused hfree hi hw⟩
    · obtain ⟨-, -, -, hs, -, -⟩ := id hm
      rw [State.load_parks ho hr hd hn (Core.runs_of hl hh hid) hm,
        State.parkAt_full (State.useHeld_empty hs) (by rw [hr]; exact hn) hused hfree hi]
  case park =>
    rintro s r n rc ver i ho hr hd rfl hh hid hl hm hused hfree
    have hexec := State.park_runs ho hd (Core.runs_of hl hh hid)
    refine ⟨fun hn site hsite hmode => ⟨_, hexec, State.parkAt_wakes_spec hm hl hr hn hsite hmode⟩, fun hn hsite hk hcap => ?_,
      fun hn hi hw => ?_, fun hn hi => ?_⟩
    · obtain ⟨hend, hmem, hconts, hkept⟩ := State.parkAt_nolive_spec (rc := rc) hm hl hr hn hsite hk hcap
      exact ⟨_, _, hexec, hend, hmem, hconts, noliveRecord_is r.part ⟨rc, n, r.scope, r.enc, 0, true, r.va⟩, hkept⟩
    · obtain ⟨hend, -, hcell, -⟩ := State.parkAt_spec (rc := rc) hm hr hn hused hfree hi hw
      exact ⟨_, hexec, hend, hcell⟩
    · obtain ⟨-, -, -, hs, -, -⟩ := id hm
      rw [hexec, State.parkAt_full (State.useHeld_empty hs) (by rw [hr]; exact hn) hused hfree hi]
  case write =>
    intro s r v n i hop hn hw hd hk
    have hexec := exec_vwWrite hop hd
    refine ⟨fun hc => ?_, fun e c hp hh he hnext hpend => ⟨fun hv => ?_, fun hv site hsite hmode => ?_, fun hv hsite hcap => ?_,
      fun hv hsite u hu => ?_⟩, ?_⟩
    · obtain ⟨hcores, hbmem, hflight, hcell, -⟩ := State.homeWrite_written (va := r.va) (v := v) (n := n) (cell := r.cell) hk hc hw
      exact ⟨_, hexec, hcores, hbmem, hflight, hcell⟩
    · exact ⟨_, hexec, State.homeWrite_waits hk hp hh hnext hv hw⟩
    · exact ⟨_, hexec, State.homeWrite_wakes hk hp hh hnext hv hw hsite hmode⟩
    · exact exec_vwWrite_unset hexec hw hk hp hh hnext hv hsite hcap
    · exact exec_vwWrite_nolive hexec hw hk hp hh hnext hv hsite hu
    · intro e e' c c' x y he he' hp hxy hh hnext hstop hpx hpy sx sy hsx hsy hmx hmy
      exact ⟨_, hexec, State.homeWrite_two hk (.of_pool he hp hxy hnext hstop) hh hsx hsy hmx hmy hw⟩
  case held =>
    intro s r n rc w m ho hr hs hm hcell hva hv hn hm32 hd hkey hw hh hid hl hpart hk hc site hsite hmode
    obtain ⟨hsrc, -, -, -, -, -⟩ := hm
    exact ⟨_, State.park_runs ho hd (Core.runs_of hl hh hid),
      State.parkAt_held_spec hr hs hsrc hcell hva hv hn hd hkey hw hl hpart hk hc hsite hmode⟩
  case peekHeld =>
    intro s r d w m ho hr hv hmore hm hd
    exact ⟨fun hp hmore' => exec_peek ho hd (State.seenCell_held hr hv hm hp hmore'), fun hp => exec_peek ho hd (State.seenCell_past hr hp)⟩
  case dead =>
    intro s r i hd
    refine ⟨fun h hr => ?_, fun h hr => ?_, fun h hr => exec_deadCounts hr ?_⟩
    · rw [exec_deadWrite hd h, State.deadCell_late hr]
    · rw [exec_deadAnswer hd h, State.deadCell_answers hr]
    · obtain h | h | h := h
      · exact ⟨_, exec_deadWrite hd (.inl h)⟩
      · exact ⟨_, exec_deadWrite hd (.inr h)⟩
      · exact ⟨_, exec_deadAnswer hd h⟩
  case peek =>
    intro s r d ho hr hd
    exact exec_peek ho hd (State.seenCell_empty hr)
  case reset =>
    intro s r ho hd
    exact ⟨fun hh => exec_reset_refused ho hd hh, fun hh hw => exec_reset_clears ho hd hh hw⟩
  case reply =>
    intro s c hid p hrun hh hn d v n f
    exact ⟨exec_vwReply hrun hh hn _, exec_vwReply hrun hh hn _, exec_vwReply hrun hh hn _, exec_vwReply hrun hh hn _⟩

end

section
/-! PROOF. O56: MCALL, CLRST and the services that read no memory (R279, R280, R287, R288). -/

namespace Sys2Proof.Machine

/-! ### MCALL -/

theorem serviceStep_of_mem {n : Nat} {i : Instr} (h : (n, i) ∈ services) : serviceStep n = some i := by
  have hall : ∀ x ∈ services, serviceStep x.1 = some x.2 := by simp [services, serviceStep]
  exact hall _ h

section
variable {s : State} {p : Pfx} {a : Fin 16} {n : Nat} {i : Instr}

/-- A call that its caller may make waits for the core's earlier accesses (log 43). -/
theorem exec_mcall_waits (hi : (n, i) ∈ services) (hn : (s.me.getG a).toNat = n) (hmay : s.privileged s.cur = true ∨ n = 0 ∨ n = 10)
    (hpend : s.pendingAccess s.cur false = true) : exec (.mcall p a) s = .next (s.setMe (s.me.tick 1)) := by
  have hpriv : (!anyCaller n && !s.privileged s.cur) = false := by
    obtain h | rfl | rfl := hmay
    · simp [h]
    · rfl
    · rfl
  show execMcall p a s = _
  unfold execMcall
  simp only [hn, serviceStep_of_mem hi, hpriv, hpend, if_true, Bool.false_eq_true, if_false]
  rfl

/-- A call that its caller may make starts its service. -/
theorem exec_mcall_calls (hi : (n, i) ∈ services) (hn : (s.me.getG a).toNat = n) (hmay : s.privileged s.cur = true ∨ n = 0 ∨ n = 10)
    (hpend : s.pendingAccess s.cur false = false) : exec (.mcall p a) s =
      .next ((s.setMe { s.me.tick 1 with run := .waiting (.mcall p n [s.me.getG 8, s.me.getG 9, s.me.getG 10, s.me.getG 11]) }).enqueue
        s.cur i) := by
  have hpriv : (!anyCaller n && !s.privileged s.cur) = false := by
    obtain h | rfl | rfl := hmay
    · simp [h]
    · rfl
    · rfl
  show execMcall p a s = _
  unfold execMcall
  simp only [hn, serviceStep_of_mem hi, hpriv, hpend, Bool.false_eq_true, if_false]
  rfl

end

/-! ### A service without its call (log 29) -/

section
variable {s : State} {n : Nat}

theorem State.serve_other (f : Service) (h : ∀ q, ¬ s.calling q n) : s.serve n f = .next s := by
  unfold State.serve
  split
  · next p m args hrun => exact if_pos fun hm => h p ⟨args, by rw [hrun, hm]⟩
  · rfl

theorem State.serveRead_other (spans : List (Nat × Nat)) (f : Service) (h : ∀ q, ¬ s.calling q n) : s.serveRead n spans f = .next s := by
  unfold State.serveRead
  split
  · next p m args hrun =>
    rw [if_neg fun hm => h p ⟨args, by rw [hrun, of_decide_eq_true (Bool.and_eq_true_iff.1 hm).1]⟩]
    exact State.serve_other f h
  · exact State.serve_other f h

theorem State.countPath_other (h : ∀ q, ¬ s.calling q 12) : s.countPath = s := by
  unfold State.countPath
  dsimp only
  split
  · next p args hrun => exact absurd ⟨args, hrun⟩ (h p)
  · rfl

theorem exec_service_other {i : Instr} (hi : (n, i) ∈ services) (h : ∀ q, ¬ s.calling q n) : exec i s = .next s := by
  simp only [services, List.mem_cons, Prod.mk.injEq, List.not_mem_nil, or_false] at hi
  rcases hi with ⟨rfl, rfl⟩ | ⟨rfl, rfl⟩ | ⟨rfl, rfl⟩ | ⟨rfl, rfl⟩ | ⟨rfl, rfl⟩ | ⟨rfl, rfl⟩ | ⟨rfl, rfl⟩ | ⟨rfl, rfl⟩ |
    ⟨rfl, rfl⟩ | ⟨rfl, rfl⟩ | ⟨rfl, rfl⟩ | ⟨rfl, rfl⟩ | ⟨rfl, rfl⟩
  · show execMver s = _
    exact s.serve_other _ h
  · show execQheld s = _
    exact s.serve_other _ h
  · show execFqset s = _
    exact s.serveRead_other _ _ h
  · show execTqset s = _
    exact s.serveRead_other _ _ h
  · show execMaskset s = _
    exact s.serveRead_other _ _ h
  · show execTreeset s = _
    exact s.serveRead_other _ _ h
  · show execCpool s = _
    exact s.serve_other _ h
  · show execKimport s = _
    exact s.serveRead_other _ _ h
  · show execKrevoke s = _
    exact s.serve_other _ h
  · show execResume s = _
    exact s.serve_other _ h
  · show execKstate s = _
    exact s.serve_other _ h
  · show execTctl s = _
    exact s.serveRead_other _ _ h
  · show execPtmap s = _
    unfold execPtmap
    rw [State.countPath_other h]
    exact s.serve_other _ h

end

/-! ### A service with its call -/

section
variable {s : State} {p : Pfx} {n : Nat} {f : Service}

@[simp] theorem State.inService_me (s : State) : s.inService.me = s.me := by
  unfold State.inService State.me State.core
  rw [State.useKeys_cores, State.useKeys_cur]

theorem State.serve_called (h : s.calling p n) : s.serve n f = (match f s.inService s.me with
    | .error st => .next (s.inService.setMe ((s.me.setG 8 (BitVec.ofNat 64 st)).resume p))
    | .ok (u, v) => .next (u.setMe ((match v with
      | some w => (u.me.setG 8 0).setG 9 w
      | none => u.me.setG 8 0).resume p))) := by
  obtain ⟨args, hrun⟩ := h
  have hme : (s.useKeys s.serviceUids).me = s.me := s.inService_me
  unfold State.serve
  simp only [hrun, ne_eq, not_true_eq_false, if_false, hme] <;> rfl

theorem State.serve_error {st : Nat} (h : s.calling p n) (hf : f s.inService s.me = .error st) :
    s.serve n f = .next (s.inService.setMe ((s.me.setG 8 (BitVec.ofNat 64 st)).resume p)) := by
  rw [State.serve_called h, hf]

theorem State.serve_ok {u : State} (h : s.calling p n) (hf : f s.inService s.me = .ok (u, none)) :
    s.serve n f = .next (u.setMe ((u.me.setG 8 0).resume p)) := by
  rw [State.serve_called h, hf]

theorem State.serve_value {u : State} {w : Word} (h : s.calling p n) (hf : f s.inService s.me = .ok (u, some w)) :
    s.serve n f = .next (u.setMe (((u.me.setG 8 0).setG 9 w).resume p)) := by
  rw [State.serve_called h, hf]

/-- These services use no memory, and so no keys. -/
theorem State.inService_same (h : s.calling p n) (hn : n ∈ [0, 1, 8, 9, 10]) : s.inService = s := by
  obtain ⟨args, hrun⟩ := h
  have huids : s.serviceUids = [] := by
    have hspans : s.serviceSpans = [] := by
      unfold State.serviceSpans
      simp only [hrun]
      simp only [List.mem_cons, List.not_mem_nil, or_false] at hn
      rcases hn with rfl | rfl | rfl | rfl | rfl <;> rfl
    unfold State.serviceUids
    simp only [hrun, hspans]
    split
    · next h12 => cases h12; simp at hn
    · rfl
  unfold State.inService
  rw [huids]
  rfl

end

/-! ### MVER, KSTATE, KREVOKE and RESUME -/

section
variable {s : State} {p : Pfx}

theorem exec_mver (h : s.calling p 0) : exec .mver s =
    .next (s.setMe (((s.me.setG 8 0).setG 9 (BitVec.ofNat 64 (Config.monitorVersion.toNat % 2 ^ 32))).resume p)) := by
  show execMver s = _
  unfold execMver
  rw [State.serve_value h rfl, State.inService_same h (by simp)]

/-- KSTATE's code of a lookup. -/
def stateWord (x : Option (Nat × Key)) : Word := match x with
  | some (_, key) => BitVec.ofNat 64 (keyCode key.st)
  | none => 0

theorem exec_kstate (h : s.calling p 10) : exec .kstate s =
    .next (s.setMe (((s.me.setG 8 0).setG 9 (stateWord (s.tenantKey s.me.part (s.me.arg 0).toNat))).resume p)) := by
  show execKstate s = _
  unfold execKstate
  rw [State.serve_value h rfl, State.inService_same h (by simp)]
  rfl

theorem exec_resume_nocore (h : s.calling p 9) (hc : s.siteOf s.me.part (s.me.arg 0).toNat = none) : s.answers .resume p 1 := by
  show execResume s = _
  unfold execResume
  refine State.serve_error h ?_
  rw [State.inService_same h (by simp)]
  simp only [hc]

section
variable {c : Nat} (hc : s.siteOf s.me.part (s.me.arg 0).toNat = some c)
include hc

theorem exec_resume_busy (h : s.calling p 9) (hq : (s.core c).quiesced = false) : s.answers .resume p 2 := by
  show execResume s = _
  unfold execResume
  refine State.serve_error h ?_
  rw [State.inService_same h (by simp)]
  simp only [hc, hq, Bool.not_false, if_true]

theorem exec_resume_wakes (h : s.calling p 9) (hq : (s.core c).quiesced = true) :
    s.serves .resume p { s.setCore c { s.core c with quiesced := false } with flight := s.wokenFlight c } := by
  show execResume s = _
  unfold execResume
  refine State.serve_ok h ?_
  rw [State.inService_same h (by simp)]
  simp only [hc, hq, Bool.not_true, Bool.false_eq_true, if_false, State.wakeIdle_eq]
  simp only [State.wokenFlight, State.core_setCore]
  rfl

end

theorem exec_krevoke_refused (h : s.calling p 8) (hid : (s.me.arg 0).toNat = 0 ∨ 4096 ≤ (s.me.arg 0).toNat) : s.answers .krevoke p 1 := by
  show execKrevoke s = _
  unfold execKrevoke
  refine State.serve_error h ?_
  rw [State.inService_same h (by simp)]
  exact if_pos (by simpa using hid)

theorem exec_krevoke_nokey (h : s.calling p 8) (h0 : (s.me.arg 0).toNat ≠ 0) (h4 : (s.me.arg 0).toNat < 4096)
    (hk : s.tenantKey s.me.part (s.me.arg 0).toNat = none) : s.answers .krevoke p 4 := by
  have hgood : ¬ (decide ((s.me.arg 0).toNat = 0) || decide (4096 ≤ (s.me.arg 0).toNat)) = true := by simp [h0, h4]
  show execKrevoke s = _
  unfold execKrevoke
  refine State.serve_error h ?_
  rw [State.inService_same h (by simp)]
  simp only [hgood, if_false, hk, Bool.false_eq_true]

section
variable {uid : Nat} {key : Key} (h0 : (s.me.arg 0).toNat ≠ 0) (h4 : (s.me.arg 0).toNat < 4096)
  (hk : s.tenantKey s.me.part (s.me.arg 0).toNat = some (uid, key))
include h0 h4 hk

theorem exec_krevoke_unfit (h : s.calling p 8) (hst : key.st = .provisioned ∨ key.st = .revoked) : s.answers .krevoke p 4 := by
  have hgood : ¬ (decide ((s.me.arg 0).toNat = 0) || decide (4096 ≤ (s.me.arg 0).toNat)) = true := by simp [h0, h4]
  have hfit : ¬ (decide (key.st = .active) || decide (key.st = .retiring)) = true := by rcases hst with h | h <;> simp [h]
  show execKrevoke s = _
  unfold execKrevoke
  refine State.serve_error h ?_
  rw [State.inService_same h (by simp)]
  simp only [hgood, if_false, hk, hfit, Bool.false_eq_true]

end

/-- No core that waits for the key traps when none waits. -/
theorem State.trapStalled_none {uid : Nat} (h : ∀ c, (s.core c).run ≠ .waiting (.key uid)) (cs : List Nat) : s.trapStalled uid cs = s := by
  induction cs with
  | nil => rfl
  | cons c cs ih =>
    rw [State.trapStalled, if_neg (h c)]
    exact ih

/-- Revoking a key for which no core waits. -/
theorem State.revokeKey_unstalled {uid : Nat} {key : Key} (hget : sget? uid s.keys = some key)
    (hrun : ∀ c, (s.core c).run ≠ .waiting (.key uid)) : s.revokeKey uid =
      State.enqueue { s with keys := sset uid { key with st := .revoked } s.keys } 1026 .keyInvalidationComplete := by
  unfold State.revokeKey
  simp only [hget]
  exact congrArg (State.enqueue · 1026 .keyInvalidationComplete) 
    (State.trapStalled_none (s := { s with keys := sset uid { key with st := .revoked } s.keys }) hrun _)

theorem exec_krevoke_revokes {uid : Nat} {key : Key} (h : s.calling p 8) (h0 : (s.me.arg 0).toNat ≠ 0) (h4 : (s.me.arg 0).toNat < 4096)
    (hk : s.tenantKey s.me.part (s.me.arg 0).toNat = some (uid, key)) (hst : key.st = .active ∨ key.st = .retiring)
    (hget : sget? uid s.keys = some key) (hrun : ∀ c, (s.core c).run ≠ .waiting (.key uid)) : s.serves .krevoke p
      (State.enqueue { s with keys := sset uid { key with st := .revoked } s.keys } 1026 .keyInvalidationComplete) := by
  have hgood : ¬ (decide ((s.me.arg 0).toNat = 0) || decide (4096 ≤ (s.me.arg 0).toNat)) = true := by simp [h0, h4]
  have hfit : (decide (key.st = .active) || decide (key.st = .retiring)) = true := by rcases hst with h | h <;> simp [h]
  show execKrevoke s = _
  unfold execKrevoke
  refine State.serve_ok h ?_
  rw [State.inService_same h (by simp)]
  simp only [hgood, if_false, hk, hfit, if_true, Bool.false_eq_true, State.revokeKey_unstalled hget hrun]

end

/-! ### CLRST (R280) -/

/-- The step by which a link's credit returns to a neighbour, when the link holds a value. -/
def creditOf (k : Core) (c i : Nat) : List (Nat × Instr) :=
  if k.link[(Fin.ofNat 4 i : Fin 4)].isSome then
    match neighbour c i with
    | some n => [(n, .linkCreditReturn n (opposite (Fin.ofNat 4 i)))]
    | none => []
  else []

theorem foldl_flight {f : State → Nat → State} {g : Nat → List (Nat × Instr)}
    (hf : ∀ s i, f s i = { s with flight := s.flight ++ g i }) (is : List Nat) (s : State) :
    is.foldl f s = { s with flight := s.flight ++ is.flatMap g } := by
  induction is generalizing s with
  | nil => simp
  | cons i is ih => rw [List.foldl_cons, ih, hf]; simp

theorem State.clearLinks_eq (s : State) (c : Nat) : s.clearLinks c =
    { s.setCore c { s.core c with link := Vector.replicate 4 none } with
      flight := s.flight ++ (List.range 4).flatMap (creditOf (s.core c) c) } := by
  unfold State.clearLinks
  refine foldl_flight (fun s' i => ?_) _ _
  unfold creditOf State.enqueue
  by_cases hl : (s.core c).link[(Fin.ofNat 4 i : Fin 4)].isSome = true
  · cases hn : neighbour c i <;> simp only [if_pos hl, List.append_nil]
  · simp only [if_neg hl, List.append_nil]

theorem mem_creditOf {k : Core} {c : Nat} {x : Nat × Instr} : x ∈ (List.range 4).flatMap (creditOf k c) ↔
    ∃ (d : Fin 4) (n : Nat), k.link[d].isSome = true ∧ neighbour c d.val = some n ∧ x = (n, .linkCreditReturn n (d + 2)) := by
  have hone : ∀ d : Fin 4, x ∈ creditOf k c d.val ↔ ∃ n, k.link[d].isSome = true ∧ neighbour c d.val = some n ∧
      x = (n, .linkCreditReturn n (d + 2)) := fun d => by
    simp only [creditOf, Fin.ofNat_val_eq_self]
    split
    · next hl =>
      split
      · next n hn =>
        refine ⟨fun h => ⟨n, hl, hn, List.mem_singleton.1 h⟩, fun ⟨m, _, hm, hx⟩ => List.mem_singleton.2 ?_⟩
        obtain rfl : n = m := Option.some.inj (hn.symm.trans hm)
        exact hx
      · next hn => simp [hn]
    · next hl => exact ⟨fun h => absurd h List.not_mem_nil, fun ⟨_, hl', _⟩ => absurd hl' hl⟩
  rw [List.mem_flatMap]
  constructor
  · rintro ⟨i, hi, hx⟩
    exact ⟨⟨i, List.mem_range.1 hi⟩, (hone ⟨i, List.mem_range.1 hi⟩).1 hx⟩
  · rintro ⟨d, n, h⟩
    exact ⟨d.val, List.mem_range.2 d.isLt, (hone d).2 ⟨n, h⟩⟩

section
variable {s : State} {p : Pfx}

theorem exec_clrst_waits (hp : s.privileged s.cur = true) (h : s.page1Pending s.cur = true ∨ s.me.bal ≠ none) :
    exec (.clrst p) s = .next (s.setMe (s.me.tick 1)) := by
  have hwait : (s.page1Pending s.cur || s.me.bal.isSome) = true := by simpa [Option.isSome_iff_ne_none] using h
  show execClrst p s = _
  unfold execClrst
  simp only [hp, Bool.not_true, Bool.false_eq_true, if_false, hwait, if_true]
  rfl

/-- The core that CLRST has cleared. -/
def Core.clearedFor (k : Core) (p : Pfx) : Core := Core.advance { k.setCx k.cx.clear with link := Vector.replicate 4 none } p

theorem exec_clrst (hp : s.privileged s.cur = true) (hpend : s.page1Pending s.cur = false) (hbal : s.me.bal = none) :
    exec (.clrst p) s = .next { s.setMe (s.me.clearedFor p) with
      flight := s.flight ++ (List.range 4).flatMap (creditOf s.me s.cur) } := by
  have hcore : (s.setCx s.cx.clear).core s.cur = s.me.setCx s.cx.clear := s.me_setCx _
  have hlink : creditOf ((s.setCx s.cx.clear).core s.cur) s.cur = creditOf s.me s.cur := by rw [hcore]; rfl
  show execClrst p s = _
  unfold execClrst
  simp only [hp, hpend, hbal, Bool.not_true, Bool.false_eq_true, if_false, Option.isSome_none, Bool.or_self, State.clearLinks_eq, hlink]
  rw [hcore]
  unfold State.finish
  simp only [State.setMe, State.setCx, State.setCore, State.me, State.core, sget_sset_same, sset_sset]
  rfl

end

end Sys2Proof.Machine
end

section
/-! PROOF. O56: KIMPORT writes the lines of its plaintext (R289). -/

namespace Sys2Proof.Machine

/-! ### Using keys changes no translation (R290) -/

theorem bareKeys_sset {u : Nat} {k k' : Key} {keys : SMap Key} (h : sget? u keys = some k) (hb : k'.bare = k.bare) :
    bareKeys (sset u k' keys) = bareKeys keys := by
  induction keys with
  | nil => cases h
  | cons x xs ih =>
    obtain ⟨j, y⟩ := x
    unfold sset
    by_cases hj : j = u
    · obtain rfl : y = k := by simpa [sget?, hj] using h
      rw [if_pos hj]
      simp [bareKeys, hb, hj]
    · have hxs : sget? u xs = some k := by simpa [sget?, hj] using h
      rw [if_neg hj]
      simpa [bareKeys] using ih hxs

theorem sget?_of_bareKeys {u : Nat} {k : Key} {keys keys' : SMap Key} (h : bareKeys keys' = bareKeys keys) (hk : sget? u keys = some k) :
    ∃ k', sget? u keys' = some k' ∧ k.bare = k'.bare := by
  have hg := congrArg (sget? u) h
  rw [sget?_bareKeys, sget?_bareKeys, hk] at hg
  obtain ⟨k', hk', hb⟩ := Option.map_eq_some_iff.1 hg
  exact ⟨k', hk', hb.symm⟩

theorem bareKeys_touchKeys (us : List Nat) (keys : SMap Key) : bareKeys (touchKeys keys us) = bareKeys keys := by
  induction us generalizing keys with
  | nil => rfl
  | cons u us ih =>
    unfold touchKeys
    dsimp only
    split
    · next k hk => exact (ih _).trans (bareKeys_sset hk rfl)
    · exact ih keys

theorem bareKeys_residentKey {u : Nat} {k k' : Key} {keys : SMap Key} (h : sget? u keys = some k') (hb : k.bare = k'.bare) :
    bareKeys (residentKey keys u k) = bareKeys keys :=
  (bareKeys_touchKeys _ _).trans (bareKeys_sset (k' := { k with resident := true }) h (Eq.trans rfl hb))

/-- Making room for a key evicts another. -/
theorem State.keyRoom_bareKeys {s t : State} (h : s.keyRoom = some t) : bareKeys t.keys = bareKeys s.keys := by
  unfold State.keyRoom at h
  split at h
  · cases h; rfl
  · split at h
    · cases h
    · split at h
      · next k hk => cases h; exact bareKeys_sset hk rfl
      · cases h

theorem State.useKey_bareKeys (s : State) (uid : Nat) : bareKeys (s.useKey uid).keys = bareKeys s.keys := by
  unfold State.useKey
  split
  · rfl
  · next k hk =>
    split
    · exact bareKeys_touchKeys _ _
    · have hroom : bareKeys ((s.lifeAdd 2085 0 1).keyRoom.getD (s.lifeAdd 2085 0 1)).keys = bareKeys s.keys := by
        cases hr : (s.lifeAdd 2085 0 1).keyRoom with
        | none => rfl
        | some t => exact (State.keyRoom_bareKeys hr).trans rfl
      obtain ⟨k', hk', hb⟩ := sget?_of_bareKeys hroom hk
      exact (bareKeys_residentKey hk' hb).trans hroom

theorem State.useEach_bareKeys (us : List Nat) (s : State) : bareKeys (s.useEach us).keys = bareKeys s.keys := by
  induction us generalizing s with
  | nil => rfl
  | cons u us ih => exact (ih _).trans (s.useKey_bareKeys u)

/-- The device translates in a service as before it. -/
theorem State.inService_alike (s : State) : s.inService.Alike s := by
  have hkeys : bareKeys s.inService.keys = bareKeys s.keys := (State.useEach_bareKeys _ _).trans (bareKeys_touchKeys _ _)
  obtain ⟨keys, life, h⟩ := s.useKeys_eq s.serviceUids
  have hs : s.inService = { s with keys := keys, zen := { s.zen with life := life } } := h
  exact ⟨by rw [hs], by rw [hs], hkeys, fun q => by rw [hs]; rfl, fun q => by rw [hs]; rfl⟩

namespace State.Alike
variable {t s : State}

theorem pageUnder (h : t.Alike s) (p va kid : Nat) (want : Want) : t.pageUnder p va kid want = s.pageUnder p va kid want := by
  simp only [State.pageUnder, h.translate]

theorem regionUnder (h : t.Alike s) (p va len kid : Nat) (want : Want) : t.regionUnder p va len kid want = s.regionUnder p va len kid want := by
  simp only [State.regionUnder, h.pageUnder]

theorem readVa (h : t.Alike s) (p n va : Nat) : t.readVa p va n = s.readVa p va n := by
  induction n generalizing va with
  | zero => rfl
  | succ n ih => simp only [State.readVa, h.physOf, h.macOk, h.uidAt, h.mem, ih]

theorem tenantKey (h : t.Alike s) (p ident : Nat) :
    (t.tenantKey p ident).map (fun x => (x.1, x.2.bare)) = (s.tenantKey p ident).map (fun x => (x.1, x.2.bare)) := by
  have hf := congrArg (List.find? (fun x => ident != 0 && x.2.ident == ident && x.2.part == p && x.2.st != .empty)) h.keys
  rwa [find?_bareKeys _ (fun _ k => ident != 0 && k.ident == ident && k.part == p && k.st != .empty) (fun _ _ => rfl),
    find?_bareKeys _ (fun _ k => ident != 0 && k.ident == ident && k.part == p && k.st != .empty) (fun _ _ => rfl)] at hf

theorem tenantKey_none (h : t.Alike s) {p ident : Nat} (hk : s.tenantKey p ident = none) : t.tenantKey p ident = none := by
  have := h.tenantKey p ident
  rw [hk] at this
  simpa using this

theorem tenantKey_some (h : t.Alike s) {p ident uid : Nat} {key : Key} (hk : s.tenantKey p ident = some (uid, key)) :
    ∃ key', t.tenantKey p ident = some (uid, key') ∧ key'.st = key.st ∧ key'.secret = key.secret := by
  have := h.tenantKey p ident
  rw [hk] at this
  obtain ⟨x, hx, hb⟩ := Option.map_eq_some_iff.1 this
  obtain ⟨h1, h2⟩ := Prod.mk.inj hb
  exact ⟨x.2, hx.trans (congrArg some (Prod.ext h1 rfl)), (congrArg Key.st h2).trans rfl, (congrArg Key.secret h2).trans rfl⟩

end State.Alike

/-! ### A line is written whole -/

/-- A leaf's key lies in its line as the address does. -/
theorem State.walk_line {s : State} {uid lvl tbl va : Nat} {l : Leaf} (h : s.walk uid lvl tbl va = .ok l) (hva : va % 64 = 0) :
    l.key % 64 = 0 := by
  induction lvl generalizing tbl with
  | zero => cases h
  | succ lvl ih =>
    unfold State.walk at h
    dsimp only at h
    generalize (if lvl = 3 then va / 2 ^ 39 % 2 ^ 17 else va / 2 ^ (12 + 9 * lvl) % 512) = idx at h
    split at h
    · cases h
    · split at h
      · cases h
      · split at h
        · split at h
          · cases h
          · cases h
            have hsize : 64 ∣ 2 ^ (12 + 9 * lvl) := Nat.pow_dvd_pow 2 (show 6 ≤ 12 + 9 * lvl by omega)
            refine Nat.mod_eq_zero_of_dvd (Nat.dvd_add (Nat.dvd_add (Dvd.dvd.mul_left (by norm_num) _) (Dvd.dvd.mul_left hsize _)) ?_)
            exact (Nat.dvd_mod_iff hsize).2 (Nat.dvd_of_mod_eq_zero hva)
        · split at h
          · cases h
          · exact ih h

theorem State.pageUnder_line {s : State} {p va kid cell uid : Nat} {want : Want} (h : s.pageUnder p va kid want = some (cell, uid))
    (hva : va % 64 = 0) : cell % 64 = 0 := by
  have hwalk : ∀ l, s.walkAt p va = .ok l → l.key % 64 = 0 := fun l hl => by
    unfold State.walkAt at hl
    split at hl
    · cases hl
    · exact State.walk_line hl hva
  unfold State.pageUnder State.translate at h
  split at h
  · next l u ht =>
    split at h
    · cases h
      split at ht
      · cases ht
      · next l' hl' =>
        split at ht
        · cases ht
        · split at ht
          · cases ht
          · cases ht; exact hwalk _ hl'
    · cases h
  · cases h

theorem cellsAt_mem (a : Nat) (bs : List Byte) {j : Nat} (hj : j < bs.length) : ∃ b, (a + j, b) ∈ cellsAt a bs := by
  induction bs generalizing a j with
  | nil => simp at hj
  | cons b bs ih =>
    cases j with
    | zero => exact ⟨b, List.mem_cons_self⟩
    | succ j =>
      obtain ⟨b', hb'⟩ := ih (a + 1) (Nat.lt_of_succ_lt_succ hj)
      exact ⟨b', List.mem_cons_of_mem _ (by rwa [show a + (j + 1) = a + 1 + j by omega])⟩

/-- The seals of a line that is written at every cell. -/
theorem sget_foldl_line {line : Nat} {g : Nat → Seal} (cells : List (Nat × Byte)) (hline : ∀ c ∈ cells, c.1 / 64 = line) (m : SMap Seal)
    (k : Nat) : sget Seal.fresh k (cells.foldl (fun m c => sset (c.1 / 64) (g (c.1 / 64)) m) m) =
      if k = line ∧ cells ≠ [] then g line else sget Seal.fresh k m := by
  induction cells generalizing m with
  | nil => simp
  | cons c cells ih =>
    have hc := hline c List.mem_cons_self
    rw [List.foldl_cons, ih (fun x hx => hline x (List.mem_cons_of_mem _ hx)), hc]
    by_cases hk : k = line
    · subst hk
      simp [sget_sset_same]
    · simp [hk, sget_sset_other _ _ _ _ _ hk]

/-- A whole line is sealed under its key, whatever it was before. -/
theorem State.sealOf_storeLine {s : State} {cell uid : Nat} {bs : List Byte} (hcell : cell % 64 = 0) (hbs : bs.length = 64) (x : Nat) :
    (s.storeCells (cellsAt cell bs) uid).sealOf x = if x / 64 = cell / 64 then .key uid else s.sealOf x := by
  have hline : ∀ c ∈ cellsAt cell bs, c.1 / 64 = cell / 64 := fun c hc => by
    have := mem_cellsAt hc
    omega
  have hne : cellsAt cell bs ≠ [] := by
    obtain ⟨b, hb⟩ := cellsAt_mem cell bs (j := 0) (by omega)
    exact List.ne_nil_of_mem hb
  have hafter : s.sealAfter (cellsAt cell bs) uid (cell / 64) = .key uid := by
    refine if_neg fun h => ?_
    have hall : (List.range 64).all (fun j => (cellsAt cell bs).any (fun c => c.1 == cell / 64 * 64 + j)) = true := by
      refine List.all_eq_true.2 fun j hj => List.any_eq_true.2 ?_
      obtain ⟨b, hb⟩ := cellsAt_mem cell bs (j := j) (by rw [hbs]; exact List.mem_range.1 hj)
      exact ⟨_, hb, beq_iff_eq.2 (by omega)⟩
    simp [hall] at h
  have hseals := sget_foldl_line (g := s.sealAfter (cellsAt cell bs) uid) _ hline s.seals (x / 64)
  simp only [hne, ne_eq, not_false_eq_true, and_true, hafter] at hseals
  exact hseals

/-! ### The lines of the plaintext -/

/-- One line is written where its page carries the identifier. -/
def State.lineWrite (s : State) (p va kid : Nat) (bs : List Byte) : State := match s.pageUnder p va kid .write with
  | some (key, uid) => s.storeCells (cellsAt key (bs.take 64)) uid
  | none => s

theorem State.writeLines_succ (s : State) (p va kid : Nat) (bs : List Byte) (n : Nat) : s.writeLines p va kid bs (n + 1) =
    (s.lineWrite p va kid bs).writeLines p (va + 64) kid (bs.drop 64) n := rfl

theorem State.lineWrite_eq (s : State) (p va kid : Nat) (bs : List Byte) : s.lineWrite p va kid bs =
    { s with mem := (s.lineWrite p va kid bs).mem, seals := (s.lineWrite p va kid bs).seals } := by
  unfold State.lineWrite
  split <;> rfl

theorem State.lineWrite_wf {s : State} (h : s.memWf) (p va kid : Nat) (bs : List Byte) : (s.lineWrite p va kid bs).memWf := by
  unfold State.lineWrite
  split
  · exact State.storeCells_wf _ _ h
  · exact h

theorem State.writeLines_keeps (p kid n : Nat) (s : State) (va : Nat) (bs : List Byte) :
    (s.writeLines p va kid bs n).cores = s.cores ∧ (s.writeLines p va kid bs n).bmem = s.bmem := by
  induction n generalizing s va bs with
  | zero => exact ⟨rfl, rfl⟩
  | succ n ih =>
    obtain ⟨hcores, hbmem⟩ := ih (s.lineWrite p va kid bs) (va + 64) (bs.drop 64)
    rw [State.writeLines_succ, hcores, hbmem, State.lineWrite_eq]
    exact ⟨rfl, rfl⟩

/-- Every line of the plaintext is written and sealed. -/
theorem State.writeLines_importedTo {p kid : Nat} (n : Nat) {s : State} (hw : s.memWf) {va : Nat} (hva : va % 64 = 0) {bs : List Byte}
    (hbs : 64 * n ≤ bs.length) : (s.writeLines p va kid bs n).importedTo p kid s va bs n := by
  induction n generalizing s va bs with
  | zero => exact ⟨rfl, rfl, rfl⟩
  | succ n ih =>
    have hlen : (bs.take 64).length = 64 := by rw [List.length_take]; omega
    refine ⟨s.lineWrite p va kid bs, s.lineWrite_eq p va kid bs, fun cell uid hpage => ?_, ?_⟩
    · have hcell := State.pageUnder_line hpage hva
      have hline : s.lineWrite p va kid bs = s.storeCells (cellsAt cell (bs.take 64)) uid := by
        unfold State.lineWrite
        rw [hpage]
      rw [hline]
      refine ⟨fun x => ?_, fun x => State.sealOf_storeLine hcell hlen x⟩
      refine (memRead_cellsAt cell (bs.take 64) hw.1 x).trans ?_
      rw [hlen]
      split
      · next hx => simp only [List.getD_eq_getElem?_getD, List.getElem?_take]; rw [if_pos (by omega)]
      · rfl
    · rw [State.writeLines_succ]
      exact ih (State.lineWrite_wf hw p va kid bs) (by omega) (by rw [List.length_drop]; omega)

end Sys2Proof.Machine
end

section
/-! PROOF. O56: KIMPORT and QHELD (R130, R279, R289). -/

namespace Sys2Proof.Machine

/-! ### KIMPORT -/

theorem State.serveRead_intact {s : State} {n : Nat} {spans : List (Nat × Nat)} (f : Service)
    (h : ∀ x ∈ spans, s.macFails s.me.part x.1 x.2 = false) : s.serveRead n spans f = s.serve n f := by
  have hany : spans.any (fun x => s.macFails s.me.part x.1 x.2) = false := by simpa using h
  unfold State.serveRead
  simp only [hany, Bool.and_false, Bool.false_eq_true, if_false]
  split <;> rfl

/-- KIMPORT's operands that it takes. -/
structure State.Imports (s : State) : Prop where
  ident : (s.me.arg 3).toNat ≠ 0
  ident_lt : (s.me.arg 3).toNat < 4096
  lines : (s.me.arg 2).toNat % 64 = 0
  positive : (s.me.arg 2).toNat ≠ 0
  most : (s.me.arg 2).toNat ≤ 2 ^ 20
  aligned : (s.me.arg 1).toNat % 64 = 0

section
variable {s : State} {p : Pfx} (h : s.calling p 7) (hmac : s.macFails s.me.part (s.me.arg 0).toNat ((s.me.arg 2).toNat % 2 ^ 21 + 32) = false)

theorem State.Imports.good (hi : s.Imports) : ¬ (decide ((s.me.arg 3).toNat = 0) || decide (4096 ≤ (s.me.arg 3).toNat) ||
    decide ((s.me.arg 2).toNat % 64 ≠ 0) || decide ((s.me.arg 2).toNat = 0) || decide (2 ^ 20 < (s.me.arg 2).toNat) ||
    decide ((s.me.arg 1).toNat % 64 ≠ 0)) = true := by
  obtain ⟨h0, h4, h64, hn, hmost, ha⟩ := hi
  simp only [Bool.or_eq_true, decide_eq_true_eq]
  omega

include h hmac

theorem exec_kimport_refused (hbad : (s.me.arg 3).toNat = 0 ∨ 4096 ≤ (s.me.arg 3).toNat ∨ (s.me.arg 2).toNat % 64 ≠ 0 ∨
    (s.me.arg 2).toNat = 0 ∨ 2 ^ 20 < (s.me.arg 2).toNat ∨ (s.me.arg 1).toNat % 64 ≠ 0) : s.answers .kimport p 1 := by
  show execKimport s = _
  unfold execKimport
  rw [State.serveRead_intact _ (by simpa using hmac)]
  refine State.serve_error h (if_pos ?_)
  simp only [Bool.or_eq_true, decide_eq_true_eq]
  tauto

theorem exec_kimport_nokey (hi : s.Imports) (hk : s.tenantKey s.me.part (s.me.arg 3).toNat = none) : s.answers .kimport p 4 := by
  show execKimport s = _
  unfold execKimport
  rw [State.serveRead_intact _ (by simpa using hmac)]
  refine State.serve_error h ((if_neg hi.good).trans ?_)
  simp only [s.inService_alike.tenantKey_none hk]

section
variable {uid : Nat} {key : Key} (hi : s.Imports) (hk : s.tenantKey s.me.part (s.me.arg 3).toNat = some (uid, key))
include hi hk

theorem exec_kimport_inactive (hst : key.st ≠ .active) : s.answers .kimport p 4 := by
  obtain ⟨key', hk', hst', -⟩ := s.inService_alike.tenantKey_some hk
  show execKimport s = _
  unfold execKimport
  rw [State.serveRead_intact _ (by simpa using hmac)]
  refine State.serve_error h ((if_neg hi.good).trans ?_)
  simp only [hk', ne_eq, hst', hst, not_false_eq_true, if_true]

theorem exec_kimport_region (hst : key.st = .active) (hbad : s.regionUnder s.me.part (s.me.arg 0).toNat ((s.me.arg 2).toNat + 32) 0 .read = false ∨
    s.regionUnder s.me.part (s.me.arg 1).toNat (s.me.arg 2).toNat (s.me.arg 3).toNat .write = false) : s.answers .kimport p 1 := by
  obtain ⟨key', hk', hst', -⟩ := s.inService_alike.tenantKey_some hk
  have hregion : (!s.regionUnder s.me.part (s.me.arg 0).toNat ((s.me.arg 2).toNat + 32) 0 .read ||
      !s.regionUnder s.me.part (s.me.arg 1).toNat (s.me.arg 2).toNat (s.me.arg 3).toNat .write) = true := by
    rcases hbad with hb | hb <;> simp [hb]
  show execKimport s = _
  unfold execKimport
  rw [State.serveRead_intact _ (by simpa using hmac)]
  refine State.serve_error h ((if_neg hi.good).trans ?_)
  simp only [hk', ne_eq, hst', hst, not_true_eq_false, if_false, s.inService_alike.regionUnder, hregion, if_true]

section
variable (hst : key.st = .active) (hr : s.regionUnder s.me.part (s.me.arg 0).toNat ((s.me.arg 2).toNat + 32) 0 .read = true)
  (hw : s.regionUnder s.me.part (s.me.arg 1).toNat (s.me.arg 2).toNat (s.me.arg 3).toNat .write = true) {env : List Byte}
  (henv : s.readVa s.me.part (s.me.arg 0).toNat ((s.me.arg 2).toNat + 32) = some env)
include hst hr hw henv

theorem exec_kimport_forged (hv : Config.gcmVerifies (importKey key.secret) env = false) : s.answers .kimport p 3 := by
  obtain ⟨key', hk', hst', hsecret⟩ := s.inService_alike.tenantKey_some hk
  have hopen : openEnvelope key.secret env (s.me.arg 2).toNat = none := by
    unfold openEnvelope
    exact if_neg (Bool.eq_false_iff.1 hv)
  show execKimport s = _
  unfold execKimport
  rw [State.serveRead_intact _ (by simpa using hmac)]
  refine State.serve_error h ((if_neg hi.good).trans ?_)
  simp only [hk', ne_eq, hst', hst, not_true_eq_false, if_false, s.inService_alike.regionUnder, s.inService_alike.readVa, hr, hw,
    Bool.not_true, Bool.or_self, Bool.false_eq_true, henv, hsecret, hopen]

theorem exec_kimport_writes (hv : Config.gcmVerifies (importKey key.secret) env = true) : s.serves .kimport p
    (s.inService.writeLines s.me.part (s.me.arg 1).toNat (s.me.arg 3).toNat
      ((List.range (s.me.arg 2).toNat).map (Config.gcmByte (importKey key.secret) env)) ((s.me.arg 2).toNat / 64)) := by
  obtain ⟨key', hk', hst', hsecret⟩ := s.inService_alike.tenantKey_some hk
  have hopen : openEnvelope key.secret env (s.me.arg 2).toNat =
      some ((List.range (s.me.arg 2).toNat).map (Config.gcmByte (importKey key.secret) env)) := by
    unfold openEnvelope
    exact if_pos hv
  show execKimport s = _
  unfold execKimport
  rw [State.serveRead_intact _ (by simpa using hmac)]
  refine State.serve_ok h ((if_neg hi.good).trans ?_)
  simp only [hk', ne_eq, hst', hst, not_true_eq_false, if_false, s.inService_alike.regionUnder, s.inService_alike.readVa, hr, hw,
    Bool.not_true, Bool.or_self, Bool.false_eq_true, henv, hsecret, hopen]

/-- What KIMPORT writes. -/
theorem exec_kimport_spec (hv : Config.gcmVerifies (importKey key.secret) env = true) : ∃ (u : State) (bs : List Byte), s.serves .kimport p u ∧
    u.cores = s.cores ∧ u.bmem = s.bmem ∧ bs.length = (s.me.arg 2).toNat ∧
    (∀ j, j < (s.me.arg 2).toNat → bs.getD j 0 = Config.gcmByte (importKey key.secret) env j) ∧
    (s.memWf → u.importedTo s.me.part (s.me.arg 3).toNat s.inService (s.me.arg 1).toNat bs ((s.me.arg 2).toNat / 64)) := by
  obtain ⟨hcores, hbmem⟩ := State.writeLines_keeps s.me.part (s.me.arg 3).toNat ((s.me.arg 2).toNat / 64) s.inService (s.me.arg 1).toNat
    ((List.range (s.me.arg 2).toNat).map (Config.gcmByte (importKey key.secret) env))
  refine ⟨_, (List.range (s.me.arg 2).toNat).map (Config.gcmByte (importKey key.secret) env),
    exec_kimport_writes h hmac hi hk hst hr hw henv hv, hcores.trans (s.useKeys_cores _), hbmem.trans (s.useKeys_bmem _),
    by simp, fun j hj => by simp [hj], fun hwf => ?_⟩
  refine State.writeLines_importedTo _ (State.memWf_of_eq hwf (s.useKeys_mem _) (s.useKeys_bmem _)) hi.aligned ?_
  rw [List.length_map, List.length_range]
  omega

end
end
end

/-! ### QHELD (R130) -/

/-- QHELD's operands that it refuses. -/
def State.heldBad (s : State) (c : Nat) : Prop := bitsOf (s.me.arg 1) 63 7 ≠ 0 ∨ bitOf (s.me.arg 1) 2 = true ∨
  (s.core c).encs ≤ bitsOf (s.me.arg 1) 6 4 ∨ 1 < (s.me.arg 2).toNat ∨ (bitOf (s.me.arg 1) 3 = true ∧ bitsOf (s.me.arg 1) 1 0 ≠ 0)

theorem State.heldBad_eq_false {s : State} {c : Nat} (hgood : ¬ s.heldBad c) : ¬ (decide (bitsOf (s.me.arg 1) 63 7 ≠ 0) ||
    bitOf (s.me.arg 1) 2 || decide ((s.core c).encs ≤ bitsOf (s.me.arg 1) 6 4) || decide (1 < (s.me.arg 2).toNat) ||
    (bitOf (s.me.arg 1) 3 && decide (bitsOf (s.me.arg 1) 1 0 ≠ 0))) = true := by
  simp only [Bool.or_eq_true, Bool.and_eq_true, decide_eq_true_eq]
  unfold State.heldBad at hgood
  tauto

/-- What QHELD does with a held entry, by the choice of queue or deque. -/
def State.heldEntry (s : State) (c : Nat) : Option State :=
  if bitOf (s.me.arg 1) 3 then s.heldDeque c (bitsOf (s.me.arg 1) 6 4) (s.me.arg 2 == 1)
  else s.heldHead c (bitsOf (s.me.arg 1) 6 4) (Fin.ofNat 4 (bitsOf (s.me.arg 1) 1 0)) (s.me.arg 2 == 1)

section
variable {s : State} {p : Pfx} (h : s.calling p 1)
include h

theorem exec_qheld_nocore (hc : s.siteOf s.me.part (s.me.arg 0).toNat = none) : s.answers .qheld p 1 := by
  show execQheld s = _
  unfold execQheld
  refine State.serve_error h ?_
  rw [State.inService_same h (by simp)]
  simp only [hc]

variable {c : Nat} (hc : s.siteOf s.me.part (s.me.arg 0).toNat = some c)
include hc

theorem exec_qheld_refused (hbad : s.heldBad c) : s.answers .qheld p 1 := by
  show execQheld s = _
  unfold execQheld
  refine State.serve_error h ?_
  rw [State.inService_same h (by simp)]
  simp only [hc]
  refine if_pos ?_
  simp only [Bool.or_eq_true, Bool.and_eq_true, decide_eq_true_eq]
  unfold State.heldBad at hbad
  tauto

variable (hgood : ¬ s.heldBad c)
include hgood

theorem exec_qheld_none (hnone : s.heldEntry c = none) : s.answers .qheld p 2 := by
  show execQheld s = _
  unfold execQheld
  refine State.serve_error h ?_
  rw [State.inService_same h (by simp)]
  simp only [hc]
  refine (if_neg (State.heldBad_eq_false hgood)).trans ?_
  rw [show (if bitOf (s.me.arg 1) 3 = true then _ else _) = s.heldEntry c from rfl, hnone]

theorem exec_qheld_some {u : State} (hu : s.heldEntry c = some u) : s.serves .qheld p (u.wakeIdle c) := by
  show execQheld s = _
  unfold execQheld
  refine State.serve_ok h ?_
  rw [State.inService_same h (by simp)]
  simp only [hc]
  refine (if_neg (State.heldBad_eq_false hgood)).trans ?_
  rw [show (if bitOf (s.me.arg 1) 3 = true then _ else _) = s.heldEntry c from rfl, hu]

/-- What a device shows of the core whose entry QHELD took. -/
theorem exec_qheld_done {u : State} (hu : s.heldEntry c = some u) : ∃ t, exec .qheld s = .next t ∧ t.me.getG 8 = 0 ∧
    (t.core c).ctx = (u.core c).ctx := by
  refine ⟨_, exec_qheld_some h hc hgood hu, ?_, ?_⟩
  · rw [State.me_setMe]
    exact Core.getG_setG _ 8 0
  · have hwake : (u.wakeIdle c).core c = u.core c := by rw [State.wakeIdle_eq]; rfl
    by_cases hme : c = (u.wakeIdle c).cur
    · have hcore : (u.wakeIdle c).me = u.core c := by rw [State.me, ← hme, hwake]
      rw [State.setMe, ← hme, State.core_setCore, hcore]
      rfl
    · rw [State.setMe, State.core_setCore_other _ _ _ _ hme, hwake]

end

/-! ### The deque's newest held entry -/

section
variable {s : State} {c enc : Nat}

@[simp] theorem State.cxOf_setCxAt (x : Ctx) : ((s.setCxAt c enc x).core c).cxOf enc = x := by
  rw [State.setCxAt, State.core_setCore, Core.cxOf_setCxOf]

theorem State.heldDeque_none (h : ∀ e ∈ ((s.core c).cxOf enc).allDeque, bitOf e.record 44 = false) (discard : Bool) :
    s.heldDeque c enc discard = none := by
  have hfind : ((s.core c).cxOf enc).allDeque.reverse.find? (fun e => hHeld e.record) = none :=
    List.find?_eq_none.2 fun e he => by simpa [hHeld] using h e (List.mem_reverse.1 he)
  unfold State.heldDeque
  simp only [hfind]

section
variable {l1 l2 : List Entry} {e : Entry} (hd : ((s.core c).cxOf enc).dspill ++ ((s.core c).cxOf enc).deque = l1 ++ e :: l2)
  (he : bitOf e.record 44 = true) (hl2 : ∀ y ∈ l2, bitOf y.record 44 = false)
include hd he hl2

theorem State.heldDeque_some (discard : Bool) : s.heldDeque c enc discard = some (s.setCxAt c enc
    (if discard then ((s.core c).cxOf enc).dropDeque e.arr
    else (((s.core c).cxOf enc).dropDeque e.arr).pushDeque { e with record := setHeld e.record false })) := by
  have hfind : ((s.core c).cxOf enc).allDeque.reverse.find? (fun e => hHeld e.record) = some e := by
    refine find?_of_split (before := l2.reverse) (after := l1.reverse) ?_ he fun y hy => hl2 y (List.mem_reverse.1 hy)
    rw [show ((s.core c).cxOf enc).allDeque = l1 ++ e :: l2 from hd]
    simp
  unfold State.heldDeque
  simp only [hfind]

end

end

theorem Entry.releasedFrom_setHeld (e : Entry) : Entry.releasedFrom { e with record := setHeld e.record false } e :=
  ⟨setHeld_held e.record false, rfl, rfl, fun j hj => setHeld_bit e.record false j hj⟩

/-! ### A queue's held head -/

section
variable {s : State} {c enc : Nat} {q : Fin 4}

theorem State.heldHead_empty (h : (((s.core c).cxOf enc).q[q]).res = []) (discard : Bool) : s.heldHead c enc q discard = none := by
  unfold State.heldHead
  simp only [h]

variable {e : Entry} {es : List Entry} (hres : (((s.core c).cxOf enc).q[q]).res = e :: es)
include hres

theorem State.heldHead_unheld (he : bitOf e.record 44 = false) (discard : Bool) : s.heldHead c enc q discard = none := by
  unfold State.heldHead
  simp only [hres, hHeld, he, Bool.not_false, if_true]

theorem State.heldHead_discards (he : bitOf e.record 44 = true) : s.heldHead c enc q true = some (s.popQueue c enc q) := by
  unfold State.heldHead
  simp only [hres, hHeld, he, Bool.not_true, Bool.false_eq_true, if_false, if_true]

/-- A released head stays at the head of a FIFO queue, and takes the place of its rank in a ranked one. -/
theorem State.heldHead_releases (he : bitOf e.record 44 = true) : ∃ u : State, s.heldHead c enc q false = some u ∧
    (((u.core c).cxOf enc).q[q]).res = ((((s.core c).cxOf enc).q[q]).setRes
      (if bitsOf (((s.core c).cxOf enc).q[q]).cfg 1 0 = 0 then { e with record := setHeld e.record false } :: es
      else rankInsert { e with record := setHeld e.record false } es) (s.core c).cyc).res := by
  unfold State.heldHead
  simp only [hres, hHeld, he, Bool.not_true, Bool.false_eq_true, if_false]
  refine ⟨_, rfl, ?_⟩
  rw [State.cxOf_setCxAt]
  exact (congrArg Queue.res (Vector.getElem_set_self q.isLt)).trans rfl

/-- A discarded head leaves its queue. -/
theorem State.popQueue_records (hspill : (((s.core c).cxOf enc).q[q]).spill = []) (hk : (s.core c).keptEntries = []) :
    (((s.popQueue c enc q).core c).cxOf enc).q[q].res.map (·.record) = es.map (·.record) := by
  rw [State.popQueue_eq enc q hk, State.core_creditBack, State.core_setCore, Core.cxOf_setCxOf]
  refine Eq.trans ?_ (Queue.pop_records (s.core c).cyc hres hspill)
  exact congrArg (fun x : Queue => x.res.map (·.record)) (Vector.getElem_set_self q.isLt)

end

end Sys2Proof.Machine
end

section
/-! PROOF. O56, its clauses in the order of the statement. -/

namespace Sys2Proof.Machine

theorem State.not_heldBad {s : State} {c : Nat} (h63 : bitsOf (s.me.arg 1) 63 7 = 0) (h2 : bitOf (s.me.arg 1) 2 = false)
    (hlt : bitsOf (s.me.arg 1) 6 4 < (s.core c).encs) (hle : (s.me.arg 2).toNat ≤ 1)
    (h : bitsOf (s.me.arg 1) 1 0 = 0 ∨ bitOf (s.me.arg 1) 3 = false) : ¬ s.heldBad c := by
  rintro (hbad | hbad | hbad | hbad | ⟨h3, h10⟩)
  · exact hbad h63
  · exact absurd hbad (by simp [h2])
  · omega
  · omega
  · exact h.elim h10 fun h3' => absurd h3 (by simp [h3'])

section
variable {s : State} {p : Pfx} (h : s.calling p 1) {c : Nat} (hc : s.siteOf s.me.part (s.me.arg 0).toNat = some c) {enc : Nat}
  (henc : enc = bitsOf (s.me.arg 1) 6 4) (hgood : ¬ s.heldBad c)
include h hc henc hgood

/-- QHELD on a deque without a held entry. -/
theorem exec_qheld_deque_none (h3 : bitOf (s.me.arg 1) 3 = true) (hd : ∀ e ∈ ((s.core c).cxOf enc).allDeque, bitOf e.record 44 = false) :
    s.answers .qheld p 2 := by
  refine exec_qheld_none h hc hgood ?_
  rw [State.heldEntry, if_pos h3, ← henc]
  exact State.heldDeque_none hd _

section
variable (h3 : bitOf (s.me.arg 1) 3 = true) {l1 l2 : List Entry} {e : Entry}
  (hd : ((s.core c).cxOf enc).dspill ++ ((s.core c).cxOf enc).deque = l1 ++ e :: l2) (he : bitOf e.record 44 = true)
  (hl2 : ∀ y ∈ l2, bitOf y.record 44 = false) (hnodup : ((l1 ++ e :: l2).map (·.arr)).Nodup)
include h3 hd he hl2 hnodup

/-- QHELD releases the newest held deque entry, which becomes the newest. -/
theorem exec_qheld_deque_releases (h0 : s.me.arg 2 = 0) : ∃ t e', exec .qheld s = .next t ∧ t.me.getG 8 = 0 ∧ Entry.releasedFrom e' e ∧
    ((t.core c).cxOf enc).dspill ++ ((t.core c).cxOf enc).deque = l1 ++ l2 ++ [e'] := by
  have hentry : s.heldEntry c = some (s.setCxAt c enc
      ((((s.core c).cxOf enc).dropDeque e.arr).pushDeque { e with record := setHeld e.record false })) := by
    rw [State.heldEntry, if_pos h3, ← henc, State.heldDeque_some hd he hl2, h0]
    rfl
  obtain ⟨t, ht, hg, hctx⟩ := exec_qheld_done h hc hgood hentry
  refine ⟨t, _, ht, hg, Entry.releasedFrom_setHeld e, ?_⟩
  rw [Core.cxOf, hctx, ← Core.cxOf, State.cxOf_setCxAt, Ctx.pushDeque_allDeque, Ctx.dropDeque_allDeque, hd, filter_arr_split hnodup]

/-- QHELD discards the newest held deque entry. -/
theorem exec_qheld_deque_discards (h1 : s.me.arg 2 = 1) : ∃ t, exec .qheld s = .next t ∧ t.me.getG 8 = 0 ∧
    ((t.core c).cxOf enc).dspill ++ ((t.core c).cxOf enc).deque = l1 ++ l2 := by
  have hentry : s.heldEntry c = some (s.setCxAt c enc (((s.core c).cxOf enc).dropDeque e.arr)) := by
    rw [State.heldEntry, if_pos h3, ← henc, State.heldDeque_some hd he hl2, h1]
    rfl
  obtain ⟨t, ht, hg, hctx⟩ := exec_qheld_done h hc hgood hentry
  refine ⟨t, ht, hg, ?_⟩
  rw [Core.cxOf, hctx, ← Core.cxOf, State.cxOf_setCxAt, Ctx.dropDeque_allDeque, hd, filter_arr_split hnodup]

end

section
variable (h3 : bitOf (s.me.arg 1) 3 = false) {q : Fin 4} (hq : q.val = bitsOf (s.me.arg 1) 1 0)
include h3 hq

omit h hc hgood in
theorem State.heldEntry_head : s.heldEntry c = s.heldHead c enc q (s.me.arg 2 == 1) := by
  rw [State.heldEntry, if_neg (by simp [h3]), ← henc, ← hq, Fin.ofNat_val_eq_self]

/-- QHELD on a queue without entries. -/
theorem exec_qheld_queue_empty (hres : ((s.core c).cxOf enc).q[q].res = []) : s.answers .qheld p 2 :=
  exec_qheld_none h hc hgood ((State.heldEntry_head henc h3 hq).trans (State.heldHead_empty hres _))

variable {e : Entry} {es : List Entry} (hres : ((s.core c).cxOf enc).q[q].res = e :: es)
include hres

theorem exec_qheld_queue_unheld (he : bitOf e.record 44 = false) : s.answers .qheld p 2 :=
  exec_qheld_none h hc hgood ((State.heldEntry_head henc h3 hq).trans (State.heldHead_unheld hres he _))

/-- QHELD releases a held head, in its place by the queue's mode. -/
theorem exec_qheld_queue_releases (he : bitOf e.record 44 = true) (h0 : s.me.arg 2 = 0) : ∃ t e', exec .qheld s = .next t ∧
    t.me.getG 8 = 0 ∧ Entry.releasedFrom e' e ∧
    (bitsOf (((s.core c).cxOf enc).q[q]).cfg 1 0 = 0 → ((t.core c).cxOf enc).q[q].res = e' :: es) ∧
    (bitsOf (((s.core c).cxOf enc).q[q]).cfg 1 0 ≠ 0 → ∃ before after, es = before ++ after ∧
      ranked (bitsOf e.record 51 48) e.arr before after ∧
      ((t.core c).cxOf enc).q[q].res.map (·.record) = (before ++ e' :: after).map (·.record)) := by
  obtain ⟨u, hu, hres'⟩ := State.heldHead_releases (s := s) (c := c) (enc := enc) hres he
  have hentry : s.heldEntry c = some u := by rw [State.heldEntry_head henc h3 hq, h0]; exact hu
  obtain ⟨t, ht, hg, hctx⟩ := exec_qheld_done h hc hgood hentry
  have hcx : (t.core c).cxOf enc = (u.core c).cxOf enc := by rw [Core.cxOf, hctx]; rfl
  refine ⟨t, _, ht, hg, Entry.releasedFrom_setHeld e, fun hmode => ?_, fun hmode => ?_⟩
  · rw [hcx, hres', if_pos hmode]
    refine Queue.setRes_sameHead _ _ _ fun a as b bs h1 h2 => ?_
    obtain ⟨rfl, -⟩ := List.cons.inj (hres.symm.trans h1)
    obtain ⟨rfl, -⟩ := List.cons.inj h2
    rfl
  · obtain ⟨before, after, hes, hins, hrank⟩ := rankInsert_split { e with record := setHeld e.record false } es
    rw [setHeld_prio] at hrank
    refine ⟨before, after, hes, hrank, ?_⟩
    rw [hcx, hres', if_neg hmode, Queue.setRes_records, hins]

/-- QHELD discards a held head. -/
theorem exec_qheld_queue_discards (he : bitOf e.record 44 = true) (h1 : s.me.arg 2 = 1) (hspill : ((s.core c).cxOf enc).q[q].spill = [])
    (hk : (s.core c).keptEntries = []) : ∃ t, exec .qheld s = .next t ∧ t.me.getG 8 = 0 ∧
      ((t.core c).cxOf enc).q[q].res.map (·.record) = es.map (·.record) := by
  have hentry : s.heldEntry c = some (s.popQueue c enc q) := by
    rw [State.heldEntry_head henc h3 hq, h1]
    exact State.heldHead_discards hres he
  obtain ⟨t, ht, hg, hctx⟩ := exec_qheld_done h hc hgood hentry
  refine ⟨t, ht, hg, ?_⟩
  rw [Core.cxOf, hctx, ← Core.cxOf]
  exact State.popQueue_records hres hspill hk

end
end

end Sys2Proof.Machine

open Sys2Proof.Machine in
/-- Settles O56: each service by its call, its memory's keys used, and its operands; KIMPORT by induction on the lines. -/
theorem monitorCalls : Obligations.MonitorCalls := by
  unfold Obligations.MonitorCalls
  refine ⟨fun s p a n i hi => ⟨fun hn hmay => ⟨fun hpend => exec_mcall_waits hi hn hmay hpend, fun hpend => exec_mcall_calls hi hn hmay hpend⟩,
    fun h => exec_service_other hi h⟩, fun s p hp => ⟨fun h => exec_clrst_waits hp h, fun hpend hbal =>
      ⟨_, exec_clrst hp hpend hbal, rfl, fun x => ?_⟩⟩,
    fun s p => ⟨?mver, ?kstate, ?resume, ?krevoke, ?kimport, ?qheld⟩⟩
  · exact List.mem_append.trans (or_congr Iff.rfl mem_creditOf)
  case mver => exact exec_mver
  case kstate =>
    intro h
    refine ⟨_, exec_kstate h, fun hk => by rw [hk]; rfl, fun uid key hk => ?_⟩
    rw [hk]
    refine ⟨fun hst => ?_, fun hst => ?_, fun hst => ?_, fun hst => ?_, fun hst => ?_⟩ <;> rw [stateWord, hst] <;> rfl
  case resume =>
    intro h
    exact ⟨fun hc => exec_resume_nocore h hc, fun c hc => ⟨fun hq => exec_resume_busy hc h hq, fun hq => exec_resume_wakes hc h hq⟩⟩
  case krevoke =>
    rintro h id rfl
    exact ⟨fun hid => exec_krevoke_refused h hid, fun h0 h4 => ⟨fun hk => exec_krevoke_nokey h h0 h4 hk, fun uid key hk =>
      ⟨fun hst => exec_krevoke_unfit h0 h4 hk h hst, fun hst hget hrun => exec_krevoke_revokes h h0 h4 hk hst hget hrun⟩⟩⟩
  case kimport =>
    rintro h src dst n id rfl rfl rfl rfl hmac
    refine ⟨fun hbad => exec_kimport_refused h hmac hbad, fun h0 h4 h64 hn hmost ha => ?_⟩
    have hi : s.Imports := ⟨h0, h4, h64, hn, hmost, ha⟩
    exact ⟨fun hk => exec_kimport_nokey h hmac hi hk, fun uid key hk => ⟨fun hst => exec_kimport_inactive h hmac hi hk hst,
      fun hst hbad => exec_kimport_region h hmac hi hk hst hbad, fun hst hr hw env henv =>
        ⟨fun hv => exec_kimport_forged h hmac hi hk hst hr hw henv hv, fun hv => exec_kimport_spec h hmac hi hk hst hr hw henv hv⟩⟩⟩
  case qheld =>
    rintro h g enc rfl henc
    refine ⟨fun hc => exec_qheld_nocore h hc, fun c hc => ⟨fun hbad => exec_qheld_refused h hc (by rw [henc] at hbad; exact hbad),
      fun h63 h2 hlt hle => ?_⟩⟩
    have hgood := State.not_heldBad h63 h2 (henc ▸ hlt) hle
    refine ⟨fun h3 h10 hd => exec_qheld_deque_none h hc henc (hgood (.inl h10)) h3 hd, fun l1 e l2 h3 h10 hd he hl2 hnodup =>
      ⟨exec_qheld_deque_releases h hc henc (hgood (.inl h10)) h3 hd he hl2 hnodup,
        exec_qheld_deque_discards h hc henc (hgood (.inl h10)) h3 hd he hl2 hnodup⟩, fun q h3 hq =>
      ⟨exec_qheld_queue_empty h hc henc (hgood (.inr h3)) h3 hq, fun e es hres =>
        ⟨exec_qheld_queue_unheld h hc henc (hgood (.inr h3)) h3 hq hres, exec_qheld_queue_releases h hc henc (hgood (.inr h3)) h3 hq hres,
          exec_qheld_queue_discards h hc henc (hgood (.inr h3)) h3 hq hres⟩⟩⟩

end

section
/-! PROOF. Reading a sequence's prefixes, and the prefixes that the encoder writes (R43 to R47, R61). -/

namespace Sys2Proof.Machine

/-! ### Bits of a word -/

/-- The bits of a number that fits a word. -/
theorem bitsOf_ofNat {n hi lo : Nat} (h : n < 2 ^ 16) : bitsOf (BitVec.ofNat 16 n) hi lo = n / 2 ^ lo % 2 ^ (hi + 1 - lo) := by
  rw [bitsOf, BitVec.toNat_ofNat, Nat.mod_eq_of_lt h]

theorem bitOf_ofNat {n i : Nat} (h : n < 2 ^ 16) : bitOf (BitVec.ofNat 16 n) i = (n / 2 ^ i % 2 == 1) := by
  rw [bitOf, BitVec.toNat_ofNat, Nat.mod_eq_of_lt h]

/-! ### Reading the prefixes of a sequence (R43, R44, R61) -/

end Sys2Proof.Machine

namespace Sys2Proof.Prefixes

/-- After the prefixes s the word w may stand as one more. -/
structure Accepts (s : Prefixes) (w : HalfWord) : Prop where
  major : bitsOf w 13 10 = 15
  kind : bitsOf w 15 14 ≠ 3
  room : s.n ≠ 4
  fresh : prefixRank w ∉ s.seen
  order : s.lastRank ≤ prefixRank w
  reserved : prefixReserved w = false

/-- Each of the words may stand among the prefixes after those before it. -/
def AcceptsAll : Prefixes → List HalfWord → Prop
  | _, [] => True
  | s, w :: ws => s.Accepts w ∧ (s.push w).AcceptsAll ws

theorem acceptsAll_append {s : Prefixes} {xs ys : List HalfWord} :
    s.AcceptsAll (xs ++ ys) ↔ s.AcceptsAll xs ∧ (xs.foldl push s).AcceptsAll ys := by
  induction xs generalizing s with
  | nil => simp [AcceptsAll]
  | cons x xs ih => simp [AcceptsAll, ih, and_assoc]

end Sys2Proof.Prefixes

namespace Sys2Proof.Machine

/-- A word that may stand among the prefixes is read as one of them. -/
theorem decodeFrom_prefix {f : Nat → Option HalfWord} {fuel k : Nat} {s : Prefixes} {w : HalfWord} (hw : f k = some w)
    (h : s.Accepts w) : decodeFrom f false (fuel + 1) k s = decodeFrom f false fuel (k + 1) (s.push w) := by
  have horder : ¬ (prefixRank w : Int) < s.lastRank := not_lt.2 h.order
  have hseen : ¬ s.seen.contains (prefixRank w) = true := by simpa using h.fresh
  rw [decodeFrom, hw]
  simp only [h.major, h.kind, h.room, hseen, horder, h.reserved, ne_eq, not_true_eq_false, if_false, Bool.false_eq_true]

/-- A word of another major than 15 is the base word. -/
theorem decodeFrom_base {f : Nat → Option HalfWord} {fuel k : Nat} {s : Prefixes} {w : HalfWord} {inSlot : Bool}
    (hw : f k = some w) (h : bitsOf w 13 10 ≠ 15) : decodeFrom f inSlot (fuel + 1) k s = decodeBase s w inSlot := by
  rw [decodeFrom, hw]
  simp only [h, ne_eq, not_false_eq_true, if_true]

/-- Prefixes that may stand are read one after the other. -/
theorem decodeFrom_prefixes {f : Nat → Option HalfWord} {pre : List HalfWord} {fuel k : Nat} {s : Prefixes}
    (hf : ∀ j, ∀ h : j < pre.length, f (k + j) = some pre[j]) (h : s.AcceptsAll pre) :
    decodeFrom f false (fuel + pre.length) k s = decodeFrom f false fuel (k + pre.length) (pre.foldl Prefixes.push s) := by
  induction pre generalizing k s with
  | nil => rfl
  | cons w pre ih =>
    have hw : f k = some w := hf 0 (Nat.zero_lt_succ _)
    have hrest : ∀ j, ∀ h : j < pre.length, f (k + 1 + j) = some pre[j] := fun j hj => by
      rw [Nat.add_right_comm k 1 j]; exact hf (j + 1) (Nat.succ_lt_succ hj)
    rw [List.length_cons, ← Nat.add_assoc, decodeFrom_prefix hw h.1, ih hrest h.2, Nat.add_right_comm k 1]; rfl

/-- The words of a list from prefixes that may stand: what follows them is read after them. -/
theorem decodeWords_prefixes {pre ws : List HalfWord} (h : Prefixes.AcceptsAll {} pre) (hlen : pre.length ≤ 6) :
    decodeWords (pre ++ ws) = decodeFrom (fun k => (pre ++ ws)[k]?) false (6 - pre.length) pre.length (pre.foldl Prefixes.push {}) := by
  have := decodeFrom_prefixes (f := fun k => (pre ++ ws)[k]?) (fuel := 6 - pre.length) (k := 0)
    (fun j hj => by simp [List.getElem?_append_left hj, hj]) h
  rwa [Nat.sub_add_cancel hlen, Nat.zero_add] at this

/-- A sequence of prefixes that may stand and a base word. -/
theorem decodeWords_base {pre ws : List HalfWord} {w : HalfWord} (h : Prefixes.AcceptsAll {} pre) (hlen : pre.length ≤ 5)
    (hw : bitsOf w 13 10 ≠ 15) : decodeWords (pre ++ w :: ws) = decodeBase (pre.foldl Prefixes.push {}) w false := by
  rw [decodeWords_prefixes h (by omega), show 6 - pre.length = 5 - pre.length + 1 by omega]
  exact decodeFrom_base (by simp) hw

/-! ### The prefixes that the encoder writes (R43 to R47) -/

/-- What a word of each kind adds to the prefixes before it. -/
theorem push_pxp {s : Prefixes} {w : HalfWord} (h : bitsOf w 15 14 = 2) :
    s.push w = { s with n := s.n + 1, lastRank := prefixRank w, seen := prefixRank w :: s.seen, pxp := some (bitsOf w 9 0) } := by
  simp [Prefixes.push, h]

theorem push_pxr {s : Prefixes} {w : HalfWord} (h : bitsOf w 15 14 = 1) :
    s.push w = { s with n := s.n + 1, lastRank := prefixRank w, seen := prefixRank w :: s.seen, pxr := some (bitsOf w 9 0) } := by
  simp [Prefixes.push, h]

theorem push_pxi {s : Prefixes} {w : HalfWord} (h : bitsOf w 15 14 = 0) :
    s.push w = { s with n := s.n + 1, lastRank := prefixRank w, seen := prefixRank w :: s.seen,
                        pxi := s.pxi ++ [(bitsOf w 9 8, bitsOf w 7 0)] } := by
  simp [Prefixes.push, h]

/-- The PXI words from index k on, as prefixes: their kind, index and byte. -/
theorem pxi_word {k v : Nat} (hk : k < 4) : 
    bitsOf (BitVec.ofNat 16 (0x3C00 + k * 256 + v % 256)) 13 10 = 15 ∧
    bitsOf (BitVec.ofNat 16 (0x3C00 + k * 256 + v % 256)) 15 14 = 0 ∧
    bitsOf (BitVec.ofNat 16 (0x3C00 + k * 256 + v % 256)) 9 8 = k ∧
    bitsOf (BitVec.ofNat 16 (0x3C00 + k * 256 + v % 256)) 7 0 = v % 256 := by
  have : v % 256 < 256 := Nat.mod_lt _ (by decide)
  refine ⟨?_, ?_, ?_, ?_⟩ <;> rw [bitsOf_ofNat (by omega)] <;> simp only [Nat.reducePow, Nat.reduceAdd, Nat.reduceSub] <;> omega

theorem pxiWords_length (m k v : Nat) : (pxiWords m k v).length = m := by
  induction m generalizing k v with
  | zero => rfl
  | succ m ih => rw [pxiWords, List.length_cons, ih]

/-- The PXI words may stand after prefixes of lower ranks, as long as there are no more than four prefixes. -/
theorem acceptsAll_pxiWords {m k : Nat} (v : Nat) {s : Prefixes} (hn : s.n + m ≤ 4) (hk : k + m ≤ 4) (hseen : ∀ r ∈ s.seen, r < 2 + k)
    (hlast : s.lastRank ≤ 2 + k) : s.AcceptsAll (pxiWords m k v) := by
  induction m generalizing k v s with
  | zero => trivial
  | succ m ih =>
    obtain ⟨hmajor, hkind, hindex, -⟩ := pxi_word (v := v) (show k < 4 by omega)
    have hrank : prefixRank (BitVec.ofNat 16 (0x3C00 + k * 256 + v % 256)) = 2 + k := by simp [prefixRank, hkind, hindex]
    refine ⟨⟨hmajor, by omega, by omega, fun h => ?_, by rw [hrank]; exact_mod_cast hlast, by simp [prefixReserved, hkind]⟩, ?_⟩
    · exact absurd (hseen _ h) (by omega)
    · rw [push_pxi hkind]
      refine ih _ (by simp only; omega) (by omega) ?_ ?_
      · simp only [List.mem_cons, hrank]
        rintro r (rfl | h)
        · omega
        · have := hseen r h; omega
      · simp only [hrank]; omega

/-- The payload that PXI words add to the prefixes. -/
theorem foldl_push_pxiWords {m k : Nat} (v : Nat) (s : Prefixes) (hk : k + m ≤ 4) :
    ∃ last seen, (pxiWords m k v).foldl Prefixes.push s =
      { s with n := s.n + m, lastRank := last, seen := seen,
               pxi := s.pxi ++ (pxiWords m k v).map (fun w => (bitsOf w 9 8, bitsOf w 7 0)) } := by
  induction m generalizing k v s with
  | zero => exact ⟨s.lastRank, s.seen, by simp [pxiWords]⟩
  | succ m ih =>
    obtain ⟨-, hkind, -, -⟩ := pxi_word (v := v) (show k < 4 by omega)
    obtain ⟨last, seen, h⟩ := ih (v / 256) (s.push (BitVec.ofNat 16 (0x3C00 + k * 256 + v % 256))) (k := k + 1) (by omega)
    refine ⟨last, seen, ?_⟩
    rw [pxiWords, List.foldl_cons, h, push_pxi hkind]
    simp [Nat.add_assoc, Nat.add_comm 1 m]

theorem pxiWords_indices {m k v : Nat} (hk : k + m ≤ 4) : (pxiWords m k v).map (fun w => bitsOf w 9 8) = List.range' k m := by
  induction m generalizing k v with
  | zero => rfl
  | succ m ih =>
    obtain ⟨-, -, hindex, -⟩ := pxi_word (v := v) (show k < 4 by omega)
    rw [pxiWords, List.map_cons, hindex, ih (by omega), List.range'_succ]

/-- The bytes of the PXI words spell the value they carry (R45). -/
theorem pxiWords_value {m k v : Nat} (hk : k + m ≤ 4) :
    ((pxiWords m k v).map (fun w => bitsOf w 7 0)).foldr (fun b acc => b + 256 * acc) 0 = v % 256 ^ m := by
  induction m generalizing k v with
  | zero => simp [pxiWords, Nat.mod_one]
  | succ m ih =>
    obtain ⟨-, -, -, hbyte⟩ := pxi_word (v := v) (show k < 4 by omega)
    rw [pxiWords, List.map_cons, List.foldr_cons, hbyte, ih (by omega), pow_succ', Nat.mod_mul]

/-! ### A sequence's prefixes, read back -/

end Sys2Proof.Machine

namespace Sys2Proof.Enc
open Sys2Proof.Machine

/-- The words PXP and PXR and the base word of an encoding. -/
def pxpWord (e : Enc) (p : Pfx) : HalfWord := BitVec.ofNat 16 (0xBC00 + e.page * 128 + p.scope.code * 16 + p.order.code * 4)
def pxrWord (e : Enc) (p : Pfx) : HalfWord :=
  BitVec.ofNat 16 (0x7C00 + p.qs.code * 256 + p.stall / 4 * 8 + e.h1.toNat * 4 + e.h2.toNat * 2 + e.h3.toNat)
def word (e : Enc) (p : Pfx) : HalfWord := BitVec.ofNat 16 (p.stall % 4 * 16384 + e.base)

/-- The prefixes of an encoding, in the order of R44. -/
def prefixWords (e : Enc) (p : Pfx) : List HalfWord :=
  (if p.pxp then [e.pxpWord p] else []) ++ (if p.pxr then [e.pxrWord p] else []) ++ pxiWords p.npxi 0 e.ext

/-- The base word with what the prefixes of an encoding are meant to give it. -/
def raw (e : Enc) (p : Pfx) : Raw :=
  { w := e.word p, pfx := p, h1 := e.h1, h2 := e.h2, h3 := e.h3, pxi := (pxiWords p.npxi 0 e.ext).map (fun w => bitsOf w 7 0) }

end Sys2Proof.Enc

namespace Sys2Proof.Machine

theorem encode_eq {i : Instr} {u : Use} {e : Enc} (hu : i.use = some u) (he : i.enc = some e) :
    encode i = e.prefixWords u.pfx ++ [e.word u.pfx] := by
  simp only [encode, hu, he]; rfl

@[simp] theorem orderOfCode_code (o : Order) : orderOfCode o.code = o := by cases o <;> rfl
@[simp] theorem scopeOfCode_code (c : Scope) : scopeOfCode c.code = c := by cases c <;> rfl
@[simp] theorem qsOfCode_code (q : Qs) : qsOfCode q.code = q := by cases q <;> rfl
theorem Order.code_lt (o : Order) : o.code < 4 := by cases o <;> decide
theorem Scope.code_lt (c : Scope) : c.code < 7 := by cases c <;> decide
theorem Qs.code_lt (q : Qs) : q.code < 4 := by cases q <;> decide

/-- The fields of PXP: its kind, and the page, scope and order that its payload holds. -/
theorem pxpWord_fields {e : Enc} (p : Pfx) (hpage : e.page ≤ 6) : bitsOf (e.pxpWord p) 13 10 = 15 ∧ bitsOf (e.pxpWord p) 15 14 = 2 ∧
    bitsOf (e.pxpWord p) 1 0 = 0 ∧ natBits (bitsOf (e.pxpWord p) 9 0) 9 7 = e.page ∧
    natBits (bitsOf (e.pxpWord p) 9 0) 6 4 = p.scope.code ∧ natBits (bitsOf (e.pxpWord p) 9 0) 3 2 = p.order.code := by
  have := Order.code_lt p.order
  have := Scope.code_lt p.scope
  unfold Enc.pxpWord natBits
  refine ⟨?_, ?_, ?_, ?_, ?_, ?_⟩ <;> rw [bitsOf_ofNat (by omega)] <;> simp only [Nat.reducePow, Nat.reduceAdd, Nat.reduceSub] <;> omega

/-- The fields of PXR: its kind, and the queue select, stall count and H bits that its payload holds. -/
theorem pxrWord_fields {e : Enc} {p : Pfx} (hs : p.stall < 64) : bitsOf (e.pxrWord p) 13 10 = 15 ∧ bitsOf (e.pxrWord p) 15 14 = 1 ∧
    bitOf (e.pxrWord p) 7 = false ∧ natBits (bitsOf (e.pxrWord p) 9 0) 9 8 = p.qs.code ∧
    natBits (bitsOf (e.pxrWord p) 9 0) 6 3 = p.stall / 4 ∧ natBits (bitsOf (e.pxrWord p) 9 0) 2 2 = e.h1.toNat ∧
    natBits (bitsOf (e.pxrWord p) 9 0) 1 1 = e.h2.toNat ∧ natBits (bitsOf (e.pxrWord p) 9 0) 0 0 = e.h3.toNat := by
  have := Qs.code_lt p.qs
  have := Bool.toNat_le e.h1
  have := Bool.toNat_le e.h2
  have := Bool.toNat_le e.h3
  unfold Enc.pxrWord natBits
  refine ⟨?_, ?_, ?_, ?_, ?_, ?_, ?_, ?_⟩ <;> first | rw [bitsOf_ofNat (by omega)] | rw [bitOf_ofNat (by omega)]
  all_goals simp only [Nat.reducePow, Nat.reduceAdd, Nat.reduceSub, beq_eq_false_iff_ne]
  all_goals omega

/-- The prefixes of an encoding may stand in their order (R43, R44). -/
theorem acceptsAll_prefixWords {e : Enc} {p : Pfx} (hpage : e.page ≤ 6) (hs : p.stall < 64)
    (hn : p.pxp.toNat + p.pxr.toNat + p.npxi ≤ 4) : Prefixes.AcceptsAll {} (e.prefixWords p) := by
  obtain ⟨hpmajor, hpkind, hpres, -⟩ := pxpWord_fields p hpage
  obtain ⟨hrmajor, hrkind, hrres, -⟩ := pxrWord_fields (e := e) hs
  have hprank : prefixRank (e.pxpWord p) = 0 := by simp [prefixRank, hpkind]
  have hrrank : prefixRank (e.pxrWord p) = 1 := by simp [prefixRank, hrkind]
  have accP : Prefixes.Accepts {} (e.pxpWord p) :=
    ⟨hpmajor, by omega, by decide, by simp, by simp [hprank], by simp [prefixReserved, hpkind, hpres]⟩
  have accR : ∀ s : Prefixes, s.n ≠ 4 → (∀ r ∈ s.seen, r < 1) → s.lastRank ≤ 1 → s.Accepts (e.pxrWord p) := fun s hn hseen hlast =>
    ⟨hrmajor, by omega, hn, fun h => absurd (hseen _ h) (by omega), by rw [hrrank]; exact hlast, by simp [prefixReserved, hrkind, hrres]⟩
  rw [Enc.prefixWords]
  cases hP : p.pxp <;> cases hR : p.pxr <;>
    simp only [hP, hR, Bool.toNat_true, Bool.toNat_false, if_true, if_false, Bool.false_eq_true, List.nil_append, List.append_nil, List.cons_append,
      Prefixes.AcceptsAll, push_pxp hpkind, push_pxr hrkind] at hn ⊢
  · exact acceptsAll_pxiWords _ (by simpa using hn) (by omega) (by simp) (by simp)
  · exact ⟨accR _ (by decide) (by simp) (by decide), acceptsAll_pxiWords _ (by simpa using hn) (by omega) (by simp [hrrank]) (by simp [hrrank])⟩
  · exact ⟨accP, acceptsAll_pxiWords _ (by simpa using hn) (by omega) (by simp [hprank]) (by simp [hprank])⟩
  · exact ⟨accP, accR _ (by simp) (by simp [hprank]) (by simp [hprank]), acceptsAll_pxiWords _ (by simpa using hn) (by omega)
      (by simp [hprank, hrrank]) (by simp [hrrank])⟩

/-- What the prefixes of an encoding leave the decoder with. -/
theorem foldl_push_prefixWords {e : Enc} {p : Pfx} (hpage : e.page ≤ 6) (hs : p.stall < 64)
    (hn : p.pxp.toNat + p.pxr.toNat + p.npxi ≤ 4) :
    ∃ last seen, (e.prefixWords p).foldl Prefixes.push {} =
      { n := p.pxp.toNat + p.pxr.toNat + p.npxi, lastRank := last, seen := seen,
        pxp := if p.pxp then some (bitsOf (e.pxpWord p) 9 0) else none,
        pxr := if p.pxr then some (bitsOf (e.pxrWord p) 9 0) else none,
        pxi := (pxiWords p.npxi 0 e.ext).map (fun w => (bitsOf w 9 8, bitsOf w 7 0)) } := by
  obtain ⟨-, hpkind, -⟩ := pxpWord_fields p hpage
  obtain ⟨-, hrkind, -⟩ := pxrWord_fields (e := e) hs
  rw [Enc.prefixWords, List.foldl_append]
  obtain ⟨last, seen, h⟩ := foldl_push_pxiWords (m := p.npxi) (k := 0) e.ext
    (List.foldl Prefixes.push {} ((if p.pxp then [e.pxpWord p] else []) ++ (if p.pxr then [e.pxrWord p] else []))) (by omega)
  refine ⟨last, seen, h.trans ?_⟩
  cases p.pxp <;> cases p.pxr <;> simp [push_pxp hpkind, push_pxr hrkind]

theorem prefixWords_length (e : Enc) (p : Pfx) : (e.prefixWords p).length = p.pxp.toNat + p.pxr.toNat + p.npxi := by
  rw [Enc.prefixWords, List.length_append, List.length_append, pxiWords_length]
  cases p.pxp <;> cases p.pxr <;> rfl

/-! ### A base word with its prefixes -/

/-- What an encoding's H bits and prefixes hold together: without `PXR` no H bit is set, and the stall count and queue select are those of
the base word alone; without `PXP` the page is 0 and there are no modifiers (R42 to R47). -/
structure Fits (e : Enc) (p : Pfx) : Prop where
  page : e.page ≤ 6
  base : e.base < 15 * 1024
  stall : p.stall < 64
  few : p.pxp.toNat + p.pxr.toNat + p.npxi ≤ 4
  pxp : p.pxp = false → e.page = 0 ∧ p.order = .none ∧ p.scope = .dflt
  pxr : p.pxr = false → p.stall < 4 ∧ p.qs = .none ∧ e.h1 = false ∧ e.h2 = false ∧ e.h3 = false

theorem word_bits {e : Enc} {p : Pfx} {hi lo : Nat} (hbase : e.base < 15 * 1024) (hhi : hi ≤ 13) (hlo : lo ≤ hi) :
    bitsOf (e.word p) hi lo = e.base / 2 ^ lo % 2 ^ (hi + 1 - lo) := by
  have hlt := Nat.mod_lt p.stall (show 0 < 4 by decide)
  rw [Enc.word, bitsOf_ofNat (by omega)]
  obtain ⟨k, hk⟩ : ∃ k, 14 = lo + (hi + 1 - lo) + k := ⟨13 - hi, by omega⟩
  have h14 : p.stall % 4 * 16384 = 2 ^ lo * (2 ^ (hi + 1 - lo) * (2 ^ k * (p.stall % 4))) := by
    rw [← Nat.mul_assoc, ← Nat.mul_assoc, ← pow_add, ← pow_add, ← hk, Nat.mul_comm, show 2 ^ 14 = 16384 from rfl]
  rw [h14, Nat.add_comm, Nat.add_mul_div_left _ _ (Nat.two_pow_pos lo), Nat.add_mul_mod_self_left]

theorem word_bit {e : Enc} {p : Pfx} {i : Nat} (hbase : e.base < 15 * 1024) (hi : i ≤ 13) :
    bitOf (e.word p) i = (e.base / 2 ^ i % 2 == 1) := by
  have := word_bits (p := p) hbase hi (Nat.le_refl i)
  rw [Nat.add_sub_cancel_left, pow_one] at this
  rw [← this, bitOf, bitsOf, Nat.add_sub_cancel_left, pow_one]

theorem word_stall {e : Enc} {p : Pfx} (hbase : e.base < 15 * 1024) : bitsOf (e.word p) 15 14 = p.stall % 4 := by
  have hlt := Nat.mod_lt p.stall (show 0 < 4 by decide)
  rw [Enc.word, bitsOf_ofNat (by omega)]
  simp only [Nat.reducePow, Nat.reduceAdd, Nat.reduceSub]
  omega

/-- The decoder reads from the words of an encoding what they were written from. -/
theorem raw_prefixWords {e : Enc} {p : Pfx} (h : Fits e p) : ((e.prefixWords p).foldl Prefixes.push {}).raw (e.word p) = e.raw p := by
  obtain ⟨last, seen, hfold⟩ := foldl_push_prefixWords h.page h.stall h.few
  obtain ⟨-, -, -, -, hscope, horder⟩ := pxpWord_fields p h.page
  obtain ⟨-, -, -, hqs, hstall, hh1, hh2, hh3⟩ := pxrWord_fields (e := e) h.stall
  have hb : ∀ b : Bool, (b.toNat == 1) = b := by decide
  have hst : p.stall % 4 + 4 * (p.stall / 4) = p.stall := Nat.mod_add_div _ _
  have hzero : orderOfCode 0 = .none ∧ scopeOfCode 0 = .dflt ∧ qsOfCode 0 = .none := ⟨rfl, rfl, rfl⟩
  obtain ⟨stall, pxp, pxr, npxi, qs, order, scope⟩ := p
  rw [hfold]
  have hP := h.pxp
  have hR := h.pxr
  cases pxp <;> cases pxr <;>
    simp_all [Prefixes.raw, Enc.raw, word_stall h.base, natBits, Function.comp_def, pxiWords_length]

/-- The PXI indices of an encoding have no gap (R44). -/
theorem gap_prefixWords {e : Enc} {p : Pfx} (h : Fits e p) : ((e.prefixWords p).foldl Prefixes.push {}).gap = false := by
  obtain ⟨last, seen, hfold⟩ := foldl_push_prefixWords h.page h.stall h.few
  have hindex := pxiWords_indices (m := p.npxi) (k := 0) (v := e.ext) (by have := h.few; omega)
  rw [hfold]
  simp only [Prefixes.gap, List.map_map, Function.comp_def, hindex, List.length_map, pxiWords_length, List.range_eq_range',
    bne_self_eq_false]

/-- A base word that a row of its page accepts and builds an instruction from. -/
theorem decodeBase_row {s : Prefixes} {w : HalfWord} {row : Row} {i : Instr} {page : Nat} (hgap : s.gap = false)
    (hpage : natBits (s.pxp.getD 0) 9 7 = page) (h7 : page ≠ 7) (hrow : rowOf page w = some row)
    (hscope : natBits (s.pxp.getD 0) 6 4 ≠ 7) (hmods : modsOk row.mods (s.raw w).pfx.order (s.raw w).pfx.scope = true)
    (hqs : qsOk row.qs (s.raw w).pfx.qs = true) (hbuild : row.build (s.raw w) = some i) : decodeBase s w false = .ok i (s.n + 1) := by
  simp [decodeBase, hgap, hpage, h7, hrow, hscope, hmods, hqs, hbuild]

/-- Decoding the words of an encoding comes down to its row of the opcode map: the row accepts its modifiers and queue select, and builds
the instruction from what the words were written from. -/
theorem decodeWords_encoding {e : Enc} {p : Pfx} {row : Row} {i : Instr} (h : Fits e p) (hrow : rowOf e.page (e.word p) = some row)
    (hmods : modsOk row.mods p.order p.scope = true) (hqs : qsOk row.qs p.qs = true) (hbuild : row.build (e.raw p) = some i) :
    decodeWords (e.prefixWords p ++ [e.word p]) = .ok i (e.prefixWords p ++ [e.word p]).length := by
  have hbase := h.base
  have hpage := h.page
  have hfew := h.few
  have hmajor : bitsOf (e.word p) 13 10 ≠ 15 := by
    rw [word_bits h.base (by decide) (by decide)]
    simp only [Nat.reducePow, Nat.reduceAdd, Nat.reduceSub]
    omega
  have hlen : (e.prefixWords p).length ≤ 5 := by rw [prefixWords_length]; omega
  obtain ⟨last, seen, hfold⟩ := foldl_push_prefixWords h.page h.stall h.few
  obtain ⟨-, -, -, hpxp, hscope, -⟩ := pxpWord_fields p h.page
  rw [decodeWords_base (acceptsAll_prefixWords h.page h.stall h.few) hlen hmajor, List.length_append, prefixWords_length]
  have hraw := raw_prefixWords h
  have hn : ((e.prefixWords p).foldl Prefixes.push {}).n = p.pxp.toNat + p.pxr.toNat + p.npxi := by rw [hfold]
  rw [decodeBase_row (gap_prefixWords h) (page := e.page) ?_ (by omega) hrow ?_ (by rw [hraw]; exact hmods) (by rw [hraw]; exact hqs)
    (by rw [hraw]; exact hbuild), hn]
  · rfl
  all_goals rw [hfold]; cases hP : p.pxp
  · simp [natBits, (h.pxp hP).1]
  · exact hpxp
  · simp [natBits]
  · simpa [hscope] using (Scope.code_lt p.scope).ne

end Sys2Proof.Machine

end

section
/-! PROOF. The fields of a base word and its immediate, and what a well-formed sequence's encoding must give the decoder (R42 to R49). -/

namespace Sys2Proof.Machine
open Sys2Proof.Laws.BaseWord (lo3_lt immLow_lt)

/-! ### Registers, numbers and immediates in their fields -/

/-- A register is its low bits and its H bit. -/
@[simp] theorem fin_lo3_hi (r : Fin 16) : fin 16 (lo3 r + 8 * (hi r).toNat) = r := by revert r; decide

theorem hi_eq_false {r : Fin 16} (h : r.val < 8) : hi r = false := by simp [hi, h]

@[simp] theorem lo3_zero : lo3 0 = 0 := rfl
@[simp] theorem hi_zero : hi 0 = false := rfl

/-- A number below 8 stands in a field as itself, without an H bit (R48, R49). -/
theorem lo3_low {n : Nat} (h : n < 8) : lo3 (low n) = n := by
  simp only [lo3, low, fin, Fin.val_ofNat]; omega

theorem hi_low {n : Nat} (h : n < 8) : hi (low n) = false := decide_eq_false (show ¬ 8 ≤ n % 16 by omega)

@[simp] theorem fin_val {n : Nat} [NeZero n] (r : Fin n) : fin n r.val = r := Fin.ofNat_val_eq_self r

theorem immLow_zero (v : Int) : immLow v 0 = 0 := by simp [immLow]

theorem immLow_natCast (n w : Nat) : immLow n w = n % 2 ^ w := by simp [immLow]; norm_cast

/-- The low bits and the rest of an immediate spell it modulo the width of the extended field (R45). -/
theorem immLow_add_immExt (v : Int) (w m : Nat) : immLow v w + 2 ^ w * (immExt v w m % 256 ^ m) = (v % 2 ^ (w + 8 * m)).toNat := by
  have hpos : (0 : Int) < 2 ^ (w + 8 * m) := by positivity
  obtain ⟨n, hn⟩ := Int.eq_ofNat_of_zero_le (Int.emod_nonneg v hpos.ne')
  have hlt : n < 2 ^ (w + 8 * m) := by
    have := Int.emod_lt_of_pos v hpos
    rw [hn] at this
    exact_mod_cast this
  have hlow : immLow v w = n % 2 ^ w := by
    have : v % 2 ^ w = (v % 2 ^ (w + 8 * m)) % 2 ^ w := (Int.emod_emod_of_dvd v (pow_dvd_pow 2 (Nat.le_add_right w _))).symm
    rw [immLow, this, hn, ← immLow, immLow_natCast]
  have hext : immExt v w m % 256 ^ m = n / 2 ^ w := by
    rw [immExt, hn, Int.toNat_natCast, Nat.mod_eq_of_lt]
    rw [Nat.div_lt_iff_lt_mul (by positivity), show 256 = 2 ^ 8 from rfl, ← pow_mul, ← pow_add, Nat.add_comm]
    exact hlt
  rw [hlow, hext, hn, Int.toNat_natCast, Nat.mod_add_div]

/-- Sign extension undoes the reduction of a value that fits. -/
theorem signExtNat_emod {v : Int} {n : Nat} (hn : n ≠ 0) (h : -(2 ^ (n - 1)) ≤ v ∧ v < 2 ^ (n - 1)) :
    signExtNat (v % 2 ^ n).toNat n = v := by
  obtain ⟨n, rfl⟩ := Nat.exists_eq_succ_of_ne_zero hn
  simp only [Nat.succ_eq_add_one, Nat.add_sub_cancel] at h ⊢
  have hpos : (0 : Int) < 2 ^ (n + 1) := by positivity
  have h0 := Int.emod_nonneg v hpos.ne'
  have h1 := Int.emod_lt_of_pos v hpos
  have hp : (2 : Int) ^ (n + 1) = 2 * 2 ^ n := pow_succ' 2 n
  have hmod : (v % 2 ^ (n + 1)).toNat % 2 ^ (n + 1) = (v % 2 ^ (n + 1)).toNat := Nat.mod_eq_of_lt (by zify; rw [Int.toNat_of_nonneg h0]; exact h1)
  unfold signExtNat
  rw [hmod, Nat.add_sub_cancel]
  rcases le_or_gt 0 v with hv | hv
  · rw [Int.emod_eq_of_lt hv (by omega), if_pos (by zify; rw [Int.toNat_of_nonneg hv]; exact h.2), Int.toNat_of_nonneg hv]
  · have : v % 2 ^ (n + 1) = v + 2 ^ (n + 1) := by
      rw [← Int.add_emod_right, Int.emod_eq_of_lt (by omega) (by omega)]
    rw [this, if_neg (by zify; rw [Int.toNat_of_nonneg (by omega)]; omega), Int.toNat_of_nonneg (by omega)]
    omega

/-- ExtImm of R45 gives back an immediate that fits its field. -/
theorem imm_raw {e : Enc} {p : Pfx} {w base : Nat} {sgn lim : Bool} {v : Int} (hfew : p.npxi ≤ 4)
    (hfits : ImmUse.fits ⟨w, sgn, v, lim⟩ p.npxi = true) (hext : e.ext = immExt v w p.npxi) (hbase : base = immLow v w) :
    (e.raw p).imm base w sgn = v := by
  have hval : base + 2 ^ w * (e.raw p).pxi.foldr (fun b acc => b + 256 * acc) 0 = (v % 2 ^ (w + 8 * p.npxi)).toNat := by
    rw [Enc.raw, pxiWords_value (by omega), hext, hbase, immLow_add_immExt]
  have hlen : (e.raw p).pxi.length = p.npxi := by rw [Enc.raw, List.length_map, pxiWords_length]
  obtain ⟨-, hf⟩ := Bool.and_eq_true_iff.1 hfits
  simp only [Raw.imm, hval, hlen]
  split
  · next h0 =>
    rw [if_pos h0] at hf
    exact (beq_iff_eq.1 hf).symm
  · next h0 =>
    rw [if_neg h0] at hf
    cases sgn
    · simp only [Bool.false_eq_true, if_false, decide_eq_true_eq] at hf ⊢
      rw [Int.emod_eq_of_lt hf.1 hf.2, Int.toNat_of_nonneg hf.1]
    · simp only [if_true, decide_eq_true_eq] at hf ⊢
      exact signExtNat_emod h0 hf

/-! ### The fields of a base word, by its format (R48) -/

variable {e : Enc} {p : Pfx} {page major f fn op : Nat} {d a b : Fin 16}

/-- The fields that the formats share, as the base word holds them. -/
structure WordFields (e : Enc) (p : Pfx) (m x y z : Nat) : Prop where
  major : bitsOf (e.word p) 13 10 = m
  f1 : bitsOf (e.word p) 9 7 = x
  f2 : bitsOf (e.word p) 6 4 = y
  fn : bitsOf (e.word p) 3 0 = z
  f3 : bitsOf (e.word p) 3 1 = z / 2
  b0 : bitOf (e.word p) 0 = (z % 2 == 1)

/-- A base word that is a major and the three fields below it. -/
theorem wordFields {f1 f2 fn : Nat} (hbase : e.base = major * 1024 + f1 * 128 + f2 * 16 + fn) (hm : major < 15) (h1 : f1 < 8) (h2 : f2 < 8)
    (hf : fn < 16) : WordFields e p major f1 f2 fn := by
  have hlt : e.base < 15 * 1024 := by omega
  constructor
  case b0 => rw [word_bit hlt (by decide), hbase]; congr 1; omega
  all_goals
    rw [word_bits hlt (by decide) (by decide), hbase]
    simp only [Nat.reducePow, Nat.reduceAdd, Nat.reduceSub]
    omega

theorem encFA_fields (hm : major < 15) (hf : f < 2) : WordFields (encFA page major f d a b) p major (lo3 d) (lo3 a) (lo3 b * 2 + f) :=
  wordFields (by simp only [encFA]; omega) hm (lo3_lt d) (lo3_lt a) (by have := lo3_lt b; omega)

theorem encFB_fields (hm : major < 15) (hf : fn < 16) : WordFields (encFB page major fn d a) p major (lo3 d) (lo3 a) fn :=
  wordFields rfl hm (lo3_lt d) (lo3_lt a) hf

theorem encFM_fields {q : Pfx} {loc : Bool} {off : Int} (hm : major < 15) (ho : op < 8) :
    WordFields (encFM page major op q d a loc off) p major (lo3 d) (lo3 a) (op * 2 + loc.toNat) :=
  wordFields (by simp only [encFM]; omega) hm (lo3_lt d) (lo3_lt a) (by have := Bool.toNat_le loc; omega)

theorem encFD_fields {q : Pfx} {v : Int} (hf : fn < 8) : WordFields (encFD fn q d v) p 9 (lo3 d) fn (immLow v 4) :=
  wordFields rfl (by decide) (lo3_lt d) hf (immLow_lt v 4)

theorem encFK_fields {q : Pfx} {v : Int} (ho : op < 8) : WordFields (encFK op q a v) p 0 op (lo3 a) (immLow v 4) :=
  wordFields (by simp only [encFK]; omega) (by decide) ho (lo3_lt a) (immLow_lt v 4)

theorem encMisc_fields {q : Pfx} {n : Nat} (hf : fn < 16) : WordFields (encMisc fn q n) p 0 0 (n % 8) fn :=
  wordFields (by simp only [encMisc]; omega) (by decide) (by decide) (Nat.mod_lt _ (by decide)) hf

/-! ### Well-formed sequences -/

/-- What well-formedness says, taken apart (R42 to R49). -/
structure UseHolds (u : Use) : Prop where
  stall : u.pfx.stall < 64
  pxp : u.pfx.pxp = false → u.page = 0 ∧ u.pfx.order = .none ∧ u.pfx.scope = .dflt
  pxr : u.pfx.pxr = false → u.pfx.stall < 4 ∧ u.pfx.qs = .none ∧ ∀ r ∈ u.regs, r.val < 8
  few : u.pfx.pxp.toNat + u.pfx.pxr.toNat + u.pfx.npxi ≤ 4
  mods : modsOk u.mods u.pfx.order u.pfx.scope = true
  qs : qsOk u.qs u.pfx.qs = true
  zero : u.zero = true
  fits : ∀ i, u.imm = some i → i.fits u.pfx.npxi = true
  noImm : u.imm = none → u.pfx.npxi = 0

theorem useHolds_of_wf {u : Use} (h : u.wf = true) : UseHolds u := by
  simp only [Use.wf, Bool.and_eq_true, Bool.or_eq_true, decide_eq_true_eq, beq_iff_eq, List.all_eq_true] at h
  obtain ⟨⟨⟨⟨⟨⟨⟨hstall, hpxp⟩, hpxr⟩, hfew⟩, hmods⟩, hqs⟩, hzero⟩, himm⟩ := h
  refine ⟨hstall, fun hp => ?_, fun hp => ?_, hfew, hmods, hqs, hzero, fun i hi => ?_, fun hi => ?_⟩
  · simpa [hp, and_assoc] using hpxp
  · simpa [hp, and_assoc] using hpxr
  · simpa [hi] using himm
  · simpa [hi] using himm

/-! ### Rows that build the instruction back -/

/-- The encoding e of i, of which u says what it must carry: H bits come from the registers of u, and the row of the opcode map at e's base
word has the modifiers and queue select of u and builds i. -/
structure Reads (i : Instr) (u : Use) (e : Enc) : Prop where
  page : e.page = u.page
  good : Laws.BaseWord.Good e
  low : (∀ r ∈ u.regs, r.val < 8) → e.h1 = false ∧ e.h2 = false ∧ e.h3 = false
  row : ∃ row, rowOf e.page (e.word u.pfx) = some row ∧ row.mods = u.mods ∧ row.qs = u.qs ∧ row.build (e.raw u.pfx) = some i

theorem Reads.decodes {i : Instr} {u : Use} (hu : i.use = some u) (he : i.enc = some e) (hwf : UseHolds u) (h : Reads i u e) :
    decodeWords (encode i) = .ok i (encode i).length := by
  obtain ⟨row, hrow, hmods, hqs, hbuild⟩ := h.row
  have hfits : Fits e u.pfx := ⟨h.good.1, h.good.2, hwf.stall, hwf.few, fun hp => h.page ▸ hwf.pxp hp, fun hp =>
    let ⟨hstall, hq, hregs⟩ := hwf.pxr hp
    ⟨hstall, hq, h.low hregs⟩⟩
  rw [encode_eq hu he]
  exact decodeWords_encoding hfits hrow (hmods ▸ hwf.mods) (hqs ▸ hwf.qs) hbuild

end Sys2Proof.Machine

end

section
/-! PROOF. What the rows of the opcode map build from the words of each format (R48, R61). -/

namespace Sys2Proof.Machine
open Sys2Proof.Laws.BaseWord (lo3_lt immLow_lt)

/-! ### The rows of the opcode map at the formats' words -/

variable {e : Enc} {p : Pfx} {page major f fn op : Nat} {d a b : Fin 16}

@[simp] theorem encFA_word_major (hm : major < 15) (hf : f < 2) : bitsOf ((encFA page major f d a b).word p) 13 10 = major :=
  (encFA_fields hm hf).major
@[simp] theorem encFA_word_b0 (hm : major < 15) (hf : f < 2) : bitOf ((encFA page major f d a b).word p) 0 = (f == 1) := by
  rw [(encFA_fields hm hf).b0]; congr 1; omega
@[simp] theorem encFB_word_major (hm : major < 15) (hf : fn < 16) : bitsOf ((encFB page major fn d a).word p) 13 10 = major :=
  (encFB_fields hm hf).major
@[simp] theorem encFB_word_fn (hm : major < 15) (hf : fn < 16) : bitsOf ((encFB page major fn d a).word p) 3 0 = fn :=
  (encFB_fields hm hf).fn
@[simp] theorem encFB_word_b0 (hm : major < 15) (hf : fn < 16) : bitOf ((encFB page major fn d a).word p) 0 = (fn % 2 == 1) :=
  (encFB_fields hm hf).b0
@[simp] theorem encFB_word_f1 (hm : major < 15) (hf : fn < 16) : bitsOf ((encFB page major fn d a).word p) 9 7 = lo3 d :=
  (encFB_fields hm hf).f1
@[simp] theorem encFM_word_major {q : Pfx} {loc : Bool} {off : Int} (hm : major < 15) (ho : op < 8) :
    bitsOf ((encFM page major op q d a loc off).word p) 13 10 = major := (encFM_fields hm ho).major
@[simp] theorem encFM_word_op {q : Pfx} {loc : Bool} {off : Int} (hm : major < 15) (ho : op < 8) :
    bitsOf ((encFM page major op q d a loc off).word p) 3 1 = op := by
  have := Bool.toNat_le loc
  rw [(encFM_fields hm ho).f3]; omega
@[simp] theorem encFM_word_loc {q : Pfx} {loc : Bool} {off : Int} (hm : major < 15) (ho : op < 8) :
    bitOf ((encFM page major op q d a loc off).word p) 0 = loc := by
  rw [(encFM_fields hm ho).b0, Nat.mul_add_mod_self_right]; cases loc <;> rfl
@[simp] theorem encFD_word_major {q : Pfx} {v : Int} (hf : fn < 8) : bitsOf ((encFD fn q d v).word p) 13 10 = 9 := (encFD_fields hf).major
@[simp] theorem encFD_word_fn {q : Pfx} {v : Int} (hf : fn < 8) : bitsOf ((encFD fn q d v).word p) 6 4 = fn := (encFD_fields hf).f2
@[simp] theorem encFK_word_major {q : Pfx} {v : Int} (ho : op < 8) : bitsOf ((encFK op q a v).word p) 13 10 = 0 := (encFK_fields ho).major
@[simp] theorem encFK_word_op {q : Pfx} {v : Int} (ho : op < 8) : bitsOf ((encFK op q a v).word p) 9 7 = op := (encFK_fields ho).f1
@[simp] theorem encFK_word_fn {q : Pfx} {v : Int} (ho : op < 8) : bitsOf ((encFK op q a v).word p) 3 0 = immLow v 4 := (encFK_fields ho).fn
@[simp] theorem encMisc_word_major {q : Pfx} {n : Nat} (hf : fn < 16) : bitsOf ((encMisc fn q n).word p) 13 10 = 0 := (encMisc_fields hf).major
@[simp] theorem encMisc_word_op {q : Pfx} {n : Nat} (hf : fn < 16) : bitsOf ((encMisc fn q n).word p) 9 7 = 0 := (encMisc_fields hf).f1
@[simp] theorem encMisc_word_fn {q : Pfx} {n : Nat} (hf : fn < 16) : bitsOf ((encMisc fn q n).word p) 3 0 = fn := (encMisc_fields hf).fn

/-! ### What a row builds from an encoding -/

/-- The row is there, has these modifiers and this queue select, and builds i from r. -/
def Builds (row : Option Row) (r : Raw) (mods : ModKind) (qs : QsKind) (i : Instr) : Prop :=
  ∃ x, row = some x ∧ x.mods = mods ∧ x.qs = qs ∧ x.build r = some i

theorem builds_when {r : Raw} {mods : ModKind} {qs : QsKind} {branch c : Bool} {build : Raw → Option Instr} {i j : Instr}
    (hbuild : build r = when c j) (hc : c = true) (hj : j = i) :
    Builds (some { mods := mods, qs := qs, branch := branch, build := build }) r mods qs i :=
  ⟨_, rfl, rfl, rfl, by simp [hbuild, when, hc, hj]⟩

theorem raw_pxi_isEmpty (h : p.npxi = 0) : (e.raw p).pxi.isEmpty = true := by simp [Enc.raw, h, pxiWords]

/-- The operand check of R61, field by field. -/
theorem chk_raw {m x y z : Nat} {pxi : Bool} {A B C : FieldUse} (F : WordFields e p m x y z) (hx : pxi = true ∨ p.npxi = 0)
    (h1 : A.ok x e.h1 = true) (h2 : B.ok y e.h2 = true) (h3 : C.ok (z / 2) e.h3 = true) : (e.raw p).chk pxi A B C = true := by
  have hpxi : (pxi || (e.raw p).pxi.isEmpty) = true := by rcases hx with h | h <;> simp [h, raw_pxi_isEmpty]
  have e1 : (e.raw p).f1 = x := F.f1
  have e2 : (e.raw p).f2 = y := F.f2
  have e3 : (e.raw p).f3 = z / 2 := F.f3
  simp only [Raw.chk, hpxi, e1, e2, e3, Bool.and_eq_true, true_and]
  exact ⟨⟨h1, h2⟩, h3⟩

theorem chkK_raw {m x y z : Nat} {pxi : Bool} {A B : FieldUse} (F : WordFields e p m x y z) (hx : pxi = true ∨ p.npxi = 0)
    (h1 : A.ok y e.h1 = true) (h2 : B.ok (z / 2) e.h2 = true) (h3 : e.h3 = false) : (e.raw p).chkK pxi A B = true := by
  have hpxi : (pxi || (e.raw p).pxi.isEmpty) = true := by rcases hx with h | h <;> simp [h, raw_pxi_isEmpty]
  have e2 : (e.raw p).f2 = y := F.f2
  have e3 : (e.raw p).f3 = z / 2 := F.f3
  have e4 : (e.raw p).h3 = false := h3
  simp only [Raw.chkK, hpxi, e2, e3, e4, Bool.and_eq_true, true_and, Bool.not_false, and_true]
  exact ⟨h1, h2⟩

/-- A register field that a queue select replaces holds 0 (R46). -/
theorem rep_ok {q : Qs} {x : Fin 16} (h : p.qs = q → x = 0) : ((e.raw p).rep q .g).ok (lo3 x) (hi x) = true := by
  unfold Raw.rep
  split
  · next hq => rw [h hq]; rfl
  · rfl

theorem low_ok {n m : Nat} (hn : n ≤ m) (hm : m < 8) : (FieldUse.lo m).ok (lo3 (low n)) (hi (low n)) = true := by
  rw [lo3_low (by omega), hi_low (by omega)]; simp [FieldUse.ok, hn]

theorem encFA_half (hf : f < 2) : (lo3 b * 2 + f) / 2 = lo3 b := by omega

/-! ### The operand fields, as the decoder reads them -/

@[simp] theorem raw_pfx : (e.raw p).pfx = p := rfl
@[simp] theorem raw_w : (e.raw p).w = e.word p := rfl
@[simp] theorem raw_h1 : (e.raw p).h1 = e.h1 := rfl
@[simp] theorem raw_h2 : (e.raw p).h2 = e.h2 := rfl
@[simp] theorem raw_h3 : (e.raw p).h3 = e.h3 := rfl

/-- A register's field, read with its H bit. -/
theorem WordFields.g1 {m y z : Nat} (F : WordFields e p m (lo3 d) y z) (h : e.h1 = hi d) : (e.raw p).g1 = d := by
  rw [Raw.g1, show (e.raw p).f1 = lo3 d from F.f1, raw_h1, h, fin_lo3_hi]
theorem WordFields.g2 {m x z : Nat} (F : WordFields e p m x (lo3 a) z) (h : e.h2 = hi a) : (e.raw p).g2 = a := by
  rw [Raw.g2, show (e.raw p).f2 = lo3 a from F.f2, raw_h2, h, fin_lo3_hi]
theorem WordFields.k1 {m x z : Nat} (F : WordFields e p m x (lo3 a) z) (h : e.h1 = hi a) : (e.raw p).k1 = a := by
  rw [Raw.k1, show (e.raw p).f2 = lo3 a from F.f2, raw_h1, h, fin_lo3_hi]
theorem WordFields.k2 {m x y z : Nat} (F : WordFields e p m x y z) (hz : z / 2 = lo3 d) (h : e.h2 = hi d) : (e.raw p).k2 = d := by
  rw [Raw.k2, show (e.raw p).f3 = lo3 d from F.f3.trans hz, raw_h2, h, fin_lo3_hi]

@[simp] theorem encFA_f1 (hm : major < 15) (hf : f < 2) : ((encFA page major f d a b).raw p).f1 = lo3 d := (encFA_fields hm hf).f1
@[simp] theorem encFA_f2 (hm : major < 15) (hf : f < 2) : ((encFA page major f d a b).raw p).f2 = lo3 a := (encFA_fields hm hf).f2
@[simp] theorem encFA_f3 (hm : major < 15) (hf : f < 2) : ((encFA page major f d a b).raw p).f3 = lo3 b :=
  (encFA_fields hm hf).f3.trans (by omega)
@[simp] theorem encFA_g1 (hm : major < 15) (hf : f < 2) : ((encFA page major f d a b).raw p).g1 = d := (encFA_fields hm hf).g1 rfl
@[simp] theorem encFA_g2 (hm : major < 15) (hf : f < 2) : ((encFA page major f d a b).raw p).g2 = a := (encFA_fields hm hf).g2 rfl
@[simp] theorem encFA_g3 (hm : major < 15) (hf : f < 2) : ((encFA page major f d a b).raw p).g3 = b := by
  rw [Raw.g3, encFA_f3 hm hf]; exact fin_lo3_hi b
@[simp] theorem encFA_b0 (hm : major < 15) (hf : f < 2) : ((encFA page major f d a b).raw p).b0 = (f == 1) := encFA_word_b0 hm hf

@[simp] theorem encFB_f1 (hm : major < 15) (hf : fn < 16) : ((encFB page major fn d a).raw p).f1 = lo3 d := (encFB_fields hm hf).f1
@[simp] theorem encFB_f2 (hm : major < 15) (hf : fn < 16) : ((encFB page major fn d a).raw p).f2 = lo3 a := (encFB_fields hm hf).f2
@[simp] theorem encFB_g1 (hm : major < 15) (hf : fn < 16) : ((encFB page major fn d a).raw p).g1 = d := (encFB_fields hm hf).g1 rfl
@[simp] theorem encFB_g2 (hm : major < 15) (hf : fn < 16) : ((encFB page major fn d a).raw p).g2 = a := (encFB_fields hm hf).g2 rfl

section
variable {q : Pfx} {v : Int} {loc : Bool}

@[simp] theorem encFM_f1 (hm : major < 15) (ho : op < 8) : ((encFM page major op q d a loc v).raw p).f1 = lo3 d := (encFM_fields hm ho).f1
@[simp] theorem encFM_f2 (hm : major < 15) (ho : op < 8) : ((encFM page major op q d a loc v).raw p).f2 = lo3 a := (encFM_fields hm ho).f2
@[simp] theorem encFM_g1 (hm : major < 15) (ho : op < 8) : ((encFM page major op q d a loc v).raw p).g1 = d :=
  (encFM_fields hm ho).g1 rfl
@[simp] theorem encFM_g2 (hm : major < 15) (ho : op < 8) : ((encFM page major op q d a loc v).raw p).g2 = a :=
  (encFM_fields hm ho).g2 rfl
@[simp] theorem encFM_b0 (hm : major < 15) (ho : op < 8) : ((encFM page major op q d a loc v).raw p).b0 = loc := encFM_word_loc hm ho
@[simp] theorem encFD_g1 (hf : fn < 8) : ((encFD fn q d v).raw p).g1 = d := (encFD_fields hf).g1 rfl
theorem encFD_fn (hf : fn < 8) : ((encFD fn q d v).raw p).fn = immLow v 4 := (encFD_fields hf).fn
theorem encFK_fn (ho : op < 8) : ((encFK op q a v).raw p).fn = immLow v 4 := (encFK_fields ho).fn
@[simp] theorem encFK_k1 (ho : op < 8) : ((encFK op q a v).raw p).k1 = a := (encFK_fields ho).k1 rfl

end

/-- A number that a field holds, read back from it. -/
@[simp] theorem fin_lo3_low {n : Nat} [NeZero n] (x : Fin n) (hn : n ≤ 8) : fin n (lo3 (low x.val)) = x := by
  rw [lo3_low (by omega), fin_val]

@[simp] theorem pairOf_lo3_low (x : Fin 4) : pairOf (lo3 (low (2 * x.val))) = x := by
  rw [lo3_low (by omega), pairOf, Nat.mul_div_cancel_left _ (by decide), fin_val]

@[simp] theorem lo3_low_bool (k : Bool) : (lo3 (low k.toNat) == 1) = k := by cases k <;> rfl

/-- No H bit goes with a number. -/
@[simp] theorem hi_low_fin {n : Nat} (x : Fin n) (hn : n ≤ 8) : hi (low x.val) = false := hi_low (by omega)
@[simp] theorem hi_low_pair (x : Fin 4) : hi (low (2 * x.val)) = false := hi_low (by omega)
@[simp] theorem hi_low_bool (k : Bool) : hi (low k.toNat) = false := by cases k <;> rfl

theorem num_ok {n m : Nat} (x : Fin n) (hn : n = m + 1) (hm : m < 8) : (FieldUse.lo m).ok (lo3 (low x.val)) (hi (low x.val)) = true :=
  low_ok (by omega) hm

theorem bool_ok (k : Bool) : (FieldUse.lo 1).ok (lo3 (low k.toNat)) (hi (low k.toNat)) = true := by cases k <;> rfl

theorem pair_ok (x : Fin 4) : FieldUse.ev.ok (lo3 (low (2 * x.val))) (hi (low (2 * x.val))) = true := by
  rw [lo3_low (by omega), hi_low_pair]; simp [FieldUse.ok]

theorem even_ok (h : even16 d = true) : FieldUse.ge.ok (lo3 d) (hi d) = true := by
  simp only [even16, beq_iff_eq] at h
  simp only [FieldUse.ok, lo3, beq_iff_eq]
  omega

/-! ### What the rows build -/

theorem builds_rowFA {qs : QsKind} {mk : Pfx → Fin 16 → Fin 16 → Fin 16 → Instr} (hm : major < 15) (hf : f < 2) (hx : p.npxi = 0)
    (hd : p.qs = .dstQ → d = 0) (hb : p.qs = .srcDq → b = 0) :
    Builds (rowFA qs mk) ((encFA page major f d a b).raw p) .none qs (mk p d a b) :=
  builds_when rfl (chk_raw (encFA_fields hm hf) (.inr hx) (rep_ok hd) rfl (by rw [encFA_half hf]; exact rep_ok hb)) (by simp [hm, hf])

theorem builds_rowFB {qs : QsKind} {mk : Pfx → Fin 16 → Fin 16 → Instr} (hm : major < 15) (hf : fn < 16) (hx : p.npxi = 0)
    (ha : p.qs = .srcDq → a = 0) : Builds (rowFB qs mk) ((encFB page major fn d a).raw p) .none qs (mk p d a) :=
  builds_when rfl (chk_raw (encFB_fields hm hf) (.inr hx) rfl (rep_ok ha) rfl) (by simp [hm, hf])

theorem builds_rowAtomic {A : FieldUse} {mk : Pfx → Fin 16 → Fin 16 → Instr} (hm : major < 15) (hf : fn < 16) (hx : p.npxi = 0)
    (hA : A.ok (lo3 d) (hi d) = true) : Builds (rowAtomic A mk) ((encFB page major fn d a).raw p) .atomic .none (mk p d a) :=
  builds_when rfl (chk_raw (encFB_fields hm hf) (.inr hx) hA rfl rfl) (by simp [hm, hf])

theorem builds_rowU_FA {A B C : FieldUse} {mk : Raw → Instr} {i : Instr} (hm : major < 15) (hf : f < 2) (hx : p.npxi = 0)
    (hA : A.ok (lo3 d) (hi d) = true) (hB : B.ok (lo3 a) (hi a) = true) (hC : C.ok (lo3 b) (hi b) = true)
    (hi : mk ((encFA page major f d a b).raw p) = i) : Builds (rowU A B C mk) ((encFA page major f d a b).raw p) .none .none i :=
  builds_when rfl (chk_raw (encFA_fields hm hf) (.inr hx) hA hB (by rw [encFA_half hf]; exact hC)) hi

theorem builds_rowU_FB {A B C : FieldUse} {mk : Raw → Instr} {i : Instr} (hm : major < 15) (hf : fn < 16) (hx : p.npxi = 0)
    (hA : A.ok (lo3 d) (hi d) = true) (hB : B.ok (lo3 a) (hi a) = true) (hC : C.ok (fn / 2) false = true)
    (hi : mk ((encFB page major fn d a).raw p) = i) : Builds (rowU A B C mk) ((encFB page major fn d a).raw p) .none .none i :=
  builds_when rfl (chk_raw (encFB_fields hm hf) (.inr hx) hA hB hC) hi

theorem builds_row3 {mk : Pfx → Fin 16 → Fin 16 → Fin 16 → Instr} (hm : major < 15) (hf : f < 2) (hx : p.npxi = 0) :
    Builds (row3 mk) ((encFA page major f d a b).raw p) .none .none (mk p d a b) :=
  builds_rowU_FA hm hf hx rfl rfl rfl (by simp [hm, hf])

theorem builds_row2 {mk : Pfx → Fin 16 → Fin 16 → Instr} (hm : major < 15) (hf : fn < 16) (hx : p.npxi = 0) :
    Builds (row2 mk) ((encFB page major fn d a).raw p) .none .none (mk p d a) :=
  builds_rowU_FB hm hf hx rfl rfl rfl (by simp [hm, hf])

theorem builds_row1 {mk : Pfx → Fin 16 → Instr} (hm : major < 15) (hf : fn < 16) (hx : p.npxi = 0) :
    Builds (row1 mk) ((encFB page major fn d 0).raw p) .none .none (mk p d) :=
  builds_rowU_FB hm hf hx rfl rfl rfl (by simp [hm, hf])

/-- The rows of versioned words (R126 to R129). -/
theorem builds_vw {mods : ModKind} {A B : FieldUse} {mk : Raw → Instr} {i : Instr} (hm : major < 15) (hf : fn < 16) (hx : p.npxi = 0)
    (hA : A.ok (lo3 d) (hi d) = true) (hB : B.ok (lo3 a) (hi a) = true) (hi : mk ((encFB page major fn d a).raw p) = i) :
    Builds (some { mods := mods, build := fun r => when (r.chk false A B .no) (mk r) })
      ((encFB page major fn d a).raw p) mods .none i :=
  builds_when rfl (chk_raw (encFB_fields hm hf) (.inr hx) hA hB rfl) hi

section
variable {v : Int} {loc lim : Bool} {mk : Pfx → Fin 16 → Int → Instr}

theorem builds_rowMem {store : Bool} {mk : Pfx → Fin 16 → Fin 16 → Bool → Int → Instr} (hm : major < 15) (ho : op < 8) (hn : p.npxi ≤ 4)
    (hd : p.qs = .dstQ → d = 0) (hfits : ImmUse.fits ⟨0, true, v, lim⟩ p.npxi = true) :
    Builds (rowMem store mk loc) ((encFM page major op p d a loc v).raw p) (if loc then .none else if store then .store else .load)
      (if store then .none else .dst) (mk p d a loc v) :=
  builds_when rfl (chk_raw (encFM_fields hm ho) (.inl rfl) (rep_ok hd) rfl rfl)
    (by rw [imm_raw hn hfits rfl (immLow_zero v).symm, encFM_g1 hm ho, encFM_g2 hm ho, raw_pfx])

theorem builds_vmem {mk : Pfx → Fin 16 → Fin 16 → Bool → Int → Instr} (hm : major < 15) (ho : op < 8) (hn : p.npxi ≤ 4)
    (hfits : ImmUse.fits ⟨0, true, v, lim⟩ p.npxi = true) :
    Builds (some { build := fun r => when (r.chk true .g .g .no) (mk r.pfx r.g1 r.g2 r.b0 (r.imm 0 0 true)) })
      ((encFM page major op p d a loc v).raw p) .none .none (mk p d a loc v) :=
  builds_when rfl (chk_raw (encFM_fields hm ho) (.inl rfl) rfl rfl rfl)
    (by rw [imm_raw hn hfits rfl (immLow_zero v).symm, encFM_g1 hm ho, encFM_g2 hm ho, encFM_b0 hm ho, raw_pfx])

theorem builds_rowFD {qs : QsKind} (hf : fn < 8) (hn : p.npxi ≤ 4) (hfits : ImmUse.fits ⟨4, true, v, lim⟩ p.npxi = true) :
    Builds (rowFD qs mk) ((encFD fn p d v).raw p) .none qs (mk p d v) :=
  builds_when rfl rfl (by rw [imm_raw hn hfits rfl (encFD_fn hf), encFD_g1 hf, raw_pfx])

theorem builds_rowShift {mk : Pfx → Fin 16 → Nat → Instr} {n : Nat} (hf : fn < 8) (hn : p.npxi ≤ 4)
    (hfits : ImmUse.fits ⟨4, false, n, decide (n < 64)⟩ p.npxi = true) : Builds (rowShift mk) ((encFD fn p d n).raw p) .none .src (mk p d n) := by
  have hv : ((encFD fn p d n).raw p).imm ((encFD fn p d n).raw p).fn 4 false = n := imm_raw hn hfits rfl (encFD_fn hf)
  have hlim : n < 64 := of_decide_eq_true (Bool.and_eq_true_iff.1 hfits).1
  exact builds_when rfl (by rw [hv, decide_eq_true (by exact_mod_cast hlim)]; rfl) (by simp [hv, hf])

end

end Sys2Proof.Machine

end

section
/-! PROOF. What the rows of the formats FJ, FK, FX and of page 2 build (R48, R55). -/

namespace Sys2Proof.Machine
open Sys2Proof.Laws.BaseWord (lo3_lt immLow_lt Good)

variable {e : Enc} {p : Pfx} {v : Int}

/-! ### Words whose low seven bits are one field, or a two-bit and a five-bit one -/

/-- The fields of a base word that is a major, a field of three bits and one of seven. -/
structure LongFields (e : Enc) (p : Pfx) (m x low : Nat) : Prop where
  major : bitsOf (e.word p) 13 10 = m
  f1 : bitsOf (e.word p) 9 7 = x
  long : bitsOf (e.word p) 6 0 = low
  cond : bitsOf (e.word p) 6 5 = low / 32
  short : bitsOf (e.word p) 4 0 = low % 32

theorem longFields {m x low : Nat} (hbase : e.base = m * 1024 + x * 128 + low) (hm : m < 15) (hx : x < 8) (hlow : low < 128) :
    LongFields e p m x low := by
  have hlt : e.base < 15 * 1024 := by omega
  constructor
  all_goals
    rw [word_bits hlt (by decide) (by decide), hbase]
    simp only [Nat.reducePow, Nat.reduceAdd, Nat.reduceSub]
    omega

theorem LongFields.g1 {m low : Nat} {d : Fin 16} (F : LongFields e p m (lo3 d) low) (h : e.h1 = hi d) : (e.raw p).g1 = d := by
  rw [Raw.g1, show (e.raw p).f1 = lo3 d from F.f1, raw_h1, h, fin_lo3_hi]

theorem encFJ_fields {c : Nat} {q : Pfx} {a : Fin 16} (hc : c < 4) : LongFields (encFJ c q a v) p 14 (lo3 a) (c * 32 + immLow v 5) :=
  longFields (by simp only [encFJ]; omega) (by decide) (lo3_lt a) (by have := immLow_lt v 5; omega)

@[simp] theorem encFJ_word_major {c : Nat} {q : Pfx} {a : Fin 16} (hc : c < 4) : bitsOf ((encFJ c q a v).word p) 13 10 = 14 :=
  (encFJ_fields hc).major
@[simp] theorem encFJ_word_cond {c : Nat} {q : Pfx} {a : Fin 16} (hc : c < 4) : bitsOf ((encFJ c q a v).word p) 6 5 = c := by
  have := immLow_lt v 5
  rw [(encFJ_fields hc).cond]; omega

theorem builds_rowBranch {c : Nat} {a : Fin 16} {lim : Bool} {mk : Pfx → Fin 16 → Int → Instr} (hc : c < 4) (hn : p.npxi ≤ 4)
    (ha : p.qs = .bqCond → a = 0) (hfits : ImmUse.fits ⟨5, true, v, lim⟩ p.npxi = true) :
    Builds (rowBranch mk) ((encFJ c p a v).raw p) .none .cond (mk p a v) := by
  have F := encFJ_fields (p := p) (q := p) (a := a) (v := v) hc
  have hf1 : ((encFJ c p a v).raw p).f1 = lo3 a := F.f1
  have hv : ((encFJ c p a v).raw p).imm (bitsOf ((encFJ c p a v).raw p).w 4 0) 5 true = v :=
    imm_raw hn hfits rfl (F.short.trans (by have := immLow_lt v 5; omega))
  have hrep := rep_ok (e := encFJ c p a v) ha
  refine builds_when rfl ?_ (by rw [hv, F.g1 rfl, raw_pfx])
  rw [hf1, show ((encFJ c p a v).raw p).h1 = hi a from rfl, hrep]; rfl

/-! ### Format FK, whose fields stand at [6:4] and below (R48) -/

section
variable {a : Fin 16} {op fn n : Nat} {lim : Bool}

theorem encFK_imm {sgn : Bool} (ho : op < 8) (hn : p.npxi ≤ 4) (hfits : ImmUse.fits ⟨4, sgn, v, lim⟩ p.npxi = true) :
    ((encFK op p a v).raw p).imm ((encFK op p a v).raw p).fn 4 sgn = v := imm_raw hn hfits rfl (encFK_fn ho)

/-- The rows of FK with a register and an immediate or a number of four bits. -/
theorem encFK_chk (ho : op < 8) : ((encFK op p a v).raw p).chkK true .g .no = true :=
  chkK_raw (encFK_fields ho) (.inl rfl) rfl rfl rfl

theorem builds_FK {branch : Bool} {mk : Pfx → Fin 16 → Int → Instr} (ho : op < 8) (hn : p.npxi ≤ 4)
    (hfits : ImmUse.fits ⟨4, true, v, lim⟩ p.npxi = true) :
    Builds (some { branch := branch, build := fun r => when (r.chkK true .g .no) (mk r.pfx r.k1 (r.imm r.fn 4 true)) })
      ((encFK op p a v).raw p) .none .none (mk p a v) :=
  builds_when rfl (encFK_chk ho) (by rw [encFK_imm ho hn hfits, encFK_k1 ho, raw_pfx])

theorem builds_control {mk : Pfx → Fin 16 → Nat → Instr} (ho : op < 8) (hn : p.npxi ≤ 4)
    (hfits : ImmUse.fits ⟨4, false, n, crValid n⟩ p.npxi = true) :
    Builds (some { build := fun r => when (r.chkK true .g .no && crValid (r.imm r.fn 4 false).toNat) (mk r.pfx r.k1 (r.imm r.fn 4 false).toNat) })
      ((encFK op p a n).raw p) .none .none (mk p a n) := by
  have hv := encFK_imm (a := a) ho hn hfits
  have hvalid : crValid n = true := (Bool.and_eq_true_iff.1 hfits).1
  exact builds_when rfl (by rw [encFK_chk ho, hv, Int.toNat_natCast, hvalid]; rfl) (by rw [hv, encFK_k1 ho, raw_pfx, Int.toNat_natCast])

theorem encMisc_chk (hf : fn < 16) : ((encMisc fn p n).raw p).chkK true (.lo 7) .no = true :=
  chkK_raw (encMisc_fields hf) (.inl rfl) (by simp [FieldUse.ok, encMisc]; omega) rfl rfl

theorem encMisc_imm (hf : fn < 16) (hn : p.npxi ≤ 4) (hfits : ImmUse.fits ⟨3, false, n, lim⟩ p.npxi = true) :
    (((encMisc fn p n).raw p).imm ((encMisc fn p n).raw p).f2 3 false).toNat = n := by
  have hv : ((encMisc fn p n).raw p).imm ((encMisc fn p n).raw p).f2 3 false = n :=
    imm_raw hn hfits rfl ((encMisc_fields hf).f2.trans (immLow_natCast n 3).symm)
  rw [hv, Int.toNat_natCast]

theorem builds_misc {mk : Pfx → Nat → Instr} (hf : fn < 16) (hn : p.npxi ≤ 4) (hfits : ImmUse.fits ⟨3, false, n, lim⟩ p.npxi = true) :
    Builds (some { build := fun r => when (r.chkK true (.lo 7) .no) (mk r.pfx (r.imm r.f2 3 false).toNat) })
      ((encMisc fn p n).raw p) .none .none (mk p n) :=
  builds_when rfl (encMisc_chk hf) (by rw [encMisc_imm hf hn hfits, raw_pfx])

end

/-! ### Format FX (R48): the accumulator and two tiles -/

/-- The fields of an FX word. -/
structure FxFields (e : Enc) (p : Pfx) (s ta tb op : Nat) : Prop where
  major : bitsOf (e.word p) 13 10 = 2
  acc : bitsOf (e.word p) 9 8 = s
  ta : bitsOf (e.word p) 7 5 = ta
  tb : bitsOf (e.word p) 4 2 = tb
  op : bitsOf (e.word p) 1 0 = op

theorem fxFields {s : Fin 4} {ta tb op : Nat} (hbase : e.base = (encFX op s ta tb).base) (ha : ta < 8) (hb : tb < 8) (ho : op < 4) :
    FxFields e p s ta tb op := by
  have := s.isLt
  simp only [encFX] at hbase
  have hlt : e.base < 15 * 1024 := by omega
  constructor
  all_goals
    rw [word_bits hlt (by decide) (by decide), hbase]
    simp only [Nat.reducePow, Nat.reduceAdd, Nat.reduceSub]
    omega

theorem builds_rowFX {s : Fin 4} {ta tb : Fin 8} {op : Nat} {mk : Pfx → Fin 4 → Fin 8 → Fin 8 → Instr} (ho : op < 4) (hx : p.npxi = 0) :
    Builds (rowFX mk) ((encFX op s ta tb).raw p) .none .none (mk p s ta tb) := by
  have F : FxFields (encFX op s ta tb) p s ta tb op := fxFields rfl ta.isLt tb.isLt ho
  exact builds_when rfl (by simp [raw_pxi_isEmpty hx, encFX]) (by simp only [raw_w, F.acc, F.ta, F.tb, fin_val, raw_pfx])

@[simp] theorem encFX_word_major {s : Fin 4} {ta tb : Fin 8} {op : Nat} (ho : op < 4) : bitsOf ((encFX op s ta tb).word p) 13 10 = 2 :=
  (fxFields rfl ta.isLt tb.isLt ho).major
@[simp] theorem encFX_word_op {s : Fin 4} {ta tb : Fin 8} {op : Nat} (ho : op < 4) : bitsOf ((encFX op s ta tb).word p) 1 0 = op :=
  (fxFields rfl ta.isLt tb.isLt ho).op

/-! ### Tile moves (R55) -/

section
variable {A : FieldUse} {d a : Fin 16} {op : Nat} {lim : Bool}

theorem builds_rowTile {mk : Raw → Instr} {i : Instr} (ho : op < 8) (hA : A.ok (lo3 d) (hi d) = true)
    (hi : mk ((encFM 2 1 op p d a true v).raw p) = i) : Builds (rowTile A mk) ((encFM 2 1 op p d a true v).raw p) .none .none i :=
  builds_when rfl (by rw [chk_raw (encFM_fields (by decide) ho) (.inl rfl) hA rfl rfl, encFM_b0 (by decide) ho]; rfl) hi

theorem encFM_imm {page major : Nat} {loc : Bool} (hn : p.npxi ≤ 4) (hfits : ImmUse.fits ⟨0, true, v, lim⟩ p.npxi = true) :
    ((encFM page major op p d a loc v).raw p).imm 0 0 true = v := imm_raw hn hfits rfl (immLow_zero v).symm

end

end Sys2Proof.Machine

end

section
/-! PROOF. O1: the encoding of every instruction is read back. -/

namespace Sys2Proof.Machine
open Sys2Proof.Laws.BaseWord (lo3_lt immLow_lt Good encFA_good encFB_good encFM_good encFD_good encFJ_good encFK_good encMisc_good encFX_good)

/-! ### Every instruction's encoding is read back -/

section
variable {page major f fn op c : Nat} {p : Pfx} {d a b : Fin 16} {mods : ModKind} {qs : QsKind} {imm : Option ImmUse} {zero : Bool}
  {i : Instr} {regs : List (Fin 16)} {v : Int} {loc : Bool}

theorem reads_FA (hp : page ≤ 6) (hm : major < 15) (hf : f < 2) (hlow : (∀ r ∈ regs, r.val < 8) → hi d = false ∧ hi a = false ∧ hi b = false)
    (h : Builds (rowOf page ((encFA page major f d a b).word p)) ((encFA page major f d a b).raw p) mods qs i) :
    Reads i ⟨p, page, regs, imm, mods, qs, zero⟩ (encFA page major f d a b) :=
  ⟨rfl, encFA_good _ _ _ hp hm hf, hlow, h⟩

theorem reads_FB (hp : page ≤ 6) (hm : major < 15) (hf : fn < 16) (hlow : (∀ r ∈ regs, r.val < 8) → hi d = false ∧ hi a = false)
    (h : Builds (rowOf page ((encFB page major fn d a).word p)) ((encFB page major fn d a).raw p) mods qs i) :
    Reads i ⟨p, page, regs, imm, mods, qs, zero⟩ (encFB page major fn d a) :=
  ⟨rfl, encFB_good _ _ hp hm hf, fun hr => ⟨(hlow hr).1, (hlow hr).2, rfl⟩, h⟩

theorem reads_FM (hp : page ≤ 6) (hm : major < 15) (ho : op < 8) (hlow : (∀ r ∈ regs, r.val < 8) → hi d = false ∧ hi a = false)
    (h : Builds (rowOf page ((encFM page major op p d a loc v).word p)) ((encFM page major op p d a loc v).raw p) mods qs i) :
    Reads i ⟨p, page, regs, imm, mods, qs, zero⟩ (encFM page major op p d a loc v) :=
  ⟨rfl, encFM_good _ _ _ _ _ hp hm ho, fun hr => ⟨(hlow hr).1, (hlow hr).2, rfl⟩, h⟩

theorem reads_FD (hf : fn < 8) (h : Builds (rowOf 0 ((encFD fn p d v).word p)) ((encFD fn p d v).raw p) mods qs i) :
    Reads i ⟨p, 0, [d], imm, mods, qs, zero⟩ (encFD fn p d v) :=
  ⟨rfl, encFD_good _ _ _ hf, fun hr => ⟨hi_eq_false (hr d (List.mem_singleton_self d)), rfl, rfl⟩, h⟩

theorem reads_FJ (hc : c < 4) (h : Builds (rowOf 0 ((encFJ c p a v).word p)) ((encFJ c p a v).raw p) mods qs i) :
    Reads i ⟨p, 0, [a], imm, mods, qs, zero⟩ (encFJ c p a v) :=
  ⟨rfl, encFJ_good _ _ _ hc, fun hr => ⟨hi_eq_false (hr a (List.mem_singleton_self a)), rfl, rfl⟩, h⟩

theorem reads_FK (ho : op < 8) (h : Builds (rowOf 0 ((encFK op q a v).word p)) ((encFK op q a v).raw p) mods qs i) :
    Reads i ⟨p, 0, [a], imm, mods, qs, zero⟩ (encFK op q a v) :=
  ⟨rfl, encFK_good _ _ _ ho, fun hr => ⟨hi_eq_false (hr a (List.mem_singleton_self a)), rfl, rfl⟩, h⟩

theorem reads_misc {n : Nat} (hf : fn < 16) (h : Builds (rowOf 0 ((encMisc fn q n).word p)) ((encMisc fn q n).raw p) mods qs i) :
    Reads i ⟨p, 0, [], imm, mods, qs, zero⟩ (encMisc fn q n) :=
  ⟨rfl, encMisc_good _ _ hf, fun _ => ⟨rfl, rfl, rfl⟩, h⟩

end

theorem zero_of {q q' : Qs} {x : Fin 16} (h : (q != q' || x == 0) = true) (hq : q = q') : x = 0 := by simpa [hq] using h

theorem ne_dstQ_of_src {q : Qs} {x : Fin 16} (h : qsOk .src q = true) (hq : q = .dstQ) : x = 0 := by subst hq; cases h

/-! Single instructions of a format of their own. -/

section
variable {e : Enc} {p : Pfx} {i : Instr} {d a b : Fin 16} {v : Int} {lim : Bool} {imm : Option ImmUse} {mods : ModKind} {qs : QsKind} {zero : Bool}

theorem reads_nop (hx : p.npxi = 0) : Reads (.nop p) ⟨p, 0, [], imm, .none, .none, zero⟩ (encFB 0 0 1 0 0) :=
  reads_FB (by decide) (by decide) (by decide) (fun _ => ⟨rfl, rfl⟩) (by
    simpa [rowOf, page0] using builds_when rfl (chkK_raw (encFB_fields (by decide) (by decide)) (.inr hx) rfl rfl rfl) rfl)

theorem reads_cyc (hx : p.npxi = 0) : Reads (.cyc p d) ⟨p, 0, [d], imm, .none, .none, zero⟩ (encFK 0 {} d 3) :=
  reads_FK (by decide) (by
    simpa [rowOf, page0, show immLow 3 4 = 3 from rfl] using
      builds_when rfl (chkK_raw (encFK_fields (by decide)) (.inr hx) rfl rfl rfl) (by rw [encFK_k1 (by decide), raw_pfx]))

theorem reads_fence (hx : p.npxi = 0) : Reads (.fence p) ⟨p, 0, [], imm, .fence, .none, zero⟩ (encFB 0 13 10 0 0) :=
  reads_FB (by decide) (by decide) (by decide) (fun _ => ⟨rfl, rfl⟩) (by
    simpa [rowOf, page0] using builds_vw (by decide) (by decide) hx rfl rfl (by rw [raw_pfx]))

/-- A jump whose displacement fills the low seven bits (R108). -/
theorem reads_jump {mk : Pfx → Int → Instr} {op : Nat} (he : e = { page := 0, base := op * 128 + immLow v 7, ext := immExt v 7 p.npxi })
    (ho : op < 8) (hn : p.npxi ≤ 4) (hfits : ImmUse.fits ⟨7, true, v, lim⟩ p.npxi = true)
    (hrow : ∀ w, bitsOf w 13 10 = 0 → bitsOf w 9 7 = op → page0 w =
      some { branch := true, build := fun r => when (!r.h1 && !r.h2 && !r.h3) (mk r.pfx (r.imm (bitsOf r.w 6 0) 7 true)) }) :
    Reads (mk p v) ⟨p, 0, [], imm, .none, .none, zero⟩ e := by
  have hlow := immLow_lt v 7
  have F : LongFields e p 0 op (immLow v 7) := longFields (by simp only [he]; omega) (by decide) ho hlow
  have hv : (e.raw p).imm (bitsOf (e.raw p).w 6 0) 7 true = v := imm_raw hn hfits (by rw [he]) F.long
  subst he
  refine ⟨rfl, ⟨Nat.zero_le _, by simp only; omega⟩, fun _ => ⟨rfl, rfl, rfl⟩, ?_⟩
  simp only [rowOf, hrow _ F.major F.f1]
  exact builds_when rfl rfl (by rw [hv, raw_pfx])

theorem reads_jr (he : e = { page := 0, base := 5 * 128 + lo3 a * 16, h1 := hi a }) (hx : p.npxi = 0) :
    Reads (.jr p a) ⟨p, 0, [a], imm, .none, .none, zero⟩ e := by
  have ha := lo3_lt a
  have F : WordFields e p 0 5 (lo3 a) 0 := wordFields (by rw [he]; rfl) (by decide) (by decide) ha (by decide)
  subst he
  refine ⟨rfl, ⟨Nat.zero_le _, by simp only; omega⟩, fun hr => ⟨hi_eq_false (hr a (by simp)), rfl, rfl⟩, ?_⟩
  simp only [rowOf, page0, F.major, F.f1, F.b0]
  exact builds_when rfl (chkK_raw F (.inr hx) rfl rfl rfl) (by rw [F.k1 rfl, raw_pfx])

theorem reads_jlr (he : e = { page := 0, base := 5 * 128 + lo3 a * 16 + lo3 d * 2 + 1, h1 := hi a, h2 := hi d }) (hx : p.npxi = 0) :
    Reads (.jlr p d a) ⟨p, 0, [d, a], imm, .none, .none, zero⟩ e := by
  have ha := lo3_lt a
  have hd := lo3_lt d
  have hhalf : (lo3 d * 2 + 1) / 2 = lo3 d := by omega
  have hodd : ((lo3 d * 2 + 1) % 2 == 1) = true := by simp
  have F : WordFields e p 0 5 (lo3 a) (lo3 d * 2 + 1) := wordFields (by rw [he]; simp only; omega) (by decide) (by decide) ha (by omega)
  subst he
  refine ⟨rfl, ⟨Nat.zero_le _, by simp only; omega⟩, fun hr => ⟨hi_eq_false (hr a (by simp)), hi_eq_false (hr d (by simp)), rfl⟩, ?_⟩
  simp only [rowOf, page0, F.major, F.f1, F.b0, hodd, if_true]
  exact builds_when rfl (chkK_raw F (.inr hx) rfl rfl rfl) (by rw [F.k1 rfl, F.k2 hhalf rfl, raw_pfx])

theorem reads_addi (he : e = { page := 0, base := 8 * 1024 + lo3 d * 128 + lo3 a * 16 + immLow v 4, h1 := hi d, h2 := hi a, ext := immExt v 4 p.npxi })
    (hn : p.npxi ≤ 4) (ha : p.qs = .srcDq → a = 0) (hfits : ImmUse.fits ⟨4, true, v, lim⟩ p.npxi = true) :
    Reads (.addi p d a v) ⟨p, 0, [d, a], imm, .none, .src, zero⟩ e := by
  have hlt := immLow_lt v 4
  have hd := lo3_lt d
  have ha' := lo3_lt a
  have F : WordFields e p 8 (lo3 d) (lo3 a) (immLow v 4) := wordFields (by rw [he]) (by decide) hd ha' hlt
  have hv : (e.raw p).imm (e.raw p).fn 4 true = v := imm_raw hn hfits (by rw [he]) F.fn
  subst he
  refine ⟨rfl, ⟨Nat.zero_le _, by simp only; omega⟩, fun hr => ⟨hi_eq_false (hr d (by simp)), hi_eq_false (hr a (by simp)), rfl⟩, ?_⟩
  simp only [rowOf, page0, F.major]
  exact builds_when rfl (chk_raw F (.inl rfl) rfl (rep_ok ha) rfl) (by rw [hv, F.g1 rfl, F.g2 rfl, raw_pfx])

theorem reads_li (he : e = { page := 0, base := 10 * 1024 + lo3 d * 128 + immLow v 7, h1 := hi d, ext := immExt v 7 p.npxi }) (hn : p.npxi ≤ 4)
    (hfits : ImmUse.fits ⟨7, true, v, lim⟩ p.npxi = true) : Reads (.li p d v) ⟨p, 0, [d], imm, .none, .none, zero⟩ e := by
  have hd := lo3_lt d
  have hlt := immLow_lt v 7
  have F : LongFields e p 10 (lo3 d) (immLow v 7) := longFields (by rw [he]) (by decide) hd hlt
  have hv : (e.raw p).imm (bitsOf (e.raw p).w 6 0) 7 true = v := imm_raw hn hfits (by rw [he]) F.long
  subst he
  refine ⟨rfl, ⟨Nat.zero_le _, by simp only; omega⟩, fun hr => ⟨hi_eq_false (hr d (by simp)), rfl, rfl⟩, ?_⟩
  simp only [rowOf, page0, F.major]
  exact builds_when rfl rfl (by rw [hv, F.g1 rfl, raw_pfx])

theorem reads_FX {s : Fin 4} {ta tb : Fin 8} {op : Nat} (ho : op < 4)
    (h : Builds (rowOf 2 ((encFX op s ta tb).word p)) ((encFX op s ta tb).raw p) mods qs i) :
    Reads i ⟨p, 2, [], imm, mods, qs, zero⟩ (encFX op s ta tb) :=
  ⟨rfl, encFX_good _ ho ta.isLt tb.isLt, fun _ => ⟨rfl, rfl, rfl⟩, h⟩

theorem reads_mmam {s : Fin 4} (he : e = { encFX 3 s (lo3 a) 0 with h2 := hi a }) (hx : p.npxi = 0) :
    Reads (.mmam p s a) ⟨p, 2, [a], imm, .none, .none, zero⟩ e := by
  have ha := lo3_lt a
  have F : FxFields e p s (lo3 a) 0 3 := fxFields (by rw [he]) ha (by decide) (by decide)
  have hgood : Good e := he ▸ encFX_good s (by decide) ha (by decide)
  have hpxi := raw_pxi_isEmpty (e := e) hx
  subst he
  refine ⟨rfl, hgood, fun hr => ⟨rfl, hi_eq_false (hr a (by simp)), rfl⟩, ?_⟩
  simp only [encFX, rowOf, page2] at F hpxi ⊢
  simp only [F.major, F.op]
  exact builds_when rfl (by simp only [raw_w, F.tb, hpxi]; rfl) (by simp only [raw_w, F.acc, F.ta, fin_val, raw_pfx, raw_h2, fin_lo3_hi])

theorem reads_versioned {f : Nat} (hf : f < 2) (hx : p.npxi = 0) (hi : (if f == 1 then Instr.vwst p d a b else .vwld p d a b) = i) :
    Reads i ⟨p, 3, [d, a, b], imm, .vw, .none, zero⟩ (encFA 3 1 f d a b) :=
  reads_FA (by decide) (by decide) hf (by simp +contextual [hi_eq_false]) (by
    simp only [rowOf, page3, encFA_word_major (show 1 < 15 by decide) hf]
    exact builds_when rfl (chk_raw (encFA_fields (by decide) hf) (.inr hx) rfl rfl (by rw [encFA_half hf]; rfl)) (by
      simp only [encFA_b0 (show 1 < 15 by decide) hf, encFA_g1 (show 1 < 15 by decide) hf, encFA_g2 (show 1 < 15 by decide) hf,
        encFA_g3 (show 1 < 15 by decide) hf, raw_pfx, hi]))

/-- The channel of CPOS and CWAIT stands above the two function bits (R55). -/
theorem encFB_channel {page major fn k : Nat} {ch : Fin 4} (hfn : fn = ch.val * 4 + k) (hm : major < 15) (hk : k < 4) :
    bitsOf ((encFB page major fn d a).word p) 1 0 = k ∧ fin 4 (bitsOf ((encFB page major fn d a).word p) 3 2) = ch := by
  have hd := lo3_lt d
  have ha := lo3_lt a
  have hbase : (encFB page major fn d a).base < 15 * 1024 := by simp only [encFB]; omega
  have hch : bitsOf ((encFB page major fn d a).word p) 3 2 = ch := by
    rw [word_bits hbase (by decide) (by decide)]
    simp only [encFB, Nat.reducePow, Nat.reduceAdd, Nat.reduceSub]
    omega
  refine ⟨?_, by rw [hch, fin_val]⟩
  rw [word_bits hbase (by decide) (by decide)]
  simp only [encFB, Nat.reducePow, Nat.reduceAdd, Nat.reduceSub]
  omega

theorem reads_cpos {ch : Fin 4} (hx : p.npxi = 0) : Reads (.cpos p d a ch) ⟨p, 4, [d, a], imm, .none, .none, zero⟩ (encFB 4 3 (ch.val * 4) d a) := by
  have hfn : ch.val * 4 < 16 := by omega
  obtain ⟨h10, hch⟩ := encFB_channel (page := 4) (p := p) (d := d) (a := a) (Nat.add_zero (ch.val * 4)).symm (show 3 < 15 by decide) (by decide)
  refine reads_FB (by decide) (by decide) hfn (by simp +contextual [hi_eq_false]) ?_
  simp only [rowOf, page4, encFB_word_major (show 3 < 15 by decide) hfn, h10]
  exact builds_rowU_FB (by decide) hfn hx rfl rfl rfl (by rw [raw_w, hch, encFB_g1 (by decide) hfn, encFB_g2 (by decide) hfn, raw_pfx])

theorem reads_cwait {ch : Fin 4} (hx : p.npxi = 0) : Reads (.cwait p a ch) ⟨p, 4, [a], imm, .none, .none, zero⟩ (encFB 4 3 (ch.val * 4 + 1) 0 a) := by
  have hfn : ch.val * 4 + 1 < 16 := by omega
  obtain ⟨h10, hch⟩ := encFB_channel (page := 4) (p := p) (d := 0) (a := a) (ch := ch) (k := 1) rfl (show 3 < 15 by decide) (by decide)
  refine reads_FB (by decide) (by decide) hfn (by simp +contextual [hi_eq_false]) ?_
  simp only [rowOf, page4, encFB_word_major (show 3 < 15 by decide) hfn, h10]
  exact builds_rowU_FB (by decide) hfn hx rfl rfl rfl (by rw [raw_w, hch, encFB_g2 (by decide) hfn, raw_pfx])

/-- Page 6 tells its words apart by their low seven bits. -/
theorem reads_mcall (he : e = { page := 6, base := lo3 a * 128, h1 := hi a }) (hx : p.npxi = 0) :
    Reads (.mcall p a) ⟨p, 6, [a], imm, .none, .none, zero⟩ e := by
  have ha := lo3_lt a
  have F : LongFields e p 0 (lo3 a) 0 := longFields (by rw [he]; simp only; omega) (by decide) ha (by decide)
  subst he
  refine ⟨rfl, ⟨Nat.le_refl 6, by simp only; omega⟩, fun hr => ⟨hi_eq_false (hr a (by simp)), rfl, rfl⟩, ?_⟩
  simp only [rowOf, page6, F.major, F.long]
  exact builds_when rfl (by rw [raw_pxi_isEmpty hx]; rfl) (by rw [F.g1 rfl, raw_pfx])

theorem reads_page6 {fn : Nat} {mk : Pfx → Instr} (hf : fn < 128) (hx : p.npxi = 0) (hrow : ∀ w, bitsOf w 13 10 = 0 → bitsOf w 6 0 = fn → page6 w =
      some { build := fun r => when (r.pxi.isEmpty && r.f1 == 0 && !r.h1 && !r.h2 && !r.h3) (mk r.pfx) }) :
    Reads (mk p) ⟨p, 6, [], imm, .none, .none, zero⟩ { page := 6, base := fn } := by
  have F : LongFields { page := 6, base := fn } p 0 0 fn := longFields (by simp only; omega) (by decide) (by decide) hf
  have hf1 : (Enc.raw { page := 6, base := fn } p).f1 = 0 := F.f1
  refine ⟨rfl, ⟨Nat.le_refl 6, by simp only; omega⟩, fun _ => ⟨rfl, rfl, rfl⟩, ?_⟩
  simp only [rowOf, hrow _ F.major F.long]
  exact builds_when rfl (by rw [raw_pxi_isEmpty hx, hf1]; rfl) rfl

end

theorem reads (i : Instr) (u : Use) (e : Enc) (hu : i.use = some u) (he : i.enc = some e) (h : UseHolds u) : Reads i u e := by
  have hn : u.pfx.npxi ≤ 4 := by have := h.few; omega
  cases i with
  | add p d a b | sub p d a b | and p d a b | or p d a b | xor p d a b | mul p d a b | sll p d a b | srl p d a b =>
    cases hu; cases he
    exact reads_FA (by decide) (by decide) (by decide) (by simp +contextual [hi_eq_false]) (by
      simpa [rowOf, page0] using builds_rowFA (by decide) (by decide) (h.noImm rfl) (ne_dstQ_of_src h.qs) (zero_of h.zero))
  | slt p d a b | sltu p d a b =>
    cases hu; cases he
    obtain ⟨hb, hd⟩ := Bool.and_eq_true_iff.1 h.zero
    exact reads_FA (by decide) (by decide) (by decide) (by simp +contextual [hi_eq_false]) (by
      simpa [rowOf, page0] using builds_rowFA (by decide) (by decide) (h.noImm rfl) (zero_of hd) (zero_of hb))
  | sra p d a | ror p d a | mulh p d a | mulhu p d a | div p d a | divu p d a | rem p d a | remu p d a | min p d a | max p d a
  | minu p d a | maxu p d a | seq p d a | sne p d a | andn p d a | mov p d a | neg p d a | not p d a | clz p d a | ctz p d a
  | popc p d a | brev p d a | bswap p d a | sextb p d a | sexth p d a | sextw p d a | zextb p d a | zexth p d a | zextw p d a =>
    cases hu; cases he
    exact reads_FB (by decide) (by decide) (by decide) (by simp +contextual [hi_eq_false]) (by
      simpa [rowOf, page0] using builds_rowFB (by decide) (by decide) (h.noImm rfl) (zero_of h.zero))
  | vadd p d a b | vsub p d a b | vmul p d a b | vfma p d a b | vmin p d a b | vmax p d a b | vand p d a b | vor p d a b
  | vxor p d a b | vsel p d a b | vcvtr p d a b | vqnt p d a b | vdq p d a b | vgth p d a b | vsct p d a b | handx p d a b =>
    cases hu; cases he
    exact reads_FA (by decide) (by decide) (by decide) (by simp +contextual [hi_eq_false]) (by
      simpa [rowOf, page1, page4] using builds_row3 (by decide) (by decide) (h.noImm rfl))
  | vsll p d a | vsrl p d a | vsra p d a | vandn p d a | vadds p d a | vsubs p d a | vperm p d a | vsat p d a | vscan p d a
  | vrsum p d a | vrmax p d a | vrmin p d a | vlse p d a | vbcast p d a | vrot p d a | vabs p d a | vneg p d a | vnot p d a
  | vmov p d a | vexp2 p d a | vlog2 p d a | vrcp p d a | vrsq p d a | vsplat p d a | vget p d a
  | send p d a | sendm p d a | park p d a | hand p d a | bqry p d a | cqset p d a | ttag p d a | tshape p d a | tqry p d a
  | psetm p d a | psets p d a =>
    cases hu; cases he
    exact reads_FB (by decide) (by decide) (by decide) (by simp +contextual [hi_eq_false]) (by
      simpa [rowOf, page1, page3, page4, page5] using builds_row2 (by decide) (by decide) (h.noImm rfl))
  | sendq p d | spawn p d | att p d | det p d | revoke p d | bzero p d | cpy p d | cpyw p d | cpym p d | ccan p d | task p d
  | mtload p d =>
    cases hu; cases he
    exact reads_FB (by decide) (by decide) (by decide) (by simp +contextual [hi_eq_false]) (by
      simpa [rowOf, page3, page4] using builds_row1 (by decide) (by decide) (h.noImm rfl))
  | swp p d a | aadd p d a | aand p d a | aor p d a | axor p d a | amin p d a | amax p d a | aminu p d a | amaxu p d a =>
    cases hu; cases he
    exact reads_FB (by decide) (by decide) (by decide) (by simp +contextual [hi_eq_false]) (by
      simpa [rowOf, page0] using builds_rowAtomic (by decide) (by decide) (h.noImm rfl) rfl)
  | cas p d a =>
    cases hu; cases he
    exact reads_FB (by decide) (by decide) (by decide) (by simp +contextual [hi_eq_false]) (by
      simpa [rowOf, page0] using builds_rowAtomic (by decide) (by decide) (h.noImm rfl) (even_ok h.zero))
  | ldb p d a loc off | ldbu p d a loc off | ldh p d a loc off | ldhu p d a loc off | ldw p d a loc off | ldwu p d a loc off
  | ld p d a loc off =>
    cases hu; cases he
    exact reads_FM (by decide) (by decide) (by decide) (by simp +contextual [hi_eq_false]) (by
      simpa [rowOf, page0] using builds_rowMem (store := false) (by decide) (by decide) hn (zero_of h.zero) (h.fits _ rfl))
  | stb p d a loc off | sth p d a loc off | stw p d a loc off | st p d a loc off =>
    cases hu; cases he
    have hq : p.qs = .dstQ → d = 0 := fun hq => by have := h.qs; rw [hq] at this; cases this
    exact reads_FM (by decide) (by decide) (by decide) (by simp +contextual [hi_eq_false]) (by
      simpa [rowOf, page0] using builds_rowMem (store := true) (by decide) (by decide) hn hq (h.fits _ rfl))
  | andi p d e | ori p d e | xori p d e | slti p d e | seqi p d e =>
    cases hu; cases he
    exact reads_FD (by decide) (by
      simpa [rowOf, page0] using builds_rowFD (by decide) hn (h.fits _ rfl))
  | slli p d n | srli p d n | srai p d n =>
    cases hu; cases he
    exact reads_FD (by decide) (by
      simpa [rowOf, page0] using builds_rowShift (by decide) hn (h.fits _ rfl))
  | bz p a e | bnz p a e | bltz p a e | bgez p a e =>
    cases hu; cases he
    exact reads_FJ (by decide) (by
      simpa [rowOf, page0] using builds_rowBranch (by decide) hn (zero_of h.zero) (h.fits _ rfl))
  | loop p a e | lea p a e =>
    cases hu; cases he
    exact reads_FK (by decide) (by
      simpa [rowOf, page0] using builds_FK (by decide) hn (h.fits _ rfl))
  | rdc p a cr | wrc p a cr =>
    cases hu; cases he
    exact reads_FK (by decide) (by
      simpa [rowOf, page0] using builds_control (by decide) hn (h.fits _ rfl))
  | stall p n | trap p n | brk p n =>
    cases hu; cases he
    exact reads_misc (by decide) (by
      simpa [rowOf, page0] using builds_misc (by decide) hn (h.fits _ rfl))
  | nop p => cases hu; cases he; exact reads_nop (h.noImm rfl)
  | cyc p d => cases hu; cases he; exact reads_cyc (h.noImm rfl)
  | fence p => cases hu; cases he; exact reads_fence (h.noImm rfl)
  | j p v =>
    cases hu; cases he
    exact reads_jump (op := 1) rfl (by decide) hn (h.fits _ rfl) (fun w h1 h2 => by simp only [page0, h1, h2])
  | jl p v =>
    cases hu; cases he
    exact reads_jump (op := 2) rfl (by decide) hn (h.fits _ rfl) (fun w h1 h2 => by simp only [page0, h1, h2])
  | jr p a => cases hu; cases he; exact reads_jr rfl (h.noImm rfl)
  | jlr p d a => cases hu; cases he; exact reads_jlr rfl (h.noImm rfl)
  | addi p d a v => cases hu; cases he; exact reads_addi rfl hn (zero_of h.zero) (h.fits _ rfl)
  | li p d v => cases hu; cases he; exact reads_li rfl hn (h.fits _ rfl)
  | vcmpeq p d a b | vcmplt p d a b | vcmple p d a b | vcmpne p d a b =>
    cases hu; cases he
    exact reads_FA (by decide) (by decide) (by decide) (by simp +contextual [hi_eq_false]) (by
      simpa [rowOf, page1] using builds_rowU_FA (by decide) (by decide) (h.noImm rfl) (num_ok d rfl (by decide)) rfl rfl (by simp))
  | kand p d a b | kor p d a b =>
    cases hu; cases he
    exact reads_FA (by decide) (by decide) (by decide) (by simp) (by
      simpa [rowOf, page1] using builds_rowU_FA (by decide) (by decide) (h.noImm rfl) (num_ok d rfl (by decide)) (num_ok a rfl (by decide))
        (num_ok b rfl (by decide)) (by simp))
  | pload p x c b =>
    cases hu; cases he
    exact reads_FA (by decide) (by decide) (by decide) (by simp +contextual [hi_eq_false]) (by
      simpa [rowOf, page5] using builds_rowU_FA (by decide) (by decide) (h.noImm rfl) (pair_ok x) (num_ok c rfl (by decide)) rfl (by simp))
  | pdist p d x c =>
    cases hu; cases he
    exact reads_FA (by decide) (by decide) (by decide) (by simp +contextual [hi_eq_false]) (by
      simpa [rowOf, page5] using builds_rowU_FA (by decide) (by decide) (h.noImm rfl) rfl (pair_ok x) (num_ok c rfl (by decide)) (by simp))
  | vcvt p d a =>
    cases hu; cases he
    exact reads_FB (by decide) (by decide) (by decide) (by simp +contextual [hi_eq_false]) (by
      simpa [rowOf, page1] using builds_rowU_FB (by decide) (by decide) (h.noImm rfl) rfl rfl rfl (by simp))
  | vld p d a loc v | vst p d a loc v =>
    cases hu; cases he
    exact reads_FM (by decide) (by decide) (by decide) (by simp +contextual [hi_eq_false]) (by
      simpa [rowOf, page1] using builds_vmem (by decide) (by decide) hn (h.fits _ rfl))
  | kxor p d a | knot p d a | kmov p d a | ttr p d a | tfill p d a | tqnt p d a | acvt p d a =>
    cases hu; cases he
    exact reads_FB (by decide) (by decide) (by decide) (by simp) (by
      simpa [rowOf, page1, page2] using builds_rowU_FB (by decide) (by decide) (h.noImm rfl) (num_ok d rfl (by decide))
        (num_ok a rfl (by decide)) rfl (by simp))
  | kpop p d a | kfirst p d a | trdc p d a | xget p d a | qpop p d a | pmovToBank p d a | pmovFromBank p d a =>
    cases hu; cases he
    exact reads_FB (by decide) (by decide) (by decide) (by simp +contextual [hi_eq_false]) (by
      simpa [rowOf, page1, page2, page3, page5] using builds_rowU_FB (by decide) (by decide) (h.noImm rfl) rfl (num_ok a rfl (by decide)) rfl
        (by simp))
  | tcfg p d a | post p d a | qcfg p d a =>
    cases hu; cases he
    exact reads_FB (by decide) (by decide) (by decide) (by simp +contextual [hi_eq_false]) (by
      simpa [rowOf, page2, page3] using builds_rowU_FB (by decide) (by decide) (h.noImm rfl) (num_ok d rfl (by decide)) rfl rfl (by simp))
  | kset p d | kclr p d | tz p d | aclr p d =>
    cases hu; cases he
    exact reads_FB (by decide) (by decide) (by decide) (by simp) (by
      simpa [rowOf, page1, page2] using builds_rowU_FB (by decide) (by decide) (h.noImm rfl) (num_ok d rfl (by decide)) rfl rfl (by simp))
  | done p | yield p =>
    cases hu; cases he
    exact reads_FB (by decide) (by decide) (by decide) (by simp) (by
      simpa [rowOf, page3] using builds_rowU_FB (by decide) (by decide) (h.noImm rfl) rfl rfl rfl (by simp))
  | pstat p d =>
    cases hu; cases he
    exact reads_FB (by decide) (by decide) (by decide) (by simp +contextual [hi_eq_false]) (by
      simpa [rowOf, page5] using builds_rowU_FB (by decide) (by decide) (h.noImm rfl) rfl rfl rfl (by simp))
  | bal p x =>
    cases hu; cases he
    exact reads_FB (by decide) (by decide) (by decide) (by simp) (by
      simpa [rowOf, page5] using builds_rowU_FB (by decide) (by decide) (h.noImm rfl) (pair_ok x) rfl rfl (by simp))
  | balx p x k =>
    cases hu; cases he
    exact reads_FB (by decide) (by decide) (by decide) (by simp) (by
      simpa [rowOf, page5] using builds_rowU_FB (by decide) (by decide) (h.noImm rfl) (pair_ok x) (bool_ok k) rfl (by simp))
  | pmat p d x =>
    cases hu; cases he
    exact reads_FB (by decide) (by decide) (by decide) (by simp) (by
      simpa [rowOf, page5] using builds_rowU_FB (by decide) (by decide) (h.noImm rfl) (num_ok d rfl (by decide)) (pair_ok x) rfl (by simp))
  | tldl p d a v | tstl p d a v | aldl p d a v | astl p d a v =>
    cases hu; cases he
    exact reads_FM (by decide) (by decide) (by decide) (by simp +contextual [hi_eq_false]) (by
      simpa [rowOf, page2] using builds_rowTile (by decide) (num_ok d rfl (by decide)) (by simp [encFM_imm hn (h.fits _ rfl)]))
  | vwinc p d a =>
    cases hu; cases he
    exact reads_FB (by decide) (by decide) (by decide) (by simp +contextual [hi_eq_false]) (by
      simpa [rowOf, page3] using builds_vw (by decide) (by decide) (h.noImm rfl) rfl rfl (by simp))
  | vwpk p d a =>
    cases hu; cases he
    exact reads_FB (by decide) (by decide) (by decide) (by simp +contextual [hi_eq_false]) (by
      simpa [rowOf, page3] using builds_vw (by decide) (by decide) (h.noImm rfl) (even_ok h.zero) rfl (by simp))
  | vwrst p a =>
    cases hu; cases he
    exact reads_FB (by decide) (by decide) (by decide) (by simp +contextual [hi_eq_false]) (by
      simpa [rowOf, page3] using builds_vw (by decide) (by decide) (h.noImm rfl) rfl rfl (by simp))
  | mma p t ta tb | mmas p t ta tb | mmab p t ta tb =>
    cases hu; cases he
    exact reads_FX (by decide) (by simpa [rowOf, page2] using builds_rowFX (by decide) (h.noImm rfl))
  | mmam p t a => cases hu; cases he; exact reads_mmam rfl (h.noImm rfl)
  | vwld p d a b | vwst p d a b => cases hu; cases he; exact reads_versioned (by decide) (h.noImm rfl) rfl
  | cpos p d a ch => cases hu; cases he; exact reads_cpos (h.noImm rfl)
  | cwait p a ch => cases hu; cases he; exact reads_cwait (h.noImm rfl)
  | mcall p a => cases hu; cases he; exact reads_mcall rfl (h.noImm rfl)
  | clrst p =>
    cases hu; cases he
    exact reads_page6 (fn := 1) (by decide) (h.noImm rfl) (fun w h1 h2 => by simp only [page6, h1, h2])
  | idle p =>
    cases hu; cases he
    exact reads_page6 (fn := 2) (by decide) (h.noImm rfl) (fun w h1 h2 => by simp only [page6, h1, h2])
  | _ => cases he

/-- The encoder knows the sequences of which well-formedness says what they must carry. -/
theorem use_isSome (i : Instr) : i.use.isSome = i.enc.isSome := by cases i <;> rfl

end Sys2Proof.Machine

open Sys2Proof Sys2Proof.Machine in
/-- Settles O1: the prefixes are read one by one, and the base word's row of the opcode map builds the instruction back. -/
theorem encodeDecodeRoundTrip : Obligations.EncodeDecodeRoundTrip := by
  unfold Obligations.EncodeDecodeRoundTrip
  intro i hi hwf
  obtain ⟨e, he⟩ := Option.ne_none_iff_exists'.1 hi
  obtain ⟨u, hu⟩ := Option.isSome_iff_exists.1 ((use_isSome i).trans (Option.isSome_iff_exists.2 ⟨e, he⟩))
  have h : UseHolds u := useHolds_of_wf (by rwa [Instr.wf, hu] at hwf)
  exact (reads i u e hu he h).decodes hu he h

end

section
/-! PROOF. O3: what is refused, under its detail code (R61, Table 3.11). -/

namespace Sys2Proof.Machine

/-! ### A base word that is refused -/

section
variable {s : Prefixes} {w : HalfWord} {row : Row} {page : Nat} {inSlot : Bool}

theorem decodeBase_gap (h : s.gap = true) : decodeBase s w inSlot = .illegal 4 false := by simp [decodeBase, h]

theorem decodeBase_page7 (hgap : s.gap = false) (h : natBits (s.pxp.getD 0) 9 7 = 7) : decodeBase s w inSlot = .illegal 8 false := by
  simp [decodeBase, hgap, h]

variable (hgap : s.gap = false) (hpage : natBits (s.pxp.getD 0) 9 7 = page) (h7 : page ≠ 7)
include hgap hpage h7

theorem decodeBase_noRow (hrow : rowOf page w = none) : decodeBase s w inSlot = .illegal 7 false := by
  simp [decodeBase, hgap, hpage, h7, hrow]

variable (hrow : rowOf page w = some row)
include hrow

theorem decodeBase_branch (hb : row.branch = true) : decodeBase s w true = .illegal 10 true := by
  simp [decodeBase, hgap, hpage, h7, hrow, hb]

theorem decodeBase_mods (h : natBits (s.pxp.getD 0) 6 4 = 7 ∨ modsOk row.mods (s.raw w).pfx.order (s.raw w).pfx.scope = false) :
    decodeBase s w false = .illegal 9 false := by
  simp [decodeBase, hgap, hpage, h7, hrow, h]

variable (hscope : natBits (s.pxp.getD 0) 6 4 ≠ 7) (hmods : modsOk row.mods (s.raw w).pfx.order (s.raw w).pfx.scope = true)
include hscope hmods

theorem decodeBase_qs (h : qsOk row.qs (s.raw w).pfx.qs = false) : decodeBase s w false = .illegal 11 false := by
  simp [decodeBase, hgap, hpage, h7, hrow, hscope, hmods, h]

theorem decodeBase_build (hqs : qsOk row.qs (s.raw w).pfx.qs = true) (h : row.build (s.raw w) = none) :
    decodeBase s w false = .illegal 6 false := by
  simp [decodeBase, hgap, hpage, h7, hrow, hscope, hmods, hqs, h]

end

/-! ### Fields within fields -/

theorem bitsOf_bitsOf {w : HalfWord} {top hi lo : Nat} (h : hi ≤ top) (hlo : lo ≤ hi) : natBits (bitsOf w top 0) hi lo = bitsOf w hi lo := by
  have e : 2 ^ (top + 1) = 2 ^ lo * 2 ^ (top + 1 - lo) := by rw [← pow_add]; congr 1; omega
  have d : 2 ^ (hi + 1 - lo) ∣ 2 ^ (top + 1 - lo) := pow_dvd_pow 2 (by omega)
  rw [natBits, bitsOf, bitsOf, pow_zero, Nat.div_one, Nat.sub_zero, e, Nat.mod_mul_right_div_self, Nat.mod_mod_of_dvd _ d]

@[simp] theorem natBits_zero (hi lo : Nat) : natBits 0 hi lo = 0 := by simp [natBits]

/-- The two upper bits and the major of a word whose six upper bits are given. -/
theorem kind_of_top {w : HalfWord} {k : Nat} (h : bitsOf w 15 10 = k) : bitsOf w 13 10 = k % 16 ∧ bitsOf w 15 14 = k / 16 := by
  subst h
  simp only [bitsOf, Nat.reducePow, Nat.reduceAdd, Nat.reduceSub]
  omega

/-- The upper bits and the index of a PXI word whose eight upper bits are given. -/
theorem pxi_of_top {w : HalfWord} {k : Nat} (h : bitsOf w 15 8 = k) : bitsOf w 15 10 = k / 4 ∧ bitsOf w 9 8 = k % 4 := by
  subst h
  simp only [bitsOf, Nat.reducePow, Nat.reduceAdd, Nat.reduceSub]
  omega

theorem bitOf_eq_bitsOf (w : HalfWord) (i : Nat) : bitOf w i = (bitsOf w i i == 1) := by
  simp [bitOf, bitsOf]

/-! ### One word of each kind before the base word -/

section
variable {s : Prefixes} {x w : HalfWord} {ws : List HalfWord}

theorem accepts_pxp (hn : s.n ≠ 4) (hfresh : 0 ∉ s.seen) (hlast : s.lastRank ≤ 0) (hx : bitsOf x 15 10 = 0b101111) (hres : bitsOf x 1 0 = 0) :
    s.Accepts x := by
  obtain ⟨hmajor, hkind⟩ := kind_of_top hx
  have hrank : prefixRank x = 0 := by simp [prefixRank, hkind]
  exact ⟨hmajor, by omega, hn, by rwa [hrank], by rwa [hrank], by simp [prefixReserved, hkind, hres]⟩

theorem accepts_pxr (hn : s.n ≠ 4) (hfresh : 1 ∉ s.seen) (hlast : s.lastRank ≤ 1) (hx : bitsOf x 15 10 = 0b011111) (hres : bitOf x 7 = false) :
    s.Accepts x := by
  obtain ⟨hmajor, hkind⟩ := kind_of_top hx
  have hrank : prefixRank x = 1 := by simp [prefixRank, hkind]
  exact ⟨hmajor, by omega, hn, by rwa [hrank], by rwa [hrank], by simp [prefixReserved, hkind, hres]⟩

theorem accepts_pxi (hn : s.n ≠ 4) (hfresh : 2 + bitsOf x 9 8 ∉ s.seen) (hlast : s.lastRank ≤ 2 + bitsOf x 9 8) (hx : bitsOf x 15 10 = 0b001111) :
    s.Accepts x := by
  obtain ⟨hmajor, hkind⟩ := kind_of_top hx
  have hrank : prefixRank x = 2 + bitsOf x 9 8 := by simp [prefixRank, hkind]
  exact ⟨hmajor, by omega, hn, by rwa [hrank], by rw [hrank]; exact_mod_cast hlast, by simp [prefixReserved, hkind]⟩

theorem decodeWords_bare (hw : bitsOf w 13 10 ≠ 15) : decodeWords (w :: ws) = decodeBase {} w false :=
  decodeWords_base (pre := []) trivial (Nat.zero_le _) hw

theorem decodeWords_one (hx : Prefixes.Accepts {} x) (hw : bitsOf w 13 10 ≠ 15) : decodeWords (x :: w :: ws) = decodeBase (Prefixes.push {} x) w false :=
  decodeWords_base (pre := [x]) ⟨hx, trivial⟩ (by simp) hw

end

/-- A sequence with PXP alone: the page, the modifiers and no more. -/
theorem decodeWords_pxp {x w : HalfWord} {ws : List HalfWord} (hx : bitsOf x 15 10 = 0b101111) (hres : bitsOf x 1 0 = 0) (hw : bitsOf w 13 10 ≠ 15) :
    ∃ s : Prefixes, decodeWords (x :: w :: ws) = decodeBase s w false ∧ s.gap = false ∧ natBits (s.pxp.getD 0) 9 7 = bitsOf x 9 7 ∧
      natBits (s.pxp.getD 0) 6 4 = bitsOf x 6 4 ∧ (s.raw w).pfx.order = orderOfCode (bitsOf x 3 2) ∧ (s.raw w).pfx.scope = scopeOfCode (bitsOf x 6 4) := by
  obtain ⟨-, hkind⟩ := kind_of_top hx
  refine ⟨_, decodeWords_one (accepts_pxp (by decide) (by simp) (by decide) hx hres) hw, ?_⟩
  rw [push_pxp hkind]
  simp [Prefixes.gap, Prefixes.raw, bitsOf_bitsOf]

/-- A sequence with PXR alone: no modifiers, its queue select and its H bits. -/
theorem decodeWords_pxr {x w : HalfWord} {ws : List HalfWord} (hx : bitsOf x 15 10 = 0b011111) (hres : bitOf x 7 = false) (hw : bitsOf w 13 10 ≠ 15) :
    ∃ s : Prefixes, decodeWords (x :: w :: ws) = decodeBase s w false ∧ s.gap = false ∧ s.pxp = none ∧
      (s.raw w).pfx.order = .none ∧ (s.raw w).pfx.scope = .dflt ∧ (s.raw w).pfx.qs = qsOfCode (bitsOf x 9 8) ∧ (s.raw w).h3 = bitOf x 0 := by
  obtain ⟨-, hkind⟩ := kind_of_top hx
  refine ⟨_, decodeWords_one (accepts_pxr (by decide) (by simp) (by decide) hx hres) hw, ?_⟩
  rw [push_pxr hkind]
  simp [Prefixes.gap, Prefixes.raw, bitsOf_bitsOf, bitOf_eq_bitsOf, show orderOfCode 0 = .none from rfl, show scopeOfCode 0 = .dflt from rfl]

/-- A sequence with one PXI word of index 0: its byte extends the immediate. -/
theorem decodeWords_pxi {x w : HalfWord} {ws : List HalfWord} (hx : bitsOf x 15 8 = 0b00111100) (hw : bitsOf w 13 10 ≠ 15) :
    ∃ s : Prefixes, decodeWords (x :: w :: ws) = decodeBase s w false ∧ s.gap = false ∧ s.pxp = none ∧
      (s.raw w).pfx.order = .none ∧ (s.raw w).pfx.scope = .dflt ∧ (s.raw w).pfx.qs = .none ∧ (s.raw w).pxi = [bitsOf x 7 0] := by
  obtain ⟨htop, hindex⟩ := pxi_of_top hx
  obtain ⟨-, hkind⟩ := kind_of_top htop
  refine ⟨_, decodeWords_one (accepts_pxi (by decide) (by simp) (by simp only; omega) htop) hw, ?_⟩
  rw [push_pxi hkind]
  simp [Prefixes.gap, Prefixes.raw, hindex, List.range_succ, show orderOfCode 0 = .none from rfl, show scopeOfCode 0 = .dflt from rfl,
    show qsOfCode 0 = .none from rfl]

/-! ### Words of page 0 -/

section
variable {x w : HalfWord} {ws : List HalfWord}

theorem rowOf_cas (h : bitsOf w 13 10 = 13) (hf : bitsOf w 3 0 = 1) : rowOf 0 w = rowAtomic .ge .cas := by simp only [rowOf, page0, h, hf]
theorem rowOf_aadd (h : bitsOf w 13 10 = 13) (hf : bitsOf w 3 0 = 2) : rowOf 0 w = rowAtomic .g .aadd := by simp only [rowOf, page0, h, hf]
theorem rowOf_slli (h : bitsOf w 13 10 = 9) (hf : bitsOf w 6 4 = 3) : rowOf 0 w = rowShift .slli := by simp only [rowOf, page0, h, hf]

/-- Major 1 holds ADD and SUB. -/
theorem rowOf_major1 (h : bitsOf w 13 10 = 1) : ∃ row, rowOf 0 w = some row ∧ row.mods = .none ∧ row.qs = .src := by
  cases hf : bitOf w 0
  · exact ⟨_, by simp only [rowOf, page0, h, hf]; rfl, rfl, rfl⟩
  · exact ⟨_, by simp only [rowOf, page0, h, hf]; rfl, rfl, rfl⟩

/-- The branches and jumps of page 0 (R51, R107, R108). -/
theorem rowOf_branch (h : bitsOf w 13 10 = 14 ∨ (bitsOf w 13 10 = 0 ∧ bitsOf w 9 7 ∈ [1, 2, 3, 5])) :
    ∃ row, rowOf 0 w = some row ∧ row.branch = true := by
  rcases h with h | ⟨h, hf⟩
  · have hlt : bitsOf w 6 5 < 4 := Nat.mod_lt _ (by decide)
    simp only [rowOf, page0, h]
    interval_cases bitsOf w 6 5 <;> exact ⟨_, rfl, rfl⟩
  · simp only [List.mem_cons, List.not_mem_nil, or_false] at hf
    simp only [rowOf, page0, h]
    rcases hf with hf | hf | hf | hf <;> simp only [hf]
    case inr.inr.inr => cases bitOf w 0 <;> exact ⟨_, rfl, rfl⟩
    all_goals exact ⟨_, rfl, rfl⟩

/-! ### The clauses of the statement -/

theorem decodeWords_reservedKind (hm : bitsOf w 13 10 = 15) (hk : bitsOf w 15 14 = 3) : decodeWords (w :: ws) = .illegal 1 false := by
  simp [decodeWords, decode, decodeFrom, hm, hk]

theorem decodeWords_noRow (hm : bitsOf w 13 10 ≠ 15) (hrow : rowOf 0 w = none) : decodeWords (w :: ws) = .illegal 7 false := by
  rw [decodeWords_bare hm]
  exact decodeBase_noRow rfl rfl (by decide) hrow

theorem decodeWords_page7 (hx : bitsOf x 15 10 = 0b101111) (hp : bitsOf x 9 7 = 7) (hres : bitsOf x 1 0 = 0) (hm : bitsOf w 13 10 ≠ 15) :
    decodeWords (x :: w :: ws) = .illegal 8 false := by
  obtain ⟨s, h, hgap, hpage, -⟩ := decodeWords_pxp (ws := ws) hx hres hm
  rw [h, decodeBase_page7 hgap (hpage.trans hp)]

theorem decodeWords_missingIndex (hx : bitsOf x 15 10 = 0b001111) (hi : bitsOf x 9 8 ≠ 0) (hm : bitsOf w 13 10 ≠ 15) :
    decodeWords (x :: w :: ws) = .illegal 4 false := by
  obtain ⟨-, hkind⟩ := kind_of_top hx
  rw [decodeWords_one (accepts_pxi (by decide) (by simp) (by simp only; omega) hx) hm, push_pxi hkind]
  exact decodeBase_gap (by simp [Prefixes.gap, List.range_succ, hi])

theorem decodeWords_repeated (hx : bitsOf x 15 10 = 0b011111) (hres : bitOf x 7 = false) : decodeWords (x :: x :: ws) = .illegal 3 false := by
  obtain ⟨hmajor, hkind⟩ := kind_of_top hx
  have hrank : prefixRank x = 1 := by simp [prefixRank, hkind]
  rw [show x :: x :: ws = [x] ++ x :: ws from rfl,
    decodeWords_prefixes (pre := [x]) ⟨accepts_pxr (by decide) (by simp) (by decide) hx hres, trivial⟩ (by simp)]
  simp [decodeFrom, push_pxr hkind, hmajor, hkind, hrank]

theorem decode_slotPrefix {f : Nat → Option HalfWord} (hf : f 0 = some x) (hm : bitsOf x 13 10 = 15) : decode f true = .illegal 5 false := by
  simp [decode, decodeFrom, hf, hm]

theorem decode_slotBranch {f : Nat → Option HalfWord} (hf : f 0 = some w)
    (hb : bitsOf w 13 10 = 14 ∨ (bitsOf w 13 10 = 0 ∧ bitsOf w 9 7 ∈ [1, 2, 3, 5])) : decode f true = .illegal 10 true := by
  obtain ⟨row, hrow, hbranch⟩ := rowOf_branch hb
  have hm : bitsOf w 13 10 ≠ 15 := by rcases hb with h | ⟨h, -⟩ <;> omega
  rw [decode, decodeFrom_base hf hm]
  exact decodeBase_branch rfl rfl (by decide) hrow hbranch

theorem decodeWords_fifth {r y z : HalfWord} (hx : bitsOf x 15 10 = 0b101111) (hxres : bitsOf x 1 0 = 0) (hr : bitsOf r 15 10 = 0b011111)
    (hrres : bitOf r 7 = false) (hy : bitsOf y 15 8 = 0b00111100) (hz : bitsOf z 15 8 = 0b00111101) (hm : bitsOf w 13 10 = 15)
    (hk : bitsOf w 15 14 ≠ 3) : decodeWords (x :: r :: y :: z :: w :: ws) = .illegal 2 false := by
  obtain ⟨hytop, hyindex⟩ := pxi_of_top hy
  obtain ⟨hztop, hzindex⟩ := pxi_of_top hz
  obtain ⟨-, hxkind⟩ := kind_of_top hx
  obtain ⟨-, hrkind⟩ := kind_of_top hr
  obtain ⟨-, hykind⟩ := kind_of_top hytop
  obtain ⟨-, hzkind⟩ := kind_of_top hztop
  have ranks : prefixRank x = 0 ∧ prefixRank r = 1 ∧ prefixRank y = 2 ∧ prefixRank z = 3 := by
    simp [prefixRank, hxkind, hrkind, hykind, hzkind, hyindex, hzindex]
  obtain ⟨hxrank, hrrank, hyrank, hzrank⟩ := ranks
  have all : Prefixes.AcceptsAll {} [x, r, y, z] :=
    ⟨accepts_pxp (by decide) (by simp) (by decide) hx hxres,
      accepts_pxr (by simp [push_pxp hxkind]) (by simp [push_pxp hxkind, hxrank]) (by simp [push_pxp hxkind, hxrank]) hr hrres,
      accepts_pxi (by simp [push_pxp hxkind, push_pxr hrkind]) (by simp [push_pxp hxkind, push_pxr hrkind, hxrank, hrrank, hyindex])
        (by simp [push_pxr hrkind, hrrank, hyindex]) hytop,
      accepts_pxi (by simp [push_pxp hxkind, push_pxr hrkind, push_pxi hykind])
        (by simp [push_pxp hxkind, push_pxr hrkind, push_pxi hykind, hxrank, hrrank, hyrank, hzindex])
        (by simp [push_pxi hykind, hyrank, hzindex]) hztop, trivial⟩
  rw [show x :: r :: y :: z :: w :: ws = [x, r, y, z] ++ w :: ws from rfl, decodeWords_prefixes all (by simp)]
  simp [decodeFrom, push_pxp hxkind, push_pxr hrkind, push_pxi hykind, push_pxi hzkind, hm, hk]

/-- A reserved bit of the first word's payload (R46, R47). -/
theorem decodeWords_reservedBit (hm : bitsOf x 13 10 = 15) (hk : bitsOf x 15 14 ≠ 3) (h : prefixReserved x = true) :
    decodeWords (x :: ws) = .illegal 6 false := by
  have hlast : ¬ (prefixRank x : Int) < -1 := by omega
  simp [decodeWords, decode, decodeFrom, hm, hk, h, hlast]

/-- A base word alone, with values its row does not accept. -/
theorem decodeWords_badField {row : Row} (hm : bitsOf w 13 10 ≠ 15) (hrow : rowOf 0 w = some row) (hmods : modsOk row.mods .none .dflt = true)
    (hbuild : row.build (Prefixes.raw {} w) = none) : decodeWords (w :: ws) = .illegal 6 false := by
  rw [decodeWords_bare hm]
  exact decodeBase_build rfl rfl (by decide) hrow (by decide) hmods rfl hbuild

theorem decodeWords_nopFields (h : bitsOf w 13 7 = 0) (hf : bitsOf w 3 0 = 1) (hb : bitsOf w 6 4 ≠ 0) : decodeWords (w :: ws) = .illegal 6 false := by
  have hm : bitsOf w 13 10 = 0 := by simp only [bitsOf, Nat.reducePow, Nat.reduceAdd, Nat.reduceSub] at h ⊢; omega
  have ho : bitsOf w 9 7 = 0 := by simp only [bitsOf, Nat.reducePow, Nat.reduceAdd, Nat.reduceSub] at h ⊢; omega
  refine decodeWords_badField (by omega) (by simp only [rowOf, page0, hm, ho, hf]; rfl) rfl ?_
  simp [when, Raw.chkK, FieldUse.ok, Raw.f2, Prefixes.raw, hb]

theorem decodeWords_casOdd (hm : bitsOf w 13 10 = 13) (hf : bitsOf w 3 0 = 1) (hb : bitOf w 7 = true) : decodeWords (w :: ws) = .illegal 6 false := by
  have hodd : bitsOf w 9 7 % 2 = 1 := by
    simp only [bitOf, beq_iff_eq, bitsOf, Nat.reducePow, Nat.reduceAdd, Nat.reduceSub] at hb ⊢; omega
  refine decodeWords_badField (by omega) (rowOf_cas hm hf) rfl ?_
  simp [when, Raw.chk, FieldUse.ok, Raw.f1, Prefixes.raw, hodd]

theorem decodeWords_addiH3 (hx : bitsOf x 15 10 = 0b011111) (hq : bitsOf x 9 7 = 0) (hb : bitOf x 0 = true) (hm : bitsOf w 13 10 = 8) :
    decodeWords (x :: w :: ws) = .illegal 6 false := by
  have hres : bitOf x 7 = false := by
    simp only [bitOf, beq_eq_false_iff_ne, bitsOf, Nat.reducePow, Nat.reduceAdd, Nat.reduceSub] at hq ⊢; omega
  have hqs : bitsOf x 9 8 = 0 := by simp only [bitsOf, Nat.reducePow, Nat.reduceAdd, Nat.reduceSub] at hq ⊢; omega
  obtain ⟨s, h, hgap, hpxp, horder, hscope, hsel, hh3⟩ := decodeWords_pxr (ws := ws) hx hres (show bitsOf w 13 10 ≠ 15 by omega)
  rw [h]
  refine decodeBase_build (page := 0) hgap (by simp [hpxp]) (by decide) (by simp only [rowOf, page0, hm]; rfl) (by simp [hpxp])
    (by rw [horder, hscope]; rfl) (by rw [hsel, hqs]; rfl) ?_
  simp [when, Raw.chk, FieldUse.ok, hh3, hb]

theorem decodeWords_shift64 (hx : bitsOf x 15 8 = 0b00111100) (hb : 4 ≤ bitsOf x 7 0) (hm : bitsOf w 13 10 = 9) (hf : bitsOf w 6 4 = 3) :
    decodeWords (x :: w :: ws) = .illegal 6 false := by
  obtain ⟨s, h, hgap, hpxp, horder, hscope, hsel, hpxi⟩ := decodeWords_pxi (ws := ws) hx (show bitsOf w 13 10 ≠ 15 by omega)
  rw [h]
  refine decodeBase_build (page := 0) hgap (by simp [hpxp]) (by decide) (rowOf_slli hm hf) (by simp [hpxp])
    (by rw [horder, hscope]; rfl) (by rw [hsel]; rfl) ?_
  have himm : 64 ≤ (s.raw w).imm (s.raw w).fn 4 false := by simp [Raw.imm, hpxi]; omega
  simp [when, himm]

theorem decodeWords_modifiers (hx : bitsOf x 15 10 = 0b101111) (hp : bitsOf x 9 7 = 0) (hres : bitsOf x 1 0 = 0) (hb : bitsOf x 6 2 ≠ 0)
    (hm : bitsOf w 13 10 = 1) : decodeWords (x :: w :: ws) = .illegal 9 false := by
  obtain ⟨s, h, hgap, hpage, hsc, horder, hscope⟩ := decodeWords_pxp (ws := ws) hx hres (show bitsOf w 13 10 ≠ 15 by omega)
  obtain ⟨row, hrow, hmods, -⟩ := rowOf_major1 hm
  have hparts : bitsOf x 6 4 ≠ 0 ∨ bitsOf x 3 2 ≠ 0 := by
    simp only [bitsOf, Nat.reducePow, Nat.reduceAdd, Nat.reduceSub] at hb ⊢; omega
  have scopes : ∀ n < 8, n ≠ 7 → n ≠ 0 → scopeOfCode n ≠ .dflt := by decide
  have orders : ∀ n < 4, n ≠ 0 → orderOfCode n ≠ .none := by decide
  rw [h]
  refine decodeBase_mods hgap hpage (by omega) (hp ▸ hrow) ?_
  rw [hsc, horder, hscope, hmods]
  by_cases h7 : bitsOf x 6 4 = 7
  · exact .inl h7
  · right
    rcases hparts with hparts | hparts
    · have hne := scopes (bitsOf x 6 4) (Nat.mod_lt _ (by decide)) h7 hparts
      simp [modsOk, hne]
    · have hne := orders (bitsOf x 3 2) (Nat.mod_lt _ (by decide)) hparts
      simp [modsOk, hne]

theorem decodeWords_scope7 (hx : bitsOf x 15 10 = 0b101111) (hp : bitsOf x 9 7 = 0) (hres : bitsOf x 1 0 = 0) (hb : bitsOf x 6 4 = 7)
    (hm : bitsOf w 13 10 = 13) (hf : bitsOf w 3 0 = 2) : decodeWords (x :: w :: ws) = .illegal 9 false := by
  obtain ⟨s, h, hgap, hpage, hsc, -⟩ := decodeWords_pxp (ws := ws) hx hres (show bitsOf w 13 10 ≠ 15 by omega)
  rw [h]
  exact decodeBase_mods hgap hpage (by omega) (hp ▸ rowOf_aadd hm hf) (.inl (hsc.trans hb))

/-- A queue select that a row without modifiers does not accept. -/
theorem decodeWords_queueSelect {row : Row} (hx : bitsOf x 15 10 = 0b011111) (hres : bitOf x 7 = false) (hm : bitsOf w 13 10 ≠ 15)
    (hrow : rowOf 0 w = some row) (hmods : row.mods = .none) (hqs : qsOk row.qs (qsOfCode (bitsOf x 9 8)) = false) :
    decodeWords (x :: w :: ws) = .illegal 11 false := by
  obtain ⟨s, h, hgap, hpxp, horder, hscope, hsel, -⟩ := decodeWords_pxr (ws := ws) hx hres hm
  rw [h]
  exact decodeBase_qs (page := 0) hgap (by simp [hpxp]) (by decide) hrow (by simp [hpxp]) (by rw [horder, hscope, hmods]; rfl) (by rw [hsel, hqs])

end

end Sys2Proof.Machine

open Sys2Proof Sys2Proof.Machine in
/-- Settles O3: clause by clause, from what the prefixes leave the decoder with and what the base word's row accepts. -/
theorem reservedWordsRefused : Obligations.ReservedWordsRefused := by
  unfold Obligations.ReservedWordsRefused
  refine ⟨fun w ws => decodeWords_reservedKind, fun w ws => decodeWords_noRow, fun x w ws => decodeWords_page7, fun x w ws => decodeWords_missingIndex,
    fun x ws => decodeWords_repeated, fun x f => decode_slotPrefix, fun w f => decode_slotBranch, fun x r y z w ws => decodeWords_fifth,
    fun x ws hx hb => ?pxpBits, fun x ws hx hb => ?pxrBit, fun w ws => decodeWords_nopFields, fun w ws => decodeWords_casOdd,
    fun x w ws => decodeWords_addiH3, fun x w ws => decodeWords_shift64, fun x w ws => decodeWords_modifiers, fun x w ws => decodeWords_scope7,
    fun x w ws hx hres hq hm => ?conditionSelect, fun x w ws hx hres hq hm => ?anySelect⟩
  case pxpBits =>
    obtain ⟨hmajor, hkind⟩ := kind_of_top hx
    exact decodeWords_reservedBit hmajor (by omega) (by simp [prefixReserved, hkind, hb])
  case pxrBit =>
    obtain ⟨hmajor, hkind⟩ := kind_of_top hx
    exact decodeWords_reservedBit hmajor (by omega) (by simp [prefixReserved, hkind, hb])
  case conditionSelect =>
    obtain ⟨row, hrow, hmods, hqs⟩ := rowOf_major1 hm
    exact decodeWords_queueSelect hx hres (by omega) hrow hmods (by rw [hqs, hq]; rfl)
  case anySelect =>
    have selects : ∀ n < 4, n ≠ 0 → qsOk .none (qsOfCode n) = false := by decide
    exact decodeWords_queueSelect hx hres (by omega) (by simp only [rowOf, page0, hm]; rfl) rfl (selects _ (Nat.mod_lt _ (by decide)) hq)

end

section
/-! PROOF. O2: each word of the tables is decoded by running the decoder on it. -/

open Sys2Proof Sys2Proof.Machine in
/-- Settles O2, each word by evaluation. -/
theorem tableWordsDecode : Obligations.TableWordsDecode := by
  unfold Obligations.TableWordsDecode
  refine ⟨?_, ?_, ?_, ?_, ?_, ?_, ?_, ?_, ?_⟩ <;> decide

end

section
/-! PROOF. O4: the issue of a decoded sequence. -/

namespace Sys2Proof.Machine

/-- A running core whose next sequence decodes issues it on the state in which its words have been fetched (R42, R63). -/
theorem step_issue {s s' : State} {c : Nat} {rest : List Turn} {i : Instr} {n : Nat} (hturn : s.agenda = .issue c :: rest)
    (hdead : s.zen.dead = false) (hrun : (s.core c).run = .running) (hleft : (s.core c).left ≠ 0)
    (hdec : decode ({ s with agenda := rest, cur := c } : State).fetchHalf (s.core c).slot.isSome = .ok i n)
    (hs' : s' = ({ s with agenda := rest, cur := c } : State).fetched n) : step s = s'.issueInstr i := by
  have hissue : step s = ({ s with agenda := rest } : State).issue c := by
    simp only [step, hturn, State.turn, hdead, Bool.false_eq_true, if_false]
  have hme : ({ s with agenda := rest, cur := c } : State).me = s.core c := rfl
  rw [hissue, hs']
  simp only [State.issue, hme, hrun, hleft, ne_eq, not_true_eq_false, if_false, hdec, State.issueDecoded]

theorem issueInstr_waits {s : State} {i : Instr} (h : s.scoreboardWaits s.cur i = true) : s.issueInstr i = .next (s.setMe (s.me.tick 1)) := by
  simp only [State.issueInstr, h, if_true, State.waitCycle]

/-- A sequence with nothing to wait for and no undersized count is executed (R95, R98). -/
theorem issueInstr_runs {s : State} {i : Instr} (h : s.scoreboardWaits s.cur i = false) (hu : s.me.undersized i = []) :
    s.issueInstr i = s.runInstr i := by
  simp only [State.issueInstr, h, hu, List.isEmpty_nil, Bool.false_eq_true, if_false, if_true]

/-- The meaning of a sequence on core c, and then the producers (R94). -/
theorem runInstr_at {s : State} {c : Nat} (h : s.cur = c) (i : Instr) : s.runInstr i = match exec i s with
    | .next t => .next (t.produced c s.me s.me i)
    | r => r := by
  subst h; rfl

/-- Bringing the producers up to date changes nothing else but the kept words (R63, R94). -/
theorem produced_frame (t : State) (c : Nat) (old found : Core) (i : Instr) :
    t.produced c old found i = t ∨ ∃ l, t.produced c old found i = t.setCore c { t.core c with prods := l, words := [] } := by
  unfold State.produced
  dsimp only
  split
  · exact .inr ⟨_, rfl⟩
  · exact .inl rfl

end Sys2Proof.Machine

open Sys2Proof Sys2Proof.Machine in
/-- Settles O4: the turn is an issue, which comes to the fetched state and the decoded sequence. -/
theorem stepIssuesDecoded : Obligations.StepIssuesDecoded := by
  unfold Obligations.StepIssuesDecoded
  refine ⟨fun s s' c rest i n hturn hdead hrun hleft hdec hs' => ?issue, fun s n => rfl, produced_frame⟩
  case issue =>
    have hcur : s'.cur = c := by rw [hs']; rfl
    have hstep := step_issue hturn hdead hrun hleft hdec hs'
    refine ⟨fun hwait => ?waits, fun hgo hunder => ?runs⟩
    case waits => rw [hstep, issueInstr_waits (hcur ▸ hwait)]
    case runs => exact (hstep.trans (issueInstr_runs (hcur ▸ hgo) hunder)).trans (runInstr_at hcur i)

end

section
/-! PROOF. O14 and O15: the end of a sequence, branches and jumps (R42, R50, R51, R93, R94, R107 to R109). -/

namespace Sys2Proof.Machine

/-! ### Branches (R107) -/

/-- The condition that a branch reads when its source supplies it. -/
theorem Core.cond_of_source {k k' : Core} {p : Pfx} {a : Fin 16} {y : Word} (h : k.condSource p a y k') : k.cond p a = .val y k' := by
  rcases h with ⟨hq, rfl, rfl⟩ | ⟨hq, b, q, hb, rfl, rfl⟩
  · simp only [Core.cond, hq, if_false]
  · simp only [Core.cond, hq, if_true, hb]

theorem Core.condSource_pc {k k' : Core} {p : Pfx} {a : Fin 16} {y : Word} (h : k.condSource p a y k') : k'.pc = k.pc := by
  rcases h with ⟨-, -, rfl⟩ | ⟨-, b, q, -, -, rfl⟩ <;> rfl

/-- A branch whose condition is supplied: its target is taken or not. -/
theorem State.condBranch_taken {s : State} {p : Pfx} {a : Fin 16} {e : Int} {f : Word → Bool} {y : Word} {k : Core} {b : Bool}
    (h : s.me.condSource p a y k) (hb : f y = b) :
    s.condBranch p a e f = .next (s.setMe (k.branch p (if b then some (s.me.pc + BitVec.ofInt 64 (2 * e)) else none))) := by
  simp only [State.condBranch, Core.cond_of_source h, Core.target, Core.condSource_pc h, hb]
  rfl

theorem State.condBranch_empty {s : State} {p : Pfx} {a : Fin 16} {e : Int} {f : Word → Bool} (hq : p.qs = .bqCond) (hb : s.me.bq = []) :
    s.condBranch p a e f = .next (s.trap s.cur { cause := 0x0e }) := by
  simp only [State.condBranch, Core.cond, hq, hb, if_true]
  rfl

/-! ### Jumps (R108) -/

theorem exec_jr (s : State) (p : Pfx) (a : Fin 16) : exec (.jr p a) s =
    if bitOf (s.me.getG a) 0 then .next (s.trap s.cur { cause := 1, detail := 12 })
    else .next (s.setMe (s.me.branch p (some (s.me.getG a)))) := rfl

theorem exec_jlr (s : State) (p : Pfx) (d a : Fin 16) : exec (.jlr p d a) s =
    if bitOf (s.me.getG a) 0 then .next (s.trap s.cur { cause := 1, detail := 12 })
    else .next (s.setMe ((s.me.branch p (some (s.me.getG a))).setG d (s.me.pc + pfxBytes p + 2))) := rfl

/-- LOOP falls through when its counter comes to 0. -/
theorem exec_loop (s : State) (p : Pfx) (a : Fin 16) (e : Int) : exec (.loop p a e) s = .next (s.setMe ((s.me.branch p
    (if s.me.getG a = 1 then none else some (s.me.pc + BitVec.ofInt 64 (2 * e)))).setG a (s.me.getG a - 1))) := by
  have hzero : (s.me.getG a - 1 != 0) = !decide (s.me.getG a = 1) := by
    rw [Bool.eq_iff_iff, bne_iff_ne, Bool.not_eq_true', decide_eq_false_iff_not]
    exact not_congr sub_eq_zero
  show Host.Outcome.next (s.setMe ((s.me.branch p (if s.me.getG a - 1 != 0 then some (s.me.target e) else none)).setG a (s.me.getG a - 1))) = _
  rw [hzero]
  by_cases h : s.me.getG a = 1
  · simp only [h, decide_true, Bool.not_true, Bool.false_eq_true, if_true, if_false]
  · simp only [h, decide_false, Bool.not_false, if_true, if_false]
    rfl

end Sys2Proof.Machine

open Sys2Proof Sys2Proof.Machine in
/-- Settles O14: every clause is the instruction's meaning, which ends the sequence. -/
theorem sequenceEnd : Obligations.SequenceEnd := by
  unfold Obligations.SequenceEnd
  intro s p d e n
  have hnop : exec (.nop p) s = .next (s.setMe (s.me.advance p)) := rfl
  exact ⟨hnop, hnop, rfl, State.finish_setMe s p _, State.finish_setMe s p _⟩

open Sys2Proof Sys2Proof.Machine in
/-- Settles O15: the four branches by their conditions, the jumps by their targets. -/
theorem branchesAndJumps : Obligations.BranchesAndJumps := by
  unfold Obligations.BranchesAndJumps
  intro s p a d e
  refine ⟨fun y k hk => ⟨?bz, ?bnz, ?bltz, ?bgez⟩, State.condBranch_empty, rfl, rfl, exec_loop s p a e, fun heven => ?even, fun hodd => ?odd,
    fun k t => rfl⟩
  case bz => exact (State.condBranch_taken hk (b := decide (y = 0)) (by rw [Bool.eq_iff_iff]; simp)).trans (by simp)
  case bnz => exact (State.condBranch_taken hk (b := !decide (y = 0)) (by rw [Bool.eq_iff_iff]; simp)).trans (by simp)
  case bltz => exact State.condBranch_taken hk (BitVec.msb_eq_toInt (x := y)).symm
  case bgez => exact (State.condBranch_taken hk (b := !y.msb) (by rw [BitVec.msb_eq_toInt, Bool.eq_iff_iff]; simp)).trans (by cases BitVec.msb y <;> rfl)
  case even =>
    have hbit : bitOf (s.me.getG a) 0 = false := (bitOf_getLsbD _ 0).trans heven
    exact ⟨by rw [exec_jr, hbit]; rfl, by rw [exec_jlr, hbit]; rfl⟩
  case odd =>
    have hbit : bitOf (s.me.getG a) 0 = true := (bitOf_getLsbD _ 0).trans hodd
    exact ⟨by rw [exec_jr, hbit]; rfl, by rw [exec_jlr, hbit]; rfl⟩

end
section
/-! PROOF. O12: no step makes a queue of a core longer than it is (R89, R118, R119).

Four lists of a core count: the send buffer, bq, dq and the resident deque of each enclave. The operations that write another part of a core, or
none, keep the bounds because those lists stay as they are; the few that put an entry into one of them do so where there is room. As for the form of
memory, each operation of the state has one lemma, in the order of the definitions: from `s.Bounded` its outcome is bounded again. -/

namespace Sys2Proof.Machine

variable {s : State} {k : Core}

/-! ### Bounded cores -/

/-- No enclave's resident deque is longer than 32 entries (R118). -/
def dequesBounded (l : SMap Ctx) : Prop := ∀ y ∈ l, y.2.deque.length ≤ 32

/-- The four lists of a core are no longer than the hardware's (R89, R118, R119). -/
def Core.Bounded (k : Core) : Prop := k.sbuf.length ≤ 32 ∧ k.bq.length ≤ 8 ∧ k.dq.length ≤ 16 ∧ dequesBounded k.ctx

/-- An outcome that is a next state is bounded. -/
def Res.Bounded (r : Res) : Prop := ∀ t, r = .next t → t.Bounded

theorem State.bounded_iff : s.Bounded ↔ ∀ x ∈ s.cores, x.2.Bounded := Iff.rfl

/-! ### Tables -/

theorem mem_sset {α : Type} {c : Nat} {v : α} {m : SMap α} {x : Nat × α} (h : x ∈ sset c v m) : x = (c, v) ∨ x ∈ m := by
  induction m with
  | nil => exact .inl (List.mem_singleton.1 h)
  | cons y m ih =>
    obtain ⟨j, w⟩ := y
    unfold sset at h
    split at h
    · exact (List.mem_cons.1 h).imp_right (List.mem_cons_of_mem _)
    · rcases List.mem_cons.1 h with rfl | h
      · exact .inr (List.mem_cons_self ..)
      · exact (ih h).imp_right (List.mem_cons_of_mem _)

theorem sget_mem_or {α : Type} (d : α) (c : Nat) (m : SMap α) : sget d c m = d ∨ (c, sget d c m) ∈ m := by
  induction m with
  | nil => exact .inl rfl
  | cons y m ih =>
    obtain ⟨j, w⟩ := y
    unfold sget
    split
    · next h => subst h; exact .inr (List.mem_cons_self ..)
    · exact ih.imp_right (List.mem_cons_of_mem _)

/-- A property of a table's default and of its entries holds of what is read from it. -/
theorem sget_of_forall {α : Type} {P : α → Prop} {d : α} {m : SMap α} (hd : P d) (h : ∀ x ∈ m, P x.2) (c : Nat) : P (sget d c m) := by
  rcases sget_mem_or d c m with e | e
  · rw [e]; exact hd
  · exact h _ e

theorem sset_forall {α : Type} {P : α → Prop} {m : SMap α} {v : α} (h : ∀ x ∈ m, P x.2) (hv : P v) (c : Nat) :
    ∀ x ∈ sset c v m, P x.2 := by
  intro x hx
  rcases mem_sset hx with rfl | hx
  · exact hv
  · exact h x hx

/-! ### Reading and writing a core -/

theorem Core.reset_bounded : Core.reset.Bounded := ⟨by decide, by decide, by decide, fun _ hy => absurd hy List.not_mem_nil⟩

@[simp] theorem State.Bounded.core (h : s.Bounded) (c : Nat) : (s.core c).Bounded :=
  sget_of_forall (P := Core.Bounded) Core.reset_bounded h c

@[simp] theorem State.Bounded.me (h : s.Bounded) : s.me.Bounded := h.core s.cur

@[simp] theorem Core.Bounded.cxOf (h : k.Bounded) (e : Nat) : (k.cxOf e).deque.length ≤ 32 :=
  sget_of_forall (P := fun c : Ctx => c.deque.length ≤ 32) (by decide) h.2.2.2 e

@[simp] theorem Core.Bounded.cx (h : k.Bounded) : k.cx.deque.length ≤ 32 := h.cxOf k.enc

@[simp] theorem Core.Bounded.setCxOf {c : Ctx} {e : Nat} (h : k.Bounded) (hc : c.deque.length ≤ 32) : (k.setCxOf e c).Bounded :=
  ⟨h.1, h.2.1, h.2.2.1, sset_forall (P := fun c : Ctx => c.deque.length ≤ 32) h.2.2.2 hc e⟩

@[simp] theorem Core.Bounded.setCx {c : Ctx} (h : k.Bounded) (hc : c.deque.length ≤ 32) : (k.setCx c).Bounded := h.setCxOf hc

@[simp] theorem State.Bounded.setCore {c : Nat} (h : s.Bounded) (hk : k.Bounded) : (s.setCore c k).Bounded :=
  sset_forall (P := Core.Bounded) h hk c

@[simp] theorem State.Bounded.setMe (h : s.Bounded) (hk : k.Bounded) : (s.setMe k).Bounded := h.setCore hk

@[simp] theorem State.Bounded.cx (h : s.Bounded) : s.cx.deque.length ≤ 32 := h.me.cx

@[simp] theorem State.Bounded.setCx {c : Ctx} (h : s.Bounded) (hc : c.deque.length ≤ 32) : (s.setCx c).Bounded := h.setMe (h.me.setCx hc)

/-! ### Outcomes and states -/

@[simp] theorem Res.bounded_next {t : State} : Res.Bounded (.next t) ↔ t.Bounded :=
  ⟨fun h => h t rfl, fun h _ e => by cases e; exact h⟩

theorem State.Bounded.outcome {t : State} (h : t.Bounded) : Res.Bounded (.next t) := Res.bounded_next.2 h

@[simp] theorem Res.bounded_fault (x : Fault) : Res.Bounded (.fault x) := fun _ e => by cases e

@[simp] theorem Res.bounded_ite {c : Prop} [Decidable c] {a b : Res} :
    Res.Bounded (if c then a else b) ↔ (c → a.Bounded) ∧ (¬c → b.Bounded) := by
  split <;> simp [*]

@[simp] theorem State.bounded_ite {c : Prop} [Decidable c] {t u : State} :
    State.Bounded (if c then t else u) ↔ (c → t.Bounded) ∧ (¬c → u.Bounded) := by
  split <;> simp [*]

/-- All cores of a table are bounded. -/
def coresBounded (m : SMap Core) : Prop := ∀ x ∈ m, x.2.Bounded

/-- The bounds speak of the cores alone. -/
@[simp] theorem State.bounded_mk {cores parts banks mem bmem seals bpoison keys nextUid tasks nimbus zen out flight agenda cur free} :
    State.Bounded ⟨cores, parts, banks, mem, bmem, seals, bpoison, keys, nextUid, tasks, nimbus, zen, out, flight, agenda, cur, free⟩ ↔
      coresBounded cores := Iff.rfl

@[simp] theorem State.Bounded.cores (h : s.Bounded) : coresBounded s.cores := h

theorem State.Bounded.of_cores {t : State} (h : s.Bounded) (e : t.cores = s.cores) : t.Bounded := by
  rw [State.bounded_iff, e]; exact h

/-- A loop over a list keeps the bounds when its body does. -/
theorem State.foldl_bounded {α : Type} {f : State → α → State} (hf : ∀ t x, t.Bounded → (f t x).Bounded) (l : List α)
    (h : s.Bounded) : (l.foldl f s).Bounded := by
  induction l generalizing s with
  | nil => exact h
  | cons x l ih => exact ih (hf s x h)

/-- The state of an optional answer is bounded when the state of the other case is. -/
theorem State.getD_bounded {o : Option State} (ho : ∀ t, o = some t → t.Bounded) (h : s.Bounded) : (o.getD s).Bounded := by
  cases o with
  | none => exact h
  | some t => exact ho t rfl

/-! ### Parts of the device and of a core that stay within the bounds -/

/-- A table whose entry changes for one that has the same property keeps the property. -/
theorem sset_forall_iff {α : Type} {P : α → Prop} {d v : α} {c : Nat} {m : SMap α} (hd : P d) (e : P v ↔ P (sget d c m)) :
    (∀ x ∈ sset c v m, P x.2) ↔ ∀ x ∈ m, P x.2 := by
  induction m with
  | nil => simpa [sset, sget, hd] using e
  | cons y m ih =>
    obtain ⟨j, w⟩ := y
    by_cases h : j = c
    · simp only [sget, h, if_true] at e
      simp [sset, h, e]
    · simp only [sget, h, if_false] at e
      simp only [sset, h, if_false, List.forall_mem_cons, ih e]

/-- A core that keeps its four lists keeps the bounds, and the device with it. -/
@[simp] theorem State.bounded_setCore {c : Nat} (e : k.Bounded ↔ (s.core c).Bounded) : (s.setCore c k).Bounded ↔ s.Bounded :=
  sset_forall_iff (P := Core.Bounded) Core.reset_bounded e

@[simp] theorem State.bounded_setMe (e : k.Bounded ↔ s.me.Bounded) : (s.setMe k).Bounded ↔ s.Bounded := State.bounded_setCore e

@[simp] theorem Core.bounded_setCxOf {c : Ctx} {n : Nat} (e : c.deque.length ≤ 32 ↔ (k.cxOf n).deque.length ≤ 32) :
    (k.setCxOf n c).Bounded ↔ k.Bounded := by
  have deques := sset_forall_iff (P := fun c : Ctx => c.deque.length ≤ 32) (d := Ctx.reset) (by decide) e
  exact and_congr_right fun _ => and_congr_right fun _ => and_congr_right fun _ => deques

@[simp] theorem Core.bounded_setCx {c : Ctx} (e : c.deque.length ≤ 32 ↔ k.cx.deque.length ≤ 32) : (k.setCx c).Bounded ↔ k.Bounded :=
  Core.bounded_setCxOf e

@[simp] theorem State.bounded_setCx {c : Ctx} (e : c.deque.length ≤ 32 ↔ s.cx.deque.length ≤ 32) : (s.setCx c).Bounded ↔ s.Bounded :=
  State.bounded_setMe (Core.bounded_setCx e)

/-! ### Cores that keep their lists -/

/-- A core given by its parts. -/
@[simp] theorem Core.bounded_mk {run part lnum cid nbr encs enc ctx h left pc slot g dq bq sbuf spawns fenceRel fenceAcq fetchPc words copyWait
      msgs link credit urgentRr rr quiesced preempt keptRecs keptEntries engine cyc idleSince sliceStart prods bal mmam seqno
      faultHold sharers} :
    Core.Bounded ⟨run, part, lnum, cid, nbr, encs, enc, ctx, h, left, pc, slot, g, dq, bq, sbuf, spawns, fenceRel, fenceAcq, fetchPc, words,
        copyWait, msgs, link, credit, urgentRr, rr, quiesced, preempt, keptRecs, keptEntries, engine, cyc, idleSince, sliceStart, prods, bal,
        mmam, seqno, faultHold, sharers⟩ ↔
      sbuf.length ≤ 32 ∧ bq.length ≤ 8 ∧ dq.length ≤ 16 ∧ dequesBounded ctx := Iff.rfl

/-- What is left when a core keeps its four lists. -/
@[simp] theorem Core.bounded_fold :
    (k.sbuf.length ≤ 32 ∧ k.bq.length ≤ 8 ∧ k.dq.length ≤ 16 ∧ dequesBounded k.ctx) ↔ k.Bounded := Iff.rfl

@[simp] theorem Core.bounded_setG {d v} : (k.setG d v).Bounded ↔ k.Bounded := Iff.rfl
@[simp] theorem Core.bounded_tickHeld {n} : (k.tickHeld n).Bounded ↔ k.Bounded := Iff.rfl
@[simp] theorem Core.bounded_branch {p t} : (k.branch p t).Bounded ↔ k.Bounded := Iff.rfl
@[simp] theorem Core.bounded_advance {p} : (k.advance p).Bounded ↔ k.Bounded := Iff.rfl
@[simp] theorem Core.bounded_tick {n} : (k.tick n).Bounded ↔ k.Bounded := Iff.rfl
@[simp] theorem Core.bounded_resume {p} : (k.resume p).Bounded ↔ k.Bounded := Iff.rfl

/-! ### The memories -/

theorem State.Bounded.storeCells {cs u} (h : s.Bounded) : (s.storeCells cs u).Bounded := h
@[simp] theorem State.Bounded.storeParts {ps} (h : s.Bounded) : (s.storeParts ps).Bounded := by
  induction ps generalizing s with
  | nil => exact h
  | cons p ps ih => exact ih h.storeCells
@[simp] theorem State.Bounded.zeroBank {b} (h : s.Bounded) : (s.zeroBank b).Bounded := h
@[simp] theorem State.Bounded.zeroRange {lo n} (h : s.Bounded) : (s.zeroRange lo n).Bounded := h

@[simp] theorem State.bounded_setPart {p x} : (s.setPart p x).Bounded ↔ s.Bounded := Iff.rfl

@[simp] theorem State.bounded_setBank {b x} : (s.setBank b x).Bounded ↔ s.Bounded := Iff.rfl

@[simp] theorem State.bounded_free {n} : State.Bounded { s with free := n } ↔ s.Bounded := Iff.rfl

theorem State.Bounded.setZen {z} (h : s.Bounded) : State.Bounded { s with zen := z } := h

@[simp] theorem State.bounded_enqueue {site i} : (s.enqueue site i).Bounded ↔ s.Bounded := Iff.rfl

@[simp] theorem State.bounded_storeCells {cs u} : (s.storeCells cs u).Bounded ↔ s.Bounded := Iff.rfl

@[simp] theorem State.bounded_bankCells {cs} : (s.bankCells cs).Bounded ↔ s.Bounded := Iff.rfl

theorem State.Bounded.setPart {p x} (h : s.Bounded) : (s.setPart p x).Bounded := h
theorem State.Bounded.setBank {b x} (h : s.Bounded) : (s.setBank b x).Bounded := h
theorem State.Bounded.enqueue {site i} (h : s.Bounded) : (s.enqueue site i).Bounded := h

end Sys2Proof.Machine

end

section
/-! PROOF. O12, operations of a core and its messages: each keeps the bounds of the queues (R35, R89, R115 to R132). -/

namespace Sys2Proof.Machine

variable {s : State} {k : Core}

/-! ### Translation and sealing (R282 to R286) -/

theorem State.Bounded.physWrite {p va bs t} (h : s.Bounded) (e : s.physWrite p va bs = some t) : t.Bounded := by
  unfold State.physWrite at e
  split at e <;> cases e
  exact h.storeCells

/-! ### Strand headers (R112) and arrival queues (R114 to R116) -/

@[simp] theorem State.Bounded.creditBack {p q es} (h : s.Bounded) : (s.creditBack p q es).Bounded := h

/-! ### Events and messages -/

@[simp] theorem State.Bounded.event {cls site part detail} (h : s.Bounded) : (s.event cls site part detail).Bounded := by
  simp [State.event, h]

@[simp] theorem State.Bounded.lifeAdd {r j n} (h : s.Bounded) : (s.lifeAdd r j n).Bounded := h

/-! ### Resident keys (R39, R290) -/

theorem State.Bounded.keyRoom {t} (h : s.Bounded) (e : s.keyRoom = some t) : t.Bounded := by
  unfold State.keyRoom at e
  repeat' split at e
  all_goals cases e
  all_goals exact h

@[simp] theorem State.Bounded.useEach {us} (h : s.Bounded) : (s.useEach us).Bounded := by
  obtain ⟨_, _, e⟩ := s.useEach_eq us
  rw [e]
  exact h

@[simp] theorem State.Bounded.useKey {u} (h : s.Bounded) : (s.useKey u).Bounded := h.useEach (us := [u])

@[simp] theorem State.Bounded.useKeys {us} (h : s.Bounded) : (s.useKeys us).Bounded := by
  obtain ⟨_, _, e⟩ := s.useKeys_eq us
  rw [e]
  exact h

/-! ### Messages on their way -/

@[simp] theorem State.Bounded.sendFrom {c m} (h : s.Bounded) : (s.sendFrom c m).Bounded := by
  simp [State.sendFrom, h]

/-! ### Versioned cells at their home (R74, R125 to R129) -/

@[simp] theorem State.Bounded.setCell {p cell va v ver head} (h : s.Bounded) : (s.setCell p cell va v ver head).Bounded := by
  simp [State.setCell, h]

theorem State.Bounded.sendWake {p enc cell va r t} (h : s.Bounded) (e : s.sendWake p enc cell va r = some t) : t.Bounded := by
  unfold State.sendWake at e
  split at e <;> cases e
  exact h

@[simp] theorem State.Bounded.keepRecord {p agent r} (h : s.Bounded) : (s.keepRecord p agent r).Bounded := h

@[simp] theorem State.Bounded.wakeAll {p key cell is} (h : s.Bounded) : (s.wakeAll p key cell is).Bounded := by
  induction is generalizing s with
  | nil => exact h
  | cons i is ih =>
    unfold State.wakeAll
    split
    · exact ih h
    · split
      · next e =>
        have sent := h.sendWake e
        exact ih sent
      · exact ih h

@[simp] theorem State.Bounded.noteVersion {cell ver} (h : s.Bounded) : (s.noteVersion cell ver).Bounded := h

@[simp] theorem State.Bounded.cellWrite {p cell va v ver} (h : s.Bounded) : (s.cellWrite p cell va v ver).Bounded := by
  unfold State.cellWrite
  exact State.Bounded.wakeAll (State.Bounded.setPart (State.Bounded.setCell (State.Bounded.noteVersion h)))

/-! ### The fault queue (R131) and trap records (R132) -/

theorem State.Bounded.writeFault {p r t} (h : s.Bounded) (e : s.writeFault p r = some t) : t.Bounded := by
  obtain ⟨ctl, slot, v, -, us, u, written⟩ := State.writeFault_eq e
  rw [written]
  exact h.useKeys.storeCells.cellWrite

@[simp] theorem State.Bounded.countCtl {p agent} (h : s.Bounded) : (s.countCtl p agent).Bounded := by
  simp [State.countCtl, h]

@[simp] theorem State.Bounded.noteFull {p agent} (h : s.Bounded) : (s.noteFull p agent).Bounded := by
  simp [State.noteFull, h]

@[simp] theorem State.Bounded.noteRoom {p agent} (h : s.Bounded) : (s.noteRoom p agent).Bounded := h

@[simp] theorem State.Bounded.noteAll {p rs} (h : s.Bounded) : (s.noteAll p rs).Bounded := by
  induction rs generalizing s with
  | nil => exact h
  | cons x rs ih => exact ih h.noteFull

@[simp] theorem State.Bounded.flushList {p rs} (h : s.Bounded) : (s.flushList p rs).Bounded := by
  induction rs generalizing s with
  | nil => exact h
  | cons x rs ih =>
    unfold State.flushList
    split
    · next e =>
      have written := h.writeFault e
      exact ih written
    · exact State.Bounded.noteAll h.countCtl

@[simp] theorem State.Bounded.flushKept {p} (h : s.Bounded) : (s.flushKept p).Bounded := by
  simp [State.flushKept, h]

@[simp] theorem State.Bounded.reportRecord {p agent r} (h : s.Bounded) : (s.reportRecord p agent r).Bounded := by
  simp [State.reportRecord, h]

@[simp] theorem State.Bounded.homeWrite {p cell va v ver} (h : s.Bounded) : (s.homeWrite p cell va v ver).Bounded := by
  simp [State.homeWrite, h]

/-! ### Local memory (R87, R104, R139, R151, R156) -/

/-- Writes of general registers leave the four lists alone. -/
theorem Core.bounded_foldl_setG {α : Type} (f : Core → α → Fin 16) (v : Core → α → Word) (l : List α) :
    (l.foldl (fun k c => k.setG (f k c) (v k c)) k).Bounded ↔ k.Bounded := by
  induction l generalizing k with
  | nil => exact Iff.rfl
  | cons x l ih => exact ih

@[simp] theorem State.bounded_localWrite {cells} : (s.localWrite cells).Bounded ↔ s.Bounded :=
  (State.bounded_setMe (Core.bounded_foldl_setG _ _ _)).trans Iff.rfl

theorem State.Bounded.localWrite {cells} (h : s.Bounded) : (s.localWrite cells).Bounded := State.bounded_localWrite.2 h

/-! ### The end of a sequence -/

@[simp] theorem State.bounded_finish {p} : (s.finish p).Bounded ↔ s.Bounded := Res.bounded_next.trans (State.bounded_setMe Iff.rfl)

@[simp] theorem State.bounded_waitCycle : s.waitCycle.Bounded ↔ s.Bounded := Res.bounded_next.trans (State.bounded_setMe Iff.rfl)

@[simp] theorem State.bounded_waitLink {dir} : (s.waitLink dir).Bounded ↔ s.Bounded := by
  unfold State.waitLink
  repeat' split
  all_goals simp

@[simp] theorem State.bounded_waitFor {w} : (s.waitFor w).Bounded ↔ s.Bounded := Res.bounded_next.trans (State.bounded_setMe Iff.rfl)

theorem State.Bounded.finish {p} (h : s.Bounded) : (s.finish p).Bounded := State.bounded_finish.2 h
theorem State.Bounded.waitCycle (h : s.Bounded) : s.waitCycle.Bounded := State.bounded_waitCycle.2 h
theorem State.Bounded.waitLink {dir} (h : s.Bounded) : (s.waitLink dir).Bounded := State.bounded_waitLink.2 h
theorem State.Bounded.waitFor {w} (h : s.Bounded) : (s.waitFor w).Bounded := State.bounded_waitFor.2 h

/-! ### Taking a trap (R130 to R132) and ending a handler (R35) -/

/-- A full resident deque gives its oldest entry to the spill region (R118). -/
@[simp] theorem Ctx.length_pushDeque {c : Ctx} {e} (h : c.deque.length ≤ 32) : (c.pushDeque e).deque.length ≤ 32 := by
  unfold Ctx.pushDeque
  split
  · simpa using by omega
  · split
    · simp
    · next e => simpa [e] using h

@[simp] theorem Ctx.length_refill {c : Ctx} (h : c.deque.length ≤ 32) : c.refill.deque.length ≤ 32 := by
  unfold Ctx.refill
  repeat' split
  · exact h
  · exact (by decide : 1 ≤ 32)
  · exact h

@[simp] theorem State.Bounded.returnEntry {c enc e origin} (h : s.Bounded) : (s.returnEntry c enc e origin).Bounded := by
  have old := (h.core c).cxOf enc
  unfold State.returnEntry
  dsimp only
  split
  · exact h.setCore ((h.core c).setCxOf (Ctx.length_pushDeque old))
  · split
    · exact State.Bounded.creditBack (h.setCore ((h.core c).setCxOf (c := { (s.core c).cxOf enc with q := _, smc := _ }) old))
    · refine State.Bounded.event ?_
      exact h.setCore (h.core c)

/-- A record that a core keeps leaves its four lists alone. -/
theorem State.bounded_keepRec {c l} : (s.setCore c { s.core c with keptRecs := l }).Bounded ↔ s.Bounded := State.bounded_setCore Iff.rfl

@[simp] theorem State.Bounded.reportTrap {c p enc r} (h : s.Bounded) : (s.reportTrap c p enc r).Bounded := by
  unfold State.reportTrap
  dsimp only
  split
  · split
    · next e =>
      have written := h.writeFault e
      exact State.Bounded.flushKept written
    · exact (State.bounded_keepRec.2 h.countCtl).noteFull
  · exact State.bounded_keepRec.2 h

@[simp] theorem State.Bounded.stopMmam {c} (h : s.Bounded) : (s.stopMmam c).Bounded := by
  unfold State.stopMmam
  dsimp only
  split
  · exact h
  · have written : ∀ t : State, t.Bounded → (t.setCore c { t.core c with mmam := none }).Bounded := fun t ht => ht.setCore (ht.core c)
    exact written _ (by split <;> exact h)

@[simp] theorem State.Bounded.taskTrapped {p e} (h : s.Bounded) : (s.taskTrapped p e).Bounded := by
  simp [State.taskTrapped, h]

@[simp] theorem Ctx.deque_applyRow {c : Ctx} {b w} : (c.applyRow b w).deque = c.deque := rfl

@[simp] theorem Ctx.deque_applyCol {c : Ctx} {b} : (c.applyCol b).deque = c.deque := rfl

@[simp] theorem Ctx.deque_balxPass {c : Ctx} {b} : (c.balxPass b).deque = c.deque := by
  unfold Ctx.balxPass
  dsimp only
  split <;> simp

@[simp] theorem Ctx.deque_balStop {c : Ctx} {b n} : (c.balStop b n).deque = c.deque := by
  unfold Ctx.balStop
  dsimp only
  repeat' split
  all_goals simp

@[simp] theorem Core.Bounded.stopIris {n} (h : k.Bounded) : (k.stopIris n).Bounded := by
  unfold Core.stopIris
  split
  · exact Core.Bounded.setCx h (by simp [h])
  · exact h

/-- The end of a handler empties the lists that are the handler's own. -/
@[simp] theorem Core.Bounded.clearHandler (h : k.Bounded) : k.clearHandler.Bounded :=
  ⟨Nat.zero_le 32, Nat.zero_le 8, Nat.zero_le 16, h.2.2.2⟩

@[simp] theorem State.Bounded.trap {c t} (h : s.Bounded) : (s.trap c t).Bounded := by
  have counted : (if t.cause = Cause.sealmac then s.lifeAdd (1 + c) 3 1
      else if t.cause = Cause.bankecc then s.lifeAdd (1 + c) 4 1 else s).Bounded := by simp [h]
  have stopped := State.Bounded.stopMmam (c := c) (s := State.dropStalled _ c) counted
  have iris := fun n => stopped.setCore (c := c) ((stopped.core c).stopIris (n := n))
  unfold State.trap
  dsimp only
  refine State.Bounded.enqueue (State.Bounded.returnEntry (State.Bounded.reportTrap (State.Bounded.setCore (State.Bounded.taskTrapped ?_) ?_)))
  · exact iris _
  · exact ((iris _).core c).clearHandler

@[simp] theorem State.Bounded.trapMe {cause faddr} (h : s.Bounded) : (s.trapMe cause faddr).Bounded := by
  simp [State.trapMe, h]

@[simp] theorem State.Bounded.pushSpawn {c r} (h : s.Bounded) : (s.pushSpawn c r).Bounded :=
  h.setCore ((h.core c).setCx (Ctx.length_pushDeque (h.core c).cx))

@[simp] theorem State.Bounded.newMsg {c r site} (h : s.Bounded) : (s.newMsg c r site).1.Bounded := h.setCore (h.core c)

@[simp] theorem State.Bounded.heldVw {p w} (h : s.Bounded) : (s.heldVw p w).Bounded := by
  unfold State.heldVw
  split <;> simp [h]

@[simp] theorem State.Bounded.countDead {c keys} (h : s.Bounded) : (s.countDead c keys).Bounded := by
  simp [State.countDead, h]

@[simp] theorem State.Bounded.releaseStore {c ps} (h : s.Bounded) : (s.releaseStore c ps).Bounded :=
  State.Bounded.storeParts h.countDead

@[simp] theorem State.Bounded.releaseVw {c w} (h : s.Bounded) : (s.releaseVw c w).Bounded := by
  unfold State.releaseVw
  dsimp only
  split
  · exact h.countDead
  · exact State.Bounded.heldVw h

@[simp] theorem State.Bounded.release {c es} (h : s.Bounded) : (s.release c es).Bounded := by
  induction es generalizing s with
  | nil => exact h
  | cons e es ih =>
    unfold State.release
    refine ih ?_
    cases e with
    | store rel ps => exact h.releaseStore
    | vw w => exact h.releaseVw
    | spawn r => exact h.pushSpawn
    | send r n => exact State.Bounded.sendFrom (State.Bounded.newMsg (r := r) (site := c) h)
    | sendm r tree => exact State.Bounded.newMsg (r := r) (site := c) h

@[simp] theorem State.Bounded.endHandler {c} (h : s.Bounded) : (s.endHandler c).Bounded := by
  have left : (s.release c (s.core c).sbuf).Bounded := h.release
  have cleared := left.setCore (c := c) (left.core c).clearHandler
  unfold State.endHandler
  dsimp only
  refine State.Bounded.enqueue ?_
  repeat' split
  all_goals exact cleared

/-! ### Register operands -/

/-- A source takes at most an entry from dq. -/
theorem Core.Bounded.src {p r v} {k' : Core} (h : k.Bounded) (e : k.src p r = .val v k') : k'.Bounded := by
  obtain ⟨hs, hb, hd, hc⟩ := h
  unfold Core.src Core.popDq at e
  repeat' split at e
  all_goals cases e
  · next q => rw [q] at hd; exact ⟨hs, hb, Nat.le_of_succ_le hd, hc⟩
  · exact ⟨hs, hb, hd, hc⟩

/-- A condition takes at most an entry from bq. -/
theorem Core.Bounded.cond {p r v} {k' : Core} (h : k.Bounded) (e : k.cond p r = .val v k') : k'.Bounded := by
  obtain ⟨hs, hb, hd, hc⟩ := h
  unfold Core.cond at e
  split at e
  · split at e
    · cases e
    · next q => cases e; rw [q] at hb; exact ⟨hs, Nat.le_of_succ_le hb, hd, hc⟩
  · cases e; exact ⟨hs, hb, hd, hc⟩

/-- A result goes to bq only where an entry is free. -/
theorem Core.Bounded.dst {p d v} {k' : Core} (h : k.Bounded) (e : k.dst p d v = some k') : k'.Bounded := by
  obtain ⟨hs, hb, hd, hc⟩ := h
  unfold Core.dst at e
  repeat' split at e
  all_goals cases e
  · exact ⟨hs, by simpa using by omega, hd, hc⟩
  · exact ⟨hs, hb, hd, hc⟩

@[simp] theorem State.Bounded.alu {p d last f} (h : s.Bounded) : (s.alu p d last f).Bounded := by
  unfold State.alu
  split
  · exact h.trapMe
  · exact h.waitCycle
  · next e =>
    have taken := h.me.src e
    split
    · exact h.trapMe
    · next e => exact (h.setMe (taken.dst e)).finish

/-! ### Global accesses -/

@[simp] theorem State.Bounded.keyMiss {x uid} (h : s.Bounded) : (s.keyMiss x uid).Bounded := by
  unfold State.keyMiss
  refine State.Bounded.waitFor (State.Bounded.enqueue ?_)
  split
  · exact h
  · exact h.setMe (h.me.setCx h.me.cx)

@[simp] theorem State.Bounded.issueAccess {p x uids} (h : s.Bounded) (hk : k.Bounded) : (s.issueAccess p k x uids).Bounded := by
  unfold State.issueAccess
  split
  · exact h.waitCycle
  · split
    · exact h.keyMiss
    · exact State.Bounded.finish (h.setMe hk)

/-- An entry enters the send buffer where one is free. -/
theorem Core.Bounded.push {e} (h : k.Bounded) (room : k.sbuf.length ≠ 32) : Core.Bounded { k with sbuf := k.sbuf ++ [e] } := by
  obtain ⟨hs, hb, hd, hc⟩ := h
  exact ⟨by simpa using by omega, hb, hd, hc⟩

theorem State.Bounded.holdStore {p parts} (h : s.Bounded) (room : s.me.sbuf.length ≠ 32) : (s.holdStore p parts).Bounded :=
  (h.setMe (h.me.push room)).finish

theorem Core.room_of_fullBuffer (h : k.fullBuffer = none) (st : k.staged = true) : k.sbuf.length ≠ 32 := by
  simpa [Core.fullBuffer, st] using h

/-- What a write that leaves the core does to held entries leaves their number as it is. -/
theorem State.bounded_mapSbuf {f n} : (s.setMe { s.me with seqno := n, sbuf := s.me.sbuf.map f }).Bounded ↔ s.Bounded := by
  refine State.bounded_setMe ?_
  simp only [Core.bounded_mk, List.length_map]
  exact Iff.rfl

@[simp] theorem State.Bounded.enqueueStores {p va kind ps} (h : s.Bounded) : (s.enqueueStores p va kind ps).Bounded := by
  induction ps generalizing s with
  | nil => exact h
  | cons x ps ih => exact ih h

@[simp] theorem State.Bounded.globalStore {p va parts kind} (h : s.Bounded) : (s.globalStore p va parts kind).Bounded := by
  unfold State.globalStore
  dsimp only
  split
  · exact h.trapMe
  next full =>
  split
  · exact h.waitCycle
  · split
    · exact h.keyMiss
    · split
      · next st => exact State.Bounded.holdStore h (Core.room_of_fullBuffer full st)
      · exact State.Bounded.finish (State.bounded_mapSbuf.2 (State.Bounded.enqueueStores h))

@[simp] theorem State.Bounded.giveG {c hid d v} (h : s.Bounded) : (s.giveG c hid d v).Bounded := by
  simp [State.giveG, h]

@[simp] theorem length_fillDq {n v q} : (fillDq n v q).length = q.length := by
  induction q with
  | nil => rfl
  | cons x q ih =>
    unfold fillDq
    split
    · rfl
    · simp [ih]

@[simp] theorem State.Bounded.giveDq {c hid seqno v} (h : s.Bounded) : (s.giveDq c hid seqno v).Bounded := by
  obtain ⟨hs, hb, hd, hc⟩ := h.core c
  unfold State.giveDq
  dsimp only
  split
  · exact h.setCore ⟨hs, hb, by simpa using hd, hc⟩
  · exact h

@[simp] theorem State.Bounded.lateMac {c hid va pc} (h : s.Bounded) : (s.lateMac c hid va pc).Bounded := by
  simp [State.lateMac, h]

@[simp] theorem State.Bounded.badAccess {x} (h : s.Bounded) : (s.badAccess x).Bounded := by
  simp [State.badAccess, h]

@[simp] theorem execAccessPerformed_bounded {x} (h : s.Bounded) : (execAccessPerformed x s).Bounded := by
  unfold execAccessPerformed
  dsimp only
  split
  · exact State.Bounded.outcome h
  · split
    · exact h.badAccess.outcome
    · split
      · split
        · exact State.Bounded.outcome h.giveG
        · exact State.Bounded.outcome h.giveDq
      · exact State.Bounded.outcome (h.setCore ((h.core x.core).setCx (h.core x.core).cx))
      · exact h.storeCells.outcome
      · exact h.storeCells.outcome
      · refine (State.Bounded.giveG ?_).outcome
        split
        · exact h.storeParts.storeCells
        · exact h.storeParts

/-! ### Banks -/

@[simp] theorem State.bounded_setSlotOf {c enc n e} : (s.setSlotOf c enc n e).Bounded ↔ s.Bounded :=
  State.bounded_setCore (Core.bounded_setCxOf Iff.rfl)

theorem State.Bounded.setSlotOf {c enc n e} (h : s.Bounded) : (s.setSlotOf c enc n e).Bounded := State.bounded_setSlotOf.2 h

@[simp] theorem State.Bounded.attach {c enc n bank} (h : s.Bounded) : (s.attach c enc n bank).Bounded := h.setSlotOf

@[simp] theorem State.Bounded.detach {c enc n} (h : s.Bounded) : (s.detach c enc n).Bounded := h.setSlotOf

@[simp] theorem execAtt_bounded {p d} (h : s.Bounded) : (execAtt p d s).Bounded := by
  unfold execAtt
  dsimp only
  repeat' split
  all_goals simp [h]

@[simp] theorem execDet_bounded {p d} (h : s.Bounded) : (execDet p d s).Bounded := by
  unfold execDet
  dsimp only
  split <;> simp [h]

@[simp] theorem execBqry_bounded {p d a} (h : s.Bounded) : (execBqry p d a s).Bounded := by
  unfold execBqry
  split <;> simp [h]

@[simp] theorem execBzero_bounded {p d} (h : s.Bounded) : (execBzero p d s).Bounded := by
  unfold execBzero
  dsimp only
  split <;> simp [h]

@[simp] theorem State.Bounded.hand {p d a x} (h : s.Bounded) : (s.hand p d a x).Bounded := by
  unfold State.hand
  dsimp only
  repeat' split
  all_goals simp [h]

@[simp] theorem execHandReservation_bounded {r} (h : s.Bounded) : (execHandReservation r s).Bounded := by
  simp [execHandReservation, h]

@[simp] theorem State.Bounded.unreserve {r} (h : s.Bounded) : (s.unreserve r).Bounded := by
  simp [State.unreserve, h]

@[simp] theorem execHandGrant_bounded {r ok} (h : s.Bounded) : (execHandGrant r ok s).Bounded := by
  unfold execHandGrant
  dsimp only
  split
  · split
    · simp [h]
    · split
      · exact h.trap.outcome
      · split
        · refine State.Bounded.outcome (State.Bounded.enqueue ((State.bounded_setCore Core.bounded_resume).2 ?_))
          exact h.setSlotOf
        · exact h.unreserve.trap.outcome
  · simp [h]

@[simp] theorem execBankAttach_bounded {r} (h : s.Bounded) : (execBankAttach r s).Bounded := by
  simp [execBankAttach, h]

@[simp] theorem State.Bounded.scrub {b} (h : s.Bounded) : (s.scrub b).Bounded := h

@[simp] theorem execBankReturnPool_bounded {b} (h : s.Bounded) : (execBankReturnPool b s).Bounded := by
  unfold execBankReturnPool
  split <;> simp [h]

@[simp] theorem execScrubComplete_bounded {b} (h : s.Bounded) : (execScrubComplete b s).Bounded := by
  simp [execScrubComplete, h]

@[simp] theorem execRevoke_bounded {p d} (h : s.Bounded) : (execRevoke p d s).Bounded := by
  unfold execRevoke
  dsimp only
  repeat' split
  all_goals simp [h]

/-- A change of every core that keeps its lists keeps the bounds. -/
theorem coresBounded.map {m : SMap Core} {f : Nat × Core → Nat × Core} (h : coresBounded m) (hf : ∀ x, x.2.Bounded → (f x).2.Bounded) :
    coresBounded (m.map f) := by
  intro x hx
  obtain ⟨y, hy, rfl⟩ := List.mem_map.1 hx
  exact hf y (h y hy)

theorem dequesBounded.map {m : SMap Ctx} {f : Nat × Ctx → Nat × Ctx} (h : dequesBounded m) (hf : ∀ x, (f x).2.deque = x.2.deque) :
    dequesBounded (m.map f) := by
  intro x hx
  obtain ⟨y, hy, rfl⟩ := List.mem_map.1 hx
  rw [hf y]
  exact h y hy

@[simp] theorem State.Bounded.dropBank {b} (h : s.Bounded) : (s.dropBank b).Bounded :=
  h.cores.map fun _ hk => ⟨hk.1, hk.2.1, hk.2.2.1, dequesBounded.map hk.2.2.2 fun _ => rfl⟩

@[simp] theorem State.Bounded.stopBankCopies {b} (h : s.Bounded) : (s.stopBankCopies b).Bounded := h.cores.map fun _ hk => hk

@[simp] theorem State.Bounded.revokeAccepted {part b} (h : s.Bounded) : (s.revokeAccepted part b).Bounded := by
  refine h.cores.map fun x hk => ?_
  obtain ⟨c, k⟩ := x
  dsimp only
  repeat' split
  all_goals exact hk

@[simp] theorem State.Bounded.revokeRefused {part b cause} (h : s.Bounded) : (s.revokeRefused part b cause).Bounded :=
  State.foldl_bounded (fun _ _ ht => ht.trap) _ h

@[simp] theorem State.Bounded.revokeBank {b} (h : s.Bounded) : (s.revokeBank b).Bounded := by
  unfold State.revokeBank
  split
  · exact h
  · exact h
  · exact h.dropBank.stopBankCopies.scrub

@[simp] theorem execBankRevoked_bounded {r} (h : s.Bounded) : (execBankRevoked r s).Bounded := by
  simp [execBankRevoked, h]

@[simp] theorem execBankPoison_bounded {b off} (h : s.Bounded) : (execBankPoison b off s).Bounded := by
  simp [execBankPoison, h]

/-! ### Messages -/

@[simp] theorem State.Bounded.buffer {p e spawn r own} (h : s.Bounded) : (s.buffer p e spawn r own).Bounded := by
  unfold State.buffer
  dsimp only
  split
  · exact h.trapMe
  · split
    · exact h.trapMe
    · split
      · exact h.trapMe
      · next room =>
        have pushed := h.me.push (e := e (setOrig r s.me.lnum)) room
        exact State.Bounded.finish (h.setMe pushed)

@[simp] theorem State.Bounded.bufferLocal {p la e spawn own} (h : s.Bounded) : (s.bufferLocal p la e spawn own).Bounded := by
  unfold State.bufferLocal
  split <;> simp [h]

theorem State.Bounded.keepMsg {m t} (h : s.Bounded) (e : s.keepMsg m = some t) : t.Bounded := by
  rw [State.keepMsg_eq e]
  exact h.setCore (h.core m.chan)

@[simp] theorem State.Bounded.bounce {m} (h : s.Bounded) : (s.bounce m).Bounded :=
  State.getD_bounded (fun _ e => h.keepMsg e) h

@[simp] theorem State.Bounded.bounceAll {stay ms} (h : s.Bounded) : (s.bounceAll stay ms).Bounded := by
  induction ms generalizing s stay with
  | nil => exact h
  | cons m ms ih =>
    unfold State.bounceAll
    split
    · next e => exact ih (h.keepMsg e)
    · exact ih h

@[simp] theorem State.Bounded.accepted {m} (h : s.Bounded) : (s.accepted m).Bounded := by
  simp [State.accepted, h]

@[simp] theorem State.Bounded.wakeIdle {c} (h : s.Bounded) : (s.wakeIdle c).Bounded := by
  simp [State.wakeIdle, h]

theorem State.Bounded.arriveQueue {c enc q e t} (h : s.Bounded) (eq : s.arriveQueue c enc q e = some t) : t.Bounded := by
  unfold State.arriveQueue at eq
  dsimp only at eq
  have old := h.core c
  split at eq
  · split at eq <;> cases eq
    exact h.setCore (Core.Bounded.setCxOf (k := { s.core c with seqno := _ }) old (old.cxOf enc))
  · cases eq
    exact State.Bounded.creditBack (h.setCore (Core.Bounded.setCxOf (k := { s.core c with seqno := _ }) old (old.cxOf enc)))

@[simp] theorem State.Bounded.rewake {m} (h : s.Bounded) : (s.rewake m).Bounded := by
  unfold State.rewake
  split <;> simp [h]

@[simp] theorem State.Bounded.arrive {m} (h : s.Bounded) : (s.arrive m).Bounded := by
  unfold State.arrive
  dsimp only
  split
  · simp [h]
  · split
    · exact h.bounce
    · split
      · split
        · next e => exact State.Bounded.wakeIdle (State.Bounded.accepted (h.arriveQueue e))
        · exact h.bounce
      · split
        · exact State.Bounded.accepted (h.setCore ((h.core m.site).setCxOf ((h.core m.site).cxOf m.enc)))
        · exact h.bounce

@[simp] theorem State.Bounded.resend {c m} (h : s.Bounded) : (s.resend c m).Bounded := h.setCore (h.core c)

@[simp] theorem execBounceResend_bounded (h : s.Bounded) : (execBounceResend s).Bounded := by
  unfold execBounceResend
  dsimp only
  split <;> simp [h]

@[simp] theorem execMessageAccepted_bounded {m} (h : s.Bounded) : (execMessageAccepted m s).Bounded := by
  unfold execMessageAccepted
  dsimp only
  split <;> simp [h]

@[simp] theorem execSendRoomFreed_bounded (h : s.Bounded) : (execSendRoomFreed s).Bounded := by
  simp [execSendRoomFreed, h]

@[simp] theorem State.Bounded.stampCopy {m} (h : s.Bounded) : (s.stampCopy m).1.Bounded := h.setCore h.me

@[simp] theorem State.Bounded.enqueueOwn {m} (h : s.Bounded) : (s.enqueueOwn m).Bounded := h

@[simp] theorem execMulticastForward_bounded {m tree node} (h : s.Bounded) : (execMulticastForward m tree node s).Bounded := by
  unfold execMulticastForward
  split
  next t m' e =>
  have ht : t.Bounded := by
    split at e
    · have stamped := State.Bounded.stampCopy (m := m) h
      rw [e] at stamped
      exact stamped
    · cases e; exact h
  dsimp only
  split
  · exact ht.outcome
  · split
    · exact ht.outcome
    · refine State.Bounded.outcome (State.foldl_bounded (fun _ _ hu => ?_) _ ?_)
      · exact hu
      · simp [ht]

/-- What waits for the keys of the held stores keeps the bounds when what follows does. -/
theorem State.Bounded.withHeldKeys {p f} (h : s.Bounded) (hf : ∀ t, t.Bounded → (f t).Bounded) : (s.withHeldKeys p f).Bounded := by
  unfold State.withHeldKeys
  split
  · exact hf s h
  · split
    · exact h.keyMiss
    · exact hf _ h

/-- The end of a strand (DONE, YIELD, IDLE) keeps the bounds when what it does to the strand does. -/
theorem State.Bounded.endingWith {p mayTask f} (h : s.Bounded) (hf : ∀ t, t.Bounded → (f t).Bounded) :
    (s.endingWith p mayTask f).Bounded := by
  unfold State.endingWith
  dsimp only
  split
  · exact h.waitCycle
  · split
    · exact h.trapMe
    · split
      · exact h.waitCycle
      · split
        · exact h.waitFor
        · exact h.withHeldKeys fun _ ht => State.Bounded.outcome (hf _ (ht.setMe ht.me))

@[simp] theorem execDone_bounded {p} (h : s.Bounded) : (execDone p s).Bounded := by
  unfold execDone
  exact h.endingWith fun _ ht => ht.endHandler

@[simp] theorem State.Bounded.yieldMsg {enc r} (h : s.Bounded) : (s.yieldMsg enc r).Bounded :=
  State.Bounded.arrive (State.Bounded.newMsg (r := r) (site := s.cur) h)

@[simp] theorem execYield_bounded {p} (h : s.Bounded) : (execYield p s).Bounded := by
  unfold execYield
  exact h.endingWith fun _ ht => ht.endHandler.yieldMsg

@[simp] theorem execQcfg_bounded {p q a} (h : s.Bounded) : (execQcfg p q a s).Bounded := by
  simp [execQcfg, h]

@[simp] theorem State.Bounded.placeEntries {c es} (h : s.Bounded) : (s.placeEntries c es).Bounded := by
  induction es generalizing s with
  | nil => exact h
  | cons x es ih =>
    unfold State.placeEntries
    refine ih ?_
    split
    · exact State.Bounded.creditBack (h.setCore ((h.core c).setCxOf ((h.core c).cxOf (x.2 / 4))))
    · exact h.setCore (h.core c)

@[simp] theorem State.Bounded.placeKept {c} (h : s.Bounded) : (s.placeKept c).Bounded := by
  simp [State.placeKept, h]

@[simp] theorem State.Bounded.popQueue {c enc q} (h : s.Bounded) : (s.popQueue c enc q).Bounded := by
  unfold State.popQueue
  exact State.Bounded.placeKept (State.Bounded.creditBack (h.setCore ((h.core c).setCxOf ((h.core c).cxOf enc))))

@[simp] theorem execQpop_bounded {p d q} (h : s.Bounded) : (execQpop p d q s).Bounded := by
  unfold execQpop
  dsimp only
  split
  · exact h.waitCycle
  · exact h.trapMe
  · split
    · exact h.localWrite.finish
    · exact h.popQueue.localWrite.finish

@[simp] theorem execPost_bounded {p dir a} (h : s.Bounded) : (execPost p dir a s).Bounded := by
  unfold execPost
  dsimp only
  split
  · exact h.trapMe
  · split
    · exact h.waitLink
    · exact State.Bounded.finish (h.setMe h.me)

@[simp] theorem execXget_bounded {p d dir} (h : s.Bounded) : (execXget p d dir s).Bounded := by
  unfold execXget
  dsimp only
  split
  · exact h.waitLink
  · split
    · refine State.Bounded.finish (State.Bounded.enqueue ?_)
      exact h.setMe h.me
    · refine State.Bounded.finish ?_
      exact h.setMe h.me

@[simp] theorem execLinkValueArrival_bounded {l} (h : s.Bounded) : (execLinkValueArrival l s).Bounded := by
  simp [execLinkValueArrival, h]

/-! ### Versioned words -/

/-- The issue of a versioned word's instruction keeps the bounds when the instruction does, its checks passed. -/
theorem State.Bounded.vwIssue {p va want pre f} (h : s.Bounded)
    (hf : ∀ cell t, pre cell = none → t.me = s.me → t.Bounded → (f cell t).Bounded) : (s.vwIssue p va want pre f).Bounded := by
  unfold State.vwIssue
  split
  · exact h.trapMe
  · exact Res.bounded_fault _
  · split
    · exact h.trapMe
    next passed =>
    split
    · exact h.waitCycle
    · split
      · exact h.keyMiss
      · split
        · exact h.trapMe
        · exact hf _ _ passed rfl h

@[simp] theorem State.Bounded.vwWait {p i} (h : s.Bounded) : (s.vwWait p i).Bounded := by
  unfold State.vwWait
  exact State.Bounded.waitFor (h.setMe h.me)

theorem State.Bounded.vwWrite {p w i} (h : s.Bounded) (room : s.me.fullBuffer = none) : (s.vwWrite p w i).Bounded := by
  unfold State.vwWrite
  dsimp only
  split
  · next st => exact State.Bounded.finish (h.setMe (h.me.push (Core.room_of_fullBuffer room st)))
  · exact State.Bounded.finish (State.Bounded.enqueue (State.bounded_mapSbuf.2 h))

@[simp] theorem execVwld_bounded {p d a b} (h : s.Bounded) : (execVwld p d a b s).Bounded := by
  unfold execVwld
  exact h.vwIssue fun _ _ _ _ ht => ht.vwWait

@[simp] theorem execVwst_bounded {p d a b} (h : s.Bounded) : (execVwst p d a b s).Bounded := by
  unfold execVwst
  exact h.vwIssue fun _ _ room me ht => ht.vwWrite (me ▸ room)

@[simp] theorem execVwinc_bounded {p d a} (h : s.Bounded) : (execVwinc p d a s).Bounded := by
  unfold execVwinc
  exact h.vwIssue fun _ _ room me ht => ht.vwWrite (me ▸ room)

@[simp] theorem execVwpk_bounded {p d a} (h : s.Bounded) : (execVwpk p d a s).Bounded := by
  unfold execVwpk
  exact h.vwIssue fun _ _ _ _ ht => ht.vwWait

@[simp] theorem execVwrst_bounded {p a} (h : s.Bounded) : (execVwrst p a s).Bounded := by
  unfold execVwrst
  exact h.vwIssue fun _ _ _ _ ht => ht.vwWait

@[simp] theorem execPark_bounded {p d a} (h : s.Bounded) : (execPark p d a s).Bounded := by
  unfold execPark
  dsimp only
  split
  · exact h.waitCycle
  · refine h.vwIssue fun cell t _ _ ht => ?_
    split
    · exact ht.waitCycle
    · split
      · exact ht.waitFor
      · exact ht.withHeldKeys fun _ hu => hu.vwWait

@[simp] theorem State.Bounded.vwAnswer {r x} (h : s.Bounded) : (s.vwAnswer r x).Bounded := h

@[simp] theorem State.Bounded.listCont {r n rec i} (h : s.Bounded) : (s.listCont r n rec i).Bounded := by
  simp [State.listCont, h]

@[simp] theorem State.Bounded.useHeld {c} (h : s.Bounded) : (s.useHeld c).Bounded := by
  unfold State.useHeld
  dsimp only
  split
  · exact h
  · exact State.Bounded.useKeys (h.setCore ((h.core c).setCx (h.core c).cx))

@[simp] theorem State.Bounded.parkAt {r n rec} (h : s.Bounded) : (s.parkAt r n rec).Bounded := by
  have used : (s.useHeld r.core).Bounded := h.useHeld
  unfold State.parkAt
  dsimp only
  split
  · split
    · next e => exact used.endHandler.sendWake e
    · exact used.endHandler.reportRecord
  · split
    · exact used.vwAnswer
    · exact used.endHandler.listCont

@[simp] theorem State.Bounded.deadCell {r waits} (h : s.Bounded) : (s.deadCell r waits).Bounded := by
  simp [State.deadCell, h]

@[simp] theorem execVwHomeLoad_bounded {r} (h : s.Bounded) : (execVwHomeLoad r s).Bounded := by
  unfold execVwHomeLoad
  dsimp only
  repeat' split
  all_goals simp [h]

@[simp] theorem execVwHomePark_bounded {r} (h : s.Bounded) : (execVwHomePark r s).Bounded := by
  unfold execVwHomePark
  split <;> simp [h]

@[simp] theorem execVwHomeStore_bounded {r} (h : s.Bounded) : (execVwHomeStore r s).Bounded := by
  unfold execVwHomeStore
  split <;> simp [h]

@[simp] theorem execVwHomeInc_bounded {r} (h : s.Bounded) : (execVwHomeInc r s).Bounded := by
  unfold execVwHomeInc
  split <;> simp [h]

@[simp] theorem execVwHomePeek_bounded {r} (h : s.Bounded) : (execVwHomePeek r s).Bounded := by
  unfold execVwHomePeek
  split <;> simp [h]

@[simp] theorem execVwHomeReset_bounded {r} (h : s.Bounded) : (execVwHomeReset r s).Bounded := by
  unfold execVwHomeReset
  split <;> simp [h]

@[simp] theorem execVwReply_bounded {r} (h : s.Bounded) : (execVwReply r s).Bounded := by
  unfold execVwReply
  dsimp only
  repeat' split
  all_goals simp [h]

end Sys2Proof.Machine

end

section
/-! PROOF. O12, copies, tasks, control registers and dispatch keep the bounds of the queues. -/

namespace Sys2Proof.Machine

variable {s : State} {k : Core}

/-! ### Copies -/

@[simp] theorem State.Bounded.issueCopy {p cmd} (h : s.Bounded) : (s.issueCopy p cmd).Bounded := by
  unfold State.issueCopy
  dsimp only
  split
  · exact State.Bounded.waitCycle (h.setMe h.me)
  · refine State.Bounded.finish (State.Bounded.enqueue ?_)
    exact h.setMe (h.me.setCx h.cx)

/-- A completion cell that may not be written leaves a trap or a wait. -/
theorem State.Bounded.cellBad {va want r} (h : s.Bounded) (e : s.cellBad va want = some r) : r.Bounded := by
  unfold State.cellBad at e
  repeat' split at e
  all_goals cases e
  all_goals simp [h]

@[simp] theorem State.Bounded.copyChecks {p form da} (h : s.Bounded) : (s.copyChecks p form da).Bounded := by
  unfold State.copyChecks
  dsimp only
  split
  · exact h.trapMe
  · split
    · exact h.waitCycle
    · exact h.trapMe
    · split
      · exact h.trapMe
      · split
        · exact h.waitCycle
        · exact h.trapMe
        · exact h.waitCycle
        · split
          · exact h.waitCycle
          · exact h.trapMe
          · exact h.waitCycle
          · split
            · next e =>
              split at e
              · cases e
              · exact h.cellBad e
            · split
              · next e =>
                split at e
                · exact h.cellBad e
                · cases e
              · exact h.issueCopy

@[simp] theorem State.Bounded.copyIssue {p form d} (h : s.Bounded) : (s.copyIssue p form d).Bounded := by
  unfold State.copyIssue
  split <;> simp [h]

@[simp] theorem execCcan_bounded {p d} (h : s.Bounded) : (execCcan p d s).Bounded := by
  simp [execCcan, h]

@[simp] theorem State.Bounded.setNim {cl n} (h : s.Bounded) : (s.setNim cl n).Bounded := h

@[simp] theorem execCqset_bounded {p d a} (h : s.Bounded) : (execCqset p d a s).Bounded := by
  unfold execCqset
  dsimp only
  split
  · exact h.trapMe
  · exact State.Bounded.finish (State.Bounded.setCx h.setNim h.cx)

@[simp] theorem execCwait_bounded {p a ch} (h : s.Bounded) : (execCwait p a ch s).Bounded := by
  simp [execCwait, h]

@[simp] theorem State.Bounded.setCwp {c st off} (h : s.Bounded) : (s.setCwp c st off).Bounded := by
  simp [State.setCwp, h]

@[simp] theorem State.Bounded.badLine {cl bad} (h : s.Bounded) : (s.badLine cl bad).Bounded := by
  simp [State.badLine, h]

@[simp] theorem State.Bounded.completionWrite {cl p va v} (h : s.Bounded) : (s.completionWrite cl p va v).Bounded := by
  unfold State.completionWrite
  repeat' split
  all_goals simp [h]

@[simp] theorem State.Bounded.stagingEnded {t st} (h : s.Bounded) : (s.stagingEnded t st).Bounded := by
  unfold State.stagingEnded
  dsimp only
  split <;> simp [h]

@[simp] theorem State.Bounded.endCopy {cl c st cause} (h : s.Bounded) : (s.endCopy cl c st cause).Bounded := by
  unfold State.endCopy
  dsimp only
  split
  · exact h.setNim.setCwp.stagingEnded
  · split
    · exact h.setNim.setCwp
    · exact h.setNim.setCwp.completionWrite

@[simp] theorem State.Bounded.endStopped {cl cs} (h : s.Bounded) : (s.endStopped cl cs).Bounded := by
  induction cs generalizing s with
  | nil => exact h
  | cons c cs ih =>
    unfold State.endStopped
    refine ih ?_
    split
    · split
      · exact h.endCopy
      · exact h
    · exact h

@[simp] theorem State.Bounded.kickNimbus {cl} (h : s.Bounded) : (s.kickNimbus cl).Bounded := by
  simp [State.kickNimbus, h]

@[simp] theorem State.Bounded.acceptCopy {cl r staging} (h : s.Bounded) : (s.acceptCopy cl r staging).Bounded := by
  simp [State.acceptCopy, h]

@[simp] theorem State.Bounded.takeEntry {r} (h : s.Bounded) : (s.takeEntry r).1.Bounded :=
  h.setCore ((h.core r.core).setCxOf ((h.core r.core).cxOf r.enc))

@[simp] theorem execCopyCommand_bounded {r} (h : s.Bounded) : (execCopyCommand r s).Bounded := by
  unfold execCopyCommand
  split
  · exact h.outcome
  · exact State.Bounded.outcome (State.Bounded.acceptCopy h.takeEntry)

@[simp] theorem execCpymVersionReached_bounded {r} (h : s.Bounded) : (execCpymVersionReached r s).Bounded := by
  unfold execCpymVersionReached
  dsimp only
  split <;> simp [h]

/-- A destination line that is written keeps the bounds (R230). -/
theorem State.Bounded.destLine {r k bs bad t line} (h : s.Bounded) (e : s.destLine r k bs bad = .written t line) : t.Bounded := by
  unfold State.destLine at e
  dsimp only at e
  split at e
  · cases e
    simp [h]
  · split at e
    · cases e
    · split at e <;> cases e
      split
      · simp [h.useKey]
      · exact h.useKey.storeCells

@[simp] theorem State.Bounded.lineMoved {cl e c line} (h : s.Bounded) : (s.lineMoved cl e c line).Bounded := by
  simp [State.lineMoved, h]

@[simp] theorem State.Bounded.badDrain {cl cause} (h : s.Bounded) : (s.badDrain cl cause).Bounded := by
  simp [State.badDrain, h]

@[simp] theorem State.Bounded.moveTo {cl e bs bad cs} (h : s.Bounded) : (s.moveTo cl e bs bad cs).Bounded := by
  induction cs generalizing s with
  | nil => exact h.outcome
  | cons c cs ih =>
    unfold State.moveTo
    split
    · next e => exact ih (h.destLine e).lineMoved
    · exact ih h.badDrain.endCopy
    · exact Res.bounded_fault _

@[simp] theorem State.Bounded.endAll {cl st cause cs} (h : s.Bounded) : (s.endAll cl st cause cs).Bounded := by
  induction cs generalizing s with
  | nil => exact h
  | cons c cs ih => exact ih h.endCopy

@[simp] theorem State.Bounded.copyLine {cl} (h : s.Bounded) : (s.copyLine cl).Bounded := by
  have ended : ((s.setNim cl (s.nim cl).turn).endStopped cl ((s.setNim cl (s.nim cl).turn).nim cl).copies).Bounded :=
    State.Bounded.endStopped h.setNim
  unfold State.copyLine
  dsimp only
  split
  · simp [ended]
  · split
    · exact Res.bounded_fault _
    · exact ended.setNim.badDrain.endAll.kickNimbus.outcome
    · next bs bad uid _ =>
      have moved : ∀ t : State, t.Bounded → ∀ e ms, Res.Bounded ((t.badLine cl bad).moveTo cl e bs bad ms) :=
        fun t ht e ms => ht.badLine.moveTo
      split
      · next u e =>
        have lined := moved _ ?_ _ _ _ e
        · simp [lined]
        · split
          · exact ended.setNim.useKey
          · exact ended.setNim
      · refine moved _ ?_ _ _
        split
        · exact ended.setNim.useKey
        · exact ended.setNim

@[simp] theorem execCopyBudgetWindow_bounded (h : s.Bounded) : (execCopyBudgetWindow s).Bounded := by
  simp [execCopyBudgetWindow, h]

/-! ### Tasks -/

@[simp] theorem State.Bounded.put {p va bs} (h : s.Bounded) : (s.put p va bs).Bounded :=
  State.getD_bounded (fun _ e => h.physWrite e) h

@[simp] theorem State.Bounded.setStatus {p entry st} (h : s.Bounded) : (s.setStatus p entry st).Bounded := by
  simp [State.setStatus, h]

@[simp] theorem State.Bounded.setTaskState {p entry st} (h : s.Bounded) : (s.setTaskState p entry st).Bounded := by
  simp [State.setTaskState, h]

@[simp] theorem State.Bounded.setTask {t} (h : s.Bounded) : (s.setTask t).Bounded := h

@[simp] theorem State.Bounded.addTask {t} (h : s.Bounded) : (s.addTask t).Bounded := h

@[simp] theorem State.Bounded.writeEntry {p entry tr status dest} (h : s.Bounded) : (s.writeEntry p entry tr status dest).Bounded := by
  simp [State.writeEntry, h]

@[simp] theorem State.Bounded.submitTask {tr q} (h : s.Bounded) : (s.submitTask tr q).1.Bounded := by
  unfold State.submitTask
  dsimp only
  exact h.setPart.writeEntry.addTask.enqueue

/-- The read of a task's record keeps the bounds when what follows the read does. -/
theorem State.Bounded.readTail {p e f} (h : s.Bounded) (hf : ∀ t, t.Bounded → (f t).Bounded) : (s.readTail p e f).Bounded := by
  have touched : ({ s.unstall with keys := touchKeys s.keys (s.uidsOf s.me.part e 256) } : State).Bounded :=
    State.Bounded.of_cores h rfl
  simp only [State.readTail]
  split
  · exact h.waitCycle
  · split
    · exact h.keyMiss
    · split
      · exact touched.trapMe
      · exact hf _ touched

@[simp] theorem execTask_bounded {p d} (h : s.Bounded) : (execTask p d s).Bounded := by
  unfold execTask
  dsimp only
  split
  · exact h.trapMe
  · split
    · exact h.waitCycle
    · exact h.trapMe
    · split
      · exact h.waitCycle
      · exact h.trapMe
      · split
        · exact h.trapMe
        · split
          · exact h.trapMe
          · split
            · exact h.trapMe
            · refine h.readTail fun t ht => ?_
              split
              · exact ht.trapMe
              · split
                · exact ht.waitCycle
                · exact ht.submitTask.localWrite.finish

theorem State.Bounded.recordPage {ra fa go} (h : s.Bounded) (hg : ∀ l u, (go l u).Bounded) : (s.recordPage ra fa go).Bounded := by
  unfold State.recordPage
  split
  · exact h.trapMe
  · exact Res.bounded_fault _
  · exact hg _ _

@[simp] theorem execTtag_bounded {p d a} (h : s.Bounded) : (execTtag p d a s).Bounded := by
  unfold execTtag
  dsimp only
  split
  · exact h.trapMe
  · split
    · exact h.trapMe
    · exact h.recordPage fun _ _ => h.globalStore

@[simp] theorem execTshape_bounded {p d a} (h : s.Bounded) : (execTshape p d a s).Bounded := by
  unfold execTshape
  dsimp only
  split
  · exact h.trapMe
  · split
    · exact h.trapMe
    · split
      · exact h.waitCycle
      · exact h.trapMe
      · split
        · exact h.trapMe
        · exact h.recordPage fun _ _ => h.globalStore

@[simp] theorem execTqry_bounded {p d a} (h : s.Bounded) : (execTqry p d a s).Bounded := by
  unfold execTqry
  dsimp only
  repeat' split
  all_goals simp [h]

@[simp] theorem State.Bounded.asterTouch {p cl spans} (h : s.Bounded) : (s.asterTouch p cl spans).Bounded := by
  simp [State.asterTouch, h]

@[simp] theorem State.Bounded.tellAsters {cls} (h : s.Bounded) : (s.tellAsters cls).Bounded := by
  induction cls generalizing s with
  | nil => exact h
  | cons c cls ih => exact ih h

@[simp] theorem State.Bounded.mtloadRead {p a n} (h : s.Bounded) : (s.mtloadRead p a n).Bounded := by
  unfold State.mtloadRead
  dsimp only
  split
  · exact h.waitCycle
  · split
    · exact h.keyMiss
    · split
      · exact State.Bounded.trapMe h
      · split
        · exact State.Bounded.trapMe h
        · split
          · exact State.Bounded.finish h
          · exact State.Bounded.waitFor (State.Bounded.tellAsters h)

@[simp] theorem execMtload_bounded {p d} (h : s.Bounded) : (execMtload p d s).Bounded := by
  unfold execMtload
  dsimp only
  repeat' split
  all_goals simp [h]

theorem State.Bounded.mtWaiter {cl c} (h : s.Bounded) (e : s.mtWaiter cl = some (c, k)) : k.Bounded :=
  h (c, k) (List.mem_of_find?_eq_some e)

@[simp] theorem execMethodTableInstall_bounded (h : s.Bounded) : (execMethodTableInstall s).Bounded := by
  unfold execMethodTableInstall
  dsimp only
  split
  · exact h.outcome
  · next e =>
    have waiter := h.mtWaiter e
    split
    · refine State.Bounded.outcome (State.Bounded.setCore h.setPart ?_)
      split <;> exact waiter
    · exact h.outcome

@[simp] theorem State.Bounded.holdTask {t tr cause op sig} (h : s.Bounded) : (s.holdTask t tr cause op sig).Bounded := by
  unfold State.holdTask
  exact h.setTaskState.setTask.reportRecord

@[simp] theorem State.Bounded.attachFootprint {c enc slot bs} (h : s.Bounded) : (s.attachFootprint c enc slot bs).Bounded := by
  induction bs generalizing s slot with
  | nil => exact h
  | cons b bs ih => exact ih h.setSlotOf.setBank

@[simp] theorem State.Bounded.stage {t c slot off banks shs} (h : s.Bounded) : (s.stage t c slot off banks shs).Bounded := by
  induction shs generalizing s off with
  | nil => exact h
  | cons sh shs ih =>
    unfold State.stage
    dsimp only
    split
    · exact ih h
    · exact ih h.acceptCopy

@[simp] theorem State.Bounded.place {t tr q} (h : s.Bounded) : (s.place t tr q).Bounded := by
  unfold State.place
  dsimp only
  split
  · refine State.Bounded.setTask ?_
    split
    · exact h
    · exact h.setStatus
  · split
    · exact h.attachFootprint.setStatus.setTask.enqueue
    · exact h.attachFootprint.setStatus.setTask.stage

@[simp] theorem State.Bounded.kickAster {cl} (h : s.Bounded) : (s.kickAster cl).Bounded := by
  simp [State.kickAster, h]

@[simp] theorem State.Bounded.register {t q} (h : s.Bounded) : (s.register t q).Bounded := by
  simp [State.register, h]

@[simp] theorem State.Bounded.insertConv {t orig c} (h : s.Bounded) : (s.insertConv t orig c).Bounded := by
  unfold State.insertConv
  split
  · exact h
  · exact State.Bounded.register (State.Bounded.writeEntry (State.Bounded.useKeys h))

@[simp] theorem State.Bounded.insertConvs {t orig cs} (h : s.Bounded) : (s.insertConvs t orig cs).1.Bounded := by
  induction cs generalizing s with
  | nil => exact h
  | cons c cs ih => exact ih h.insertConv

@[simp] theorem State.Bounded.insertAll {t tr cs sig} (h : s.Bounded) : (s.insertAll t tr cs sig).Bounded := by
  unfold State.insertAll
  split
  · exact h
  · dsimp only
    split
    · exact h.asterTouch.holdTask
    · exact h.asterTouch.insertConvs.put.setTaskState

@[simp] theorem State.Bounded.handleTask {t q} (h : s.Bounded) : (s.handleTask t q).Bounded := by
  unfold State.handleTask
  dsimp only
  split
  · exact h.asterTouch.holdTask
  · split
    · exact h.asterTouch.holdTask
    · exact h.asterTouch.insertAll
    · split
      · exact h.asterTouch.setStatus.holdTask
      · exact h.asterTouch.place

@[simp] theorem execAsterTaskArrival_bounded {r} (h : s.Bounded) : (execAsterTaskArrival r s).Bounded := by
  unfold execAsterTaskArrival
  split <;> simp [h]

@[simp] theorem execAsterDependenceMet_bounded (h : s.Bounded) : (execAsterDependenceMet s).Bounded := by
  unfold execAsterDependenceMet
  dsimp only
  split
  · exact h.outcome
  · split
    · exact h.outcome
    · refine (State.Bounded.kickAster ?_).outcome
      split
      · exact h.asterTouch.place
      · exact h.handleTask

@[simp] theorem execAsterStagingDone_bounded {r} (h : s.Bounded) : (execAsterStagingDone r s).Bounded := by
  unfold execAsterStagingDone
  dsimp only
  split
  · split
    · exact h.outcome
    · split
      · exact h.asterTouch.holdTask.outcome
      · exact h.asterTouch.setTask.setTaskState.enqueue.outcome
  · exact h.outcome

@[simp] theorem State.Bounded.dropFootprint {c enc slot bs} (h : s.Bounded) : (s.dropFootprint c enc slot bs).Bounded := by
  induction bs generalizing s slot with
  | nil => exact h
  | cons b bs ih =>
    unfold State.dropFootprint
    refine ih ?_
    simp [h]

@[simp] theorem State.Bounded.bump {p as} (h : s.Bounded) : (s.bump p as).Bounded := by
  induction as generalizing s with
  | nil => exact h
  | cons a as ih =>
    unfold State.bump
    refine ih ?_
    split
    · exact h.homeWrite
    · exact h

@[simp] theorem State.Bounded.replace {cl} (h : s.Bounded) : (s.replace cl).Bounded := by
  simp [State.replace, h]

@[simp] theorem execAsterRetirement_bounded {r} (h : s.Bounded) : (execAsterRetirement r s).Bounded := by
  unfold execAsterRetirement
  dsimp only
  split
  · split
    · exact h.outcome
    · exact h.asterTouch.dropFootprint.bump.setTask.setTaskState.replace.outcome
  · exact h.outcome

/-! ### Control flow and control registers -/

@[simp] theorem State.Bounded.condBranch {p a e f} (h : s.Bounded) : (s.condBranch p a e f).Bounded := by
  unfold State.condBranch
  split
  · exact h.trapMe
  · exact h.waitCycle
  · next e =>
    have taken := h.me.cond e
    exact State.Bounded.outcome (h.setMe taken)

@[simp] theorem execJr_bounded {p a} (h : s.Bounded) : (execJr p a s).Bounded := by
  simp [execJr, h]

@[simp] theorem execJlr_bounded {p d a} (h : s.Bounded) : (execJlr p d a s).Bounded := by
  simp [execJlr, h]

@[simp] theorem execBrk_bounded {p n} (h : s.Bounded) : (execBrk p n s).Bounded := by
  simp [execBrk, h]

@[simp] theorem Ctx.deque_afterRead {c : Ctx} {n} : (c.afterRead n).deque = c.deque := by
  unfold Ctx.afterRead
  repeat' split
  all_goals rfl

@[simp] theorem State.Bounded.rdc {p d cr} (h : s.Bounded) : (s.rdc p d cr).Bounded := by
  unfold State.rdc
  dsimp only
  split
  · exact h.waitCycle
  · have read := h.me.setCx (c := s.me.cx.afterRead cr) (by simp [h])
    exact State.Bounded.finish (h.setMe read)

@[simp] theorem State.Bounded.saveWs (h : s.Bounded) : (s.saveWs).Bounded := by
  unfold State.saveWs
  split <;> simp [h]

/-- A control-register write that is not refused leaves a bounded core or state. -/
def CrWrite.Bounded : CrWrite → Prop
  | .all t => t.Bounded
  | .ok k => k.Bounded
  | _ => True

@[simp] theorem CrWrite.bounded_trap {n} : (CrWrite.trap n).Bounded := trivial
@[simp] theorem CrWrite.bounded_fault {n a} : (CrWrite.fault n a).Bounded := trivial

/-! The writes of a register other than WP change that register's part of the core. -/

theorem Core.Bounded.wrcHb {priv v} (h : k.Bounded) : (k.wrcHb priv v).Bounded := by
  unfold Core.wrcHb
  dsimp only
  split
  · simp
  · split
    · simp
    · exact h.setCx h.cx

theorem Core.Bounded.wrcSbm {v} (h : k.Bounded) : (k.wrcSbm v).Bounded := by
  unfold Core.wrcSbm
  split
  · simp
  · exact h.setCx h.cx

theorem Core.Bounded.wrcSmc {priv v} (h : k.Bounded) : (k.wrcSmc priv v).Bounded := by
  unfold Core.wrcSmc
  split
  · simp
  · split
    · simp
    · exact h.setCx h.cx

theorem Core.Bounded.wrcVtype {v} (h : k.Bounded) : (k.wrcVtype v).Bounded := h.setCx h.cx

theorem Core.Bounded.wrcBs {v} (h : k.Bounded) : (k.wrcBs v).Bounded := by
  unfold Core.wrcBs
  split
  · simp
  · exact h.setCx h.cx

theorem Core.Bounded.wrcFmt {i v} (h : k.Bounded) : (k.wrcFmt i v).Bounded := by
  unfold Core.wrcFmt
  split
  · simp
  · exact h.setCx h.cx

theorem State.Bounded.wrcWp {v} (h : s.Bounded) : (s.wrcWp v).Bounded := by
  unfold State.wrcWp
  dsimp only
  split
  · simp
  · split
    · simp
    · split
      · simp
      · exact h.saveWs.setMe (h.saveWs.me.setCx h.saveWs.cx)

theorem State.Bounded.crWrite {cr v} (h : s.Bounded) : (s.crWrite cr v).Bounded := by
  unfold State.crWrite
  dsimp only
  split
  · split
    · exact h.wrcWp
    · simp
  · split
    · exact h.me.wrcHb
    · split
      · exact h.me.wrcSbm
      · split
        · simp
        · split
          · exact h.me.wrcVtype
          · split
            · exact h.me.wrcBs
            · split
              · exact h.me.wrcSmc
              · split
                · simp
                · split
                  · exact h.me.wrcFmt
                  · simp

@[simp] theorem State.Bounded.wrc {p a cr} (h : s.Bounded) : (s.wrc p a cr).Bounded := by
  have written := h.crWrite (cr := cr) (v := s.me.getG a)
  unfold State.wrc
  split
  · exact h.waitCycle
  · split
    · exact h.trapMe
    · exact h.trapMe
    · next e => rw [e] at written; exact State.Bounded.finish (h.setMe written)
    · next e => rw [e] at written; exact State.Bounded.finish written

/-! ### Dispatch -/

@[simp] theorem Ctx.length_dropDeque {c : Ctx} {n} (h : c.deque.length ≤ 32) : (c.dropDeque n).deque.length ≤ 32 :=
  Ctx.length_refill ((List.length_filter_le _ _).trans h)

@[simp] theorem State.Bounded.dispatch {c e o} (h : s.Bounded) : (s.dispatch c e o).Bounded := by
  unfold State.dispatch
  dsimp only
  split
  · exact h.setCore (h.core c).clearHandler
  · exact h.taskTrapped.reportTrap.enqueue

@[simp] theorem State.Bounded.takeHead {c q} (h : s.Bounded) : (s.takeHead c q).Bounded := by
  unfold State.takeHead
  dsimp only
  split <;> simp [h]

@[simp] theorem State.Bounded.dropDeque {c n} (h : s.Bounded) : (s.setCore c ((s.core c).setCx ((s.core c).cx.dropDeque n))).Bounded :=
  h.setCore ((h.core c).setCx (Ctx.length_dropDeque (h.core c).cx))

@[simp] theorem State.Bounded.choose {c} (h : s.Bounded) : (s.choose c).Bounded := by
  unfold State.choose
  dsimp only
  split
  · exact State.Bounded.takeHead (h.setCore (h.core c))
  · split
    · exact h.dropDeque.dispatch
    · split
      · exact State.Bounded.takeHead (h.setCore (h.core c))
      · split
        · exact h.takeHead
        · exact h

@[simp] theorem State.Bounded.clearLinks {c} (h : s.Bounded) : (s.clearLinks c).Bounded := by
  unfold State.clearLinks
  refine State.foldl_bounded (fun t i ht => ?_) _ (h.setCore (h.core c))
  dsimp only
  repeat' split
  all_goals exact ht

@[simp] theorem State.Bounded.drainRing {c enc back es} (h : s.Bounded) : (s.drainRing c enc back es).Bounded := by
  induction es generalizing s back with
  | nil => exact h.bounceAll
  | cons e es ih =>
    unfold State.drainRing
    dsimp only
    split
    · next t eq =>
      split at eq
      · cases eq
      · exact ih (h.arriveQueue eq)
    · exact ih h

@[simp] theorem State.Bounded.switchTo {c enc} (h : s.Bounded) : (s.switchTo c enc).Bounded := by
  unfold State.switchTo
  exact State.Bounded.drainRing (h.clearLinks.setCore ((h.clearLinks.core c).setCxOf ((h.clearLinks.core c).cxOf enc)))

@[simp] theorem State.Bounded.next {c} (h : s.Bounded) : (s.next c).Bounded := by
  simp [State.next, h]

@[simp] theorem execIdleRetry_bounded (h : s.Bounded) : (execIdleRetry s).Bounded := by
  simp [execIdleRetry, h]

@[simp] theorem State.Bounded.steal {c} (h : s.Bounded) : (s.steal c).Bounded := by
  unfold State.steal
  dsimp only
  split
  · exact h.dropDeque.dispatch
  · exact h.setCore (h.core c)

@[simp] theorem execSteal_bounded (h : s.Bounded) : (execSteal s).Bounded := by
  simp [execSteal, h]

@[simp] theorem execSliceExpiry_bounded (h : s.Bounded) : (execSliceExpiry s).Bounded := by
  simp [execSliceExpiry, h]

@[simp] theorem execBudgetExpiry_bounded (h : s.Bounded) : (execBudgetExpiry s).Bounded := by
  simp [execBudgetExpiry, h]

@[simp] theorem State.Bounded.flushCore {c p rs} (h : s.Bounded) : (s.flushCore c p rs).Bounded := by
  induction rs generalizing s with
  | nil => exact h.wakeIdle
  | cons x rs ih =>
    unfold State.flushCore
    split
    · next e =>
      have written := h.writeFault e
      exact ih (State.Bounded.noteRoom (written.setCore (written.core c)))
    · exact State.Bounded.noteFull (State.Bounded.setCore h.countCtl (h.core c))

@[simp] theorem State.Bounded.flushZenith {p rs} (h : s.Bounded) : (s.flushZenith p rs).Bounded := by
  induction rs generalizing s with
  | nil => exact h
  | cons x rs ih =>
    unfold State.flushZenith
    split
    · next e =>
      have written := h.writeFault e
      exact ih written
    · exact State.Bounded.noteFull h.countCtl

@[simp] theorem execFaultRecordDeferred_bounded (h : s.Bounded) : (execFaultRecordDeferred s).Bounded := by
  have flushed : (if s.me.keptRecs.isEmpty then s else s.flushCore s.cur s.me.part s.me.keptRecs).Bounded := by simp [h]
  exact flushed.flushZenith.flushKept.outcome

end Sys2Proof.Machine

end

section
/-! PROOF. O12, monitor calls, requests to Zenith, partitions and the device keep the bounds of the queues. -/

namespace Sys2Proof.Machine

variable {s : State} {k : Core}

/-! ### Monitor calls -/

@[simp] theorem execMcall_bounded {p a} (h : s.Bounded) : (execMcall p a s).Bounded := by
  unfold execMcall
  dsimp only
  split <;> simp [h]

/-- The state that a service leaves, when it does not answer with a status. -/
def okBounded {α : Type} : Except Nat (State × α) → Prop
  | .ok r => r.1.Bounded
  | .error _ => True

@[simp] theorem okBounded_ok {α : Type} {t : State} {a : α} : okBounded (.ok (t, a)) ↔ t.Bounded := Iff.rfl
/-- Zenith's answer to a call keeps the bounds when the service does. -/
theorem State.Bounded.serve {n} {f : Service} (h : s.Bounded) (hf : ∀ t k, t.Bounded → okBounded (f t k)) : (s.serve n f).Bounded := by
  unfold State.serve
  split
  · split
    · exact h.outcome
    · have served := hf _ (s.useKeys s.serviceUids).me (h.useKeys (us := s.serviceUids))
      dsimp only
      split
      · exact State.Bounded.outcome (State.Bounded.setMe h.useKeys (h.useKeys (us := s.serviceUids)).me)
      · next e =>
        rw [e] at served
        refine State.Bounded.outcome (State.Bounded.setMe served ?_)
        split <;> exact State.Bounded.me served
  · exact h.outcome

@[simp] theorem execMver_bounded (h : s.Bounded) : (execMver s).Bounded := by
  unfold execMver
  exact h.serve fun _ _ ht => ht

theorem State.Bounded.setCxAt {c enc x} (h : s.Bounded) (hx : x.deque.length ≤ 32) : (s.setCxAt c enc x).Bounded :=
  h.setCore ((h.core c).setCxOf hx)

theorem State.Bounded.heldHead {c enc q discard t} (h : s.Bounded) (e : s.heldHead c enc q discard = some t) : t.Bounded := by
  unfold State.heldHead at e
  dsimp only at e
  split at e
  · split at e
    · cases e
    · split at e <;> cases e
      · exact h.popQueue
      · exact h.setCxAt ((h.core c).cxOf enc)
  · cases e

theorem State.Bounded.heldDeque {c enc discard t} (h : s.Bounded) (e : s.heldDeque c enc discard = some t) : t.Bounded := by
  unfold State.heldDeque at e
  dsimp only at e
  split at e <;> cases e
  refine h.setCxAt ?_
  have dropped := fun n => Ctx.length_dropDeque (n := n) ((h.core c).cxOf enc)
  split
  · exact dropped _
  · exact Ctx.length_pushDeque (dropped _)

@[simp] theorem execQheld_bounded (h : s.Bounded) : (execQheld s).Bounded := by
  refine h.serve fun t k ht => ?_
  dsimp only
  split
  · trivial
  · split
    · trivial
    · split
      · trivial
      · next e =>
        refine State.Bounded.wakeIdle ?_
        split at e
        · exact ht.heldDeque e
        · exact ht.heldHead e

theorem State.Bounded.serveRead {n spans} {f : Service} (h : s.Bounded) (hf : ∀ t k, t.Bounded → okBounded (f t k)) :
    (s.serveRead n spans f).Bounded := by
  unfold State.serveRead
  split
  · split
    · exact State.Bounded.serve h hf
    · exact h.serve hf
  · exact h.serve hf

@[simp] theorem execFqset_bounded (h : s.Bounded) : (execFqset s).Bounded := by
  unfold execFqset
  refine h.serveRead fun t k ht => ?_
  dsimp only
  split
  · trivial
  · split
    · trivial
    · exact ht.put.setPart

@[simp] theorem State.Bounded.formatRing {p base n} (h : s.Bounded) : (s.formatRing p base n).Bounded := by
  induction n generalizing s with
  | zero => exact h
  | succ n ih => exact ih h.put

@[simp] theorem execTqset_bounded (h : s.Bounded) : (execTqset s).Bounded := by
  unfold execTqset
  refine h.serveRead fun t k ht => ?_
  dsimp only
  split
  · trivial
  · split
    all_goals split
    · trivial
    · exact State.Bounded.setPart ht.formatRing
    · trivial
    · exact State.Bounded.setPart ht.formatRing

@[simp] theorem execMaskset_bounded (h : s.Bounded) : (execMaskset s).Bounded := by
  unfold execMaskset
  refine h.serveRead fun t k ht => ?_
  dsimp only
  split
  · trivial
  · split
    · trivial
    · split
      · trivial
      · exact ht.setPart

@[simp] theorem execTreeset_bounded (h : s.Bounded) : (execTreeset s).Bounded := by
  unfold execTreeset
  refine h.serveRead fun t k ht => ?_
  dsimp only
  split
  · trivial
  · split
    · trivial
    · split
      · trivial
      · split
        · trivial
        · split
          · trivial
          · exact ht.setPart

@[simp] theorem execCpool_bounded (h : s.Bounded) : (execCpool s).Bounded := by
  unfold execCpool
  refine h.serve fun t k ht => ?_
  dsimp only
  split
  · trivial
  · split
    · trivial
    · exact ht.setPart

@[simp] theorem State.Bounded.trapStalled {uid cs} (h : s.Bounded) : (s.trapStalled uid cs).Bounded := by
  induction cs generalizing s with
  | nil => exact h
  | cons c cs ih =>
    unfold State.trapStalled
    refine ih ?_
    simp [h]

@[simp] theorem State.Bounded.revokeKey {uid} (h : s.Bounded) : (s.revokeKey uid).Bounded := by
  unfold State.revokeKey
  split
  · exact h
  · exact State.Bounded.enqueue (State.Bounded.trapStalled h)

@[simp] theorem State.Bounded.writeLines {p va kid bs n} (h : s.Bounded) : (s.writeLines p va kid bs n).Bounded := by
  induction n generalizing s va bs with
  | zero => exact h
  | succ n ih =>
    unfold State.writeLines
    refine ih ?_
    split
    · exact h.storeCells
    · exact h

@[simp] theorem execKimport_bounded (h : s.Bounded) : (execKimport s).Bounded := by
  unfold execKimport
  refine h.serveRead fun t k ht => ?_
  dsimp only
  split
  · trivial
  · split
    · trivial
    · split
      · trivial
      · split
        · trivial
        · split
          · trivial
          · split
            · trivial
            · exact ht.writeLines

@[simp] theorem execKrevoke_bounded (h : s.Bounded) : (execKrevoke s).Bounded := by
  unfold execKrevoke
  refine h.serve fun t k ht => ?_
  dsimp only
  split
  · trivial
  · split
    · trivial
    · split
      · exact ht.revokeKey
      · trivial

@[simp] theorem execKstate_bounded (h : s.Bounded) : (execKstate s).Bounded := by
  unfold execKstate
  exact h.serve fun _ _ ht => ht

@[simp] theorem execResume_bounded (h : s.Bounded) : (execResume s).Bounded := by
  unfold execResume
  refine h.serve fun t k ht => ?_
  dsimp only
  split
  · trivial
  · split
    · trivial
    · exact State.Bounded.wakeIdle (ht.setCore (ht.core _))

@[simp] theorem State.Bounded.discardStrand {c enc entry} (h : s.Bounded) : (s.discardStrand c enc entry).Bounded := by
  unfold State.discardStrand
  exact State.Bounded.wakeIdle (State.Bounded.placeKept (h.setCore ((h.core c).setCxOf ((h.core c).cxOf enc))))

@[simp] theorem State.Bounded.dropStaging {r} (h : s.Bounded) : (s.dropStaging r).Bounded := h

@[simp] theorem State.Bounded.clearTask {t} (h : s.Bounded) : (s.clearTask t).Bounded := by
  unfold State.clearTask
  dsimp only
  split
  · exact h.dropStaging.dropFootprint.discardStrand
  · exact h.dropStaging.dropFootprint

@[simp] theorem State.Bounded.cancelConv {t} (h : s.Bounded) : (s.cancelConv t).Bounded := by
  unfold State.cancelConv
  exact h.clearTask.setTask.setTaskState

@[simp] theorem State.Bounded.cancelConvs {ts} (h : s.Bounded) : (s.cancelConvs ts).Bounded := by
  induction ts generalizing s with
  | nil => exact h
  | cons t ts ih => exact ih h.cancelConv

@[simp] theorem State.Bounded.resubmit {t} (h : s.Bounded) : (s.resubmit t).Bounded := by
  unfold State.resubmit
  exact h.put.setTask.setTaskState.enqueue

@[simp] theorem execTctl_bounded (h : s.Bounded) : (execTctl s).Bounded := by
  unfold execTctl
  refine h.serveRead fun t k ht => ?_
  dsimp only
  split
  · trivial
  · split
    · trivial
    · split
      · exact ht.clearTask.cancelConvs.resubmit
      · exact ht.clearTask.cancelConvs.setTask.setTaskState

@[simp] theorem State.Bounded.putEntry {p key e} (h : s.Bounded) : (s.putEntry p key e).Bounded := by
  simp [State.putEntry, h]

theorem State.Bounded.tableAt {p va lvl make up tbl} (h : s.Bounded) : okBounded (s.tableAt p va lvl make up tbl) := by
  induction up generalizing s tbl with
  | zero => trivial
  | succ up ih =>
    unfold State.tableAt
    split
    · exact h
    · extract_lets idx at_ e pt new taken zeroed
      split
      · trivial
      · split
        · split
          · trivial
          · exact ih h
        · split
          · exact h
          · split
            · trivial
            · exact ih h.setPart.storeCells.putEntry

theorem State.Bounded.mapLeaf {p va lvl e t} (h : s.Bounded) (eq : s.mapLeaf p va lvl e = .ok t) : t.Bounded := by
  have walked := h.tableAt (p := p) (va := va) (lvl := lvl) (make := e != 0) (up := 4) (tbl := (s.part p).tbl)
  unfold State.mapLeaf at eq
  split at eq
  · cases eq
  · next e => cases eq; rw [e] at walked; exact walked
  · next e =>
    rw [e] at walked
    dsimp only at eq
    split at eq <;> cases eq
    exact State.Bounded.putEntry walked

@[simp] theorem State.Bounded.countPath (h : s.Bounded) : (s.countPath).Bounded := by
  unfold State.countPath
  dsimp only
  split <;> simp [h]

@[simp] theorem execPtmap_bounded (h : s.Bounded) : (execPtmap s).Bounded := by
  unfold execPtmap
  refine h.countPath.serve fun t k ht => ?_
  split
  · trivial
  · split
    · trivial
    · next e => exact ht.mapLeaf e

theorem Ctx.deque_clear {c : Ctx} : c.clear.deque = c.deque := by
  unfold Ctx.clear
  rfl

@[simp] theorem execClrst_bounded {p} (h : s.Bounded) : (execClrst p s).Bounded := by
  unfold execClrst
  split
  · exact h.trapMe
  · split
    · exact h.waitCycle
    · exact State.Bounded.finish (State.Bounded.clearLinks (h.setCx (c := s.cx.clear) (by rw [Ctx.deque_clear]; exact h.cx)))

@[simp] theorem execIdle_bounded {p} (h : s.Bounded) : (execIdle p s).Bounded := by
  unfold execIdle
  split
  · exact h.trapMe
  · exact h.endingWith fun t ht => (ht.endHandler (c := t.cur)).setMe (ht.endHandler (c := t.cur)).me

/-! ### Requests to Zenith -/

@[simp] theorem State.Bounded.reply {x} (h : s.Bounded) : (s.reply x).Bounded := h

@[simp] theorem State.Bounded.spdmError {r code} (h : s.Bounded) : (s.spdmError r code).Bounded := h

@[simp] theorem State.Bounded.tdispError {r code detail} (h : s.Bounded) : (s.tdispError r code detail).Bounded := h

/-- The state that serving a request leaves. -/
def Served.Bounded : Served → Prop
  | .done t | .wait t => t.Bounded

/-- A request to Zenith keeps the bounds when serving it does. -/
theorem State.Bounded.request {i f} (h : s.Bounded) (hf : ∀ t r man, t.Bounded → (f t r man).Bounded) : (s.request i f).Bounded := by
  unfold State.request
  split
  · exact h.outcome
  · split
    · exact h.outcome
    · next xs _ _ r man _ =>
      split
      · exact h.outcome
      · dsimp only
        split
        · exact State.Bounded.outcome (State.Bounded.spdmError h)
        · have served := hf { s with zen := { s.zen with inbox := xs } } r man h
          split <;> next e => rw [e] at served; exact State.Bounded.outcome served

theorem State.Bounded.spdm {i f} (h : s.Bounded) (hf : ∀ t r b, t.Bounded → (f t r b).Bounded) : (s.spdm i f).Bounded := by
  refine h.request fun t r _ ht => ?_
  simp only [Served.Bounded]
  split
  · exact hf _ _ _ ht
  · exact ht

@[simp] theorem execGetVersion_bounded (h : s.Bounded) : (execGetVersion s).Bounded := by
  unfold execGetVersion
  exact h.spdm fun _ _ _ ht => ht

@[simp] theorem execGetCapabilities_bounded (h : s.Bounded) : (execGetCapabilities s).Bounded := by
  unfold execGetCapabilities
  refine h.spdm fun t r b ht => ?_
  split <;> exact ht

@[simp] theorem execNegotiateAlgorithms_bounded (h : s.Bounded) : (execNegotiateAlgorithms s).Bounded := by
  unfold execNegotiateAlgorithms
  refine h.spdm fun t r b ht => ?_
  split <;> exact ht

theorem State.Bounded.negotiated {i f} (h : s.Bounded) (hf : ∀ t r b, t.Bounded → (f t r b).Bounded) : (s.negotiated i f).Bounded := by
  refine h.spdm fun t r b ht => ?_
  simp [ht, hf]

@[simp] theorem execGetDigests_bounded (h : s.Bounded) : (execGetDigests s).Bounded := by
  unfold execGetDigests
  exact h.negotiated fun _ _ _ ht => ht

@[simp] theorem execGetCertificate_bounded (h : s.Bounded) : (execGetCertificate s).Bounded := by
  unfold execGetCertificate
  refine h.negotiated fun t r b ht => ?_
  dsimp only
  split <;> exact ht

@[simp] theorem execChallenge_bounded (h : s.Bounded) : (execChallenge s).Bounded := by
  unfold execChallenge
  refine h.negotiated fun t r b ht => ?_
  dsimp only
  split <;> exact ht

@[simp] theorem execGetMeasurements_bounded (h : s.Bounded) : (execGetMeasurements s).Bounded := by
  unfold execGetMeasurements
  refine h.negotiated fun t r b ht => ?_
  dsimp only
  split
  · exact ht
  · split
    · exact ht
    · refine State.Bounded.reply ?_
      split <;> exact ht

@[simp] theorem execKeyExchange_bounded (h : s.Bounded) : (execKeyExchange s).Bounded := by
  unfold execKeyExchange
  refine h.negotiated fun t r b ht => ?_
  split <;> exact ht

@[simp] theorem execFinish_bounded (h : s.Bounded) : (execFinish s).Bounded := by
  unfold execFinish
  refine h.spdm fun t r b ht => ?_
  split
  · exact ht
  · split
    · exact ht
    · split <;> exact ht

theorem State.Bounded.secured {i f} (h : s.Bounded) (hf : ∀ t r b n x, t.Bounded → (f t r b n x).Bounded) : (s.secured i f).Bounded := by
  refine h.spdm fun t r b ht => ?_
  split <;> simp [ht, hf]

@[simp] theorem execKeyUpdate_bounded (h : s.Bounded) : (execKeyUpdate s).Bounded := by
  unfold execKeyUpdate
  refine h.secured fun t r b n x ht => ?_
  dsimp only
  split <;> exact ht

@[simp] theorem execHeartbeat_bounded (h : s.Bounded) : (execHeartbeat s).Bounded := by
  unfold execHeartbeat
  exact h.secured fun _ _ _ _ _ ht => ht

@[simp] theorem execEndSession_bounded (h : s.Bounded) : (execEndSession s).Bounded := by
  unfold execEndSession
  exact h.secured fun _ _ _ _ _ ht => ht

@[simp] theorem execUnsupportedRequest_bounded (h : s.Bounded) : (execUnsupportedRequest s).Bounded := by
  unfold execUnsupportedRequest
  refine h.request fun t r _ ht => ?_
  dsimp only [Served.Bounded]
  split
  · exact ht
  · exact ht
  · split <;> exact ht

theorem State.Bounded.tdisp {i f} (h : s.Bounded) (hf : ∀ t r n pt, t.Bounded → (f t r n pt).Bounded) : (s.tdisp i f).Bounded := by
  refine h.request fun t r _ ht => ?_
  dsimp only [Served.Bounded]
  repeat' split
  all_goals simp [ht, hf]

@[simp] theorem execLockInterfaceRequest_bounded (h : s.Bounded) : (execLockInterfaceRequest s).Bounded := by
  unfold execLockInterfaceRequest
  refine h.tdisp fun t r p pt ht => ?_
  split
  · exact ht
  · split
    · exact ht
    · split <;> exact ht

@[simp] theorem execStartInterfaceRequest_bounded (h : s.Bounded) : (execStartInterfaceRequest s).Bounded := by
  unfold execStartInterfaceRequest
  refine h.tdisp fun t r p pt ht => ?_
  split
  · exact ht
  · split <;> exact ht

@[simp] theorem execStopInterfaceRequest_bounded (h : s.Bounded) : (execStopInterfaceRequest s).Bounded := by
  unfold execStopInterfaceRequest
  exact h.tdisp fun _ _ _ _ ht => ht

@[simp] theorem execGetDeviceInterfaceReport_bounded (h : s.Bounded) : (execGetDeviceInterfaceReport s).Bounded := by
  unfold execGetDeviceInterfaceReport
  refine h.tdisp fun t r p pt ht => ?_
  split <;> exact ht

/-- The state that a vendor-defined request leaves, when it does not leave the one before it. -/
def Verdict.Bounded : Verdict → Prop
  | .ok t _ | .fail t _ | .wait t => t.Bounded
  | .refuse _ => True

@[simp] theorem Verdict.bounded_ok {t : State} {res} : (Verdict.ok t res).Bounded ↔ t.Bounded := Iff.rfl

/-- A vendor-defined request keeps the bounds when the verdict on every request it judges does. -/
theorem State.Bounded.vendor {i len bad chan f} (h : s.Bounded) (hf : ∀ t r b man, t.Bounded → (f t r b man).Bounded) :
    (s.vendor i len bad chan f).Bounded := by
  refine h.request fun t r man ht => ?_
  dsimp only
  split
  · next std vid b _ =>
    have judged := hf t r b man ht
    split
    · exact ht
    · split
      · exact ht
      · split
        · exact ht
        · split
          · next e => rw [e] at judged; exact judged
          · exact ht
          · next e => rw [e] at judged; exact judged
          · next e => rw [e] at judged; exact judged
  · exact ht

@[simp] theorem State.Bounded.addKey {k} (h : s.Bounded) : (s.addKey k).Bounded := h

@[simp] theorem execKeyReload_bounded (h : s.Bounded) : (execKeyReload s).Bounded := by
  unfold execKeyReload
  split
  · split
    · exact State.Bounded.outcome (h.setMe h.me)
    · split
      · exact State.Bounded.outcome (h.setMe h.me)
      · split
        · exact h.enqueue.outcome
        · next e =>
          have roomy := h.keyRoom e
          exact State.Bounded.outcome (State.Bounded.setMe roomy roomy.me)
  · exact h.outcome

@[simp] theorem execKeyInvalidationComplete_bounded (h : s.Bounded) : (execKeyInvalidationComplete s).Bounded := by
  unfold execKeyInvalidationComplete
  split <;> simp [h]

theorem State.Bounded.keyProg {r b} (h : s.Bounded) : (s.keyProg r b).Bounded := by
  unfold State.keyProg
  dsimp only
  split
  · trivial
  · split
    · trivial
    · split
      · trivial
      · split
        · trivial
        · split
          · exact h
          · next e =>
            have roomy := h.keyRoom e
            exact State.Bounded.addKey roomy

@[simp] theorem execKeyProg_bounded (h : s.Bounded) : (execKeyProg s).Bounded := by
  unfold execKeyProg
  exact h.vendor fun _ _ _ _ ht => ht.keyProg

theorem State.keyRequest_bounded {b f} (hf : ∀ uid k, (f uid k).Bounded) : (s.keyRequest b f).Bounded := by
  unfold State.keyRequest
  dsimp only
  split
  · trivial
  · split
    · trivial
    · exact hf _ _

@[simp] theorem execKeyActivate_bounded (h : s.Bounded) : (execKeyActivate s).Bounded := by
  unfold execKeyActivate
  refine h.vendor fun t r b _ ht => State.keyRequest_bounded fun uid k => ?_
  dsimp only
  split
  · trivial
  · split
    · trivial
    · exact ht

@[simp] theorem execKeyRetire_bounded (h : s.Bounded) : (execKeyRetire s).Bounded := by
  unfold execKeyRetire
  refine h.vendor fun t r b _ ht => State.keyRequest_bounded fun uid k => ?_
  split
  · trivial
  · exact ht

@[simp] theorem execKeyRevoke_bounded (h : s.Bounded) : (execKeyRevoke s).Bounded := by
  unfold execKeyRevoke
  refine h.vendor fun t r b _ ht => State.keyRequest_bounded fun uid k => ?_
  split
  · exact ht
  · split
    · exact ht.revokeKey
    · trivial

theorem State.Bounded.debugCtl {i bad f} (h : s.Bounded) (hf : ∀ t b p e, t.Bounded → (f t b p e).Bounded) :
    (s.debugCtl i bad f).Bounded := by
  unfold State.debugCtl
  refine h.vendor fun t _ b _ ht => ?_
  dsimp only
  split
  · trivial
  · split
    · trivial
    · exact hf _ _ _ _ ht

@[simp] theorem Core.bounded_resumeHalt : k.resumeHalt.Bounded ↔ k.Bounded := by
  unfold Core.resumeHalt
  split <;> exact Iff.rfl

@[simp] theorem State.Bounded.resumeHalted {e cs} (h : s.Bounded) : (s.resumeHalted e cs).Bounded := by
  induction cs generalizing s with
  | nil => exact h
  | cons c cs ih =>
    unfold State.resumeHalted
    refine ih ?_
    simp [h]

@[simp] theorem execDebugDisable_bounded (h : s.Bounded) : (execDebugDisable s).Bounded := by
  unfold execDebugDisable
  exact h.debugCtl fun _ _ _ _ ht => ht.resumeHalted

@[simp] theorem execDebugEnable_bounded (h : s.Bounded) : (execDebugEnable s).Bounded := by
  unfold execDebugEnable
  refine h.debugCtl fun t b p e ht => ?_
  dsimp only
  split
  · trivial
  · exact ht

@[simp] theorem execDebugResume_bounded (h : s.Bounded) : (execDebugResume s).Bounded := by
  unfold execDebugResume
  refine h.debugCtl fun t b p e ht => ?_
  split
  · trivial
  · exact ht.setCore (Core.bounded_resumeHalt.2 (ht.core _))

@[simp] theorem execDebugReadRegister_bounded (h : s.Bounded) : (execDebugReadRegister s).Bounded := by
  unfold execDebugReadRegister
  refine h.debugCtl fun t b p e ht => ?_
  split
  · trivial
  · next c _ =>
    have read := (ht.core c).setCx (c := (t.core c).cx.afterRead (field b 11 1)) (by simp [ht])
    dsimp only
    split
    · exact ht
    · exact ht.setCore read

@[simp] theorem execDebugWriteRegister_bounded (h : s.Bounded) : (execDebugWriteRegister s).Bounded := by
  unfold execDebugWriteRegister
  refine h.debugCtl fun t b p e ht => ?_
  split
  · trivial
  · exact ht.setCore (ht.core _)

/-! ### Partitions -/

@[simp] theorem State.Bounded.attachWorkspaces {c xs} (h : s.Bounded) : (s.attachWorkspaces c xs).Bounded := by
  induction xs generalizing s with
  | nil => exact h
  | cons x xs ih =>
    unfold State.attachWorkspaces
    split
    · exact ih h.attach
    · exact h

@[simp] theorem bareCore_bounded {c} : (bareCore k c).Bounded := Core.reset_bounded

@[simp] theorem State.Bounded.join {p encs members c lnum} (h : s.Bounded) : (s.join p encs members c lnum).Bounded := by
  exact State.Bounded.attachWorkspaces (h.setCore (bareCore_bounded (k := s.core c) (c := c)))

@[simp] theorem State.Bounded.joinAll {p encs members cs} (h : s.Bounded) : (s.joinAll p encs members cs).Bounded := by
  induction cs generalizing s with
  | nil => exact h
  | cons c cs ih => exact ih h.join

theorem State.Bounded.partCreate {b} (h : s.Bounded) : (s.partCreate b).Bounded := by
  unfold State.partCreate
  dsimp only
  split
  · trivial
  · split
    · trivial
    · split
      · trivial
      · split
        · trivial
        · split
          · exact h
          · split
            · exact h
            · next e =>
              have roomy := h.keyRoom e
              exact State.Bounded.joinAll (State.Bounded.zeroRange (State.Bounded.setPart (State.Bounded.addKey roomy)))

@[simp] theorem execPartCreate_bounded (h : s.Bounded) : (execPartCreate s).Bounded := by
  unfold execPartCreate
  exact h.vendor fun _ _ _ _ ht => ht.partCreate

@[simp] theorem State.Bounded.scrubField {c} (h : s.Bounded) : (s.scrubField c).Bounded := h

@[simp] theorem State.Bounded.revokeHeld {c} (h : s.Bounded) : (s.revokeHeld c).Bounded :=
  State.foldl_bounded (fun _ _ ht => ht.revokeBank) _ h

@[simp] theorem State.Bounded.leave {c} (h : s.Bounded) : (s.leave c).Bounded := by
  have bare : (((s.revokeHeld c).clearLinks c).scrubField c).Bounded := h.revokeHeld.clearLinks.scrubField
  refine bare.setCore ?_
  split
  · exact bareCore_bounded
  · exact bare.core c

@[simp] theorem State.Bounded.leaveAll {cs} (h : s.Bounded) : (s.leaveAll cs).Bounded := by
  induction cs generalizing s with
  | nil => exact h
  | cons c cs ih => exact ih h.leave

@[simp] theorem State.Bounded.revokeKeys {p tenant} (h : s.Bounded) : (s.revokeKeys p tenant).Bounded :=
  State.foldl_bounded (fun _ _ ht => ht.revokeKey) _ h

@[simp] theorem State.Bounded.revokeBanks {p} (h : s.Bounded) : (s.revokeBanks p).Bounded :=
  State.foldl_bounded (fun _ _ ht => ht.revokeBank) _ h

@[simp] theorem State.Bounded.partDestroy {p} (h : s.Bounded) : (s.partDestroy p).Bounded := by
  have left : ((State.revokeBanks { s with flight := s.flight.filter (fun x => instrPart x.2 != some p) } p).leaveAll
      (s.part p).members).Bounded := State.Bounded.leaveAll (State.Bounded.revokeBanks h)
  exact State.Bounded.revokeKeys left

@[simp] theorem execPartDestroy_bounded (h : s.Bounded) : (execPartDestroy s).Bounded := by
  unfold execPartDestroy
  refine h.vendor fun t _ b _ ht => ?_
  dsimp only
  split
  · trivial
  · exact ht.partDestroy

@[simp] theorem State.Bounded.restay {p members c lnum} (h : s.Bounded) : (s.restay p members c lnum).Bounded := by
  obtain ⟨_, hb, hd, _⟩ := h.core c
  refine State.Bounded.enqueue (h.setCore ⟨Nat.zero_le 32, hb, hd, ?_⟩)
  intro x hx
  obtain ⟨y, -, rfl⟩ := List.mem_map.1 hx
  exact Nat.zero_le 32

@[simp] theorem State.Bounded.restayAll {p members cs} (h : s.Bounded) : (s.restayAll p members cs).Bounded := by
  induction cs generalizing s with
  | nil => exact h
  | cons c cs ih => exact ih h.restay

@[simp] theorem State.Bounded.dropConts {p} (h : s.Bounded) : (s.dropConts p).Bounded := by
  unfold State.dropConts
  refine State.Bounded.setPart (State.foldl_bounded (fun t x ht => ?_) _ h)
  dsimp only
  split
  · split
    · exact ht
    · exact ht.setCell
  · exact ht

@[simp] theorem State.Bounded.rebuild {p out} (h : s.Bounded) : (s.rebuild p out).Bounded := by
  have dropped : (State.dropConts { s with flight := s.flight.filter (survives p) } p).Bounded := State.Bounded.dropConts h
  unfold State.rebuild
  exact State.Bounded.restayAll (State.Bounded.setPart (State.Bounded.leaveAll dropped))

@[simp] theorem execPartRebuild_bounded (h : s.Bounded) : (execPartRebuild s).Bounded := by
  unfold execPartRebuild
  refine h.vendor fun t _ b _ ht => ?_
  dsimp only
  split
  · trivial
  · split
    · exact ht
    · exact ht.rebuild

@[simp] theorem State.Bounded.resumeAll {cs} (h : s.Bounded) : (s.resumeAll cs).Bounded := by
  induction cs generalizing s with
  | nil => exact h
  | cons c cs ih =>
    unfold State.resumeAll
    refine ih ?_
    split
    · exact State.Bounded.wakeIdle (h.setCore (h.core c))
    · exact h

@[simp] theorem execPartResume_bounded (h : s.Bounded) : (execPartResume s).Bounded := by
  unfold execPartResume
  refine h.vendor fun t _ b _ ht => ?_
  dsimp only
  split
  · trivial
  · exact ht.resumeAll

theorem State.Bounded.imagePage {p va t key} (h : s.Bounded) (e : s.imagePage p va = some (t, key)) : t.Bounded := by
  unfold State.imagePage at e
  dsimp only at e
  split at e
  · cases e
    exact h
  · split at e <;> cases e
    exact h

@[simp] theorem State.Bounded.extendBlock5 {p} (h : s.Bounded) : (s.extendBlock5 p).Bounded := by
  simp [State.extendBlock5, h]

@[simp] theorem State.Bounded.install {p m} (h : s.Bounded) : (s.install p m).Bounded := by
  unfold State.install
  refine State.foldl_bounded (fun t x ht => ?_) _ (State.foldl_bounded (fun _ _ hu => ?_) _ h)
  · dsimp only
    split
    · exact ht
    · split
      · exact ht
      · split
        · exact ht.attach
        · exact ht
  · exact hu.setCxAt ((hu.core _).cxOf m.enc)

theorem State.Bounded.imgLoad {b man} (h : s.Bounded) : (s.imgLoad b man).Bounded := by
  unfold State.imgLoad
  dsimp only
  split
  · trivial
  · split
    · exact h
    · split
      · exact h
      · split
        · trivial
        · next e =>
          have paged := h.useKey.imagePage e
          split
          · trivial
          · next e =>
            have mapped := paged.mapLeaf e
            split
            · simp [mapped]
            · simp only [Verdict.bounded_ok]
              split
              · exact mapped.storeCells.setPart.extendBlock5.install
              · exact mapped.storeCells.setPart.extendBlock5

@[simp] theorem execImgLoad_bounded (h : s.Bounded) : (execImgLoad s).Bounded := by
  unfold execImgLoad
  exact h.vendor fun _ _ _ _ ht => ht.imgLoad

@[simp] theorem execBankRelease_bounded (h : s.Bounded) : (execBankRelease s).Bounded := by
  unfold execBankRelease
  refine h.vendor fun t _ b _ ht => ?_
  dsimp only
  split
  · exact ht
  · trivial

@[simp] theorem execMeasLog_bounded (h : s.Bounded) : (execMeasLog s).Bounded := by
  unfold execMeasLog
  refine h.vendor fun t _ b _ ht => ?_
  dsimp only
  split
  · trivial
  · exact ht

@[simp] theorem State.Bounded.hostDrop {p} (h : s.Bounded) : (s.hostDrop p).Bounded := h

@[simp] theorem State.Bounded.reportHost {p r} (h : s.Bounded) : (s.reportHost p r).Bounded := by
  unfold State.reportHost
  dsimp only
  split
  · split
    · next e =>
      have written := h.writeFault e
      exact State.Bounded.flushKept written
    · refine State.Bounded.noteFull ?_
      split
      · exact h.countCtl
      · exact h.countCtl
  · split <;> exact h

@[simp] theorem State.Bounded.hostStrand {p q r} (h : s.Bounded) : (s.hostStrand p q r).Bounded := by
  unfold State.hostStrand
  dsimp only
  split
  · exact h
  · split
    · exact h
    · split
      · exact h.reportHost
      · exact h

@[simp] theorem State.Bounded.hostWrite {w} (h : s.Bounded) : (s.hostWrite w).Bounded := by
  simp [State.hostWrite, h]

@[simp] theorem execHostSubmit_bounded (h : s.Bounded) : (execHostSubmit s).Bounded := by
  unfold execHostSubmit
  split <;> simp [h]

/-! ### The device -/

@[simp] theorem State.Bounded.fatalDevice {site} (h : s.Bounded) : (s.fatalDevice site).Bounded := by
  unfold State.fatalDevice
  have stopped : coresBounded (s.cores.map (fun (c, (k : Core)) => (c, if k.live then { k with run := .stopped } else k))) := by
    refine h.cores.map fun x hk => ?_
    dsimp only
    split
    · exact hk
    · exact hk
  dsimp only
  refine (State.Bounded.lifeAdd (State.Bounded.event ?_)).setZen
  exact stopped

@[simp] theorem State.Bounded.freeze {b} (h : s.Bounded) : (s.freeze b).Bounded := h.dropBank.stopBankCopies.setBank

@[simp] theorem State.Bounded.fatalCore {c} (h : s.Bounded) : (s.fatalCore c).Bounded := by
  unfold State.fatalCore
  dsimp only
  split
  · exact h
  · have frozen : ∀ l : List Nat, (l.foldl (fun s b => s.freeze b) s).Bounded := fun l =>
      State.foldl_bounded (fun _ _ ht => ht.freeze) l h
    refine State.Bounded.lifeAdd (State.Bounded.event ?_)
    exact (frozen _).setCore ((frozen _).core c)

@[simp] theorem execDirectoryOverflow_bounded (h : s.Bounded) : (execDirectoryOverflow s).Bounded := by
  simp [execDirectoryOverflow, h]

@[simp] theorem State.Bounded.corrected {k} (h : s.Bounded) : (s.corrected k).Bounded := by
  unfold State.corrected
  split <;> simp [h]

@[simp] theorem execCorrectedError_bounded (h : s.Bounded) : (execCorrectedError s).Bounded := by
  unfold execCorrectedError
  split <;> simp [h]

@[simp] theorem execClockStretch_bounded (h : s.Bounded) : (execClockStretch s).Bounded := by
  unfold execClockStretch
  split <;> simp [h]

@[simp] theorem State.Bounded.sense {die temp droop} (h : s.Bounded) : (s.sense die temp droop).Bounded := by
  simp [State.sense, h]

@[simp] theorem execEvtailWrite_bounded (h : s.Bounded) : (execEvtailWrite s).Bounded := by
  unfold execEvtailWrite
  split <;> simp [h]

@[simp] theorem execLifetimeRead_bounded (h : s.Bounded) : (execLifetimeRead s).Bounded := by
  unfold execLifetimeRead
  exact h.vendor fun _ _ _ _ ht => ht

@[simp] theorem State.Bounded.flushLife (h : s.Bounded) : (s.flushLife).Bounded := h

@[simp] theorem execLifetimeFlush_bounded (h : s.Bounded) : (execLifetimeFlush s).Bounded := by
  simp [execLifetimeFlush, h]

@[simp] theorem State.Bounded.reportTests {cs} (h : s.Bounded) : (s.reportTests cs).Bounded := by
  induction cs generalizing s with
  | nil => exact h
  | cons c cs ih => exact ih h.event.lifeAdd

/-- The cores of a device that boots have empty lists. -/
theorem bootCores_bounded {live} : coresBounded (bootCores live) := by
  intro x hx
  obtain ⟨c, -, rfl⟩ := List.mem_map.1 hx
  have bare : (bareCore Core.reset c).Bounded := bareCore_bounded
  dsimp only
  split
  · exact bare
  · exact bare

@[simp] theorem State.boot_bounded {map} : (s.boot map).Bounded := State.Bounded.lifeAdd bootCores_bounded

@[simp] theorem State.off_bounded : s.off.Bounded := fun _ hx => absurd hx List.not_mem_nil

@[simp] theorem State.powerOn_bounded : s.powerOn.Bounded := by
  unfold State.powerOn
  extract_lets n off started map bad failed tested
  have off_bounded : started.Bounded := State.off_bounded (s := s)
  have tested_bounded : tested.Bounded := State.Bounded.reportTests (cs := bad) (State.Bounded.of_cores off_bounded rfl)
  split
  · exact off_bounded.fatalDevice
  · split
    · exact tested_bounded.fatalDevice
    · exact State.boot_bounded

@[simp] theorem State.Bounded.setSub {stream sub x} (h : s.Bounded) : (s.setSub stream sub x).Bounded := h

@[simp] theorem State.Bounded.checkSub {stream sub} (h : s.Bounded) : (s.checkSub stream sub).Bounded := by
  simp [State.checkSub, h]

@[simp] theorem State.Bounded.tlps {stream sub n} (h : s.Bounded) : (s.tlps stream sub n).Bounded := by
  simp [State.tlps, h]

@[simp] theorem execIdeThresh_bounded (h : s.Bounded) : (execIdeThresh s).Bounded := by
  unfold execIdeThresh
  exact h.vendor fun _ _ _ _ ht => ht.setSub.checkSub

@[simp] theorem execKSetGo_bounded (h : s.Bounded) : (execKSetGo s).Bounded := by
  unfold execKSetGo
  split <;> simp [h]

@[simp] theorem execIdeRekeyDue_bounded (h : s.Bounded) : (execIdeRekeyDue s).Bounded := by
  unfold execIdeRekeyDue
  split <;> simp [h]

@[simp] theorem State.Bounded.ifaceError {iface} (h : s.Bounded) : (s.ifaceError iface).Bounded := by
  simp [State.ifaceError, h]

@[simp] theorem execIdeInsecure_bounded (h : s.Bounded) : (execIdeInsecure s).Bounded := by
  unfold execIdeInsecure
  dsimp only
  repeat' split
  all_goals simp [h]

@[simp] theorem execAtsInvalidation_bounded (h : s.Bounded) : (execAtsInvalidation s).Bounded := by
  unfold execAtsInvalidation
  split <;> simp [h]

@[simp] theorem execAtsInvalidationComplete_bounded (h : s.Bounded) : (execAtsInvalidationComplete s).Bounded := by
  unfold execAtsInvalidationComplete
  split <;> simp [h]

@[simp] theorem execCirrusLinkBringup_bounded (h : s.Bounded) : (execCirrusLinkBringup s).Bounded := by
  unfold execCirrusLinkBringup
  split <;> simp [h]

end Sys2Proof.Machine

end

section
/-! PROOF. O12, vectors, tiles, plans and memory accesses, and so every instruction, keep the bounds of the queues. -/

namespace Sys2Proof.Machine

variable {s : State} {k : Core}

/-! ### Vectors -/

/-- A context that keeps its resident deque keeps the bounds. -/
theorem State.Bounded.putCx {c : Ctx} (h : s.Bounded) (e : c.deque = s.cx.deque) : (s.setCx c).Bounded := h.setCx (e ▸ h.cx)

@[simp] theorem Ctx.deque_raise {c : Ctx} {fl} : (c.raise fl).deque = c.deque := rfl

@[simp] theorem Ctx.deque_setTile {c : Ctx} {d x} : (c.setTile d x).deque = c.deque := rfl
@[simp] theorem Ctx.deque_setTc {c : Ctx} {d x} : (c.setTc d x).deque = c.deque := rfl
@[simp] theorem Ctx.deque_setScale {c : Ctx} {d x} : (c.setScale d x).deque = c.deque := rfl
@[simp] theorem Ctx.deque_planReset {c : Ctx} : c.planReset.deque = c.deque := rfl

@[simp] theorem State.Bounded.elemInstr {p cls d g} (h : s.Bounded) : (s.elemInstr p cls d g).Bounded := by
  unfold State.elemInstr
  dsimp only
  split <;> simp [h]

@[simp] theorem State.Bounded.vec3 {p cls d a b g} (h : s.Bounded) : (s.vec3 p cls d a b g).Bounded := by
  simp [State.vec3, h]

@[simp] theorem State.Bounded.vec2 {p cls d a g} (h : s.Bounded) : (s.vec2 p cls d a g).Bounded := by
  simp [State.vec2, h]

@[simp] theorem execVsel_bounded {p d a b} (h : s.Bounded) : (execVsel p d a b s).Bounded := by
  unfold execVsel
  dsimp only
  split <;> simp [h]

@[simp] theorem State.Bounded.vfun {p d a g} (h : s.Bounded) : (s.vfun p d a g).Bounded := by
  simp [State.vfun, h]

@[simp] theorem State.Bounded.vcmp {p d a b ri rf} (h : s.Bounded) : (s.vcmp p d a b ri rf).Bounded := by
  unfold State.vcmp
  dsimp only
  split <;> simp [h]

@[simp] theorem State.Bounded.vmove {p d a ix} (h : s.Bounded) : (s.vmove p d a ix).Bounded := by
  simp [State.vmove, h]

@[simp] theorem execVget_bounded {p d a} (h : s.Bounded) : (execVget p d a s).Bounded := by
  unfold execVget
  dsimp only
  split <;> simp [h]

@[simp] theorem State.Bounded.reduce {p cls d a g} (h : s.Bounded) : (s.reduce p cls d a g).Bounded := by
  unfold State.reduce
  dsimp only
  split <;> simp [h]

@[simp] theorem execVscan_bounded {p d a} (h : s.Bounded) : (execVscan p d a s).Bounded := by
  unfold execVscan
  dsimp only
  split <;> simp [h]

@[simp] theorem State.Bounded.convert {p d a limit rb} (h : s.Bounded) : (s.convert p d a limit rb).Bounded := by
  unfold State.convert
  dsimp only
  repeat' split
  all_goals simp [h]

@[simp] theorem execVqnt_bounded {p d a b} (h : s.Bounded) : (execVqnt p d a b s).Bounded := by
  unfold execVqnt
  dsimp only
  repeat' split
  all_goals simp [h]

@[simp] theorem execVdq_bounded {p d a b} (h : s.Bounded) : (execVdq p d a b s).Bounded := by
  unfold execVdq
  dsimp only
  repeat' split
  all_goals simp [h]

@[simp] theorem State.Bounded.setMask {p d x} (h : s.Bounded) : (s.setMask p d x).Bounded := by
  simp [State.setMask, h]

/-! ### Tiles -/

@[simp] theorem execTcfg_bounded {p d a} (h : s.Bounded) : (execTcfg p d a s).Bounded := by
  simp [execTcfg, h]

@[simp] theorem execTfill_bounded {p d pat} (h : s.Bounded) : (execTfill p d pat s).Bounded := by
  unfold execTfill
  dsimp only
  split
  · exact h.trapMe
  · split
    · exact h.trapMe
    · refine State.Bounded.finish (h.putCx ?_)
      split
      · exact Ctx.deque_raise.trans Ctx.deque_setTile
      · exact Ctx.deque_raise.trans (Ctx.deque_setScale.trans (Ctx.deque_raise.trans Ctx.deque_setTile))

@[simp] theorem execTtr_bounded {p d a} (h : s.Bounded) : (execTtr p d a s).Bounded := by
  unfold execTtr
  dsimp only
  split <;> simp [h]

theorem State.Bounded.fromAcc {d scaled go} (h : s.Bounded) (hg : ∀ f off, (go f off).Bounded) : (s.fromAcc d scaled go).Bounded := by
  unfold State.fromAcc
  dsimp only
  split
  · exact h.trapMe
  · split
    · exact h.trapMe
    · split
      · exact h.trapMe
      · exact hg _ _

@[simp] theorem execAcvt_bounded {p d a} (h : s.Bounded) : (execAcvt p d a s).Bounded := by
  unfold execAcvt
  exact h.fromAcc fun _ _ => State.Bounded.finish (h.putCx (Ctx.deque_raise.trans Ctx.deque_setTile))

@[simp] theorem execTqnt_bounded {p d a} (h : s.Bounded) : (execTqnt p d a s).Bounded := by
  unfold execTqnt
  exact h.fromAcc fun _ _ => State.Bounded.finish (h.putCx (Ctx.deque_raise.trans (Ctx.deque_setScale.trans Ctx.deque_setTile)))

theorem State.Bounded.bankMove {addr check go} (h : s.Bounded) (hg : go.Bounded) : (s.bankMove addr check go).Bounded := by
  unfold State.bankMove
  split
  · exact h.trapMe
  · split
    · exact h.waitCycle
    · exact h.trapMe
    · exact hg

@[simp] theorem execTldl_bounded {p d a off} (h : s.Bounded) : (execTldl p d a off s).Bounded := by
  unfold execTldl
  refine h.bankMove (State.Bounded.finish (h.putCx ?_))
  split
  · exact Ctx.deque_setScale.trans Ctx.deque_setTile
  · exact Ctx.deque_setTile

@[simp] theorem execTstl_bounded {p d a off} (h : s.Bounded) : (execTstl p d a off s).Bounded := by
  unfold execTstl
  exact h.bankMove h.localWrite.finish

@[simp] theorem execAldl_bounded {p d a off} (h : s.Bounded) : (execAldl p d a off s).Bounded := by
  unfold execAldl
  exact h.bankMove (State.Bounded.finish (h.setCx h.cx))

@[simp] theorem execAstl_bounded {p d a off} (h : s.Bounded) : (execAstl p d a off s).Bounded := by
  unfold execAstl
  exact h.bankMove h.localWrite.finish

@[simp] theorem State.Bounded.mma {p op s_ ta tb} (h : s.Bounded) : (s.mma p op s_ ta tb).Bounded := by
  unfold State.mma
  dsimp only
  split <;> simp [h]

/-- The state of an MMAM is none of the four lists. -/
theorem State.bounded_putMmam {m} : (s.setMe { s.me with mmam := m }).Bounded ↔ s.Bounded := State.bounded_setMe Iff.rfl

@[simp] theorem execMmam_bounded {p c a} (h : s.Bounded) : (execMmam p c a s).Bounded := by
  unfold execMmam
  refine h.bankMove ?_
  dsimp only
  split
  · exact h.trapMe
  · split
    · exact h.waitCycle
    · split
      · exact h.trapMe
      · split
        · exact h.trapMe
        · exact State.Bounded.waitFor (State.Bounded.enqueue (State.bounded_putMmam.2 (h.putCx (Ctx.deque_setTc.trans Ctx.deque_setTc))))

@[simp] theorem State.Bounded.mmamFault {cause faddr} (h : s.Bounded) : (s.mmamFault cause faddr).Bounded := by
  simp [State.mmamFault, h]

@[simp] theorem State.Bounded.mmamEnd {p m} (h : s.Bounded) : (s.mmamEnd p m).Bounded := by
  unfold State.mmamEnd
  split <;> simp [h]

@[simp] theorem State.Bounded.mmamStep {m pa pb} (h : s.Bounded) : (s.mmamStep m pa pb).Bounded := by
  unfold State.mmamStep
  dsimp only
  split
  · exact h.trap
  · refine State.Bounded.enqueue (State.bounded_putMmam.2 (State.Bounded.setCx h ?_))
    simp only [Ctx.deque_setTile, Ctx.deque_setScale]
    exact h.cx

@[simp] theorem execMmamStep_bounded (h : s.Bounded) : (execMmamStep s).Bounded := by
  unfold execMmamStep
  dsimp only
  repeat' split
  all_goals simp [h]

/-! ### Plans -/

theorem State.Bounded.page5 {go} (h : s.Bounded) (hg : go.Bounded) : (s.page5 go).Bounded := by
  unfold State.page5
  split
  · exact h.waitCycle
  · exact hg

@[simp] theorem execPload_bounded {p pair c b} (h : s.Bounded) : (execPload p pair c b s).Bounded := by
  unfold execPload
  refine h.page5 ?_
  split
  · exact h.trapMe
  · dsimp only
    split
    · exact h.trapMe
    · exact State.Bounded.finish (h.setCx (by simp [h]))

theorem State.Bounded.twoVectors {p d a f} (h : s.Bounded) (hf : ∀ c x y, (f c x y).deque = c.deque) : (s.twoVectors p d a f).Bounded := by
  unfold State.twoVectors
  refine h.page5 (h.bankMove (h.bankMove (State.Bounded.finish (h.setCx ?_))))
  exact (congrArg List.length (hf _ _ _)).trans_le h.cx

@[simp] theorem execPsetm_bounded {p d a} (h : s.Bounded) : (execPsetm p d a s).Bounded := h.twoVectors fun _ _ _ => rfl

@[simp] theorem execPsets_bounded {p d a} (h : s.Bounded) : (execPsets p d a s).Bounded := h.twoVectors fun _ _ _ => rfl

@[simp] theorem Ctx.deque_setPlanVec {c : Ctx} {x v} : (c.setPlanVec x v).deque = c.deque := by
  unfold Ctx.setPlanVec
  split <;> rfl

@[simp] theorem execPmovToBank_bounded {p d x} (h : s.Bounded) : (execPmovToBank p d x s).Bounded := by
  unfold execPmovToBank
  exact h.page5 (h.bankMove h.localWrite.finish)

@[simp] theorem execPmovFromBank_bounded {p x a} (h : s.Bounded) : (execPmovFromBank p x a s).Bounded := by
  unfold execPmovFromBank
  exact h.page5 (h.bankMove (State.Bounded.finish (h.setCx (by simpa using h.cx))))

@[simp] theorem State.Bounded.startBal {p pair full phase} (h : s.Bounded) : (s.startBal p pair full phase).Bounded := by
  unfold State.startBal
  refine h.page5 ?_
  dsimp only
  split
  · exact h.trapMe
  · have started := h.me.setCx (c := if full then { s.cx with bs := setBsSt (setSweeps s.cx.bs 0) 0 } else s.cx) (by split <;> exact h.cx)
    refine State.Bounded.finish (State.Bounded.enqueue ?_)
    exact h.setMe started

@[simp] theorem Ctx.deque_balPass {c : Ctx} {b} : (c.balPass b).1.deque = c.deque := by
  unfold Ctx.balPass
  dsimp only
  repeat' split
  all_goals simp

@[simp] theorem execBalSweep_bounded (h : s.Bounded) : (execBalSweep s).Bounded := by
  unfold execBalSweep
  dsimp only
  split
  · exact h.outcome
  · next b _ =>
    have full := h.me.setCx (c := (s.me.cx.balPass b).1) (by simp [h])
    have pass := h.me.setCx (c := s.me.cx.balxPass b) (by simp [h])
    split
    · refine State.Bounded.outcome ?_
      split
      · exact h.setMe full
      · exact State.Bounded.enqueue (h.setMe full)
    · exact State.Bounded.outcome (h.setMe pass)

@[simp] theorem execPstat_bounded {p d} (h : s.Bounded) : (execPstat p d s).Bounded := by
  unfold execPstat
  exact h.page5 (State.Bounded.finish (h.setMe h.me))

@[simp] theorem execPmat_bounded {p d pair} (h : s.Bounded) : (execPmat p d pair s).Bounded := by
  unfold execPmat
  refine h.page5 ?_
  dsimp only
  split
  · exact h.trapMe
  · split
    · exact h.trapMe
    · split
      · exact h.trapMe
      · split
        · exact h.trapMe
        · exact State.Bounded.finish (h.putCx (Ctx.deque_raise.trans Ctx.deque_setTile))

/-- A general register is none of the four lists. -/
theorem State.bounded_putG {d v} : (s.setMe (s.me.setG d v)).Bounded ↔ s.Bounded := State.bounded_setMe Iff.rfl

@[simp] theorem execPdist_bounded {p d pair c} (h : s.Bounded) : (execPdist p d pair c s).Bounded := by
  unfold execPdist
  refine h.page5 ?_
  dsimp only
  split
  · exact h.trapMe
  · split
    · exact h.trapMe
    · split
      · exact h.trapMe
      · exact State.Bounded.finish (State.bounded_putG.2 (h.putCx Ctx.deque_raise))

/-! ### Memory instructions -/

/-- A load's value is pushed to dq only where an entry is free (R89). -/
theorem Core.Bounded.pushDq {p : Pfx} {x n} (h : k.Bounded) (room : ¬(decide (p.qs = .dstQ) && decide (16 ≤ k.dq.length)) = true)
    (q : p.qs = .dstQ) : Core.Bounded { k with dq := k.dq ++ [x], seqno := n } := by
  obtain ⟨hs, hb, hd, hc⟩ := h
  have free : ¬16 ≤ k.dq.length := by simpa [q] using room
  exact ⟨hs, hb, by simpa using by omega, hc⟩

@[simp] theorem State.Bounded.load {p d a loc off n sgn} (h : s.Bounded) : (s.load p d a loc off n sgn).Bounded := by
  unfold State.load
  dsimp only
  split
  · exact h.trapMe
  · split
    · split
      · exact h.waitCycle
      · exact h.trapMe
      · split
        · exact h.trapMe
        next room =>
        refine State.Bounded.finish (h.setMe ?_)
        split
        · next q => exact h.me.pushDq room q
        · exact h.me
    · split
      · exact h.trapMe
      · exact Res.bounded_fault _
      · split
        · exact h.trapMe
        next room =>
        refine h.issueAccess ?_
        split
        · next q => exact h.me.pushDq room q
        · exact h.me

@[simp] theorem State.Bounded.store {p d a loc off n} (h : s.Bounded) : (s.store p d a loc off n).Bounded := by
  unfold State.store
  dsimp only
  repeat' split
  all_goals simp [h]

/-- Held stores that leave before the end of the handler make the send buffer no longer (R82). -/
theorem length_leaveBehind {f l} : (leaveBehind f l).length ≤ l.length := by
  induction l with
  | nil => exact le_rfl
  | cons e es ih =>
    unfold leaveBehind
    split
    · exact ih.trans (Nat.le_succ _)
    · exact Nat.succ_le_succ ih

@[simp] theorem State.Bounded.atomic {p op d a} (h : s.Bounded) : (s.atomic p op d a).Bounded := by
  unfold State.atomic
  dsimp only
  split
  · exact h.trapMe
  · split
    · exact h.trapMe
    · exact Res.bounded_fault _
    · split
      · exact h.trapMe
      · split
        · exact State.Bounded.trapMe h
        · obtain ⟨hs, hb, hd, hc⟩ := h.me
          refine State.Bounded.issueAccess ?_ ⟨length_leaveBehind.trans hs, hb, hd, hc⟩
          split <;> exact h

/-! ### Vector accesses -/

@[simp] theorem State.Bounded.vloadGlobal {p d va bs base mask} (h : s.Bounded) : (s.vloadGlobal p d va bs base mask).Bounded :=
  h.issueAccess h.me

@[simp] theorem execVld_bounded {p d a loc off} (h : s.Bounded) : (execVld p d a loc off s).Bounded := by
  unfold execVld
  dsimp only
  repeat' split
  all_goals simp [h]

@[simp] theorem execVst_bounded {p d a loc off} (h : s.Bounded) : (execVst p d a loc off s).Bounded := by
  unfold execVst
  dsimp only
  repeat' split
  all_goals simp [h]

theorem State.Bounded.gatherScatter {want a b go} (h : s.Bounded) (hg : ∀ f bs, (go f bs).Bounded) :
    (s.gatherScatter want a b go).Bounded := by
  unfold State.gatherScatter
  dsimp only
  split
  · exact h.trapMe
  · split
    · exact h.trapMe
    · split
      · exact h.trapMe
      · exact Res.bounded_fault _
      · exact h.waitCycle
      · exact hg _ _

@[simp] theorem execVgth_bounded {p d a b} (h : s.Bounded) : (execVgth p d a b s).Bounded := by
  unfold execVgth
  exact h.gatherScatter fun _ _ => h.vloadGlobal

@[simp] theorem execVsct_bounded {p d a b} (h : s.Bounded) : (execVsct p d a b s).Bounded := by
  unfold execVsct
  exact h.gatherScatter fun _ _ => h.globalStore

/-! ### Instructions -/

@[simp] theorem execHeadAging_bounded (h : s.Bounded) : (execHeadAging s).Bounded := State.Bounded.outcome (h.setCx h.cx)

/-- Every instruction, step and event keeps the bounds: those named here are one shared operation of the state, and each of the
others has its lemma above. -/
theorem exec_bounded (i : Instr) (h : s.Bounded) : Res.Bounded (exec i s) := by
  cases i
  all_goals simp [exec, h,
    execNop, execCyc, execLea, execLi, execFence, execKpop, execKfirst, execTrdc, execTz, execAclr, execCpos,
    execStall, execJ, execJl, execLoop, execTrap, execIllegalSequence, execRdc, execRdcSbcnt, execRdcKmc, execWrc,
    execWrcWp, execWrcVtype, execWrcBs, execWrcSmc, execWrcFmt, execAdd, execSub, execAnd, execOr, execXor, execMul,
    execSll, execSrl, execSlt, execSltu, execSra, execRor, execMulh, execMulhu, execDiv, execDivu, execRem,
    execRemu, execMin, execMax, execMinu, execMaxu, execSeq, execSne, execAndn, execMov, execNeg, execNot, execClz,
    execCtz, execPopc, execBrev, execBswap, execSextb, execSexth, execSextw, execZextb, execZexth, execZextw,
    execAddi, execAndi, execOri, execXori, execSlli, execSrli, execSrai, execSlti, execSeqi, execLdb, execLdbu,
    execLdh, execLdhu, execLdw, execLdwu, execLd, execStb, execSth, execStw, execSt, execSwp, execCas, execAadd,
    execAand, execAor, execAxor, execAmin, execAmax, execAminu, execAmaxu, execBz, execBnz, execBltz, execBgez,
    execVadd, execVsub, execVmul, execVmin, execVmax, execVand, execVor, execVxor, execVabs, execVneg, execVnot,
    execVmov, execVfma, execVsplat, execVcmpeq, execVcmplt, execVcmple, execVcmpne, execVsll, execVsrl, execVsra,
    execVandn, execVadds, execVsubs, execVsat, execVperm, execVbcast, execVrot, execVrsum, execVrmax, execVrmin,
    execVlse, execVexp2, execVlog2, execVrcp, execVrsq, execVcvt, execVcvtr, execKand, execKor, execKxor, execKnot,
    execKmov, execKset, execKclr, execMma, execMmas, execMmab, execSend, execSendm, execSpawn, execSendq, execHand,
    execHandx, execCpy, execCpyw, execCpym, execBal, execBalx, execFifoArrival,
    execRankedArrival, execLinkCreditReturn, execFetchFault, execNextAction, execCopyLine,
    execFatalCoreError, execMeshLinkFailure, execThermalTrip, execPowerOn, execPowerDown, execLossOfPower]

end Sys2Proof.Machine

end

section
/-! PROOF. O12, fetch, issue and the turns of a step keep the bounds of the queues. -/

namespace Sys2Proof.Machine

variable {s : State} {k : Core}

/-! ### What is under way -/

theorem State.Bounded.takeFlight {k t i pre} (h : s.Bounded) (e : s.takeFlight k = some (t, i, pre)) : t.Bounded := by
  unfold State.takeFlight at e
  split at e <;> cases e
  exact h

/-! ### Issue -/

@[simp] theorem State.Bounded.fetched {n} (h : s.Bounded) : (s.fetched n).Bounded := h.setMe h.me

@[simp] theorem State.Bounded.fetchFailed {j} (h : s.Bounded) : (s.fetchFailed j).Bounded := by
  unfold State.fetchFailed
  dsimp only
  split
  · exact h.fetched.outcome
  · exact h.fetched.waitCycle
  · exact Res.bounded_fault _
  · exact h.fetched.keyMiss
  · split
    · exact exec_bounded _ h.fetched
    · exact exec_bounded _ h.fetched

@[simp] theorem State.Bounded.produced {c old found i} (h : s.Bounded) : (s.produced c old found i).Bounded := by
  unfold State.produced
  dsimp only
  split
  · exact h.setCore (h.core c)
  · exact h

@[simp] theorem State.Bounded.runInstr {i} (h : s.Bounded) : (s.runInstr i).Bounded := by
  have ran := exec_bounded i h
  unfold State.runInstr
  split
  · next t e => exact State.Bounded.outcome (State.Bounded.produced (ran t e))
  · exact ran

@[simp] theorem State.Bounded.runCounted {i} (h : s.Bounded) : (s.runCounted i).Bounded := by
  have ran := h.runInstr (i := i)
  unfold State.runCounted
  split
  · next t e =>
    have ht := ran t e
    refine State.Bounded.outcome ?_
    split
    · exact ht.setCore ((ht.core s.cur).setCxOf ((ht.core s.cur).cxOf s.me.enc))
    · exact ht
  · exact ran

@[simp] theorem Core.bounded_putReg {r x} : (k.putReg r x).Bounded ↔ k.Bounded := by
  cases r with
  | g n => exact Iff.rfl
  | v n => exact Core.bounded_setCx Iff.rfl
  | k n => exact Core.bounded_setCx Iff.rfl
  | t n => exact Core.bounded_setCx Iff.rfl
  | tc n => exact Core.bounded_setCx Iff.rfl
  | acc n => exact Core.bounded_setCx Iff.rfl

@[simp] theorem Core.bounded_mergeReg {found old : Core} {i r} : (k.mergeReg found old i r).Bounded ↔ k.Bounded := by
  unfold Core.mergeReg
  split
  · dsimp only
    split
    · exact Core.bounded_setCx Iff.rfl
    · exact Core.bounded_setCx Iff.rfl
    · exact Core.bounded_setCx Iff.rfl
    · exact Core.bounded_setCx (k := k) Iff.rfl
    · exact Iff.rfl
  · exact Core.bounded_setCx Iff.rfl
  · dsimp only
    split
    · exact Iff.rfl
    · split
      · exact Iff.rfl
      · exact Iff.rfl
  · exact Iff.rfl
  · exact Iff.rfl
  · exact Iff.rfl

@[simp] theorem Core.bounded_settle {found old : Core} {i ws xs} : (k.settle found old i ws xs).Bounded ↔ k.Bounded := by
  induction xs generalizing k with
  | nil => exact Iff.rfl
  | cons x xs ih =>
    unfold Core.settle
    refine ih.trans ?_
    split
    · exact Core.bounded_mergeReg
    · split
      · exact Iff.rfl
      · exact Core.bounded_putReg

@[simp] theorem State.Bounded.stale {xs} (h : s.Bounded) : (s.stale xs).Bounded := by
  induction xs generalizing s with
  | nil => exact h
  | cons x xs ih =>
    unfold State.stale
    refine ih (State.bounded_free.2 ?_)
    split
    · exact h.setMe (Core.bounded_putReg.2 h.me)
    · exact h

@[simp] theorem State.Bounded.runStale {i us} (h : s.Bounded) : (s.runStale i us).Bounded := by
  have ran := exec_bounded i (h.stale (xs := us))
  unfold State.runStale
  dsimp only
  split
  · next t e => exact State.Bounded.outcome (State.Bounded.produced (State.Bounded.setCore (ran t e) (Core.bounded_settle.2 ((ran t e).core s.cur))))
  · exact ran

@[simp] theorem State.Bounded.issueInstr {i} (h : s.Bounded) : (s.issueInstr i).Bounded := by
  simp [State.issueInstr, h]

@[simp] theorem State.Bounded.issueDecoded {r} (h : s.Bounded) : (s.issueDecoded r).Bounded := by
  cases r with
  | ok i n => exact h.fetched.issueInstr
  | illegal d inPlace => exact exec_bounded (.illegalSequence d none inPlace) h
  | fetchFail j => exact h.fetchFailed

@[simp] theorem State.Bounded.fetchOne {c} (h : s.Bounded) : (s.fetchOne c).Bounded := by
  have here : ({ s with cur := c } : State).Bounded := h
  unfold State.fetchOne
  dsimp only
  split
  · exact here
  · split
    · split
      · exact here.fetched
      · exact here
    · exact here

@[simp] theorem State.Bounded.issue {c} (h : s.Bounded) : (s.issue c).Bounded := by
  have here : ({ s with cur := c } : State).Bounded := h
  unfold State.issue
  dsimp only
  split
  · exact here.outcome
  · split
    · exact exec_bounded _ here
    · exact here.issueDecoded

/-! ### Turns -/

@[simp] theorem State.Bounded.passCore {c n} (h : s.Bounded) : (s.passCore c n).Bounded := by
  unfold State.passCore
  dsimp only
  split
  · exact h
  · exact h
  · exact h
  · exact h.setCore (h.core c)
  · exact h.setCore (h.core c)
  · exact h.setCore (h.core c)
  · refine h.setCore ?_
    split <;> exact h.core c

@[simp] theorem State.Bounded.passTurn {c n} (h : s.Bounded) : (s.passTurn c n).Bounded := by
  have passed : ({ s.passCore c n with cur := c } : State).Bounded := h.passCore
  unfold State.passTurn
  dsimp only
  split
  · split
    · exact exec_bounded _ passed
    · exact passed.outcome
  · exact passed.outcome

@[simp] theorem State.Bounded.passRest (h : s.Bounded) : s.passRest.Bounded := by
  unfold State.passRest
  refine State.foldl_bounded (fun t x ht => ?_) _ h
  split
  · exact ht
  · exact ht.passCore

@[simp] theorem State.Bounded.flightTurn {k} (h : s.Bounded) : (s.flightTurn k).Bounded := by
  unfold State.flightTurn
  split
  · next e =>
    have taken := h.takeFlight e
    split
    · exact exec_bounded _ taken
    · exact h.outcome
  · exact h.outcome

@[simp] theorem State.Bounded.drainPosted {hostWaits ws} (h : s.Bounded) : (s.drainPosted hostWaits ws).Bounded := by
  induction ws generalizing s hostWaits with
  | nil => exact h
  | cons w ws ih =>
    unfold State.drainPosted
    split
    · exact ih h.storeCells
    · exact ih h

@[simp] theorem State.Bounded.drain (h : s.Bounded) : (s.drain).Bounded := by
  simp [State.drain, h]

@[simp] theorem State.Bounded.outsideWrite {host uid cells} (h : s.Bounded) : (s.outsideWrite host uid cells).Bounded := by
  simp [State.outsideWrite, h]

@[simp] theorem State.Bounded.senseTurn {die temp droop} (h : s.Bounded) : (s.senseTurn die temp droop).Bounded := by
  unfold State.senseTurn
  extract_lets t z u
  have stretched : u.Bounded := by
    simp only [u]
    split
    · exact h.sense
    · exact h.sense
  split
  · exact exec_bounded _ stretched
  · exact stretched.outcome

@[simp] theorem State.Bounded.turn {x} (h : s.Bounded) : (s.turn x).Bounded := by
  cases x with
  | event site i =>
    unfold State.turn
    dsimp only
    split
    · exact exec_bounded _ h
    · exact h.outcome
  | passZenith n => exact State.Bounded.outcome h
  | pass site n => exact h.passTurn
  | passNimbus cl n => exact State.Bounded.outcome h
  | issue c =>
    unfold State.turn
    dsimp only
    split
    · exact h.outcome
    · exact h.issue
  | fetch c =>
    unfold State.turn
    simp [h]
  | flight k => exact h.flightTurn
  | arrive x => exact State.Bounded.outcome h
  | tlps stream sub n => exact State.Bounded.outcome h.tlps
  | ideKey stream sub set key => exact State.Bounded.outcome h
  | sense die temp droop => exact h.senseTurn
  | outside host uid cells => exact State.Bounded.outcome h.outsideWrite
  | badLine key => exact State.Bounded.outcome h

@[simp] theorem State.Bounded.issueTurn {c} (h : s.Bounded) : (s.issueTurn c).Bounded := by
  simp [State.issueTurn, h]

@[simp] theorem State.Bounded.idleTurn (h : s.Bounded) : s.idleTurn.Bounded := by
  unfold State.idleTurn
  split
  · exact h.drain.outcome
  · split
    · exact exec_bounded _ h
    · cases s.firstReady with
      | some k => exact h.flightTurn
      | none =>
        cases s.due with
        | some x => exact exec_bounded _ h
        | none =>
          generalize (if s.zen.dead then none else s.nextRunning) = c
          cases c with
          | some c => exact h.issueTurn
          | none => exact h.passRest.outcome

/-! ### A step -/

theorem step_bounded (h : s.Bounded) : Res.Bounded (step s) := by
  unfold step
  split
  · exact State.Bounded.turn h
  · exact h.idleTurn

end Sys2Proof.Machine

end

section
/-! PROOF. O12: queue operands that find no entry or no room (R46, R89), and the bounds of every step. -/

namespace Sys2Proof.Machine

variable {s : State} {p : Pfx}

/-! ### Queue operands -/

/-- A register instruction whose last source is an empty dq traps with QUNDER. -/
theorem State.alu_dqEmpty {d last : Fin 16} {f : Word → Word} (hq : p.qs = .srcDq) (hd : s.me.dq = []) :
    s.alu p d last f = .next (s.trap s.cur { cause := 0x0e }) := by
  simp only [State.alu, Core.src, Core.popDq, hq, hd, if_true]
  rfl

/-- A register instruction whose last source is still to be filled waits. -/
theorem State.alu_dqPending {d last : Fin 16} {f : Word → Word} {n : Nat} {q : List (Nat × Option Word)} (hq : p.qs = .srcDq)
    (hd : s.me.dq = (n, none) :: q) : s.alu p d last f = .next (s.setMe (s.me.tick 1)) := by
  simp only [State.alu, Core.src, Core.popDq, hq, hd, if_true]
  rfl

/-- A register instruction whose result finds bq full traps with QOVER. -/
theorem State.alu_bqFull {d last : Fin 16} {f : Word → Word} (hq : p.qs = .dstQ) (hb : s.me.bq.length = 8) :
    s.alu p d last f = .next (s.trap s.cur { cause := 0x0d }) := by
  simp [State.alu, Core.src, Core.dst, hq, hb, State.trapMe, Cause.qover]

/-- The form is a register instruction with the last source `last`. -/
def IsAlu (i : Form) (d last : Fin 16) : Prop := ∀ (s : State) (p : Pfx), ∃ f, exec (i p) s = s.alu p d last f

theorem IsAlu.readsDq {i : Form} {d last : Fin 16} (h : IsAlu i d last) : ReadsDq i := by
  intro s p hq
  obtain ⟨f, e⟩ := h s p
  rw [e]
  exact ⟨State.alu_dqEmpty hq, fun _ _ => State.alu_dqPending hq⟩

theorem IsAlu.fillsBq {i : Form} {d last : Fin 16} (h : IsAlu i d last) : FillsBq i := by
  intro s p hq hb
  obtain ⟨f, e⟩ := h s p
  rw [e]
  exact State.alu_bqFull hq hb

/-- A load for a full dq traps with QOVER, after the checks of its own bytes. -/
theorem State.load_dqFull {d a : Fin 16} {loc : Bool} {e : Int} {n : Nat} {sgn : Bool} (hq : p.qs = .dstQ) (hd : s.me.dq.length = 16)
    (ha : (s.me.addr a e).toNat % n = 0)
    (hc : if loc then s.localCheck .read (s.me.addr a e) = .ok else ∃ l uid, s.globalCheck (s.me.addr a e) .read false = .ok l uid) :
    s.load p d a loc e n sgn = .next (s.trap s.cur { cause := 0x0d }) := by
  cases loc with
  | true => simp_all [State.load, State.trapMe, Cause.qover]
  | false =>
    obtain ⟨l, uid, hc⟩ := hc
    simp_all [State.load, State.trapMe, Cause.qover]

theorem State.reset_bounded : State.reset.Bounded := fun _ hx => absurd hx List.not_mem_nil

end Sys2Proof.Machine

open Sys2Proof Sys2Proof.Machine in
/-- Settles O12: the operand clauses by the operations that read and write the queues, the bounds by one lemma for each operation of a step. -/
theorem queueOperandTraps : Obligations.QueueOperandTraps := by
  unfold Obligations.QueueOperandTraps
  intro d a b e n
  refine ⟨?reads, ?fills, ?conds, ?loads, State.reset_bounded, fun _ t h e => step_bounded h t e⟩
  case reads =>
    simp only [List.forall_mem_cons, List.not_mem_nil, IsEmpty.forall_iff, implies_true, and_true]
    and_intros
    all_goals exact IsAlu.readsDq fun _ _ => ⟨_, rfl⟩
  case fills =>
    simp only [List.forall_mem_cons, List.not_mem_nil, IsEmpty.forall_iff, implies_true, and_true]
    and_intros
    all_goals exact IsAlu.fillsBq fun _ _ => ⟨_, rfl⟩
  case conds =>
    simp only [List.forall_mem_cons, List.not_mem_nil, IsEmpty.forall_iff, implies_true, and_true]
    exact ⟨fun _ _ => State.condBranch_empty, fun _ _ => State.condBranch_empty, fun _ _ => State.condBranch_empty,
      fun _ _ => State.condBranch_empty⟩
  case loads =>
    simp only [loadForms, List.forall_mem_cons, List.not_mem_nil, IsEmpty.forall_iff, implies_true, and_true]
    and_intros
    all_goals exact fun _ _ hq hd ha => ⟨fun hc => State.load_dqFull hq hd ha hc, fun l uid hc => State.load_dqFull hq hd ha ⟨l, uid, hc⟩⟩
end

section
/-! PROOF. The loads, stores and atomics, and the checks of their addresses (R104, R105). -/

namespace Sys2Proof.Machine

/-! ### The forms of one instruction (Table 5.10, R105) -/

theorem exec_loadForm {f : MemForm} {n : Nat} {sgn : Bool} (h : (f, n, sgn) ∈ loadForms) (s : State) (p : Pfx) (d a : Fin 16)
    (loc : Bool) (off : Int) : exec (f p d a loc off) s = s.load p d a loc off n sgn := by
  simp only [loadForms, List.mem_cons, Prod.mk.injEq, List.not_mem_nil, or_false] at h
  rcases h with ⟨rfl, rfl, rfl⟩ | ⟨rfl, rfl, rfl⟩ | ⟨rfl, rfl, rfl⟩ | ⟨rfl, rfl, rfl⟩ | ⟨rfl, rfl, rfl⟩ | ⟨rfl, rfl, rfl⟩ |
    ⟨rfl, rfl, rfl⟩ <;> rfl

theorem exec_storeForm {f : MemForm} {n : Nat} (h : (f, n) ∈ storeForms) (s : State) (p : Pfx) (d a : Fin 16)
    (loc : Bool) (off : Int) : exec (f p d a loc off) s = s.store p d a loc off n := by
  simp only [storeForms, List.mem_cons, Prod.mk.injEq, List.not_mem_nil, or_false] at h
  rcases h with ⟨rfl, rfl⟩ | ⟨rfl, rfl⟩ | ⟨rfl, rfl⟩ | ⟨rfl, rfl⟩ <;> rfl

theorem exec_atomicForm {f : Pfx → Fin 16 → Fin 16 → Instr} {op : AtomicOp} (h : (f, op) ∈ atomicForms) (s : State) (p : Pfx)
    (d a : Fin 16) : exec (f p d a) s = s.atomic p op d a := by
  simp only [atomicForms, List.mem_cons, Prod.mk.injEq, List.not_mem_nil, or_false] at h
  rcases h with ⟨rfl, rfl⟩ | ⟨rfl, rfl⟩ | ⟨rfl, rfl⟩ | ⟨rfl, rfl⟩ | ⟨rfl, rfl⟩ | ⟨rfl, rfl⟩ | ⟨rfl, rfl⟩ | ⟨rfl, rfl⟩ | ⟨rfl, rfl⟩ |
    ⟨rfl, rfl⟩ <;> rfl

/-! ### Misaligned addresses -/

section
variable {s : State} {p : Pfx} {d a b : Fin 16} {loc : Bool} {off : Int}

theorem State.load_misaligned {n : Nat} {sgn : Bool} (h : (s.me.addr a off).toNat % n ≠ 0) :
    s.load p d a loc off n sgn = .next (s.trap s.cur { cause := 5, faddr := s.me.addr a off }) := if_pos h

theorem State.store_misaligned {n : Nat} (h : (s.me.addr a off).toNat % n ≠ 0) :
    s.store p d a loc off n = .next (s.trap s.cur { cause := 5, faddr := s.me.addr a off }) := if_pos h

theorem State.atomic_misaligned {op : AtomicOp} (h : (s.me.getG a).toNat % 8 ≠ 0) :
    s.atomic p op d a = .next (s.trap s.cur { cause := 5, faddr := s.me.getG a }) := if_pos h

theorem exec_vld_misaligned (h : (s.me.addr a off).toNat % 8 ≠ 0) :
    exec (.vld p d a loc off) s = .next (s.trap s.cur { cause := 5, faddr := s.me.addr a off }) := if_pos h

theorem exec_vst_misaligned (h : (s.me.addr a off).toNat % 8 ≠ 0) :
    exec (.vst p d a loc off) s = .next (s.trap s.cur { cause := 5, faddr := s.me.addr a off }) := if_pos h

/-- A move between banks and tiles or accumulators checks its address before anything else (R209). -/
theorem State.bankMove_misaligned {addr : Word} {check : LocalCheck} {go : Res} (h : addr.toNat % 64 ≠ 0) :
    s.bankMove addr check go = .next (s.trap s.cur { cause := 5, faddr := addr }) := if_pos h

/-- VwCheck refuses an address that is no cell's (R127). -/
theorem State.vwIssue_misaligned {va : Word} {want : Want} {pre : Nat → Option Tr} {f : Nat → State → Res} (h : va.toNat % 16 ≠ 0) :
    s.vwIssue p va want pre f = .next (s.trap s.cur { cause := 5, faddr := va }) := by
  have hcheck : s.vwCheck va want = .trap 5 va := if_pos h
  simp only [State.vwIssue, hcheck, State.trapMe]

/-- A copy that does not yet wait for its channel checks its descriptor's address first (R226). -/
theorem State.copyIssue_misaligned {form : Nat} (hw : s.me.copyWait = none) (h : (s.me.getG d).toNat % 64 ≠ 0) :
    s.copyIssue p form d = .next (s.trap s.cur { cause := 5, faddr := s.me.getG d }) := by
  simp only [State.copyIssue, hw, State.copyChecks, if_pos h]
  rfl

/-! ### The versioned-word instructions as checks and requests (R127, R128) -/

theorem exec_vwld : exec (.vwld p d a b) s =
    s.vwIssue p (s.me.getG a) .read (fun _ => if 2 ^ 32 ≤ (s.me.getG b).toNat then some (Cause.vwmisuse, s.me.getG a) else none)
      (fun cell t => t.vwWait p (.vwHomeLoad (t.vwReq p (s.me.getG a) cell
        (.load d (s.me.getG b).toNat (setOrig s.me.carried s.me.lnum))))) := rfl

theorem exec_vwst : exec (.vwst p d a b) s = s.vwIssue p (s.me.getG a) .write (fun _ => s.me.fullBuffer) (fun cell t =>
    t.vwWrite p { cell := cell, va := s.me.getG a, value := s.me.getG d, version := some (bitsOf (s.me.getG b) 31 0) }
      (.vwHomeStore (t.vwReq p (s.me.getG a) cell (.store (s.me.getG d) (bitsOf (s.me.getG b) 31 0))))) := rfl

theorem exec_vwinc : exec (.vwinc p d a) s = s.vwIssue p (s.me.getG a) .write (fun _ => s.me.fullBuffer) (fun cell t =>
    t.vwWrite p { cell := cell, va := s.me.getG a, value := s.me.getG d, version := none }
      (.vwHomeInc (t.vwReq p (s.me.getG a) cell (.inc (s.me.getG d))))) := rfl

end

/-! ### What a FENCE holds (R70, R106) -/

theorem State.pendingBelow_iff {s : State} {c n : Nat} {loadsOnly : Bool} :
    s.pendingBelow c n loadsOnly = true ↔ ∃ e ∈ s.flight, pendingOf c loadsOnly e.2 = true ∧ numberOf e.2 < n := by
  simp [State.pendingBelow]

/-- A sequence behind a FENCE whose accesses are pending passes a cycle. -/
theorem issueInstr_fenced {s : State} {i : Instr} (h : s.fenceWaits s.cur i = true) :
    s.issueInstr i = .next (s.setMe (s.me.tick 1)) :=
  issueInstr_waits (by simp [State.scoreboardWaits, h])

/-- A global access waits for what either half of a FENCE orders. -/
theorem State.fenceWaits_global {s : State} {i : Instr} (hi : touchesGlobal i = true)
    (h : s.pendingBelow s.cur s.me.fenceRel false = true ∨ s.pendingBelow s.cur s.me.fenceAcq true = true) :
    s.fenceWaits s.cur i = true := by
  have hme : s.core s.cur = s.me := rfl
  rcases h with h | h <;> simp [State.fenceWaits, hi, hme, h]

/-- What leaves the core waits for what a release orders. -/
theorem State.fenceWaits_send {s : State} {i : Instr} (hi : sendsOut i = true) (h : s.pendingBelow s.cur s.me.fenceRel false = true) :
    s.fenceWaits s.cur i = true := by
  have hme : s.core s.cur = s.me := rfl
  simp [State.fenceWaits, hi, hme, h]

/-- Every other sequence issues past a FENCE. -/
theorem State.fenceWaits_other {s : State} {i : Instr} (hg : touchesGlobal i = false) (hs : sendsOut i = false) (c : Nat) :
    s.fenceWaits c i = false := by
  simp [State.fenceWaits, hg, hs]

end Sys2Proof.Machine

open Sys2Proof Sys2Proof.Machine in
/-- Settles O28: FENCE only notes numbers, what it holds is decided at issue, and every form checks its address first. -/
theorem alignmentAndFence : Obligations.AlignmentAndFence := by
  unfold Obligations.AlignmentAndFence
  refine ⟨fun s p => State.finish_setMe s p _, fun s p d a b dir off before after hbefore hafter => ?fences,
    fun s p d a b loc off addr haddr => ?aligned⟩
  case fences =>
    rw [← State.pendingBelow_iff] at hbefore hafter
    subst hbefore hafter
    refine ⟨fun i hi h => issueInstr_fenced (State.fenceWaits_global ?_ h), fun i hi h => issueInstr_fenced (State.fenceWaits_send ?_ h),
      fun i hi => State.fenceWaits_other ?_ ?_ _⟩
    · revert i; simp [touchesGlobal]
    · revert i; simp [sendsOut]
    · revert i; simp [touchesGlobal]
    · revert i; simp [sendsOut]
  case aligned =>
    subst haddr
    refine ⟨fun f n sgn hf h => (exec_loadForm hf ..).trans (State.load_misaligned h),
      fun f n hf h => (exec_storeForm hf ..).trans (State.store_misaligned h),
      fun f op hf h => (exec_atomicForm hf ..).trans (State.atomic_misaligned h),
      fun h => ⟨exec_vld_misaligned h, exec_vst_misaligned h⟩,
      fun h => ⟨exec_vwld.trans (State.vwIssue_misaligned h), exec_vwst.trans (State.vwIssue_misaligned h),
        exec_vwinc.trans (State.vwIssue_misaligned h)⟩,
      fun t h => ⟨State.bankMove_misaligned h, State.bankMove_misaligned h⟩,
      fun c => ⟨fun h => ⟨State.bankMove_misaligned h, State.bankMove_misaligned h⟩, fun h => State.bankMove_misaligned h⟩,
      fun hw h => ?_⟩
    simp only [List.forall_mem_cons, List.not_mem_nil, IsEmpty.forall_iff, implies_true, and_true]
    exact ⟨State.copyIssue_misaligned hw h, State.copyIssue_misaligned hw h, State.copyIssue_misaligned hw h⟩
end

section
/-! PROOF. Translation, level by level, and the checks of a leaf (R282, R283). -/

namespace Sys2Proof.Machine

/-! ### The walk -/

/-- One level of the walk, with its entry by name. -/
theorem State.walk_succ (s : State) (uid lvl tbl va : Nat) : s.walk uid (lvl + 1) tbl va =
    if !s.macOk (entryPlace lvl tbl va) uid then .error Cause.sealmac
    else if s.entryAt lvl tbl va % 2 = 0 || natBits (s.entryAt lvl tbl va) 6 2 ≠ 0 then .error Cause.page
    else if natBits (s.entryAt lvl tbl va) 1 1 = 1 then
      if lvl = 3 then .error Cause.page
      else .ok
        { key := natBits (s.entryAt lvl tbl va) 51 50 * 2 ^ 50
            + natBits (s.entryAt lvl tbl va) 49 12 * 4096 / 2 ^ (12 + 9 * lvl) * 2 ^ (12 + 9 * lvl) + va % 2 ^ (12 + 9 * lvl)
          kid := natBits (s.entryAt lvl tbl va) 63 52, vw := natBits (s.entryAt lvl tbl va) 11 11 == 1
          x := natBits (s.entryAt lvl tbl va) 10 10 == 1, w := natBits (s.entryAt lvl tbl va) 9 9 == 1
          r := natBits (s.entryAt lvl tbl va) 8 8 == 1 }
    else if natBits (s.entryAt lvl tbl va) 63 50 ≠ 0 || natBits (s.entryAt lvl tbl va) 11 7 ≠ 0 then .error Cause.page
    else s.walk uid lvl (tierOf tbl * 2 ^ 50 + natBits (s.entryAt lvl tbl va) 49 12 * 4096) va := rfl

theorem natBits_low (e : Nat) : natBits e 0 0 = e % 2 := by simp [natBits]

/-- A clear field is clear in each of its parts. -/
theorem natBits_eq_zero {e hi lo hi' lo' : Nat} (h : natBits e hi lo = 0) (hl : lo ≤ lo') (hh : hi' ≤ hi) : natBits e hi' lo' = 0 := by
  refine Nat.eq_of_testBit_eq fun i => ?_
  rw [Nat.zero_testBit, natBits, Nat.testBit_mod_two_pow, Nat.testBit_div_two_pow]
  by_cases hi : i < hi' + 1 - lo'
  · have hbit := congrArg (fun x => Nat.testBit x (lo' + i - lo)) h
    simp only [natBits, Nat.testBit_mod_two_pow, Nat.testBit_div_two_pow, Nat.zero_testBit] at hbit
    rw [decide_eq_true (by omega), Bool.true_and, show lo' + i - lo + lo = i + lo' by omega] at hbit
    rw [hbit, Bool.and_false]
  · rw [decide_eq_false hi, Bool.false_and]

/-- What the walk finds from a table on is what the model's walk gives. -/
theorem State.Walks.walk {s : State} {uid va lvl tbl : Nat} {r : Except Nat Leaf} (h : s.Walks uid va lvl tbl r) :
    s.walk uid (lvl + 1) tbl va = r := by
  induction h with
  | unsealed lvl tbl hmac => simp [State.walk_succ, hmac, Cause.sealmac]
  | invalid lvl tbl hmac hv =>
    rw [natBits_low] at hv
    simp [State.walk_succ, hmac, hv, Cause.page]
  | topLeaf tbl hmac hleaf => simp [State.walk_succ, hmac, hleaf, Cause.page]
  | leaf lvl tbl hlvl hmac hv hr hleaf l hl =>
    rw [natBits_low] at hv
    have hbase : ∀ x : Nat, x * 4096 / 2 ^ (12 + 9 * lvl) = x / 2 ^ (9 * lvl) := fun x => by
      rw [Nat.pow_add, Nat.mul_comm]
      exact Nat.mul_div_mul_left _ _ (by norm_num)
    have hne : lvl ≠ 3 := by omega
    simp [State.walk_succ, hmac, hv, hr, hleaf, hne, hbase, hl, beq_eq_decide]
  | attributes lvl tbl hmac hleaf ha =>
    simp [State.walk_succ, hmac, hleaf, ha, Cause.page]
  | bottom tbl hmac hleaf =>
    have hend : ∀ tbl, s.walk uid 0 tbl va = .error Cause.page := fun _ => rfl
    simp [State.walk_succ, hend, hmac, hleaf, Cause.page]
  | next lvl tbl hmac hv hr hleaf ha r _ ih =>
    rw [natBits_low] at hv
    have h62 := natBits_eq_zero hr (lo' := 2) (hi' := 6) (by decide) (by decide)
    have h117 := natBits_eq_zero hr (lo' := 7) (hi' := 11) (by decide) (by decide)
    simpa [State.walk_succ _ _ (lvl + 1), hmac, hv, h62, h117, hleaf, ha] using ih

/-- The walk of an address that is in range. -/
theorem State.Walks.walkAt {s : State} {part va : Nat} {r : Except Nat Leaf} (h : s.Walks (s.part part).key va 3 (s.part part).tbl r)
    (hva : va < 2 ^ 56) : s.walkAt part va = r := by
  rw [State.walkAt, if_neg (Nat.not_le.2 hva), h.walk]

/-! ### The checks of a leaf -/

theorem State.translate_error {s : State} {part va c : Nat} (want : Want) (h : s.walkAt part va = .error c) :
    s.translate part va want = .error c := by
  simp only [State.translate, h]

theorem State.translate_lacks {s : State} {part va : Nat} {l : Leaf} {want : Want} (h : s.walkAt part va = .ok l)
    (hlacks : l.grants want = false) : s.translate part va want = .error Cause.prot := by
  simp only [State.translate, h, hlacks, Bool.not_false, if_true]

/-- Where the right is granted, the key decides. -/
theorem State.translate_granted {s : State} {part va : Nat} {l : Leaf} {want : Want} (h : s.walkAt part va = .ok l)
    (hgrants : l.grants want = true) : s.translate part va want = (s.keyCheck part l want).map (fun uid => (l, uid)) := by
  simp only [State.translate, h, hgrants, Bool.not_true, Bool.false_eq_true, if_false]
  cases s.keyCheck part l want <;> rfl

theorem Leaf.lacks_iff (l : Leaf) (want : Want) : l.lacks want ↔ l.grants want = false := by
  cases want with
  | read | write | exec => rfl
  | rmw => exact Bool.and_eq_false_iff.symm

theorem State.noKey.keyOf {s : State} {part kid : Nat} (h : s.noKey part kid) : s.keyOf part kid = none := by
  obtain ⟨hzero, hother⟩ := h
  unfold State.keyOf
  split
  · next hk => simp [hzero hk]
  · next hk => simpa [List.find?_eq_none] using fun u k hx => by simpa using hother hk (u, k) hx

theorem State.namesKey.keyOf {s : State} {part kid uid : Nat} {k : Key} (h : s.namesKey part kid uid k) :
    s.keyOf part kid = some (uid, k) := by
  unfold State.keyOf
  rcases h with ⟨hk, rfl, hg⟩ | ⟨hk, hident, hpart, hst, before, after, hkeys, hbefore⟩
  · simp [hk, hg]
  · rw [if_neg hk, hkeys, List.find?_append, List.find?_eq_none.2 fun x hx => by simpa using hbefore x hx]
    simp [hident, hpart, hst]

/-- A leaf that the walk finds is checked for its right and its key. -/
theorem State.leafChecks {s : State} {part va : Nat} {l : Leaf} (want : Want) (h : s.walkAt part va = .ok l) :
    s.LeafChecks part va want l := by
  unfold State.LeafChecks
  simp only [Leaf.lacks_iff, Bool.not_eq_false]
  refine ⟨State.translate_lacks h, fun hgrants hkey => ?_, fun hgrants uid k hk => ?_⟩
  · have hcheck : s.keyCheck part l want = .error Cause.prot := by simp only [State.keyCheck, hkey.keyOf]
    rw [State.translate_granted h hgrants, hcheck]
    rfl
  · have hcheck : ∀ r, s.keyCheck part l want = r → s.translate part va want = r.map (fun uid => (l, uid)) :=
      fun r hr => hr ▸ State.translate_granted h hgrants
    simp only [State.keyCheck, hk.keyOf] at hcheck
    refine ⟨fun hkid htier => hcheck (.error 7) (by simp [hkid, htier, Cause.prot]), fun hhost => ?_⟩
    simp only [hhost, Bool.and_eq_true, decide_eq_true_eq, if_false] at hcheck
    refine ⟨fun hst => hcheck (.error 0x0c) (by simp [hst, Cause.keyrevoked]), fun hst hw => hcheck (.error 7) ?_, fun hst => hcheck (.ok uid) ?_⟩
    · rcases hw with rfl | rfl <;> simp [hst, Want.stores, Cause.prot]
    · rcases hst with hst | ⟨hst, rfl | rfl⟩ <;> simp [hst, Want.stores]

end Sys2Proof.Machine
end

section
/-! PROOF. O25: global loads and stores at issue (R82, R89, R104, R119, R283, R286). -/

namespace Sys2Proof.Machine

/-! ### The checks of a global access (R104, R283, R286) -/

section
variable {s : State} {va : Word} {want : Want} {noVw : Bool} {l : Leaf} {uid : Nat}

theorem State.globalCheck_error {c : Nat} (h : s.translate s.me.part va.toNat want = .error c) :
    s.globalCheck va want noVw = .trap c va := by
  simp only [State.globalCheck, h]

theorem State.globalCheck_versioned (h : s.translate s.me.part va.toNat want = .ok (l, uid)) (hvw : l.vw = true) :
    s.globalCheck va want true = .trap 0x0a va := by
  simp only [State.globalCheck, h, hvw, Bool.and_self, if_true, Cause.vwmisuse]

theorem State.globalCheck_unsealed (h : s.translate s.me.part va.toNat want = .ok (l, uid)) (hvw : (noVw && l.vw) = false)
    (hk : keyExists l.key = true) (hm : s.macOk l.key uid = false) : s.globalCheck va want noVw = .trap 0x71 va := by
  simp only [State.globalCheck, h, hvw, hk, hm, Bool.not_true, Bool.not_false, Bool.false_eq_true, if_false, if_true, Cause.sealmac]

end

/-! ### Loads and stores whose address is aligned -/

section
variable {s : State} {p : Pfx} {d a : Fin 16} {off : Int} {n : Nat} {sgn : Bool}

theorem State.load_refused {c : Nat} {x : Word} (ha : (s.me.addr a off).toNat % n = 0)
    (hc : s.globalCheck (s.me.addr a off) .read false = .trap c x) :
    s.load p d a false off n sgn = .next (s.trap s.cur { cause := c, faddr := x }) := by
  simp only [State.load, ha, hc, ne_eq, not_true_eq_false, Bool.false_eq_true, if_false, State.trapMe]

theorem State.store_refused {c : Nat} {x : Word} (ha : (s.me.addr a off).toNat % n = 0)
    (hc : s.globalCheck (s.me.addr a off) .write true = .trap c x) :
    s.store p d a false off n = .next (s.trap s.cur { cause := c, faddr := x }) := by
  simp only [State.store, ha, hc, ne_eq, not_true_eq_false, Bool.false_eq_true, if_false, State.trapMe]

theorem State.store_checked {l : Leaf} {uid : Nat} (ha : (s.me.addr a off).toNat % n = 0)
    (hc : s.globalCheck (s.me.addr a off) .write true = .ok l uid) :
    s.store p d a false off n = s.globalStore p (s.me.addr a off) [(uid, cellsAt l.key (leBytes n (s.me.getG d).toNat))] := by
  simp only [State.store, ha, hc, ne_eq, not_true_eq_false, Bool.false_eq_true, if_false]

/-- What a load does to dq when it leaves the core (R89). -/
def Core.pushed (k : Core) (p : Pfx) : Core := if p.qs = .dstQ then { k with dq := k.dq ++ [(k.seqno, none)] } else k

/-- Where the value of a load goes (R89, R104). -/
def loadTarget (p : Pfx) (d : Fin 16) : LoadDst := if p.qs = .dstQ then .dq else .reg d

theorem State.load_checked {l : Leaf} {uid : Nat} (ha : (s.me.addr a off).toNat % n = 0)
    (hc : s.globalCheck (s.me.addr a off) .read false = .ok l uid) (hq : p.qs = .dstQ → s.me.dq.length < 16) :
    s.load p d a false off n sgn = s.issueAccess p (s.me.pushed p) (s.newAccess p (s.me.addr a off) (keysFrom l.key n) uid
      (.load (loadTarget p d) n sgn (s.me.overlay (keysFrom l.key n)) (s.me.vwOverlay (keysFrom l.key n)))) [uid] := by
  have hroom : (decide (p.qs = .dstQ) && decide (16 ≤ s.me.dq.length)) = false := by
    rw [← Bool.decide_and, decide_eq_false_iff_not]
    exact fun ⟨h1, h2⟩ => Nat.not_lt.2 h2 (hq h1)
  simp only [State.load, ha, hc, hroom, ne_eq, not_true_eq_false, Bool.false_eq_true, if_false]
  rfl

end

/-! ### Leaving the core -/

/-- What a sequence that completes leaves behind. -/
theorem State.finish_next (s : State) (p : Pfx) : ∃ t, s.finish p = .next t ∧ t.core s.cur = s.me.advance p ∧ t.mem = s.mem ∧
    t.bmem = s.bmem ∧ t.free = s.free ∧ t.flight = s.flight :=
  ⟨_, rfl, s.core_setCore s.cur _, rfl, rfl, rfl, rfl⟩

/-- The device with its keys used for an access that neither waits nor stalls any more (R84, R290). -/
def State.keysUsed (s : State) (uids : List Nat) : State :=
  { s with flight := s.flight.filter (fun e => !s.isStalled e), keys := touchKeys s.keys uids }

@[simp] theorem State.keysUsed_me (s : State) (uids : List Nat) : (s.keysUsed uids).me = s.me := rfl

/-- An access that neither waits nor stalls leaves the core, and the sequence completes. -/
theorem State.issueAccess_leaves {s : State} {p : Pfx} {k : Core} {x : Access} {uids : List Nat} (hats : s.atsBlocked x.keys = false)
    (hkeys : s.keyMissing uids = none) : ∃ t, s.issueAccess p k x uids = .next t ∧
      t.core s.cur = Core.advance { k with seqno := k.seqno + 1 } p ∧ t.mem = s.mem ∧ t.bmem = s.bmem ∧ t.free = s.free ∧
      t.flight = s.flight.filter (fun e => !s.isStalled e) ++
        [(s.cur, .accessPerformed (if loadKind x.kind then { x with served := s.stalledServed } else x))] := by
  obtain ⟨t, ht, hcore, hrest⟩ := State.finish_next (((s.keysUsed uids).setMe { k with seqno := k.seqno + 1 }).enqueue s.cur
    (.accessPerformed (if loadKind x.kind then { x with served := s.stalledServed } else x))) p
  refine ⟨t, ?_, ?_, hrest⟩
  · rw [← ht]
    simp only [State.issueAccess, hats, hkeys, Bool.false_eq_true, if_false]
    rfl
  · rw [State.me_enqueue, State.me_setMe] at hcore
    exact hcore

@[simp] theorem partCells_one (uid : Nat) (cells : List (Nat × Byte)) : partCells [(uid, cells)] = cells := by
  simp [partCells]

/-- The keys of consecutive bytes. -/
theorem cellsAt_keys (key : Nat) (bs : List Byte) : (cellsAt key bs).map (·.1) = keysFrom key bs.length := by
  induction bs generalizing key with
  | nil => rfl
  | cons b bs ih =>
    rw [cellsAt, List.map_cons, ih]
    simp [keysFrom, List.range_succ_eq_map, Nat.add_right_comm, Nat.add_assoc]

section
variable {s : State} {p : Pfx} {va : Word} {uid : Nat} {cells : List (Nat × Byte)}

/-- A store of a handler that is not in staged mode leaves the core. -/
theorem State.globalStore_leaves (hst : s.me.staged = false) (hats : s.atsBlocked (cells.map (·.1)) = false)
    (hkeys : s.keyMissing [uid] = none) : ∃ t, s.globalStore p va [(uid, cells)] = .next t ∧
      t.core s.cur = Core.advance { s.me with seqno := s.me.seqno + 1
                                              sbuf := s.me.sbuf.map (SendEntry.without (cells.map (·.1))) } p ∧
      t.mem = s.mem ∧ t.bmem = s.bmem ∧ t.flight = s.flight.filter (fun e => !s.isStalled e) ++
        [(s.cur, .accessPerformed (s.newAccess p va (cells.map (·.1)) uid (.store cells)))] := by
  obtain ⟨t, ht, hcore, hmem, hbmem, -, hflight⟩ := State.finish_next (((s.keysUsed [uid]).enqueue s.cur (.accessPerformed
    (s.newAccess p va (cells.map (·.1)) uid (.store cells)))).setMe { s.me with
      seqno := s.me.seqno + 1, sbuf := s.me.sbuf.map (SendEntry.without (cells.map (·.1))) }) p
  refine ⟨t, ?_, ?_, hmem, hbmem, hflight⟩
  · have hst' : (s.keysUsed [uid]).me.staged = false := hst
    rw [← ht]
    simp only [State.globalStore, Core.fullBuffer, hst, partCells_one, hats, List.map_cons, List.map_nil, hkeys, Bool.false_and,
      Bool.false_eq_true, if_false]
    exact if_neg (by rw [Bool.not_eq_true]; exact hst')
  · rw [State.me_setMe] at hcore
    exact hcore

/-- A store of a handler in staged mode is held, when an entry of the send buffer is free. -/
theorem State.globalStore_held (hst : s.me.staged = true) (hroom : s.me.sbuf.length < 32) (hats : s.atsBlocked (cells.map (·.1)) = false)
    (hkeys : s.keyMissing [uid] = none) : ∃ t, s.globalStore p va [(uid, cells)] = .next t ∧
      t.core s.cur = Core.advance { s.me with sbuf := s.me.sbuf ++ [.store (p.order == .rel) [(uid, cells)]] } p ∧
      t.mem = s.mem ∧ t.bmem = s.bmem := by
  have hfull : s.me.fullBuffer = none := by
    rw [Core.fullBuffer, if_neg (by simp; omega)]
  obtain ⟨t, ht, hcore, hmem, hbmem, -⟩ := State.finish_next ((s.keysUsed [uid]).setMe { s.me with
    sbuf := s.me.sbuf ++ [.store (p.order == .rel) [(uid, cells)]] }) p
  refine ⟨t, ?_, ?_, hmem, hbmem⟩
  · have hst' : (s.keysUsed [uid]).me.staged = true := hst
    rw [← ht]
    simp only [State.globalStore, hfull, partCells_one, hats, List.map_cons, List.map_nil, hkeys, Bool.false_eq_true, if_false]
    exact if_pos hst'
  · rw [State.me_setMe] at hcore
    exact hcore

/-- A store of a handler in staged mode is refused when the send buffer is full (R119). -/
theorem State.globalStore_full {parts : List (Nat × List (Nat × Byte))} (hst : s.me.staged = true) (hfull : s.me.sbuf.length = 32) :
    s.globalStore p va parts = .next (s.trap s.cur { cause := 0x1b }) := by
  have hbuf : s.me.fullBuffer = some (Cause.sndfull, 0) := by simp [Core.fullBuffer, hst, hfull]
  simp only [State.globalStore, hbuf]
  rfl

end

/-! ### The clauses of the statement -/

theorem State.globalRefused_load {s : State} {f : MemForm} {n : Nat} {sgn : Bool} (hf : (f, n, sgn) ∈ loadForms) (p : Pfx) (d a : Fin 16)
    (off : Int) (ha : (s.me.addr a off).toNat % n = 0) :
    s.globalRefused (fun p => f p d a false off) p (s.me.addr a off) .read := by
  have hload : ∀ c x, s.globalCheck (s.me.addr a off) .read false = .trap c x → s.trapsAt (fun p => f p d a false off) p c x :=
    fun c x hc => (exec_loadForm hf ..).trans (State.load_refused ha hc)
  exact ⟨fun c h => hload _ _ (State.globalCheck_error h), fun l uid h => ⟨(fun hw => nomatch hw),
    fun _ hk hm => hload _ _ (State.globalCheck_unsealed h rfl hk hm)⟩⟩

theorem State.globalRefused_store {s : State} {f : MemForm} {n : Nat} (hf : (f, n) ∈ storeForms) (p : Pfx) (d a : Fin 16) (off : Int)
    (ha : (s.me.addr a off).toNat % n = 0) : s.globalRefused (fun p => f p d a false off) p (s.me.addr a off) .write := by
  have hstore : ∀ c x, s.globalCheck (s.me.addr a off) .write true = .trap c x → s.trapsAt (fun p => f p d a false off) p c x :=
    fun c x hc => (exec_storeForm hf ..).trans (State.store_refused ha hc)
  exact ⟨fun c h => hstore _ _ (State.globalCheck_error h), fun l uid h => ⟨fun _ hvw => hstore _ _ (State.globalCheck_versioned h hvw),
    fun hvw hk hm => hstore _ _ (State.globalCheck_unsealed h (by rw [hvw rfl]; rfl) hk hm)⟩⟩

/-- dq and the numbering after a load that left the core (R89). -/
theorem Core.pushed_numbered (k : Core) (p : Pfx) : ({ k.pushed p with seqno := (k.pushed p).seqno + 1 } : Core) =
    { k with seqno := k.seqno + 1, dq := if p.qs = .dstQ then k.dq ++ [(k.seqno, none)] else k.dq } := by
  unfold Core.pushed
  split <;> rfl

end Sys2Proof.Machine

open Sys2Proof Sys2Proof.Machine in
/-- Settles O25: translation by induction on the walk, the accesses by the checks that they pass. -/
theorem globalAccessesIssue : Obligations.GlobalAccessesIssue := by
  unfold Obligations.GlobalAccessesIssue
  refine ⟨fun s part va want => ⟨fun hva => State.translate_error want (if_pos hva), fun hva => ⟨fun c h => State.translate_error want (h.walkAt hva),
      fun l h => State.leafChecks want (h.walkAt hva)⟩⟩, fun s p d a off addr haddr => ?refused, ?loads, ?stores⟩
  case refused =>
    subst haddr
    exact ⟨fun f n sgn hf ha => State.globalRefused_load hf p d a off ha, fun f n hf ha => State.globalRefused_store hf p d a off ha⟩
  case loads =>
    intro f n sgn hf s p d a off addr l uid haddr ha hc hats hkeys hq
    subst haddr
    have hexec := (exec_loadForm hf s p d a false off).trans (State.load_checked ha hc hq)
    obtain ⟨t, ht, hcore, hmem, hbmem, -, hflight⟩ := State.issueAccess_leaves (p := p) (k := s.me.pushed p)
      (x := s.newAccess p (s.me.addr a off) (keysFrom l.key n) uid (.load (loadTarget p d) n sgn (s.me.overlay (keysFrom l.key n))
        (s.me.vwOverlay (keysFrom l.key n)))) hats hkeys
    exact ⟨t, _, hexec.trans ht, by rw [hcore, Core.pushed_numbered], hmem, hbmem, hflight, rfl, rfl, rfl, rfl, rfl, rfl, rfl, rfl⟩
  case stores =>
    intro f n hf s p d a off addr l uid haddr ha hc hats hkeys
    subst haddr
    have hexec := (exec_storeForm hf s p d a false off).trans (State.store_checked ha hc)
    have hcells : (cellsAt l.key (leBytes n (s.me.getG d).toNat)).map (·.1) = keysFrom l.key n := by rw [cellsAt_keys, leBytes_length]
    rw [← hcells] at hats
    refine ⟨fun hst => ?leaves, fun hst hroom => ?held, fun hst hfull => ?full⟩
    case leaves =>
      obtain ⟨t, ht, hcore, hmem, hbmem, hflight⟩ := State.globalStore_leaves (p := p) (va := s.me.addr a off) hst hats hkeys
      rw [hcells] at hcore hflight
      exact ⟨t, _, hexec.trans ht, hcore, hmem, hbmem, hflight, rfl, rfl, rfl, rfl⟩
    case held =>
      obtain ⟨t, ht, hcore, hmem, hbmem⟩ := State.globalStore_held (p := p) (va := s.me.addr a off) hst hroom hats hkeys
      exact ⟨t, hexec.trans ht, hcore, hmem, hbmem⟩
    case full => exact hexec.trans (State.globalStore_full hst hfull)
end

section
/-! PROOF. O45: the versioned-word instructions at issue (R82, R119, R126 to R129, R269). -/

namespace Sys2Proof.Machine

section
variable {s : State} {p : Pfx} {va : Word} {want : Want} {pre : Nat → Option Tr} {f : Nat → State → Res} {cell : Nat}

/-! ### The checks at issue (R127) -/

theorem State.cellReady.cellAt (h : s.cellReady va want cell) : s.cellAt va want cell := by
  obtain ⟨l, uid, hcheck, hkey, -⟩ := h
  exact ⟨l, uid, hcheck, hkey⟩

theorem State.vwIssue_check {c : Nat} {x : Word} (h : s.vwCheck va want = .trap c x) :
    s.vwIssue p va want pre f = .next (s.trap s.cur { cause := c, faddr := x }) := by
  simp only [State.vwIssue, h, State.trapMe]

/-- A cell's instruction is refused for a reason of its own form. -/
theorem State.vwIssue_refused {c : Nat} {x : Word} (h : s.cellAt va want cell) (hpre : pre cell = some (c, x)) :
    s.vwIssue p va want pre f = .next (s.trap s.cur { cause := c, faddr := x }) := by
  obtain ⟨l, uid, hcheck, rfl⟩ := h
  simp only [State.vwIssue, hcheck, hpre, State.trapMe]

/-- A cell's instruction goes on when the cell is at hand and its form refuses nothing. -/
theorem State.vwIssue_ready {x : Res} (hx : x = s.vwIssue p va want pre f) (h : s.cellReady va want cell) (hpre : pre cell = none) :
    ∃ us, x = f cell (s.keysUsed us) := by
  obtain ⟨l, uid, hcheck, rfl, hats, hkeys, hmac⟩ := h
  refine ⟨[uid], hx.trans ?_⟩
  simp only [State.vwIssue, hcheck, hpre, hats, hkeys, hmac, Bool.not_true, Bool.false_eq_true, if_false]
  rfl

/-! ### Requests (R74) -/

variable {i : Form} {op : VwOp} {g : VwReq → Instr} {us : List Nat}

/-- An instruction that asks the home and waits for its answer. -/
theorem State.asksHome_waits (h : exec (i p) s = (s.keysUsed us).vwWait p (g ((s.keysUsed us).vwReq p va cell op))) :
    s.asksHome i p (s.me.asking p) va cell op g := by
  refine ⟨_, _, h, ?_, rfl, rfl, rfl, rfl⟩
  rw [State.setMe]
  refine (State.core_setCore _ s.cur _).trans ?_
  rw [State.me_enqueue, State.me_setMe]
  rfl

/-- A write that leaves the core; it changes how the strand sees the held writes of its cell (log 81). -/
theorem State.asksHome_writes {w : HeldVw} (hst : s.me.staged = false)
    (h : exec (i p) s = (s.keysUsed us).vwWrite p w (g ((s.keysUsed us).vwReq p va cell op))) :
    s.asksHome i p (Core.advance { s.me with seqno := s.me.seqno + 1, sbuf := s.me.sbuf.map (SendEntry.after w) } p) va cell op g := by
  have hw : (s.keysUsed us).vwWrite p w (g ((s.keysUsed us).vwReq p va cell op)) =
      (((s.keysUsed us).setMe { s.me with seqno := s.me.seqno + 1, sbuf := s.me.sbuf.map (SendEntry.after w) }).enqueue s.cur
        (g ((s.keysUsed us).vwReq p va cell op))).finish p := by
    simp only [State.vwWrite, State.keysUsed_me, hst, Bool.false_eq_true, if_false]
    rfl
  obtain ⟨t, ht, hcore, hmem, hbmem, -, hflight⟩ := State.finish_next (((s.keysUsed us).setMe
    { s.me with seqno := s.me.seqno + 1, sbuf := s.me.sbuf.map (SendEntry.after w) }).enqueue s.cur (g ((s.keysUsed us).vwReq p va cell op))) p
  rw [State.me_enqueue, State.me_setMe] at hcore
  exact ⟨t, _, h.trans (hw.trans ht), hcore, hmem, hbmem, hflight, rfl⟩

/-- A write of a handler in staged mode is held (R82). -/
theorem State.vwWrite_held {w : HeldVw} {j : Instr} (hst : s.me.staged = true) (h : exec (i p) s = (s.keysUsed us).vwWrite p w j) :
    ∃ t, exec (i p) s = .next t ∧ t.mem = s.mem ∧ t.core s.cur = Core.advance { s.me with sbuf := s.me.sbuf ++ [.vw w] } p := by
  have hw : (s.keysUsed us).vwWrite p w j = ((s.keysUsed us).setMe { s.me with sbuf := s.me.sbuf ++ [.vw w] }).finish p := by
    simp only [State.vwWrite, State.keysUsed_me, hst, if_true]
  obtain ⟨t, ht, hcore, hmem, -⟩ := State.finish_next ((s.keysUsed us).setMe { s.me with sbuf := s.me.sbuf ++ [.vw w] }) p
  rw [State.me_setMe] at hcore
  exact ⟨t, h.trans (hw.trans ht), hmem, hcore⟩

end

/-! ### What a write that leaves does to the held ones (log 81) -/

theorem SendEntry.after_store (w : HeldVw) {n : Nat} (h : w.version = some n) : SendEntry.after w = fun e => match e with
    | .vw x => if x.cell = w.cell then .vw { x with past := true } else .vw x
    | x => x := by
  funext e
  cases e with
  | vw x => by_cases hx : x.cell = w.cell <;> simp [SendEntry.after, heldAfter, h, hx]
  | _ => rfl

theorem SendEntry.after_inc (w : HeldVw) (h : w.version = none) : SendEntry.after w = fun e => match e with
    | .vw x => if x.cell = w.cell ∧ x.version ≠ none then .vw { x with more := (x.more.1 + w.value, x.more.2 + 1) } else .vw x
    | x => x := by
  funext e
  cases e with
  | vw x =>
    by_cases hx : x.cell = w.cell
    · cases hv : x.version <;> simp [SendEntry.after, heldAfter, h, hx, hv]
    · simp [SendEntry.after, heldAfter, hx]
  | _ => rfl

/-! ### The send buffer (R119) -/

theorem Core.fullBuffer_none {k : Core} (h : k.staged = false ∨ k.sbuf.length < 32) : k.fullBuffer = none := by
  refine if_neg fun hfull => ?_
  obtain ⟨hst, hlen⟩ := Bool.and_eq_true_iff.1 hfull
  rcases h with h | h
  · rw [h] at hst; cases hst
  · have := beq_iff_eq.1 hlen; omega

theorem Core.fullBuffer_some {k : Core} (hst : k.staged = true) (h : k.sbuf.length = 32) : k.fullBuffer = some (0x1b, 0) := by
  simp [Core.fullBuffer, hst, h, Cause.sndfull]

/-! ### PARK (R126, R269) -/

section
variable {s : State} {p : Pfx} {d a : Fin 16} {cell : Nat} {r r' : Record}

theorem exec_vwpk : exec (.vwpk p d a) s = s.vwIssue p (s.me.getG a) .read (fun _ => none) (fun cell t =>
    t.vwWait p (.vwHomePeek (t.vwReq p (s.me.getG a) cell (.peek d)))) := rfl

theorem exec_vwrst : exec (.vwrst p a) s = s.vwIssue p (s.me.getG a) .write
    (fun cell => if (heldVws cell s.me.sbuf).isEmpty then none else some (Cause.vwmisuse, s.me.getG a))
    (fun cell t => t.vwWait p (.vwHomeReset (t.vwReq p (s.me.getG a) cell .reset))) := rfl

/-- PARK without a plan of Iris that runs is checked, and waits as the end of a handler does. -/
theorem exec_park (hbal : s.me.bal = none) : exec (.park p d a) s =
    s.vwIssue p (s.me.getG d) .read (fun _ => (s.me.endTrap false).map (fun c => (c, 0))) (fun cell t =>
      if t.endWaits t.cur then t.waitCycle
      else if !s.me.engineRoom 0 then t.waitFor .room
      else t.withHeldKeys p (fun u => u.vwWait p (.vwHomePark (u.vwReq p (s.me.getG d) cell
        (.park (bitsOf (s.me.getG a) 31 0) (setOrig s.me.carried s.me.lnum)))))) := by
  show execPark p d a s = _
  unfold execPark
  simp only [hbal, Option.isSome_none, Bool.false_eq_true, if_false]

theorem exec_park_balances (hbal : s.me.bal ≠ none) : exec (.park p d a) s = .next (s.setMe (s.me.tick 1)) :=
  if_pos (Option.isSome_iff_ne_none.2 hbal)

/-- A handler that may end, on a core that holds nothing. -/
theorem Core.mayEnd.endTrap {k : Core} (h : k.mayEnd) : k.endTrap false = none := by
  obtain ⟨hsrc, hdq, hbq, -⟩ := h
  simp [Core.endTrap, hdq, hbq, hsrc]

theorem Core.mayEnd.engineRoom {k : Core} (h : k.mayEnd) : k.engineRoom 0 = true := by
  obtain ⟨-, -, -, hs, -, heng⟩ := h
  simpa [Core.engineRoom, hs, sbufMessages] using heng

theorem Core.mayEnd.endWaits {c : Nat} (h : (s.core c).mayEnd) : s.endWaits c = false := by
  obtain ⟨-, -, -, hs, hbal, -⟩ := h
  simp [State.endWaits, State.heldBehindAccess, State.heldBlocked, hs, hbal]

/-- PARK of a handler that may end asks the home. -/
theorem State.park_asks (h : s.cellReady (s.me.getG d) .read cell) (hm : s.me.mayEnd) :
    s.asksHome (.park · d a) p (s.me.asking p) (s.me.getG d) cell
      (.park (bitsOf (s.me.getG a) 31 0) (setOrig s.me.carried s.me.lnum)) .vwHomePark := by
  obtain ⟨-, -, -, hs, hbal, -⟩ := id hm
  obtain ⟨us, hus⟩ := State.vwIssue_ready (exec_park (p := p) (a := a) hbal) h (by rw [hm.endTrap]; rfl)
  refine State.asksHome_waits (us := us) (hus.trans ?_)
  have hwaits : (s.keysUsed us).endWaits (s.keysUsed us).cur = false := Core.mayEnd.endWaits (c := s.cur) hm
  have huids : (s.keysUsed us).heldUids (s.keysUsed us).cur = [] := State.heldUids_empty (c := s.cur) hs
  simp only [hwaits, hm.engineRoom, State.withHeldKeys, huids, Bool.not_true, Bool.false_eq_true, if_false, List.isEmpty_nil, if_true]

end

end Sys2Proof.Machine

open Sys2Proof Sys2Proof.Machine in
/-- Settles O45: each instruction passes the checks of its cell, then asks the home, or is held. -/
theorem versionedWordsIssue : Obligations.VersionedWordsIssue := by
  unfold Obligations.VersionedWordsIssue
  intro s p d a b cell r r' hr horig
  obtain rfl : r' = setOrig s.me.carried s.me.lnum := by rw [horig.eq, hr.eq]
  refine ⟨fun h => ⟨fun hn => ?load, ?peek⟩, fun h => ⟨fun hst => ⟨?store, ?inc⟩, fun hst hroom => ⟨?storeHeld, ?incHeld⟩, fun hnone => ?reset⟩,
    fun h hn => ?loadRefused, fun h => ⟨fun hst hfull => ⟨?storeFull, ?incFull⟩, fun hheld => ?resetRefused⟩,
    fun h => ⟨fun hbal hsrc => ?parkTask, fun hbal hsrc hq => ?parkResid⟩, exec_park_balances, State.park_asks,
    fun h => ⟨exec_vwld.trans (State.vwIssue_check h), exec_vwpk.trans (State.vwIssue_check h)⟩⟩
  case load =>
    obtain ⟨us, hus⟩ := State.vwIssue_ready (exec_vwld (p := p)) h (if_neg (Nat.not_le.2 hn))
    exact State.asksHome_waits hus
  case peek =>
    obtain ⟨us, hus⟩ := State.vwIssue_ready (exec_vwpk (p := p)) h rfl
    exact State.asksHome_waits hus
  case store =>
    obtain ⟨us, hus⟩ := State.vwIssue_ready (exec_vwst (p := p)) h (Core.fullBuffer_none (.inl hst))
    have hask := State.asksHome_writes (i := (.vwst · d a b)) hst hus
    rwa [SendEntry.after_store _ rfl] at hask
  case inc =>
    obtain ⟨us, hus⟩ := State.vwIssue_ready (exec_vwinc (p := p)) h (Core.fullBuffer_none (.inl hst))
    have hask := State.asksHome_writes (i := (.vwinc · d a)) hst hus
    rwa [SendEntry.after_inc _ rfl] at hask
  case storeHeld =>
    obtain ⟨us, hus⟩ := State.vwIssue_ready (exec_vwst (p := p)) h (Core.fullBuffer_none (.inr hroom))
    exact State.vwWrite_held (i := (.vwst · d a b)) hst hus
  case incHeld =>
    obtain ⟨us, hus⟩ := State.vwIssue_ready (exec_vwinc (p := p)) h (Core.fullBuffer_none (.inr hroom))
    exact State.vwWrite_held (i := (.vwinc · d a)) hst hus
  case reset =>
    obtain ⟨us, hus⟩ := State.vwIssue_ready (exec_vwrst (p := p)) h (if_pos (List.isEmpty_iff.2 hnone))
    exact State.asksHome_waits hus
  case loadRefused => exact exec_vwld.trans (State.vwIssue_refused h (if_pos hn))
  case storeFull => exact exec_vwst.trans (State.vwIssue_refused h (Core.fullBuffer_some hst hfull))
  case incFull => exact exec_vwinc.trans (State.vwIssue_refused h (Core.fullBuffer_some hst hfull))
  case resetRefused => exact exec_vwrst.trans (State.vwIssue_refused h (if_neg (by rwa [List.isEmpty_iff])))
  case parkTask =>
    have htrap : s.me.endTrap false = some 0x1f := by simp [Core.endTrap, hsrc, Cause.taskend]
    exact (exec_park hbal).trans (State.vwIssue_refused h (by rw [htrap]; rfl))
  case parkResid =>
    have htrap : s.me.endTrap false = some 0x0f := by
      rcases hq with hq | hq <;> simp [Core.endTrap, hsrc, hq, Cause.qresid]
    exact (exec_park hbal).trans (State.vwIssue_refused h (by rw [htrap]; rfl))
end

section
/-! PROOF. O27 fails: a core that has failed runs no handler, though it keeps the number of the one that it ran. -/

namespace Sys2Proof.Machine

/-- A device whose core 0 runs handler 1, with byte 0 of memory 1. -/
def loadingState : State :=
  { State.reset with
    cores := [(0, { Core.reset with run := .running, h := { Handler.none with hid := 1 } })]
    mem := [(0, 1)] }

/-- The device after a fatal error of the core (R309). -/
def failedState : State := loadingState.fatalCore 0

/-- The load of byte 0 to g0 that handler 1 had issued. -/
def failedLoad : Access :=
  { core := 0, hid := 1, seqno := 0, part := 0, va := 0, keys := [0], uid := 0, order := .none, scope := .dflt
    kind := .load (.reg 0) 1 false [] [], served := none, stalled := false }

/-- The value comes back to no handler. -/
theorem failedLoad_lost : exec (.accessPerformed failedLoad) failedState = .next failedState := rfl

/-- A core that takes the byte holds 1 in g0. -/
theorem failedLoad_value : ((failedState.core 0).setG 0 (loadedValue ([0].map (memRead failedState.mem)) false)).getG 0 = 1 := by
  decide +kernel

theorem failedState_g0 : (failedState.core 0).getG 0 = 0 := by decide +kernel

end Sys2Proof.Machine

open Sys2Proof Sys2Proof.Machine in
/-- Refutes O27: a load that is performed after its core has failed leaves the register as it is, where the statement has it
written for the handler whose number the core still shows. -/
theorem not_accessesPerformed : ¬ Obligations.AccessesPerformed := by
  unfold Obligations.AccessesPerformed
  intro ⟨_, _, _, h⟩
  obtain ⟨hload, -⟩ := h failedLoad failedState rfl (by decide +kernel)
  obtain ⟨hruns, -⟩ := hload 0 1 false rfl rfl rfl (.inl rfl)
  have hwritten := failedLoad_lost.symm.trans (hruns (by decide) rfl)
  have hg0 := congrArg (fun t : State => (t.core 0).getG 0) (Host.Outcome.next.inj hwritten)
  rw [show failedLoad.core = 0 from rfl] at hg0
  simp only [State.core_setCore, failedState_g0] at hg0
  exact absurd (hg0.trans failedLoad_value) (by decide)
end

section
/-! PROOF. The end of a copy: its write pointer and its completion cell (R223, R232, R283, R286). -/

namespace Sys2Proof.Machine

/-! ### The keys that an agent uses (R290) -/

theorem State.useKey_eq (s : State) (u : Nat) : ∃ keys life, s.useKey u = { s with keys := keys, zen := { s.zen with life := life } } :=
  State.useEach_eq s [u]

/-- Using a key changes no translation. -/
theorem State.useKey_alike (s : State) (u : Nat) : (s.useKey u).Alike s := by
  have hkeys := s.useKey_bareKeys u
  obtain ⟨keys, life, h⟩ := s.useKey_eq u
  rw [h] at hkeys ⊢
  exact ⟨rfl, rfl, hkeys, fun _ => rfl, fun _ => rfl⟩

theorem State.Alike.trans {s t u : State} (h : u.Alike t) (h' : t.Alike s) : u.Alike s :=
  ⟨h.mem.trans h'.mem, h.seals.trans h'.seals, h.keys.trans h'.keys, fun q => (h.tbl q).trans (h'.tbl q), fun q => (h.key q).trans (h'.key q)⟩

/-! ### Page checks (R282, R283) -/

/-- A key that serves a store serves a load, under the same generation. -/
theorem State.keyCheck_read {s : State} {p uid : Nat} {l : Leaf} {want : Want} (h : s.keyCheck p l want = .ok uid) :
    s.keyCheck p l .read = .ok uid := by
  unfold State.keyCheck at h ⊢
  split at h
  · cases h
  · next u k hk => grind [Want.stores]

/-- The generation that a leaf's check gives is the one its page is sealed under. -/
theorem State.keyCheck_uid {s : State} {p uid : Nat} {l : Leaf} {want : Want} (h : s.keyCheck p l want = .ok uid) :
    ∃ k, s.keyOf p l.kid = some (uid, k) := by
  unfold State.keyCheck at h
  split at h
  · cases h
  · next u k hk =>
    refine ⟨k, hk.trans ?_⟩
    grind

theorem State.leaf_of_walkAt {s : State} {p va : Nat} {l : Leaf} (h : s.walkAt p va = .ok l) : s.leaf p va = some l := by
  simp only [State.leaf, h]

theorem State.uidAt_of_keyCheck {s : State} {p va uid : Nat} {l : Leaf} {want : Want} (hl : s.walkAt p va = .ok l)
    (hk : s.keyCheck p l want = .ok uid) : s.uidAt p va = uid := by
  obtain ⟨k, hk⟩ := State.keyCheck_uid hk
  simp only [State.uidAt, State.leaf_of_walkAt hl, hk]

/-- What an address that Nimbus can reach translates to. -/
theorem State.physFor_some {s : State} {p va cell : Nat} {want : Want} (h : s.physFor p va want = some cell) : ∃ l uid,
    s.walkAt p va = .ok l ∧ s.keyCheck p l want = .ok uid ∧ keyExists l.key = true ∧ l.key = cell ∧ s.uidAt p va = uid := by
  unfold State.physFor State.leaf at h
  split at h
  · next l hleaf =>
    split at hleaf
    · next l' hw =>
      obtain rfl : l' = l := Option.some.inj hleaf
      split at h
      · next uid hk =>
        split at h
        · next he => exact ⟨_, _, hw, hk, he, Option.some.inj h, State.uidAt_of_keyCheck hw hk⟩
        · cases h
      · cases h
    · cases hleaf
  · cases h

/-- A translation that succeeds has a leaf and a key. -/
theorem State.translate_ok {s : State} {p va uid : Nat} {l : Leaf} {want : Want} (h : s.translate p va want = .ok (l, uid)) :
    s.walkAt p va = .ok l ∧ s.keyCheck p l want = .ok uid := by
  unfold State.translate at h
  split at h
  · cases h
  · next l' hw =>
    split at h
    · cases h
    · split at h
      · cases h
      · next uid' hk => cases h; exact ⟨hw, hk⟩

/-- An address that translates is one that Nimbus can reach, in the key of its translation. -/
theorem State.physOf_of_translate {s : State} {p va uid : Nat} {l : Leaf} {want : Want} (h : s.translate p va want = .ok (l, uid))
    (he : keyExists l.key = true) : s.physOf p va = some l.key ∧ s.uidAt p va = uid := by
  obtain ⟨hw, hk⟩ := State.translate_ok h
  refine ⟨?_, State.uidAt_of_keyCheck hw hk⟩
  simp only [State.physOf, State.physFor, State.leaf_of_walkAt hw, State.keyCheck_read hk, he, if_true]

/-- Reading a cell that Nimbus may write meets a failed line exactly when the cell's own line fails. -/
theorem State.lineFails_of_physFor {s : State} {p va cell : Nat} {want : Want} (h : s.physFor p va want = some cell) :
    s.lineFails p va = !s.macOk cell (s.uidAt p va) := by
  obtain ⟨l, uid, hw, hk, he, rfl, huid⟩ := State.physFor_some h
  simp only [State.lineFails, State.failedLine, hw, State.keyCheck_read hk, he, huid, Bool.true_and]
  cases s.macOk l.key uid <;> rfl

/-! ### The completion cell (R232) -/

/-- A copy's completion cell written where nothing is parked or kept: memory changes at the cell alone, if at all. -/
theorem State.homeWrite_nimbus {s : State} {p cell : Nat} {va v : Word} {n : Nat} (hk : (s.part p).kept = [])
    (hc : (s.part p).conts = []) : (s.homeWrite p cell va v n).nimbus = s.nimbus := by
  unfold State.homeWrite
  rw [State.cellWrite_written hc, State.flushKept_nil (by rw [State.written_part, hk])]
  simp only [State.written, State.setCell, State.setPart_nimbus, State.storeCells_nimbus]
  rfl

@[simp] theorem State.badLine_nimbus (s : State) (cl : Nat) (bad : Bool) : (s.badLine cl bad).nimbus = s.nimbus := by
  cases bad <;> rfl

/-- The completion word of a copy whose partition has nothing parked and nothing kept. -/
theorem State.completionWrite_spec {s : State} {cl p : Nat} {va v : Word} (hk : (s.part p).kept = []) (hc : (s.part p).conts = [])
    (hw : s.memWf) :
    (s.completionWrite cl p va v).cores = s.cores ∧ (s.completionWrite cl p va v).nimbus = s.nimbus ∧
    (s.completionWrite cl p va v).bmem = s.bmem ∧
    (s.physFor p va.toNat .write = none → (s.completionWrite cl p va v).mem = s.mem) ∧
    ∀ cell, s.physFor p va.toNat .write = some cell →
      (s.macOk cell (s.uidAt p va.toNat) = false → (s.completionWrite cl p va v).mem = s.mem) ∧
      (s.macOk cell (s.uidAt p va.toNat) = true →
        (s.completionWrite cl p va v).cellIs s cell v (memNat s.mem (cell + 8) 4 + 1) 0) := by
  unfold State.completionWrite
  split
  · next hfails =>
    refine ⟨rfl, rfl, rfl, fun _ => rfl, fun cell hcell => ⟨fun _ => rfl, fun hmac => ?_⟩⟩
    rw [State.lineFails_of_physFor hcell, hmac] at hfails
    cases hfails
  · next hok =>
    split
    · next cell hcell =>
      obtain ⟨keys, life, hu⟩ := s.useKey_eq (s.uidAt p va.toNat)
      have hpart : (s.useKey (s.uidAt p va.toNat)).part p = s.part p := by rw [hu]; rfl
      have hwf : (s.useKey (s.uidAt p va.toNat)).memWf := by rw [hu]; exact hw
      obtain ⟨hcores, hbmem, -, hcellIs, -⟩ := State.homeWrite_written (s := s.useKey (s.uidAt p va.toNat)) (p := p) (cell := cell) (va := va)
        (v := v) (n := (s.cellVersion cell + 1) % 2 ^ 32) (by rw [hpart, hk]) (by rw [hpart, hc]) hwf
      have hnim := State.homeWrite_nimbus (s := s.useKey (s.uidAt p va.toNat)) (p := p) (cell := cell) (va := va)
        (v := v) (n := (s.cellVersion cell + 1) % 2 ^ 32) (by rw [hpart, hk]) (by rw [hpart, hc])
      refine ⟨hcores.trans (by rw [hu]), hnim.trans (by rw [hu]), hbmem.trans (by rw [hu]), (fun hnone => nomatch hcell.symm.trans hnone),
        fun cell' hcell' => ?_⟩
      obtain rfl : cell = cell' := Option.some.inj (hcell.symm.trans hcell')
      refine ⟨fun hmac => ?_, fun _ => ?_⟩
      · rw [State.lineFails_of_physFor hcell, hmac] at hok
        exact absurd rfl hok
      · obtain ⟨hval, hver, hhead, hframe⟩ := hcellIs
        refine ⟨hval, hver.trans (Nat.mod_mod _ _), hhead, fun a ha => (hframe a ha).trans ?_⟩
        rw [hu]
    · next hnone =>
      exact ⟨rfl, rfl, rfl, fun _ => rfl, (fun cell hcell => nomatch hnone.symm.trans hcell)⟩

/-! ### The write pointer (R223) -/

theorem State.setCwp_eq {s : State} {c : Copy} (hst : c.staging = none) (hp : (s.core c.cmd.core).part = c.cmd.part) (st off : Nat) :
    s.setCwp c st off = s.setCore c.cmd.core ((s.core c.cmd.core).setCxOf c.cmd.enc { (s.core c.cmd.core).cxOf c.cmd.enc with
      cwp := ((s.core c.cmd.core).cxOf c.cmd.enc).cwp.set (Fin.ofNat 4 c.cmd.ch) (mkCwp c.cmd.gen st off) }) := by
  simp only [State.setCwp, hst, hp, Option.isSome_none, Bool.false_or, ne_eq, not_true_eq_false, decide_false, Bool.false_eq_true, if_false]

/-- Setting a write pointer changes one core. -/
theorem State.setCwp_frame (s : State) (c : Copy) (st off : Nat) : s.setCwp c st off = { s with cores := (s.setCwp c st off).cores } := by
  unfold State.setCwp
  dsimp only
  split <;> rfl

theorem State.setCwp_pointerIs {s : State} {c : Copy} (hst : c.staging = none) (hp : (s.core c.cmd.core).part = c.cmd.part) (st off : Nat) :
    (s.setCwp c st off).pointerIs c st off := by
  rw [State.setCwp_eq hst hp]
  simp [State.pointerIs, mkCwp]

/-- Write pointers move no core to another partition. -/
theorem State.setCwp_part (s : State) (c : Copy) (st off d : Nat) : ((s.setCwp c st off).core d).part = (s.core d).part := by
  unfold State.setCwp
  dsimp only
  split
  · rfl
  · by_cases hd : d = c.cmd.core
    · subst hd; rw [State.core_setCore]; rfl
    · rw [State.core_setCore_other _ _ _ _ hd]

theorem State.pointerIs_of_cores {t u : State} {c : Copy} {st off : Nat} (h : u.pointerIs c st off) (hc : t.cores = u.cores) :
    t.pointerIs c st off := by
  unfold State.pointerIs at h ⊢
  rw [State.core_of_cores hc]
  exact h

/-! ### Copies of a quiet partition -/

/-- What a copy's surroundings need stays true while memory keeps its form and no core or partition changes. -/
theorem State.copyQuiet.of_same {s t : State} {c : Copy} (h : s.copyQuiet c)
    (hcore : (t.core c.cmd.core).part = (s.core c.cmd.core).part) (hpart : t.part c.cmd.part = s.part c.cmd.part) (hw : t.memWf) :
    t.copyQuiet c := by
  obtain ⟨hp, hc, hk, -, hsrc, hdst⟩ := h
  unfold State.copyQuiet
  rw [hcore, hpart]
  exact ⟨hp, hc, hk, hw, hsrc, hdst⟩

/-- The same end, seen from a state that translates alike. -/
theorem State.copyEnded.congr {t t' u u' : State} {c : Copy} {st cause off : Nat} (h : t.copyEnded u c st cause off)
    (hcores : t'.cores = t.cores) (hmem : t'.mem = t.mem) (hbmem : t'.bmem = t.bmem) (hu : u.Alike u')
    (hub : u.bmem = u'.bmem) : t'.copyEnded u' c st cause off := by
  obtain ⟨hptr, hb, hnone, hcell⟩ := h
  unfold State.copyEnded State.pointerIs State.cellIs at *
  rw [State.core_of_cores hcores, hmem, hbmem]
  simp only [hu.mem, hub, hu.physFor, hu.macOk, hu.uidAt] at hptr hb hnone hcell ⊢
  exact ⟨hptr, hb, hnone, hcell⟩

/-- A copy that ends leaves its engine, its write pointer set and its completion cell written (R229, R232). -/
theorem State.endCopy_spec {s : State} {c : Copy} (cl st cause : Nat) (hst : c.staging = none) (hq : s.copyQuiet c) :
    (s.endCopy cl c st cause).copyEnded s c st (copyCause cause) (c.next * 64) ∧
    (s.endCopy cl c st cause).nim cl = { s.nim cl with copies := (s.nim cl).copies.filter (fun x => x.arrival != c.arrival) } := by
  obtain ⟨hp, hc, hk, hw, -⟩ := hq
  have hptr := State.setCwp_pointerIs (s := s.setNim cl { s.nim cl with copies := (s.nim cl).copies.filter (fun x => x.arrival != c.arrival) })
    hst hp st (c.next * 64)
  have hframe := State.setCwp_frame (s.setNim cl { s.nim cl with copies := (s.nim cl).copies.filter (fun x => x.arrival != c.arrival) }) c st
    (c.next * 64)
  unfold State.endCopy
  simp only [hst]
  generalize State.setCwp _ c st (c.next * 64) = u at hptr hframe ⊢
  have hnim : u.nim cl = { s.nim cl with copies := (s.nim cl).copies.filter (fun x => x.arrival != c.arrival) } := by
    rw [hframe]; exact sget_sset_same _ _ _ _
  have halike : u.Alike s := by rw [hframe]; exact ⟨rfl, rfl, rfl, fun _ => rfl, fun _ => rfl⟩
  have hbmem : u.bmem = s.bmem := by rw [hframe]; rfl
  have hpart : u.part c.cmd.part = s.part c.cmd.part := by rw [hframe]; rfl
  split
  · next hcw =>
    exact ⟨⟨hptr, hbmem, fun _ => halike.mem, fun cell hne => absurd hcw hne⟩, hnim⟩
  · obtain ⟨hcores, hnimbus, hbmem', hnone, hcell⟩ := State.completionWrite_spec (s := u) (cl := cl) (p := c.cmd.part) (va := cdCw c.cmd.desc)
      (v := completionValue (c.next * 64) (copyCause cause) st) (by rw [hpart, hk]) (by rw [hpart, hc]) (State.memWf_of_eq hw halike.mem hbmem)
    refine ⟨State.copyEnded.congr (u := u) ⟨State.pointerIs_of_cores hptr hcores, hbmem', fun h => ?_, fun cell _ => hcell cell⟩ rfl rfl rfl
      halike hbmem, ?_⟩
    · rcases h with h | h
      · exact absurd h ‹_›
      · exact hnone h
    · rw [← hnim, State.nim, hnimbus]; rfl

end Sys2Proof.Machine
end

section
/-! PROOF. The lines that Nimbus serves: where they are read from and written to, and when they are free (R78, R229 to R231, R286). -/

namespace Sys2Proof.Machine

/-! ### Nimbus's own state -/

@[simp] theorem State.nim_setNim (s : State) (cl : Nat) (n : Nimbus) : (s.setNim cl n).nim cl = n := sget_sset_same _ _ _ _

theorem sset_sget {α : Type} {d : α} {k : Nat} {m : SMap α} (h : sget d k m ≠ d) : sset k (sget d k m) m = m := by
  induction m with
  | nil => exact absurd rfl h
  | cons x m ih =>
    obtain ⟨j, y⟩ := x
    by_cases hj : j = k
    · simp [sset, sget, hj]
    · simp only [sget, if_neg hj] at h
      simp [sset, sget, hj, ih h]

/-- An engine that serves something is in the table. -/
theorem State.setNim_nim {s : State} {cl : Nat} (h : (s.nim cl).copies ≠ []) : s.setNim cl (s.nim cl) = s := by
  have hne : s.nim cl ≠ Nimbus.reset := fun he => h (by rw [he]; rfl)
  rw [State.setNim, State.nim, sset_sget hne]

/-- Nimbus looks for a line: a step comes under way, unless it is. -/
theorem State.kickNimbus_frame (s : State) (cl : Nat) : s.kickNimbus cl = { s with flight := (s.kickNimbus cl).flight } := by
  unfold State.kickNimbus
  dsimp only
  split <;> rfl

theorem State.mem_kickNimbus (s : State) (cl : Nat) : (clusterSite cl, Instr.copyLine) ∈ (s.kickNimbus cl).flight := by
  unfold State.kickNimbus
  dsimp only
  split
  · next h =>
    obtain ⟨e, he, heq⟩ := List.any_eq_true.1 h
    exact beq_iff_eq.1 heq ▸ he
  · exact List.mem_append_right _ (List.mem_singleton_self _)

/-- Nimbus goes on while it serves a copy. -/
def State.kickedOn (s : State) (cl : Nat) : State := if (s.nim cl).copies.isEmpty then s else s.kickNimbus cl

theorem State.kickedOn_frame (s : State) (cl : Nat) : s.kickedOn cl = { s with flight := (s.kickedOn cl).flight } := by
  unfold State.kickedOn
  split
  · rfl
  · exact s.kickNimbus_frame cl

/-! ### A state in which Nimbus serves -/

/-- t is s but for the engines, the keys' use and the lifetime records. -/
structure State.Serving (t s : State) : Prop where
  alike : t.Alike s
  cores : t.cores = s.cores
  parts : t.parts = s.parts
  bmem : t.bmem = s.bmem
  bpoison : t.bpoison = s.bpoison

theorem State.Serving.trans {s t u : State} (h : u.Serving t) (h' : t.Serving s) : u.Serving s :=
  ⟨h.alike.trans h'.alike, h.cores.trans h'.cores, h.parts.trans h'.parts, h.bmem.trans h'.bmem, h.bpoison.trans h'.bpoison⟩

theorem State.setNim_serving (s : State) (cl : Nat) (n : Nimbus) : (s.setNim cl n).Serving s :=
  ⟨⟨rfl, rfl, rfl, fun _ => rfl, fun _ => rfl⟩, rfl, rfl, rfl, rfl⟩

theorem State.useKey_serving (s : State) (u : Nat) : (s.useKey u).Serving s := by
  have halike := s.useKey_alike u
  obtain ⟨keys, life, h⟩ := s.useKey_eq u
  rw [h] at halike ⊢
  exact ⟨halike, rfl, rfl, rfl, rfl⟩

theorem State.lifeAdd_serving (s : State) (r j n : Nat) : (s.lifeAdd r j n).Serving s :=
  ⟨⟨rfl, rfl, rfl, fun _ => rfl, fun _ => rfl⟩, rfl, rfl, rfl, rfl⟩

theorem State.Serving.refl (s : State) : s.Serving s := ⟨⟨rfl, rfl, rfl, fun _ => rfl, fun _ => rfl⟩, rfl, rfl, rfl, rfl⟩

theorem State.badLine_serving (s : State) (cl : Nat) (bad : Bool) : (s.badLine cl bad).Serving s := by
  cases bad
  · exact .refl s
  · exact s.lifeAdd_serving _ _ _

theorem State.badDrain_serving (s : State) (cl x : Nat) : (s.badDrain cl x).Serving s := by
  unfold State.badDrain
  split
  · exact s.lifeAdd_serving _ _ _
  · split
    · exact s.lifeAdd_serving _ _ _
    · exact .refl s

theorem State.badDrain_nimbus (s : State) (cl x : Nat) : (s.badDrain cl x).nimbus = s.nimbus := by
  unfold State.badDrain
  split
  · rfl
  · split <;> rfl

theorem State.Serving.core {s t : State} (h : t.Serving s) (c : Nat) : t.core c = s.core c := State.core_of_cores h.cores c

theorem State.Serving.part {s t : State} (h : t.Serving s) (p : Nat) : t.part p = s.part p := by
  unfold State.part; rw [h.parts]

theorem State.Serving.wf {s t : State} (h : t.Serving s) (hw : s.memWf) : t.memWf := State.memWf_of_eq hw h.alike.mem h.bmem

theorem State.Serving.quiet {s t : State} {c : Copy} (h : t.Serving s) (hq : s.copyQuiet c) : t.copyQuiet c :=
  hq.of_same (by rw [h.core]) (h.part _) (h.wf hq.2.2.2.1)

/-- A line's source depends on memory, banks and translation alone. -/
theorem State.Serving.sourceLine {s t : State} (h : t.Serving s) (r : CopyCmd) (k : Nat) : t.sourceLine r k = s.sourceLine r k := by
  simp only [State.sourceLine, h.bpoison, h.bmem, h.alike.translate, h.alike.mem, h.alike.macOk]

/-! ### Reading a line (R229, R231, R286) -/

theorem copyByte_eq (va : Word) (banks : List Nat) (k : Nat) :
    bankKey (bankLine va banks k).1 (bankLine va banks k).2 = copyByte va banks k := rfl

/-- The doublewords of a bank line. -/
theorem copyByte_doubleword (va : Word) (banks : List Nat) (k j : Nat) :
    (bankLine va banks k).1 * 512 + (bankLine va banks k).2 / 8 + j = copyByte va banks k / 8 + j := by
  rw [← copyByte_eq, bankKey]
  omega

theorem memBytes_line {m : List Host.Cell} {a : Nat} {bs : Nat → Byte} (h : ∀ j, j < 64 → bs j = memRead m (a + j)) :
    memBytes m a 64 = (List.range 64).map bs := by
  rw [memBytes_eq]
  exact List.map_congr_left fun j hj => (h j (List.mem_range.1 hj)).symm

/-- The bytes of a line that can be read. -/
theorem State.readsLine.source {s : State} {cl : Nat} {c : Copy} {bs : Nat → Byte} {bad : Bool} (h : s.readsLine cl c bs bad) :
    ∃ uid, s.sourceLine c.cmd c.next = .bytes ((List.range 64).map bs) bad uid := by
  rcases h with ⟨hl, rfl, hpoison, hbs⟩ | ⟨hl, l, uid, ht, hk, -, hbad, hbs⟩
  · refine ⟨none, ?_⟩
    have hclean : (List.range 8).any (fun j => s.bpoison.contains ((bankLine (cdSrc c.cmd.desc) c.cmd.sbanks c.next).1 * 512
        + (bankLine (cdSrc c.cmd.desc) c.cmd.sbanks c.next).2 / 8 + j)) = false := by
      refine List.any_eq_false.2 fun j hj => ?_
      rw [copyByte_doubleword, Bool.not_eq_true, List.contains_eq_mem, decide_eq_false_iff_not]
      exact hpoison j (List.mem_range.1 hj)
    simp only [State.sourceLine, hl, if_true, hclean, Bool.false_eq_true, if_false, copyByte_eq, memBytes_line hbs]
  · refine ⟨some uid, ?_⟩
    simp only [State.sourceLine, hl, ht, hk, Bool.not_true, Bool.false_eq_true, if_false, memBytes_line hbs, ← hbad]

/-- A source that cannot be read gives its cause (R229, R231). -/
theorem State.sourceLine_fault {s : State} {c : Copy} {x : Nat}
    (h : (cdSl c.cmd.desc = true ∧ x = 0x47 ∧ ∃ j, j < 8 ∧ copyByte (cdSrc c.cmd.desc) c.cmd.sbanks c.next / 8 + j ∈ s.bpoison) ∨
      (cdSl c.cmd.desc = false ∧ s.translate c.cmd.part ((cdSrc c.cmd.desc).toNat + 64 * c.next) .read = .error x)) :
    s.sourceLine c.cmd c.next = .fault x := by
  rcases h with ⟨hl, rfl, j, hj, hpoison⟩ | ⟨hl, ht⟩
  · have hbad : (List.range 8).any (fun j => s.bpoison.contains ((bankLine (cdSrc c.cmd.desc) c.cmd.sbanks c.next).1 * 512
        + (bankLine (cdSrc c.cmd.desc) c.cmd.sbanks c.next).2 / 8 + j)) = true := by
      refine List.any_eq_true.2 ⟨j, List.mem_range.2 hj, ?_⟩
      rw [copyByte_doubleword, List.contains_eq_mem, decide_eq_true_eq]
      exact hpoison
    simp only [State.sourceLine, hl, if_true, hbad, Cause.bankecc]
  · simp only [State.sourceLine, hl, ht, Bool.false_eq_true, if_false]

/-! ### Writing a line (R229, R286, R309) -/

theorem mem_addPoison (ps ds : List Nat) (d : Nat) : d ∈ addPoison ps ds ↔ d ∈ ps ∨ d ∈ ds := by
  induction ds generalizing ps with
  | nil => simp [addPoison]
  | cons x xs ih =>
    rw [addPoison, ih]
    by_cases hx : x ∈ ps
    · simp only [List.contains_eq_mem, hx, decide_true, if_true, List.mem_cons]
      constructor
      · rintro (h | h)
        · exact .inl h
        · exact .inr (.inr h)
      · rintro (h | rfl | h)
        · exact .inl h
        · exact .inl hx
        · exact .inr h
    · simp [List.contains_eq_mem, hx, or_assoc]

/-- Writing an aligned line clears the poison of its doublewords and of no other (R156). -/
theorem mem_clearPoison_line {ps : List Nat} {b : Nat} {bs : List Byte} (hb : b % 8 = 0) (hlen : bs.length = 64) (d : Nat) :
    d ∈ clearPoison ps (cellsAt b bs) ↔ d ∈ ps ∧ ¬ (b / 8 ≤ d ∧ d < b / 8 + 8) := by
  have hcover : (List.range 8).all (fun i => (cellsAt b bs).any (fun c => c.1 == d * 8 + i)) = true ↔ b / 8 ≤ d ∧ d < b / 8 + 8 := by
    constructor
    · intro h
      obtain ⟨c, hc, he⟩ := List.any_eq_true.1 (List.all_eq_true.1 h 0 (by simp))
      have := mem_cellsAt hc
      have := beq_iff_eq.1 he
      omega
    · intro h
      refine List.all_eq_true.2 fun i hi => List.any_eq_true.2 ?_
      have := List.mem_range.1 hi
      obtain ⟨x, hx⟩ := cellsAt_mem b bs (j := d * 8 + i - b) (by omega)
      exact ⟨_, hx, beq_iff_eq.2 (by dsimp only; omega)⟩
  rw [clearPoison, List.mem_filter, Bool.not_eq_true', ← Bool.not_eq_true, hcover]

/-- A line of a local side starts at a line of its bank. -/
theorem copyByte_aligned {va : Word} (h : va.toNat % 64 = 0) (banks : List Nat) (k : Nat) : copyByte va banks k % 64 = 0 := by
  unfold copyByte
  omega

theorem getD_line (bs : Nat → Byte) {j : Nat} (hj : j < 64) : ((List.range 64).map bs).getD j 0 = bs j := by
  simp [List.getD_eq_getElem?_getD, hj]

section
variable {s u : State} {c : Copy} {bs : Nat → Byte} {bad : Bool}

theorem State.lineWritten_bank (hmem : u.mem = s.mem) (hseals : u.seals = s.seals)
    (hread : ∀ x, memRead u.bmem x = if copyByte (cdDst c.cmd.desc) c.cmd.dbanks c.next ≤ x ∧
      x < copyByte (cdDst c.cmd.desc) c.cmd.dbanks c.next + 64 then bs (x - copyByte (cdDst c.cmd.desc) c.cmd.dbanks c.next)
      else memRead s.bmem x)
    (hpoison : ∀ d, d ∈ u.bpoison ↔ if copyByte (cdDst c.cmd.desc) c.cmd.dbanks c.next / 8 ≤ d ∧
      d < copyByte (cdDst c.cmd.desc) c.cmd.dbanks c.next / 8 + 8 then bad = true else d ∈ s.bpoison) :
    u.lineWritten s c none bs bad := ⟨hmem, hseals, _, rfl, hread, hpoison⟩

theorem State.lineWritten_memory {key uid : Nat} (hbmem : u.bmem = s.bmem) (hpoison : u.bpoison = s.bpoison)
    (hread : ∀ x, memRead u.mem x = if key ≤ x ∧ x < key + 64 then bs (x - key) else memRead s.mem x)
    (hseal : ∀ x, u.sealOf x = if x / 64 = key / 64 then (if bad then .never else .key uid) else s.sealOf x) :
    u.lineWritten s c (some (key, uid)) bs bad := ⟨hbmem, hpoison, hread, hseal⟩

/-- Consecutive bytes of a line that was written. -/
theorem memRead_line {m : List Host.Cell} (hm : Memory.wf m = true) (a x : Nat) :
    memRead (memCells (cellsAt a ((List.range 64).map bs)) m) x = if a ≤ x ∧ x < a + 64 then bs (x - a) else memRead m x := by
  rw [memRead_cellsAt _ _ hm, List.length_map, List.length_range]
  split
  · exact getD_line bs (by omega)
  · rfl

/-- The poison of a bank after the line at b is written (R156, R286). -/
def linePoison (ps : List Nat) (b : Nat) (cells : List (Nat × Byte)) (bad : Bool) : List Nat :=
  if bad then addPoison (clearPoison ps cells) ((List.range 8).map (fun j => b / 8 + j)) else clearPoison ps cells

theorem mem_linePoison {ps : List Nat} {b : Nat} {bytes : List Byte} (hb : b % 8 = 0) (hlen : bytes.length = 64) (d : Nat) :
    d ∈ linePoison ps b (cellsAt b bytes) bad ↔ if b / 8 ≤ d ∧ d < b / 8 + 8 then bad = true else d ∈ ps := by
  have hclear := mem_clearPoison_line (ps := ps) hb hlen d
  have hds : d ∈ (List.range 8).map (fun j => b / 8 + j) ↔ b / 8 ≤ d ∧ d < b / 8 + 8 := by
    simp only [List.mem_map, List.mem_range]
    exact ⟨fun ⟨j, hj, he⟩ => by omega, fun h => ⟨d - b / 8, by omega, by omega⟩⟩
  cases bad with
  | false =>
    rw [linePoison, if_neg Bool.false_ne_true, hclear]
    split <;> simp_all
  | true =>
    rw [linePoison, if_pos rfl, mem_addPoison, hclear, hds]
    split <;> simp_all

/-- The device with a line of bank bytes written from b on. -/
def State.withBankLine (s : State) (b : Nat) (bytes : List Byte) (bad : Bool) : State :=
  { s with bmem := memCells (cellsAt b bytes) s.bmem, bpoison := linePoison s.bpoison b (cellsAt b bytes) bad }

theorem State.destLine_bank (hl : cdDl c.cmd.desc = true) (bytes : List Byte) : s.destLine c.cmd c.next bytes bad =
    .written (s.withBankLine (copyByte (cdDst c.cmd.desc) c.cmd.dbanks c.next) bytes bad) none := by
  simp only [State.destLine, hl, if_true, copyByte_eq, copyByte_doubleword]
  generalize copyByte (cdDst c.cmd.desc) c.cmd.dbanks c.next = b
  cases bad <;> simp [State.withBankLine, State.bankCells, linePoison]

/-- A line written to a bank (R229, R286). -/
theorem State.destLine_local (hl : cdDl c.cmd.desc = true) (hva : (cdDst c.cmd.desc).toNat % 64 = 0) (hw : s.memWf) :
    ∃ t, s.destLine c.cmd c.next ((List.range 64).map bs) bad = .written t none ∧
      t = { s with bmem := t.bmem, bpoison := t.bpoison } ∧ t.lineWritten s c none bs bad ∧ t.memWf := by
  have hb := copyByte_aligned hva c.cmd.dbanks c.next
  have hread := memRead_line (bs := bs) hw.2 (copyByte (cdDst c.cmd.desc) c.cmd.dbanks c.next)
  have hpoison := fun d => mem_linePoison (ps := s.bpoison) (bytes := (List.range 64).map bs) (bad := bad)
    (show copyByte (cdDst c.cmd.desc) c.cmd.dbanks c.next % 8 = 0 by omega) (by simp) d
  refine ⟨_, State.destLine_bank hl _, ?_⟩
  generalize (List.range 64).map bs = bytes at hread hpoison ⊢
  exact ⟨rfl, State.lineWritten_bank rfl rfl hread hpoison, hw.1, memCells_wf _ hw.2⟩

end

/-- A translated line starts at a line of memory. -/
theorem State.translate_line {s : State} {p va uid : Nat} {l : Leaf} {want : Want} (h : s.translate p va want = .ok (l, uid))
    (hva : va % 64 = 0) : l.key % 64 = 0 := by
  obtain ⟨hw, -⟩ := State.translate_ok h
  unfold State.walkAt at hw
  split at hw
  · cases hw
  · exact State.walk_line hw hva

/-- The device with a line of memory written from `key` on: sealed under its page's key, or under none when it arrived poisoned. -/
def State.withLine (s : State) (key uid : Nat) (bytes : List Byte) (bad : Bool) : State :=
  { s.storeCells (cellsAt key bytes) uid with
    seals := if bad then sset (key / 64) Seal.never (s.storeCells (cellsAt key bytes) uid).seals
      else (s.storeCells (cellsAt key bytes) uid).seals }

theorem State.withLine_sealOf {s : State} {key uid : Nat} {bytes : List Byte} (bad : Bool) (hkey : key % 64 = 0) (hlen : bytes.length = 64)
    (x : Nat) : (s.withLine key uid bytes bad).sealOf x = if x / 64 = key / 64 then (if bad then .never else .key uid) else s.sealOf x := by
  have hstore := State.sealOf_storeLine (s := s) (uid := uid) hkey hlen x
  cases bad with
  | false => exact hstore
  | true =>
    by_cases hx : x / 64 = key / 64
    · simp [State.withLine, State.sealOf, hx, sget_sset_same]
    · rw [if_neg hx] at hstore ⊢
      rw [← hstore]
      simp [State.withLine, State.sealOf, sget_sset_other _ _ _ _ _ hx]

theorem State.withLine_serving (s : State) (key uid : Nat) (bytes : List Byte) (bad : Bool) {s' : State} (h : s.Serving s') :
    (s.withLine key uid bytes bad).Serving
      { s' with mem := (s.withLine key uid bytes bad).mem, seals := (s.withLine key uid bytes bad).seals } :=
  ⟨⟨rfl, rfl, h.alike.keys, h.alike.tbl, h.alike.key⟩, h.cores, h.parts, h.bmem, h.bpoison⟩

theorem State.destLine_memory {s : State} {c : Copy} {l : Leaf} {uid : Nat} {bad : Bool} (hl : cdDl c.cmd.desc = false)
    (ht : s.translate c.cmd.part ((cdDst c.cmd.desc).toNat + 64 * c.next) .write = .ok (l, uid)) (hk : keyExists l.key = true)
    (bytes : List Byte) : s.destLine c.cmd c.next bytes bad =
      .written ((s.useKey uid).withLine l.key uid bytes bad) (some (l.key / 64)) := by
  simp only [State.destLine, hl, ht, hk, Bool.not_true, Bool.false_eq_true, if_false]
  cases bad <;> rfl

/-- A line written to global memory (R229, R286). -/
theorem State.destLine_global {s : State} {c : Copy} {l : Leaf} {uid : Nat} {bs : Nat → Byte} {bad : Bool}
    (hl : cdDl c.cmd.desc = false) (hva : (cdDst c.cmd.desc).toNat % 64 = 0)
    (ht : s.translate c.cmd.part ((cdDst c.cmd.desc).toNat + 64 * c.next) .write = .ok (l, uid)) (hk : keyExists l.key = true)
    (hw : s.memWf) : ∃ t, s.destLine c.cmd c.next ((List.range 64).map bs) bad = .written t (some (l.key / 64)) ∧
      t.Serving { s with mem := t.mem, seals := t.seals } ∧ t.nimbus = s.nimbus ∧ t.lineWritten s c (some (l.key, uid)) bs bad ∧ t.memWf := by
  have hserve := s.useKey_serving uid
  have hread := memRead_line (bs := bs) hw.1 l.key
  have hseal := State.withLine_sealOf (s := s.useKey uid) (uid := uid) bad (State.translate_line ht (by omega))
    (show ((List.range 64).map bs).length = 64 by simp)
  refine ⟨_, State.destLine_memory hl ht hk _, State.withLine_serving _ _ _ _ _ hserve, ?_⟩
  generalize (List.range 64).map bs = bytes at hread hseal ⊢
  have hmem : ((s.useKey uid).withLine l.key uid bytes bad).mem = memCells (cellsAt l.key bytes) s.mem :=
    congrArg (memCells (cellsAt l.key bytes)) hserve.alike.mem
  have hbmem : ((s.useKey uid).withLine l.key uid bytes bad).bmem = s.bmem := hserve.bmem
  refine ⟨?_, State.lineWritten_memory hbmem hserve.bpoison (fun x => by rw [hmem]; exact hread x) (fun x => (hseal x).trans ?_), ?_⟩
  · obtain ⟨keys, life, h⟩ := s.useKey_eq uid
    rw [h]
    rfl
  · simp only [State.sealOf, hserve.alike.seals]
  · exact ⟨by rw [hmem]; exact memCells_wf _ hw.1, by rw [hbmem]; exact hw.2⟩

/-- What a written line says depends on the memories, seals and poison alone. -/
theorem State.lineWritten.congr {u u' s s' : State} {c : Copy} {dst : Option (Nat × Nat)} {bs : Nat → Byte} {bad : Bool}
    (h : u.lineWritten s c dst bs bad) (humem : u'.mem = u.mem) (hubmem : u'.bmem = u.bmem) (huseals : u'.seals = u.seals)
    (hupoison : u'.bpoison = u.bpoison) (hmem : s'.mem = s.mem) (hbmem : s'.bmem = s.bmem) (hseals : s'.seals = s.seals)
    (hpoison : s'.bpoison = s.bpoison) : u'.lineWritten s' c dst bs bad := by
  unfold State.lineWritten State.sealOf at *
  rw [humem, hubmem, huseals, hupoison, hmem, hbmem, hseals, hpoison]
  exact h

/-! ### Lines that are free (R78, R290, R295) -/

theorem State.lineServed.free {s : State} {cl key uid : Nat} (h : s.lineServed cl key uid) :
    (!s.atsBlocked [key] && !s.ownedElsewhere cl (key / 64) && s.keyLoads uid) = true := by
  obtain ⟨hats, howned, hkeys⟩ := h
  have hloads : s.keyLoads uid = true := by
    have haway : s.keyAway uid = false := by simpa [State.keyMissing] using hkeys
    unfold State.keyAway at haway
    unfold State.keyLoads
    split
    · rfl
    · next k hk =>
      simp only [hk, Bool.not_eq_false'] at haway
      simp only [haway, Bool.true_or]
  rw [show s.atsBlocked [key] = false by simpa [State.atsBlocked] using hats, howned, hloads]
  rfl

/-- One side of a copy's next line can be served. -/
def State.sideFree (s : State) (cl : Nat) (c : Copy) (loc : Bool) (a : Word) : Prop :=
  loc = true ∨ ∃ key, s.physOf c.cmd.part (a.toNat + 64 * c.next) = some key ∧ s.lineServed cl key (s.uidAt c.cmd.part (a.toNat + 64 * c.next))

theorem State.lineFree_of_sides {s : State} {cl : Nat} {c : Copy} (hsrc : s.sideFree cl c (cdSl c.cmd.desc) (cdSrc c.cmd.desc))
    (hdst : s.sideFree cl c (cdDl c.cmd.desc) (cdDst c.cmd.desc)) (hend : s.endsNow c = false ∨ s.mayEnd cl c = true) :
    s.lineFree cl c = true := by
  have hside : ∀ loc a, s.sideFree cl c loc a → (loc || (match s.physOf c.cmd.part (a.toNat + 64 * c.next) with
      | some key => !s.atsBlocked [key] && !s.ownedElsewhere cl (key / 64) && s.keyLoads (s.uidAt c.cmd.part (a.toNat + 64 * c.next))
      | none => true)) = true := by
    rintro loc a (rfl | ⟨key, hkey, hserved⟩)
    · rfl
    · rw [hkey, Bool.or_eq_true]
      exact .inr hserved.free
  have hends : (!s.endsNow c || s.mayEnd cl c) = true := by
    rcases hend with h | h <;> simp [h]
  unfold State.lineFree
  rw [Bool.and_eq_true, Bool.and_eq_true]
  exact ⟨⟨hside _ _ hsrc, hside _ _ hdst⟩, hends⟩

theorem State.readsLine.sideFree {s : State} {cl : Nat} {c : Copy} {bs : Nat → Byte} {bad : Bool} (h : s.readsLine cl c bs bad) :
    s.sideFree cl c (cdSl c.cmd.desc) (cdSrc c.cmd.desc) := by
  rcases h with ⟨hl, -⟩ | ⟨-, l, uid, ht, hk, hserved, -⟩
  · exact .inl hl
  · obtain ⟨hphys, huid⟩ := State.physOf_of_translate ht hk
    exact .inr ⟨l.key, hphys, huid.symm ▸ hserved⟩

theorem State.writableLine.sideFree {s : State} {cl : Nat} {c : Copy} {dst : Option (Nat × Nat)} (h : s.writableLine cl c dst) :
    s.sideFree cl c (cdDl c.cmd.desc) (cdDst c.cmd.desc) := by
  rcases h with ⟨hl, -⟩ | ⟨-, l, uid, ht, hk, hserved, -⟩
  · exact .inl hl
  · obtain ⟨hphys, huid⟩ := State.physOf_of_translate ht hk
    exact .inr ⟨l.key, hphys, huid.symm ▸ hserved⟩

/-- A copy's completion cell that can be written holds up no end. -/
theorem State.cellServed.mayEnd {s : State} {cl : Nat} {c : Copy} (h : s.cellServed cl c) : s.mayEnd cl c = true := by
  unfold State.mayEnd State.cellFree
  by_cases hcw : cdCw c.cmd.desc = 0
  · simp [hcw]
  · rw [Bool.or_eq_true, Bool.or_eq_true]
    refine .inr (.inr ?_)
    split
    · next key hkey => exact (h key hcw hkey).free
    · rfl

end Sys2Proof.Machine
end

section
/-! PROOF. O51: Nimbus's choice of a copy, and what its turn does (R227, R229, R230). -/

namespace Sys2Proof.Machine

/-! ### Copies that do not stop, and the choice among those that are ready -/

/-- A copy that nothing stops has no deadline and is not told to. -/
theorem State.copyStop_none {s : State} {cl : Nat} {c : Copy} (hstop : c.cmd.stop = 0) (hdue : c.due = none) :
    s.copyStop cl c = none := by
  simp only [State.copyStop, hstop, hdue, ne_eq, not_true_eq_false, if_false]

theorem State.endStopped_none {s : State} {cl : Nat} {l : List Copy} (h : ∀ c ∈ l, s.copyStop cl c = none) : s.endStopped cl l = s := by
  induction l with
  | nil => rfl
  | cons c l ih =>
    unfold State.endStopped
    simp only [h c List.mem_cons_self]
    exact ih fun x hx => h x (List.mem_cons_of_mem _ hx)

theorem State.copyEligible_iff {s : State} {cl : Nat} {c : Copy} : s.copyEligible cl c = true ↔
    c.ready = true ∧ ∀ m ∈ (s.nim cl).members c.group, s.hasBudget cl m = true ∧ s.lineFree cl m = true := by
  simp [State.copyEligible]

/-- Copies of one group without deadlines. -/
theorem groupDue_none {l : List Copy} (h : ∀ c ∈ l, c.due = none) : groupDue l = none := by
  induction l with
  | nil => rfl
  | cons c l ih =>
    rw [groupDue, List.foldl_cons, h c List.mem_cons_self]
    exact ih fun x hx => h x (List.mem_cons_of_mem _ hx)

/-- Where the copies of an engine are one group that is ready, without deadlines, the earliest arrival is chosen. -/
theorem State.chooseCopy_group {s : State} {cl : Nat} {c : Copy} {l : List Copy} (hl : (s.nim cl).copies = l)
    (hgroup : ∀ x ∈ l, x.group = c.group) (hstop : ∀ x ∈ l, s.copyStop cl x = none) (hdue : ∀ x ∈ l, x.due = none)
    (hready : ∀ x ∈ l, s.copyEligible cl x = true) (hfirst : earliest (fun _ => 0) l = some c) :
    s.chooseCopy cl = some (c, (s.nim cl).eighth) := by
  have hmembers : ∀ x ∈ l, (s.nim cl).members x.group = l := fun x hx => by
    rw [Nimbus.members, hl, List.filter_eq_self]
    exact fun y hy => beq_iff_eq.2 ((hgroup y hy).trans (hgroup x hx).symm)
  have hel : (s.nim cl).copies.filter (fun c => s.copyEligible cl c &&
      ((s.nim cl).members c.group).all (fun m => (s.copyStop cl m).isNone)) = l := by
    rw [hl, List.filter_eq_self]
    intro x hx
    rw [hmembers x hx, hready x hx, Bool.true_and, List.all_eq_true]
    exact fun m hm => by rw [hstop m hm]; rfl
  have hnone : ∀ x ∈ l, groupDue ((s.nim cl).members x.group) = none := fun x hx => by rw [hmembers x hx]; exact groupDue_none hdue
  have htimed : l.filter (fun c => (groupDue ((s.nim cl).members c.group)).isSome) = [] :=
    List.filter_eq_nil_iff.2 fun x hx => by rw [hnone x hx]; decide
  have hfree : l.filter (fun c => (groupDue ((s.nim cl).members c.group)).isNone) = l :=
    List.filter_eq_self.2 fun x hx => by rw [hnone x hx]; rfl
  unfold State.chooseCopy
  simp only [hel, htimed, hfree, hfirst, earliest]

/-! ### A turn of Nimbus (R229) -/

/-- The key of a global source line is used. -/
def State.useSource (s : State) : Option Nat → State
  | some u => s.useKey u
  | none => s

theorem State.useSource_serving (s : State) (uid : Option Nat) : (s.useSource uid).Serving s := by
  cases uid with
  | none => exact .refl s
  | some u => exact s.useKey_serving u

theorem State.useKey_nimbus (s : State) (u : Nat) : (s.useKey u).nimbus = s.nimbus := by
  obtain ⟨_, _, h⟩ := s.useKey_eq u
  rw [h]

theorem State.useSource_nimbus (s : State) (uid : Option Nat) : (s.useSource uid).nimbus = s.nimbus := by
  cases uid with
  | none => rfl
  | some u => exact s.useKey_nimbus u

section
variable {s : State} {cl e : Nat} {n : Nimbus} {c : Copy}

/-- In the cycle in which a line can still move, Nimbus's turn changes nothing yet. -/
theorem Nimbus.turn_same (hmoved : n.moved < 2) (hcyc : n.cyc < n.window + 1024) : n.turn = n := by
  rw [Nimbus.turn, if_pos hmoved, Nimbus.renew, if_neg (Nat.not_le.2 hcyc)]

/-- Nimbus has moved one more line in its cycle. -/
def State.lineCounted (s : State) (cl : Nat) : State := s.setNim cl { s.nim cl with moved := (s.nim cl).moved + 1 }

theorem State.lineCounted_serving (s : State) (cl : Nat) : (s.lineCounted cl).Serving s := s.setNim_serving cl _

/-- Stopped copies end before the choice of a line. -/
theorem State.copyLine_stops (hn : s.nim cl = n) (hne : n.copies ≠ []) (hmoved : n.moved < 2) (hcyc : n.cyc < n.window + 1024)
    (hchoose : (s.endStopped cl n.copies).chooseCopy cl = none) :
    s.copyLine cl = .next ((s.endStopped cl n.copies).kickedOn cl) := by
  subst hn
  unfold State.copyLine
  simp only [Nimbus.turn_same hmoved hcyc, State.setNim_nim hne, hchoose]
  rfl

section
variable (hn : s.nim cl = n) (hne : n.copies ≠ []) (hmoved : n.moved < 2) (hcyc : n.cyc < n.window + 1024)
  (hstop : ∀ x ∈ n.copies, s.copyStop cl x = none) (hchoose : s.chooseCopy cl = some (c, e))
include hn hne hmoved hcyc hstop hchoose

/-- The chosen copy's line cannot be read: its group ends. -/
theorem State.copyLine_fault {x : Nat} (hsource : s.sourceLine c.cmd c.next = .fault x) : s.copyLine cl =
    .next ((((s.lineCounted cl).badDrain cl x).endAll cl 3 x (n.members c.group)).kickNimbus cl) := by
  subst hn
  have hsource' : (s.lineCounted cl).sourceLine c.cmd c.next = .fault x := ((s.lineCounted_serving cl).sourceLine _ _).trans hsource
  have hmembers : ((s.lineCounted cl).nim cl).members c.group = (s.nim cl).members c.group := by rw [State.lineCounted, State.nim_setNim]; rfl
  unfold State.copyLine
  simp only [Nimbus.turn_same hmoved hcyc, State.setNim_nim hne, State.endStopped_none hstop, hchoose]
  rw [← State.lineCounted, hsource', hmembers]

/-- The chosen copy's line is read, and moves to its group. -/
theorem State.copyLine_moves {bs : List Byte} {bad : Bool} {uid : Option Nat} {t : State}
    (hsource : s.sourceLine c.cmd c.next = .bytes bs bad uid)
    (hmove : (((s.lineCounted cl).useSource uid).badLine cl bad).moveTo cl e bs bad (n.members c.group) = .next t) :
    s.copyLine cl = .next (t.kickedOn cl) := by
  subst hn
  have hsource' : (s.lineCounted cl).sourceLine c.cmd c.next = .bytes bs bad uid := ((s.lineCounted_serving cl).sourceLine _ _).trans hsource
  have hmembers : ((s.lineCounted cl).nim cl).members c.group = (s.nim cl).members c.group := by rw [State.lineCounted, State.nim_setNim]; rfl
  unfold State.copyLine
  simp only [Nimbus.turn_same hmoved hcyc, State.setNim_nim hne, State.endStopped_none hstop, hchoose]
  rw [← State.lineCounted, hsource', hmembers]
  cases uid <;> simp only [State.useSource] at hmove <;> simp only [hmove] <;> rfl

end

/-! ### A line that has moved (R78, R223) -/

/-- The device after the line is released and counted. -/
def State.released (s : State) (cl e : Nat) (c : Copy) (own : List Nat) : State :=
  s.setNim cl { s.nim cl with
    copies := (s.nim cl).copies.map (fun x => if x.arrival = c.arrival then { c with next := c.next + 1, own := own } else x)
    used := sset c.key (sget 0 c.key (s.nim cl).used + 1) (s.nim cl).used, eighth := e }

/-- The lines that a copy owns after one was written. -/
def Copy.ownAfter (c : Copy) : Option Nat → List Nat
  | some l => c.own.filter (· != l)
  | none => c.own

theorem State.lineMoved_more {line : Option Nat} (h : (c.next + 1) * 64 ≠ cdLen c.cmd.desc) : s.lineMoved cl e c line =
    (s.released cl e c (c.ownAfter line)).setCwp { c with next := c.next + 1, own := c.ownAfter line } 0 ((c.next + 1) * 64) := by
  unfold State.lineMoved
  cases line <;> exact if_neg h

theorem State.lineMoved_last {line : Option Nat} (h : (c.next + 1) * 64 = cdLen c.cmd.desc) : s.lineMoved cl e c line =
    (s.released cl e c (c.ownAfter line)).endCopy cl { c with next := c.next + 1, own := c.ownAfter line } 1 0 := by
  unfold State.lineMoved
  cases line <;> exact if_pos h

end

end Sys2Proof.Machine
end

section
/-! PROOF. O51: commands that arrive at Nimbus, its windows, and versions that are reached (R225, R227, R229, R230). -/

namespace Sys2Proof.Machine

/-! ### A command arrives (R225, log 73) -/

theorem exec_copyCommand_left {s : State} {r : CopyCmd} (h : (s.core r.core).part ≠ r.part) : exec (.copyCommand r) s = .next s :=
  if_pos h

/-- The service of a command that is no CPYM: it stands alone, and is ready. -/
def State.standAlone (s : State) (n : Nimbus) (r : CopyCmd) : Copy :=
  { cmd := r, arrival := n.arrivals, due := if cdDeadline r.desc = 0 then none else some (n.cyc + cdDeadline r.desc), next := 0
    ready := true, group := n.arrivals, own := s.ownLines r, staging := none }

/-- The device after the command has entered Nimbus's service. -/
def State.entered (s : State) (n : Nimbus) (r : CopyCmd) : State :=
  s.setNim (clusterOf r.core) { n with copies := n.copies ++ [s.standAlone n r], arrivals := n.arrivals + 1 }

theorem State.acceptCopy_alone {s : State} {r : CopyCmd} {n : Nimbus} (hn : s.nim (clusterOf r.core) = n) (hform : r.form ≠ 2) :
    s.acceptCopy (clusterOf r.core) r none =
      if r.stop ≠ 0 then (s.entered n r).endCopy (clusterOf r.core) (s.standAlone n r) r.stop 0
      else if (s.entered n r).tooLate (clusterOf r.core) (s.standAlone n r) then
        (s.entered n r).endCopy (clusterOf r.core) (s.standAlone n r) 2 0
      else (s.entered n r).kickNimbus (clusterOf r.core) := by
  subst hn
  have hmate : (s.nim (clusterOf r.core)).copies.find? (fun c => c.staging.isNone && c.next == 0 && combines c.cmd r) = none :=
    List.find?_eq_none.2 fun c _ => by simp [combines, hform]
  have hready : (r.form != 2) = true := bne_iff_ne.2 hform
  unfold State.acceptCopy
  simp only [Option.isSome_none, Bool.false_eq_true, if_false, hmate, hready, Bool.true_or, if_true, Option.map_none, Option.getD_none]
  rfl

section
variable {s : State} {r : CopyCmd} {n : Nimbus} {cx : Ctx}
  (hpart : (s.core r.core).part = r.part) (hn : sget Nimbus.reset (clusterOf r.core) s.nimbus = n) (hform : r.form ≠ 2)
  (hcx : cx = (s.core r.core).cxOf r.enc) (hq : cx.vqueue[Fin.ofNat 4 r.ch] = some r.desc)

/-- The device after the engine has taken a command's entry: the queue's head has risen. -/
def State.headRaised (s : State) (r : CopyCmd) : State :=
  s.setCore r.core ((s.core r.core).setCxOf r.enc
    { (s.core r.core).cxOf r.enc with vqHead := ((s.core r.core).cxOf r.enc).vqHead + 1 })

include hpart hcx hq in
theorem exec_copyCommand : exec (.copyCommand r) s = .next ((s.headRaised r).acceptCopy (clusterOf r.core) r none) := by
  subst hcx
  refine (if_neg (not_not.2 hpart)).trans ?_
  simp only [hq, Option.getD_some]
  rfl

/-- Whether the command's deadline can be met is asked of its channel's budget (Table 14.5). -/
theorem State.tooLate_headRaised (hpart : (s.core r.core).part = r.part) (hcx : cx = (s.core r.core).cxOf r.enc) :
    ((s.headRaised r).entered n r).tooLate (clusterOf r.core) ((s.headRaised r).standAlone n r) = true ↔
      cdDeadline r.desc ≠ 0 ∧ cdDeadline r.desc * cx.budget[Fin.ofNat 4 r.ch] < cdLen r.desc / 64 * 1024 := by
  subst hcx
  have hcore : ((s.headRaised r).entered n r).core r.core = (s.headRaised r).core r.core := rfl
  have hraised : (s.headRaised r).core r.core = (s.core r.core).setCxOf r.enc
      { (s.core r.core).cxOf r.enc with vqHead := ((s.core r.core).cxOf r.enc).vqHead + 1 } := State.core_setCore _ _ _
  have hbudget : ((s.headRaised r).entered n r).channelBudget ((s.headRaised r).standAlone n r)
      = ((s.core r.core).cxOf r.enc).budget[Fin.ofNat 4 r.ch] := by
    simp only [State.channelBudget, State.standAlone, Option.isSome_none, Bool.false_or, hcore, hraised, Core.setCxOf_part, hpart,
      ne_eq, not_true_eq_false, decide_false, Bool.false_eq_true, if_false, Core.cxOf_setCxOf]
  have hcyc : (((s.headRaised r).entered n r).nim (clusterOf r.core)).cyc = n.cyc := by rw [State.entered, State.nim_setNim]
  unfold State.tooLate
  rw [hbudget, hcyc]
  by_cases hd : cdDeadline r.desc = 0
  · simp [State.standAlone, hd]
  · simp [State.standAlone, hd]

/-- Raising a queue's head changes one core, which stays in its partition. -/
theorem State.headRaised_core (s : State) (r : CopyCmd) (d : Nat) : ((s.headRaised r).core d).part = (s.core d).part := by
  by_cases hd : d = r.core
  · subst hd; rw [State.headRaised, State.core_setCore]; rfl
  · rw [State.headRaised, State.core_setCore_other _ _ _ _ hd]

/-- A command whose service ends as it begins (R225, R229): every older copy is served on. -/
theorem State.entered_endCopy {c : Copy} (hn : sget Nimbus.reset (clusterOf r.core) s.nimbus = n) (hc : c.cmd = r) (hquiet : s.copyQuiet c)
    (harrivals : ∀ x ∈ n.copies, x.arrival ≠ n.arrivals) (st : Nat) :
    let t := ((s.headRaised r).entered n r).endCopy (clusterOf r.core) ((s.headRaised r).standAlone n r) st 0
    (sget Nimbus.reset (clusterOf r.core) t.nimbus).copies = n.copies ∧ t.copyEnded s c st 0 0 := by
  subst hc
  have hquiet' : ((s.headRaised c.cmd).entered n c.cmd).copyQuiet ((s.headRaised c.cmd).standAlone n c.cmd) :=
    State.copyQuiet.of_same (c := c) hquiet (s.headRaised_core c.cmd _) rfl hquiet.2.2.2.1
  obtain ⟨hended, hnim⟩ := State.endCopy_spec (clusterOf c.cmd.core) st 0 rfl hquiet'
  refine ⟨?_, State.copyEnded.congr hended rfl rfl rfl ⟨rfl, rfl, rfl, fun _ => rfl, fun _ => rfl⟩ rfl⟩
  refine (congrArg Nimbus.copies hnim).trans ?_
  simp only [State.entered, State.nim_setNim, List.filter_append, List.filter_cons, List.filter_nil, bne_self_eq_false, Bool.false_eq_true,
    if_false, List.append_nil, List.filter_eq_self, State.standAlone]
  exact fun x hx => bne_iff_ne.2 (harrivals x hx)

end

/-! ### Windows, and versions that are reached (R227, R229, R230) -/

theorem exec_copyBudgetWindow {s : State} {n : Nimbus} (hn : sget Nimbus.reset (clusterOf s.cur) s.nimbus = n) (hnone : n.copies = []) :
    exec .copyBudgetWindow s = .next (s.setNim (clusterOf s.cur) n.renew) := by
  subst hn
  have hcopies : (s.nim (clusterOf s.cur)).renew.copies = [] := by
    unfold Nimbus.renew
    split <;> exact hnone
  change execCopyBudgetWindow s = .next (s.setNim (clusterOf s.cur) (s.nim (clusterOf s.cur)).renew)
  unfold execCopyBudgetWindow
  simp only [State.nim_setNim, hcopies, State.endStopped, List.isEmpty_nil, if_true]

theorem combines_self {r : CopyCmd} (h : r.form = 2) : combines r r = true := by simp [combines, h]

theorem State.versionReached_iff {s : State} {r : CopyCmd} {cell : Nat} (h : s.physOf r.part (cdVwa r.desc).toNat = some cell) :
    s.versionReached r = true ↔ cdVer r.desc ≤ memNat s.mem (cell + 8) 4 := by
  simp only [State.versionReached, h, decide_eq_true_eq]
  rfl

/-- A copy of a version asks whether the version is reached. -/
theorem exec_cpymVersionReached {s : State} {c : Copy} {n : Nimbus} (hn : sget Nimbus.reset (clusterOf c.cmd.core) s.nimbus = n)
    (hcopies : n.copies = [c]) (hform : c.cmd.form = 2) (hready : c.ready = false) :
    exec (.cpymVersionReached c.cmd) s = if s.versionReached c.cmd then
        .next ((s.setNim (clusterOf c.cmd.core) { n with copies := [{ c with ready := true }] }).kickNimbus (clusterOf c.cmd.core))
      else .next (s.enqueue (clusterSite (clusterOf c.cmd.core)) (.cpymVersionReached c.cmd)) := by
  subst hn
  change execCpymVersionReached _ _ = _
  have hcopies' : (s.nim (clusterOf c.cmd.core)).copies = [c] := hcopies
  unfold execCpymVersionReached
  simp only [hcopies', List.find?_cons, combines_self hform, hready, Bool.not_false, Bool.and_self, List.map_cons, List.map_nil, if_true]
  rfl

end Sys2Proof.Machine
end

section
/-! PROOF. O51: the copies that Nimbus serves line by line, and how they end (R229 to R232). -/

namespace Sys2Proof.Machine

theorem State.kickNimbus_serving (s : State) (cl : Nat) : (s.kickNimbus cl).Serving s := by
  rw [s.kickNimbus_frame cl]
  exact ⟨⟨rfl, rfl, rfl, fun _ => rfl, fun _ => rfl⟩, rfl, rfl, rfl, rfl⟩

theorem State.kickedOn_serving (s : State) (cl : Nat) : (s.kickedOn cl).Serving s := by
  rw [s.kickedOn_frame cl]
  exact ⟨⟨rfl, rfl, rfl, fun _ => rfl, fun _ => rfl⟩, rfl, rfl, rfl, rfl⟩

theorem State.kickNimbus_nimbus (s : State) (cl : Nat) : (s.kickNimbus cl).nimbus = s.nimbus := by rw [s.kickNimbus_frame cl]

theorem State.kickedOn_nimbus (s : State) (cl : Nat) : (s.kickedOn cl).nimbus = s.nimbus := by rw [s.kickedOn_frame cl]

theorem State.setCwp_nimbus (s : State) (c : Copy) (st off : Nat) : (s.setCwp c st off).nimbus = s.nimbus := by rw [s.setCwp_frame c st off]

theorem State.nim_of_nimbus {s t : State} (h : t.nimbus = s.nimbus) (cl : Nat) : t.nim cl = s.nim cl := by rw [State.nim, h]; rfl

/-- The same end, told of a state in which Nimbus goes on. -/
theorem State.Serving.ended {s t u u' : State} {c : Copy} {st cause off : Nat} (h : t.Serving s) (he : s.copyEnded u c st cause off)
    (hu : u.Serving u') : t.copyEnded u' c st cause off :=
  he.congr h.cores h.alike.mem h.bmem hu.alike hu.bmem

theorem State.lineCounted_nim (s : State) (cl : Nat) : (s.lineCounted cl).nim cl = { s.nim cl with moved := (s.nim cl).moved + 1 } :=
  State.nim_setNim _ _ _

/-! ### One copy alone -/

section
variable {s : State} {cl : Nat} {n : Nimbus} {c : Copy}

theorem Nimbus.members_single (h : n.copies = [c]) : n.members c.group = [c] := by simp [Nimbus.members, h]

/-- A copy that ends alone leaves its engine without copies. -/
theorem State.endCopy_alone {st cause : Nat} (hst : c.staging = none) (hq : s.copyQuiet c) (hcopies : (s.nim cl).copies = [c]) :
    ((s.endCopy cl c st cause).nim cl).copies = [] := by
  rw [(State.endCopy_spec cl st cause hst hq).2]
  simp [hcopies]

/-- A copy that stops ends before its next line, with no copy left to move a line of (R227, R229). -/
theorem State.copyLine_stopped {st : Nat} (hn : s.nim cl = n) (hcopies : n.copies = [c]) (hmoved : n.moved < 2)
    (hcyc : n.cyc < n.window + 1024) (hst : c.staging = none) (hq : s.copyQuiet c) (hcell : s.cellServed cl c)
    (hstop : s.copyStop cl c = some st) : ∃ t, s.copyLine cl = .next t ∧ (t.nim cl).copies = [] ∧ t.copyEnded s c st 0 (c.next * 64) := by
  have hends : s.endStopped cl n.copies = s.endCopy cl c st 0 := by
    simp only [hcopies, State.endStopped, hstop, hcell.mayEnd, if_true]
  have hnone : ((s.endCopy cl c st 0).nim cl).copies = [] := State.endCopy_alone hst hq (by rw [hn, hcopies])
  have hchoose : (s.endCopy cl c st 0).chooseCopy cl = none := by
    simp only [State.chooseCopy, hnone, List.filter_nil, earliest]
  refine ⟨_, State.copyLine_stops hn (by simp [hcopies]) hmoved hcyc (by rw [hends]; exact hchoose), ?_, ?_⟩
  · rw [hends, State.nim_of_nimbus (State.kickedOn_nimbus _ _), hnone]
  · rw [hends]
    exact (State.kickedOn_serving _ _).ended (State.endCopy_spec cl st 0 hst hq).1 (.refl s)

/-- A copy whose deadline has passed with lines left is too late. -/
theorem State.copyStop_late {d : Nat} (hn : s.nim cl = n) (hstop : c.cmd.stop = 0) (hdue : c.due = some d) (hd : d ≤ n.cyc)
    (hleft : c.next < cdLen c.cmd.desc / 64) : s.copyStop cl c = some 2 := by
  subst hn
  have hlate : s.tooLate cl c = true := by
    simp only [State.tooLate, hdue, decide_eq_true_eq, Nat.sub_eq_zero_of_le hd, Nat.zero_mul]
    omega
  simp [State.copyStop, hstop, hdue, hd, hlate]

/-- The copy that Nimbus serves alone is chosen once its line is free (R229). -/
theorem State.servesOnly.chosen (h : s.servesOnly cl n c) (hfree : s.lineFree cl c = true) : s.chooseCopy cl = some (c, n.eighth) := by
  obtain ⟨hn, hcopies, -, -, hstop, hdue, hready, -, hbudget, -, -⟩ := h
  have hn' : s.nim cl = n := hn
  have hc : (s.nim cl).copies = [c] := by rw [hn', hcopies]
  have hbudget' : s.hasBudget cl c = true := by rw [State.hasBudget, hn', decide_eq_true_eq]; exact hbudget
  have hel : s.copyEligible cl c = true := by
    refine State.copyEligible_iff.2 ⟨hready, fun m hm => ?_⟩
    rw [Nimbus.members_single hc, List.mem_singleton] at hm
    subst hm
    exact ⟨hbudget', hfree⟩
  rw [← hn']
  exact State.chooseCopy_group hc (by simp) (by simpa using State.copyStop_none hstop hdue) (by simpa using hdue) (by simpa using hel) rfl

/-- A source that cannot be read ends the copy with status 3 (R229, R231). -/
theorem State.servesOnly.faults {x : Nat} (h : s.servesOnly cl n c) (hfree : s.lineFree cl c = true)
    (hsource : s.sourceLine c.cmd c.next = .fault x) : ∃ t, s.copyLine cl = .next t ∧ (t.nim cl).copies = [] ∧
    t.copyEnded s c 3 (copyCause x) (c.next * 64) := by
  have hchoose := h.chosen hfree
  obtain ⟨hn, hcopies, hmoved, hcyc, hstop, hdue, -, hst, -, hq, -⟩ := h
  have hn' : s.nim cl = n := hn
  have hmove := State.copyLine_fault hn' (by simp [hcopies]) hmoved hcyc (by simpa [hcopies] using State.copyStop_none hstop hdue) hchoose hsource
  rw [Nimbus.members_single hcopies] at hmove
  have hserving := (State.badDrain_serving (s.lineCounted cl) cl x).trans (s.lineCounted_serving cl)
  have hnim : ((s.lineCounted cl).badDrain cl x).nim cl = { n with moved := n.moved + 1 } := by
    rw [State.nim_of_nimbus (State.badDrain_nimbus _ _ _), State.lineCounted_nim, hn']
  have hq' := hserving.quiet hq
  refine ⟨_, hmove, ?_, ?_⟩
  · rw [State.nim_of_nimbus (State.kickNimbus_nimbus _ _)]
    exact State.endCopy_alone hst hq' (by rw [hnim]; exact hcopies)
  · exact (State.kickNimbus_serving _ _).ended (State.endCopy_spec cl 3 x hst hq').1 hserving

end

/-! ### A line that moves -/

/-- s with the memories, seals and bank poison of u. -/
def State.memoriesOf (s u : State) : State := { s with mem := u.mem, bmem := u.bmem, seals := u.seals, bpoison := u.bpoison }

theorem State.Serving.memories {s t u : State} (h : u.Serving (t.memoriesOf u)) (ht : t.Serving s) : u.Serving (s.memoriesOf u) :=
  ⟨⟨rfl, rfl, h.alike.keys.trans ht.alike.keys, fun q => (h.alike.tbl q).trans (ht.alike.tbl q),
    fun q => (h.alike.key q).trans (ht.alike.key q)⟩, h.cores.trans ht.cores, h.parts.trans ht.parts, rfl, rfl⟩

/-- A line that can be written is written, by an engine that has used keys and counted lines meanwhile (R229, R286). -/
theorem State.writableLine.writes {s x : State} {cl : Nat} {c : Copy} {dst : Option (Nat × Nat)} (hw : s.writableLine cl c dst)
    (hx : x.Serving s) (hq : s.copyQuiet c) (bs : Nat → Byte) (bad : Bool) :
    ∃ t, x.destLine c.cmd c.next ((List.range 64).map bs) bad = .written t (dst.map (·.1 / 64)) ∧ t.Serving (s.memoriesOf t) ∧
      t.nimbus = x.nimbus ∧ (s.memoriesOf t).lineWritten s c dst bs bad ∧ t.memWf := by
  have hwf : x.memWf := hx.wf hq.2.2.2.1
  have hva : (cdDst c.cmd.desc).toNat % 64 = 0 := hq.2.2.2.2.2
  rcases hw with ⟨hl, rfl⟩ | ⟨hl, l, uid, ht, hk, -, rfl⟩
  · obtain ⟨t, hdest, hframe, hwritten, hwf'⟩ := State.destLine_local (bs := bs) (bad := bad) hl hva hwf
    refine ⟨t, hdest, State.Serving.memories ?_ hx, by rw [hframe],
      hwritten.congr rfl rfl rfl rfl hx.alike.mem.symm hx.bmem.symm hx.alike.seals.symm hx.bpoison.symm, hwf'⟩
    have hsame : t = x.memoriesOf t := by rw [hframe]; rfl
    rw [← hsame]
    exact .refl t
  · obtain ⟨t, hdest, hserving, hnim, hwritten, hwf'⟩ := State.destLine_global (bs := bs) (bad := bad) hl hva
      ((hx.alike.translate _ _ _).trans ht) hk hwf
    refine ⟨t, hdest, State.Serving.memories (t := x) ⟨⟨rfl, rfl, hserving.alike.keys, hserving.alike.tbl, hserving.alike.key⟩,
      hserving.cores, hserving.parts, rfl, rfl⟩ hx, hnim, hwritten.congr rfl rfl rfl rfl hx.alike.mem.symm hx.bmem.symm hx.alike.seals.symm hx.bpoison.symm, hwf'⟩

section
variable {s t : State} {cl e : Nat} {n : Nimbus} {c : Copy} {line : Option Nat}

/-- What is left of a copy after a line of it has moved. -/
def Copy.advanced (c : Copy) (line : Option Nat) : Copy := { c with next := c.next + 1, own := c.ownAfter line }

theorem State.released_nim (s : State) (cl e : Nat) (c : Copy) (own : List Nat) : (s.released cl e c own).nim cl = { s.nim cl with
    copies := (s.nim cl).copies.map (fun x => if x.arrival = c.arrival then { c with next := c.next + 1, own := own } else x)
    used := sset c.key (sget 0 c.key (s.nim cl).used + 1) (s.nim cl).used, eighth := e } := State.nim_setNim _ _ _

theorem State.released_serving (s : State) (cl e : Nat) (c : Copy) (own : List Nat) : (s.released cl e c own).Serving s :=
  s.setNim_serving cl _

/-- A line that is not the last: the pointer rises, and the engine's copies and budgets say so (R223, R229). -/
theorem State.lineMoved_goesOn (hst : c.staging = none) (hp : (s.core c.cmd.core).part = c.cmd.part)
    (hmore : (c.next + 1) * 64 ≠ cdLen c.cmd.desc) :
    (s.lineMoved cl e c line).pointerIs c 0 ((c.next + 1) * 64) ∧
    (s.lineMoved cl e c line).nim cl = (s.released cl e c (c.ownAfter line)).nim cl ∧
    s.lineMoved cl e c line = { s with cores := (s.lineMoved cl e c line).cores, nimbus := (s.lineMoved cl e c line).nimbus } := by
  rw [State.lineMoved_more hmore]
  refine ⟨State.setCwp_pointerIs (s := s.released cl e c (c.ownAfter line)) (c := c.advanced line) hst hp 0 ((c.next + 1) * 64), State.nim_of_nimbus (State.setCwp_nimbus _ _ _ _) cl, ?_⟩
  have hframe := State.setCwp_frame (s.released cl e c (c.ownAfter line)) (c.advanced line) 0 ((c.next + 1) * 64)
  rw [show ({ c with next := c.next + 1, own := c.ownAfter line } : Copy) = c.advanced line from rfl]
  generalize (s.released cl e c (c.ownAfter line)).setCwp (c.advanced line) 0 ((c.next + 1) * 64) = u at hframe ⊢
  rw [hframe]
  rfl

/-- The last line ends the copy (R229, R232). -/
theorem State.lineMoved_ends {u : State} (hst : c.staging = none) (hq : s.copyQuiet c) (hlast : (c.next + 1) * 64 = cdLen c.cmd.desc)
    (hcopies : (s.nim cl).copies = [c]) (hu : s.Serving u) :
    ((s.lineMoved cl e c line).nim cl).copies = [] ∧ (s.lineMoved cl e c line).copyEnded u c 1 0 ((c.next + 1) * 64) := by
  rw [State.lineMoved_last hlast]
  have hserving := s.released_serving cl e c (c.ownAfter line)
  have hq' : (s.released cl e c (c.ownAfter line)).copyQuiet (c.advanced line) := hserving.quiet (c := c) hq
  refine ⟨State.endCopy_alone (c := c.advanced line) hst hq' ?_, ?_⟩
  · rw [State.released_nim]
    simp [hcopies, Copy.advanced]
  · exact (State.Serving.refl _).ended (State.endCopy_spec cl 1 0 (c := c.advanced line) hst hq').1 (hserving.trans hu)

end

/-- What one member's line does to the engine's own state is all that the next member's line meets. -/
theorem State.moveTo_written {x t : State} {cl e : Nat} {bs : List Byte} {bad : Bool} {c : Copy} {line : Option Nat} (l : List Copy)
    (h : x.destLine c.cmd c.next bs bad = .written t line) :
    x.moveTo cl e bs bad (c :: l) = (t.lineMoved cl e c line).moveTo cl e bs bad l := by
  rw [State.moveTo, h]

/-- The state from which the line that was read is written. -/
def State.lineRead (s : State) (cl : Nat) (uid : Option Nat) (bad : Bool) : State := ((s.lineCounted cl).useSource uid).badLine cl bad

theorem State.lineRead_serving (s : State) (cl : Nat) (uid : Option Nat) (bad : Bool) : (s.lineRead cl uid bad).Serving s :=
  ((State.badLine_serving _ _ _).trans (State.useSource_serving _ _)).trans (s.lineCounted_serving cl)

theorem State.lineRead_nim (s : State) (cl : Nat) (uid : Option Nat) (bad : Bool) :
    (s.lineRead cl uid bad).nim cl = { s.nim cl with moved := (s.nim cl).moved + 1 } := by
  rw [State.lineRead, State.nim_of_nimbus (State.badLine_nimbus _ _ _), State.nim_of_nimbus (State.useSource_nimbus _ _), State.lineCounted_nim]

/-- The next line of the copy that is served alone moves; the last one ends it (R229 to R232). -/
theorem State.servesOnly.moves {s : State} {cl : Nat} {n : Nimbus} {c : Copy} {bs : Nat → Byte} {bad : Bool} {dst : Option (Nat × Nat)}
    (h : s.servesOnly cl n c) (hr : s.readsLine cl c bs bad) (hw : s.writableLine cl c dst) :
    ∃ t u : State, s.copyLine cl = .next (State.kickedOn (t.lineMoved cl n.eighth c (dst.map (·.1 / 64))) cl) ∧ u = s.memoriesOf t ∧
      u.lineWritten s c dst bs bad ∧ t.Serving u ∧ t.copyQuiet c ∧ t.nim cl = { n with moved := n.moved + 1 } := by
  have hchoose := h.chosen (State.lineFree_of_sides hr.sideFree hw.sideFree (.inr h.2.2.2.2.2.2.2.2.2.2.mayEnd))
  obtain ⟨hn, hcopies, hmoved, hcyc, hstop, hdue, -, hst, -, hq, -⟩ := h
  have hn' : s.nim cl = n := hn
  obtain ⟨uid, hsource⟩ := hr.source
  obtain ⟨t, hdest, hserving, hnim, hwritten, hwf⟩ := hw.writes (s.lineRead_serving cl uid bad) hq bs bad
  refine ⟨t, s.memoriesOf t, ?_, rfl, hwritten, hserving, ?_, ?_⟩
  · refine State.copyLine_moves hn' (by simp [hcopies]) hmoved hcyc (by simpa [hcopies] using State.copyStop_none hstop hdue) hchoose hsource ?_
    rw [Nimbus.members_single hcopies]
    exact State.moveTo_written [] hdest
  · exact hq.of_same (congrArg Core.part (hserving.core _)) (hserving.part _) hwf
  · rw [State.nim_of_nimbus hnim, State.lineRead_nim, hn']

end Sys2Proof.Machine
end

section
/-! PROOF. O51: two combined copies that share a read (R230). -/

namespace Sys2Proof.Machine

section
variable {s : State} {cl : Nat} {c : Copy}

/-- The write pointers of other channels stay (R223). -/
theorem State.setCwp_pointerIs_other {c' : Copy} {st off st' off' : Nat} (h : s.pointerIs c st off)
    (hne : (c.cmd.core, c.cmd.enc, c.cmd.ch % 4) ≠ (c'.cmd.core, c'.cmd.enc, c'.cmd.ch % 4)) : (s.setCwp c' st' off').pointerIs c st off := by
  unfold State.setCwp
  dsimp only
  split
  · exact h
  · unfold State.pointerIs at h ⊢
    by_cases hcore : c.cmd.core = c'.cmd.core
    · rw [hcore] at h ⊢
      rw [State.core_setCore]
      by_cases henc : c.cmd.enc = c'.cmd.enc
      · rw [henc] at h ⊢
        have hch : c'.cmd.ch % 4 ≠ c.cmd.ch % 4 := fun he => hne (by rw [hcore, henc, he])
        rw [Core.cxOf_setCxOf]
        exact (Vector.getElem_set_ne (Nat.mod_lt _ (by decide)) (Nat.mod_lt _ (by decide)) hch).trans h
      · simp only [Core.cxOf, Core.setCxOf, sget_sset_other _ _ _ _ _ henc] at h ⊢
        exact h
    · rw [State.core_setCore_other _ _ _ _ hcore]
      exact h

/-- A line that is neither the last nor a fault ends no copy. -/
theorem State.endsNow_false {bs : List Byte} {bad : Bool} {uid : Option Nat} (hmore : (c.next + 1) * 64 ≠ cdLen c.cmd.desc)
    (hsource : s.sourceLine c.cmd c.next = .bytes bs bad uid) (hdl : cdDl c.cmd.desc = true) : s.endsNow c = false := by
  simp only [State.endsNow, hsource, hdl, hmore, decide_false, Bool.not_true, Bool.false_and, Bool.or_false]

/-- What moving a bank line of a copy that goes on makes of its engine: the line is written, the copy's pointer, budget and position
rise, and other channels' pointers and every core's partition stay (R223, R229). -/
theorem State.moveTo_bank {e : Nat} {bs : Nat → Byte} {bad : Bool} (l : List Copy) (hst : c.staging = none) (hq : s.copyQuiet c)
    (hdl : cdDl c.cmd.desc = true) (hmore : (c.next + 1) * 64 ≠ cdLen c.cmd.desc) :
    ∃ v : State, s.moveTo cl e ((List.range 64).map bs) bad (c :: l) = v.moveTo cl e ((List.range 64).map bs) bad l ∧
      v.lineWritten s c none bs bad ∧ v.memWf ∧ (∀ p, v.part p = s.part p) ∧ (∀ d, (v.core d).part = (s.core d).part) ∧
      v.pointerIs c 0 ((c.next + 1) * 64) ∧
      (∀ (x : Copy) st off, s.pointerIs x st off → (x.cmd.core, x.cmd.enc, x.cmd.ch % 4) ≠ (c.cmd.core, c.cmd.enc, c.cmd.ch % 4) →
        v.pointerIs x st off) ∧
      v.nim cl = (s.released cl e c c.own).nim cl := by
  obtain ⟨hp, -, -, hwf, -, hva⟩ := hq
  obtain ⟨t, hdest, hframe, hwritten, hwf'⟩ := State.destLine_local (bs := bs) (bad := bad) hdl hva hwf
  have hcores : t.cores = s.cores := by rw [hframe]
  obtain ⟨hptr, hnim, hframe'⟩ := State.lineMoved_goesOn (s := t) (cl := cl) (e := e) (line := none) hst
    (by rw [State.core_of_cores hcores]; exact hp) hmore
  have hmoved := State.lineMoved_more (s := t) (cl := cl) (e := e) (line := none) hmore
  refine ⟨t.lineMoved cl e c none, State.moveTo_written l hdest, ?_, ?_, fun p => ?_, fun d => ?_, hptr, fun x st off hx hne => ?_, ?_⟩
  · exact hwritten.congr (by rw [hframe']) (by rw [hframe']) (by rw [hframe']) (by rw [hframe']) rfl rfl rfl rfl
  · rw [hframe']; exact hwf'
  · rw [hframe', hframe]; rfl
  · rw [hmoved, State.setCwp_part]
    exact congrArg Core.part (State.core_of_cores hcores d)
  · rw [hmoved]
    exact State.setCwp_pointerIs_other (s := t.released cl e c (c.ownAfter none)) (c' := c.advanced none)
      (State.pointerIs_of_cores hx hcores) hne
  · rw [hnim, State.released_nim, State.released_nim, State.nim_of_nimbus (show t.nimbus = s.nimbus by rw [hframe])]
    rfl

end

/-- A copy from global memory to banks that goes on: nothing stops it, it has budget, and its next line is not its last. -/
def State.feedsBank (s : State) (cl : Nat) (n : Nimbus) (x : Copy) : Prop :=
  x.cmd.stop = 0 ∧ x.due = none ∧ x.ready = true ∧ x.staging = none ∧ sget 0 x.key n.used < s.budgetOf cl x ∧ s.copyQuiet x ∧
  cdSl x.cmd.desc = false ∧ cdDl x.cmd.desc = true ∧ (x.next + 1) * 64 ≠ cdLen x.cmd.desc

section
variable {s : State} {cl : Nat} {n : Nimbus} {c c' : Copy} {bs : Nat → Byte} {bad : Bool}

theorem State.feedsBank.copyStop (h : s.feedsBank cl n c) : s.copyStop cl c = none := State.copyStop_none h.1 h.2.1

theorem State.feedsBank.lineFree (h : s.feedsBank cl n c) (hr : s.readsLine cl c bs bad) : s.lineFree cl c = true := by
  obtain ⟨-, -, -, -, -, -, -, hdl, hmore⟩ := h
  obtain ⟨uid, hsource⟩ := hr.source
  exact State.lineFree_of_sides hr.sideFree (.inl hdl) (.inl (State.endsNow_false hmore hsource hdl))

theorem State.feedsBank.hasBudget (h : s.feedsBank cl n c) (hn : s.nim cl = n) : s.hasBudget cl c = true := by
  obtain ⟨-, -, -, -, hbudget, -⟩ := h
  rw [State.hasBudget, hn, decide_eq_true_eq]
  exact hbudget

/-- Copies of the same global lines, at the same line, read the same bytes. -/
theorem State.feedsBank.reads (h : s.feedsBank cl n c) (h' : s.feedsBank cl n c') (hr : s.readsLine cl c bs bad) (hnext : c.next = c'.next)
    (hpart : c.cmd.part = c'.cmd.part) (hsrc : cdSrc c.cmd.desc = cdSrc c'.cmd.desc) : s.readsLine cl c' bs bad := by
  obtain ⟨-, -, -, -, -, -, hsl, -⟩ := h
  obtain ⟨-, -, -, -, -, -, hsl', -⟩ := h'
  rcases hr with ⟨hl, -⟩ | ⟨-, hr⟩
  · rw [hsl] at hl; cases hl
  · rw [hsrc, hpart, hnext] at hr
    exact .inr ⟨hsl', hr⟩

theorem Nimbus.members_pair (hcopies : n.copies = [c, c']) (hgroup : c.group = c'.group) : n.members c.group = [c, c'] := by
  simp [Nimbus.members, hcopies, hgroup]

/-- Of two combined copies that go on, the earlier is chosen (R229, R230). -/
theorem State.chooseCopy_pair (hn : s.nim cl = n) (hcopies : n.copies = [c, c']) (h : s.feedsBank cl n c) (h' : s.feedsBank cl n c')
    (hfree : s.lineFree cl c = true) (hfree' : s.lineFree cl c' = true) (hgroup : c.group = c'.group) (harrival : c.arrival < c'.arrival) :
    s.chooseCopy cl = some (c, n.eighth) := by
  have hc : (s.nim cl).copies = [c, c'] := by rw [hn, hcopies]
  have hmembers : (s.nim cl).members c.group = [c, c'] := Nimbus.members_pair hc hgroup
  have hel : ∀ x ∈ [c, c'], s.copyEligible cl x = true := by
    intro x hx
    refine State.copyEligible_iff.2 ⟨?_, fun m hm => ?_⟩
    · rcases List.mem_pair.1 hx with rfl | rfl
      · exact h.2.2.1
      · exact h'.2.2.1
    · have hm' : m ∈ [c, c'] := by
        rcases List.mem_pair.1 hx with rfl | rfl
        · rwa [hmembers] at hm
        · rwa [← hgroup, hmembers] at hm
      rcases List.mem_pair.1 hm' with rfl | rfl
      · exact ⟨h.hasBudget hn, hfree⟩
      · exact ⟨h'.hasBudget hn, hfree'⟩
  have hfirst : earliest (fun _ => 0) [c, c'] = some c := by simp [earliest, Nat.not_lt.2 harrival.le]
  rw [← hn]
  exact State.chooseCopy_group hc (by simp [hgroup]) (by simpa using ⟨h.copyStop, h'.copyStop⟩) (by simpa using ⟨h.2.1, h'.2.1⟩) hel hfirst

/-- Two combined copies share a read: the line goes to each member's bank, and each member's pointer and budget move (R230). -/
theorem State.copyLine_pair (hn : s.nim cl = n) (hcopies : n.copies = [c, c']) (hmoved : n.moved < 2) (hcyc : n.cyc < n.window + 1024)
    (h : s.feedsBank cl n c) (h' : s.feedsBank cl n c') (harrival : c.arrival < c'.arrival) (hgroup : c.group = c'.group) (hnext : c.next = c'.next)
    (hkey : c.key ≠ c'.key) (hpart : c.cmd.part = c'.cmd.part) (hsrc : cdSrc c.cmd.desc = cdSrc c'.cmd.desc) (hr : s.readsLine cl c bs bad)
    (hne : (c.cmd.core, c.cmd.enc, c.cmd.ch % 4) ≠ (c'.cmd.core, c'.cmd.enc, c'.cmd.ch % 4)) :
    ∃ t u, s.copyLine cl = .next t ∧ u.lineWritten s c none bs bad ∧ t.lineWritten u c' none bs bad ∧
      t.pointerIs c 0 ((c.next + 1) * 64) ∧ t.pointerIs c' 0 ((c.next + 1) * 64) ∧
      (t.nim cl).copies = [{ c with next := c.next + 1 }, { c' with next := c.next + 1 }] ∧
      sget 0 c.key (t.nim cl).used = sget 0 c.key n.used + 1 ∧ sget 0 c'.key (t.nim cl).used = sget 0 c'.key n.used + 1 := by
  have hchoose := State.chooseCopy_pair hn hcopies h h' (h.lineFree hr) (h'.lineFree (h.reads h' hr hnext hpart hsrc)) hgroup harrival
  have hstops : ∀ x ∈ n.copies, s.copyStop cl x = none := by rw [hcopies]; simpa using ⟨h.copyStop, h'.copyStop⟩
  obtain ⟨-, -, -, hst, -, hq, -, hdl, hmore⟩ := h
  obtain ⟨-, -, -, hst', -, hq', -, hdl', hmore'⟩ := h'
  obtain ⟨uid, hsource⟩ := hr.source
  have hread := s.lineRead_serving cl uid bad
  obtain ⟨v, hmove, hwritten, hwf, hparts, hcores, hptr, -, hnim⟩ := State.moveTo_bank (cl := cl) (e := n.eighth) (bs := bs) (bad := bad) [c']
    hst (hread.quiet hq) hdl hmore
  obtain ⟨w, hmove', hwritten', -, -, -, hptr', hptrs, hnim'⟩ := State.moveTo_bank (cl := cl) (e := n.eighth) (bs := bs) (bad := bad) []
    hst' ((hread.quiet hq').of_same (hcores _) (hparts _) hwf) hdl' hmore'
  have hgo := w.kickedOn_serving cl
  have hgoNim : (w.kickedOn cl).nim cl = w.nim cl := State.nim_of_nimbus (State.kickedOn_nimbus _ _) cl
  rw [hnim', State.released_nim, hnim, State.released_nim, State.lineRead_nim, hn] at hgoNim
  refine ⟨w.kickedOn cl, v, ?_, ?_, ?_, State.pointerIs_of_cores (hptrs c _ _ hptr hne) hgo.cores, ?_, ?_, ?_, ?_⟩
  · refine State.copyLine_moves hn (by simp [hcopies]) hmoved hcyc hstops hchoose hsource ?_
    rw [Nimbus.members_pair hcopies hgroup]
    exact hmove.trans hmove'
  · exact hwritten.congr rfl rfl rfl rfl hread.alike.mem.symm hread.bmem.symm hread.alike.seals.symm hread.bpoison.symm
  · exact hwritten'.congr hgo.alike.mem hgo.bmem hgo.alike.seals hgo.bpoison rfl rfl rfl rfl
  · rw [hnext]
    exact State.pointerIs_of_cores hptr' hgo.cores
  · simp [hgoNim, hcopies, harrival.ne, harrival.ne', hnext]
  · simp [hgoNim, sget_sset_same, sget_sset_other _ _ _ _ _ hkey]
  · simp [hgoNim, sget_sset_same, sget_sset_other _ _ _ _ _ hkey.symm]

end

end Sys2Proof.Machine
end

section
/-! PROOF. O51 settled: the copy engine's service. -/

namespace Sys2Proof.Machine

/-- A command enters its engine, or ends as it enters (R225, R227, R229). -/
theorem copyCommand_served (s : State) (r : CopyCmd) (n : Nimbus) (cx : Ctx) (hpart : (s.core r.core).part = r.part)
    (hn : sget Nimbus.reset (clusterOf r.core) s.nimbus = n) (hform : r.form ≠ 2) (hcx : cx = (s.core r.core).cxOf r.enc)
    (hq : cx.vqueue[Fin.ofNat 4 r.ch] = some r.desc) :
    (r.stop = 0 → cdLen r.desc / 64 * 1024 ≤ cdDeadline r.desc * cx.budget[Fin.ofNat 4 r.ch] ∨ cdDeadline r.desc = 0 → ∃ t c,
      exec (.copyCommand r) s = .next t ∧
      t.core r.core = (s.core r.core).setCxOf r.enc { cx with vqHead := cx.vqHead + 1 } ∧ (∀ x, x ≠ r.core → t.core x = s.core x) ∧ t.mem = s.mem ∧
      sget Nimbus.reset (clusterOf r.core) t.nimbus = { n with copies := n.copies ++ [c], arrivals := n.arrivals + 1 } ∧ c.cmd = r ∧ c.next = 0 ∧
      c.ready = true ∧ c.due = (if cdDeadline r.desc = 0 then none else some (n.cyc + cdDeadline r.desc)) ∧
      (clusterSite (clusterOf r.core), Instr.copyLine) ∈ t.flight) ∧
    (∀ c : Copy, c.cmd = r → s.copyQuiet c → (∀ x ∈ n.copies, x.arrival ≠ n.arrivals) →
      (r.stop ≠ 0 → ∃ t, exec (.copyCommand r) s = .next t ∧ (sget Nimbus.reset (clusterOf r.core) t.nimbus).copies = n.copies ∧
        t.copyEnded s c r.stop 0 0) ∧
      (r.stop = 0 → cdDeadline r.desc ≠ 0 → cdDeadline r.desc * cx.budget[Fin.ofNat 4 r.ch] < cdLen r.desc / 64 * 1024 →
        ∃ t, exec (.copyCommand r) s = .next t ∧ (sget Nimbus.reset (clusterOf r.core) t.nimbus).copies = n.copies ∧
        t.copyEnded s c 2 0 0)) := by
  have hexec := exec_copyCommand hpart hcx hq
  rw [State.acceptCopy_alone (s := s.headRaised r) (n := n) hn hform] at hexec
  have hlate := State.tooLate_headRaised (n := n) hpart hcx
  constructor
  · intro hstop htime
    have hnot : ¬ ((s.headRaised r).entered n r).tooLate (clusterOf r.core) ((s.headRaised r).standAlone n r) = true := by
      rw [hlate]; omega
    rw [if_neg (not_not.2 hstop), if_neg hnot] at hexec
    have hkick := State.kickNimbus_serving ((s.headRaised r).entered n r) (clusterOf r.core)
    refine ⟨_, (s.headRaised r).standAlone n r, hexec, ?_, fun x hx => ?_, hkick.alike.mem, ?_, rfl, rfl, rfl, rfl, State.mem_kickNimbus _ _⟩
    · subst hcx
      exact (hkick.core _).trans (State.core_setCore _ _ _)
    · exact (hkick.core _).trans (State.core_setCore_other _ _ _ _ hx)
    · rw [State.kickNimbus_nimbus]
      exact State.nim_setNim _ _ _
  · intro c hc hquiet harrivals
    constructor
    · intro hstop
      rw [if_pos hstop] at hexec
      exact ⟨_, hexec, State.entered_endCopy hn hc hquiet harrivals r.stop⟩
    · intro hstop hdeadline htime
      rw [if_neg (not_not.2 hstop), if_pos (hlate.2 ⟨hdeadline, htime⟩)] at hexec
      exact ⟨_, hexec, State.entered_endCopy hn hc hquiet harrivals 2⟩

/-- The next line of a copy that is served alone moves; the last one ends it (R223, R229, R232). -/
theorem copyLine_served (s : State) (cl : Nat) (n : Nimbus) (c : Copy) (bs : Nat → Byte) (bad : Bool) (dst : Option (Nat × Nat))
    (hcl : cl = clusterOf s.cur) (hserves : s.servesOnly cl n c) (hr : s.readsLine cl c bs bad) (hw : s.writableLine cl c dst) :
    ∃ t u, exec .copyLine s = .next t ∧ u.lineWritten s c dst bs bad ∧
    u = { s with mem := u.mem, bmem := u.bmem, seals := u.seals, bpoison := u.bpoison } ∧
    ((c.next + 1) * 64 ≠ cdLen c.cmd.desc → t.mem = u.mem ∧ t.bmem = u.bmem ∧ t.seals = u.seals ∧ t.bpoison = u.bpoison ∧
      t.pointerIs c 0 ((c.next + 1) * 64) ∧ ∃ own, (sget Nimbus.reset cl t.nimbus).copies = [{ c with next := c.next + 1, own := own }] ∧
      (∀ key uid, dst = some (key, uid) → own = c.own.filter (· != key / 64)) ∧ (dst = none → own = c.own) ∧
      sget 0 c.key (sget Nimbus.reset cl t.nimbus).used = sget 0 c.key n.used + 1) ∧
    ((c.next + 1) * 64 = cdLen c.cmd.desc → (sget Nimbus.reset cl t.nimbus).copies = [] ∧ t.copyEnded u c 1 0 ((c.next + 1) * 64)) := by
  subst hcl
  obtain ⟨v, u, hexec, rfl, hwritten, hserving, hq, hnim⟩ := hserves.moves hr hw
  obtain ⟨-, hcopies, -, -, -, -, -, hst, -⟩ := hserves
  have hgo := State.kickedOn_serving (v.lineMoved (clusterOf s.cur) n.eighth c (dst.map (·.1 / 64))) (clusterOf s.cur)
  have hgoNim := State.nim_of_nimbus
    (State.kickedOn_nimbus (v.lineMoved (clusterOf s.cur) n.eighth c (dst.map (·.1 / 64))) (clusterOf s.cur)) (clusterOf s.cur)
  refine ⟨_, s.memoriesOf v, hexec, hwritten, rfl, fun hmore => ?_, fun hlast => ?_⟩
  · obtain ⟨hptr, hmovedNim, hframe⟩ := State.lineMoved_goesOn (cl := clusterOf s.cur) (e := n.eighth) (line := dst.map (·.1 / 64))
      hst hq.1 hmore
    have hnim' := hgoNim.trans hmovedNim
    rw [State.released_nim, hnim] at hnim'
    refine ⟨hgo.alike.mem.trans (by rw [hframe]; rfl), hgo.bmem.trans (by rw [hframe]; rfl), hgo.alike.seals.trans (by rw [hframe]; rfl),
      hgo.bpoison.trans (by rw [hframe]; rfl), State.pointerIs_of_cores hptr hgo.cores, c.ownAfter (dst.map (·.1 / 64)), ?_, ?_, ?_, ?_⟩
    · refine (congrArg Nimbus.copies hnim').trans ?_
      simp [hcopies]
    · rintro key uid rfl; rfl
    · rintro rfl; rfl
    · exact (congrArg (fun m => sget 0 c.key m.used) hnim').trans (sget_sset_same _ _ _ _)
  · obtain ⟨hnone, hended⟩ := State.lineMoved_ends (cl := clusterOf s.cur) (e := n.eighth) (line := dst.map (·.1 / 64)) hst hq hlast
      (by rw [hnim]; exact hcopies) hserving
    exact ⟨(congrArg Nimbus.copies hgoNim).trans hnone, hgo.ended hended (.refl _)⟩

end Sys2Proof.Machine

open Sys2Proof Sys2Proof.Machine in
/-- Settles O51: each event of the copy engine is followed from Nimbus's choice of a copy to the line it moves and the copy it ends. -/
theorem copiesServed : Obligations.CopiesServed := by
  refine ⟨fun s r => exec_copyCommand_left, copyCommand_served, copyLine_served, ?_, ?_, ?_, ?_, ?_⟩
  · rintro s cl n c x rfl hserves hbad hfree
    exact hserves.faults hfree (State.sourceLine_fault hbad)
  · rintro s cl n c rfl hn hcopies hmoved hcyc hst hq hcell
    refine ⟨fun hstop => ?_, fun d hstop hdue hd hleft => ?_⟩
    · exact State.copyLine_stopped hn hcopies hmoved hcyc hst hq hcell (if_pos hstop)
    · exact State.copyLine_stopped hn hcopies hmoved hcyc hst hq hcell (State.copyStop_late hn hstop hdue hd hleft)
  · rintro s cl n c c' bs bad rfl hn hcopies hmoved hcyc hmembers harrival hgroup hnext hkey hpart hsrc hr hne -
    obtain ⟨t, u, hexec, hwritten, hwritten', hrest⟩ := State.copyLine_pair hn hcopies hmoved hcyc (hmembers c (by simp))
      (hmembers c' (by simp)) harrival hgroup hnext hkey hpart hsrc hr hne
    exact ⟨t, u, hexec, hwritten, hwritten', hwritten'.1.trans hwritten.1, hrest⟩
  · intro s n hn hnone
    refine ⟨_, exec_copyBudgetWindow hn hnone, rfl, rfl, rfl, fun hover => ?_⟩
    rw [State.setNim, sget_sset_same, Nimbus.renew, if_pos hover]
    exact ⟨rfl, rfl, rfl⟩
  · rintro s r c n cell hn hcopies rfl hform hready hphys
    have hexec := exec_cpymVersionReached hn hcopies hform hready
    have hiff := State.versionReached_iff hphys
    refine ⟨fun hreached => ?_, fun hnot => ?_⟩
    · rw [if_pos (hiff.2 hreached)] at hexec
      refine ⟨_, hexec, ?_, State.mem_kickNimbus _ _⟩
      rw [State.kickNimbus_nimbus]
      exact congrArg Nimbus.copies (State.nim_setNim _ _ _)
    · rwa [if_neg (hiff.not.2 (Nat.not_le.2 hnot))] at hexec
end

section
/-! PROOF. O8 to O11: the results of the register and immediate instructions (R99 to R103). -/

namespace Sys2Proof.Machine

/-! ### A result and its place -/

/-- An instruction that the shared register operation performs computes what it is given. -/
theorem Computes.of_alu {i : Pfx → Instr} {d last : Fin 16} {f g : State → Word → Word}
    (h : ∀ s p, exec (i p) s = s.alu p d last (g s)) (hfg : ∀ s y, g s y = f s y) : Computes i d last f := by
  intro s p y k k' hsrc hdst
  rw [h]
  exact State.alu_next hsrc ((hfg s y).symm ▸ hdst)

/-- The same where one word alone has the property. -/
theorem ComputesThat.of_alu {i : Pfx → Instr} {d last : Fin 16} {P : Word → Word → Prop} {g : Word → Word}
    (h : ∀ s p, exec (i p) s = s.alu p d last g) (hg : ∀ y v, P y v → v = g y) : ComputesThat i d last P := by
  intro s p y v k k' hv hsrc hdst
  rw [h]
  exact State.alu_next hsrc (hg y v hv ▸ hdst)

/-! ### Numbers of the model as words -/

theorem boolWord_eq (b : Bool) : boolWord b = if b then 1 else 0 := rfl

theorem boolWord_decide (q : Prop) [Decidable q] : boolWord (decide q) = if q then 1 else 0 := by
  by_cases h : q <;> simp [boolWord, h]

/-- The low six bits of a shift count. -/
theorem toNat_and_63 (y : Word) : (y &&& 63).toNat = y.toNat % 64 := by
  rw [BitVec.toNat_and]
  exact Nat.and_two_pow_sub_one_eq_mod y.toNat 6

theorem shiftLeft_shamt (x y : Word) : x <<< shamt y = x <<< (y &&& 63) := by
  rw [BitVec.shiftLeft_eq', toNat_and_63, shamt]

theorem ushiftRight_shamt (x y : Word) : x >>> shamt y = x >>> (y &&& 63) := by
  rw [BitVec.ushiftRight_eq', toNat_and_63, shamt]

/-- A rotation by a word's low six bits, as two shifts. -/
theorem rotateRight_shamt (x y : Word) :
    x.rotateRight (shamt y) = x >>> (y &&& 63) ||| x <<< ((64 - (y &&& 63)) &&& 127) := by
  have hlt : y.toNat % 64 < 64 := Nat.mod_lt _ (by decide)
  have hback : ((64 - (y &&& 63)) &&& 127).toNat = 64 - y.toNat % 64 := by
    have hsub : (64 - (y &&& 63)).toNat = 64 - y.toNat % 64 := by
      rw [BitVec.toNat_sub_of_le (by rw [BitVec.le_def, toNat_and_63]; exact hlt.le), toNat_and_63]
      rfl
    rw [BitVec.toNat_and, hsub]
    exact (Nat.and_two_pow_sub_one_eq_mod _ 7).trans (Nat.mod_eq_of_lt (by omega))
  rw [BitVec.rotateRight_def, BitVec.ushiftRight_eq', BitVec.shiftLeft_eq', hback, toNat_and_63, shamt, Nat.mod_mod]

theorem sltWord_eq (x y : Word) : sltWord x y = x.slt y := rfl

theorem sltuWord_iff (x y : Word) : sltuWord x y = true ↔ x < y := by
  rw [sltuWord, decide_eq_true_eq, BitVec.lt_def]

/-- A minimum and a maximum do not depend on which of two equal words they take. -/
theorem slt_swap {x y : Word} (h : ¬ x.slt y) (h' : ¬ y.slt x) : x = y := by
  rw [BitVec.slt_iff_toInt_lt] at h h'
  exact BitVec.eq_of_toInt_eq (by omega)

theorem min_swap (x y : Word) : (if y.slt x then y else x) = if x.slt y then x else y := by
  by_cases h : x.slt y
  · have h' : ¬ y.slt x := by rw [BitVec.slt_iff_toInt_lt] at h ⊢; omega
    rw [if_pos h, if_neg h']
  · by_cases h' : y.slt x
    · rw [if_neg h, if_pos h']
    · rw [if_neg h, if_neg h', slt_swap h h']

theorem minu_swap (x y : Word) : (if y < x then y else x) = if x < y then x else y := by
  by_cases h : x < y
  · rw [if_pos h, if_neg (BitVec.lt_asymm h)]
  · by_cases h' : y < x
    · rw [if_neg h, if_pos h']
    · rw [if_neg h, if_neg h', BitVec.le_antisymm (BitVec.not_lt.1 h') (BitVec.not_lt.1 h)]

/-! ### Products and quotients -/

/-- The low word of a longer one, from the number that it spells with a sign. -/
theorem setWidth_eq_ofInt {w : Nat} (hw : 64 ≤ w) (z : BitVec w) : z.setWidth 64 = BitVec.ofInt 64 z.toInt := by
  apply BitVec.eq_of_toInt_eq
  rw [BitVec.toInt_setWidth, BitVec.toInt_ofInt, BitVec.toInt_eq_toNat_bmod, Int.bmod_bmod_of_dvd (pow_dvd_pow 2 hw)]

/-- The upper half of a signed product (R100). -/
theorem mulHS_eq (x y : Word) : mulHS x y = ((x.signExtend 128 * y.signExtend 128).sshiftRight 64).setWidth 64 := by
  have hlo : -2 ^ 126 ≤ x.toInt * y.toInt := BitVec.le_toInt_mul_toInt
  have hhi : x.toInt * y.toInt ≤ 2 ^ 126 := BitVec.toInt_mul_toInt_le
  have hprod : (x.signExtend 128 * y.signExtend 128).toInt = x.toInt * y.toInt := by
    rw [BitVec.toInt_mul, BitVec.toInt_signExtend_of_le (by decide), BitVec.toInt_signExtend_of_le (by decide)]
    exact Int.bmod_eq_of_le (by omega) (by omega)
  rw [setWidth_eq_ofInt (by decide), BitVec.toInt_sshiftRight, hprod, Int.shiftRight_eq_div_pow]
  rfl

/-- The upper half of an unsigned product (R100). -/
theorem mulHU_eq (x y : Word) : mulHU x y = ((x.setWidth 128 * y.setWidth 128) >>> 64).setWidth 64 := by
  have hx := x.isLt
  have hy := y.isLt
  have hlt : x.toNat * y.toNat < 2 ^ 128 := by nlinarith
  apply BitVec.eq_of_toNat_eq
  simp only [mulHU, BitVec.toNat_setWidth, BitVec.toNat_ushiftRight, BitVec.toNat_mul, BitVec.toNat_ofNat, Nat.shiftRight_eq_div_pow]
  rw [Nat.mod_eq_of_lt (a := x.toNat) (by omega), Nat.mod_eq_of_lt (a := y.toNat) (by omega), Nat.mod_eq_of_lt hlt]

theorem divS_eq (x y : Word) : divS x y = if y = 0 then BitVec.allOnes 64 else x.sdiv y := by
  refine if_congr Iff.rfl rfl (BitVec.eq_of_toInt_eq ?_)
  rw [wordOfInt, BitVec.toInt_ofInt, BitVec.toInt_sdiv]

theorem remS_eq (x y : Word) : remS x y = if y = 0 then x else x.srem y := by
  refine if_congr Iff.rfl rfl ?_
  rw [wordOfInt, ← BitVec.toInt_srem, BitVec.ofInt_toInt]

end Sys2Proof.Machine

open Sys2Proof Sys2Proof.Machine in
/-- Settles O8: every sequence is the shared register operation with its own function of the operands. -/
theorem threeOperandResults : Obligations.ThreeOperandResults := by
  unfold Obligations.ThreeOperandResults
  intro d a b
  refine ⟨?add, ?sub, ?and, ?or, ?xor, ?mul, ?sll, ?srl, ?slt, ?sltu⟩
  case sll => exact .of_alu (fun _ _ => rfl) fun _ y => shiftLeft_shamt _ y
  case srl => exact .of_alu (fun _ _ => rfl) fun _ y => ushiftRight_shamt _ y
  case sltu => exact .of_alu (fun _ _ => rfl) fun _ y => boolWord_decide _
  all_goals exact .of_alu (fun _ _ => rfl) fun _ _ => rfl

open Sys2Proof Sys2Proof.Machine in
/-- Settles O9: every sequence is the shared register operation; the upper halves of products, quotients and remainders are the
library's. -/
theorem twoOperandResults : Obligations.TwoOperandResults := by
  unfold Obligations.TwoOperandResults
  intro d a
  refine ⟨?sra, ?ror, ?mulh, ?mulhu, ?div, ?divu, ?rem, ?remu, ?min, ?max, ?minu, ?maxu, ?seq, ?sne, ?andn, ?mov⟩
  case ror => exact .of_alu (fun _ _ => rfl) fun _ y => rotateRight_shamt _ y
  case mulh => exact .of_alu (fun _ _ => rfl) fun _ y => mulHS_eq _ y
  case mulhu => exact .of_alu (fun _ _ => rfl) fun _ y => mulHU_eq _ y
  case div => exact .of_alu (fun _ _ => rfl) fun _ y => divS_eq _ y
  case rem => exact .of_alu (fun _ _ => rfl) fun _ y => remS_eq _ y
  case min => exact .of_alu (fun _ _ => rfl) fun _ y => min_swap _ y
  case minu => exact .of_alu (fun s _ => rfl) fun s y => (if_congr (sltuWord_iff _ _) rfl rfl).trans (minu_swap (s.me.getG d) y)
  case maxu => exact .of_alu (fun _ _ => rfl) fun _ y => if_congr (sltuWord_iff _ y) rfl rfl
  case seq => exact .of_alu (fun _ _ => rfl) fun _ y => if_congr beq_iff_eq rfl rfl
  case sne =>
    refine .of_alu (fun _ _ => rfl) fun s y => ?_
    by_cases h : s.me.getG d = y <;> simp [boolWord, h]
  all_goals exact .of_alu (fun _ _ => rfl) fun _ _ => rfl

open Sys2Proof Sys2Proof.Machine in
/-- Settles O11: every sequence is the shared register operation with its immediate. -/
theorem immediateResults : Obligations.ImmediateResults := by
  unfold Obligations.ImmediateResults
  intro d a e n
  refine ⟨?addi, ?andi, ?ori, ?xori, ?slli, ?srli, ?srai, fun hlo hhi => ?slti, ?seqi, fun s p => State.finish_setMe s p _⟩
  case slti =>
    have he : (BitVec.ofInt 64 e).toInt = e := BitVec.toInt_ofInt_eq_self (by decide) hlo hhi
    refine .of_alu (fun _ _ => rfl) fun _ y => (boolWord_decide _).trans (if_congr ?_ rfl rfl)
    rw [BitVec.slt_iff_toInt_lt, he]
  case seqi => exact .of_alu (fun _ _ => rfl) fun _ y => if_congr beq_iff_eq rfl rfl
  all_goals exact .of_alu (fun _ _ => rfl) fun _ _ => rfl
end

section
/-! PROOF. O10: the one-operand results, counts and reversals bit by bit (R101). -/

namespace Sys2Proof.Machine

/-! ### Extensions -/

/-- A sign extension of the low n bits, as a number. -/
theorem signExtNat_eq_toInt (x : Nat) {n : Nat} (hn : 0 < n) : signExtNat x n = (BitVec.ofNat n x).toInt := by
  have hpow : 2 ^ n = 2 * 2 ^ (n - 1) := by rw [← Nat.pow_succ', Nat.succ_eq_add_one, Nat.sub_add_cancel hn]
  rw [BitVec.toInt_eq_toNat_cond, BitVec.toNat_ofNat, signExtNat]
  by_cases h : x % 2 ^ n < 2 ^ (n - 1)
  · rw [if_pos h, if_pos (by omega)]
  · rw [if_neg h, if_neg (by omega)]
    push_cast
    rfl

theorem sextWord_eq (x : Word) {n : Nat} (hn : 0 < n) : sextWord x n = (x.setWidth n).signExtend 64 := by
  rw [sextWord, signExtNat_eq_toInt _ hn, BitVec.ofNat_toNat]
  rfl

/-- The low n bits, as a mask takes them. -/
theorem zextWord_eq (x m : Word) {n : Nat} (hm : m.toNat = 2 ^ n - 1) : zextWord x n = x &&& m := by
  apply BitVec.eq_of_toNat_eq
  have hlt : x.toNat % 2 ^ n < 2 ^ 64 := (Nat.mod_le _ _).trans_lt x.isLt
  rw [BitVec.toNat_and, hm, Nat.and_two_pow_sub_one_eq_mod, zextWord, BitVec.toNat_ofNat, Nat.mod_eq_of_lt hlt]

/-! ### Counts of zeros -/

/-- `n` is the number of bits of a row of 64 that come before its first one. -/
def ZerosBefore (b : Nat → Bool) (n : Nat) : Prop := n ≤ 64 ∧ (∀ j, j < n → b j = false) ∧ (n < 64 → b n = true)

theorem ZerosBefore.unique {b : Nat → Bool} {m n : Nat} (hm : ZerosBefore b m) (hn : ZerosBefore b n) : m = n := by
  obtain ⟨hm64, hm0, hm1⟩ := hm
  obtain ⟨hn64, hn0, hn1⟩ := hn
  rcases Nat.lt_trichotomy m n with h | h | h
  · have := hm1 (by omega); rw [hn0 m h] at this; cases this
  · exact h
  · have := hn1 (by omega); rw [hm0 n h] at this; cases this

/-- A word that spells such a number is that number's word. -/
theorem ZerosBefore.word {b : Nat → Bool} {n : Nat} {v : Word} (hv : ZerosBefore b v.toNat) (hn : ZerosBefore b n) :
    v = BitVec.ofNat 64 n := by
  rw [← hv.unique hn, BitVec.ofNat_toNat, BitVec.setWidth_eq]

theorem clzWord_zeros (x : Word) : ZerosBefore (fun j => x.getLsbD (63 - j)) (clzWord x) := by
  by_cases hx : x = 0
  · rw [clzWord, if_pos hx]
    exact ⟨Nat.le_refl _, fun j _ => by rw [hx]; exact BitVec.getLsbD_zero, fun h => absurd h (Nat.lt_irrefl _)⟩
  · have hnz : x.toNat ≠ 0 := fun h => hx (BitVec.eq_of_toNat_eq h)
    have hlog : x.toNat.log2 < 64 := (Nat.log2_lt hnz).2 x.isLt
    rw [clzWord, if_neg hx]
    refine ⟨by omega, fun j hj => ?_, fun _ => ?_⟩
    · exact Nat.testBit_lt_two_pow (Nat.lt_log2_self.trans_le (Nat.pow_le_pow_right (by decide) (by omega)))
    · show x.getLsbD (63 - (63 - x.toNat.log2)) = true
      rw [show 63 - (63 - x.toNat.log2) = x.toNat.log2 by omega]
      exact Nat.testBit_log2 hnz

theorem ctzFrom_spec (n x : Nat) : ctzFrom x n ≤ n ∧ (∀ j, j < ctzFrom x n → x.testBit j = false) ∧
    (ctzFrom x n < n → x.testBit (ctzFrom x n) = true) := by
  induction n generalizing x with
  | zero => exact ⟨Nat.le_refl _, fun j hj => absurd hj (Nat.not_lt_zero _), fun h => absurd h (Nat.lt_irrefl _)⟩
  | succ n ih =>
    rw [ctzFrom]
    by_cases hx : x % 2 = 1
    · rw [if_pos hx]
      exact ⟨Nat.zero_le _, fun j hj => absurd hj (Nat.not_lt_zero _), fun _ => by rw [Nat.testBit_zero, hx]; rfl⟩
    · obtain ⟨hle, hzero, hone⟩ := ih (x / 2)
      rw [if_neg hx, Nat.add_comm]
      refine ⟨Nat.succ_le_succ hle, fun j hj => ?_, fun h => ?_⟩
      · cases j with
        | zero => rw [Nat.testBit_zero, decide_eq_false hx]
        | succ j => rw [Nat.testBit_succ]; exact hzero j (by omega)
      · rw [Nat.testBit_succ]; exact hone (by omega)

/-! ### The count of ones -/

theorem popFrom_eq (n x : Nat) : popFrom x n = ((List.range n).filter x.testBit).length := by
  induction n generalizing x with
  | zero => rfl
  | succ n ih =>
    have hshift : (x.testBit ∘ Nat.succ) = (x / 2).testBit := funext fun j => Nat.testBit_succ x j
    rw [popFrom, ih, List.range_succ_eq_map, List.filter_cons, List.filter_map, hshift]
    by_cases hx : x % 2 = 1
    · rw [if_pos (by rw [Nat.testBit_zero, hx]; rfl), hx, List.length_cons, List.length_map, Nat.add_comm]
    · rw [if_neg (by rw [Nat.testBit_zero]; simpa using hx), List.length_map, show x % 2 = 0 by omega, Nat.zero_add]

/-! ### Reversals -/

/-- Part i of a value that is taken apart from below, w bits at a time, and put together in reverse order. -/
theorem revFrom_part (w n x acc i : Nat) : revFrom x w n acc / 2 ^ (w * i) % 2 ^ w =
    if i < n then x / 2 ^ (w * (n - 1 - i)) % 2 ^ w else acc / 2 ^ (w * (i - n)) % 2 ^ w := by
  have hpos : 0 < 2 ^ w := Nat.two_pow_pos w
  have hsplit (y k : Nat) : y / 2 ^ (w * (k + 1)) = y / 2 ^ w / 2 ^ (w * k) := by
    rw [Nat.div_div_eq_div_mul, ← Nat.pow_add, Nat.mul_succ, Nat.add_comm]
  induction n generalizing x acc with
  | zero => simp [revFrom]
  | succ n ih =>
    rw [revFrom, ih]
    rcases Nat.lt_trichotomy i n with h | rfl | h
    · rw [if_pos h, if_pos (by omega), show n + 1 - 1 - i = (n - 1 - i) + 1 by omega, hsplit]
    · simp
    · obtain ⟨k, rfl⟩ : ∃ k, i = n + 1 + k := ⟨i - (n + 1), by omega⟩
      rw [if_neg (by omega), if_neg (by omega), show n + 1 + k - n = k + 1 by omega, show n + 1 + k - (n + 1) = k by omega, hsplit,
        Nat.mul_comm acc, Nat.mul_add_div hpos, Nat.div_eq_of_lt (Nat.mod_lt _ hpos), Nat.add_zero]

theorem testBit_part {x w i r : Nat} (hr : r < w) : (x / 2 ^ (w * i) % 2 ^ w).testBit r = x.testBit (w * i + r) := by
  rw [Nat.testBit_mod_two_pow, decide_eq_true hr, Bool.true_and, Nat.testBit_div_two_pow, Nat.add_comm]

/-- Bit r of part i of a reversed value of n parts. -/
theorem revFrom_bit {w n x i r : Nat} (hr : r < w) (hi : i < n) :
    (revFrom x w n 0).testBit (w * i + r) = x.testBit (w * (n - 1 - i) + r) := by
  rw [← testBit_part hr, revFrom_part, if_pos hi, testBit_part hr]

/-- The word of a value reversed in parts, bit by bit. -/
theorem ofNat_revFrom_eq {w n : Nat} (hw : 0 < w) (hn : w * n = 64) {x v : Word}
    (hv : ∀ j, j < 64 → v.getLsbD j = x.getLsbD (w * (n - 1 - j / w) + j % w)) : v = BitVec.ofNat 64 (revFrom x.toNat w n 0) := by
  refine BitVec.eq_of_getLsbD_eq fun j hj => ?_
  have hpart : j / w < n := (Nat.div_lt_iff_lt_mul hw).2 (by rw [Nat.mul_comm]; omega)
  rw [hv j hj, BitVec.getLsbD_ofNat, decide_eq_true hj, Bool.true_and]
  conv_rhs => rw [← Nat.div_add_mod j w]
  exact (revFrom_bit (Nat.mod_lt _ hw) hpart).symm

end Sys2Proof.Machine

open Sys2Proof Sys2Proof.Machine in
/-- Settles O10: the counts and reversals are the only words with their properties, bit by bit. -/
theorem oneOperandResults : Obligations.OneOperandResults := by
  unfold Obligations.OneOperandResults
  intro d a
  refine ⟨?neg, ?not, ?clz, ?ctz, ?popc, ?brev, ?bswap, ?sextb, ?sexth, ?sextw, ?zextb, ?zexth, ?zextw⟩
  case neg => exact .of_alu (fun _ _ => rfl) fun _ y => (BitVec.zero_sub y).symm
  case not => exact .of_alu (fun _ _ => rfl) fun _ y => (BitVec.xor_allOnes).symm
  case clz => exact .of_alu (fun _ _ => rfl) fun y v hv => ZerosBefore.word (b := fun j => y.getLsbD (63 - j)) hv (clzWord_zeros y)
  case ctz => exact .of_alu (fun _ _ => rfl) fun y v hv => ZerosBefore.word (b := y.getLsbD) hv (ctzFrom_spec 64 y.toNat)
  case popc =>
    refine .of_alu (fun _ _ => rfl) fun y v hv => BitVec.eq_of_toNat_eq ?_
    have hpop : popWord y = v.toNat := (popFrom_eq 64 y.toNat).trans hv.symm
    rw [hpop, BitVec.toNat_ofNat, Nat.mod_eq_of_lt v.isLt]
  case brev =>
    refine .of_alu (fun _ _ => rfl) fun y v hv => ofNat_revFrom_eq (by decide) (by decide) fun j hj => ?_
    rw [hv j hj]
    congr 1
    omega
  case bswap => exact .of_alu (fun _ _ => rfl) fun y v hv => ofNat_revFrom_eq (by decide) (by decide) hv
  case sextb => exact .of_alu (fun _ _ => rfl) fun _ y => sextWord_eq y (by decide)
  case sexth => exact .of_alu (fun _ _ => rfl) fun _ y => sextWord_eq y (by decide)
  case sextw => exact .of_alu (fun _ _ => rfl) fun _ y => sextWord_eq y (by decide)
  case zextb => exact .of_alu (fun _ _ => rfl) fun _ y => zextWord_eq y _ rfl
  case zexth => exact .of_alu (fun _ _ => rfl) fun _ y => zextWord_eq y _ rfl
  case zextw => exact .of_alu (fun _ _ => rfl) fun _ y => zextWord_eq y _ rfl
end

section
/-! PROOF. O13: what a register or immediate sequence leaves unchanged (R99 to R103). -/

namespace Sys2Proof.Machine

/-- The executing core after a register or immediate sequence with destination d that completes or waits. -/
structure Core.ScalarStep (k : Core) (d : Fin 16) (k' : Core) : Prop where
  rest : k.sameButScalars k'
  regs : ∀ r : Fin 16, r ≠ d → k'.getG r = k.getG r
  bq : k'.bq.take k.bq.length = k.bq
  dq : k'.dq = k.dq ∨ ∃ x, k.dq = x :: k'.dq

theorem Core.ScalarStep.advance {k k' : Core} {d : Fin 16} (h : k.ScalarStep d k') (p : Pfx) : k.ScalarStep d (k'.advance p) :=
  ⟨h.rest, h.regs, h.bq, h.dq⟩

theorem Core.ScalarStep.tick (k : Core) (d : Fin 16) (n : Nat) : k.ScalarStep d (k.tick n) :=
  ⟨rfl, fun _ _ => rfl, List.take_length, .inl rfl⟩

theorem Core.ScalarStep.setG (k : Core) (d : Fin 16) (v : Word) : k.ScalarStep d (k.setG d v) :=
  ⟨rfl, fun r hr => k.getG_setG_other d r v hr, List.take_length, .inl rfl⟩

/-- The last source takes an entry of dq, or nothing. -/
theorem Core.lastSource.scalarStep {k k' : Core} {p : Pfx} {last : Fin 16} {y : Word} (h : k.lastSource p last y k') (d : Fin 16) :
    k.ScalarStep d k' := by
  rcases h with ⟨-, -, rfl⟩ | ⟨-, n, q, hq, rfl⟩
  · exact ⟨rfl, fun _ _ => rfl, List.take_length, .inl rfl⟩
  · exact ⟨rfl, fun _ _ => rfl, List.take_length, .inr ⟨_, hq⟩⟩

/-- The result goes to the destination, or behind the entries of bq. -/
theorem Core.ScalarStep.result {k k' k'' : Core} {p : Pfx} {d : Fin 16} {v : Word} (h : k.ScalarStep d k') (hd : k'.resultTo p d v k'') :
    k.ScalarStep d k'' := by
  rcases hd with ⟨-, rfl⟩ | ⟨-, -, rfl⟩
  · exact ⟨h.rest, fun r hr => (k'.getG_setG_other d r v hr).trans (h.regs r hr), h.bq, h.dq⟩
  · have hlen : k.bq.length ≤ k'.bq.length := by rw [← h.bq]; exact (List.length_take_le' _ _)
    exact ⟨h.rest, h.regs, (List.take_append_of_le_length hlen).trans h.bq, h.dq⟩

/-- Every sequence with a scalar destination is a register operation, or writes a value of the core and completes. -/
theorem Instr.scalarDest_exec {i : Instr} {d : Fin 16} (h : i.scalarDest = some d) (s : State) :
    (∃ p last f, exec i s = s.alu p d last f) ∨ ∃ p v, exec i s = .next (s.setMe ((s.me.setG d v).advance p)) := by
  unfold Instr.scalarDest at h
  split at h
  case h_52 => cases h
  case h_1 | h_2 | h_3 => cases h; exact .inr ⟨_, _, State.finish_setMe s _ _⟩
  all_goals cases h; exact .inl ⟨_, _, _, rfl⟩

end Sys2Proof.Machine

open Sys2Proof Sys2Proof.Machine in
/-- Settles O13: a register operation completes, waits a cycle or traps, and a trap ends the handler. -/
theorem scalarFrame : Obligations.ScalarFrame := by
  unfold Obligations.ScalarFrame
  intro i d s t hdest hhid hexec hgoes
  suffices h : ∃ k, t = s.setMe k ∧ s.me.ScalarStep d k by
    obtain ⟨k, rfl, hk⟩ := h
    have hcore : (s.setMe k).core s.cur = k := s.me_setMe k
    rw [hcore]
    exact ⟨rfl, hk.rest, hk.regs, hk.bq, hk.dq, fun _ => ⟨rfl, rfl⟩⟩
  rcases Instr.scalarDest_exec hdest s with ⟨p, last, f, he⟩ | ⟨p, v, he⟩
  case inl =>
    rw [he] at hexec
    rcases s.alu_cases p d last f with ⟨y, k, k', hsrc, hres, ha⟩ | ha | ⟨c, ha⟩
    case inl =>
      rw [ha] at hexec
      cases hexec
      exact ⟨_, rfl, ((hsrc.scalarStep d).result hres).advance p⟩
    case inr.inl =>
      rw [ha] at hexec
      cases hexec
      exact ⟨_, rfl, .tick s.me d 1⟩
    case inr.inr => exact absurd hgoes (State.trapMe_hid (ha.symm.trans hexec) hhid)
  case inr =>
    rw [he] at hexec
    cases hexec
    exact ⟨_, rfl, (Core.ScalarStep.setG s.me d v).advance p⟩
end

section
/-! PROOF. O16, O19 and O21: software traps, what RDC reads and what is refused (R39, R61, R62, R91 to R93, R95, R98, R109,
R110, R275). -/

namespace Sys2Proof.Machine

variable {s : State} {p : Pfx} {a d : Fin 16} {n : Nat}

/-! ### Events leave memory as it is -/

@[simp] theorem State.event_mem (s : State) (cls : EventClass) (site part detail : Nat) : (s.event cls site part detail).mem = s.mem := by
  unfold State.event
  dsimp only
  split <;> rfl

/-! ### BRK (R109, R110) -/

theorem exec_brk_traps (h : (s.part s.me.part).dbg.contains s.me.enc = false) :
    exec (.brk p n) s = .next (s.trap s.cur { cause := 0x13, code := n }) := if_neg (by rw [h]; decide)

/-- With debug halt enabled the core halts past the BRK, and the host learns of it. -/
theorem exec_brk_halts (h : (s.part s.me.part).dbg.contains s.me.enc = true) (hpend : ∀ r : Fin 16, s.gPending s.cur r = false) :
    exec (.brk p n) s =
      .next ((s.setMe { s.me with pc := s.me.nextPc p, slot := none, run := .halted (1 + p.stall) }).event .brk s.cur s.me.part n) := by
  have hnone : (List.range 16).any (fun d => s.gPending s.cur (Fin.ofNat 16 d)) = false := by simp [hpend]
  refine (if_pos h).trans (if_neg ?_)
  rw [hnone]
  decide

/-! ### The budget (R93) -/

theorem exec_budgetExpiry (h : s.me.run = .running) (hleft : s.me.left = 0) :
    exec .budgetExpiry s = .next (s.trap s.cur { cause := 0x11 }) := by
  show execBudgetExpiry s = _
  simp only [execBudgetExpiry, h, hleft, decide_true, Bool.and_self, if_true]
  rfl

theorem exec_budgetExpiry_left (hleft : s.me.left ≠ 0) : exec .budgetExpiry s = .next s := by
  show execBudgetExpiry s = _
  simp only [execBudgetExpiry, hleft, decide_false, Bool.and_false, Bool.false_eq_true, if_false]

/-! ### Control registers read (R91) -/

/-- Only VTYPE and BS wait for the engines. -/
theorem State.enginesBusy_other (h12 : n ≠ 12) (h13 : n ≠ 13) : s.enginesBusy n = false := by
  simp [State.enginesBusy, h12, h13]

theorem State.enginesBusy_vtype (hpend : s.page1Pending s.cur = false) (hbal : s.me.bal = none) : s.enginesBusy 12 = false := by
  simp [State.enginesBusy, hpend, hbal]

theorem State.enginesBusy_bs (hbal : s.me.bal = none) : s.enginesBusy 13 = false := by
  simp [State.enginesBusy, hbal]

/-- RDC of a register that is not busy, with what the read leaves of it. -/
theorem State.rdc_reads (h : s.enginesBusy n = false) :
    s.rdc p d n = .next (s.setMe (((s.me.setCx (s.cx.afterRead n)).setG d (s.me.cr n)).advance p)) := by
  rw [State.rdc, h]
  exact State.finish_setMe s p _

theorem Core.cr_fmt (k : Core) (i : Fin 16) : k.cr (16 + i.val) = k.cx.fmt[i] := by
  have hi : Fin.ofNat 16 (16 + i.val - 16) = i := by rw [Nat.add_sub_cancel_left]; exact Fin.ofNat_val_eq_self i
  have hne (m : Nat) (hm : m < 16) : ¬ 16 + i.val = m := by omega
  simp only [Core.cr, hne, hi, Nat.reduceLT, if_false, Nat.not_lt.2 (Nat.le_add_right 16 i.val)]

/-! ### Control registers written (R92) -/

section
variable {c : Nat} {f : Word} {k : Core} {t : State}

/-- WRC of a register that is not busy, by what its checks say. -/
theorem State.wrc_traps (h : s.enginesBusy n = false) (hw : s.crWrite n (s.me.getG a) = .trap c) :
    s.wrc p a n = .next (s.trap s.cur { cause := c }) := by
  simp only [State.wrc, h, Bool.false_eq_true, if_false, hw]
  rfl

theorem State.wrc_faults (h : s.enginesBusy n = false) (hw : s.crWrite n (s.me.getG a) = .fault c f) :
    s.wrc p a n = .next (s.trap s.cur { cause := c, faddr := f }) := by
  simp only [State.wrc, h, Bool.false_eq_true, if_false, hw]
  rfl

theorem State.wrc_writes (h : s.enginesBusy n = false) (hw : s.crWrite n (s.me.getG a) = .ok k) :
    s.wrc p a n = .next (s.setMe (k.advance p)) := by
  simp only [State.wrc, h, Bool.false_eq_true, if_false, hw, State.finish_setMe]

theorem State.wrc_moves (h : s.enginesBusy n = false) (hw : s.crWrite n (s.me.getG a) = .all t) : s.wrc p a n = t.finish p := by
  simp only [State.wrc, h, Bool.false_eq_true, if_false, hw]

end

/-- A register that software never writes. -/
theorem State.crWrite_protected (v : Word) (h3 : 3 ≤ n) (h11 : n ≤ 11) : s.crWrite n v = .trap 3 := by
  simp only [State.crWrite, show ¬ n = 0 by omega, show ¬ n = 1 by omega, show ¬ n = 2 by omega, show n < 12 by omega, if_false, if_true]
  rfl

theorem State.crWrite_fmt (v : Word) (i : Fin 16) :
    s.crWrite (16 + i.val) v = if s.privileged s.cur then s.me.wrcFmt i v else .trap 2 := by
  have hi : Fin.ofNat 16 (16 + i.val - 16) = i := by rw [Nat.add_sub_cancel_left]; exact Fin.ofNat_val_eq_self i
  have hne (m : Nat) (hm : m < 16) : ¬ 16 + i.val = m := by omega
  simp only [State.crWrite, hne, hi, Nat.reduceLT, if_false, Nat.not_lt.2 (Nat.le_add_right 16 i.val),
    show ¬ 16 + i.val < 12 by omega]
  rfl

/-- What the supervisor enclave alone may write traps elsewhere (R92). -/
theorem exec_wrc_hb_unprivileged (hpriv : s.privileged s.cur = false) (h : bitsOf (s.me.getG a) 31 0 ≠ s.cx.hbDef) :
    exec (.wrc p a 1) s = .next (s.trap s.cur { cause := 2 }) := by
  refine State.wrc_traps (n := 1) (State.enginesBusy_other (by decide) (by decide)) (if_pos ?_)
  rw [hpriv]
  exact bne_iff_ne.2 h

theorem exec_wrcSmc_unprivileged (hpriv : s.privileged s.cur = false) (h : bitsOf (s.me.getG a) 3 2 ≠ bitsOf s.cx.smc 3 2) :
    exec (.wrcSmc p a) s = .next (s.trap s.cur { cause := 2 }) := by
  refine State.wrc_traps (n := 14) (State.enginesBusy_other (by decide) (by decide)) (if_pos ?_)
  rw [hpriv]
  exact bne_iff_ne.2 h

/-! ### Monitor calls (R279) -/

theorem serviceStep_isSome {m : Nat} (h : m < 13) : ∃ i, (m, i) ∈ services := by
  have hall : ∀ m : Fin 13, ∃ x ∈ services, x.1 = m.val := by decide
  obtain ⟨⟨m', i⟩, hi, rfl⟩ := hall ⟨m, h⟩
  exact ⟨i, hi⟩

/-- A service that is not every enclave's. -/
theorem exec_mcall_unprivileged {m : Nat} (hpriv : s.privileged s.cur = false) (hm : (s.me.getG a).toNat = m) (h13 : m < 13)
    (h0 : m ≠ 0) (h10 : m ≠ 10) : exec (.mcall p a) s = .next (s.trap s.cur { cause := 2 }) := by
  obtain ⟨i, hi⟩ := serviceStep_isSome h13
  have hcaller : (!anyCaller m && !s.privileged s.cur) = true := by simp [anyCaller, h0, h10, hpriv]
  show execMcall p a s = _
  simp only [execMcall, hm, serviceStep_of_mem hi, hcaller, if_true]
  rfl

theorem exec_mcall_unknown (h : 13 ≤ (s.me.getG a).toNat) : exec (.mcall p a) s = .next (s.trap s.cur { cause := 0x70 }) := by
  have hnone : serviceStep (s.me.getG a).toNat = none := by
    obtain ⟨m, hm⟩ := Nat.exists_eq_add_of_le' h
    rw [hm]
    rfl
  show execMcall p a s = _
  simp only [execMcall, hnone]
  rfl

end Sys2Proof.Machine

open Sys2Proof Sys2Proof.Machine in
/-- Settles O16: every clause is the instruction's own meaning; BRK by whether its enclave's debug halt is enabled. -/
theorem softwareTraps : Obligations.SoftwareTraps := by
  unfold Obligations.SoftwareTraps
  intro s p n
  refine ⟨rfl, exec_brk_traps, fun hdbg hpend => ⟨_, exec_brk_halts hdbg hpend, ?core, State.event_mem _ _ _ _ _⟩, fun _ _ => rfl,
    fun _ _ _ => rfl, fun _ _ => rfl, exec_budgetExpiry, exec_budgetExpiry_left⟩
  case core =>
    rw [State.core_of_cores (State.event_cores _ _ _ _ _)]
    exact s.me_setMe _

open Sys2Proof Sys2Proof.Machine in
/-- Settles O19: one read for all registers, which clears SBCNT and KMC. -/
theorem controlRegisterReads : Obligations.ControlRegisterReads := by
  unfold Obligations.ControlRegisterReads
  intro s p d
  have hread (n : Nat) (h12 : n ≠ 12) (h13 : n ≠ 13) : exec (.rdc p d n) s =
      .next (s.setMe (((s.me.setCx (s.cx.afterRead n)).setG d (s.me.cr n)).advance p)) := State.rdc_reads (State.enginesBusy_other h12 h13)
  refine ⟨?plain, ?fmt, ?vtype, ?bs, rfl, rfl, hread 3 (by decide) (by decide), hread 7 (by decide) (by decide)⟩
  case plain =>
    intro n v h
    simp only [List.mem_cons, Prod.mk.injEq, List.not_mem_nil, or_false] at h
    rcases h with ⟨rfl, rfl⟩ | ⟨rfl, rfl⟩ | ⟨rfl, rfl⟩ | ⟨rfl, rfl⟩ | ⟨rfl, rfl⟩ | ⟨rfl, rfl⟩ | ⟨rfl, rfl⟩ | ⟨rfl, rfl⟩ | ⟨rfl, rfl⟩ |
      ⟨rfl, rfl⟩ | ⟨rfl, rfl⟩
    all_goals exact hread _ (by decide) (by decide)
  case fmt =>
    intro i
    have h := hread (16 + i.val) (by omega) (by omega)
    have hcx : s.cx.afterRead (16 + i.val) = s.cx := by
      simp only [Ctx.afterRead, show ¬ 16 + i.val = 3 by omega, show ¬ 16 + i.val = 7 by omega, if_false]
    rw [Core.cr_fmt, hcx] at h
    exact h
  case vtype => exact fun hpend hbal => State.rdc_reads (State.enginesBusy_vtype hpend hbal)
  case bs => exact fun hbal => State.rdc_reads (State.enginesBusy_bs hbal)

open Sys2Proof Sys2Proof.Machine in
/-- Settles O21: the checks of each form, the first of which is the enclave's. -/
theorem privilegeTraps : Obligations.PrivilegeTraps := by
  unfold Obligations.PrivilegeTraps
  intro s p a
  refine ⟨?crprot, ?crval, fun hpriv => ?priv, exec_mcall_unknown⟩
  case crprot =>
    exact fun n h3 h11 => State.wrc_traps (State.enginesBusy_other (by omega) (by omega)) (State.crWrite_protected _ h3 h11)
  case crval => exact fun h => State.wrc_traps (n := 2) (State.enginesBusy_other (by decide) (by decide)) (if_pos h)
  case priv =>
    have hnot : (!s.privileged s.cur) = true := by rw [hpriv]; rfl
    refine ⟨?wp, ?fmt, exec_wrc_hb_unprivileged hpriv, exec_wrcSmc_unprivileged hpriv, if_pos hnot, if_pos hnot, if_pos hnot,
      if_pos hnot, fun n hn h13 h0 h10 => exec_mcall_unprivileged hpriv hn h13 h0 h10⟩
    case wp =>
      refine State.wrc_traps (n := 0) (State.enginesBusy_other (by decide) (by decide)) (if_neg ?_)
      rw [hpriv]
      decide
    case fmt =>
      refine fun i => State.wrc_traps (State.enginesBusy_other (by omega) (by omega)) ((State.crWrite_fmt _ i).trans (if_neg ?_))
      rw [hpriv]
      decide
end

section
/-! PROOF. O20: what WRC writes to each control register (R86, R87, R92, R93, R132, R164, R165, R187, R259). -/

namespace Sys2Proof.Machine

/-! ### Fields of a masked value -/

/-- A field that the first mask leaves out and the second keeps is the second value's. -/
theorem bitsOf_masked {x y m n : Word} {hi lo : Nat} (h : ∀ j, j < hi + 1 → lo ≤ j → m.getLsbD j = false ∧ n.getLsbD j = true) :
    bitsOf (x &&& m ||| y &&& n) hi lo = bitsOf y hi lo := by
  refine bitsOf_congr fun j hlo hhi => ?_
  obtain ⟨hm, hn⟩ := h j (Nat.lt_succ_of_le hhi) hlo
  rw [BitVec.getLsbD_or, BitVec.getLsbD_and, BitVec.getLsbD_and, hm, hn, Bool.and_false, Bool.and_true, Bool.false_or]

/-- The bits of a number that another one does not take away. -/
theorem testBit_sub_and (x y j : Nat) : (x - (x &&& y)).testBit j = (x.testBit j && !y.testBit j) := by
  have hodd : (x &&& y) % 2 = 1 ↔ x % 2 = 1 ∧ y % 2 = 1 := Nat.and_mod_two_eq_one
  have hle : x &&& y ≤ x := Nat.and_le_left
  induction j generalizing x y with
  | zero =>
    rw [Bool.eq_iff_iff]
    simp only [Nat.testBit_zero, Bool.and_eq_true, Bool.not_eq_true', decide_eq_true_eq, decide_eq_false_iff_not]
    omega
  | succ j ih =>
    have hhalf : (x - (x &&& y)) / 2 = x / 2 - (x / 2 &&& y / 2) := by
      rw [← Nat.and_div_two]
      omega
    rw [Nat.testBit_succ, Nat.testBit_succ, Nat.testBit_succ, hhalf, ih _ _ Nat.and_mod_two_eq_one Nat.and_le_left]

/-! ### VTYPE (R187) -/

/-- The bits of VTYPE after a write: fields as they are masked, and flags that the value does not clear. -/
theorem vtypeWrite_field (old new : Word) {j : Nat} (h : j < 48) :
    (vtypeWrite old new).getLsbD j = (new.getLsbD j && (0x73f3f77 : Word).getLsbD j) := by
  rw [vtypeWrite, BitVec.getLsbD_or, BitVec.getLsbD_and, BitVec.getLsbD_ofNat, Nat.testBit_mul_two_pow, decide_eq_false (Nat.not_le.2 h)]
  simp

theorem vtypeWrite_flag (old new : Word) {j : Nat} (h : j < 16) : (vtypeWrite old new).getLsbD (48 + j) =
    (decide (j < 7) && (old.getLsbD (48 + j) && !new.getLsbD (48 + j))) := by
  have hmask : ∀ j, j < 16 → (0x73f3f77 : Word).getLsbD (48 + j) = false := by decide
  rw [vtypeWrite, BitVec.getLsbD_or, BitVec.getLsbD_and, hmask j h, Bool.and_false, Bool.false_or, BitVec.getLsbD_ofNat,
    Nat.testBit_mul_two_pow, flagsAfterWrite, Nat.add_sub_cancel_left, testBit_sub_and, bitsOf_testBit, bitsOf_testBit]
  by_cases h7 : j < 7 <;> simp [h7, show 48 + j < 64 by omega]

/-! ### The registers other than WP -/

section
variable {s : State} {p : Pfx} {a : Fin 16}

theorem exec_wrc_hb {n : Nat} (hn : n = bitsOf (s.me.getG a) 31 0) (h0 : n ≠ 0) (hmay : s.privileged s.cur = true ∨ n = s.cx.hbDef) :
    exec (.wrc p a 1) s = .next (s.setMe ((s.me.setCx { s.cx with hbDef := n }).advance p)) := by
  subst hn
  refine State.wrc_writes (n := 1) (State.enginesBusy_other (by decide) (by decide)) ?_
  have hpriv : (!s.privileged s.cur && bitsOf (s.me.getG a) 31 0 != s.me.cx.hbDef) = false := by
    rcases hmay with h | h
    · rw [h]; rfl
    · rw [h]; exact Bool.and_eq_false_imp.2 fun _ => bne_self_eq_false _
  show s.me.wrcHb (s.privileged s.cur) (s.me.getG a) = _
  simp only [Core.wrcHb, hpriv, Bool.false_eq_true, if_false, h0]
  rfl

theorem exec_wrc_sbm (h : bitsOf (s.me.getG a) 1 0 ≠ 3) :
    exec (.wrc p a 2) s = .next (s.setMe ((s.me.setCx { s.cx with sbm := s.me.getG a &&& 3 }).advance p)) :=
  State.wrc_writes (n := 2) (State.enginesBusy_other (by decide) (by decide)) (if_neg h)

theorem exec_wrcVtype (hpend : s.page1Pending s.cur = false) (hbal : s.me.bal = none) : exec (.wrcVtype p a) s =
    .next (s.setMe ((s.me.setCx { s.cx with vtype := vtypeWrite s.cx.vtype (s.me.getG a) }).advance p)) :=
  State.wrc_writes (n := 12) (State.enginesBusy_vtype hpend hbal) rfl

/-- BS keeps ST, EMPTY and SWEEPS. -/
theorem exec_wrcBs (hbal : s.me.bal = none) (hsign : (s.me.getG a).msb = false) (hmax : bitsOf (s.me.getG a) 31 20 ≠ 0)
    (hnan : (d32 (bitsOf (s.me.getG a) 63 32)).isNan = false) : exec (.wrcBs p a) s =
    .next (s.setMe ((s.me.setCx { s.cx with bs := s.cx.bs &&& 0x38fff ||| s.me.getG a &&& 0xfffffffffff00000 }).advance p)) := by
  have hbit : bitOf (s.me.getG a) 63 = false := by rw [bitOf_getLsbD, ← hsign]; rfl
  refine State.wrc_writes (n := 13) (State.enginesBusy_bs hbal) (if_neg ?_)
  simp [hbit, hnan, hmax]

/-- SMC keeps DROPS. -/
theorem exec_wrcSmc (hthr : bitsOf (s.me.getG a) 21 16 ≤ 32)
    (hmay : s.privileged s.cur = true ∨ bitsOf (s.me.getG a) 3 2 = bitsOf s.cx.smc 3 2) : exec (.wrcSmc p a) s =
    .next (s.setMe ((s.me.setCx { s.cx with smc := s.cx.smc &&& 0xffff00000000 ||| s.me.getG a &&& 0x3f000d }).advance p)) := by
  refine State.wrc_writes (n := 14) (State.enginesBusy_other (by decide) (by decide)) ?_
  have hpriv : (!s.privileged s.cur && bitsOf (s.me.getG a) 3 2 != bitsOf s.me.cx.smc 3 2) = false := by
    rcases hmay with h | h
    · rw [h]; rfl
    · exact Bool.and_eq_false_imp.2 fun _ => bne_eq_false_iff_eq.2 h
  show s.me.wrcSmc (s.privileged s.cur) (s.me.getG a) = _
  simp only [Core.wrcSmc, hpriv, Bool.false_eq_true, if_false, Nat.not_lt.2 hthr]
  rfl

theorem exec_wrcFmt {i : Fin 16} (hpriv : s.privileged s.cur = true)
    (hgood : bitOf (s.me.getG a) 31 = true → fmtBad i.val (s.me.getG a) = false) : exec (.wrcFmt p a i) s = .next (s.setMe ((s.me.setCx
      { s.cx with fmt := s.cx.fmt.set i (if bitOf (s.me.getG a) 31 then s.me.getG a &&& 0x8ffffffe else 0) }).advance p)) := by
  refine State.wrc_writes (n := 16 + i.val) (State.enginesBusy_other (by omega) (by omega)) ?_
  have hbad : (bitOf (s.me.getG a) 31 && fmtBad i.val (s.me.getG a)) = false := Bool.and_eq_false_imp.2 hgood
  rw [State.crWrite_fmt, hpriv, if_pos rfl, Core.wrcFmt, hbad]
  rfl

end

/-! ### Bytes written to banks (R156) -/

theorem leBytes_getD (n x : Nat) {j : Nat} (h : j < n) : (leBytes n x).getD j 0 = byteAt x j := by
  induction n generalizing x j with
  | zero => exact absurd h (Nat.not_lt_zero j)
  | succ n ih =>
    cases j with
    | zero => simp [leBytes, byteAt]
    | succ j =>
      rw [leBytes, List.getD_cons_succ, ih _ (Nat.lt_of_succ_lt_succ h), byteAt, byteAt, Nat.div_div_eq_div_mul, Nat.mul_succ,
        Nat.add_comm, Nat.pow_add]

/-- Bytes written in a row clear the poison of the doublewords that they cover whole, and of no other. -/
theorem mem_clearPoison_cellsAt {ps : List Nat} {b : Nat} {bs : List Byte} (d : Nat) :
    d ∈ clearPoison ps (cellsAt b bs) ↔ d ∈ ps ∧ ¬ (b ≤ d * 8 ∧ d * 8 + 8 ≤ b + bs.length) := by
  have hcover : (List.range 8).all (fun i => (cellsAt b bs).any (fun c => c.1 == d * 8 + i)) = true ↔
      b ≤ d * 8 ∧ d * 8 + 8 ≤ b + bs.length := by
    constructor
    · intro h
      have hcell (i : Nat) (hi : i < 8) : b ≤ d * 8 + i ∧ d * 8 + i < b + bs.length := by
        obtain ⟨c, hc, he⟩ := List.any_eq_true.1 (List.all_eq_true.1 h i (List.mem_range.2 hi))
        exact beq_iff_eq.1 he ▸ mem_cellsAt hc
      have hfirst := hcell 0 (by decide)
      have hlast := hcell 7 (by decide)
      omega
    · intro h
      refine List.all_eq_true.2 fun i hi => List.any_eq_true.2 ?_
      have hi := List.mem_range.1 hi
      obtain ⟨x, hx⟩ := cellsAt_mem b bs (j := d * 8 + i - b) (by omega)
      exact ⟨_, hx, beq_iff_eq.2 (show b + (d * 8 + i - b) = d * 8 + i by omega)⟩
  rw [clearPoison, List.mem_filter, ← hcover, Bool.not_eq_true']
  exact and_congr_right fun _ => Bool.not_eq_true _ ▸ Iff.rfl

/-- The bytes of a list of doublewords. -/
theorem wordBytes_length (l : List Word) : (l.flatMap (fun x => leBytes 8 x.toNat)).length = 8 * l.length := by
  induction l with
  | nil => rfl
  | cons x l ih => rw [List.flatMap_cons, List.length_append, ih, leBytes_length, List.length_cons]; omega

theorem wordBytes_getD (l : List Word) {j : Nat} (h : j < 8 * l.length) :
    (l.flatMap (fun x => leBytes 8 x.toNat)).getD j 0 = byteAt (l.getD (j / 8) 0).toNat (j % 8) := by
  induction l generalizing j with
  | nil => exact absurd h (Nat.not_lt_zero j)
  | cons x l ih =>
    rw [List.flatMap_cons]
    by_cases hj : j < 8
    · rw [List.getD_append _ _ _ _ (by rwa [leBytes_length]), leBytes_getD _ _ hj, Nat.div_eq_of_lt hj, Nat.mod_eq_of_lt hj, List.getD_cons_zero]
    · obtain ⟨k, rfl⟩ : ∃ k, j = 8 + k := ⟨j - 8, by omega⟩
      rw [List.getD_append_right _ _ _ _ (by rw [leBytes_length]; omega), leBytes_length, Nat.add_sub_cancel_left,
        ih (by rw [List.length_cons] at h; omega), Nat.add_div_left _ (by decide), List.getD_cons_succ, Nat.add_mod_left]

theorem gBytes_length (g : Vector Word 16) : (gBytes g).length = 128 := by
  rw [gBytes, wordBytes_length, Vector.length_toList]

/-- Byte j of the registers' 128. -/
theorem gBytes_getD (k : Core) {j : Nat} (h : j < 128) : (gBytes k.g).getD j 0 = byteAt (k.getG (Fin.ofNat 16 (j / 8))).toNat (j % 8) := by
  have hreg : j / 8 < 16 := by omega
  rw [gBytes, wordBytes_getD _ (by rwa [Vector.length_toList]), Core.getG]
  simp [List.getD_eq_getElem?_getD, hreg, Nat.mod_eq_of_lt hreg]

/-! ### WP (R86, R87) -/

section
variable {s : State} {p : Pfx} {a : Fin 16} {wp e old : Word}

theorem Ctx.wsKey_attached {c : Ctx} {n : Nat} (he : e = c.slot (n / 4096)) (hst : bitsOf e 33 32 = 1) :
    c.wsKey n = some (slotBank e * 4096 + n % 4096) := by
  subst he
  exact if_pos hst

/-- The old workspace is written back to its bank. -/
theorem State.saveWs_attached (hold : old = s.cx.slot (s.cx.wp.toNat / 4096)) (hst : bitsOf old 33 32 = 1) :
    s.saveWs = s.bankCells (cellsAt (slotBank old * 4096 + s.cx.wp.toNat % 4096) (gBytes s.me.g)) := by
  simp only [State.saveWs, Ctx.wsKey_attached hold hst]

/-- A write of WP in the supervisor enclave is the move of the workspace. -/
theorem State.crWrite_wp (hpriv : s.privileged s.cur = true) (v : Word) : s.crWrite 0 v = s.wrcWp v := if_pos hpriv

/-- The executing core with its workspace elsewhere. -/
def Core.movedTo (k : Core) (wp : Word) (g : Vector Word 16) : Core := { k.setCx { k.cx with wp := wp } with g := g }

theorem exec_wrcWp_low (hpriv : s.privileged s.cur = true) (h : bitsOf (s.me.getG a) 20 12 < 496) :
    exec (.wrcWp p a) s = .next (s.trap s.cur { cause := 4 }) :=
  State.wrc_traps (n := 0) (State.enginesBusy_other (by decide) (by decide)) ((State.crWrite_wp hpriv _).trans (if_pos h))

variable (hwp : wp = s.me.getG a &&& 0x1fff80) (hhigh : 496 ≤ bitsOf (s.me.getG a) 20 12) (he : e = s.cx.slot (wp.toNat / 4096))
include hwp hhigh he

theorem exec_wrcWp_detached (hpriv : s.privileged s.cur = true) (hst : bitsOf e 33 32 ≠ 1) :
    exec (.wrcWp p a) s = .next (s.trap s.cur { cause := 9, faddr := wp }) := by
  have hnone : s.cx.wsKey wp.toNat = none := by subst he; exact if_neg hst
  refine State.wrc_faults (n := 0) (State.enginesBusy_other (by decide) (by decide)) ((State.crWrite_wp hpriv _).trans ?_)
  rw [State.wrcWp, if_neg (Nat.not_lt.2 hhigh), ← hwp, hnone]
  rfl

variable {oldKey key : Nat} (hold : old = s.cx.slot (s.cx.wp.toNat / 4096)) (holdKey : oldKey = slotBank old * 4096 + s.cx.wp.toNat % 4096)
  (hkey : key = slotBank e * 4096 + wp.toNat % 4096) (hste : bitsOf e 33 32 = 1) (hsto : bitsOf old 33 32 = 1)
include hold holdKey hkey hste hsto

/-- A workspace with a bank: the registers go back to the old one, whose doublewords the check then sees. -/
theorem State.wrcWp_attached : s.wrcWp (s.me.getG a) = match (s.bankCells (cellsAt oldKey (gBytes s.me.g))).wsPoison key with
    | some i => .fault 0x47 (wp + BitVec.ofNat 64 (8 * i))
    | none => .all ((s.bankCells (cellsAt oldKey (gBytes s.me.g))).setMe
        (s.me.movedTo wp ((s.bankCells (cellsAt oldKey (gBytes s.me.g))).loadWs key))) := by
  rw [State.wrcWp, if_neg (Nat.not_lt.2 hhigh), ← hwp, Ctx.wsKey_attached he hste, State.saveWs_attached hold hsto, ← holdKey, ← hkey]
  rfl

/-- A workspace without poison is read from its bank, and the old one is in its own. -/
theorem exec_wrcWp_moves (hpriv : s.privileged s.cur = true) (hclean : ∀ i, i < 16 → s.bpoison.contains (key / 8 + i) = false) :
    exec (.wrcWp p a) s = .next ((s.bankCells (cellsAt oldKey (gBytes s.me.g))).setMe
      ((s.me.movedTo wp ((s.bankCells (cellsAt oldKey (gBytes s.me.g))).loadWs key)).advance p)) := by
  have hnone : (s.bankCells (cellsAt oldKey (gBytes s.me.g))).wsPoison key = none := by
    refine List.find?_eq_none.2 fun i hi hbad => ?_
    have hmem := (mem_clearPoison_cellsAt _).1 (List.contains_iff_mem.1 hbad)
    exact Bool.false_ne_true ((hclean i (List.mem_range.1 hi)).symm.trans (List.contains_iff_mem.2 hmem.1))
  have hw := State.wrcWp_attached hwp hhigh he hold holdKey hkey hste hsto
  rw [hnone] at hw
  exact (State.wrc_moves (n := 0) (State.enginesBusy_other (by decide) (by decide)) ((State.crWrite_wp hpriv _).trans hw)).trans
    (State.finish_setMe _ _ _)

/-- The first poisoned doubleword of a workspace apart from the old one. -/
theorem exec_wrcWp_poisoned (hpriv : s.privileged s.cur = true) {i : Nat} (hi : i < 16)
    (hapart : key + 128 ≤ oldKey ∨ oldKey + 128 ≤ key) (hbad : s.bpoison.contains (key / 8 + i) = true)
    (hfirst : ∀ j, j < i → s.bpoison.contains (key / 8 + j) = false) :
    exec (.wrcWp p a) s = .next (s.trap s.cur { cause := 0x47, faddr := wp + BitVec.ofNat 64 (8 * i) }) := by
  have halign : wp.toNat % 2 ^ 7 = 0 := by
    rw [hwp, BitVec.toNat_and, Nat.and_mod_two_pow]
    exact Nat.and_zero _
  have hsome : (s.bankCells (cellsAt oldKey (gBytes s.me.g))).wsPoison key = some i := by
    refine List.find?_range_eq_some.2 ⟨List.contains_iff_mem.2 ((mem_clearPoison_cellsAt _).2 ⟨List.contains_iff_mem.1 hbad, ?_⟩),
      List.mem_range.2 hi, fun j hj => ?_⟩
    · rw [gBytes_length]
      omega
    · rw [Bool.not_eq_true', ← Bool.not_eq_true, List.contains_iff_mem]
      intro hmem
      exact Bool.false_ne_true ((hfirst j hj).symm.trans (List.contains_iff_mem.2 ((mem_clearPoison_cellsAt _).1 hmem).1))
  have hw := State.wrcWp_attached hwp hhigh he hold holdKey hkey hste hsto
  rw [hsome] at hw
  exact State.wrc_faults (n := 0) (State.enginesBusy_other (by decide) (by decide)) ((State.crWrite_wp hpriv _).trans hw)

end

end Sys2Proof.Machine

open Sys2Proof Sys2Proof.Machine in
/-- Settles O20: WP by where the new workspace lies and what its doublewords hold, the other registers by their masks. -/
theorem controlRegisterWrites : Obligations.ControlRegisterWrites := by
  unfold Obligations.ControlRegisterWrites
  intro s p a
  refine ⟨fun hpriv => ⟨exec_wrcWp_low hpriv, fun wp e old oldKey key hwp hhigh he hold holdKey hkey =>
      ⟨exec_wrcWp_detached hwp hhigh he hpriv, fun hste hsto => ⟨fun hwf hclean => ?moves, fun i hi hapart hbad hfirst =>
        exec_wrcWp_poisoned hwp hhigh he hold holdKey hkey hste hsto hpriv hi hapart hbad hfirst⟩⟩⟩,
    fun h0 hmay => exec_wrc_hb rfl h0 hmay, exec_wrc_sbm, fun hpend hbal => ⟨_, exec_wrcVtype hpend hbal, ?vtype⟩,
    fun hbal hsign hmax hnan => ⟨_, exec_wrcBs hbal hsign hmax hnan, ?bs⟩,
    fun hthr hmay => ⟨_, exec_wrcSmc hthr hmay, ?smc⟩, fun i hpriv hgood => exec_wrcFmt hpriv hgood⟩
  case moves =>
    refine ⟨_, (s.bankCells (cellsAt oldKey (gBytes s.me.g))).loadWs key, exec_wrcWp_moves hwp hhigh he hold holdKey hkey hste hsto hpriv hclean,
      rfl, fun i => ?loaded, fun j hj => ?stored, fun x hx => ?rest⟩
    case loaded => simp [State.loadWs]
    case stored =>
      refine (memRead_cellsAt _ _ hwf.2 _).trans ?_
      rw [gBytes_length, if_pos (by omega), Nat.add_sub_cancel_left, gBytes_getD _ hj]
    case rest => exact memRead_outside hwf.2 (by rwa [gBytes_length])
  case vtype =>
    refine ⟨fun j hj => vtypeWrite_field _ _ (by omega), fun j hj => ?_, fun j hj hj' => ?_⟩
    · rw [vtypeWrite_flag _ _ (by omega), decide_eq_true hj, Bool.true_and]
    · have hmask : ∀ j, j < 48 → 27 ≤ j → (0x73f3f77 : Word).getLsbD j = false := by decide
      rcases hj' with hlow | hhigh
      · rw [vtypeWrite_field _ _ hlow, hmask j hlow hj, Bool.and_false]
      · by_cases h64 : j < 64
        · rw [show j = 48 + (j - 48) by omega, vtypeWrite_flag _ _ (by omega), decide_eq_false (by omega), Bool.false_and]
        · exact BitVec.getLsbD_of_ge _ _ (by omega)
  case bs =>
    refine ⟨bitsOf_masked (by decide), bitsOf_masked (by decide), ?_, ?_⟩ <;>
      exact (congrArg (bitsOf · _ _) (BitVec.or_comm _ _)).trans (bitsOf_masked (by decide))
  case smc =>
    refine ⟨?_, bitsOf_masked (by decide), bitsOf_masked (by decide),
      (congrArg (bitsOf · _ _) (BitVec.or_comm _ _)).trans (bitsOf_masked (by decide))⟩
    simp [bitOf_getLsbD]
end

section
/-! PROOF. O5: undersized sequences under SBM 1 and 2 (R98). -/

namespace Sys2Proof.Machine

variable {s : State} {i : Instr}

/-- A sequence that reads a result too early and need not wait is handled as SBM says. -/
theorem issueInstr_undersized (hunder : s.me.undersized i ≠ []) (hgo : s.scoreboardWaits s.cur i = false) :
    s.issueInstr i = if bitsOf s.cx.sbm 1 0 = 2 then .next (s.trap s.cur { cause := 0x10 })
      else if bitsOf s.cx.sbm 1 0 = 1 then s.runCounted i else s.runStale i (s.me.undersized i) := by
  have hne : (s.me.undersized i).isEmpty = false := by rwa [← Bool.not_eq_true, List.isEmpty_iff]
  simp only [State.issueInstr, hgo, hne, Bool.false_eq_true, if_false]
  rfl

/-- A sequence that issues under interlock counts one event. -/
theorem runCounted_issued {t : State} (hexec : exec i s = .next t)
    (hissued : s.me.issuedFrom ((t.produced s.cur s.me s.me i).core s.cur) = true) :
    s.runCounted i = .next ((t.produced s.cur s.me s.me i).setCore s.cur
      (((t.produced s.cur s.me s.me i).core s.cur).countEvent s.me.enc)) := by
  simp only [State.runCounted, State.runInstr, hexec, hissued, if_true]

end Sys2Proof.Machine

open Sys2Proof Sys2Proof.Machine in
/-- Settles O5: the issue is split by SBM. -/
theorem undersizedSequences : Obligations.UndersizedSequences := by
  unfold Obligations.UndersizedSequences
  intro s i hunder hgo
  have hissue := issueInstr_undersized hunder hgo
  refine ⟨fun h2 => hissue.trans (if_pos h2), fun t h1 hexec hissued => ?_⟩
  have hne : bitsOf s.cx.sbm 1 0 ≠ 2 := by rw [h1]; decide
  rw [hissue, if_neg hne, if_pos h1]
  exact runCounted_issued hexec hissued
end

section
/-! PROOF. O22 and O23: the checks of a local access and local loads (R87, R89, R104, R139, R151, R156). -/

namespace Sys2Proof.Machine

section
variable {s : State} {want : Want} {a : Word}

/-! ### The checks of a local address (R104) -/

theorem State.localCheck_past (h : 2 ^ 21 ≤ a.toNat) : s.localCheck want a = .trap 8 a := if_pos h

/-- Past slot 495 only the strand's own workspace is accepted. -/
theorem State.localCheck_workspace (h : 496 * 4096 ≤ a.toNat) (h' : a.toNat < 2 ^ 21) :
    s.localCheck want a = if s.me.inWorkspace a.toNat then .ok else .trap 8 a := by
  have hslot : 496 ≤ a.toNat / 4096 := by omega
  simp only [State.localCheck, Nat.not_le.2 h', hslot, if_true, if_false]
  rfl

theorem Core.inWorkspace_iff (k : Core) (n : Nat) : k.inWorkspace n = true ↔ k.cx.wp.toNat ≤ n ∧ n < k.cx.wp.toNat + 128 :=
  decide_eq_true_iff

theorem Core.inWorkspace_outside {k : Core} {n : Nat} (h : n < k.cx.wp.toNat ∨ k.cx.wp.toNat + 128 ≤ n) : k.inWorkspace n = false :=
  decide_eq_false (by omega)

theorem State.localCheck_outside (h : 496 * 4096 ≤ a.toNat) (h' : a.toNat < s.cx.wp.toNat ∨ s.cx.wp.toNat + 128 ≤ a.toNat) :
    s.localCheck want a = .trap 8 a := by
  by_cases hpast : 2 ^ 21 ≤ a.toNat
  · exact State.localCheck_past hpast
  · rw [State.localCheck_workspace h (by omega), Core.inWorkspace_outside h']
    rfl

/-- Below the workspaces the slot decides, by the state and the rights of its entry. -/
theorem State.localCheck_slot {e : Word} (he : e = s.cx.slot (a.toNat / 4096)) (h : a.toNat < 496 * 4096) (halign : a.toNat % 8 = 0) :
    s.localCheck want a =
      if bitsOf e 33 32 = 2 then .wait
      else if bitsOf e 33 32 ≠ 1 then .trap 9 a
      else if want = .read && !bitOf e 34 then .trap 0x43 a
      else if want = .write && !bitOf e 35 then .trap 0x43 a
      else if want = .read && s.bpoison.contains (slotBank e * 512 + a.toNat % 4096 / 8) then .trap 0x47 a
      else .ok := by
  subst he
  have hlow : ¬ a.toNat ≥ 2 ^ 21 := by omega
  have hslot : ¬ 496 ≤ a.toNat / 4096 := by omega
  have hsame : a - BitVec.ofNat 64 (a.toNat % 8) = a := by rw [halign]; exact BitVec.sub_zero a
  simp only [State.localCheck, hlow, hslot, hsame, if_false]
  rfl

end

/-! ### Local loads and stores by their check (R104) -/

section
variable {s : State} {p : Pfx} {d a : Fin 16} {off : Int} {n c : Nat} {f : Word} {sgn : Bool}

theorem State.load_localWait (ha : (s.me.addr a off).toNat % n = 0) (hc : s.localCheck .read (s.me.addr a off) = .wait) :
    s.load p d a true off n sgn = .next (s.setMe (s.me.tick 1)) := by
  simp only [State.load, ha, hc, ne_eq, not_true_eq_false, if_false, if_true]
  rfl

theorem State.load_localTrap (ha : (s.me.addr a off).toNat % n = 0) (hc : s.localCheck .read (s.me.addr a off) = .trap c f) :
    s.load p d a true off n sgn = .next (s.trap s.cur { cause := c, faddr := f }) := by
  simp only [State.load, ha, hc, ne_eq, not_true_eq_false, if_false, if_true]
  rfl

theorem State.store_localWait (ha : (s.me.addr a off).toNat % n = 0) (hc : s.localCheck .write (s.me.addr a off) = .wait) :
    s.store p d a true off n = .next (s.setMe (s.me.tick 1)) := by
  simp only [State.store, ha, hc, ne_eq, not_true_eq_false, if_false, if_true]
  rfl

theorem State.store_localTrap (ha : (s.me.addr a off).toNat % n = 0) (hc : s.localCheck .write (s.me.addr a off) = .trap c f) :
    s.store p d a true off n = .next (s.trap s.cur { cause := c, faddr := f }) := by
  simp only [State.store, ha, hc, ne_eq, not_true_eq_false, if_false, if_true]
  rfl

theorem State.store_local (ha : (s.me.addr a off).toNat % n = 0) (hc : s.localCheck .write (s.me.addr a off) = .ok) :
    s.store p d a true off n =
      (s.localWrite (cellsAt (s.me.addr a off).toNat (leBytes n (s.me.getG d).toNat))).finish p := by
  simp only [State.store, ha, hc, ne_eq, not_true_eq_false, if_false, if_true]

/-! ### The value of a local load (R104) -/

theorem State.localBytes_eq (s : State) (a n : Nat) : s.localBytes a n = (List.range n).map (fun j => s.localByte (a + j)) := by
  induction n generalizing a with
  | zero => rfl
  | succ n ih =>
    rw [State.localBytes, ih, List.range_succ_eq_map]
    simp [Function.comp_def, Nat.add_right_comm, Nat.add_assoc]

theorem extend_eq {bytes : List Byte} (h : 0 < bytes.length) (sgn : Bool) :
    extend bytes.length sgn (leNat bytes) = loadedValue bytes sgn := by
  cases sgn with
  | false => rfl
  | true => exact congrArg (BitVec.ofInt 64) (signExtNat_eq_toInt _ (Nat.mul_pos (by decide) h))

/-- The bytes of a local load as its value. -/
theorem State.extend_localNat (s : State) (a : Nat) {n : Nat} (hn : 0 < n) (sgn : Bool) :
    extend n sgn (s.localNat a n) = loadedValue ((List.range n).map (fun j => s.localByte (a + j))) sgn := by
  have hlen : ((List.range n).map (fun j => s.localByte (a + j))).length = n := by rw [List.length_map, List.length_range]
  have h := extend_eq (bytes := (List.range n).map (fun j => s.localByte (a + j))) (by rwa [hlen]) sgn
  rw [hlen] at h
  rw [State.localNat, State.localBytes_eq, h]

/-- A local load that passes its checks writes its destination, or pushes dq (R89). -/
theorem State.load_local (hn : 0 < n) (ha : (s.me.addr a off).toNat % n = 0) (hc : s.localCheck .read (s.me.addr a off) = .ok)
    (hroom : p.qs = .dstQ → s.me.dq.length < 16) {v : Word}
    (hv : v = loadedValue ((List.range n).map (fun j => s.localByte ((s.me.addr a off).toNat + j))) sgn) :
    s.load p d a true off n sgn = .next (s.setMe (Core.advance (if p.qs = .dstQ then
      { s.me with dq := s.me.dq ++ [(s.me.seqno, some v)], seqno := s.me.seqno + 1 } else s.me.setG d v) p)) := by
  have hfree : (decide (p.qs = .dstQ) && decide (16 ≤ s.me.dq.length)) = false := by
    rw [← Bool.decide_and, decide_eq_false_iff_not]
    exact fun ⟨h1, h2⟩ => Nat.not_lt.2 h2 (hroom h1)
  rw [hv, ← State.extend_localNat s _ hn]
  simp only [State.load, ha, hc, hfree, ne_eq, not_true_eq_false, Bool.false_eq_true, if_false, if_true]
  exact State.finish_setMe s p _

theorem loadForms_size {f : MemForm} (h : (f, n, sgn) ∈ loadForms) : 0 < n := by
  have hall : ∀ x ∈ loadForms, 0 < x.2.1 := by simp [loadForms]
  exact hall _ h

end

end Sys2Proof.Machine

open Sys2Proof Sys2Proof.Machine in
/-- Settles O22: the one check of local addresses, by where the address lies and by its slot's entry. -/
theorem localAccessChecks : Obligations.LocalAccessChecks := by
  unfold Obligations.LocalAccessChecks
  intro s p d a off addr e haddr halign he
  obtain rfl : addr = s.me.addr a off := haddr
  have hload {c : Nat} {f : Word} (h : s.localCheck .read (s.me.addr a off) = .trap c f) :
      exec (.ld p d a true off) s = .next (s.trap s.cur { cause := c, faddr := f }) := State.load_localTrap halign h
  have hstore {c : Nat} {f : Word} (h : s.localCheck .write (s.me.addr a off) = .trap c f) :
      exec (.st p d a true off) s = .next (s.trap s.cur { cause := c, faddr := f }) := State.store_localTrap halign h
  refine ⟨fun hpast => ⟨hload (State.localCheck_past hpast), hstore (State.localCheck_past hpast)⟩,
    fun hhigh hout => ⟨hload (State.localCheck_outside hhigh hout), hstore (State.localCheck_outside hhigh hout)⟩, fun hlow => ?slot⟩
  case slot =>
    have hcheck (want : Want) := State.localCheck_slot (want := want) he hlow halign
    refine ⟨fun hst => ⟨State.load_localWait halign ((hcheck .read).trans (if_pos hst)),
        State.store_localWait halign ((hcheck .write).trans (if_pos hst))⟩,
      fun hst => ⟨hload ((hcheck .read).trans ?_), hstore ((hcheck .write).trans ?_)⟩, fun hst =>
      ⟨fun hrd => hload ((hcheck .read).trans ?_), fun hwr => hstore ((hcheck .write).trans ?_),
        fun hrd hbad => hload ((hcheck .read).trans ?_), fun hrd hgood => (hcheck .read).trans ?_, fun hwr => (hcheck .write).trans ?_⟩⟩
    · simp [hst]
    · simp [hst]
    · simp [hst, hrd]
    · simp [hst, hwr]
    · rw [hrd, hbad]
      simp [hst]
    · rw [hrd, hgood]
      simp [hst]
    · simp [hst, hwr]

open Sys2Proof Sys2Proof.Machine in
/-- Settles O23: the load of each size, and what a byte of the workspace and of a bank is. -/
theorem localLoads : Obligations.LocalLoads := by
  unfold Obligations.LocalLoads
  refine ⟨fun f n sgn hf s p d a off addr v haddr halign hcheck hv => ?loads, fun s b hlo hhi => ?own, fun s b hout => ?bank⟩
  case loads =>
    subst haddr
    have hload (hroom : p.qs = .dstQ → s.me.dq.length < 16) :=
      (exec_loadForm hf s p d a true off).trans (State.load_local (p := p) (d := d) (loadForms_size hf) halign hcheck hroom hv)
    refine ⟨fun hq => ?reg, fun hq hroom => ?push, fun hq hfull => ?full⟩
    case reg => exact (hload fun h => absurd h hq).trans (by rw [if_neg hq])
    case push => exact (hload fun _ => hroom).trans (by rw [if_pos hq])
    case full => exact (exec_loadForm hf s p d a true off).trans (State.load_dqFull hq hfull halign hcheck)
  case own => exact if_pos ((s.me.inWorkspace_iff b).2 ⟨hlo, hhi⟩)
  case bank => exact if_neg (Bool.eq_false_iff.1 (Core.inWorkspace_outside hout))
end

section
/-! PROOF. O24: local stores (R104, R156). -/

namespace Sys2Proof.Machine

/-! ### Bytes of a register -/

theorem getLsbD_byteAt (x k j : Nat) : (byteAt x k).getLsbD j = (decide (j < 8) && x.testBit (8 * k + j)) := by
  rw [byteAt, BitVec.getLsbD_ofNat, Nat.testBit_div_two_pow, Nat.add_comm]

/-- The bytes of a doubleword of which one is replaced. -/
theorem byteAt_putByte (x : Word) {i j : Nat} (b : Byte) (hj : j < 8) :
    byteAt (putByte x i b).toNat j = if j = i then b else byteAt x.toNat j := by
  refine BitVec.eq_of_getLsbD_eq fun m hm => ?_
  have hbit : (putByte x i b).toNat.testBit (8 * j + m) =
      if 8 * i ≤ 8 * j + m ∧ 8 * j + m ≤ 8 * i + 7 then decide (8 * j + m < 64) && b.toNat.testBit (8 * j + m - 8 * i)
      else x.getLsbD (8 * j + m) := getLsbD_putBits x (8 * i + 7) (8 * i) b.toNat (8 * j + m)
  rw [getLsbD_byteAt, hbit, decide_eq_true hm, Bool.true_and]
  by_cases h : j = i
  · subst h
    rw [if_pos (by omega), if_pos rfl, decide_eq_true (by omega), Bool.true_and, Nat.add_sub_cancel_left]
    rfl
  · rw [if_neg (by omega), if_neg h, getLsbD_byteAt, decide_eq_true hm, Bool.true_and]
    rfl

/-! ### Bytes written to the workspace's registers (R87) -/

/-- One byte of the strand's workspace written to its register. -/
def Core.putOwn (k : Core) (c : Nat × Byte) : Core :=
  k.setG (Fin.ofNat 16 ((c.1 - k.cx.wp.toNat) / 8))
    (putByte (k.getG (Fin.ofNat 16 ((c.1 - k.cx.wp.toNat) / 8))) ((c.1 - k.cx.wp.toNat) % 8) c.2)

@[simp] theorem Core.putOwn_cx (k : Core) (c : Nat × Byte) : (k.putOwn c).cx = k.cx := rfl

theorem Core.putOwn_byte {k : Core} {a : Nat} {b : Byte} (h : k.cx.wp.toNat ≤ a) (h' : a < k.cx.wp.toNat + 128) (r : Fin 16) {j : Nat}
    (hj : j < 8) : byteAt ((k.putOwn (a, b)).getG r).toNat j = if k.cx.wp.toNat + 8 * r.val + j = a then b else byteAt (k.getG r).toNat j := by
  have hreg : (Fin.ofNat 16 ((a - k.cx.wp.toNat) / 8)).val = (a - k.cx.wp.toNat) / 8 := Nat.mod_eq_of_lt (by omega)
  by_cases hr : r = Fin.ofNat 16 ((a - k.cx.wp.toNat) / 8)
  · have hval : r.val = (a - k.cx.wp.toNat) / 8 := by rw [hr, hreg]
    rw [Core.putOwn, ← hr, Core.getG_setG, byteAt_putByte _ _ hj]
    exact if_congr (by omega) rfl rfl
  · have hval : r.val ≠ (a - k.cx.wp.toNat) / 8 := fun h => hr (Fin.ext (by rw [hreg, h]))
    rw [Core.putOwn, Core.getG_setG_other _ _ _ _ hr, if_neg (by omega)]

/-- Bytes written in a row to the workspace: each to its register, and every other byte as before. -/
theorem Core.putOwn_bytes {k : Core} {a : Nat} {bs : List Byte} (h : k.cx.wp.toNat ≤ a) (h' : a + bs.length ≤ k.cx.wp.toNat + 128)
    (r : Fin 16) {j : Nat} (hj : j < 8) : byteAt (((cellsAt a bs).foldl Core.putOwn k).getG r).toNat j =
      if a ≤ k.cx.wp.toNat + 8 * r.val + j ∧ k.cx.wp.toNat + 8 * r.val + j < a + bs.length
      then bs.getD (k.cx.wp.toNat + 8 * r.val + j - a) 0 else byteAt (k.getG r).toNat j := by
  induction bs generalizing a k with
  | nil => rw [if_neg (by rw [List.length_nil]; omega)]; rfl
  | cons b bs ih =>
    rw [List.length_cons] at h'
    rw [cellsAt, List.foldl_cons, ih (k := k.putOwn (a, b)) (Nat.le_succ_of_le h) (by rw [Core.putOwn_cx]; omega),
      Core.putOwn_byte h (by omega) r hj, List.length_cons, Core.putOwn_cx]
    by_cases hfirst : k.cx.wp.toNat + 8 * r.val + j = a
    · rw [if_neg (by omega), if_pos hfirst, if_pos (by omega), hfirst, Nat.sub_self, List.getD_cons_zero]
    · rw [if_neg hfirst]
      by_cases hrest : a + 1 ≤ k.cx.wp.toNat + 8 * r.val + j ∧ k.cx.wp.toNat + 8 * r.val + j < a + 1 + bs.length
      · obtain ⟨m, hm⟩ : ∃ m, k.cx.wp.toNat + 8 * r.val + j = a + 1 + m := ⟨k.cx.wp.toNat + 8 * r.val + j - (a + 1), by omega⟩
        rw [if_pos hrest, if_pos (by omega), hm, Nat.add_sub_cancel_left, show a + 1 + m - a = m + 1 by omega, List.getD_cons_succ]
      · rw [if_neg hrest, if_neg (by omega)]

theorem Core.putOwn_frame (cs : List (Nat × Byte)) (k : Core) : cs.foldl Core.putOwn k = { k with g := (cs.foldl Core.putOwn k).g } := by
  induction cs generalizing k with
  | nil => rfl
  | cons c cs ih => rw [List.foldl_cons, ih]; rfl

/-! ### Where the bytes go (R87, R104) -/

section
variable {s : State} {a : Nat} {bs : List Byte}

/-- Bytes outside the workspace, within one slot, go to the slot's bank. -/
theorem State.localWrite_bank (hout : ∀ x, a ≤ x → x < a + bs.length → s.me.inWorkspace x = false) (hslot : a % 4096 + bs.length ≤ 4096) :
    s.localWrite (cellsAt a bs) = (s.bankCells (cellsAt (s.me.bankByte a) bs)).setMe s.me := by
  have hregs : (cellsAt a bs).filter (fun c => s.me.inWorkspace c.1) = [] :=
    List.filter_eq_nil_iff.2 fun c hc => by
      obtain ⟨hlo, hhi⟩ := mem_cellsAt hc
      rw [hout c.1 hlo hhi]
      decide
  have hbanks : (cellsAt a bs).filter (fun c => !s.me.inWorkspace c.1) = cellsAt a bs :=
    List.filter_eq_self.2 fun c hc => by
      obtain ⟨hlo, hhi⟩ := mem_cellsAt hc
      rw [hout c.1 hlo hhi]
      rfl
  have hcells : ∀ (b : Nat) (cs : List Byte), a ≤ b → b % 4096 + cs.length ≤ 4096 → b / 4096 = a / 4096 → (cellsAt b cs).map (fun c =>
      (bankKey (slotBank (s.me.cx.slot (c.1 / 4096))) (c.1 % 4096), c.2)) = cellsAt (slotBank (s.me.cx.slot (a / 4096)) * 4096 + b % 4096) cs := by
    intro b cs
    induction cs generalizing b with
    | nil => exact fun _ _ _ => rfl
    | cons c cs ih =>
      intro hb hlen hsame
      rw [List.length_cons] at hlen
      rw [cellsAt, List.map_cons, cellsAt, hsame, bankKey]
      refine congrArg (List.cons _) ?_
      cases cs with
      | nil => rfl
      | cons c' cs =>
        rw [List.length_cons] at hlen
        rw [ih (b + 1) (by omega) (by rw [List.length_cons]; omega) (by omega), show (b + 1) % 4096 = b % 4096 + 1 by omega, Nat.add_assoc]
  simp only [State.localWrite, hregs, hbanks, hcells a bs (Nat.le_refl a) hslot rfl, List.foldl_nil]
  rfl

/-- Bytes of the workspace go to its registers, and no bank changes. -/
theorem State.localWrite_regs (hin : ∀ x, a ≤ x → x < a + bs.length → s.me.inWorkspace x = true) :
    s.localWrite (cellsAt a bs) = s.setMe ((cellsAt a bs).foldl Core.putOwn s.me) := by
  have hregs : (cellsAt a bs).filter (fun c => s.me.inWorkspace c.1) = cellsAt a bs :=
    List.filter_eq_self.2 fun c hc => by
      obtain ⟨hlo, hhi⟩ := mem_cellsAt hc
      exact hin c.1 hlo hhi
  have hbanks : (cellsAt a bs).filter (fun c => !s.me.inWorkspace c.1) = [] :=
    List.filter_eq_nil_iff.2 fun c hc => by
      obtain ⟨hlo, hhi⟩ := mem_cellsAt hc
      rw [hin c.1 hlo hhi]
      decide
  have hsame : s.bankCells [] = s := by
    have hps : clearPoison s.bpoison [] = s.bpoison := List.filter_eq_self.2 fun _ _ => rfl
    rw [State.bankCells, hps]
    rfl
  simp only [State.localWrite, hregs, hbanks, List.map_nil, hsame]
  rfl

end

theorem storeForms_size {f : MemForm} {n : Nat} (h : (f, n) ∈ storeForms) : n = 1 ∨ n = 2 ∨ n = 4 ∨ n = 8 := by
  have hall : ∀ x ∈ storeForms, x.2 = 1 ∨ x.2 = 2 ∨ x.2 = 4 ∨ x.2 = 8 := by simp [storeForms]
  exact hall _ h

end Sys2Proof.Machine

open Sys2Proof Sys2Proof.Machine in
/-- Settles O24: below the workspaces the bytes go to one bank, in the strand's own workspace to its registers. -/
theorem localStores : Obligations.LocalStores := by
  unfold Obligations.LocalStores
  intro f n hf s p d a off addr haddr halign hcheck hwf hwp8 hwphigh
  obtain rfl : addr = s.me.addr a off := haddr
  have hsize := storeForms_size hf
  have hexec := (exec_storeForm hf s p d a true off).trans (State.store_local (p := p) (d := d) halign hcheck)
  have hlen : (leBytes n (s.me.getG d).toNat).length = n := leBytes_length n _
  refine ⟨fun hlow => ?bank, fun hhigh => ?regs⟩
  case bank =>
    have hend : (s.me.addr a off).toNat + n ≤ 496 * 4096 := by rcases hsize with rfl | rfl | rfl | rfl <;> omega
    have hslot : (s.me.addr a off).toNat % 4096 + n ≤ 4096 := by rcases hsize with rfl | rfl | rfl | rfl <;> omega
    rw [State.localWrite_bank (fun x _ hx => Core.inWorkspace_outside (.inl (by rw [hlen] at hx; exact Nat.lt_of_lt_of_le hx (hend.trans hwphigh))))
      (by rwa [hlen]), State.finish_setMe] at hexec
    refine ⟨_, hexec, rfl, fun x => ?_, fun x => ?_⟩
    · refine (memRead_cellsAt _ _ hwf.2 x).trans ?_
      rw [hlen]
      by_cases hx : s.me.bankByte (s.me.addr a off).toNat ≤ x ∧ x < s.me.bankByte (s.me.addr a off).toNat + n
      · rw [if_pos hx, if_pos hx, leBytes_getD _ _ (by omega)]
      · rw [if_neg hx, if_neg hx]
    · refine (mem_clearPoison_cellsAt x).trans (and_congr_right fun _ => not_congr ?_)
      have hbyte : s.me.bankByte (s.me.addr a off).toNat =
          slotBank (s.me.cx.slot ((s.me.addr a off).toNat / 4096)) * 4096 + (s.me.addr a off).toNat % 4096 := rfl
      rw [hlen]
      rcases hsize with rfl | rfl | rfl | rfl <;> omega
  case regs =>
    have hpast : (s.me.addr a off).toNat < 2 ^ 21 := by
      by_contra h
      rw [State.localCheck_past (Nat.not_lt.1 h)] at hcheck
      cases hcheck
    have hown : s.me.inWorkspace (s.me.addr a off).toNat = true := by
      by_contra h
      rw [State.localCheck_workspace hhigh hpast, if_neg h] at hcheck
      cases hcheck
    obtain ⟨hlo, hhi⟩ := (s.me.inWorkspace_iff _).1 hown
    have hlo : s.cx.wp.toNat ≤ (s.me.addr a off).toNat := hlo
    have hend : (s.me.addr a off).toNat + n ≤ s.cx.wp.toNat + 128 := by
      have hhi : (s.me.addr a off).toNat < s.cx.wp.toNat + 128 := hhi
      rcases hsize with rfl | rfl | rfl | rfl <;> omega
    rw [State.localWrite_regs (fun x hx hx' => (s.me.inWorkspace_iff x).2 ⟨hlo.trans hx, by rw [hlen] at hx'; exact Nat.lt_of_lt_of_le hx' hend⟩),
      State.finish_setMe] at hexec
    refine ⟨_, _, hexec, rfl, Core.putOwn_frame _ _, fun r j hj => ?_⟩
    refine (Core.putOwn_bytes hlo (by rwa [hlen]) r hj).trans ?_
    rw [hlen]
    refine if_ctx_congr Iff.rfl (fun hx => leBytes_getD _ _ ?_) fun _ => rfl
    have hx : (s.me.addr a off).toNat ≤ s.cx.wp.toNat + 8 * r.val + j ∧ s.cx.wp.toNat + 8 * r.val + j < (s.me.addr a off).toNat + n := hx
    show s.cx.wp.toNat + 8 * r.val + j - (s.me.addr a off).toNat < n
    omega
end

section
/-! PROOF. O26: atomics at issue (R105). -/

namespace Sys2Proof.Machine

/-! ### The send buffer without an overlapping store (R82) -/

theorem SendEntry.without_nil (e : SendEntry) : e.without [] = e := by
  cases e with
  | store rel parts => simp [SendEntry.without]
  | _ => rfl

/-- Where no entry leaves, all stay as they are. -/
theorem leaveBehind_none {q : SendEntry → Bool} {l : List SendEntry} (h : ∀ e ∈ l, q e = false) : leaveBehind q l = l := by
  induction l with
  | nil => rfl
  | cons e es ih =>
    have hes : es.filter q = [] := List.filter_eq_nil_iff.2 fun x hx => by rw [h x (List.mem_cons_of_mem _ hx)]; decide
    rw [leaveBehind, h e List.mem_cons_self, if_neg (by decide), hes, List.flatMap_nil, List.map_nil, SendEntry.without_nil,
      ih fun x hx => h x (List.mem_cons_of_mem _ hx)]

section
variable {s : State} {p : Pfx} {op : AtomicOp} {d a : Fin 16} {l : Leaf} {uid : Nat}

/-- An atomic of an aligned doubleword that translation refuses. -/
theorem State.atomic_refused {c : Nat} {x : Word} (ha : (s.me.getG a).toNat % 8 = 0)
    (hc : s.globalCheck (s.me.getG a) .rmw true = .trap c x) :
    s.atomic p op d a = .next (s.trap s.cur { cause := c, faddr := x }) := by
  simp only [State.atomic, ha, hc, ne_eq, not_true_eq_false, if_false, State.trapMe]

theorem hostAtomic_iff : hostAtomic op = true ↔ op = .swp ∨ op = .cas ∨ op = .add := by
  cases op <;> simp [hostAtomic]

variable (ha : (s.me.getG a).toNat % 8 = 0) (hc : s.globalCheck (s.me.getG a) .rmw true = .ok l uid)
include ha hc

/-- The host takes three atomics (R105). -/
theorem State.atomic_hostOther (ht : tierOf l.key = 2) (hop : hostAtomic op = false) :
    s.atomic p op d a = .next (s.trap s.cur { cause := 0x0b, faddr := s.me.getG a }) := by
  simp only [State.atomic, ha, hc, ht, hop, ne_eq, not_true_eq_false, if_false, beq_self_eq_true, Bool.not_false, Bool.and_self, if_true]
  rfl

theorem State.atomic_hostRefuses (ht : tierOf l.key = 2) (hop : hostAtomic op = true) (hr : Config.hostRefusesAtomic s.free = true) :
    s.atomic p op d a = .next (State.trap { s with free := s.free + 1 } s.cur { cause := 0x0b, faddr := s.me.getG a }) := by
  simp only [State.atomic, ha, hc, ht, hop, hr, ne_eq, not_true_eq_false, if_false, beq_self_eq_true, Bool.not_true, Bool.and_false,
    Bool.false_eq_true, Bool.and_self, if_true]
  rfl

/-- An atomic that overlaps no held store issues as one access; a host's answer takes one free value. -/
theorem State.atomic_issues (hheld : ∀ e ∈ s.me.sbuf, e.overlaps l.key = false)
    (hmay : tierOf l.key ≠ 2 ∨ hostAtomic op = true ∧ Config.hostRefusesAtomic s.free = false) : s.atomic p op d a =
      State.issueAccess { s with free := s.free + (if tierOf l.key = 2 then 1 else 0) } p s.me (s.newAccess p (s.me.getG a) (keysFrom l.key 8) uid
        (.atomic op (s.me.getG d) (s.me.getG (d + 1)) d [])) [uid] := by
  have htaken : s.me.sbuf.filter (SendEntry.overlaps l.key) = [] := List.filter_eq_nil_iff.2 fun e he => by rw [hheld e he]; decide
  have hstay : leaveBehind (SendEntry.overlaps l.key) s.me.sbuf = s.me.sbuf := leaveBehind_none hheld
  by_cases ht : tierOf l.key = 2
  · obtain ⟨hop, hr⟩ := hmay.resolve_left (not_not.2 ht)
    simp only [State.atomic, ha, hc, ht, hop, hr, htaken, hstay, ne_eq, not_true_eq_false, if_false, beq_self_eq_true, Bool.not_true,
      Bool.and_false, Bool.false_eq_true, if_true, List.flatMap_nil, List.any_nil, List.map_nil, partCells, List.append_nil]
    rfl
  · have hne : (tierOf l.key == 2) = false := beq_eq_false_iff_ne.2 ht
    simp only [State.atomic, ha, hc, ht, hne, htaken, hstay, ne_eq, not_true_eq_false, if_false, Bool.false_and,
      Bool.false_eq_true, List.flatMap_nil, List.any_nil, List.map_nil, partCells, List.append_nil]
    rfl

end

end Sys2Proof.Machine

open Sys2Proof Sys2Proof.Machine in
/-- Settles O26: translation first, then what the host takes, then the access. -/
theorem atomicsIssue : Obligations.AtomicsIssue := by
  unfold Obligations.AtomicsIssue
  intro f op hf s p d a l uid ha
  have hexec := exec_atomicForm hf s p d a
  refine ⟨fun c hc => hexec.trans (State.atomic_refused ha (State.globalCheck_error hc)), fun hc hheld hats hkeys =>
    ⟨fun hmay => ?issues, fun ht h1 h2 h3 => hexec.trans (State.atomic_hostOther ha hc ht ?_),
      fun ht hop hr => hexec.trans (State.atomic_hostRefuses ha hc ht (hostAtomic_iff.2 hop) hr)⟩⟩
  case issues =>
    have hnone : ∀ e ∈ s.me.sbuf, e.overlaps l.key = false := fun e he => by simpa using List.all_eq_true.1 hheld e he
    have hissue := State.atomic_issues (p := p) (d := d) ha hc hnone (hmay.imp_right fun h => ⟨hostAtomic_iff.2 h.1, h.2⟩)
    obtain ⟨t, ht, hcore, hmem, hbmem, hfree, hflight⟩ := State.issueAccess_leaves
      (s := { s with free := s.free + (if tierOf l.key = 2 then 1 else 0) }) (p := p) (k := s.me) (uids := [uid])
      (x := s.newAccess p (s.me.getG a) (keysFrom l.key 8) uid (.atomic op (s.me.getG d) (s.me.getG (d + 1)) d [])) hats hkeys
    exact ⟨t, _, hexec.trans (hissue.trans ht), hcore, hmem, hbmem, hfree, hflight, rfl, rfl, rfl, rfl, rfl, rfl⟩
  · rw [← Bool.not_eq_true, hostAtomic_iff]
    simp [h1, h2, h3]
end

section
/-! PROOF. Tiles and accumulators by their elements, and the checks of a tile's control register (R202, R206, R213). -/

namespace Sys2Proof.Machine

/-! ### Rows of equal length -/

theorem rows_length (n m : Nat) (g : Nat → Nat → Nat) : ((List.range n).flatMap (fun r => (List.range m).map (g r))).length = m * n := by
  simp [List.length_flatMap, Nat.mul_comm]

/-- Element c of row r of a table written row after row. -/
theorem rows_getD {n m r c : Nat} (g : Nat → Nat → Nat) (hr : r < n) (hc : c < m) :
    ((List.range n).flatMap (fun r => (List.range m).map (g r))).getD (m * r + c) 0 = g r c := by
  induction n generalizing r g with
  | zero => exact absurd hr (Nat.not_lt_zero r)
  | succ n ih =>
    rw [List.range_succ_eq_map, List.flatMap_cons, List.flatMap_map]
    cases r with
    | zero =>
      rw [Nat.mul_zero, Nat.zero_add, List.getD_append _ _ _ _ (by simpa using hc)]
      simp [hc]
    | succ r =>
      have hidx : m * (r + 1) + c - m = m * r + c := by rw [Nat.mul_succ]; omega
      rw [List.getD_append_right _ _ _ _ (by simp only [List.length_map, List.length_range, Nat.mul_succ]; omega), List.length_map,
        List.length_range, hidx]
      exact ih (fun r => g (r + 1)) (Nat.lt_of_succ_lt_succ hr)

/-- The container widths divide a row of 64 bytes. -/
theorem namedFmt_row {fmts : Vector Word 16} {wc code : Nat} {f : Fmt} (h : namedFmt fmts wc code = some f) : f.cw * (512 / f.cw) = 512 := by
  rcases namedFmt_cw h with h | h | h | h | h <;> rw [h]

/-- Container c of row r of a tile built from its codes. -/
theorem tileAt_tileOf {cw r c : Nat} (code : Nat → Nat → Nat) (hcw : cw * (512 / cw) = 512) (hr : r < 64) (hc : c < 512 / cw) :
    tileAt (tileOf cw code) cw r c = code r c % 2 ^ cw := by
  rw [tileAt, tileOf, elemAt_ofElems _ _ _ _ (by rw [rows_length, ← Nat.mul_assoc, hcw]), rows_getD code hr hc]

/-- Element (i, j) of an accumulator built from its codes. -/
theorem elemAt_accumulator {i j : Nat} (code : Nat → Nat → Nat) (hi : i < 64) (hj : j < 64) :
    elemAt (ofElems 131072 32 ((List.range 64).flatMap (fun i => (List.range 64).map (code i)))) 32 (64 * i + j) = code i j % 2 ^ 32 := by
  rw [elemAt_ofElems _ _ _ _ (by rw [rows_length]), rows_getD code hi hj]

/-! ### The first two checks of R206 -/

theorem tcRows_le (v : Word) : tcRows v ≤ 64 := Nat.succ_le_of_lt (Nat.mod_lt _ (by decide))

section
variable {s : State} {v : Word} {f : Fmt}

theorem State.tileCheck_unnamed (h : namedFmt s.cx.fmt (bitsOf v 17 16) (bitsOf v 3 0) = none) : tileCheck s.cx.fmt v = .error 0x48 := by
  simp only [tileCheck, tcFmt, h]
  rfl

theorem State.tileCheck_named (h : namedFmt s.cx.fmt (bitsOf v 17 16) (bitsOf v 3 0) = some f) [Decidable (s.goodTile v f)] :
    tileCheck s.cx.fmt v = if s.goodTile v f then .ok f else .error 0x50 := by
  have hgood : (capacity f < tcCols v || tcBmap v / 2 ^ (4 * (capacity f / 16)) ≠ 0 || (tcSparse v == 1 && tcCols v % 4 != 0)) = false ↔
      s.goodTile v f := by
    rw [Bool.or_eq_false_iff, Bool.or_eq_false_iff, decide_eq_false_iff_not, decide_eq_false_iff_not, Nat.not_lt, ne_eq, not_not,
      Bool.and_eq_false_imp, beq_iff_eq, bne_eq_false_iff_eq, and_assoc, State.goodTile, h]
    exact (and_iff_right rfl).symm
  simp only [tileCheck, tcFmt, h]
  by_cases hg : s.goodTile v f
  · rw [if_pos hg, hgood.2 hg]
    rfl
  · rw [if_neg hg, if_pos (by rw [← Bool.not_eq_false]; exact mt hgood.1 hg)]
    rfl

theorem State.goodTile.check (h : s.goodTile v f) : tileCheck s.cx.fmt v = .ok f := by
  classical
  rw [State.tileCheck_named h.1, if_pos h]

theorem State.goodTile.row (h : s.goodTile v f) : f.cw * (512 / f.cw) = 512 := namedFmt_row h.1

/-- A sequence that traps with the cause that the check gives uses the tile control register. -/
theorem State.tileTraps_of_check {i : Form} {p : Pfx} (h : ∀ c, tileCheck s.cx.fmt v = .error c → s.TrapsWith i p c) : s.tileTraps v i p := by
  classical
  exact ⟨fun hnone => h _ (State.tileCheck_unnamed hnone), fun f hf hbad => h _ ((State.tileCheck_named hf).trans (if_neg hbad))⟩

end

theorem plainTile_iff (v : Word) : plainTile v = true ↔ dense v := by
  rw [plainTile, Bool.and_eq_true, beq_iff_eq, beq_iff_eq]
  rfl

theorem rowish_iff (v : Word) : rowish v = true ↔ bitsOf v 9 7 = 0 ∨ bitsOf v 9 7 = 2 := by
  rw [rowish, Bool.or_eq_true, beq_iff_eq, beq_iff_eq]
  rfl

/-- Below layout 4 a tile is column-ish when it is not row-ish. -/
theorem columnish_iff {v : Word} (h : bitsOf v 9 7 < 4) : columnish v ↔ rowish v = false := by
  rw [← Bool.not_eq_true, rowish_iff, columnish]
  omega

end Sys2Proof.Machine
end

section
/-! PROOF. O40: ACVT and TQNT (R175, R213). -/

namespace Sys2Proof.Machine

/-! ### The checks that ACVT and TQNT share -/

section
variable {s : State} {p : Pfx} {d : Fin 8} {scaled : Bool} {go : Fmt → Nat → Res} {f : Fmt} {i : Form}

/-- The column of the accumulator where the tile's first one lies (R213). -/
def partStart (s : State) (f : Fmt) : Nat := if f.cw = 16 then bitsOf s.cx.vtype 26 24 * 32 else 0

/-- PART and COLS are out of range (R213). -/
def partBad (s : State) (d : Fin 8) (f : Fmt) : Prop :=
  (f.cw = 16 ∧ 1 < bitsOf s.cx.vtype 26 24) ∨ (f.cw ≠ 16 ∧ (bitsOf s.cx.vtype 26 24 ≠ 0 ∨ 64 < colsOf s.cx.tc[d]))

theorem State.fromAcc_tileTraps (h : exec (i p) s = s.fromAcc d scaled go) : s.tileTraps s.cx.tc[d] i p :=
  State.tileTraps_of_check fun c hc => by
    simp only [State.TrapsWith, h, State.fromAcc, hc]
    rfl

theorem scaleDiffers_iff : ((f.scale != 0) != scaled) = true ↔ ¬ (f.scale ≠ 0 ↔ scaled = true) := by
  rw [bne_iff_ne, ne_eq, Bool.eq_iff_iff, bne_iff_ne]

theorem fromAcc_refused {v : Word} (h : ¬ dense v ∨ ¬ (f.scale ≠ 0 ↔ scaled = true)) :
    (!plainTile v || (f.scale != 0) != scaled) = true := by
  rwa [Bool.or_eq_true, Bool.not_eq_true', ← Bool.not_eq_true, plainTile_iff, scaleDiffers_iff]

/-- A dense data tile whose entry suits the instruction passes the tag checks. -/
theorem fromAcc_tags {v : Word} (hdense : dense v) (hs : f.scale ≠ 0 ↔ scaled = true) :
    (!plainTile v || (f.scale != 0) != scaled) = false := by
  rw [(plainTile_iff v).2 hdense, Bool.not_true, Bool.false_or, ← Bool.not_eq_true, scaleDiffers_iff]
  exact not_not.2 hs

theorem State.fromAcc_mtag (h : exec (i p) s = s.fromAcc d scaled go) (hgood : s.goodTile s.cx.tc[d] f)
    (hbad : ¬ dense s.cx.tc[d] ∨ ¬ (f.scale ≠ 0 ↔ scaled = true)) : s.TrapsWith i p 0x51 := by
  simp only [State.TrapsWith, h, State.fromAcc, hgood.check, fromAcc_refused hbad, if_true]
  rfl

theorem State.fromAcc_part (h : exec (i p) s = s.fromAcc d scaled go) (hgood : s.goodTile s.cx.tc[d] f) (hdense : dense s.cx.tc[d])
    (hs : f.scale ≠ 0 ↔ scaled = true) (hbad : partBad s d f) : s.TrapsWith i p 0x50 := by
  have hnone : partOffset f (tcCols s.cx.tc[d]) s.cx.vpart = none := by
    rcases hbad with ⟨hcw, hp⟩ | ⟨hcw, hp⟩
    · rw [partOffset, if_pos hcw]
      exact if_pos hp
    · rw [partOffset, if_neg hcw]
      exact if_pos (by rw [Bool.or_eq_true, decide_eq_true_eq, decide_eq_true_eq]; exact hp)
  simp only [State.TrapsWith, h, State.fromAcc, hgood.check, fromAcc_tags hdense hs, Bool.false_eq_true, if_false, hnone]
  rfl

theorem State.fromAcc_goes (h : exec (i p) s = s.fromAcc d scaled go) (hgood : s.goodTile s.cx.tc[d] f) (hdense : dense s.cx.tc[d])
    (hs : f.scale ≠ 0 ↔ scaled = true) (hpart : ¬ partBad s d f) : exec (i p) s = go f (partStart s f) := by
  have hsome : partOffset f (tcCols s.cx.tc[d]) s.cx.vpart = some (partStart s f) := by
    simp only [partBad, not_or, not_and, Nat.not_lt, not_not] at hpart
    obtain ⟨h16, hother⟩ := hpart
    by_cases hcw : f.cw = 16
    · rw [partOffset, if_pos hcw, partStart, if_pos hcw]
      exact if_neg (Nat.not_lt.2 (h16 hcw))
    · obtain ⟨hzero, hcols⟩ := hother hcw
      rw [partOffset, if_neg hcw, partStart, if_neg hcw]
      exact if_neg (by rw [Bool.or_eq_true, decide_eq_true_eq, decide_eq_true_eq]; exact not_or.2 ⟨not_not.2 hzero, Nat.not_lt.2 hcols⟩)
  simp only [h, State.fromAcc, hgood.check, fromAcc_tags hdense hs, Bool.false_eq_true, if_false, hsome]

end

/-! ### ACVT -/

theorem rowsFlags_testBit (rows cols : Nat) (g : Nat → Nat → Nat × Nat) (b : Nat) :
    (rowsFlags (tileRows rows cols g)).testBit b = true ↔ ∃ i k, i < rows ∧ k < cols ∧ (g i k).2.testBit b = true := by
  rw [rowsFlags, ← List.foldl_flatten, foldl_or_testBit]
  simp [tileRows]

/-- A tile built from rows of codes: zeros outside the rows. -/
theorem tileAt_tileOfRows {cw rows cols i k : Nat} (g : Nat → Nat → Nat × Nat) (hcw : cw * (512 / cw) = 512) (hi : i < 64)
    (hk : k < 512 / cw) : tileAt (tileOfRows cw (tileRows rows cols g)) cw i k =
      if i < rows ∧ k < cols then (g i k).1 % 2 ^ cw else 0 := by
  rw [tileOfRows, tileAt_tileOf _ hcw hi hk]
  by_cases hr : i < rows
  · by_cases hc : k < cols <;> simp [tileRows, List.getD_eq_getElem?_getD, hr, hc]
  · simp [tileRows, List.getD_eq_getElem?_getD, hr]

/-- The elements that a tile takes from an accumulator (R213). -/
theorem accSource_eq {v : Word} (h : bitsOf v 9 7 < 4) (x : BitVec 131072) (off i k : Nat) : accSource v x off i k =
    decodeNum fp32 (if columnish v then elemAt x 32 (64 * (k + off) + i) else elemAt x 32 (64 * i + (k + off))) := by
  by_cases hc : columnish v
  · rw [accSource, (columnish_iff h).1 hc, if_pos hc]
    rfl
  · have hr : rowish v = true := Bool.not_eq_false _ ▸ mt (columnish_iff h).2 hc
    rw [accSource, hr, if_neg hc]
    rfl

theorem exec_acvt (s : State) (p : Pfx) (d : Fin 8) (r : Fin 4) : exec (.acvt p d r) s = s.fromAcc d false (fun f off =>
    (s.setCx ((s.cx.setTile d (tileOfRows f.cw (tileRows (tcRows s.cx.tc[d]) (tcCols s.cx.tc[d])
        (fun r' k => roundTo f s.cx.rm (accSource s.cx.tc[d] s.cx.acc[r] off r' k))))).raise (rowsFlags (tileRows (tcRows s.cx.tc[d])
        (tcCols s.cx.tc[d]) (fun r' k => roundTo f s.cx.rm (accSource s.cx.tc[d] s.cx.acc[r] off r' k)))))).finish p) := rfl

end Sys2Proof.Machine
end

section
/-! PROOF. O40: the results of ACVT and TQNT (R175, R213). -/

namespace Sys2Proof.Machine

section
variable {s : State} {p : Pfx} {d : Fin 8} {r : Fin 4} {f : Fmt}

theorem exec_acvt_writes (hgood : s.goodTile s.cx.tc[d] f) (hdense : dense s.cx.tc[d]) (hs : f.scale = 0) (hpart : ¬ partBad s d f) :
    s.writesCx (.acvt · d r) p { s.cx with
      t := s.cx.t.set d (tileOfRows f.cw (tileRows (tcRows s.cx.tc[d]) (tcCols s.cx.tc[d])
        (fun i k => roundTo f s.rounding (accSource s.cx.tc[d] s.cx.acc[r] (partStart s f) i k))))
      vtype := s.cx.vtype ||| BitVec.ofNat 64 (rowsFlags (tileRows (tcRows s.cx.tc[d]) (tcCols s.cx.tc[d])
        (fun i k => roundTo f s.rounding (accSource s.cx.tc[d] s.cx.acc[r] (partStart s f) i k))) * 2 ^ 48) } :=
  (State.fromAcc_goes (i := (.acvt · d r)) (exec_acvt s p d r) hgood hdense (by simp [hs]) hpart).trans (State.finish_setCx _ _ _)

end

/-! ### The blocks that TQNT writes -/

/-- A block of a quantised tile: its scale byte, its positions, and what Quantise gives. -/
abbrev QBlock := Nat × List (Nat × Nat) × Nat × List Nat × Nat

def blockCodes (qs : List QBlock) : List ((Nat × Nat) × Nat) := qs.flatMap (fun q => q.2.1.zip q.2.2.2.1)

def blocksTile (cw : Nat) (inside : Nat × Nat → Bool) (qs : List QBlock) : BitVec 32768 :=
  tileOf cw (fun r k =>
    match (((List.range 64).map (fun r => (blockCodes qs).filter (fun e => e.1.1 == r))).getD r []).find? (fun e => e.1.2 == k) with
    | some e => if inside e.1 then e.2 else 0
    | none => 0)

def blocksScale (qs : List QBlock) : BitVec 4096 :=
  ofElems 4096 8 ((List.range 512).map (fun i =>
    match qs.find? (fun q => q.1 == i) with
    | some q => q.2.2.1
    | none => 0))

def blocksFlags (qs : List QBlock) : Nat := qs.foldl (fun a q => a ||| q.2.2.2.2) 0

/-- The blocks of a tile as Quantise leaves them: block b of row or column o has the scale byte w·o + b. -/
def quantised (no nb w n : Nat) (pos : Nat → Nat → Nat → Nat × Nat) (q : Nat → Nat → Nat × List Nat × Nat) : List QBlock :=
  (List.range no).flatMap (fun o => (List.range nb).map (fun b => (w * o + b, (List.range n).map (pos o b), q o b)))

theorem mem_quantised {no nb w n : Nat} {pos : Nat → Nat → Nat → Nat × Nat} {q : Nat → Nat → Nat × List Nat × Nat} {x : QBlock} :
    x ∈ quantised no nb w n pos q ↔ ∃ o b, o < no ∧ b < nb ∧ (w * o + b, (List.range n).map (pos o b), q o b) = x := by
  simp [quantised]

/-- The only member of a list that satisfies a test is what the search finds. -/
theorem find?_of_unique {α : Type} {l : List α} {t : α → Bool} {a : α} (ha : a ∈ l) (ht : t a = true)
    (h : ∀ x ∈ l, t x = true → x = a) : l.find? t = some a := by
  cases hf : l.find? t with
  | none => exact absurd ht (List.find?_eq_none.1 hf a ha)
  | some x => rw [h x (List.mem_of_find?_eq_some hf) (List.find?_some hf)]

section
variable {no nb w n cw : Nat} {pos : Nat → Nat → Nat → Nat × Nat} {q : Nat → Nat → Nat × List Nat × Nat} {inside : Nat × Nat → Bool}

theorem blockNumber_inj {o o' b b' : Nat} (hb : b < w) (hb' : b' < w) (h : w * o' + b' = w * o + b) : o' = o ∧ b' = b := by
  have hw : 0 < w := Nat.zero_lt_of_lt hb
  have hdiv := congrArg (· / w) h
  simp only [Nat.mul_add_div hw, Nat.div_eq_of_lt hb, Nat.div_eq_of_lt hb', Nat.add_zero] at hdiv
  subst hdiv
  exact ⟨rfl, Nat.add_left_cancel h⟩

theorem elemAt_blocksScale (hnb : nb ≤ w) {o b : Nat} (ho : o < no) (hb : b < nb) (hmax : w * o + b < 512) :
    elemAt (blocksScale (quantised no nb w n pos q)) 8 (w * o + b) = (q o b).1 % 256 := by
  have hfind : (quantised no nb w n pos q).find? (fun x => x.1 == w * o + b) =
      some (w * o + b, (List.range n).map (pos o b), q o b) := by
    refine find?_of_unique (mem_quantised.2 ⟨o, b, ho, hb, rfl⟩) (beq_self_eq_true _) fun x hx ht => ?_
    obtain ⟨o', b', -, hb', rfl⟩ := mem_quantised.1 hx
    obtain ⟨rfl, rfl⟩ := blockNumber_inj (hb.trans_le hnb) (hb'.trans_le hnb) (beq_iff_eq.1 ht)
    rfl
  rw [blocksScale, elemAt_ofElems _ _ _ _ (by simp)]
  simp [hmax, hfind]

theorem mem_blockCodes (hlen : ∀ o b, (q o b).2.1.length = n) {e : (Nat × Nat) × Nat} :
    e ∈ blockCodes (quantised no nb w n pos q) ↔ ∃ o b k, o < no ∧ b < nb ∧ k < n ∧ (pos o b k, (q o b).2.1.getD k 0) = e := by
  rw [blockCodes, List.mem_flatMap]
  constructor
  · rintro ⟨x, hx, he⟩
    obtain ⟨o, b, ho, hb, rfl⟩ := mem_quantised.1 hx
    obtain ⟨k, hk, rfl⟩ := List.getElem_of_mem he
    have hkn : k < n := by simpa [hlen o b] using hk
    exact ⟨o, b, k, ho, hb, hkn, by simp [List.getD_eq_getElem?_getD, hlen o b, hkn]⟩
  · rintro ⟨o, b, k, ho, hb, hk, rfl⟩
    refine ⟨_, mem_quantised.2 ⟨o, b, ho, hb, rfl⟩, List.mem_iff_getElem.2 ⟨k, by simp [hlen o b, hk], ?_⟩⟩
    simp [List.getD_eq_getElem?_getD, hlen o b, hk]

theorem tileAt_blocksTile (hcw : cw * (512 / cw) = 512) (hlen : ∀ o b, (q o b).2.1.length = n)
    (hinj : ∀ o b k o' b' k', k < n → k' < n → pos o' b' k' = pos o b k → o' = o ∧ b' = b ∧ k' = k)
    {o b k : Nat} (ho : o < no) (hb : b < nb) (hk : k < n) (hrow : (pos o b k).1 < 64) (hcol : (pos o b k).2 < 512 / cw) :
    tileAt (blocksTile cw inside (quantised no nb w n pos q)) cw (pos o b k).1 (pos o b k).2 =
      if inside (pos o b k) then (q o b).2.1.getD k 0 % 2 ^ cw else 0 := by
  have hfind : ((blockCodes (quantised no nb w n pos q)).filter (fun e => e.1.1 == (pos o b k).1)).find?
      (fun e => e.1.2 == (pos o b k).2) = some (pos o b k, (q o b).2.1.getD k 0) := by
    refine find?_of_unique (List.mem_filter.2 ⟨(mem_blockCodes hlen).2 ⟨o, b, k, ho, hb, hk, rfl⟩, beq_self_eq_true _⟩)
      (beq_self_eq_true _) fun e he ht => ?_
    obtain ⟨hmem, hr⟩ := List.mem_filter.1 he
    obtain ⟨o', b', k', -, -, hk', rfl⟩ := (mem_blockCodes hlen).1 hmem
    obtain ⟨rfl, rfl, rfl⟩ := hinj o b k o' b' k' hk hk' (Prod.ext (beq_iff_eq.1 hr) (beq_iff_eq.1 ht))
    rfl
  rw [blocksTile, tileAt_tileOf _ hcw hrow hcol, List.getD_eq_getElem?_getD, List.getElem?_map, List.getElem?_range hrow]
  simp only [Option.map_some, Option.getD_some, hfind]
  split <;> simp

theorem blocksFlags_testBit (j : Nat) : (blocksFlags (quantised no nb w n pos q)).testBit j = true ↔
    ∃ o b, o < no ∧ b < nb ∧ (q o b).2.2.testBit j = true := by
  have hfold : blocksFlags (quantised no nb w n pos q) =
      ((quantised no nb w n pos q).map (fun x => (0, x.2.2.2.2))).foldl (fun a x => a ||| x.2) 0 := by
    rw [List.foldl_map]
    rfl
  rw [hfold, foldl_or_testBit]
  simp [quantised]

end

/-- Position k of block b, below the number of whole blocks. -/
theorem block_lt {m n b k : Nat} (hb : b < m / n) (hk : k < n) : b * n + k < m :=
  calc b * n + k < (b + 1) * n := by rw [Nat.succ_mul]; exact Nat.add_lt_add_left hk _
    _ ≤ m / n * n := Nat.mul_le_mul_right n hb
    _ ≤ m := Nat.div_mul_le_self m n

theorem block_inj {n b k b' k' : Nat} (hk : k < n) (hk' : k' < n) (h : b' * n + k' = b * n + k) : b' = b ∧ k' = k :=
  blockNumber_inj hk hk' (by rw [Nat.mul_comm n, Nat.mul_comm n]; exact h)

theorem quantise_length (f g : Fmt) (mode : Rm) (xs : List Num) : (quantise f g mode xs).2.1.length = xs.length := by
  simp only [quantise]
  split
  · simp
  · split
    · simp
    · simp

/-! ### TQNT -/

/-- The entry of a format with scales: its containers and blocks. -/
theorem namedFmt_scaled {fmts : Vector Word 16} {wc code : Nat} {f : Fmt} (h : namedFmt fmts wc code = some f) (hs : f.scale ≠ 0) :
    (f.cw = 4 ∨ f.cw = 8) ∧ (f.blk = 16 ∨ f.blk = 32) := by
  unfold namedFmt at h
  split at h
  · unfold entryAt at h
    dsimp only at h
    split at h
    · cases h
    · split at h
      · cases h
      · cases h
        exact ⟨entryFmt_cw _, by simp only [entryFmt]; split <;> simp⟩
  · repeat' split at h
    all_goals cases h
    all_goals exact absurd rfl hs

/-- The blocks as TQNT quantises them, with its destination's rows and columns. -/
def tqntBlocks (s : State) (d : Fin 8) (r : Fin 4) (f : Fmt) (off : Nat) (inside : Nat × Nat → Bool) : List QBlock :=
  (tileBlocks f).map (fun b => (b.1, b.2, quantise f (scaleFmt s.cx.fmt f) s.rounding
    (b.2.map (fun rc => if inside rc then accSource s.cx.tc[d] s.cx.acc[r] off rc.1 rc.2 else Num.zero))))

/-- A position lies within the tile's ROWS and COLS. -/
def tcInside (v : Word) (rc : Nat × Nat) : Bool := decide (rc.1 < tcRows v) && decide (rc.2 < tcCols v)

section
variable {s : State} {p : Pfx} {d : Fin 8} {r : Fin 4} {f : Fmt}

theorem exec_tqnt (s : State) (p : Pfx) (d : Fin 8) (r : Fin 4) : exec (.tqnt p d r) s = s.fromAcc d true (fun f off =>
    (s.setCx (((s.cx.setTile d (blocksTile f.cw (tcInside s.cx.tc[d]) (tqntBlocks s d r f off (tcInside s.cx.tc[d])))).setScale d
      (blocksScale (tqntBlocks s d r f off (tcInside s.cx.tc[d])))).raise
      (blocksFlags (tqntBlocks s d r f off (tcInside s.cx.tc[d]))))).finish p) := rfl

theorem exec_tqnt_writes (hgood : s.goodTile s.cx.tc[d] f) (hdense : dense s.cx.tc[d]) (hs : f.scale ≠ 0) (hpart : ¬ partBad s d f) :
    s.writesCx (.tqnt · d r) p { s.cx with
      t := s.cx.t.set d (blocksTile f.cw (tcInside s.cx.tc[d]) (tqntBlocks s d r f (partStart s f) (tcInside s.cx.tc[d])))
      scale := s.cx.scale.set d (blocksScale (tqntBlocks s d r f (partStart s f) (tcInside s.cx.tc[d])))
      vtype := s.cx.vtype ||| BitVec.ofNat 64 (blocksFlags (tqntBlocks s d r f (partStart s f) (tcInside s.cx.tc[d])) * 2 ^ 48) } :=
  (State.fromAcc_goes (i := (.tqnt · d r)) (exec_tqnt s p d r) hgood hdense (by simp [hs]) hpart).trans (State.finish_setCx _ _ _)

variable {off : Nat} {src : Nat → Nat → Num} {q : Nat → Nat → Nat × List Nat × Nat}

theorem tqntBlocks_rows (halong : f.along = 0) (hsrc : ∀ i k, accSource s.cx.tc[d] s.cx.acc[r] off i k = src i k)
    (hq : ∀ i b, q i b = quantise f (scaleFmt s.cx.fmt f) s.rounding ((List.range f.blk).map (fun k =>
      if i < rowsOf s.cx.tc[d] ∧ b * f.blk + k < colsOf s.cx.tc[d] then src i (b * f.blk + k) else .fin false 0))) :
    tqntBlocks s d r f off (tcInside s.cx.tc[d]) =
      quantised 64 (512 / f.cw / f.blk) 8 f.blk (fun o b k => (o, b * f.blk + k)) q := by
  rw [tqntBlocks, tileBlocks, if_pos halong, quantised, List.map_flatMap]
  simp only [List.map_map, Function.comp_def, hsrc, hq]
  simp [tcInside, rowsOf, colsOf, tcRows, tcCols, capacity, Num.zero]

theorem tqntBlocks_columns (halong : f.along ≠ 0) (hsrc : ∀ i k, accSource s.cx.tc[d] s.cx.acc[r] off i k = src i k)
    (hq : ∀ k b, q k b = quantise f (scaleFmt s.cx.fmt f) s.rounding ((List.range f.blk).map (fun i =>
      if b * f.blk + i < rowsOf s.cx.tc[d] ∧ k < colsOf s.cx.tc[d] then src (b * f.blk + i) k else .fin false 0))) :
    tqntBlocks s d r f off (tcInside s.cx.tc[d]) =
      quantised (512 / f.cw) (64 / f.blk) 4 f.blk (fun o b k => (b * f.blk + k, o)) q := by
  rw [tqntBlocks, tileBlocks, if_neg halong, quantised, List.map_flatMap]
  simp only [List.map_map, Function.comp_def, hsrc, hq]
  simp [tcInside, rowsOf, colsOf, tcRows, tcCols, capacity, Num.zero]

end

section
variable {s : State} {p : Pfx} {d : Fin 8} {r : Fin 4} {f : Fmt} {src : Nat → Nat → Num}

theorem acvt_converts (hgood : s.goodTile s.cx.tc[d] f) (hdense : dense s.cx.tc[d]) (hs : f.scale = 0) (hpart : ¬ partBad s d f)
    (hsrc : ∀ i k, accSource s.cx.tc[d] s.cx.acc[r] (partStart s f) i k = src i k) :
    ∃ x fl, s.writesCx (.acvt · d r) p { s.cx with t := s.cx.t.set d x, vtype := s.cx.vtype ||| BitVec.ofNat 64 (fl * 2 ^ 48) } ∧
      (∀ i k, i < 64 → k < 512 / f.cw → tileAt x f.cw i k =
        if i < rowsOf s.cx.tc[d] ∧ k < colsOf s.cx.tc[d] then (roundTo f s.rounding (src i k)).1 % 2 ^ f.cw else 0) ∧
      (∀ b, fl.testBit b = true ↔ ∃ i k, i < rowsOf s.cx.tc[d] ∧ k < colsOf s.cx.tc[d] ∧
        (roundTo f s.rounding (src i k)).2.testBit b = true) := by
  refine ⟨_, _, exec_acvt_writes hgood hdense hs hpart, fun i k hi hk => ?_, fun b => ?_⟩
  · rw [tileAt_tileOfRows _ hgood.row hi hk, hsrc]
    rfl
  · rw [rowsFlags_testBit]
    simp only [hsrc]
    rfl

theorem tqnt_quantises (hgood : s.goodTile s.cx.tc[d] f) (hdense : dense s.cx.tc[d]) (hs : f.scale ≠ 0) (hpart : ¬ partBad s d f)
    (hsrc : ∀ i k, accSource s.cx.tc[d] s.cx.acc[r] (partStart s f) i k = src i k) :
    ∃ x y fl, s.writesCx (.tqnt · d r) p { s.cx with
        t := s.cx.t.set d x, scale := s.cx.scale.set d y, vtype := s.cx.vtype ||| BitVec.ofNat 64 (fl * 2 ^ 48) } ∧
      (f.along = 0 → ∀ q : Nat → Nat → Nat × List Nat × Nat,
        (∀ i b, q i b = quantise f (scaleFmt s.cx.fmt f) s.rounding ((List.range f.blk).map (fun k =>
          if i < rowsOf s.cx.tc[d] ∧ b * f.blk + k < colsOf s.cx.tc[d] then src i (b * f.blk + k) else .fin false 0))) →
        (∀ i b, i < 64 → b < 512 / f.cw / f.blk → elemAt y 8 (8 * i + b) = (q i b).1 % 256 ∧
          ∀ k, k < f.blk → tileAt x f.cw i (b * f.blk + k) =
            if i < rowsOf s.cx.tc[d] ∧ b * f.blk + k < colsOf s.cx.tc[d] then (q i b).2.1.getD k 0 % 2 ^ f.cw else 0) ∧
        (∀ n, fl.testBit n = true ↔ ∃ i b, i < 64 ∧ b < 512 / f.cw / f.blk ∧ (q i b).2.2.testBit n = true)) ∧
      (f.along ≠ 0 → ∀ q : Nat → Nat → Nat × List Nat × Nat,
        (∀ k b, q k b = quantise f (scaleFmt s.cx.fmt f) s.rounding ((List.range f.blk).map (fun i =>
          if b * f.blk + i < rowsOf s.cx.tc[d] ∧ k < colsOf s.cx.tc[d] then src (b * f.blk + i) k else .fin false 0))) →
        (∀ k b, k < 512 / f.cw → b < 64 / f.blk → elemAt y 8 (4 * k + b) = (q k b).1 % 256 ∧
          ∀ i, i < f.blk → tileAt x f.cw (b * f.blk + i) k =
            if b * f.blk + i < rowsOf s.cx.tc[d] ∧ k < colsOf s.cx.tc[d] then (q k b).2.1.getD i 0 % 2 ^ f.cw else 0) ∧
        (∀ n, fl.testBit n = true ↔ ∃ k b, k < 512 / f.cw ∧ b < 64 / f.blk ∧ (q k b).2.2.testBit n = true)) := by
  obtain ⟨hcw, hblk⟩ := namedFmt_scaled hgood.1 hs
  have hpos : 0 < f.blk := by omega
  refine ⟨_, _, _, exec_tqnt_writes hgood hdense hs hpart, fun halong q hq => ?_, fun halong q hq => ?_⟩
  · have hlen : ∀ o b, (q o b).2.1.length = f.blk := fun o b => by rw [hq, quantise_length, List.length_map, List.length_range]
    rw [tqntBlocks_rows halong hsrc hq]
    have hnb : 512 / f.cw / f.blk ≤ 8 := by rcases hcw with h | h <;> rcases hblk with h' | h' <;> simp [h, h']
    refine ⟨fun i b hi hb => ⟨elemAt_blocksScale hnb hi hb (by omega), fun k hk => ?_⟩, blocksFlags_testBit⟩
    have hcol : b * f.blk + k < 512 / f.cw := block_lt hb hk
    refine (tileAt_blocksTile hgood.row hlen (fun o b k o' b' k' hk hk' h => ?_) hi hb hk hi hcol).trans
      (by simp [tcInside, rowsOf, colsOf, tcRows, tcCols])
    obtain ⟨ho, hpos⟩ := Prod.ext_iff.1 h
    exact ⟨ho, block_inj hk hk' hpos⟩
  · have hlen : ∀ o b, (q o b).2.1.length = f.blk := fun o b => by rw [hq, quantise_length, List.length_map, List.length_range]
    rw [tqntBlocks_columns halong hsrc hq]
    have hnb : 64 / f.blk ≤ 4 := by rcases hblk with h' | h' <;> simp [h']
    have hcap : 512 / f.cw ≤ 128 := by rcases hcw with h | h <;> simp [h]
    refine ⟨fun k b hk hb => ⟨elemAt_blocksScale hnb hk hb (by omega), fun i hi => ?_⟩, blocksFlags_testBit⟩
    have hrow : b * f.blk + i < 64 := block_lt hb hi
    refine (tileAt_blocksTile hgood.row hlen (fun o b k o' b' k' hk hk' h => ?_) hk hb hi hrow hk).trans
      (by simp [tcInside, rowsOf, colsOf, tcRows, tcCols])
    obtain ⟨hpos, ho⟩ := Prod.ext_iff.1 h
    exact ⟨ho, block_inj hk hk' hpos⟩

end

end Sys2Proof.Machine
end

section
/-! PROOF. O40: the local bytes that a bank move checks and reads (R104, R209). -/

namespace Sys2Proof.Machine

/-! ### The checks of consecutive doublewords -/

section
variable {s : State} {want : Want} {a : Word} {n : Nat}

theorem offset_succ (a : Word) (i : Nat) : a + BitVec.ofNat 64 (8 * (i + 1)) = a + 8 + BitVec.ofNat 64 (8 * i) := by bv_omega

theorem State.localChecks_ok (h : ∀ i, i < n → s.localCheck want (a + BitVec.ofNat 64 (8 * i)) = .ok) : s.localChecks want a n = .ok := by
  induction n generalizing a with
  | zero => rfl
  | succ n ih =>
    have h0 : s.localCheck want a = .ok := by simpa using h 0 (Nat.succ_pos n)
    rw [State.localChecks, h0]
    exact ih fun i hi => offset_succ a i ▸ h (i + 1) (Nat.succ_lt_succ hi)

theorem State.localChecks_trap {i c : Nat} {f : Word} (hi : i < n)
    (hbefore : ∀ i', i' < i → s.localCheck want (a + BitVec.ofNat 64 (8 * i')) = .ok)
    (h : s.localCheck want (a + BitVec.ofNat 64 (8 * i)) = .trap c f) : s.localChecks want a n = .trap c f := by
  induction n generalizing a i with
  | zero => exact absurd hi (Nat.not_lt_zero i)
  | succ n ih =>
    cases i with
    | zero =>
      have h0 : s.localCheck want a = .trap c f := by simpa using h
      rw [State.localChecks, h0]
    | succ i =>
      have h0 : s.localCheck want a = .ok := by simpa using hbefore 0 (Nat.succ_pos i)
      rw [State.localChecks, h0]
      exact ih (Nat.lt_of_succ_lt_succ hi) (fun i' hi' => offset_succ a i' ▸ hbefore (i' + 1) (Nat.succ_lt_succ hi')) (offset_succ a i ▸ h)

end

/-! ### Bit vectors read from local bytes -/

theorem testBit_elemAt {w : Nat} (x : BitVec w) (n k i : Nat) : (elemAt x n k).testBit i = (decide (i < n) && x.getLsbD (n * k + i)) := by
  rw [elemAt, Nat.testBit_mod_two_pow, Nat.testBit_div_two_pow, Nat.add_comm, BitVec.getLsbD]

/-- A bit vector is made of its bytes. -/
theorem eq_of_bytes {n : Nat} {x y : BitVec (8 * n)} (h : ∀ j, j < n → elemAt x 8 j = elemAt y 8 j) : x = y := by
  refine BitVec.eq_of_getLsbD_eq fun i hi => ?_
  have hbyte := congrArg (Nat.testBit · (i % 8)) (h (i / 8) (by omega))
  simpa only [testBit_elemAt, Nat.div_add_mod, Nat.mod_lt i (show 8 > 0 by decide), decide_true, Bool.true_and] using hbyte

theorem leNat_eq_foldr (bs : List Byte) : leNat bs = (bs.map BitVec.toNat).foldr (fun c acc => c % 2 ^ 8 + 2 ^ 8 * acc) 0 := by
  induction bs with
  | nil => rfl
  | cons b bs ih =>
    rw [leNat, ih, List.map_cons, List.foldr_cons, Nat.mod_eq_of_lt b.isLt]
    rfl

/-- Byte j of a bit vector read from local memory. -/
theorem State.elemAt_localBits {s : State} {n a j : Nat} (hj : j < n) : elemAt (s.localBits (8 * n) a) 8 j = (s.localByte (a + j)).toNat := by
  have hofElems : s.localBits (8 * n) a = ofElems (8 * n) 8 ((s.localBytes a n).map BitVec.toNat) := by
    rw [State.localBits, State.localNat, Nat.mul_div_cancel_left n (by decide), leNat_eq_foldr]
    rfl
  rw [hofElems, State.localBytes_eq, elemAt_ofElems _ _ _ _ (by simp)]
  simpa [hj] using (s.localByte (a + j)).isLt

/-- A bit vector is what its bytes in local memory spell. -/
theorem State.localBits_eq {s : State} {n a : Nat} {x : BitVec (8 * n)} (h : ∀ j, j < n → elemAt x 8 j = (s.localByte (a + j)).toNat) :
    s.localBits (8 * n) a = x :=
  eq_of_bytes fun j hj => (State.elemAt_localBits hj).trans (h j hj).symm

end Sys2Proof.Machine
end

section
/-! PROOF. O40: the start of MMAM (R217). -/

namespace Sys2Proof.Machine

theorem mmaTags_iff {op : Nat} {va vb : Word} {fa fb : Fmt} : mmaTags op va vb fa fb = true ↔ productTags op va vb fa fb := by
  simp only [mmaTags, productTags, Bool.and_eq_true, Bool.or_eq_true, Bool.not_eq_true', ← Bool.not_eq_true, rowish_iff, beq_iff_eq,
    and_assoc, or_iff_not_imp_left]
  rfl

section
variable {s : State} {op : Nat} {va vb : Word} {fa fb : Fmt}

theorem State.mmaCheck_first {c : Nat} (h : tileCheck s.cx.fmt va = .error c) : mmaCheck s.cx.fmt op va vb = .error c := by
  rw [mmaCheck, h]

theorem State.mmaCheck_second {c : Nat} (ha : s.goodTile va fa) (h : tileCheck s.cx.fmt vb = .error c) :
    mmaCheck s.cx.fmt op va vb = .error c := by
  rw [mmaCheck, ha.check, h]

theorem State.mmaCheck_tags (ha : s.goodTile va fa) (hb : s.goodTile vb fb) [Decidable (productTags op va vb fa fb)] :
    mmaCheck s.cx.fmt op va vb = if productTags op va vb fa fb then .ok (fa, fb) else .error 0x51 := by
  rw [mmaCheck, ha.check, hb.check]
  by_cases h : productTags op va vb fa fb
  · exact (if_pos (mmaTags_iff.2 h)).trans (if_pos h).symm
  · exact (if_neg (mt mmaTags_iff.1 h)).trans (if_neg h).symm

end

/-- The sparseness field of a descriptor's first control register. -/
theorem tcSparse_sparseA (rec8 : Record) : tcSparse (dword rec8 3) = bitsOf rec8 198 196 := by
  simp only [tcSparse, bitsOf, dword, BitVec.toNat_ofNat]
  omega

/-- The class of a tile control register is one of TCFG's checks. -/
theorem tcfgBad_of_class {v : Word} (h : bitsOf v 11 10 ≠ 0) : tcfgBad v = true := by
  have hclass : (tcClass v != 0) = true := bne_iff_ne.2 h
  simp [tcfgBad, hclass]

section
variable {s : State} {p : Pfx} {r : Fin 4} {a : Fin 16} {rec8 : Record}

theorem State.setMe_enqueue (s : State) (c : Nat) (i : Instr) (k : Core) : (s.enqueue c i).setMe k = (s.setMe k).enqueue c i := rfl

theorem State.setCx_setMmam (s : State) (c : Ctx) (m : MmamRun) :
    (s.setCx c).setMe { (s.setCx c).me with mmam := some m } = s.setMe { s.me.setCx c with mmam := some m } := by
  rw [State.setCx, State.me_setMe, State.setMe_setMe]

theorem State.setCx_startMmam (s : State) (c : Ctx) (m : MmamRun) (p : Pfx) :
    ((((s.setCx c).setMe { (s.setCx c).me with mmam := some m }).enqueue s.cur .mmamStep).waitFor (.mmam p)) =
      .next ((s.setMe { (s.me.setCx c).tick 1 with mmam := some m, run := .waiting (.mmam p) }).enqueue s.cur .mmamStep) := by
  rw [State.setCx_setMmam, State.waitFor, State.me_enqueue, State.me_setMe, State.setMe_enqueue, State.setMe_setMe]
  rfl

/-- The start of MMAM once its descriptor is checked and no BAL runs. -/
def State.mmamStart (s : State) (p : Pfx) (r : Fin 4) (addr : Word) (rec8 : Record) : Res :=
  match mmaCheck s.cx.fmt (tcSparse (mmTca rec8)) (mmTca rec8) (mmTcb rec8) with
  | .error x => s.trapMe x 0
  | .ok (fa, fb) =>
    let m : MmamRun :=
      { acc := r, desc := rec8, daddr := addr, op := tcSparse (mmTca rec8), fmtA := fa, fmtB := fb
        sfmtA := scaleFmt s.cx.fmt fa, sfmtB := scaleFmt s.cx.fmt fb, kb := mmK0 rec8, done := 0 }
    let s := s.setCx ((s.cx.setTc (mmTa rec8) (mmTca rec8)).setTc (mmTb rec8) (mmTcb rec8))
    (State.enqueue (s.setMe { s.me with mmam := some m }) s.cur .mmamStep).waitFor (.mmam p)

variable (halign : (s.me.getG a).toNat % 64 = 0)
  (hok : ∀ i, i < 8 → s.localCheck .read (s.me.getG a + BitVec.ofNat 64 (8 * i)) = .ok)
  (hrec : ∀ j, j < 64 → elemAt rec8 8 j = (s.localByte ((s.me.getG a).toNat + j)).toNat)
include halign hok hrec

theorem exec_mmam_read : exec (.mmam p r a) s =
    if mdescBad rec8 then s.trapMe Cause.mdesc (s.me.getG a)
    else if s.me.balTile (mmTa rec8) || s.me.balTile (mmTb rec8) then s.waitCycle
    else if tcfgBad (mmTca rec8) || tcfgBad (mmTcb rec8) then s.trapMe Cause.mtcfg 0
    else s.mmamStart p r (s.me.getG a) rec8 := by
  have hbits : s.localBits 512 (s.me.getG a).toNat = rec8 := State.localBits_eq (n := 64) hrec
  have hgoes : ∀ go, s.bankMove (s.me.getG a) (s.localChecks .read (s.me.getG a) 8) go = go := fun go => by
    simp only [State.bankMove, halign, State.localChecks_ok hok, ne_eq, not_true_eq_false, if_false]
  rw [← hbits]
  exact hgoes _

theorem exec_mmam_mdesc (h : mdescBad rec8 = true) : s.trapsAt (.mmam · r a) p 0x53 (s.me.getG a) :=
  (exec_mmam_read halign hok hrec).trans (if_pos h)

variable (hbal : s.me.bal = none) (hdesc : mdescBad rec8 = false)
include hbal hdesc

theorem exec_mmam_tcfg (h : tcfgBad (dword rec8 3) = true ∨ tcfgBad (dword rec8 4) = true) : s.TrapsWith (.mmam · r a) p 0x50 := by
  have hfree : ∀ t, s.me.balTile t = false := fun t => by rw [Core.balTile, hbal]
  have hbad : (tcfgBad (mmTca rec8) || tcfgBad (mmTcb rec8)) = true := (Bool.or_eq_true _ _).mpr h
  simp only [State.TrapsWith, exec_mmam_read halign hok hrec, hdesc, hfree, hbad, Bool.or_self, Bool.false_eq_true, if_false, if_true]
  rfl

theorem exec_mmam_start (ha : tcfgBad (dword rec8 3) = false) (hb : tcfgBad (dword rec8 4) = false) :
    exec (.mmam p r a) s = s.mmamStart p r (s.me.getG a) rec8 := by
  have hfree : ∀ t, s.me.balTile t = false := fun t => by rw [Core.balTile, hbal]
  have hgood : (tcfgBad (mmTca rec8) || tcfgBad (mmTcb rec8)) = false := Bool.or_eq_false_iff.2 ⟨ha, hb⟩
  simp only [exec_mmam_read halign hok hrec, hdesc, hfree, hgood, Bool.or_self, Bool.false_eq_true, if_false]

end

section
variable {s : State} {p : Pfx} {r : Fin 4} {a : Fin 16} {rec8 : Record} {fa fb : Fmt}
  (hstart : exec (.mmam p r a) s = s.mmamStart p r (s.me.getG a) rec8)
include hstart

theorem mmam_tileTraps_first : s.tileTraps (dword rec8 3) (.mmam · r a) p :=
  State.tileTraps_of_check fun c hc => by
    simp only [State.TrapsWith, hstart, State.mmamStart, mmTca, State.mmaCheck_first hc]
    rfl

theorem mmam_tileTraps_second (ha : s.goodTile (dword rec8 3) fa) : s.tileTraps (dword rec8 4) (.mmam · r a) p :=
  State.tileTraps_of_check fun c hc => by
    simp only [State.TrapsWith, hstart, State.mmamStart, mmTca, mmTcb, State.mmaCheck_second ha hc]
    rfl

variable (ha : s.goodTile (dword rec8 3) fa) (hb : s.goodTile (dword rec8 4) fb)
include ha hb

theorem mmam_tagTraps (h : ¬ productTags (bitsOf rec8 198 196) (dword rec8 3) (dword rec8 4) fa fb) : s.TrapsWith (.mmam · r a) p 0x51 := by
  classical
  have hcheck := (State.mmaCheck_tags (op := tcSparse (dword rec8 3)) ha hb).trans (if_neg (by rw [tcSparse_sparseA]; exact h))
  simp only [State.TrapsWith, hstart, State.mmamStart, mmTca, mmTcb, hcheck]
  rfl

theorem mmam_starts (h : productTags (bitsOf rec8 198 196) (dword rec8 3) (dword rec8 4) fa fb) : ∃ t k m,
    exec (.mmam p r a) s = .next t ∧ t.flight = s.flight ++ [(s.cur, .mmamStep)] ∧ t.core s.cur = k ∧
    k.run = .waiting (.mmam p) ∧ k.mmam = some m ∧ m.desc = rec8 ∧ m.acc = r ∧ m.daddr = s.me.getG a ∧
    m.kb = bitsOf rec8 351 336 ∧ m.done = 0 ∧ m.base = none ∧ k.g = s.me.g ∧ k.pc = s.me.pc ∧
    k.cx = { s.cx with tc := (s.cx.tc.set (mmTa rec8) (dword rec8 3)).set (mmTb rec8) (dword rec8 4) } := by
  classical
  have hcheck := (State.mmaCheck_tags (op := tcSparse (dword rec8 3)) ha hb).trans (if_pos (by rw [tcSparse_sparseA]; exact h))
  have hexec := hstart
  simp only [State.mmamStart, mmTca, mmTcb, hcheck, State.setCx_cur] at hexec
  rw [State.setCx_startMmam] at hexec
  exact ⟨_, _, _, hexec, rfl, State.me_setMe _ _, rfl, rfl, rfl, rfl, rfl, rfl, rfl, rfl, rfl, rfl, Core.cx_setCx s.me _⟩

end

end Sys2Proof.Machine
end

section
/-! PROOF. O40: a trap leaves the banks as it finds them, but for the count of an MMAM that waits (R130, R218). -/

namespace Sys2Proof.Machine

/-! ### Operations that leave the banks' bytes as they are -/

@[simp] theorem State.event_bmem (s : State) (cls : EventClass) (site part detail : Nat) : (s.event cls site part detail).bmem = s.bmem := by
  unfold State.event; dsimp only; split <;> rfl

theorem State.noteFull_bmem (s : State) (p a : Nat) : (s.noteFull p a).bmem = s.bmem := by
  unfold State.noteFull; dsimp only; split
  · rfl
  · rw [State.event_bmem]; rfl

theorem State.noteRoom_bmem (s : State) (p a : Nat) : (s.noteRoom p a).bmem = s.bmem := rfl

theorem State.sendWake_bmem {s t : State} {p enc cell : Nat} {va : Word} {r : Record} (h : s.sendWake p enc cell va r = some t) :
    t.bmem = s.bmem := by
  unfold State.sendWake at h
  split at h
  · injection h with h; subst h; rfl
  · cases h

theorem State.wakeAll_bmem (s : State) (p key : Nat) (cell : Word) (is : List Nat) : (s.wakeAll p key cell is).bmem = s.bmem := by
  induction is generalizing s with
  | nil => rfl
  | cons i is ih =>
    unfold State.wakeAll
    split
    · exact ih s
    · split
      · next t h => exact (ih _).trans ((State.setPart_bmem t p _).trans (State.sendWake_bmem h))
      · exact ih _

theorem State.cellWrite_bmem (s : State) (p cell : Nat) (va v : Word) (ver : Nat) : (s.cellWrite p cell va v ver).bmem = s.bmem := by
  unfold State.cellWrite; rw [State.wakeAll_bmem]; rfl

theorem State.writeFault_bmem {s t : State} {p : Nat} {r : Record} (h : s.writeFault p r = some t) : t.bmem = s.bmem := by
  obtain ⟨ctl, slot, v, -, us, u, ht⟩ := State.writeFault_eq h
  rw [ht, State.cellWrite_bmem, State.storeCells_bmem, State.useKeys_bmem]

theorem State.countCtl_bmem (s : State) (p a : Nat) : (s.countCtl p a).bmem = s.bmem := by
  obtain ⟨_, h⟩ := s.countCtl_eq p a; rw [h]

theorem State.noteAll_bmem (s : State) (p : Nat) (rs : List (Nat × Record)) : (s.noteAll p rs).bmem = s.bmem := by
  induction rs generalizing s with
  | nil => rfl
  | cons x rs ih => exact (ih _).trans (State.noteFull_bmem _ _ _)

theorem State.flushList_bmem (s : State) (p : Nat) (rs : List (Nat × Record)) : (s.flushList p rs).bmem = s.bmem := by
  induction rs generalizing s with
  | nil => rfl
  | cons x rs ih =>
    unfold State.flushList
    split
    · next t h => exact (ih _).trans ((State.noteRoom_bmem t p _).trans (State.writeFault_bmem h))
    · exact (State.noteAll_bmem _ _ _).trans (State.countCtl_bmem s p x.1)

theorem State.flushKept_bmem (s : State) (p : Nat) : (s.flushKept p).bmem = s.bmem := State.flushList_bmem _ _ _

theorem State.reportTrap_bmem (s : State) (c p enc : Nat) (r : Record) : (s.reportTrap c p enc r).bmem = s.bmem := by
  unfold State.reportTrap
  dsimp only
  split
  · split
    · next t h => exact (State.flushKept_bmem _ _).trans ((State.noteRoom_bmem t p c).trans (State.writeFault_bmem h))
    · exact (State.noteFull_bmem _ _ _).trans (State.countCtl_bmem _ _ _)
  · rfl

theorem State.returnEntry_bmem (s : State) (c enc : Nat) (e : Entry) (origin : Origin) : (s.returnEntry c enc e origin).bmem = s.bmem := by
  unfold State.returnEntry
  dsimp only
  split
  · rfl
  · split
    · rfl
    · exact State.event_bmem _ _ _ _ _

theorem State.taskTrapped_bmem (s : State) (p : Nat) (h : Handler) : (s.taskTrapped p h).bmem = s.bmem := by
  unfold State.taskTrapped
  split <;> rfl

/-! ### The count of steps of an MMAM whose handler traps (R218) -/

/-- A trap first counts the error that caused it, and gives up a stalled access. -/
def State.trapNoted (s : State) (c : Nat) (t : TrapInfo) : State :=
  (if t.cause = Cause.sealmac then s.lifeAdd (1 + c) 3 1
    else if t.cause = Cause.bankecc then s.lifeAdd (1 + c) 4 1 else s).dropStalled c

theorem State.trapNoted_bmem (s : State) (c : Nat) (t : TrapInfo) : (s.trapNoted c t).bmem = s.bmem := by
  unfold State.trapNoted
  split
  · rfl
  · split <;> rfl

theorem State.trapNoted_core (s : State) (c : Nat) (t : TrapInfo) (n : Nat) : (s.trapNoted c t).core n = s.core n := by
  unfold State.trapNoted
  split
  · rfl
  · split <;> rfl

theorem State.trap_bmem (s : State) (c : Nat) (t : TrapInfo) : (s.trap c t).bmem = ((s.trapNoted c t).stopMmam c).bmem := by
  rw [State.trap]
  dsimp only
  rw [State.enqueue_bmem, State.returnEntry_bmem, State.reportTrap_bmem, State.setCore_bmem, State.taskTrapped_bmem]
  rfl

theorem State.stopMmam_bmem {s : State} {c : Nat} {m : MmamRun} {e : Word} (hm : (s.core c).mmam = some m)
    (he : e = (s.core c).cx.slot ((m.daddr.toNat + 56) / 4096)) (hst : slotState e = 1) (hwr : slotWr e = true) :
    (s.stopMmam c).bmem = memCells (cellsAt (slotBank e * 4096 + (m.daddr.toNat + 56) % 4096) (leBytes 8 m.done)) s.bmem := by
  subst he
  simp only [State.stopMmam, hm, hst, hwr, decide_true, Bool.and_self, if_true]
  rfl

theorem trap_stores_prog {s : State} {m : MmamRun} {e : Word} (t : TrapInfo) (hm : s.me.mmam = some m)
    (he : e = s.cx.slot ((m.daddr.toNat + 56) / 4096)) (hst : bitsOf e 33 32 = 1) (hwr : bitOf e 35 = true) (hwf : s.memWf)
    {j : Nat} (hj : j < 8) :
    memRead (s.trap s.cur t).bmem (slotBank e * 4096 + (m.daddr.toNat + 56) % 4096 + j) = byteAt m.done j := by
  have hcore := s.trapNoted_core s.cur t s.cur
  rw [State.trap_bmem, State.stopMmam_bmem (m := m) (by rw [hcore]; exact hm) (by rw [hcore]; exact he) hst hwr, State.trapNoted_bmem,
    memRead_cellsAt _ _ hwf.2, leBytes_length, if_pos ⟨Nat.le_add_right _ _, Nat.add_lt_add_left hj _⟩, Nat.add_sub_cancel_left,
    leBytes_getD _ _ hj]

end Sys2Proof.Machine
end

section
/-! PROOF. O40: the end and the faults of MMAM's steps (R217, R218). -/

namespace Sys2Proof.Machine

section
variable {s : State} {p : Pfx} {m : MmamRun} (hrun : s.me.run = .waiting (.mmam p)) (hm : s.me.mmam = some m)
include hrun hm

theorem mmamStep_ends (hdone : m.done = mmKn m.desc) : exec .mmamStep s = .next (s.mmamEnd p m) := by
  show execMmamStep s = _
  simp only [execMmamStep, hrun, hm, hdone, if_true]

theorem mmamStep_stores (hdone : m.done = mmKn m.desc) (hok : s.localCheck .write (m.daddr + 56) = .ok)
    (halign : (m.daddr + 56).toNat % 8 = 0) (hwf : s.memWf) (hout : ∀ j, j < 8 → s.me.inWorkspace ((m.daddr + 56).toNat + j) = false) :
    ∃ t, exec .mmamStep s = .next t ∧
      t = { s.setMe (Core.resume { s.me with mmam := none } p) with bmem := t.bmem, bpoison := t.bpoison } ∧
      (∀ j, j < 8 → memRead t.bmem (s.me.bankByte (m.daddr + 56).toNat + j) = byteAt m.done j) := by
  have hexec := mmamStep_ends hrun hm hdone
  simp only [State.mmamEnd, hok] at hexec
  rw [State.localWrite_bank (fun x hx hx' => ?out) (by rw [leBytes_length]; omega), State.me_setMe, State.setMe_setMe] at hexec
  case out =>
    rw [leBytes_length] at hx'
    obtain ⟨j, rfl⟩ := Nat.exists_eq_add_of_le hx
    exact hout j (Nat.lt_of_add_lt_add_left hx')
  refine ⟨_, hexec, rfl, fun j hj => ?_⟩
  refine (memRead_cellsAt _ _ hwf.2 _).trans ?_
  rw [leBytes_length, if_pos ⟨Nat.le_add_right _ _, Nat.add_lt_add_left hj _⟩, Nat.add_sub_cancel_left, leBytes_getD _ _ hj]

end

end Sys2Proof.Machine
end

section
/-! PROOF. O40: the product of two tiles, element by element (R183, R214 to R216). -/

namespace Sys2Proof.Machine

/-! ### The positions of a k-group -/

theorem filter_lt_range (n m : Nat) : (List.range n).filter (fun q => decide (q < m)) = List.range (min n m) := by
  induction n with
  | zero => rw [Nat.zero_min]; rfl
  | succ n ih =>
    rw [List.range_succ, List.filter_append, ih]
    by_cases h : n < m
    · rw [Nat.min_eq_left h.le, Nat.min_eq_left h, List.range_succ]
      simp [h]
    · rw [Nat.min_eq_right (Nat.not_lt.1 h), Nat.min_eq_right (Nat.le_succ_of_le (Nat.not_lt.1 h))]
      simp [h]

theorem groupPositions (n g : Nat) : ((List.range n).drop (16 * g)).take 16 =
    ((List.range 16).filter (fun q => decide (16 * g + q < n))).map (16 * g + ·) := by
  have hfilter : (fun q => decide (16 * g + q < n)) = fun q => decide (q < n - 16 * g) := funext fun q => by
    rw [decide_eq_decide]
    omega
  rw [hfilter, filter_lt_range, List.range_eq_range', List.drop_range', List.range'_eq_map_range, ← List.map_take, List.take_range]
  simp

/-! ### The sum of a k-group -/

/-- The products of the pairs whose first part is kept. -/
def pairProducts (ps : List (Option Num × Num)) : List Num := ps.filterMap (fun x => x.1.map (fun a => (mulNum a x.2).1))

theorem groupSum_some (ps : List (Option Num × Num)) (y : Num) :
    groupSum ps (some y) = (pairProducts ps).foldl (fun a b => (addNum a b).1) y := by
  induction ps generalizing y with
  | nil => rfl
  | cons x ps ih =>
    obtain ⟨_ | a, b⟩ := x
    · exact ih y
    · exact ih _

theorem groupSum_none (ps : List (Option Num × Num)) : groupSum ps none = exactSum (pairProducts ps) := by
  induction ps with
  | nil => rfl
  | cons x ps ih =>
    obtain ⟨_ | a, b⟩ := x
    · exact ih
    · exact groupSum_some ps _

/-- The sum of group g of the pairs at each position below n. -/
theorem groupSum_positions (a : Nat → Option Num) (b : Nat → Num) (n g : Nat) :
    groupSum ((((List.range n).map (fun k => (a k, b k))).drop (16 * g)).take 16) none =
      exactSum (((List.range 16).filter (fun q => decide (16 * g + q < n))).filterMap
        (fun q => (a (16 * g + q)).map (fun x => (mulNum x (b (16 * g + q))).1))) := by
  rw [groupSum_none, ← List.map_drop, ← List.map_take, groupPositions, List.map_map, pairProducts, List.filterMap_map]
  rfl

/-- The groups enter the element in ascending order. -/
theorem accElem_eq_foldl (on : Nat → Bool) (ps : List (Option Num × Num)) (n g x : Nat) : accElem on ps n g x =
    (List.range n).foldl (fun x k => if on (g + k) then
      (f32 (addNum (d32 x) (groupSum ((ps.drop (16 * k)).take 16) none)).1).1 else x) x := by
  induction n generalizing ps g x with
  | zero => rfl
  | succ n ih =>
    rw [accElem, ih, List.range_succ_eq_map, List.foldl_cons, List.foldl_map]
    simp only [List.drop_drop, Nat.mul_succ, Nat.add_comm 16, Nat.succ_eq_add_one, Nat.add_right_comm g 1, Nat.add_assoc, Nat.mul_zero,
      List.drop_zero, Nat.add_zero]

/-! ### The elements of the operands -/

section
variable {u : State} {f : Fmt} {t : Fin 8} {r cont c : Nat}

theorem tileCont_eq_tileAt (x : BitVec 32768) {cw : Nat} (hcw : cw * (512 / cw) = 512) (r c : Nat) : tileCont x cw r c = tileAt x cw r c := by
  rw [tileCont, tileAt, elemAt, Nat.mul_add, ← Nat.mul_assoc, hcw]

theorem tileValAt_eq_tileNum (hcw : f.cw * (512 / f.cw) = 512) (halong : f.scale ≠ 0 → f.along = 0) :
    tileValAt f (scaleFmt u.cx.fmt f) u.cx.t[t] u.cx.scale[t] r cont c = u.tileNum f t r cont c := by
  rw [tileValAt, State.tileNum, tileCont_eq_tileAt _ hcw]
  by_cases hs : f.scale = 0
  · simp only [hs, if_true]
  · simp only [hs, if_false, scaleByte, halong hs, if_true]

theorem metaNibble_eq_elemAt (x : BitVec 32768) (i q : Nat) : metaNibble x i q = elemAt x 4 (128 * i + 64 + q) := by
  rw [metaNibble, elemAt, show 512 * i + 256 + 4 * q = 4 * (128 * i + 64 + q) by omega]
  rfl

theorem nibble_high {w : Nat} (x : BitVec w) (n : Nat) : elemAt x 4 n / 4 % 4 = elemAt x 4 n / 4 := by
  have h := elemAt_lt x 4 n
  omega

theorem valA_eq {op : Nat} (hcw : f.cw * (512 / f.cw) = 512) (halong : f.scale ≠ 0 → f.along = 0) (i k : Nat) :
    valA op (u.cx.tileOp t f) i k = if op = 1 then u.keptNum f t i k else some (u.tileNum f t i k k) := by
  by_cases hop : op = 1
  · rw [valA, if_pos hop, if_pos hop, State.keptNum]
    simp only [metaNibble_eq_elemAt, nibble_high, Ctx.tileOp, tileValAt_eq_tileNum hcw halong]
  · rw [valA, if_neg hop, if_neg hop, tileVal]
    exact congrArg some (tileValAt_eq_tileNum hcw halong)

theorem groupOn_eq_false {op i g : Nat} : groupOn op (u.cx.tileOp t f) i g = false ↔
    op = 2 ∧ (bitsOf u.cx.tc[t] 63 32).testBit (i / 16 * (512 / f.cw / 16) + g) = false := by
  rw [groupOn, Bool.or_eq_false_iff, bne_eq_false_iff_eq, Nat.testBit_eq_decide_div_mod_eq]
  simp only [beq_eq_decide]
  rfl

/-- Every group of the rows names two positions in rising order, or the metadata is bad. -/
theorem State.goodMeta_iff : u.goodMeta t ↔ badMeta u.cx.tc[t] u.cx.t[t] = false := by
  simp only [State.goodMeta, badMeta, List.any_eq_false, List.mem_range, decide_eq_true_eq, metaNibble_eq_elemAt, nibble_high, Nat.not_le,
    Bool.not_eq_true]
  exact ⟨fun h i hi q hq => h i q hi hq, fun h i q hi hq => h i hi q hq⟩

end

/-! ### The product -/

theorem getElem?_tileRows {α : Type} (n i : Nat) (g : Nat → α) : ((List.range n).map g)[i]? = if i < n then some (g i) else none := by
  by_cases h : i < n <;> simp [h]

/-- What one group does to an element of the accumulator. -/
theorem mmaGroup_eq {u : State} {op : Nat} {fa fb : Fmt} {ta tb : Fin 8} (hcwA : fa.cw * (512 / fa.cw) = 512)
    (hcwB : fb.cw * (512 / fb.cw) = 512) (halongA : fa.scale ≠ 0 → fa.along = 0) (halongB : fb.scale ≠ 0 → fb.along = 0) (i j g x : Nat) :
    (if groupOn op (u.cx.tileOp ta fa) i (0 + g) then (f32 (addNum (d32 x) (groupSum ((((List.range (tcCols u.cx.tc[ta])).map (fun k =>
        (valA op (u.cx.tileOp ta fa) i k, tileVal fb (scaleFmt u.cx.fmt fb) u.cx.t[tb] u.cx.scale[tb] j k))).drop (16 * g)).take 16) none)).1).1
      else x) =
    if op = 2 ∧ (bitsOf u.cx.tc[ta] 63 32).testBit (i / 16 * (512 / fa.cw / 16) + g) = false then x
    else (roundF fp32 .rne (addNum (decodeNum fp32 x)
      (exactSum (u.groupProducts op fa fb ta tb (colsOf u.cx.tc[ta]) i j g))).1).1 := by
  have hproducts : groupSum ((((List.range (tcCols u.cx.tc[ta])).map (fun k => (valA op (u.cx.tileOp ta fa) i k,
      tileVal fb (scaleFmt u.cx.fmt fb) u.cx.t[tb] u.cx.scale[tb] j k))).drop (16 * g)).take 16) none =
      exactSum (u.groupProducts op fa fb ta tb (colsOf u.cx.tc[ta]) i j g) := by
    rw [groupSum_positions]
    simp only [valA_eq hcwA halongA, tileVal, tileValAt_eq_tileNum hcwB halongB]
    rfl
  rw [hproducts, Nat.zero_add]
  by_cases hoff : groupOn op (u.cx.tileOp ta fa) i g = false
  · rw [if_pos (groupOn_eq_false.1 hoff), hoff]
    rfl
  · rw [if_neg (mt groupOn_eq_false.2 hoff), if_pos (eq_true_of_ne_false hoff)]
    rfl

theorem mmaCore_productOf {u : State} {op : Nat} {fa fb : Fmt} {ta tb : Fin 8} (hcwA : fa.cw * (512 / fa.cw) = 512)
    (hcwB : fb.cw * (512 / fb.cw) = 512) (halongA : fa.scale ≠ 0 → fa.along = 0) (halongB : fb.scale ≠ 0 → fb.along = 0)
    (old : BitVec 131072) : u.ProductOf op fa fb ta tb old (mmaCore op (u.cx.tileOp ta fa) (u.cx.tileOp tb fb) old) := by
  intro i j hi hj
  rw [mmaCore, elemAt_accumulator _ hi hj]
  simp only [getElem?_tileRows]
  by_cases hin : i < rowsOf u.cx.tc[ta] ∧ j < rowsOf u.cx.tc[tb]
  · have hia : i < tcRows (u.cx.tileOp ta fa).tc := hin.1
    have hjb : j < tcRows (u.cx.tileOp tb fb).tc := hin.2
    simp only [hia, hjb, if_true, if_pos hin]
    rw [accElem_eq_foldl, List.zip_map']
    exact congrArg (fun step => (List.range ((colsOf u.cx.tc[ta] + 15) / 16)).foldl step (elemAt old 32 (64 * i + j)) % 2 ^ 32)
      (funext fun x => funext fun g => mmaGroup_eq hcwA hcwB halongA halongB i j g x)
  · have hout : ¬ (i < tcRows (u.cx.tileOp ta fa).tc ∧ j < tcRows (u.cx.tileOp tb fb).tc) := hin
    rw [if_neg hin]
    by_cases hia : i < tcRows (u.cx.tileOp ta fa).tc
    · have hjb : ¬ j < tcRows (u.cx.tileOp tb fb).tc := fun h => hout ⟨hia, h⟩
      simp only [hia, hjb, if_true, if_false]
      exact Nat.mod_eq_of_lt (elemAt_lt old 32 _)
    · simp only [hia, if_false]
      exact Nat.mod_eq_of_lt (elemAt_lt old 32 _)

end Sys2Proof.Machine
end

section
/-! PROOF. O40: the steps of MMAM (R217, R218). -/

namespace Sys2Proof.Machine

/-! ### A fetch -/

theorem State.tileChecks_eq (s : State) (a : Word) (f : Fmt) :
    s.tileChecks .read a (f.scale != 0) = s.localChecks .read a (fetchWords f) := by
  rw [State.tileChecks, fetchWords]
  by_cases h : f.scale = 0 <;> simp [h]

theorem scaleUsed_iff (f : Fmt) (j : Nat) : scaleUsed f j = true ↔ scaleByteUsed f j := by
  rw [scaleUsed, scaleByteUsed]
  split <;> exact decide_eq_true_iff

theorem elemAt_cleanScale (f : Fmt) (y : BitVec 4096) {j : Nat} (hj : j < 512) :
    elemAt (cleanScale f y) 8 j = if scaleUsed f j then elemAt y 8 j else 0 := by
  rw [cleanScale, elemAt_ofElems _ _ _ _ (by simp)]
  by_cases h : scaleUsed f j = true
  · simpa [hj, h] using elemAt_lt y 8 j
  · simp [hj, h]

section
variable {s : State} {f : Fmt} {t : Fin 8} {a : Nat} {x : BitVec 32768} {y : BitVec 4096} (h : s.fetchedTile f t a x y)
include h

theorem State.fetchedTile.data : s.localBits 32768 a = x := State.localBits_eq (n := 4096) h.1

theorem State.fetchedTile.scales : s.fetchScale f t a = y := by
  obtain ⟨-, hkept, hfetched⟩ := h
  rw [State.fetchScale]
  by_cases hs : f.scale = 0
  · rw [if_pos hs, hkept hs]
  · rw [if_neg hs]
    refine eq_of_bytes (n := 512) fun j hj => ?_
    obtain ⟨hused, hunused⟩ := hfetched hs j hj
    rw [elemAt_cleanScale f _ hj]
    by_cases hu : scaleUsed f j = true
    · rw [if_pos hu, hused ((scaleUsed_iff f j).1 hu)]
      exact State.elemAt_localBits (n := 512) hj
    · rw [if_neg hu, hunused (mt (scaleUsed_iff f j).2 hu)]

end

/-! ### One step -/

section
variable {s : State} {p : Pfx} {m : MmamRun} (hrun : s.me.run = .waiting (.mmam p)) (hm : s.me.mmam = some m)
  (hdone : m.done < mmKn m.desc) {pa pb : Word} (hpa : pa = kBlock (mmAbase m.desc) (mmAstr m.desc) m.kb)
  (hpb : pb = kBlock (mmBbase m.desc) (mmBstr m.desc) m.kb)
include hrun hm hdone hpa hpb

theorem mmamStep_fetches : exec .mmamStep s = match s.localChecks .read pa (fetchWords m.fmtA) with
    | .wait => .next (s.enqueue s.cur .mmamStep)
    | .trap c f => .next (s.mmamFault c f)
    | .ok => match s.localChecks .read pb (fetchWords m.fmtB) with
      | .wait => .next (s.enqueue s.cur .mmamStep)
      | .trap c f => .next (s.mmamFault c f)
      | .ok => .next (s.mmamStep m pa.toNat pb.toNat) := by
  show execMmamStep s = _
  subst hpa hpb
  simp only [execMmamStep, hrun, hm, if_neg (Nat.ne_of_lt hdone), State.tileChecks_eq] <;> rfl

theorem mmamStep_multiplies (ha : ∀ i, i < fetchWords m.fmtA → s.localCheck .read (pa + BitVec.ofNat 64 (8 * i)) = .ok)
    (hb : ∀ i, i < fetchWords m.fmtB → s.localCheck .read (pb + BitVec.ofNat 64 (8 * i)) = .ok) :
    exec .mmamStep s = .next (s.mmamStep m pa.toNat pb.toNat) := by
  rw [mmamStep_fetches hrun hm hdone hpa hpb, State.localChecks_ok ha, State.localChecks_ok hb]

/-- The doubleword that fails its check is the first of A's fetch that does, or of B's when A's passes. -/
theorem mmamStep_faults {i c : Nat} {f q : Word} (hq : (q = pa ∧ i < fetchWords m.fmtA) ∨ (q = pb ∧ i < fetchWords m.fmtB ∧
      ∀ i', i' < fetchWords m.fmtA → s.localCheck .read (pa + BitVec.ofNat 64 (8 * i')) = .ok))
    (hbefore : ∀ i', i' < i → s.localCheck .read (q + BitVec.ofNat 64 (8 * i')) = .ok)
    (h : s.localCheck .read (q + BitVec.ofNat 64 (8 * i)) = .trap c f) : exec .mmamStep s = .next (s.mmamFault c f) := by
  rw [mmamStep_fetches hrun hm hdone hpa hpb]
  rcases hq with ⟨rfl, hi⟩ | ⟨rfl, hi, ha⟩
  · rw [State.localChecks_trap hi hbefore h]
  · rw [State.localChecks_ok ha, State.localChecks_trap hi hbefore h]

end

theorem State.mmamFault_holds (s : State) (c : Nat) (f : Word) : ∃ n,
    s.mmamFault c f = (s.trap s.cur { cause := c, faddr := f }).setMe { (s.trap s.cur { cause := c, faddr := f }).me with faultHold := n } ∧
    ((s.trap s.cur { cause := c, faddr := f }).me.keptRecs ≠ [] → n = (s.trap s.cur { cause := c, faddr := f }).me.keptRecs.length) :=
  ⟨_, rfl, fun h => if_neg (mt List.isEmpty_iff.1 h)⟩

/-- The accumulator that a step leaves: a stale first step keeps the producer's elements outside the product (R98, R207). -/
def stepAcc (m : MmamRun) (A B : TileOp) (acc : BitVec 131072) : BitVec 131072 :=
  match m.base with
  | none => mmaCore m.op A B acc
  | some y => mmaInto A.tc B.tc (mmaCore m.op A B y) acc

theorem elemAt_stepAcc {u : State} {m : MmamRun} {ta tb : Fin 8} {A B : TileOp} {acc : BitVec 131072} {fa fb : Fmt}
    (hA : A.tc = u.cx.tc[ta]) (hB : B.tc = u.cx.tc[tb])
    (hproduct : u.ProductOf m.op fa fb ta tb (m.base.getD acc) (mmaCore m.op A B (m.base.getD acc))) {i j : Nat} (hi : i < 64) (hj : j < 64) :
    elemAt (stepAcc m A B acc) 32 (64 * i + j) = if i < rowsOf u.cx.tc[ta] ∧ j < rowsOf u.cx.tc[tb]
      then elemAt (mmaCore m.op A B (m.base.getD acc)) 32 (64 * i + j) else elemAt acc 32 (64 * i + j) := by
  have hrows : (decide (i < tcRows A.tc) && decide (j < tcRows B.tc)) = true ↔ i < rowsOf u.cx.tc[ta] ∧ j < rowsOf u.cx.tc[tb] := by
    rw [hA, hB, Bool.and_eq_true, decide_eq_true_eq, decide_eq_true_eq]
    rfl
  rw [stepAcc]
  cases hbase : m.base with
  | none =>
    rw [hbase] at hproduct
    by_cases hin : i < rowsOf u.cx.tc[ta] ∧ j < rowsOf u.cx.tc[tb]
    · rw [if_pos hin]
      rfl
    · rw [if_neg hin]
      exact (hproduct i j hi hj).trans (if_neg hin)
  | some y =>
    simp only [mmaInto, elemAt_accumulator _ hi hj, hrows, accCode, Option.getD_some]
    split <;> exact Nat.mod_eq_of_lt (elemAt_lt _ 32 _)

/-- Containers of these widths fill a row of 64 bytes. -/
theorem containers_fill {w : Nat} (h : w ∈ [4, 8, 16]) : w * (512 / w) = 512 := by
  simp only [List.mem_cons, List.not_mem_nil, or_false] at h
  rcases h with rfl | rfl | rfl <;> rfl

/-- Two tiles fetched into an enclave's state, then one accumulator replaced by what it was. -/
theorem Ctx.setTiles_setAcc (c : Ctx) (ta tb : Fin 8) (n : Fin 4) (xa xb : BitVec 32768) (ya yb : BitVec 4096)
    (f : BitVec 131072 → BitVec 131072) :
    (let k := (((c.setTile ta xa).setScale ta ya).setTile tb xb).setScale tb yb
     { k with acc := k.acc.set n (f k.acc[n]) }) =
      { c with t := (c.t.set ta xa).set tb xb, scale := (c.scale.set ta ya).set tb yb, acc := c.acc.set n (f c.acc[n]) } := by
  simp only [Ctx.setTile, Ctx.setScale]

/-- A tile as a step of MMAM fetches it. -/
def State.fetchedOperand (s : State) (tc : Word) (f g : Fmt) (t : Fin 8) (addr : Nat) : TileOp :=
  { tc := tc, f := f, g := g, x := s.localBits 32768 addr, sc := s.fetchScale f t addr }

/-- The core after a step that multiplies the operands A and B. -/
def State.stepped (s : State) (m : MmamRun) (A B : TileOp) : State :=
  (s.setMe { s.me.setCx { s.cx with
      t := (s.cx.t.set (mmTa m.desc) A.x).set (mmTb m.desc) B.x
      scale := (s.cx.scale.set (mmTa m.desc) A.sc).set (mmTb m.desc) B.sc
      acc := s.cx.acc.set m.acc (stepAcc m A B s.cx.acc[m.acc]) }
    with mmam := some { m with kb := m.kb + 1, done := m.done + 1, base := none } }).enqueue s.cur .mmamStep

theorem State.mmamStep_operands {s : State} {m : MmamRun} {a b : Nat} {A B : TileOp}
    (hA : s.fetchedOperand (mmTca m.desc) m.fmtA m.sfmtA (mmTa m.desc) a = A)
    (hB : s.fetchedOperand (mmTcb m.desc) m.fmtB m.sfmtB (mmTb m.desc) b = B) :
    s.mmamStep m a b = if m.op = 1 && badMeta A.tc A.x then s.trap s.cur { cause := Cause.msparse } else s.stepped m A B := by
  rw [State.stepped, ← Ctx.setTiles_setAcc, ← State.setCx_setMmam]
  subst hA hB
  rfl

/-- Of two entries written, the first keeps its value when the second is another one. -/
theorem getElem_set_set_first {α : Type} (v : Vector α 8) {i j : Fin 8} (h : i ≠ j) (x y : α) : ((v.set i x).set j y)[i] = x := by
  have hval : (j : Nat) ≠ i := fun e => h (Fin.ext e.symm)
  simp [hval]

section
variable {s : State} {m : MmamRun} {ta tb : Fin 8} {a b : Nat} {xa xb : BitVec 32768} {ya yb : BitVec 4096} {c : Ctx} {u : State}
  (hc : c = { s.cx with t := (s.cx.t.set ta xa).set tb xb, scale := (s.cx.scale.set ta ya).set tb yb })
  (hu : u = s.setMe (s.me.setCx { c with tc := (s.cx.tc.set ta (dword m.desc 3)).set tb (dword m.desc 4) }))
include hc hu

theorem operandA_eq (hne : ta ≠ tb) (hsA : m.sfmtA = scaleFmt s.cx.fmt m.fmtA) :
    u.cx.tileOp ta m.fmtA = { tc := dword m.desc 3, f := m.fmtA, g := m.sfmtA, x := xa, sc := ya } := by
  have hcx : u.cx = { c with tc := (s.cx.tc.set ta (dword m.desc 3)).set tb (dword m.desc 4) } := hu ▸ State.cx_setCx s _
  rw [hcx, Ctx.tileOp, hsA]
  subst hc
  simp only [getElem_set_set_first _ hne]

theorem operandB_eq (hsB : m.sfmtB = scaleFmt s.cx.fmt m.fmtB) :
    u.cx.tileOp tb m.fmtB = { tc := dword m.desc 4, f := m.fmtB, g := m.sfmtB, x := xb, sc := yb } := by
  have hcx : u.cx = { c with tc := (s.cx.tc.set ta (dword m.desc 3)).set tb (dword m.desc 4) } := hu ▸ State.cx_setCx s _
  rw [hcx, Ctx.tileOp, hsB]
  subst hc
  simp

variable (hta : ta = mmTa m.desc) (htb : tb = mmTb m.desc) (hA : s.fetchedTile m.fmtA ta a xa ya) (hB : s.fetchedTile m.fmtB tb b xb yb)
  (hne : ta ≠ tb) (hsA : m.sfmtA = scaleFmt s.cx.fmt m.fmtA) (hsB : m.sfmtB = scaleFmt s.cx.fmt m.fmtB)
include hta htb hA hB hne hsA hsB

theorem State.mmamStep_fetched : s.mmamStep m a b =
    if m.op = 1 && badMeta (u.cx.tileOp ta m.fmtA).tc (u.cx.tileOp ta m.fmtA).x then s.trap s.cur { cause := Cause.msparse }
    else s.stepped m (u.cx.tileOp ta m.fmtA) (u.cx.tileOp tb m.fmtB) := by
  refine State.mmamStep_operands ?_ ?_
  · rw [operandA_eq hc hu hne hsA, State.fetchedOperand, ← hta, hA.data, hA.scales]
    rfl
  · rw [operandB_eq hc hu hsB, State.fetchedOperand, ← htb, hB.data, hB.scales]
    rfl

theorem State.mmamStep_msparse (hop : m.op = 1) (hbad : ¬ u.goodMeta ta) : s.mmamStep m a b = s.trap s.cur { cause := 0x52 } := by
  have hmeta : badMeta (u.cx.tileOp ta m.fmtA).tc (u.cx.tileOp ta m.fmtA).x = true := eq_true_of_ne_false (mt State.goodMeta_iff.2 hbad)
  rw [State.mmamStep_fetched hc hu hta htb hA hB hne hsA hsB, hop, hmeta]
  rfl

theorem State.mmamStep_goes (hgood : m.op = 1 → u.goodMeta ta) : s.mmamStep m a b =
    (s.setMe { s.me.setCx { c with acc := s.cx.acc.set m.acc (stepAcc m (u.cx.tileOp ta m.fmtA) (u.cx.tileOp tb m.fmtB) s.cx.acc[m.acc]) }
      with mmam := some { m with kb := m.kb + 1, done := m.done + 1, base := none } }).enqueue s.cur .mmamStep := by
  have hmeta : (m.op = 1 && badMeta (u.cx.tileOp ta m.fmtA).tc (u.cx.tileOp ta m.fmtA).x) = false := by
    rw [Bool.and_eq_false_imp, decide_eq_true_eq]
    exact fun hop => State.goodMeta_iff.1 (hgood hop)
  rw [State.mmamStep_fetched hc hu hta htb hA hB hne hsA hsB, hmeta, State.stepped, operandA_eq hc hu hne hsA, operandB_eq hc hu hsB]
  subst hta htb hc
  rfl

end

end Sys2Proof.Machine
end


section
/-! PROOF. O40: the conversions and MMAM, clause by clause. -/

open Sys2Proof Sys2Proof.Machine in
/-- Settles O40: the conversions by the rows and blocks that they write, MMAM's start by its checks in order, its steps by the product of
the fetched tiles, and PROG by what a trap leaves of the banks. -/
theorem matrixConversionsAndMacro : Obligations.MatrixConversionsAndMacro := by
  unfold Obligations.MatrixConversionsAndMacro
  intro s p d r a
  refine ⟨State.fromAcc_tileTraps (exec_acvt s p d r), State.fromAcc_tileTraps (exec_tqnt s p d r), ?conversions, ?start, ?steps, ?prog⟩
  case conversions =>
    intro f off src hgood hoff hsrc hlayout
    obtain rfl : off = partStart s f := hoff
    have hsource : ∀ i k, accSource s.cx.tc[d] s.cx.acc[r] (partStart s f) i k = src i k := fun i k =>
      (accSource_eq hlayout _ _ i k).trans (hsrc i k).symm
    refine ⟨fun h => State.fromAcc_mtag (exec_acvt s p d r) hgood (h.imp_right fun hs => by simp [hs]),
      fun h => State.fromAcc_mtag (exec_tqnt s p d r) hgood (h.imp_right fun hs => by simp [hs]), fun hdense => ⟨fun hpart =>
      ⟨fun hs => State.fromAcc_part (exec_acvt s p d r) hgood hdense (by simp [hs]) hpart,
        fun hs => State.fromAcc_part (exec_tqnt s p d r) hgood hdense (by simp [hs]) hpart⟩, fun h16 hother => ?_⟩⟩
    have hpart : ¬ partBad s d f := by
      rintro (⟨hcw, hbad⟩ | ⟨hcw, hbad⟩)
      · exact Nat.not_le.2 hbad (h16 hcw)
      · exact hbad.elim (absurd (hother hcw).1) fun hcols => Nat.not_le.2 hcols (hother hcw).2
    exact ⟨fun hs => acvt_converts hgood hdense hs hpart hsource, fun hs => tqnt_quantises hgood hdense hs hpart hsource⟩
  case start =>
    intro addr rec8 op ua ub haddr halign hua hub hok hrec hop
    subst haddr hua hub hop
    refine ⟨exec_mmam_mdesc halign hok hrec, fun hbal => ⟨fun hdesc h => exec_mmam_tcfg halign hok hrec hbal hdesc h, fun hdesc h =>
      exec_mmam_tcfg halign hok hrec hbal hdesc (h.imp tcfgBad_of_class tcfgBad_of_class), fun hdesc ha hb => ?_,
      fun hdesc ha hb fa fb hfa hfb htags => ?_⟩⟩
    · have hstart := exec_mmam_start (p := p) (r := r) halign hok hrec hbal hdesc ha hb
      exact ⟨mmam_tileTraps_first hstart, fun fa hfa => ⟨mmam_tileTraps_second hstart hfa, fun fb hfb => mmam_tagTraps hstart hfa hfb⟩⟩
    · exact mmam_starts (exec_mmam_start (p := p) (r := r) halign hok hrec hbal hdesc ha hb) hfa hfb htags
  case steps =>
    intro m hrun hm
    refine ⟨fun hdone hok _ halign hwf hout => ?_, fun hdone ta tb pa pb hta htb hpa hpb => ⟨fun ha hb xa xb ya yb c u hA hB hc hu hne hcwA hcwB
      halongA halongB hsA hsB => ?_, fun i x f q hq hbefore h => ?_⟩⟩
    · obtain ⟨t, hexec, hframe, hbytes⟩ := mmamStep_stores hrun hm hdone hok halign hwf hout
      exact ⟨t, hexec, hframe, fun j hj _ => hbytes j hj⟩
    · have hexec := mmamStep_multiplies hrun hm hdone hpa hpb ha hb
      have hproduct := mmaCore_productOf (u := u) (op := m.op) (ta := ta) (tb := tb) (containers_fill hcwA) (containers_fill hcwB) halongA halongB
        (m.base.getD s.cx.acc[m.acc])
      refine ⟨fun hop hbad => ?_, fun hgood => ⟨_, _, hproduct, fun i j hi hj => elemAt_stepAcc rfl rfl hproduct hi hj, ?_⟩⟩
      · rw [hexec, State.mmamStep_msparse hc hu hta htb hA hB hne hsA hsB hop hbad]
      · rw [hexec, State.mmamStep_goes hc hu hta htb hA hB hne hsA hsB hgood]
    · obtain ⟨n, hfault, hhold⟩ := s.mmamFault_holds x f
      exact ⟨n, (mmamStep_faults hrun hm hdone hpa hpb hq hbefore h).trans (congrArg Host.Outcome.next hfault), hhold⟩
  case prog =>
    intro m e t hm he hst hwr hwf j hj
    exact trap_stores_prog t hm he hst hwr hwf hj
end


section
/-! PROOF. O59 fails: the table of banks is a list, and a rebuild revokes every bank for which some line of it names a core that leaves,
also where the bank's first line, which says how the bank stands, names a core that stays. -/

namespace Sys2Proof.Machine

/-- PART_REBUILD of partition 0 without core 1. -/
def rebuildPayload : List Byte := [0x11, 0, 0, 0, 0, 0, 0, 0, 2] ++ List.replicate 127 0

def rebuildRequest : HostReq := ⟨0, some 0, 9, .vendor 3 0x1234 rebuildPayload⟩

/-- Partition 0, whose idle cores 0 and 1 hold no strand. -/
def rebuiltPart : Part := { Part.empty with members := [0, 1] }

/-- Bank 5 is attached to core 0; a second line for it names core 1. -/
def rebuildState : State :=
  { State.reset with
    cores := [(0, { Core.reset with run := .idle, part := 0 }), (1, { Core.reset with run := .idle, part := 0, lnum := 1 })]
    parts := [(0, rebuiltPart)]
    banks := [(5, { st := .attached 0 0 0, owner := 0 }), (5, { st := .attached 1 0 0, owner := 0 })]
    zen := { Zenith.reset with ready := true, vendorId := 0x1234, inbox := [.req rebuildRequest], sessions := [(0, ⟨0, 9, true, 0, 0⟩)] } }

theorem rebuildState_asks : rebuildState.vendorAsks rebuildRequest [] 0x11 136 rebuildPayload :=
  ⟨⟨rfl, rfl⟩, rfl, by decide +kernel, by decide +kernel, by decide +kernel⟩

theorem rebuildState_onManagement : rebuildState.onManagement rebuildRequest := ⟨rfl, 0, ⟨0, 9, true, 0, 0⟩, ⟨rfl, rfl, rfl, rfl⟩, rfl⟩

/-- The rebuild revokes the bank, which scrubs. -/
theorem rebuild_scrubs : ∀ t, exec .partRebuild rebuildState = .next t → (t.bank 5).st = .scrubbing := by
  intro t h
  have key : (match exec .partRebuild rebuildState with
    | .next u => (u.bank 5).st
    | _ => .free) = .scrubbing := by decide +kernel
  rw [h] at key
  exact key

end Sys2Proof.Machine

open Sys2Proof Sys2Proof.Machine in
/-- Refutes O59: PART_REBUILD is said to leave the banks of the cores that stay as they are in every state; where the table has a
second line for such a bank, which names a core that leaves, the bank scrubs. -/
theorem not_managementRequests : ¬ Obligations.ManagementRequests := by
  unfold Obligations.ManagementRequests
  rintro ⟨-, requests, -⟩
  obtain ⟨-, rebuilds, -⟩ := requests rebuildState rebuildRequest [] rebuildPayload 0
  obtain ⟨-, done⟩ := rebuilds rebuildState_asks (by decide) (by decide) rebuildState_onManagement rebuiltPart rfl
  obtain ⟨u, stay, hreply, -, -, -, hstay, -, -, -, -, -, -, -, -, -, -, hbanks⟩ := done (by decide +kernel) (by decide)
  have hmember : 0 ∈ stay := (hstay 0).2 ⟨by decide, by decide +kernel, by decide⟩
  have hkept : u.bank 5 = rebuildState.bank 5 := hbanks 5 0 0 0 hmember (by decide +kernel)
  have hscrubs := rebuild_scrubs _ hreply
  change (u.bank 5).st = .scrubbing at hscrubs
  rw [hkept] at hscrubs
  exact absurd hscrubs (by decide +kernel)
end
